-- ==== Sys2Proof/Word.lean ====
section
/-!
DEFINITION. The words of the module: bytes, the word widths of Ikixa and of the manual's
records, and the 512-bit vector register.
-/
namespace Sys2Proof

abbrev Byte := BitVec 8
abbrev W16 := BitVec 16
abbrev W32 := BitVec 32
abbrev W64 := BitVec 64
/-- A vector register (R205). -/
abbrev V512 := BitVec 512

/-- A sparse store: key and value pairs, keys strictly rising, no pair holding the value an
unlisted key reads as. -/
abbrev Tab (α : Type) := List (Nat × α)

end Sys2Proof
end

