-- ==== Sys2Proof/Syntax.lean ====
section
/-!
DEFINITION. The commands the module takes: one constructor of `Instr` for each row of the
opcode table, and the operand types they carry.
-/
namespace Sys2Proof

/-! ### Operands of Ikixa syllables (R221 to R224) -/

/-- Where a syllable issues: the core (0 to 255 lighter, 256 + k control core k), whether it
takes the second unit of its kind, and its stop bit (R221). -/
structure Syl where
  core : Nat
  u1   : Bool
  stop : Bool
  deriving DecidableEq, Repr

/-- MEM format (Table 7.9), with the scale code of opcode bits [2:0]. -/
structure MemF where
  sc   : BitVec 3
  rt   : BitVec 6
  ra   : BitVec 6
  mode : BitVec 2
  off6 : BitVec 6
  deriving DecidableEq, Repr

/-- TRI format. -/
structure TriF where
  rd : BitVec 6
  ra : BitVec 6
  rb : BitVec 6
  fn : BitVec 2
  deriving DecidableEq, Repr

/-- IMM format. -/
structure ImmF where
  rd   : BitVec 6
  ra   : BitVec 6
  imm8 : BitVec 8
  deriving DecidableEq, Repr

/-- LONG format. -/
structure LongF where
  rd    : BitVec 6
  imm14 : BitVec 14
  deriving DecidableEq, Repr

/-- CMP format. -/
structure CmpF where
  ra  : BitVec 6
  rb  : BitVec 6
  bd8 : BitVec 8
  deriving DecidableEq, Repr

/-- VEC format. -/
structure VecF where
  vd : BitVec 5
  va : BitVec 5
  vb : BitVec 5
  et : BitVec 3
  fn : BitVec 2
  deriving DecidableEq, Repr

/-- VSC format. -/
structure VscF where
  vd : BitVec 5
  va : BitVec 5
  rb : BitVec 6
  et : BitVec 3
  fn : BitVec 1
  deriving DecidableEq, Repr

/-- BIT format. -/
structure BitF where
  bn   : BitVec 12
  off8 : BitVec 8
  deriving DecidableEq, Repr

/-- BLG format. -/
structure BlgF where
  bd  : BitVec 12
  tt  : BitVec 4
  rsv : BitVec 4
  deriving DecidableEq, Repr

/-- XOP format. -/
structure XopF where
  ra  : BitVec 6
  rb  : BitVec 6
  sub : BitVec 8
  deriving DecidableEq, Repr

/-! ### Operands of host commands -/

/-- What every admin command carries: the function it arrived on (0 the physical function,
n the virtual function n) and its command identifier. -/
structure Adm where
  fn  : Nat
  cid : Nat
  deriving DecidableEq, Repr

/-- The I/O command a submission queue entry names (Table 2.3). -/
inductive IoKind where
  | flush | write | read | compare | verify | writeZeroes | writeUncorrectable
  | datasetManagement | copy
  | resvRegister | resvReport | resvAcquire | resvRelease
  | zoneOpen | zoneClose | zoneFinish | zoneReset | zoneOffline | zoneReport | zoneAppend
  | executeProgram | memoryRead | memoryWrite | customsScan | tallyLoad | tallySearch
  deriving DecidableEq, Repr

/-- A submission queue entry of an I/O queue: its command, identifier, namespace, first LBA and
number of LBAs; the source ranges of a Copy or the ranges of a Dataset Management; the Select All,
Deallocate or wait flag of the command; and command dwords 10 to 15 for the commands this manual
lays out. -/
structure Sqe where
  kind   : IoKind
  cid    : Nat
  nsid   : Nat
  slba   : Nat
  nlb    : Nat
  ranges : List (Nat × Nat)
  flag   : Bool
  format : Nat
  dw2    : W32
  dw3    : W32
  dw     : List W32
  deriving DecidableEq, Repr

/-- The host-specified part of Namespace Management (create) and the vendor bytes of Table 3.2. -/
structure NsCreate where
  nsze   : Nat
  ncap   : Nat
  flbas  : Nat
  shared : Bool
  zoned  : Bool
  mirror : Byte
  home   : Byte
  rsv    : List Byte
  deriving DecidableEq, Repr

/-- A map unit of a namespace. -/
structure UnitRef where
  nsid : Nat
  unit : Nat
  deriving DecidableEq, Repr

/-- Where the media manager put one map unit: its flash address (bits [40:0] of R90) and whether
it lies in landing or is packed. -/
structure Placement where
  nsid   : Nat
  unit   : Nat
  addr   : Nat
  landed : Bool
  packed : Bool
  deriving DecidableEq, Repr

/-- How the flash program of a write ended. -/
inductive ProgramResult where
  | ok (dests : List Placement)
  | failed (block : Nat)
  deriving DecidableEq, Repr

/-- How one page read ended: the address, the recovery ladder step that decoded it (none: no step
did) and the bits corrected. -/
structure PageRead where
  addr : Nat
  step : Option Nat
  bits : Nat
  deriving DecidableEq, Repr

/-- A relocation's copy: where its units were put, and how the pages they came from were read. -/
structure RelocCopy where
  dests : List Placement
  reads : List PageRead
  deriving DecidableEq, Repr

/-- A port of the harbour master (Table 6.3) and the requester's index in its group. -/
structure PostPort where
  port  : Nat
  index : Nat
  deriving DecidableEq, Repr

/-- The action of a reservation command. -/
inductive ResvAction where
  | register (key : W64) | unregister | replace (key : W64)
  | acquire (rtype : Nat) | preempt (key : W64) (rtype : Nat) | preemptAbort (key : W64) (rtype : Nat)
  | release (rtype : Nat) | clear
  deriving DecidableEq, Repr

/-- What FORM finds on the partner (R365): its state is Single, it accepts, the check value of its
module key, geometry, firmware revision value, NSIDs, whether it holds key slots, programs or leases,
and its serial. -/
structure PartnerInfo where
  single   : Bool
  accept   : Bool
  kcv      : Option Nat
  slots    : Nat
  pages    : Nat
  spb      : Nat
  firmware : Nat
  nsids    : List Nat
  clean    : Bool
  serial   : List Byte
  deriving DecidableEq, Repr

/-- A requester of the berth pool: its port and index (Table 5.2) and, where the port serves more
than one owner, the thread or docket entry it acts for. -/
structure Requester where
  port  : Nat
  index : Nat
  owner : Nat
  deriving DecidableEq, Repr

/-- A berth request record (Table 5.4), as its five words. -/
structure BerthReq where
  w0 : W64
  w1 : W64
  w2 : W64
  w3 : W64
  w4 : W64
  deriving DecidableEq, Repr

/-- The way a dictionary access reaches the module (R23). -/
inductive Path where
  | tunnel
  | synmon (port : Nat)
  | mi (port : Nat)
  | firmware
  deriving DecidableEq, Repr

/-- A hawser message header (Table 14.4) without its type and reserved bytes. -/
structure MsgHdr where
  len   : Nat
  seq   : Nat
  nsid  : Nat
  aux32 : Nat
  aux64 : Nat
  deriving DecidableEq, Repr

/-- The completion statuses the manual names; `vendor` is the vendor code of Table 2.13. -/
inductive Status where
  | success
  | invalidOpcode | invalidField | dataTransferError | internalError
  | abortRequested | sqDeleted | commandSequenceError | invalidNamespaceOrFormat | namespaceNotReady
  | lbaOutOfRange | capacityExceeded | invalidFormat
  | completionQueueInvalid | invalidQueueIdentifier | invalidQueueSize | abortLimitExceeded
  | asyncEventLimitExceeded | invalidFirmwareSlot | invalidFirmwareImage
  | invalidInterruptVector | invalidLogPage | invalidQueueDeletion
  | featureNotSaveable | featureNotChangeable | firmwareActivationProhibited
  | nsInsufficientCapacity | nsIdUnavailable | nsAlreadyAttached | nsIsPrivate | nsNotAttached
  | invalidControllerList | selfTestInProgress | invalidControllerIdentifier | invalidSecondaryState
  | invalidControllerResources | invalidResourceIdentifier | sanitizeInProgress | sanitizeFailed
  | invalidProgramData | insufficientProgramResources | programInUse
  | invalidProgramIndex | programNotActivated
  | invalidMemoryRangeSet | invalidMemoryNamespace | insufficientResources
  | invalidProgramType | noProgram | programsExceeded | programBytesExceeded
  | invalidRangeSetId | rangesExceeded | rangeSetsExceeded | rangeSetInUse | overlappingRanges
  | unrecoveredReadError | compareFailure | writeFault | reservationConflict
  | namespaceWriteProtected | anaInaccessible | anaTransition
  | zoneBoundaryError | zoneFull | zoneReadOnly | zoneOffline | zoneInvalidWrite
  | tooManyActiveZones | tooManyOpenZones | invalidZoneTransition
  | commandSizeLimitExceeded
  | vendor (code : Nat)
  deriving DecidableEq, Repr

/-- A Synmon frame as it stands on the bus, from the destination address on. -/
structure Frame where
  bytes : List Byte
  deriving DecidableEq, Repr

/-- An admin command tunnelled through the management interface: its opcode, namespace and dwords 10
and 11. -/
structure MiAdmin where
  opcode : Nat
  nsid   : Nat
  dw10   : W32
  dw11   : W32
  deriving DecidableEq, Repr

/-- What a boot finds: whether every rail is good within its bound, logbook sections that fail their check,
sections whose last commit was lost between its two steps, whether the journal pages that pass their check
are of this version and of known records, and the addresses of checkpoint images and journal pages whose
check fails. -/
structure BootIn where
  rails  : Bool
  failed : List Nat
  torn   : List Nat
  mapOk  : Bool
  badPages : List Nat := []
  deriving DecidableEq, Repr

/-- One constructor for each row of the opcode table. -/
inductive Instr where
  | powerOn (b : BootIn)
  | powerUpRailTimeout (slot : Nat)
  | powerUpRetry (b : BootIn)
  | loneStart
  | refclkLoss
  | refclkReturn (b : BootIn)
  | modRstNAssert
  | modRstNDeassert (b : BootIn)
  | fenceInAssert
  | fenceInDeassert (b : BootIn)
  | watchdogRenew
  | watchdogExpiry (b : BootIn)
  | perstNAssert (port : Nat)
  | perstNDeassert (port : Nat)
  | inputLoss
  | dumpComplete (bytes us : Nat) (b : BootIn)
  | powerRestart (b : BootIn)
  | vavgUpdate (mv10 : Nat)
  | railFault (dom : Nat)
  | pilotLoopEval (slot raw x : Nat)
  | governorSample (milliwatt : Nat)
  | governorPause
  | clusterPowerOff (cluster : Nat)
  | clusterPowerOn (cluster : Nat)
  | d2PowerOff
  | d2PowerOn
  | quayPowerOff (quay : Nat)
  | quayPowerOn (quay : Nat)
  | holdupMeasurementStart (v1 : Nat)
  | holdupMeasurementEnd (v2 energyUj : Nat)
  | thermalShutdown (sensor : Nat) (reading : Int)
  | temperatureThresholdCrossed (sensor : Nat) (reading : Int)
  | sqTailDoorbell (fn qid tail : Nat)
  | cqHeadDoorbell (fn qid head : Nat)
  | commandFetch (fn sqid docket : Nat) (sqe : Sqe)
  | globalFetchResume
  | lockStallRelease (docket : Nat)
  | writeCommit (docket : Nat)
  | ackLapse (docket : Nat)
  | flashProgramComplete (docket : Nat) (res : ProgramResult)
  | flashReadComplete (docket : Nat) (pages : List PageRead)
  | flashEraseComplete (block : Nat) (ok : Bool) (replacement : Nat)
  | channelFailure (channel : Nat)
  | journalPageProgram
  | checkpointPass
  | foldStart (units : List UnitRef) (zoneFold : Bool)
  | foldMaxage (unit : UnitRef)
  | gcStart (group : Nat)
  | relocationCopyDone (reloc : Nat) (copy : RelocCopy)
  | sourceErase (reloc : Nat)
  | refreshStart (block : Nat)
  | readDisturbThreshold (block : Nat)
  | lotRebuild (lot mem block : Nat)
  | wearSwap (channel src dst : Nat)
  | secondaryResourcesReturn (fn : Nat)
  | nsDeleteDone (nsid : Nat)
  | powerStateReached
  | ps4IdleEntry
  | fwDrainComplete
  | fwActivationTimeout
  | controllerEnable (fn : Nat)
  | controllerReset (fn : Nat)
  | functionLevelReset (fn : Nat)
  | controllerShutdown (fn : Nat)
  | createIoSubmissionQueue (a : Adm) (qid size cqid : Nat) (pc : Bool)
  | deleteIoSubmissionQueue (a : Adm) (qid : Nat)
  | createIoCompletionQueue (a : Adm) (qid size vector : Nat) (pc ien : Bool)
  | deleteIoCompletionQueue (a : Adm) (qid : Nat)
  | getLogPage (a : Adm) (lid nsid : Nat)
  | logFreezeRecord (a : Adm) (off len : Nat)
  | logPilotAndPower (a : Adm) (off len : Nat)
  | logDredgeResults (a : Adm) (off len : Nat)
  | logPairState (a : Adm) (off len : Nat)
  | logTenantFaultRecords (a : Adm) (lsi off len : Nat)
  | logTelemetry (a : Adm) (controllerInitiated create : Bool) (area : Nat)
  | identify (a : Adm) (cns nsid cntid : Nat)
  | abort (a : Adm) (sqid cid : Nat)
  | getFeatures (a : Adm) (fid nsid : Nat) (dw11 : W32)
  | setFeatures (a : Adm) (fid nsid : Nat) (save : Bool) (dw11 : W32) (data : List Byte)
  | setPowerManagement (a : Adm) (save : Bool) (ps : Nat)
  | setOrderedQueueMode (a : Adm) (save : Bool) (dw11 : W32)
  | setLandingPolicy (a : Adm) (save : Bool) (dw11 : W32)
  | setWritePathCompression (a : Adm) (save : Bool) (nsid : Nat) (dw11 : W32)
  | setNumberOfQueues (a : Adm) (save : Bool) (nsq ncq : Nat)
  | setTimestamp (a : Adm) (save : Bool) (ms : Nat)
  | asynchronousEventRequest (a : Adm)
  | namespaceCreate (a : Adm) (req : NsCreate)
  | namespaceDelete (a : Adm) (nsid : Nat)
  | namespaceAttach (a : Adm) (nsid : Nat) (ctrls : List Nat)
  | namespaceDetach (a : Adm) (nsid : Nat) (ctrls : List Nat)
  | firmwareImageDownload (a : Adm) (off : Nat) (data : List Byte)
  | firmwareCommitStore (a : Adm) (slot : Nat)
  | firmwareCommitReplaceActivate (a : Adm) (slot : Nat)
  | firmwareCommitActivate (a : Adm) (slot : Nat)
  | firmwareCommitActivateNow (a : Adm) (slot : Nat)
  | selfTestShort (a : Adm) (nsid : Nat)
  | selfTestExtended (a : Adm) (nsid : Nat)
  | selfTestAbort (a : Adm)
  | selfTestComplete (failed notRun : List Nat)
  | formatNvm (a : Adm) (nsid lbaf ses : Nat) (pi : Bool)
  | sanitizeBlockErase (a : Adm)
  | sanitizeCryptoErase (a : Adm)
  | primaryFlexibleAllocation (a : Adm) (vi : Bool) (count : Nat)
  | secondaryOffline (a : Adm) (cntlid : Nat)
  | secondaryAssign (a : Adm) (cntlid : Nat) (vi : Bool) (count : Nat)
  | secondaryOnline (a : Adm) (cntlid : Nat)
  | loadProgramLoad (a : Adm) (ptype pindex : Nat) (image : List Byte)
  | loadProgramUnload (a : Adm) (pindex : Nat)
  | programActivate (a : Adm) (pindex : Nat)
  | programDeactivate (a : Adm) (pindex : Nat)
  | memoryRangeSetManagement (a : Adm) (create : Bool) (rsid : Nat) (ranges : List (Nat × Nat))
  | synmonTunnelRead (a : Adm) (dw10 dw11 : W32)
  | synmonTunnelWrite (a : Adm) (dw10 dw11 : W32) (data : List Byte)
  | synmonTunnelBlockRead (a : Adm) (dw10 dw11 : W32)
  | tenantLeaseCores (a : Adm) (dw10 dw11 : W32)
  | tenantLeaseSlm (a : Adm) (dw10 dw11 : W32)
  | tenantLeaseDocketCeiling (a : Adm) (dw10 dw11 : W32)
  | tenantLeaseFetchWeight (a : Adm) (dw10 dw11 : W32)
  | tenantLeaseTallyRows (a : Adm) (dw10 dw11 : W32)
  | tenantLeaseReadBack (a : Adm) (dw10 dw11 : W32)
  | thawQueue (a : Adm) (dw10 dw11 : W32)
  | keySlotLoad (a : Adm) (dw10 dw11 dw12 : W32) (data : List Byte)
  | keySlotClear (a : Adm) (dw10 dw11 dw12 : W32) (data : List Byte)
  | keySlotAssign (a : Adm) (dw10 dw11 dw12 : W32) (data : List Byte)
  | moduleKeyInstall (a : Adm) (dw10 dw11 dw12 : W32) (data : List Byte)
  | keyZeroize (a : Adm) (dw10 dw11 dw12 : W32) (data : List Byte)
  | pairForm (a : Adm) (dw10 : W32) (dw11to15 : List W32) (partner : PartnerInfo)
  | pairDissolve (a : Adm) (dw10 : W32) (dw11to15 : List W32)
  | pairFence (a : Adm) (dw10 : W32) (dw11to15 : List W32)
  | pairRelease (a : Adm) (dw10 : W32) (dw11to15 : List W32)
  | pairTakeover (a : Adm) (dw10 : W32) (dw11to15 : List W32)
  | pairYield (a : Adm) (dw10 : W32) (dw11to15 : List W32)
  | flush (docket : Nat)
  | write (docket : Nat) (data : List Byte)
  | read (docket : Nat)
  | compare (docket : Nat) (data : List Byte)
  | verify (docket : Nat)
  | writeZeroes (docket : Nat)
  | writeUncorrectable (docket : Nat)
  | datasetManagement (docket : Nat)
  | copy (docket : Nat)
  | reservationRegister (docket : Nat) (action : ResvAction)
  | reservationReport (docket : Nat)
  | reservationAcquire (docket : Nat) (action : ResvAction)
  | reservationRelease (docket : Nat) (action : ResvAction)
  | zoneOpen (docket : Nat)
  | zoneClose (docket : Nat)
  | zoneFinish (docket : Nat)
  | zoneReset (docket : Nat)
  | zoneOffline (docket : Nat)
  | zoneManagementReceive (docket : Nat)
  | zoneAppend (docket : Nat) (data : List Byte)
  | executeProgram (docket : Nat) (params : List Byte)
  | memoryRead (docket : Nat)
  | memoryWrite (docket : Nat) (data : List Byte)
  | customsScan (docket : Nat) (descriptor : List Byte)
  | tallyLoad (docket : Nat)
  | tallySearch (docket : Nat)
  | scanSlotGrant (scan : Nat)
  | customsPage (scan granule : Nat) (reads : List PageRead)
  | scanNotice (scan : Nat)
  | scanRingPoll (scan : Nat)
  | scanEnd (scan : Nat)
  | compressionJob (thread : Nat) (record : List Byte)
  | compressionLock (thread : Nat) (record : List Byte)
  | compressionUnlock (thread : Nat) (record : List Byte)
  | compressionJobEnd (engine : Nat)
  | cipherJob (thread : Nat) (record : List Byte)
  | cipherLock (thread : Nat) (record : List Byte)
  | cipherUnlock (thread : Nat) (record : List Byte)
  | cipherJobEnd (engine : Nat)
  | tallySearchOp (thread : Nat) (record : List Byte)
  | tallyNext (thread : Nat) (record : List Byte)
  | tallyLoadOp (thread : Nat) (record : List Byte)
  | tallyInvalidate (thread : Nat) (record : List Byte)
  | cascadeRequest (words : List W64)
  | cascadeResult (words : List W64)
  | cascadeTimeout (tag : Nat)
  | tallyMiUp
  | tallyMiDown
  | alloc (who : Requester) (rec : BerthReq)
  | free (who : Requester) (rec : BerthReq)
  | share (who : Requester) (rec : BerthReq)
  | berthRelease (who : Requester) (rec : BerthReq)
  | reclaim (who : Requester) (rec : BerthReq)
  | clearLow (path : Path) (data : List Byte)
  | tokenPost (port : PostPort) (space channel qty : Nat) (poisoned : Bool)
  | spillReturn
  | affinityHoldExpiry (thread : Nat)
  | blockEndEvent (core : Nat)
  | leaseQuantumExpiry (core : Nat)
  | contextSwitch (core : Nat)
  | blockOverrun (core : Nat)
  | descriptorFree (thread : Nat)
  | timerExpiry (handle : Nat)
  | poisonToken (thread : Nat)
  | xQueueDepart (core : Nat)
  | dmaComplete (dma : Nat)
  | streamHalfReady (core window : Nat)
  | streamEnd (core window : Nat)
  | ldb (q : Syl) (f : MemF)
  | ldbu (q : Syl) (f : MemF)
  | ldh (q : Syl) (f : MemF)
  | ldhu (q : Syl) (f : MemF)
  | ldw (q : Syl) (f : MemF)
  | ldwu (q : Syl) (f : MemF)
  | ldd (q : Syl) (f : MemF)
  | ldv (q : Syl) (f : MemF)
  | stb (q : Syl) (f : MemF)
  | sth (q : Syl) (f : MemF)
  | stw (q : Syl) (f : MemF)
  | std (q : Syl) (f : MemF)
  | stv (q : Syl) (f : MemF)
  | swpd (q : Syl) (f : MemF)
  | aaddd (q : Syl) (f : MemF)
  | fence (q : Syl) (f : MemF)
  | ldbL (q : Syl) (f : MemF) (ext : BitVec 31)
  | ldbuL (q : Syl) (f : MemF) (ext : BitVec 31)
  | ldhL (q : Syl) (f : MemF) (ext : BitVec 31)
  | ldhuL (q : Syl) (f : MemF) (ext : BitVec 31)
  | ldwL (q : Syl) (f : MemF) (ext : BitVec 31)
  | ldwuL (q : Syl) (f : MemF) (ext : BitVec 31)
  | lddL (q : Syl) (f : MemF) (ext : BitVec 31)
  | ldvL (q : Syl) (f : MemF) (ext : BitVec 31)
  | stbL (q : Syl) (f : MemF) (ext : BitVec 31)
  | sthL (q : Syl) (f : MemF) (ext : BitVec 31)
  | stwL (q : Syl) (f : MemF) (ext : BitVec 31)
  | stdL (q : Syl) (f : MemF) (ext : BitVec 31)
  | stvL (q : Syl) (f : MemF) (ext : BitVec 31)
  | add (q : Syl) (f : TriF)
  | sub (q : Syl) (f : TriF)
  | and (q : Syl) (f : TriF)
  | or (q : Syl) (f : TriF)
  | xor (q : Syl) (f : TriF)
  | andn (q : Syl) (f : TriF)
  | shl (q : Syl) (f : TriF)
  | shr (q : Syl) (f : TriF)
  | sar (q : Syl) (f : TriF)
  | rol (q : Syl) (f : TriF)
  | min (q : Syl) (f : TriF)
  | max (q : Syl) (f : TriF)
  | minu (q : Syl) (f : TriF)
  | maxu (q : Syl) (f : TriF)
  | mul (q : Syl) (f : TriF)
  | mulh (q : Syl) (f : TriF)
  | mulhu (q : Syl) (f : TriF)
  | div (q : Syl) (f : TriF)
  | divu (q : Syl) (f : TriF)
  | rem (q : Syl) (f : TriF)
  | remu (q : Syl) (f : TriF)
  | clz (q : Syl) (f : TriF)
  | ctz (q : Syl) (f : TriF)
  | popc (q : Syl) (f : TriF)
  | bswap (q : Syl) (f : TriF)
  | addi (q : Syl) (f : ImmF)
  | andi (q : Syl) (f : ImmF)
  | ori (q : Syl) (f : ImmF)
  | xori (q : Syl) (f : ImmF)
  | shli (q : Syl) (f : ImmF)
  | shri (q : Syl) (f : ImmF)
  | sari (q : Syl) (f : ImmF)
  | wrrc (q : Syl) (f : ImmF)
  | rdrc (q : Syl) (f : ImmF)
  | li (q : Syl) (f : LongF)
  | liL (q : Syl) (f : LongF) (ext : BitVec 31)
  | liQ (q : Syl) (f : LongF) (ext1 ext2 : BitVec 31)
  | la (q : Syl) (f : LongF) (ext : BitVec 31)
  | getb (q : Syl) (f : LongF)
  | ceq (q : Syl) (f : CmpF)
  | cne (q : Syl) (f : CmpF)
  | clt (q : Syl) (f : CmpF)
  | cltu (q : Syl) (f : CmpF)
  | cle (q : Syl) (f : CmpF)
  | cleu (q : Syl) (f : CmpF)
  | ctst (q : Syl) (f : CmpF)
  | ceqL (q : Syl) (f : CmpF) (ext : BitVec 31)
  | cneL (q : Syl) (f : CmpF) (ext : BitVec 31)
  | cltL (q : Syl) (f : CmpF) (ext : BitVec 31)
  | cltuL (q : Syl) (f : CmpF) (ext : BitVec 31)
  | cleL (q : Syl) (f : CmpF) (ext : BitVec 31)
  | cleuL (q : Syl) (f : CmpF) (ext : BitVec 31)
  | ctstL (q : Syl) (f : CmpF) (ext : BitVec 31)
  | vadd (q : Syl) (f : VecF)
  | vsub (q : Syl) (f : VecF)
  | vmul (q : Syl) (f : VecF)
  | vfma (q : Syl) (f : VecF)
  | vmin (q : Syl) (f : VecF)
  | vmax (q : Syl) (f : VecF)
  | vand (q : Syl) (f : VecF)
  | vor (q : Syl) (f : VecF)
  | vxor (q : Syl) (f : VecF)
  | vandn (q : Syl) (f : VecF)
  | vshl (q : Syl) (f : VecF)
  | vshr (q : Syl) (f : VecF)
  | vcmp (q : Syl) (f : VecF)
  | vbsl (q : Syl) (f : VecF)
  | vperm (q : Syl) (f : VecF)
  | vcvt (q : Syl) (f : VecF)
  | vred (q : Syl) (f : VecF)
  | vmov (q : Syl) (f : VecF)
  | vbcast (q : Syl) (f : VscF)
  | vsld (q : Syl) (f : VscF)
  | vget (q : Syl) (f : VscF)
  | vadds (q : Syl) (f : VscF)
  | vmuls (q : Syl) (f : VscF)
  | vshls (q : Syl) (f : VscF)
  | vshrs (q : Syl) (f : VscF)
  | nop (q : Syl) (rsv : BitVec 20)
  | br (q : Syl) (off20 : BitVec 20)
  | brr (q : Syl) (f : TriF)
  | bt (q : Syl) (f : BitF)
  | bf (q : Syl) (f : BitF)
  | btL (q : Syl) (f : BitF) (ext : BitVec 31)
  | bfL (q : Syl) (f : BitF) (ext : BitVec 31)
  | bset (q : Syl) (f : BitF)
  | bclr (q : Syl) (f : BitF)
  | btgl (q : Syl) (f : BitF)
  | tas (q : Syl) (f : BitF)
  | tac (q : Syl) (f : BitF)
  | blg (q : Syl) (f : BlgF) (ext : BitVec 31)
  | call (q : Syl) (off20 : BitVec 20) (ext : BitVec 31)
  | callr (q : Syl) (f : TriF) (ext : BitVec 31)
  | ret (q : Syl) (rsv : BitVec 20)
  | repi (q : Syl) (off20 : BitVec 20)
  | repc (q : Syl) (rsv : BitVec 20)
  | block (q : Syl) (f : XopF)
  | wait (q : Syl) (f : XopF)
  | yield (q : Syl) (f : XopF)
  | exit (q : Syl) (f : XopF)
  | post (q : Syl) (f : XopF)
  | spawn (q : Syl) (f : XopF)
  | dma (q : Syl) (f : XopF)
  | sopen (q : Syl) (f : XopF)
  | sadv (q : Syl) (f : XopF)
  | sclose (q : Syl) (f : XopF)
  | scan (q : Syl) (f : XopF)
  | timerArm (q : Syl) (f : XopF)
  | timerCancel (q : Syl) (f : XopF)
  | pclr (q : Syl) (f : XopF)
  | rdfeat (q : Syl) (f : XopF)
  | flitReceive (sub : Nat) (flit : List Byte)
  | flitReplay (sub : Nat)
  | sublinkLoss (sub : Nat)
  | sublinkTrainRetry (sub : Nat) (trained : Bool)
  | beatSend
  | beat (sub : Nat) (h : MsgHdr) (body : List Byte)
  | hello (sub : Nat) (h : MsgHdr) (body : List Byte)
  | mwrite (sub docket : Nat) (h : MsgHdr) (body : List Byte)
  | mack (sub : Nat) (h : MsgHdr) (body : List Byte)
  | jrec (sub : Nat) (h : MsgHdr) (body : List Byte)
  | state (sub : Nat) (h : MsgHdr) (body : List Byte)
  | sack (sub : Nat) (h : MsgHdr) (body : List Byte)
  | fwdcmd (sub docket : Nat) (h : MsgHdr) (sqe : Sqe) (data : List Byte)
  | fwdcpl (sub : Nat) (h : MsgHdr) (status : Status) (dw0 dw1 : W32) (data : List Byte)
  | fwdabt (sub : Nat) (h : MsgHdr) (body : List Byte)
  | fwdabtr (sub : Nat) (h : MsgHdr) (body : List Byte)
  | rscopy (sub : Nat) (h : MsgHdr) (body : List Byte)
  | rsack (sub : Nat) (h : MsgHdr) (body : List Byte)
  | aliveInLow
  | aliveFault
  | aliveInHigh
  | fenceDelayExpiry
  | autoFence
  | synmonRead (port : Nat) (f : Frame)
  | synmonWrite (port : Nat) (f : Frame)
  | synmonBlockRead (port : Nat) (f : Frame)
  | nodeIdQuery (port : Nat) (f : Frame)
  | nodeIdAssign (port : Nat) (f : Frame)
  | heartbeat
  | miSynmonRead (port : Nat) (nmd0 nmd1 : W32) (data : List Byte)
  | miSynmonWrite (port : Nat) (nmd0 nmd1 : W32) (data : List Byte)
  | miSynmonBlockRead (port : Nat) (nmd0 nmd1 : W32) (data : List Byte)
  | miReadDataStructure (port dtyp portid cntlid : Nat)
  | miSubsystemHealthPoll (port : Nat) (clear : Bool)
  | miControllerHealthPoll (port cntlid : Nat)
  | miConfigurationSet (port cfg value : Nat)
  | miConfigurationGet (port cfg : Nat)
  | miVpdRead (port off len : Nat)
  | miAdminCommand (port cntlid : Nat) (cmd : MiAdmin)
  | mctpSetEndpointId (port eid : Nat)
  | mctpGetEndpointId (port : Nat)
  | mctpGetEndpointUuid (port : Nat)
  | mctpGetVersionSupport (port mtype : Nat)
  | mctpGetMessageTypeSupport (port : Nat)
  | i3cEntdaa (port addr : Nat)
  | i3cSetdasa (port static addr : Nat)
  | dictionaryWrite (path : Path) (index sub : Nat) (data : List Byte)
  | logbookLineRemap (line : Nat)
  | calReseed (path : Path) (data : List Byte)
  | calibrationWrite (path : Path) (index sub : Nat) (data : List Byte)
  | pilotParameterWrite (path : Path) (slot sub : Nat) (data : List Byte)
  | rate (path : Path) (slot : Nat) (data : List Byte)
  | enable (path : Path) (slot : Nat) (data : List Byte)
  | pathWrite (path : Path) (data : List Byte)
  | hbPeriodMs (path : Path) (data : List Byte)
  | nsidHalf (path : Path) (data : List Byte)
  | port (path : Path) (tenant : Nat) (data : List Byte)
  | leaseEntryWrite (path : Path) (tenant sub : Nat) (data : List Byte)
  | landingPolicy (path : Path) (sub : Nat) (data : List Byte)
  | wpEngines (path : Path) (data : List Byte)
  | fwEngines (path : Path) (data : List Byte)
  | opCap (path : Path) (data : List Byte)
  | quayEnable (path : Path) (data : List Byte)
  | clusterEnable (path : Path) (data : List Byte)
  | refclkMode (path : Path) (data : List Byte)
  | plcaWrite (path : Path) (port sub : Nat) (data : List Byte)
  | dredgeEnable (path : Path) (data : List Byte)
  | dredgeCycleStart
  | cycleOverrun
  | clusterBistStart (cluster : Nat)
  | clusterBistEnd (cluster : Nat) (failed : List Nat)
  | berthMarch (far : Bool) (berth : Nat) (fault : Bool)
  | tallyParityScrub (row : Nat) (parityOk : Bool)
  | patrolRead (block : Nat) (worstStep bits : Nat)
  | pilotSanity
  | leaseMinimumExpiry (core : Nat)
  | lotDegraded24h (lot : Nat)
  | sublinkTrained (sub : Nat)
  | sriovVfEnable (port : Nat)
  | portRefclkLoss (port : Nat)
  | portRefclkReturn (port : Nat)
  | aggregationTimeExpiry (fn vector : Nat)
  | invalidCommandOpcode (io : Bool) (fn sqid cid : Nat)
  deriving DecidableEq, Repr

end Sys2Proof
end

