-- ==== Sys2Proof/Decode.lean ====
section
/-!
DEFINITION. Commands read from table words. The opcode table gives none of its rows bits: the
commands of this block reach it as commands, not as words.
-/
namespace Sys2Proof

/-- The command a word of `nbits` bits spells: none, as no row has bits. -/
def decodeTableWord (_nbits _w : Nat) : Option Instr := none

end Sys2Proof
end

