-- ==== Sys2Proof/Config.lean ====
section
/-!
DEFINITION. What one module fixes at manufacture or by its sled, and the values the manual leaves
open. Every constant here is opaque: no statement can rest on a value of it.
-/
namespace Sys2Proof.Config

/-- A value the manual leaves open, numbered by the counter of the state that it is drawn at. -/
opaque freeValue : Nat → Nat
/-- Calibration value of a dictionary entry shipped with the module (Reset column "cal"). -/
opaque calValue : Nat → Nat
/-- Generic calibration value of an entry (R35). -/
opaque genericCal : Nat → Nat
/-- Shipped identity entries (Table 17.8), by dictionary key. -/
opaque identity : Nat → Nat
/-- Section-relative logbook data line that holds a P entry, by dictionary key (R449). -/
opaque logLine : Nat → Nat
/-- The ordering code is speed grade 36 (else 28), and its firmware root is a customer key (else the
Virsaris root) (R1, Table 20.11). -/
opaque speed36 : Bool
opaque customerKey : Bool
/-- The sled, within the limits of Table 18.3: whether a page has 8 slots of 4 KiB (else 4), a quarter of
the pages of a QLC block, blocks of a LUN, channel groups populated, chip enables of a channel, LUNs of
a chip enable, packages of a channel, and the highest rate the devices report. -/
opaque sledWidePages : Bool
opaque sledPages : Nat
opaque sledBlocks : Nat
opaque sledGroups : Nat
opaque sledCes : Nat
opaque sledLuns : Nat
opaque sledPackages : Nat
opaque sledRate : Nat
/-- Slots of 4 KiB per page, S: 4 or 8 (R90, R464). -/
def slotsPerPage : Nat := if sledWidePages then 8 else 4
/-- Pages per block in QLC mode, PPB: whole SLC blocks of PPB / 4 pages (R118), and a block of at most 2^27
slots. -/
def pagesPerBlock : Nat := 4 * (sledPages % (2 ^ 25 / slotsPerPage) + 1)
/-- Blocks per LUN: at most 65,536, and blocks × SPB at most 2^27 (Table 18.3). -/
def blocksPerLun : Nat := sledBlocks % min 65536 (2 ^ 27 / (slotsPerPage * pagesPerBlock)) + 1
/-- Channels in whole groups of 32, at most 448; chip enables and LUNs of each (Table 18.3). -/
def channels : Nat := 32 * (sledGroups % 14 + 1)
def chipEnables : Nat := sledCes % 4 + 1
def luns : Nat := sledLuns % 8 + 1
/-- Blocks of a channel, and of the sled, B (R119): at most 4 PiB raw. -/
def channelBlocks : Nat := min (2 ^ 40 / (slotsPerPage * pagesPerBlock) / channels) (chipEnables * luns * blocksPerLun)
def blocks : Nat := channels * channelBlocks
/-- The block is factory-marked bad; the order in which the sled's format took the blocks of a channel for
its pools; how many checkpoint blocks a channel and how many lots a channel group got (R94, R98, R118). -/
opaque sledBad : Nat → Bool
opaque sledOrder : Nat → Nat
opaque sledCkpt : Nat
opaque sledLots : Nat
/-- A control-core address lies in the harbour fabric's map outside the berth window. -/
opaque fabricMapped : Nat → Bool
/-- The shipped firmware image of a slot (1 or 2) verifies (R430). -/
opaque fwShippedOk : Nat → Bool
/-- A downloaded firmware image carries a good ECDSA signature under the Virsaris root, or under the
customer key; the one of the ordering code decides (R1, R430). -/
opaque fwSignedVs : List Byte → Bool
opaque fwSignedCk : List Byte → Bool
def fwSigned (image : List Byte) : Bool := if customerKey then fwSignedCk image else fwSignedVs image
/-- The revision a firmware image states, as its dictionary value (R521). -/
opaque fwRevision : List Byte → Nat
/-- The sled's flash interface: 0 none found, 1 ONFI NV-LPDDR4, 2 JESD230 (R462, Table 18.2). -/
opaque sledInterface : Nat
def flashIf : Nat := sledInterface % 3
/-- The rates of R462, MT/s, highest first. -/
def rates : List Nat := [3600, 3200, 2800, 2400, 2000, 1600, 1200, 800]
/-- The rate every channel runs at: the highest that the speed grade, the devices and the population allow
(R1, R462, Table 18.3). -/
def channelRate : Nat :=
  ((rates.find? (fun r => decide (r ≤ (if speed36 then 3600 else 2800)) && decide (r ≤ sledRate) &&
    (decide (sledPackages ≤ 2) || decide (r ≤ 2400)))).getD 800)
/-- Channels that answer. -/
opaque sledAnswering : Nat
def channelsUsed : Nat := min sledAnswering channels
/-- Bits [63:32] of the fabric address a control core's DMA record names by its bits [31:0]. -/
opaque dmaNearHigh : Nat
/-- A fabric address that leads to host memory; the specification gives no map of the fabric but the berth window. -/
opaque hostMapped : Nat → Bool
/-- First 8 bytes of the SHA-384 digest of a firmware image (R371), and of the shipped image of a
slot. -/
opaque fwDigest : List Byte → Nat
opaque fwShippedDigest : Nat → Nat
/-- The revision of the shipped image of a slot, as its dictionary value (R521). -/
opaque fwShippedRev : Nat → Nat
/-- SRAM and DRAM spare rows of a new module (R493). -/
opaque spareRows : Nat
/-- The most ranges of a memory range set, and the most sets of a function (R517: the limits of the Subsystem
Local Memory command set that this manual leaves to the module). -/
opaque maxRanges : Nat
opaque maxRangeSets : Nat
/-- The UUID of the MCTP endpoints, the version word of a message type, and the DCR that the MCTP I3C
binding assigns (R479, R480). -/
opaque mctpUuid : Nat
opaque mctpVersion : Nat → Nat
opaque i3cDcr : Nat

end Sys2Proof.Config
end

