-- ==== Sys2Proof/Machine/DictDef.lean ====
section
/-!
DEFINITION. The dictionary: every entry's type, access, persistence, range and reset value, as
Tables 4.9, 5.6, 6.6, 9.4, 10.11, 11.6, 12.8, 13.7, 14.10, 15.6, 16.6, 17.8 to 17.10, 18.11, 19.4
and 19.5 give them.
-/
namespace Sys2Proof.Machine

/-- Entry types (Table 17.1). -/
inductive DTy where
  | bool | u8 | u16 | u32 | u64 | i32 | q32 | str | octets
  deriving DecidableEq, Repr

/-- Access codes. -/
inductive DAcc where
  | ro | rw | wo | const
  deriving DecidableEq, Repr

/-- Where an entry's value at reset comes from: a number, the shipped calibration, the identity
fused or written at manufacture, the default port of a tenant, or the default enable of a pilot
slot. -/
inductive DReset where
  | val (n : Nat) | cal | ident | port | slotEn
  deriving DecidableEq, Repr

/-- The entries `lo` to `hi` of a record: `size` is the bytes on the wire (the most for STR). -/
structure DRow where
  idx   : Nat
  lo    : Nat
  hi    : Nat
  size  : Nat
  ty    : DTy
  acc   : DAcc
  pers  : Bool
  reset : DReset
  min   : Nat
  max   : Nat
  deriving DecidableEq, Repr

/-- Region 1000. -/
def dictRows1 : List DRow := [
  ⟨0x1000, 0x01, 0x01, 8, .str, .const, false, .val 0x7369726173726956, 0, 18446744073709551615⟩,
  ⟨0x1000, 0x02, 0x02, 6, .str, .const, false, .val 0x383434374154, 0, 281474976710655⟩,
  ⟨0x1000, 0x03, 0x03, 16, .str, .const, false, .ident, 0, 340282366920938463463374607431768211455⟩,
  ⟨0x1000, 0x04, 0x04, 16, .str, .ro, true, .ident, 0, 340282366920938463463374607431768211455⟩,
  ⟨0x1000, 0x05, 0x05, 8, .octets, .const, false, .ident, 0, 18446744073709551615⟩,
  ⟨0x1000, 0x06, 0x06, 2, .u16, .ro, true, .ident, 0, 65535⟩,
  ⟨0x1000, 0x07, 0x07, 8, .str, .ro, false, .val 0, 0, 18446744073709551615⟩,
  ⟨0x1000, 0x08, 0x08, 4, .u32, .ro, true, .ident, 0, 4294967295⟩,
  ⟨0x1000, 0x09, 0x09, 8, .u64, .ro, false, .val 0, 0, 18446744073709551615⟩,
  ⟨0x1100, 0x01, 0x01, 1, .u8, .rw, true, .val 1, 1, 127⟩,
  ⟨0x1100, 0x02, 0x02, 2, .u16, .rw, true, .val 100, 0, 10000⟩,
  ⟨0x1100, 0x03, 0x03, 6, .octets, .rw, true, .val 0xFFFFFFFFFFFF, 0, 281474976710655⟩,
  ⟨0x1100, 0x04, 0x04, 1, .u8, .rw, true, .val 0x0F, 0, 15⟩,
  ⟨0x1100, 0x05, 0x05, 1, .bool, .rw, true, .val 1, 0, 1⟩,
  ⟨0x1110, 0x01, 0x01, 1, .bool, .rw, true, .val 1, 0, 1⟩,
  ⟨0x1110, 0x02, 0x02, 6, .octets, .const, false, .ident, 0, 281474976710655⟩,
  ⟨0x1110, 0x03, 0x03, 1, .bool, .rw, true, .val 1, 0, 1⟩,
  ⟨0x1110, 0x04, 0x04, 1, .u8, .rw, true, .val 1, 0, 254⟩,
  ⟨0x1110, 0x05, 0x05, 1, .u8, .rw, true, .val 8, 1, 255⟩,
  ⟨0x1110, 0x06, 0x06, 1, .u8, .rw, true, .val 32, 1, 255⟩,
  ⟨0x1110, 0x07, 0x07, 1, .u8, .rw, true, .val 0, 0, 255⟩,
  ⟨0x1110, 0x08, 0x0A, 8, .u64, .ro, false, .val 0, 0, 18446744073709551615⟩,
  ⟨0x1200, 0x01, 0x01, 2, .u16, .ro, false, .val 0, 0, 65535⟩,
  ⟨0x1200, 0x02, 0x02, 2, .u16, .ro, false, .val 4096, 0, 65535⟩,
  ⟨0x1200, 0x03, 0x03, 8, .u64, .ro, true, .val 0, 0, 18446744073709551615⟩,
  ⟨0x1200, 0x04, 0x05, 4, .u32, .ro, false, .val 0, 0, 4294967295⟩,
  ⟨0x1200, 0x06, 0x06, 8, .u64, .ro, false, .val 0, 0, 18446744073709551615⟩,
  ⟨0x1200, 0x07, 0x07, 4, .u32, .ro, true, .val 0, 0, 4294967295⟩,
  ⟨0x1200, 0x08, 0x08, 4, .u32, .ro, false, .val 0, 0, 4294967295⟩,
  ⟨0x1200, 0x09, 0x09, 12, .octets, .ro, false, .val 0, 0, 79228162514264337593543950335⟩,
  ⟨0x1300, 0x01, 0x01, 1, .u8, .rw, true, .val 0x30, 8, 119⟩,
  ⟨0x1300, 0x02, 0x02, 1, .u8, .rw, true, .val 0x31, 8, 119⟩,
  ⟨0x1300, 0x03, 0x06, 1, .u8, .ro, false, .val 0, 0, 255⟩]

/-- Region 2000. -/
def dictRows2 : List DRow := [
  ⟨0x2000, 0x01, 0x01, 2, .u16, .ro, false, .val 0, 0, 65535⟩,
  ⟨0x2000, 0x02, 0x02, 2, .u16, .ro, false, .val 0, 0, 65535⟩,
  ⟨0x2000, 0x03, 0x03, 2, .u16, .ro, false, .val 520, 0, 65535⟩,
  ⟨0x2000, 0x04, 0x04, 4, .u32, .ro, false, .val 0, 0, 4294967295⟩,
  ⟨0x2000, 0x05, 0x05, 4, .u32, .ro, true, .val 0, 0, 4294967295⟩,
  ⟨0x2000, 0x06, 0x06, 1, .bool, .ro, false, .val 0, 0, 1⟩,
  ⟨0x2000, 0x07, 0x07, 1, .u8, .ro, true, .val 0, 0, 255⟩,
  ⟨0x2000, 0x08, 0x08, 1, .bool, .wo, false, .val 0, 0, 1⟩,
  ⟨0x2000, 0x09, 0x09, 4, .u32, .ro, true, .val 0, 0, 4294967295⟩,
  ⟨0x2000, 0x0A, 0x0A, 4, .u32, .ro, true, .val 0, 0, 4294967295⟩,
  ⟨0x2000, 0x0C, 0x0C, 4, .u32, .ro, true, .val 0, 0, 4294967295⟩,
  ⟨0x2100, 0x01, 0x01, 1, .bool, .rw, true, .slotEn, 0, 1⟩,
  ⟨0x2100, 0x02, 0x02, 1, .u8, .rw, true, .cal, 0, 3⟩,
  ⟨0x2100, 0x03, 0x03, 2, .u16, .rw, true, .cal, 0, 65535⟩,
  ⟨0x2100, 0x04, 0x05, 2, .u16, .rw, true, .cal, 0, 65535⟩,
  ⟨0x2100, 0x06, 0x06, 1, .u8, .rw, true, .cal, 0, 255⟩,
  ⟨0x2100, 0x07, 0x07, 2, .u16, .rw, true, .cal, 0, 65535⟩,
  ⟨0x2100, 0x08, 0x08, 1, .u8, .rw, true, .cal, 1, 8⟩,
  ⟨0x2100, 0x09, 0x09, 1, .u8, .ro, false, .val 0, 0, 255⟩,
  ⟨0x2100, 0x0A, 0x0A, 2, .u16, .ro, false, .val 0, 0, 65535⟩,
  ⟨0x2100, 0x0B, 0x0B, 8, .u64, .ro, false, .val 0, 0, 18446744073709551615⟩,
  ⟨0x2100, 0x0C, 0x0C, 4, .u32, .const, false, .ident, 0, 4294967295⟩,
  ⟨0x2100, 0x10, 0x17, 2, .u16, .rw, true, .cal, 0, 65535⟩,
  ⟨0x2100, 0x20, 0x57, 8, .u64, .rw, true, .cal, 0, 18446744073709551615⟩,
  ⟨0x2100, 0x60, 0x60, 4, .u32, .rw, true, .cal, 0, 4294967295⟩,
  ⟨0x2100, 0x61, 0x61, 4, .i32, .rw, true, .cal, 0, 4294967295⟩,
  ⟨0x2300, 0x01, 0x01, 2, .u16, .rw, true, .val 520, 160, 520⟩,
  ⟨0x2300, 0x03, 0x03, 1, .u8, .rw, true, .val 0x7F, 0, 127⟩,
  ⟨0x2300, 0x04, 0x04, 1, .u8, .rw, true, .val 0xFF, 0, 255⟩,
  ⟨0x2300, 0x05, 0x05, 4, .u32, .rw, true, .val 20000, 2000, 10000000⟩,
  ⟨0x2500, 0x01, 0x02, 2, .u16, .rw, true, .cal, 0, 65535⟩,
  ⟨0x2500, 0x03, 0x03, 1, .u8, .rw, true, .cal, 0, 255⟩]

/-- Region 3000. -/
def dictRows3 : List DRow := [
  ⟨0x3000, 0x01, 0x01, 1, .u8, .ro, false, .val 0, 0, 255⟩,
  ⟨0x3000, 0x02, 0x02, 4, .u32, .ro, true, .val 0, 0, 4294967295⟩,
  ⟨0x3000, 0x03, 0x03, 1, .u8, .rw, true, .val 0, 0, 15⟩,
  ⟨0x3000, 0x04, 0x04, 8, .u64, .ro, false, .val 0, 0, 18446744073709551615⟩,
  ⟨0x3010, 0x01, 0x01, 2, .u16, .ro, false, .val 0, 0, 65535⟩,
  ⟨0x3010, 0x02, 0x02, 1, .u8, .ro, false, .val 1, 0, 255⟩,
  ⟨0x3010, 0x03, 0x03, 4, .u32, .rw, true, .val 1000, 100, 60000⟩,
  ⟨0x3010, 0x04, 0x04, 4, .u32, .ro, true, .val 0, 0, 4294967295⟩,
  ⟨0x3010, 0x05, 0x05, 4, .u32, .ro, false, .val 0, 0, 4294967295⟩,
  ⟨0x3010, 0x06, 0x06, 1, .u8, .ro, false, .val 0, 0, 255⟩,
  ⟨0x3010, 0x07, 0x07, 4, .u32, .ro, true, .val 0, 0, 4294967295⟩,
  ⟨0x3100, 0x01, 0x19, 4, .i32, .ro, false, .val 0, 0, 4294967295⟩,
  ⟨0x3100, 0x20, 0x20, 2, .u16, .ro, false, .val 0, 0, 65535⟩,
  ⟨0x3100, 0x21, 0x21, 4, .u32, .ro, true, .val 0, 0, 4294967295⟩,
  ⟨0x3100, 0x22, 0x22, 4, .i32, .ro, true, .val 0, 0, 4294967295⟩]

/-- Region 4000. -/
def dictRows4 : List DRow := [
  ⟨0x4000, 0x01, 0x01, 1, .u8, .ro, false, .val 0, 0, 255⟩,
  ⟨0x4000, 0x02, 0x02, 2, .u16, .ro, false, .val 0, 0, 65535⟩,
  ⟨0x4000, 0x03, 0x06, 4, .u32, .ro, false, .val 0, 0, 4294967295⟩,
  ⟨0x4000, 0x07, 0x07, 1, .u8, .ro, false, .val 0, 0, 255⟩,
  ⟨0x4000, 0x08, 0x09, 2, .u16, .ro, false, .val 0, 0, 65535⟩,
  ⟨0x4010, 0x01, 0x01, 1, .u8, .rw, true, .val 25, 10, 200⟩,
  ⟨0x4010, 0x02, 0x02, 1, .u8, .rw, true, .val 75, 50, 90⟩,
  ⟨0x4010, 0x03, 0x03, 1, .u8, .rw, true, .val 1, 0, 1⟩,
  ⟨0x4010, 0x04, 0x04, 1, .u8, .rw, true, .val 24, 1, 168⟩,
  ⟨0x4010, 0x05, 0x05, 4, .u32, .ro, false, .val 0, 0, 4294967295⟩,
  ⟨0x4010, 0x06, 0x06, 1, .u8, .ro, false, .val 0, 0, 255⟩,
  ⟨0x4010, 0x07, 0x07, 4, .u32, .ro, false, .val 0, 0, 4294967295⟩,
  ⟨0x4010, 0x08, 0x08, 1, .bool, .ro, false, .val 0, 0, 1⟩,
  ⟨0x4020, 0x01, 0x03, 4, .u32, .ro, false, .val 0, 0, 4294967295⟩,
  ⟨0x4020, 0x04, 0x04, 1, .bool, .ro, true, .val 0, 0, 1⟩,
  ⟨0x4020, 0x05, 0x05, 4, .q32, .ro, false, .val 0, 0, 4294967295⟩,
  ⟨0x4020, 0x06, 0x06, 4, .u32, .rw, true, .val 1500, 1, 100000⟩,
  ⟨0x4020, 0x07, 0x07, 4, .u32, .rw, true, .val 30000, 1, 1000000⟩,
  ⟨0x4020, 0x08, 0x08, 4, .q32, .ro, false, .val 0, 0, 4294967295⟩,
  ⟨0x4020, 0x0A, 0x0A, 4, .q32, .rw, true, .val 0x199A, 0, 4294967295⟩,
  ⟨0x4030, 0x01, 0x02, 8, .u64, .ro, true, .val 0, 0, 18446744073709551615⟩,
  ⟨0x4030, 0x03, 0x03, 4, .u32, .ro, true, .val 0, 0, 4294967295⟩,
  ⟨0x4030, 0x04, 0x05, 8, .u64, .ro, false, .val 0, 0, 18446744073709551615⟩,
  ⟨0x4030, 0x06, 0x06, 8, .u64, .ro, true, .val 0, 0, 18446744073709551615⟩,
  ⟨0x4030, 0x07, 0x07, 8, .u64, .ro, false, .val 0, 0, 18446744073709551615⟩,
  ⟨0x4030, 0x08, 0x08, 2, .u16, .ro, true, .val 0, 0, 65535⟩,
  ⟨0x4040, 0x01, 0x01, 2, .u16, .rw, true, .val 64, 0, 65535⟩,
  ⟨0x4040, 0x02, 0x02, 2, .u16, .rw, true, .val 128, 0, 65535⟩,
  ⟨0x4040, 0x03, 0x03, 2, .u16, .rw, true, .val 16, 0, 65535⟩,
  ⟨0x4040, 0x04, 0x04, 2, .u16, .rw, true, .cal, 0, 65535⟩,
  ⟨0x4040, 0x05, 0x05, 4, .u32, .rw, true, .val 500000, 0, 4294967295⟩]

/-- Region 5000. -/
def dictRows5 : List DRow := [
  ⟨0x5000, 0x01, 0x01, 4, .u32, .rw, true, .val 16384, 1, 262144⟩,
  ⟨0x5000, 0x02, 0x02, 4, .u32, .ro, false, .val 0, 0, 4294967295⟩,
  ⟨0x5000, 0x03, 0x05, 2, .u16, .ro, false, .val 0, 0, 65535⟩,
  ⟨0x5000, 0x06, 0x08, 8, .u64, .ro, false, .val 0, 0, 18446744073709551615⟩,
  ⟨0x5000, 0x09, 0x09, 1, .u8, .ro, false, .val 0, 0, 255⟩]

/-- Region 6000. -/
def dictRows6 : List DRow := [
  ⟨0x6000, 0x01, 0x01, 1, .u8, .rw, true, .port, 0, 3⟩,
  ⟨0x6000, 0x02, 0x02, 2, .u16, .rw, true, .val 0, 0, 256⟩,
  ⟨0x6000, 0x03, 0x03, 1, .u8, .rw, true, .val 0xFF, 0, 255⟩,
  ⟨0x6000, 0x04, 0x04, 2, .u16, .rw, true, .val 0, 0, 1024⟩,
  ⟨0x6000, 0x05, 0x05, 4, .u32, .rw, true, .val 1024, 1, 65536⟩,
  ⟨0x6000, 0x06, 0x06, 1, .u8, .rw, true, .val 16, 1, 255⟩,
  ⟨0x6000, 0x07, 0x07, 4, .u32, .ro, false, .val 0, 0, 4294967295⟩,
  ⟨0x6000, 0x08, 0x0A, 1, .u8, .ro, false, .val 0, 0, 255⟩,
  ⟨0x6000, 0x0B, 0x0B, 4, .u32, .ro, false, .val 0, 0, 4294967295⟩,
  ⟨0x6000, 0x0C, 0x0C, 1, .u8, .rw, true, .val 0, 0, 255⟩,
  ⟨0x6000, 0x0D, 0x0D, 2, .u16, .rw, true, .val 0, 0, 256⟩,
  ⟨0x6000, 0x20, 0x20, 4, .u32, .rw, true, .val 256, 0, 65536⟩,
  ⟨0x6000, 0x21, 0x21, 4, .u32, .ro, false, .val 0, 0, 4294967295⟩,
  ⟨0x6000, 0x22, 0x22, 2, .u16, .ro, false, .val 0, 0, 65535⟩,
  ⟨0x6000, 0x30, 0x30, 2, .u16, .ro, false, .val 0, 0, 65535⟩,
  ⟨0x6000, 0x40, 0x40, 4, .u32, .ro, false, .val 0, 0, 4294967295⟩]

/-- Region 7000. -/
def dictRows7 : List DRow := [
  ⟨0x7010, 0x01, 0x04, 4, .u32, .ro, false, .val 0, 0, 4294967295⟩,
  ⟨0x7010, 0x05, 0x06, 2, .u16, .ro, false, .val 0, 0, 65535⟩,
  ⟨0x7010, 0x07, 0x07, 1, .bool, .wo, false, .val 0, 0, 1⟩,
  ⟨0x7010, 0x11, 0x17, 8, .u64, .ro, false, .val 0, 0, 18446744073709551615⟩,
  ⟨0x7020, 0x01, 0x01, 4, .u32, .rw, true, .val 100, 10, 10000⟩,
  ⟨0x7020, 0x02, 0x02, 4, .u32, .rw, true, .val 2000, 0, 100000⟩,
  ⟨0x7020, 0x03, 0x03, 4, .u32, .rw, true, .val 100, 10, 10000⟩,
  ⟨0x7020, 0x04, 0x04, 2, .u16, .rw, true, .val 16, 0, 256⟩,
  ⟨0x7020, 0x05, 0x07, 4, .u32, .ro, false, .val 0, 0, 4294967295⟩,
  ⟨0x7020, 0x08, 0x0C, 8, .u64, .ro, false, .val 0, 0, 18446744073709551615⟩,
  ⟨0x7020, 0x11, 0x18, 8, .u64, .ro, false, .val 0, 0, 18446744073709551615⟩,
  ⟨0x7030, 0x01, 0x01, 2, .u16, .ro, false, .val 0, 0, 65535⟩,
  ⟨0x7030, 0x02, 0x02, 4, .u32, .ro, false, .val 0, 0, 4294967295⟩,
  ⟨0x7030, 0x03, 0x08, 8, .u64, .ro, false, .val 0, 0, 18446744073709551615⟩,
  ⟨0x7040, 0x01, 0x01, 1, .u8, .rw, true, .val 8, 0, 32⟩,
  ⟨0x7040, 0x02, 0x08, 8, .u64, .ro, false, .val 0, 0, 18446744073709551615⟩,
  ⟨0x7040, 0x10, 0x2F, 4, .u32, .ro, false, .val 0, 0, 4294967295⟩,
  ⟨0x7050, 0x01, 0x01, 1, .u8, .rw, true, .val 0, 0, 32⟩,
  ⟨0x7050, 0x02, 0x02, 1, .u8, .ro, true, .val 0, 0, 255⟩,
  ⟨0x7050, 0x03, 0x03, 4, .u32, .ro, true, .val 0, 0, 4294967295⟩,
  ⟨0x7050, 0x04, 0x04, 2, .u16, .ro, false, .val 0, 0, 65535⟩,
  ⟨0x7050, 0x05, 0x09, 8, .u64, .ro, false, .val 0, 0, 18446744073709551615⟩,
  ⟨0x7050, 0x10, 0x2F, 4, .u32, .ro, false, .val 0, 0, 4294967295⟩,
  ⟨0x7060, 0x01, 0x01, 8, .u64, .ro, false, .val 0, 0, 18446744073709551615⟩,
  ⟨0x7060, 0x02, 0x02, 4, .u32, .ro, true, .val 0, 0, 4294967295⟩,
  ⟨0x7070, 0x01, 0x04, 8, .u64, .ro, false, .val 0, 0, 18446744073709551615⟩,
  ⟨0x7070, 0x05, 0x05, 4, .q32, .ro, false, .val 0, 0, 4294967295⟩,
  ⟨0x7070, 0x06, 0x06, 8, .u64, .ro, false, .val 0, 0, 18446744073709551615⟩,
  ⟨0x7070, 0x07, 0x07, 1, .bool, .ro, false, .val 0, 0, 1⟩,
  ⟨0x7070, 0x08, 0x09, 8, .u64, .ro, false, .val 0, 0, 18446744073709551615⟩]

/-- Region 8000. -/
def dictRows8 : List DRow := [
  ⟨0x8000, 0x01, 0x01, 1, .u8, .ro, false, .val 0, 0, 255⟩,
  ⟨0x8000, 0x02, 0x02, 1, .u8, .ro, true, .val 0, 0, 255⟩,
  ⟨0x8000, 0x03, 0x03, 1, .bool, .rw, true, .val 0, 0, 1⟩,
  ⟨0x8000, 0x04, 0x04, 1, .bool, .rw, true, .val 1, 0, 1⟩,
  ⟨0x8000, 0x05, 0x05, 4, .u32, .rw, true, .val 0, 0, 60000⟩,
  ⟨0x8000, 0x06, 0x06, 2, .u16, .rw, true, .val 60, 1, 240⟩,
  ⟨0x8000, 0x07, 0x07, 4, .u32, .ro, true, .val 0, 0, 4294967295⟩,
  ⟨0x8000, 0x08, 0x09, 1, .u8, .ro, true, .val 0, 0, 255⟩,
  ⟨0x8000, 0x0A, 0x0A, 16, .octets, .rw, true, .val 0, 0, 340282366920938463463374607431768211455⟩,
  ⟨0x8000, 0x0B, 0x0B, 1, .u8, .rw, true, .val 0, 0, 2⟩,
  ⟨0x8010, 0x01, 0x01, 8, .u64, .ro, false, .val 0, 0, 18446744073709551615⟩,
  ⟨0x8010, 0x03, 0x04, 8, .u64, .ro, false, .val 0, 0, 18446744073709551615⟩,
  ⟨0x8010, 0x05, 0x05, 8, .u64, .ro, true, .val 0, 0, 18446744073709551615⟩,
  ⟨0x8010, 0x06, 0x06, 4, .u32, .ro, true, .val 0, 0, 4294967295⟩,
  ⟨0x8010, 0x07, 0x07, 8, .u64, .ro, false, .val 0, 0, 18446744073709551615⟩,
  ⟨0x8010, 0x08, 0x08, 8, .u64, .ro, true, .val 0, 0, 18446744073709551615⟩]

/-- Region 9000. -/
def dictRows9 : List DRow := [
  ⟨0x9000, 0x01, 0x01, 1, .bool, .rw, true, .val 1, 0, 1⟩,
  ⟨0x9000, 0x02, 0x02, 1, .u8, .rw, true, .val 24, 1, 168⟩,
  ⟨0x9000, 0x03, 0x03, 4, .u32, .rw, true, .val 2000, 2000, 1000000⟩,
  ⟨0x9000, 0x04, 0x04, 1, .u8, .ro, false, .val 0, 0, 255⟩,
  ⟨0x9000, 0x05, 0x06, 4, .u32, .ro, true, .val 0, 0, 4294967295⟩,
  ⟨0x9000, 0x07, 0x07, 8, .u64, .ro, true, .val 0, 0, 18446744073709551615⟩,
  ⟨0x9000, 0x08, 0x08, 32, .octets, .ro, true, .val 0, 0, 115792089237316195423570985008687907853269984665640564039457584007913129639935⟩,
  ⟨0x9000, 0x09, 0x09, 4, .u32, .ro, false, .val 0, 0, 4294967295⟩]

/-- The record whose rows describe index `i`: slots, channels, ports and tenants share one. -/
def dictBase (i : Nat) : Nat :=
  if 0x2100 ≤ i ∧ i < 0x2118 then 0x2100
  else if 0x2500 ≤ i ∧ i < 0x26C0 then 0x2500
  else if i = 0x1111 then 0x1110
  else if 0x6000 ≤ i ∧ i < 0x6400 then 0x6000
  else i

/-- The rows of a region, by the first digit of the index. -/
def dictRegion (i : Nat) : List DRow :=
  match i / 0x1000 with
  | 1 => dictRows1
  | 2 => dictRows2
  | 3 => dictRows3
  | 4 => dictRows4
  | 5 => dictRows5
  | 6 => dictRows6
  | 7 => dictRows7
  | 8 => dictRows8
  | 9 => dictRows9
  | _ => []

/-- The row of an entry. -/
def dictRow (i sub : Nat) : Option DRow :=
  (dictRegion i).find? (fun r => r.idx == dictBase i && decide (r.lo ≤ sub) && decide (sub ≤ r.hi))

/-- The highest subindex of a record; none if the index is no record. -/
def dictTop (i : Nat) : Option Nat :=
  match (dictRegion i).filter (fun r => r.idx == dictBase i) with
  | [] => none
  | l => some (l.foldl (fun m r => max m r.hi) 0)

/-- The key of an entry. -/
def dk (i sub : Nat) : Nat := i * 256 + sub

/-- The ordering code TA7448-ss-kk as its string value (Table 20.11). -/
def orderCode : Nat :=
  0x2D383434374154 + (if Config.speed36 then 0x3633 else 0x3832) * 2 ^ 56 + 0x2D * 2 ^ 72 +
    (if Config.customerKey then 0x4B43 else 0x5356) * 2 ^ 80

/-- The value an entry holds where no write has changed it. -/
def dictDefault (k : Nat) : Nat :=
  match dictRow (k / 256) (k % 256) with
  | none => 0
  | some r =>
    match r.reset with
    | .val n => n
    | .cal => Config.calValue k
    | .ident => if k = 0x100003 then orderCode else Config.identity k
    | .port => (k / 256 - 0x6000) % 4
    | .slotEn => if k / 256 < 0x2116 then 1 else 0

/-- The logbook section of a P entry (Table 17.6). -/
def dictSection (i sub : Nat) : Nat :=
  match dictRow i sub with
  | none => 1
  | some r =>
    if i / 0x100 = 0x10 then 0
    else if r.reset = .cal ∨ (i = 0x2000 ∧ sub = 7) then 2
    else if i = 0x7050 ∧ (sub = 2 ∨ sub = 3) then 3
    else if i / 0x1000 = 6 then 4
    else if i = 0x4020 ∧ sub = 4 then 5
    else if i = 0x8000 ∨ i = 0x8010 then 6
    else if r.acc = .ro then 7
    else 1

end Sys2Proof.Machine
end

