-- ==== Sys2Proof/Machine/IkTypes.lean ====
section
/-!
DEFINITION. The state of the Ikixa cores: register banks, writes in flight, stream windows, the
X queue, and the issue state of the running block.
-/
namespace Sys2Proof.Machine

/-- One register bank (R207): x1 to x63, v0 to v31, rc and the private bits b0 to b1023. -/
structure Bank where
  x  : Tab W64
  v  : Tab V512
  rc : W16
  b  : BitVec 1024
  deriving DecidableEq, Repr

/-- One write of a syllable. Memory addresses are those of the core's data window (R213), or fabric
addresses on a control core. -/
inductive Wr where
  | x (r : Nat) (w : W64)
  | v (r : Nat) (w : V512)
  | rc (w : W16)
  | bit (k : Nat) (w : Bool)
  | mem (a : Nat) (bs : List Byte)
  deriving DecidableEq, Repr

/-- A write in flight and the block cycle from which reads see it (R233). -/
structure Pend where
  due : Nat
  wr  : Wr
  deriving DecidableEq, Repr

/-- A stream window (R216, R217). -/
structure Stream where
  isOpen   : Bool
  draining : Bool
  outbound : Bool
  ready0   : Bool
  ready1   : Bool
  sfault   : Bool
  slm      : Bool
  far      : Nat
  length   : Nat
  moved    : Nat
  taken    : Nat
  half     : Bool
  committed : List Bool
  thread   : Nat
  channel  : Nat
  notify   : Bool
  result   : Nat
  /-- its result word has been written -/
  reported : Bool
  /-- opened while its thread was poisoned: tokens marked, transfers to SLM discarded (R197) -/
  poisoned : Bool
  deriving DecidableEq, Repr

/-- A requirement of a WAIT: channel and count. -/
structure Req where
  channel : Nat
  count   : Nat
  deriving DecidableEq, Repr

/-- How a block ends (R258). -/
inductive EndEv where
  | wait (reqs : List Req) (next : W64)
  | yield (next : W64)
  | exit
  deriving DecidableEq, Repr

/-- An entry of a core's X queue (Table 9.3): a queued syllable with what it read at issue. -/
inductive XReq where
  | post (channel qty : Nat)
  | spawn (rec : List Byte)
  | dma (rec : List Byte)
  | sopen (rec : List Byte)
  | scan (rec : List Byte)
  | timerArm (rec : List Byte)
  | timerCancel (handle : Nat)
  | pclr
  deriving DecidableEq, Repr

/-- An X queue entry with the bundle address of its syllable and the thread that issued it. -/
structure XEnt where
  pc  : W64
  thread : Nat
  req : XReq
  deriving DecidableEq, Repr

/-- What the syllables of a bundle do once the bundle is known to be legal. -/
inductive Eff where
  | wr (lat : Nat) (w : Wr)
  | shared (k : Nat) (w : Bool)
  | sharedRmw (k : Nat) (set : Bool) (dst : Nat)
  | branch (target : Nat) (taken : Bool)
  | call (target imask vmask : Nat)
  | ret (target : W64) (fsize : Nat) (regs : List Nat) (vregs : List Nat)
  | rep (count : Nat)
  | block (nreq : Nat)
  | finish (e : EndEv)
  | queue (x : XReq)
  | fault (code channel : Nat)
  | sadv (w : Nat) (half : Bool)
  | sclose (w : Nat)
  deriving DecidableEq, Repr

/-- A repeat in progress (R253): iterations left, rc as the REP bundle read it, the last held write
to rc, iterations issued, the running bases of R239 and the address of the repeated bundle. -/
structure Rep where
  left  : Nat
  iter  : Nat
  rc    : W16
  held  : Option W16
  bases : Tab W64
  deriving DecidableEq, Repr

/-- The bundle being gathered: its words so far, its last unit, the effects of its syllables, and
what its syllables are, for R222, R249 and R254. -/
structure Bundle where
  words   : Nat
  last    : Option Nat
  effs    : List Eff
  illegal : Bool
  hasB    : Bool
  hasBlock : Bool
  hasEnd  : Bool
  hasX    : Bool
  deriving DecidableEq, Repr

/-- What a core is doing: idle, given a thread it has still to switch to, running a block, or
holding a block's end event. -/
inductive Phase where
  | idle
  | switching (thread : Nat)
  | running (thread : Nat)
  | ended (thread : Nat)
  deriving DecidableEq, Repr

/-- The first fault an X syllable of the running block raised: its code, its bundle and the channel
it names (R259). -/
structure CoreFault where
  code    : Nat
  pc      : W64
  channel : Nat
  deriving DecidableEq, Repr

/-- One core, lighter or control. -/
structure Core where
  phase    : Phase
  bank     : Bool
  bank0    : Bank
  bank1    : Bank
  pend     : List Pend
  /-- block cycle in which the bundle being gathered issues -/
  cyc      : Nat
  /-- cluster cycle of block cycle 0 -/
  base     : Nat
  /-- bundle address of the bundle being gathered -/
  pc       : W64
  /-- bundle address of the last bundle issued -/
  lastPc   : W64
  first    : Bool
  /-- the running block is its thread's first (R257) -/
  newThread : Bool
  /-- block end cycle so far (R274) -/
  endCyc   : Nat
  bun      : Bundle
  /-- delay bundles still to issue, and the target taken after them -/
  delay    : Nat
  target   : Option Nat
  rep      : Option Rep
  fault    : Option CoreFault
  xq       : List XEnt
  endEv    : Option EndEv
  poisoned : Bool
  migrated : Bool
  fresh    : Bool
  streams  : Tab Stream
  deriving DecidableEq, Repr

/-- A write to a shared bit on its way (R211): the cluster cycle it issued in, the core, and the
bit. -/
structure ShPend where
  issued : Nat
  core   : Nat
  key    : Nat
  val    : Bool
  deriving DecidableEq, Repr

/-- The cores and what the clusters share. Scratchpads and stream buffers are one memory: core c's
data window begins at c × 2^20. Shared bits are keyed by
(cluster × 1,025 + space) × 1,024 + bit − 1,024; cluster 8 stands for the control cores. -/
structure Ikixa where
  cores   : Tab Core
  spad    : Tab Byte
  shared  : Tab Bool
  shPend  : Tab (List ShPend)
  /-- cycle counter of each cluster -/
  clk     : Tab Nat
  /-- the firmware context area: the registers of a control thread between blocks (Table 7.1) -/
  ctx     : Tab Bank
  deriving DecidableEq, Repr

def Bank.empty : Bank := { x := [], v := [], rc := 0, b := 0 }
def Bundle.empty : Bundle :=
  { words := 0, last := none, effs := [], illegal := false, hasB := false, hasBlock := false,
    hasEnd := false, hasX := false }
def Stream.closed : Stream :=
  { isOpen := false, draining := false, outbound := false, ready0 := false, ready1 := false,
    sfault := false, slm := false, far := 0, length := 0, moved := 0, taken := 0, half := false,
    committed := [], thread := 0, channel := 0, notify := false, result := 0, reported := false, poisoned := false }
def Core.empty : Core :=
  { phase := .idle, bank := false, bank0 := .empty, bank1 := .empty, pend := [], cyc := 0,
    base := 0, pc := 0, lastPc := 0, first := true, newThread := false, endCyc := 0, bun := .empty, delay := 0,
    target := none, rep := none, fault := none, xq := [], endEv := none,
    poisoned := false, migrated := false, fresh := false, streams := [] }
def Ikixa.empty : Ikixa := { cores := [], spad := [], shared := [], shPend := [], clk := [], ctx := [] }

end Sys2Proof.Machine
end

