-- ==== Sys2Proof/Machine/HarbourTypes.lean ====
section
/-!
DEFINITION. The state of the berth pool manager and of the harbour master.
-/
namespace Sys2Proof.Machine

/-- A berth: whether it is allocated, its owner tag (R160), the tags holding claims (one entry a
claim) and the DONE channel of the latest SHARE that named one, with its space. -/
structure Berth where
  alloc  : Bool
  owner  : Nat
  claims : List Nat
  done   : Option (Nat × Nat)
  deriving DecidableEq, Repr

def Berth.free : Berth := { alloc := false, owner := 0, claims := [], done := none }

/-- A requester waiting in a class's queue, or a request held in its port's queue. -/
structure Waiter where
  who : Requester
  tag : Nat
  req : BerthReq
  deriving DecidableEq, Repr

/-- The berth pool (chapter 5). Berths are keyed by their address. The hot stacks list berth
addresses, most recently pushed first. -/
structure Pool where
  berths    : Tab Berth
  nearStack : List Nat
  farStack  : List Nat
  nearWait  : List Waiter
  farWait   : List Waiter
  /-- requests waiting in their port queue behind a full wait share (R165), oldest first -/
  held      : List Waiter
  /-- reclaims waiting for a transfer on their berth to end (R170) -/
  reclaims  : List Nat
  nearLow   : Nat
  farLow    : Nat
  deriving DecidableEq, Repr

/-- What a new thread's first block finds (R231). -/
structure ThreadInit where
  data : List Byte
  x1   : W64
  x2   : W64
  deriving DecidableEq, Repr

/-- A thread descriptor (Table 6.1), with the Execute Program it descends from, the save berths
holding its window, and the state its first block starts with. -/
structure Thread where
  state    : Nat
  prio     : Nat
  poisoned : Bool
  space    : Nat
  cmask    : Nat
  lastCore : Nat
  entry    : W64
  winBase  : Nat
  winSize  : Nat
  faultCh  : Option Nat
  reqs     : List Req
  fault    : Nat
  timers   : Nat
  /-- ready while held (R176) -/
  heldReady : Bool
  /-- a tenant reset waits for its block boundary -/
  stopping : Bool
  root     : Option Nat
  saved    : List Nat
  init     : Option ThreadInit
  /-- the order in which it last became ready (R187) -/
  readySeq : Nat
  /-- a control thread stopped by a fault, to be restarted (R200) -/
  restart  : Bool
  deriving DecidableEq, Repr

def Thread.free : Thread :=
  { state := 0, prio := 0, poisoned := false, space := 0, cmask := 0, lastCore := 0xFFFF,
    entry := 0, winBase := 0, winSize := 0, faultCh := none, reqs := [], fault := 0, timers := 0,
    heldReady := false, stopping := false, root := none, saved := [], init := none,
    readySeq := 0, restart := false }

/-- A channel: tokens posted and not consumed, and the poison mark (R197). -/
structure Chan where
  count  : Nat
  marked : Bool
  deriving DecidableEq, Repr

/-- Where a ready thread waits to be chosen (R187). -/
inductive Place where
  | affinity (core : Nat)
  | cluster (c : Nat)
  | control
  | ring (c : Nat)
  deriving DecidableEq, Repr

structure Ready where
  thread : Nat
  place  : Place
  deriving DecidableEq, Repr

/-- An entry of the spill ring (R186). -/
inductive RingEnt where
  | req (thread : Nat) (r : Req)
  | chan (key : Nat)
  | ready (thread : Nat)
  deriving DecidableEq, Repr

/-- A post applied when its channel's entry returns from the ring. -/
structure RingPost where
  key : Nat
  qty : Nat
  poisoned : Bool
  port : Nat
  deriving DecidableEq, Repr

/-- The lease of a lighter core (R193): its space, the order of its grant, and whether the minimum
and the quantum have passed. -/
structure CoreLease where
  space   : Option Nat
  seq     : Nat
  minOver : Bool
  quantum : Bool
  /-- to be taken back at the next block boundary (R193) -/
  taking  : Bool
  /-- a change under way (R194): the space the core passes to, or none where it becomes free -/
  next    : Option (Option Nat)
  deriving DecidableEq, Repr

def CoreLease.free : CoreLease :=
  { space := none, seq := 0, minOver := false, quantum := false, taking := false,
    next := none }

/-- An armed timer (R195). -/
structure Timer where
  space   : Nat
  channel : Nat
  qty     : Nat
  thread  : Nat
  delay   : Nat
  /-- the time it was armed, ms -/
  at_     : Nat
  deriving DecidableEq, Repr

/-- A transfer started by a DMA syllable. -/
structure Dma where
  live    : Bool
  thread  : Nat
  core    : Nat
  far     : Nat
  near    : Nat
  length  : Nat
  toFar   : Bool
  slm     : Bool
  channel : Nat
  notify  : Bool
  /-- discarded under R197, yet reported as complete -/
  discard : Bool
  /-- issued while its thread was poisoned: its token carries the mark -/
  poisoned : Bool
  deriving DecidableEq, Repr

def Dma.empty : Dma :=
  { live := false, thread := 0, core := 0, far := 0, near := 0, length := 0, toFar := false,
    slm := false, channel := 0, notify := false, discard := false, poisoned := false }

/-- The harbour master (chapter 6). Threads: lighter n at n, control n at 65,536 + n. Channels are
keyed by space × 2^24 + identifier. Cores: lighter c at c, control k at 256 + k. -/
structure Harbour where
  threads  : Tab Thread
  chans    : Tab Chan
  /-- waiting threads in the order their WAITs were resolved -/
  waits    : List Nat
  ready    : List Ready
  /-- threads that have become ready so far -/
  readyCount : Nat
  /-- by cluster: when a core of it last fell idle, or it came on (Table 15.2) -/
  idleAt     : Tab Nat
  ring     : List RingEnt
  ringPosts : List RingPost
  leases   : Tab CoreLease
  grantSeq : Nat
  timers   : Tab (Option Timer)
  dmas     : Tab Dma
  dmaSeq   : Nat
  spillHigh : Nat
  /-- threads whose freeing waits for transfers to end (R260) -/
  dying    : List Nat
  deriving DecidableEq, Repr

def Pool.empty : Pool :=
  { berths := [], nearStack := [], farStack := [], nearWait := [], farWait := [], held := [],
    reclaims := [], nearLow := 24576, farLow := 1048576 }
def Harbour.empty : Harbour :=
  { threads := [], chans := [], waits := [], ready := [], readyCount := 0, idleAt := [], ring := [], ringPosts := [],
    leases := [], grantSeq := 0, timers := [], dmas := [], dmaSeq := 0,
    spillHigh := 0, dying := [] }

end Sys2Proof.Machine
end

