-- ==== Sys2Proof/Machine/HostTypes.lean ====
section
/-!
DEFINITION. The state of the host interface: controllers, queues, docket and lock tables, events
and everything the module sends outside.
-/
namespace Sys2Proof.Machine

/-- What a completion or a response transfers: nothing, bytes this manual lays out, or the named
fields of a structure that NVMe 2.1 lays out. -/
inductive Payload where
  | none
  | bytes (l : List Byte)
  | fields (l : List (String × Nat))
  | units (l : List (Option (List Byte)))
  deriving DecidableEq, Repr

/-- A completion queue entry with the data its command transferred to the host. -/
structure Cpl where
  fn     : Nat
  sqid   : Nat
  cid    : Nat
  status : Status
  dnr    : Bool
  dw0    : Nat
  dw1    : Nat
  data   : Payload
  deriving DecidableEq, Repr

/-- A message on the hawser link. -/
structure HawMsg where
  typ  : Nat
  hdr  : MsgHdr
  body : List Byte
  deriving DecidableEq, Repr

/-- Response statuses of the NVMe Management Interface that the manual names. -/
inductive MiStatus where
  | success | internalError | invalidOpcode | invalidParameter | pcieInaccessible
  deriving DecidableEq, Repr

/-- What leaves the module. The list in the state has the newest first. -/
inductive Out where
  | cpl (cqid : Nat) (c : Cpl)
  | msi (fn vector : Nat)
  | frame (port : Nat) (bytes : List Byte)
  /-- an NVMe-MI response: its status, its NVMe Management Response bits and its data -/
  | mi (port : Nat) (status : MiStatus) (resp : Nat) (data : Payload)
  /-- how an access that names no carrier ended: its abort code (0: none), and what it returned -/
  | access (path : Path) (index sub code : Nat) (data : List Byte)
  /-- the completion of an admin command tunnelled over NVMe-MI -/
  | miAdmin (port : Nat) (status : Status) (dnr : Bool) (dw0 : Nat) (data : Payload)
  /-- an MCTP control response: completion code, then its data -/
  | mctp (port : Nat) (bytes : List Byte)
  /-- what an I3C target sends when its address is assigned: provisioned ID, BCR and DCR -/
  | i3c (port pid bcr dcr : Nat)
  | flit (sub : Nat) (bytes : List Byte)
  | cascade (words : List W64)
  | berthResult (port index : Nat) (word : W64)
  deriving DecidableEq, Repr

/-- An asynchronous event: type (0 error, 1 SMART / health, 2 notice, 7 vendor), information and
log page. -/
structure Event where
  typ  : Nat
  info : Nat
  log  : Nat
  deriving DecidableEq, Repr

/-- A freeze of an ordered queue (R64, Table 2.9). Times are readings of the event clock. -/
structure Freeze where
  cid       : Nat
  slot      : Nat
  status    : Nat
  next      : Nat
  cancelled : Nat
  finished  : Nat
  time      : Nat
  order     : Nat
  /-- docket number after which commands are cancelled -/
  seq       : Nat
  deriving DecidableEq, Repr

/-- An I/O submission queue. -/
structure Sq where
  live    : Bool
  size    : Nat
  cqid    : Nat
  head    : Nat
  tail    : Nat
  ordered : Bool
  freeze  : Option Freeze
  /-- its index in the pool of 16,384 queue pairs (Table 6.2) -/
  pool    : Nat
  /-- docket numbers of its commands that have finished normally while an earlier one is in flight (R66) -/
  finished : List Nat
  deriving DecidableEq, Repr

/-- A completion queue; entries that find it full wait, oldest first. -/
structure Cq where
  live   : Bool
  size   : Nat
  vector : Nat
  ien    : Bool
  used   : Nat
  head   : Nat
  waiting : List Cpl
  deriving DecidableEq, Repr

/-- An entry of the Error Information log. -/
structure ErrEnt where
  count  : Nat
  sqid   : Nat
  cid    : Nat
  status : Status
  lba    : Nat
  nsid   : Nat
  deriving DecidableEq, Repr

/-- A controller: its registers, queues, features, events and logs. Functions are 0 (physical) and
n for virtual function n. -/
structure Fn where
  present  : Bool
  en       : Bool
  rdy      : Bool
  shst     : Nat
  online   : Bool
  vq       : Nat
  vi       : Nat
  /-- the physical function's allocation from its next reset on; of a virtual function, the resources
  an offline controller has still to return -/
  vqNext   : Nat
  viNext   : Nat
  adminSq  : Nat
  adminCq  : Nat
  sqs      : Tab Sq
  cqs      : Tab Cq
  features : Tab Nat
  aers     : List Nat
  events   : List Event
  errors   : List ErrEnt
  errCount : Nat
  freezeGen : Nat
  aborts   : Nat
  tsOffset : Int
  tsSet    : Bool
  changedNs : List Nat
  resvLog  : List (Nat × Nat)
  hostId   : Nat
  nqSet    : Bool
  coal     : Tab Nat
  /-- the queue served last and how many commands of it were fetched in a row (R55) -/
  rrQueue  : Nat
  rrCount  : Nat
  /-- zones whose descriptors the module has changed by itself, with their namespaces (log page 0xBF) -/
  changedZones : List (Nat × Nat)
  deriving DecidableEq, Repr

def Fn.empty : Fn :=
  { present := false, en := false, rdy := false, shst := 0, online := false, vq := 0, vi := 0,
    vqNext := 0, viNext := 0, adminSq := 0, adminCq := 0, sqs := [], cqs := [],
    features := [], aers := [], events := [], errors := [], errCount := 0, freezeGen := 0,
    aborts := 0, tsOffset := 0, tsSet := false, changedNs := [], resvLog := [],
    hostId := 0, nqSet := false, coal := [], rrQueue := 0, rrCount := 0, changedZones := [] }
def Sq.empty : Sq :=
  { live := false, size := 0, cqid := 0, head := 0, tail := 0, ordered := false, freeze := none,
    pool := 0, finished := [] }
def Cq.empty : Cq :=
  { live := false, size := 0, vector := 0, ien := false, used := 0, head := 0, waiting := [] }

/-- A docket state word (R61). -/
inductive StateWord where
  | admitted | committed | cancelled | closed
  deriving DecidableEq, Repr

/-- A lock table entry (R56): namespace, LBA range, and whether it is a write entry. -/
structure Lock where
  nsid  : Nat
  lo    : Nat
  hi    : Nat
  write : Bool
  deriving DecidableEq, Repr

/-- A docket entry. -/
structure Docket where
  word     : StateWord
  fn       : Nat
  sqid     : Nat
  slot     : Nat
  sqe      : Sqe
  seq      : Nat
  locks    : List Lock
  stalled  : Bool
  /-- the command's own row has been presented -/
  started  : Bool
  /-- hold-up was healthy when the command was fetched (R33) -/
  healthy  : Bool
  /-- its queue was ordered when the command was fetched (R63) -/
  ordered  : Bool
  /-- write-path compression was on when the command was fetched (R315) -/
  pack     : Bool
  data     : List Byte
  berths   : List Nat
  /-- all data sits in far berths -/
  dataIn   : Bool
  /-- held at step 3 of Table 1.5 -/
  heldAt3  : Bool
  programmed : Bool
  /-- where the flash program put the command's units -/
  places   : List Placement
  /-- the completion has been posted, or a reset has discarded it -/
  posted   : Bool
  /-- the partner has acknowledged, or need not; the acknowledgement has lapsed -/
  acked    : Bool
  lapsed   : Bool
  /-- committed degraded: RESYNC marks (R116) -/
  degraded : Bool
  /-- flash addresses whose reads the command waits for, those of its pages that could not be recovered, and
  whether they are the rest of partly written units (R84) -/
  reads    : List Nat
  failed   : List Nat
  partRead : Bool
  /-- the journal's last number when the command's flash program was issued (R125) -/
  issueJsn : Nat
  /-- a zone command that waits for a fold row in flight (R132) -/
  foldWait : Bool
  /-- the LBA a Zone Append was assigned -/
  aux      : Nat
  /-- zone, first zone-relative unit and units of a zoned write -/
  zoneAt   : Option (Nat × Nat × Nat)
  /-- a forwarded command's tag at the partner it came from -/
  remote   : Option Nat
  /-- a mirrored write from the partner: the MSEQ to acknowledge -/
  mirrorOf : Option Nat
  /-- the journal number that the closing, or a cancelled completion, waits for -/
  waitJsn  : Option Nat
  /-- cancelled: the status still to be posted; none after a reset -/
  cancelSt : Option Status
  /-- poisoned, or faulted with code and thread (R198) -/
  poisoned : Bool
  faulted  : Option (Nat × Nat)
  live     : Nat
  deriving DecidableEq, Repr

def emptySqe : Sqe :=
  { kind := .flush, cid := 0, nsid := 0, slba := 0, nlb := 0, ranges := [], flag := false,
    format := 0, dw2 := 0, dw3 := 0, dw := [] }

/-- A free docket entry. -/
def Docket.free : Docket :=
  { word := .closed, fn := 0, sqid := 0, slot := 0, sqe := emptySqe, seq := 0, locks := [],
    stalled := false, started := false, healthy := false, ordered := false, pack := false, data := [], berths := [],
    dataIn := false, heldAt3 := false, programmed := false, places := [], posted := false,
    acked := false, lapsed := false, degraded := false, reads := [], failed := [], partRead := false, issueJsn := 0, foldWait := false, aux := 0,
    zoneAt := none, remote := none, mirrorOf := none, waitJsn := none, cancelSt := none,
    poisoned := false, faulted := none, live := 0 }

/-- A tenant fault record (Table 19.6); the time is a reading of the event clock. -/
structure FaultRec where
  seq     : Nat
  time    : Nat
  tenant  : Nat
  kind    : Nat
  code    : Nat
  thread  : Option Nat
  addr    : W64
  channel : Nat
  port    : Nat
  deriving DecidableEq, Repr

/-- A Persistent Event Log entry: what it names and two numbers. -/
structure PelEnt where
  time : Nat
  what : String
  a    : Nat
  b    : Nat
  deriving DecidableEq, Repr

/-- The waiting Set Features (Power Management) (R62, R73). -/
structure PsWait where
  adm    : Adm
  target : Nat
  saved  : Nat
  /-- 1 ms has passed with no I/O command in flight -/
  idle   : Bool
  deriving DecidableEq, Repr

/-- Firmware activation without reset in progress (Table 2.11a). -/
structure Activation where
  adm  : Adm
  slot : Nat
  /-- when step 1 stopped fetching -/
  start : Nat
  deriving DecidableEq, Repr

/-- The host interface. -/
structure HostIf where
  fns      : Tab Fn
  dockets  : Tab Docket
  seq      : Nat
  freezeSeq : Nat
  /-- fetching stopped under R55 -/
  globalStop : Bool
  /-- the weighted round robin that a resume starts: what each function has fetched in its round (R55) -/
  round    : Option (Tab Nat)
  /-- when the last docket entry was closed (R73) -/
  busyAt   : Nat
  ps       : Nat
  psLastOp : Nat
  psWait   : Option PsWait
  /-- further waiting Set Features (Power Management), oldest first -/
  psQueue  : List PsWait
  activation : Option Activation
  /-- admin commands that wait for a journal record to be durable: its number, the command, dword 0 -/
  admWait  : List (Nat × Adm × Nat)
  /-- the virtual functions of each port whose SR-IOV is enabled, by ascending module-wide number: their
  count is TotalVFs, and the places in the list are the PCIe VF numbers from 1 (R40) -/
  vfEnabled : Tab (List Nat)
  perst    : List Nat
  /-- data units read and written, in bytes -/
  bytesRead : Nat
  bytesWritten : Nat
  bytesMedia : Nat
  smartWarn : Nat
  deriving DecidableEq, Repr

def HostIf.empty : HostIf :=
  { fns := [], dockets := [], seq := 0, freezeSeq := 0, globalStop := false, round := none, busyAt := 0,
    ps := 0, psLastOp := 0, psWait := none, psQueue := [], activation := none, admWait := [], vfEnabled := [],
    perst := [], bytesRead := 0, bytesWritten := 0, bytesMedia := 0, smartWarn := 0 }

/-- A loaded program image (R228 to R231). The owner is a tenant, or 1,025 for the physical
function's own table. -/
structure Image where
  handle  : Nat
  owner   : Nat
  index   : Nat
  base    : Nat
  code    : List Byte
  data    : List Byte
  entry   : Nat
  wbase   : Nat
  wsize   : Nat
  prio    : Nat
  cmask   : Nat
  reqfeat : Nat
  active  : Bool
  deriving DecidableEq, Repr

/-- A memory range set of a tenant's SLM: identifier and byte ranges. -/
structure RangeSet where
  fn     : Nat
  rsid   : Nat
  ranges : List (Nat × Nat)
  deriving DecidableEq, Repr

/-- Programs and subsystem local memory. A tenant's lease lies from tenant × 2^34 on; what no lease
holds is not listed. -/
structure Programs where
  images    : List Image
  nextHandle : Nat
  ranges    : List RangeSet
  nextRsid  : Nat
  slm       : Tab Byte
  deriving DecidableEq, Repr

def Programs.empty : Programs :=
  { images := [], nextHandle := 1, ranges := [], nextRsid := 1, slm := [] }

end Sys2Proof.Machine
end

