-- ==== Sys2Proof/Machine/MediaTypes.lean ====
section
/-!
DEFINITION. The state of namespaces, the split map, the journal and the flash media.
-/
namespace Sys2Proof.Machine

/-- The landing slot tag (Table 4.3). -/
structure Tag where
  nsid  : Nat
  unit  : Nat
  zone  : Nat
  ljsn  : Nat
  cseq  : Nat
  cpos  : Nat
  last  : Bool
  pstart : Bool
  pcont : Bool
  dump  : Bool
  deriving DecidableEq, Repr

/-- A programmed 4 KiB flash slot: its bytes before sealing, the namespace key generation and the key they
are sealed under (no key: not sealed), the tweak (R339), its landing tag, and when it was programmed. -/
structure Slot where
  data : List Byte
  key  : Nat
  tag  : Option Tag
  sealKey : List Byte := []
  tweak : Nat := 0
  time : Nat := 0
  deriving DecidableEq, Repr

/-- A block: pool (0 free and in no lot, 1 data landing, 2 journal, 3 peer log, 4 dump reserve, 5 checkpoint,
6 member of a lot in service, 7 retired, 8 free and a member of a free lot), erase counts, reads since erase, uses of recovery step 4, the rank it is queued
for refresh at (0 none), and whether it is open. -/
structure Block where
  pool    : Nat
  eq      : Nat
  es      : Nat
  reads   : Nat
  step4   : Nat
  refresh : Nat
  retireNext : Bool
  open_   : Bool
  deriving DecidableEq, Repr

def Block.fresh : Block :=
  { pool := 0, eq := 0, es := 0, reads := 0, step4 := 0, refresh := 0, retireNext := false,
    open_ := false }

/-- A member of a lot: block number, CE × 8 + LUN, member state. -/
structure Member where
  block : Nat
  celun : Nat
  mstate : Nat
  deriving DecidableEq, Repr

/-- A lot descriptor (Table 3.5). -/
structure Lot where
  state   : Nat
  zoned   : Bool
  mirrored : Bool
  reloc   : Bool
  chgrp   : Nat
  lost    : Nat
  nsid    : Nat
  zone    : Nat
  wrptr   : Nat
  members : List Member
  gen     : Nat
  foldptr : Nat
  deriving DecidableEq, Repr

def Lot.free : Lot :=
  { state := 0, zoned := false, mirrored := false, reloc := false, chgrp := 0, lost := 0xFF,
    nsid := 0, zone := 0xFFFFFFFF, wrptr := 0, members := [], gen := 0, foldptr := 0 }

/-- A zone table entry (R101). -/
structure Zone where
  lot  : Nat
  lotv : Bool
  zs   : Nat
  wp   : Nat
  deriving DecidableEq, Repr

/-- An empty zone: state 1, no lot. -/
def Zone.empty : Zone := { lot := 0, lotv := false, zs := 1, wp := 0 }

/-- A registrant of a namespace's reservation: controller, host and key. -/
structure Registrant where
  fn  : Nat
  host : Nat
  key : W64
  deriving DecidableEq, Repr

/-- A namespace. -/
structure Ns where
  live    : Bool
  nsze    : Nat
  ncap    : Nat
  lbaf    : Nat
  zoned   : Bool
  shared  : Bool
  mirror  : Bool
  home    : Nat
  attached : List Nat
  deleting : Option Adm
  keyGen  : Nat
  compress : Bool
  compressFn : Nat
  compressSaved : Bool
  regs    : List Registrant
  resvType : Nat
  resvHolder : Option Nat
  resvGen : Nat
  persist : Bool
  ready   : Bool
  /-- its key is being regenerated until this journal number is applied (R340) -/
  rekeyAt : Nat
  deriving DecidableEq, Repr

def Ns.empty : Ns :=
  { live := false, nsze := 0, ncap := 0, lbaf := 0, zoned := false, shared := false,
    mirror := false, home := 0, attached := [], deleting := none, keyGen := 0,
    compress := false, compressFn := 0, compressSaved := false, regs := [], resvType := 0,
    resvHolder := none, resvGen := 0, persist := false, ready := false, rekeyAt := 0 }

/-- A journal record (R108). -/
structure JRec where
  typ   : Nat
  flags : Nat
  count : Nat
  nsid  : Nat
  unit  : Nat
  entry : Nat
  aux   : Nat
  jsn   : Nat
  deriving DecidableEq, Repr

/-- The mapping state: what a checkpoint holds and the journal changes. Map entries are keyed by
namespace × 2^48 + unit, zones by namespace × 2^24 + zone, landing addresses of zoned units by
(namespace × 2^24 + zone) × 2^32 + unit. -/
structure MapSt where
  map   : Tab Nat
  lots  : Tab Lot
  zones : Tab Zone
  zland : Tab Nat
  nss   : Tab Ns
  deriving DecidableEq, Repr

/-- A relocation in progress (Table 4.4): what it is (0 fold, 1 zone fold, 2 garbage collection,
3 refresh, 4 whole-lot move, 5 wear swap), its units with the map words they held when it started (a
zoned 4 KiB unit's is the word of its address), the lot or block it empties, the lot a whole zoned lot
moves to, how far it has come (0 none, 1 copying, 2 records appended, the source's erase due), and a journal
number: the last before its copy began, then its last record's. -/
structure Reloc where
  kind   : Nat
  units  : List (UnitRef × Nat)
  lot    : Option Nat
  block  : Option Nat
  dest   : Option Nat
  step   : Nat
  jsn    : Nat
  deriving DecidableEq, Repr

def Reloc.empty : Reloc :=
  { kind := 0, units := [], lot := none, block := none, dest := none, step := 0, jsn := 0 }

/-- A command whose tags restore will find (R126): its namespace, its zone with the first unit and the
number of units, and the landed units. -/
structure Found where
  nsid   : Nat
  zoneAt : Option (Nat × Nat × Nat)
  places : List Placement
  deriving DecidableEq, Repr

/-- A programmed journal page (R107): where it lies, the JSN of its record 0, its records, and the JSN of
record 0 of the page before it. -/
structure JPage where
  addr : Nat
  jsn  : Nat
  nrec : Nat
  prev : Nat
  deriving DecidableEq, Repr

/-- An object of the checkpoint (R110): 1 map segment, 2 lot-table block, 3 zone-table block, 4 namespace
table, with its namespace and index. -/
structure CkObj where
  kind  : Nat
  nsid  : Nat
  index : Nat
  deriving DecidableEq, Repr

/-- A checkpoint image (Table 3.8): the object, the last JSN it reflects, where it lies, and what it
holds; the namespace table's also holds the grown defect list (R145). -/
structure CkImage where
  obj  : CkObj
  jsn  : Nat
  addr : Nat
  part : MapSt
  gdl  : List Nat
  deriving DecidableEq, Repr

/-- The map root of the logbook (R111): the checkpoint area's location, and the location and JSN of the
start of the journal window. -/
structure MapRoot where
  area  : Nat
  page  : Nat
  start : Nat
  deriving DecidableEq, Repr

/-- Flash media and mapping. -/
structure Media where
  cur      : MapSt
  /-- what the newest image of every object holds, together, and the last journal number a pass reflects -/
  ckpt     : MapSt
  ckptJsn  : Nat
  /-- the images in the checkpoint area, oldest first: at most two of an object -/
  images   : List CkImage
  root     : MapRoot
  cleanStop : Bool
  /-- journal records past the checkpoint, oldest first -/
  journal  : List JRec
  jsn      : Nat
  /-- last record whose journal page is programmed, and last record applied in DRAM -/
  programmedJsn : Nat
  appliedJsn : Nat
  /-- the programmed journal pages of the window, oldest first -/
  pages    : List JPage
  /-- no erase before the journal is programmed up to here (R106) -/
  tailDue  : Nat
  flash    : Tab (Option Slot)
  blocks   : Tab Block
  relocs   : Tab Reloc
  cseq     : Nat
  /-- the grown defect list, and the namespace keys of the namespace table (R338) -/
  gdl      : List Nat
  nsKeys   : Tab (List Byte)
  failedCh : List Nat
  readOnly : Bool
  paced    : Bool
  /-- blocks held by landing; channels whose dump reserve lacks a block, once for each (R122) -/
  landHeld : Nat
  dumpShort : List Nat
  /-- bytes folded, and bytes let in to land, with the time (R133) -/
  folded   : List (Nat × Nat)
  landed   : List (Nat × Nat)
  /-- landed units queued for folding by their age (R131) -/
  foldQueue : List UnitRef
  windowHeld : Bool
  /-- when the last checkpoint pass began -/
  passAt : Option Nat
  /-- the peer log: the partner's records with its numbers, and the last number received -/
  peerLog  : List JRec
  peerJsn  : Nat
  /-- the last of them that a BEAT has acknowledged -/
  peerBeat : Nat
  /-- the last of them that the ring has overwritten, plus 1 (R116) -/
  peerLost : Nat
  /-- last of this module's numbers that the partner has acknowledged -/
  partnerAck : Nat
  /-- lots degraded for more than 24 h -/
  degraded24 : List Nat
  /-- when each degraded lot became so, plus 1 -/
  degradedAt : Tab Nat
  /-- blocks whose erase has been issued, and members of lots in reclaim that have been erased -/
  erasing  : List Nat
  erased   : List Nat
  /-- channel groups in which garbage collection has started and not yet stopped (R134) -/
  gcOn     : List Nat
  /-- complete sets of tagged slots that no durable record covers, in CSEQ order, from a stop to the
  end of the restore that follows -/
  found    : List Found
  /-- the map has been restored -/
  ready    : Bool
  deriving DecidableEq, Repr

def MapSt.empty : MapSt := { map := [], lots := [], zones := [], zland := [], nss := [] }
def Media.empty : Media :=
  { cur := .empty, ckpt := .empty, ckptJsn := 0, images := [], root := { area := 0, page := 0, start := 0 }
    cleanStop := true, journal := [], jsn := 0, programmedJsn := 0, appliedJsn := 0, pages := [], tailDue := 0
    flash := [], blocks := [], relocs := [], cseq := 0, gdl := [], nsKeys := [], failedCh := [], readOnly := false, paced := false
    landHeld := 0, dumpShort := [], folded := [], landed := [], foldQueue := [], windowHeld := false, passAt := none
    peerLog := [], peerJsn := 0, peerBeat := 0, peerLost := 0, partnerAck := 0, degraded24 := [],
    degradedAt := [], erasing := [], erased := [], gcOn := [], found := [], ready := false }

end Sys2Proof.Machine
end

