-- ==== Sys2Proof/Machine/Crypto.lean ====
section
/-!
DEFINITION. The algorithms chapter 12 names by their standards: AES (FIPS 197), GCM (NIST SP
800-38D, 96-bit IV), ChaCha20-Poly1305 (RFC 8439) and the AES key unwrap (RFC 3394). PRESUMED from
those public standards, which R324 and R328 name and do not repeat (log entry 20).
-/
namespace Sys2Proof.Machine

/-! ### AES -/

/-- Multiplication by x in GF(2^8). -/
def gfTimes2 (b : Byte) : Byte := if b.getLsbD 7 then (b <<< 1) ^^^ 0x1B else b <<< 1

/-- Multiplication in GF(2^8), over the low `n` bits of the second factor. -/
def gfMulN : Nat → Byte → Byte → Byte
  | 0, _, _ => 0
  | n + 1, a, b => (if b.getLsbD 0 then a else 0) ^^^ gfMulN n (gfTimes2 a) (b >>> 1)
def gfMul (a b : Byte) : Byte := gfMulN 8 a b

/-- The inverse in GF(2^8), 0 for 0: the 254th power. -/
def gfInv (a : Byte) : Byte :=
  let a2 := gfMul a a
  let a4 := gfMul a2 a2
  let a8 := gfMul a4 a4
  let a16 := gfMul a8 a8
  let a32 := gfMul a16 a16
  let a64 := gfMul a32 a32
  gfMul (gfMul (gfMul a2 a4) (gfMul a8 a16)) (gfMul (gfMul a32 a64) (gfMul a64 a64))

def aesS (a : Byte) : Byte :=
  let b := gfInv a
  b ^^^ b.rotateLeft 1 ^^^ b.rotateLeft 2 ^^^ b.rotateLeft 3 ^^^ b.rotateLeft 4 ^^^ 0x63
def aesInvS (a : Byte) : Byte :=
  gfInv (a.rotateLeft 1 ^^^ a.rotateLeft 3 ^^^ a.rotateLeft 6 ^^^ 0x05)

def xorB (a b : List Byte) : List Byte := List.zipWith (· ^^^ ·) a b

/-- The next words of the key schedule; `ws` holds the words so far, newest first. -/
def keyWords (nk : Nat) : Nat → Byte → List (List Byte) → List (List Byte)
  | 0, _, ws => ws
  | n + 1, rc, ws =>
    let i := ws.length
    let prev := ws.headD []
    let old := (ws[nk - 1]?).getD []
    if i % nk = 0 then
      let t := ((prev.drop 1) ++ (prev.take 1)).map aesS
      let t := match t with | b :: r => (b ^^^ rc) :: r | [] => []
      keyWords nk n (gfTimes2 rc) (xorB old t :: ws)
    else if 6 < nk ∧ i % nk = 4 then keyWords nk n rc (xorB old (prev.map aesS) :: ws)
    else keyWords nk n rc (xorB old prev :: ws)

/-- Cut a list into runs of `k`; the fuel is its length. -/
def chunks {α : Type} (k : Nat) : Nat → List α → List (List α)
  | 0, _ => []
  | n + 1, l => if l.isEmpty then [] else l.take k :: chunks k n (l.drop k)

/-- The round keys of a key of 16 or 32 bytes. -/
def roundKeys (key : List Byte) : List (List Byte) :=
  let nk := key.length / 4
  let ws := (keyWords nk (4 * (nk + 7) - nk) 1 (chunks 4 nk key).reverse).reverse
  (chunks 4 (nk + 7) ws).map List.flatten

def shiftRows (s : List Byte) : List Byte :=
  (List.range 16).map (fun i => (s[(i + 4 * (i % 4)) % 16]?).getD 0)
def unshiftRows (s : List Byte) : List Byte :=
  (List.range 16).map (fun i => (s[(i + 16 - 4 * (i % 4)) % 16]?).getD 0)

/-- A column mix with the coefficients of its first row. -/
def mixBy (c0 c1 c2 c3 : Byte) (s : List Byte) : List Byte :=
  (List.range 16).map (fun i =>
    let at_ (k : Nat) : Byte := (s[i / 4 * 4 + (i + k) % 4]?).getD 0
    gfMul c0 (at_ 0) ^^^ gfMul c1 (at_ 1) ^^^ gfMul c2 (at_ 2) ^^^ gfMul c3 (at_ 3))

/-- The rounds after the first key addition, the last without a column mix. -/
def aesRounds : List (List Byte) → List Byte → List Byte
  | [], s => s
  | [k], s => xorB (shiftRows (s.map aesS)) k
  | k :: ks, s => aesRounds ks (xorB (mixBy 2 3 1 1 (shiftRows (s.map aesS))) k)

/-- AES encryption of one block. -/
def aesEnc (key blk : List Byte) : List Byte :=
  match roundKeys key with
  | k :: ks => aesRounds ks (xorB blk k)
  | [] => []

def aesInvRounds : List (List Byte) → List Byte → List Byte
  | [], s => s
  | [k], s => xorB ((unshiftRows s).map aesInvS) k
  | k :: ks, s => aesInvRounds ks (mixBy 14 11 13 9 (xorB ((unshiftRows s).map aesInvS) k))

/-- AES decryption of one block. -/
def aesDec (key blk : List Byte) : List Byte :=
  match (roundKeys key).reverse with
  | k :: ks => aesInvRounds ks (xorB blk k)
  | [] => []

/-- The `n` bytes of a number, most significant first. -/
def beBytes (n v : Nat) : List Byte := (leBytes n v).reverse
def ofBe (l : List Byte) : Nat := ofLe l.reverse

/-- The key check value: the first 4 bytes of AES-256 of a zero block (R323). -/
def keyCheckValue (key : List Byte) : Nat := ofLe ((aesEnc key (List.replicate 16 0)).take 4)

/-- The steps of RFC 3394 key unwrap from step `t` down; `r` holds the registers, first to last. -/
def unwrapSteps (key : List Byte) : Nat → List Byte → List (List Byte) → List Byte × List (List Byte)
  | 0, a, r => (a, r)
  | t + 1, a, r =>
    let n := r.length
    let i := t % n
    let b := aesDec key (xorB a (beBytes 8 (t + 1)) ++ (r[i]?).getD [])
    unwrapSteps key t (b.take 8) (r.set i (b.drop 8))

/-- RFC 3394 key unwrap with the default initial value: none where its check fails. -/
def keyUnwrap (key wrapped : List Byte) : Option (List Byte) :=
  let ws := chunks 8 wrapped.length wrapped
  match ws with
  | a :: r =>
    let u := unwrapSteps key (6 * r.length) a r
    if u.1 = List.replicate 8 0xA6 then some u.2.flatten else none
  | [] => none

/-! ### GCM -/

/-- The product in the field of GHASH, over `n` bits of `x` from the most significant. -/
def ghMul : Nat → Nat → Nat → Nat → Nat
  | 0, _, _, z => z
  | n + 1, x, v, z =>
    ghMul n x (if v % 2 = 1 then (v / 2) ^^^ (0xE1 * 2 ^ 120) else v / 2)
      (if bitOf x n then z ^^^ v else z)

/-- A run of bytes padded with zeroes to whole blocks of 16. -/
def pad16 (l : List Byte) : List Byte := padTo (ceilDiv l.length 16 * 16) l

def ghash (h : Nat) (data : List Byte) : Nat :=
  (chunks 16 data.length data).foldl (fun y b => ghMul 128 (y ^^^ ofBe b) h 0) 0

/-- The key stream of GCM from payload block `from_` (a counter of 2 serves block 0). -/
def gcmStream (key nonce : List Byte) (from_ n : Nat) : List Byte :=
  ((List.range n).map (fun i => aesEnc key (nonce ++ beBytes 4 ((from_ + i + 2) % 2 ^ 32)))).flatten

def gcmTag (key nonce aad ct : List Byte) : List Byte :=
  let h := ofBe (aesEnc key (List.replicate 16 0))
  let y := ghash h (pad16 aad ++ pad16 ct ++ beBytes 8 (aad.length * 8) ++ beBytes 8 (ct.length * 8))
  xorB (beBytes 16 y) (aesEnc key (nonce ++ beBytes 4 1))

/-! ### ChaCha20-Poly1305 -/

def w32get (s : List W32) (i : Nat) : W32 := (s[i]?).getD 0

def quarter (a b c d : Nat) (s : List W32) : List W32 :=
  let xa := w32get s a + w32get s b
  let xd := (w32get s d ^^^ xa).rotateLeft 16
  let xc := w32get s c + xd
  let xb := (w32get s b ^^^ xc).rotateLeft 12
  let xa := xa + xb
  let xd := (xd ^^^ xa).rotateLeft 8
  let xc := xc + xd
  let xb := (xb ^^^ xc).rotateLeft 7
  (((s.set a xa).set b xb).set c xc).set d xd

def doubleRound (s : List W32) : List W32 :=
  quarter 3 4 9 14 (quarter 2 7 8 13 (quarter 1 6 11 12 (quarter 0 5 10 15
    (quarter 3 7 11 15 (quarter 2 6 10 14 (quarter 1 5 9 13 (quarter 0 4 8 12 s)))))))

def chachaBlock (key nonce : List Byte) (ctr : Nat) : List Byte :=
  let words (l : List Byte) : List W32 := (chunks 4 l.length l).map (fun b => BitVec.ofNat 32 (ofLe b))
  let s : List W32 := [0x61707865, 0x3320646e, 0x79622d32, 0x6b206574] ++ words key ++ [BitVec.ofNat 32 ctr] ++ words nonce
  let t := (List.range 10).foldl (fun s _ => doubleRound s) s
  ((List.zipWith (· + ·) t s).map (fun w => leBytes 4 w.toNat)).flatten

/-- The key stream of 64-byte blocks from payload block `from_` (counter 1 serves block 0). -/
def chachaStream (key nonce : List Byte) (from_ n : Nat) : List Byte :=
  ((List.range n).map (fun i => chachaBlock key nonce (from_ + i + 1))).flatten

def poly1305 (otk msg : List Byte) : List Byte :=
  let r := ofLe (otk.take 16) &&& 0x0ffffffc0ffffffc0ffffffc0fffffff
  let a := (chunks 16 msg.length msg).foldl (fun a b => (a + ofLe b + 2 ^ (8 * b.length)) * r % (2 ^ 130 - 5)) 0
  leBytes 16 ((a + ofLe ((otk.drop 16).take 16)) % 2 ^ 128)

def chachaTag (key nonce aad ct : List Byte) : List Byte :=
  poly1305 ((chachaBlock key nonce 0).take 32)
    (pad16 aad ++ pad16 ct ++ leBytes 8 aad.length ++ leBytes 8 ct.length)

/-! ### The AEAD algorithms of Table 12.4 -/

/-- The payload bytes at offset `off` (a multiple of 64) sealed, or opened: the key stream is the
same. -/
def aeadCrypt (kind : Nat) (key nonce : List Byte) (off : Nat) (data : List Byte) : List Byte :=
  xorB data (if kind = 3 then chachaStream key nonce (off / 64) (ceilDiv data.length 64)
    else gcmStream key nonce (off / 16) (ceilDiv data.length 16))

/-- The tag of a message, from its sealed payload. -/
def aeadTag (kind : Nat) (key nonce aad ct : List Byte) : List Byte :=
  if kind = 3 then chachaTag key nonce aad ct else gcmTag key nonce aad ct

end Sys2Proof.Machine
end

