-- ==== Sys2Proof/Machine/Xts.lean ====
section
/-!
DEFINITION. XTS-AES-256 (R338, R339), the AES key wrap that namespace keys cross the link in, and the
CTR_DRBG that draws them (R322). PRESUMED from IEEE 1619, RFC 3394 and NIST SP 800-90A, which the manual
names and does not repeat (log entries 20 and 67).
-/
namespace Sys2Proof.Machine

/-! ### XTS -/

/-- Multiplication by the primitive element of GF(2^128), little-endian. -/
def xtsNext (t : Nat) : Nat := (2 * t % 2 ^ 128) ^^^ (if 2 ^ 127 ≤ t then 0x87 else 0)

/-- The blocks of a data unit are sealed one by one; `t` is the tweak of the next. -/
def xtsBlocks (key : List Byte) : Nat → List (List Byte) → List (List Byte)
  | _, [] => []
  | t, b :: bs => xorB (aesEnc key (xorB b (leBytes 16 t))) (leBytes 16 t) :: xtsBlocks key (xtsNext t) bs

/-- A data unit sealed under a key of 64 bytes, the data key first, with its tweak. -/
def xtsSeal (key : List Byte) (tweak : Nat) (data : List Byte) : List Byte :=
  (xtsBlocks (key.take 32) (ofLe (aesEnc (key.drop 32) (leBytes 16 tweak))) (chunks 16 data.length data)).flatten

/-! ### AES key wrap -/

/-- The steps of RFC 3394 key wrap from step `t` of `n` on; `r` holds the registers, first to last. -/
def wrapSteps (key : List Byte) : Nat → Nat → List Byte → List (List Byte) → List Byte × List (List Byte)
  | 0, _, a, r => (a, r)
  | k + 1, t, a, r =>
    let i := t % r.length
    let b := aesEnc key (a ++ (r[i]?).getD [])
    wrapSteps key k (t + 1) (xorB (b.take 8) (beBytes 8 (t + 1))) (r.set i (b.drop 8))

/-- RFC 3394 key wrap with the default initial value. -/
def keyWrap (key plain : List Byte) : List Byte :=
  let r := chunks 8 plain.length plain
  let w := wrapSteps key (6 * r.length) 0 (List.replicate 8 0xA6) r
  w.1 ++ w.2.flatten

/-! ### CTR_DRBG -/

/-- The state of the generator: key, V, and requests since it was last seeded. -/
structure Drbg where
  key   : List Byte
  v     : Nat
  count : Nat
  deriving DecidableEq, Repr

/-- The next `n` blocks, and V after them. -/
def drbgBlocks (key : List Byte) : Nat → Nat → List Byte × Nat
  | 0, v => ([], v)
  | n + 1, v =>
    let v := (v + 1) % 2 ^ 128
    let r := drbgBlocks key n v
    (aesEnc key (beBytes 16 v) ++ r.1, r.2)

/-- The update of the state with 48 bytes. -/
def drbgUpdate (g : Drbg) (data : List Byte) : Drbg :=
  let t := xorB (drbgBlocks g.key 3 g.v).1 data
  { g with key := t.take 32, v := ofBe (t.drop 32) }

/-- The generator is seeded with 48 bytes of full entropy, or reseeded; no derivation function is used. -/
def drbgSeed (entropy : List Byte) : Drbg :=
  { drbgUpdate { key := List.replicate 32 0, v := 0, count := 0 } entropy with count := 0 }
def drbgReseed (g : Drbg) (entropy : List Byte) : Drbg := { drbgUpdate g entropy with count := 0 }

/-- One request of 64 bytes. -/
def drbgDraw (g : Drbg) : List Byte × Drbg :=
  let r := drbgBlocks g.key 4 g.v
  (r.1, { drbgUpdate { g with v := r.2 } (List.replicate 48 0) with count := g.count + 1 })

/-- A namespace key: requests until the two halves differ, at most as many as the fuel; the generator is
reseeded every 2^20 requests (R322, R338). -/
def drawKey (entropy : List Byte) : Nat → Drbg → List Byte × Drbg
  | 0, g => drbgDraw g
  | n + 1, g =>
    let r := drbgDraw (if 2 ^ 20 ≤ g.count then drbgReseed g entropy else g)
    if r.1.take 32 = r.1.drop 32 then drawKey entropy n r.2 else r

end Sys2Proof.Machine
end

