-- ==== Sys2Proof/Machine/EngineTypes.lean ====
section
/-!
DEFINITION. The state of customs scans, the compression and cipher engines, and the tally array.
-/
namespace Sys2Proof.Machine

/-- An output berth a customs unit fills or has closed: its unit, address, records, their bytes and
the lowest and highest granule. -/
structure CBerth where
  unit    : Nat
  addr    : Nat
  records : Nat
  bytes   : List Byte
  firstG  : Nat
  lastG   : Nat
  last    : Bool
  deriving DecidableEq, Repr

/-- The records of a granule that a unit has read and still has to put into berths: the granule, the index of the
first of them, and whether the granule met a length error. -/
structure ScanRest where
  gran    : Nat
  ord     : Nat
  recs    : List (List Byte)
  lenErr  : Bool
  deriving DecidableEq, Repr

/-- A scan (chapter 10). State 0 none, 1 waiting for a slot, 2 running, 3 ending early with `code`.
Its owner is a docket entry (a host scan) or a thread. Ring and output area are byte offsets and
sizes in the tenant's SLM lease; counters are keyed by unit × 4 + counter. -/
structure Scan where
  state    : Nat
  fromHost : Bool
  owner    : Nat
  space    : Nat
  nsid     : Nat
  first    : Nat
  count    : Nat
  desc     : List Byte
  slmMode  : Bool
  nowait   : Bool
  slot     : Nat
  tag      : Nat
  ringOff  : Nat
  ringLen  : Nat
  produced : Nat
  consumed : Nat
  outOff   : Nat
  outSlots : Nat
  channel  : Nat
  endCh    : Nat
  owners   : List Nat
  result   : Nat
  open_    : Tab CBerth
  closed   : List CBerth
  counters : Tab Nat
  done     : List Nat
  granules : Nat
  skipped  : Nat
  packed   : Nat
  unreadable : Nat
  firstBad : Nat
  records  : Nat
  matched  : Nat
  lenErr   : Nat
  outBytes : Nat
  code     : Nat
  /-- by unit: what it holds back for want of a berth for this scan's output (R22) -/
  rest     : Tab ScanRest
  deriving DecidableEq, Repr

def CBerth.none : CBerth :=
  { unit := 0, addr := 0, records := 0, bytes := [], firstG := 0, lastG := 0, last := false }
def Scan.empty : Scan :=
  { state := 0, fromHost := false, owner := 0, space := 0, nsid := 0, first := 0, count := 0,
    desc := [], slmMode := false, nowait := false, slot := 0, tag := 0, ringOff := 0, ringLen := 0,
    produced := 0, consumed := 0, outOff := 0, outSlots := 0, channel := 0, endCh := 0, owners := [],
    result := 0, open_ := [], closed := [], counters := [], done := [], granules := 0, skipped := 0,
    packed := 0, unreadable := 0, firstBad := 2 ^ 64 - 1, records := 0, matched := 0, lenErr := 0,
    outBytes := 0, code := 0, rest := [] }

/-- An engine request in a FIFO or a job queue: the thread it came from and its record. -/
structure EJob where
  thread : Nat
  record : List Byte
  deriving DecidableEq, Repr

/-- A compression or cipher engine: the owner tag in its lock register (0 free), its own lock
FIFO, its jobs, and the unlocks that wait for the jobs to end. -/
structure Engine where
  holder : Nat
  fifo   : List EJob
  jobs   : List EJob
  unlocks : List EJob
  deriving DecidableEq, Repr

def Engine.free : Engine := { holder := 0, fifo := [], jobs := [], unlocks := [] }

/-- A destination range an open message has written: in the tenant's SLM or in the berth window. -/
structure Dest where
  slm  : Bool
  addr : Nat
  len  : Nat
  deriving DecidableEq, Repr

/-- The message a cipher engine has open between segments (R329, R331): the key it took, its
sealed payload so far, the payload bytes and segments so far, the destinations written, and the
consumers seen with the channels its tokens lie on (R336). -/
structure CMsg where
  kind    : Nat
  key     : List Byte
  nonce   : List Byte
  aad     : List Byte
  sealed  : List Byte
  total   : Nat
  segs    : Nat
  dests   : List Dest
  chans   : List Nat
  consumers : List Nat
  many    : Bool
  deriving DecidableEq, Repr

/-- A key slot (R323 to R325): its kind (0 none), key and assigned tenant. -/
structure KeySlot where
  kind   : Nat
  key    : List Byte
  tenant : Option Nat
  deriving DecidableEq, Repr

def KeySlot.empty : KeySlot := { kind := 0, key := [], tenant := none }

/-- The engines (chapters 11 and 12). The key tables of the XTS engines are keyed by quay die × 2^16 + NSID
(R340). -/
structure Engines where
  comp       : Tab Engine
  compCommon : List EJob
  cip        : Tab Engine
  cipCommon  : List EJob
  msgs       : Tab (Option CMsg)
  slots      : Tab KeySlot
  moduleKey  : Option (List Byte)
  /-- the random bit generator (R322) -/
  rng        : Drbg
  xts        : Tab (List Byte)
  deriving DecidableEq, Repr

/-- A tally row (R343). -/
structure Row where
  value : Nat
  care  : Nat
  valid : Bool
  deriving DecidableEq, Repr

def Row.empty : Row := { value := 0, care := 0, valid := false }

/-- A cascaded search waiting for the partner (R356 to R358): its tag, who asked (a thread with its
record, or a docket entry's Tally Search), and the local result word. -/
structure Cascade where
  tag    : Nat
  thread : Nat
  docket : Option Nat
  record : List Byte
  local_ : Nat
  deriving DecidableEq, Repr

/-- The tally array (chapter 13). Bank configurations are the words of Table 13.2. The last two
fields gather the banks powered and the searches of the running millisecond (R361). -/
structure Tally where
  rows     : Tab Row
  banks    : Tab Nat
  waiting  : List Cascade
  miUp     : Bool
  powSum   : Nat
  powCnt   : Nat
  deriving DecidableEq, Repr

def Engines.empty : Engines :=
  { comp := [], compCommon := [], cip := [], cipCommon := [], msgs := [], slots := [],
    moduleKey := none, rng := { key := [], v := 0, count := 0 }, xts := [] }
def Tally.empty : Tally :=
  { rows := [], banks := [], waiting := [], miUp := false, powSum := 0, powCnt := 0 }

/-- Customs scans, with the order counter of waiting scans. -/
structure Customs where
  scans    : Tab Scan
  nextScan : Nat
  deriving DecidableEq, Repr

def Customs.empty : Customs := { scans := [], nextScan := 0 }

end Sys2Proof.Machine
end

