-- ==== Sys2Proof/Machine/PowerTypes.lean ====
section
/-!
DEFINITION. The state of power, clocks, resets, boot, the pair, management and service.
-/
namespace Sys2Proof.Machine

/-- The histories and last evaluation of a pilot slot (R399 to R402). -/
structure Pilot where
  region  : Nat
  schedX  : Nat
  duty    : Nat
  e1 : Int
  e2 : Int
  e3 : Int
  y1 : Int
  y2 : Int
  y3 : Int
  outOfRange : Bool
  lastMeas : Int
  /-- saturations of the running second and of the last whole one -/
  satSec   : Nat
  satLast  : Nat
  /-- started at the last power-up, and the RATE taken then (R398) -/
  run      : Bool
  rate     : Nat
  deriving DecidableEq, Repr

def Pilot.empty : Pilot :=
  { region := 0, schedX := 0, duty := 0, e1 := 0, e2 := 0, e3 := 0, y1 := 0, y2 := 0, y3 := 0,
    outOfRange := false, lastMeas := 0, satSec := 0, satLast := 0, run := false, rate := 0 }

/-- Power, clocks, resets and boot (chapters 15 and 16). `on` lists the domains that are on. -/
structure Power where
  /-- V_avg in 10 mV units, and the input voltage of each of the last 1,000 ms, newest first -/
  vavg      : Nat
  vin       : List Nat
  inputOn   : Bool
  /-- input power: the last 100 samples in mW, those since the last 100 µs mean, and the last 1,000
  such means, newest first -/
  pw        : List Nat
  pwN       : Nat
  pw100     : List Nat
  on        : List Nat
  pilots    : Tab Pilot
  /-- R35 applies: generic values, the 312 W cap -/
  calFailed : Bool
  /-- the stored calibration section holds the generic values -/
  calGeneric : Bool
  /-- generic values run and the section still fails its check: CAL_STATE reads 3 -/
  calUnstored : Bool
  healthy   : Bool
  /-- when hold-up was last measured -/
  measuredAt : Option Nat
  measuring : Option Nat
  noIsolation : Bool
  lastC     : Nat
  dumping   : Bool
  dumpBytes : Nat
  dumpUs    : Nat
  /-- the last dump ended with the input gone: the module starts again once it is back (R410) -/
  powerRestart : Bool
  withheld  : Bool
  limiting  : Bool
  /-- samples the current limit has held for -/
  limitN    : Nat
  quayPaused : Bool
  thermal   : Bool
  refclk    : Bool
  holdover  : Bool
  portRef   : List Bool
  /-- triggers asserted: MOD_RST_N, FENCE_IN -/
  modRst    : Bool
  fenceIn   : Bool
  bootStep  : Nat
  /-- what boot waits for: 0 nothing, 1 rails, 2 REFCLK, 3 the lone-start wait, 4 a reset contact at
  the end of step 2, 5 the retry after 1 s, 7 rails at the retry; 6 the sequence has failed twice -/
  bootWait  : Nat
  /-- RESET_CAUSE, and the triggers of the start to come -/
  cause     : Nat
  nextCause : Nat
  /-- telemetry is to be collected once the module is in service (R499) -/
  collect   : Bool
  /-- when the watchdog was last renewed; none while it is not armed -/
  wdtAt     : Option Nat
  /-- watchdog resets in a row before boot step 5 ended -/
  wdtRow    : Nat
  fwSlot    : Nat
  fwNext    : Nat
  fwOther   : Bool
  recovery  : Bool
  cfs       : Bool
  restoreCause : Nat
  bootMs    : Nat
  /-- Synmon and I3C have started (boot step 2) -/
  synmon    : Bool
  /-- firmware images stored by download in slots 1 and 2; none is the one shipped -/
  fw1       : Option (List Byte)
  fw2       : Option (List Byte)
  fwBuf     : Tab Byte
  fwBufLen  : Nat
  linkUp    : List Bool
  deriving DecidableEq, Repr

def Power.reset : Power :=
  { vavg := 0, vin := [], inputOn := true, pw := [], pwN := 0, pw100 := [], on := [0],
    pilots := [], calFailed := false, calGeneric := false, calUnstored := false, healthy := false, measuredAt := none, measuring := none,
    noIsolation := false, lastC := 0, dumping := false, dumpBytes := 0, dumpUs := 0,
    powerRestart := false, withheld := false, limiting := false, limitN := 0, quayPaused := false, thermal := false,
    refclk := true, holdover := false, portRef := [true, true, true, true], modRst := false,
    fenceIn := false, bootStep := 1, bootWait := 0, cause := 1, nextCause := 0, collect := false, wdtAt := none,
    wdtRow := 0, fwSlot := 1, fwNext := 1, fwOther := false, recovery := false, cfs := false,
    restoreCause := 0, bootMs := 0, synmon := false, fw1 := none, fw2 := none, fwBuf := [], fwBufLen := 0,
    linkUp := [false, false, false, false] }

/-- A message flit not yet covered by an ACKSEQ: its FSEQ, its message, SOM, EOM and payload. -/
structure HFlit where
  fseq : Nat
  mseq : Nat
  som  : Bool
  eom  : Bool
  payload : List Byte
  deriving DecidableEq, Repr

/-- A hawser sub-link (R367 to R369): the last FSEQ sent and accepted, the flits held and those
that wait behind 2,048 held ones, the messages with an uncovered flit, and the message being
received. -/
structure SubLink where
  up      : Bool
  sendSeq : Nat
  recvSeq : Nat
  held    : List HFlit
  queue   : List HFlit
  msgs    : List HawMsg
  inbox   : List Byte
  deriving DecidableEq, Repr

def SubLink.down : SubLink :=
  { up := false, sendSeq := 0, recvSeq := 0, held := [], queue := [], msgs := [],
    inbox := [] }

/-- Who an access to the dictionary answers: an abstract access, a Synmon Tunnel command, a Synmon
request frame (its port, source address, service and transaction) or an NVMe-MI request. -/
inductive Reply where
  | access (path : Path) (index sub : Nat)
  | tunnel (a : Adm)
  | frame (port : Nat) (dest : List Byte) (service tid index sub : Nat)
  | mi (port : Nat)
  deriving DecidableEq, Repr

/-- What completes when a STATE is acknowledged (R375). -/
inductive StateDone where
  | none
  | adm (a : Adm) (dw0 : Nat)
  | record (jsn : Nat) (a : Adm) (dw0 : Nat)
  | dock (d : Nat)
  | reply (r : Reply) (n : Nat)
  deriving DecidableEq, Repr

/-- A mirrored state item kept for the rejoin: kind, namespace and body (Table 14.14). -/
structure StateItem where
  kind : Nat
  nsid : Nat
  body : List Byte
  deriving DecidableEq, Repr

/-- A takeover record (Table 14.9). -/
structure TkRec where
  exposed  : Bool
  time     : Nat
  exposure : Nat
  done     : Nat
  deriving DecidableEq, Repr

/-- The pair (chapter 14). States: 0 single, 1 in step, 2 link lost, 3 survivor,
4 resynchronising. Role, epoch, setter and the recorded state are dictionary entries. -/
structure Pair where
  state     : Nat
  sub0      : SubLink
  sub1      : SubLink
  aliveOut  : Bool
  aliveIn   : Bool
  aliveFault : Bool
  fenceOut  : Bool
  lastChange : Nat
  /-- time of the last valid flit from the partner -/
  lastFlit  : Nat
  /-- when ALIVE_IN last came to read high (R374) -/
  aliveAt   : Nat
  mseq      : Nat
  /-- message numbers applied since the link came up -/
  mseqIn    : List Nat
  /-- a takeover in progress: the record it will write; FENCE_OUT is asserted by then or waits -/
  taking    : Option TkRec
  takeover  : Option TkRec
  /-- mirrored writes awaiting MACK: MSEQ and docket; degraded ones whose MACK may still come -/
  awaiting  : List (Nat × Nat)
  lapsed    : List (Nat × List UnitRef)
  /-- forwarded commands awaiting FWDCPL: tag and docket -/
  fwd       : List (Nat × Nat)
  fwdTag    : Nat
  /-- FWDABTs awaiting FWDABTR, oldest first: a forwarded Abort, or none where a freeze, a reset or a
  namespace change asked; and the status of the completion that the latter decide (R61) -/
  aborts    : List (Nat × Option Adm)
  cancels   : List (Nat × Option Status)
  /-- STATE messages awaiting SACK -/
  states    : List (Nat × StateDone)
  heldRecs  : List JRec
  heldStates : List StateItem
  /-- namespaces marked stale (R381) -/
  stale     : List Nat
  /-- namespaces this module still copies to the rejoiner, the units left, and the copies awaiting
  RSACK -/
  copying   : List Nat
  resync    : List UnitRef
  copies    : List (Nat × UnitRef)
  /-- role A's DIE_ID, which role B keeps (R522) -/
  dieA      : Nat
  /-- epoch and setter of the partner's last HELLO -/
  peerEpoch : Nat
  peerSetter : Nat
  /-- the Pair Control TAKEOVER that a takeover completes -/
  takeAdm   : Option Adm
  yielded   : Bool
  split     : Bool
  refused   : Bool
  deriving DecidableEq, Repr

def Pair.single : Pair :=
  { state := 0, sub0 := .down, sub1 := .down, aliveOut := false,
    aliveIn := false, aliveFault := false, fenceOut := false, lastChange := 0, lastFlit := 0, aliveAt := 0,
    mseq := 0, mseqIn := [], taking := none, takeover := none, awaiting := [], lapsed := [],
    fwd := [], fwdTag := 0, aborts := [], cancels := [], states := [], heldRecs := [], heldStates := [],
    stale := [], copying := [], resync := [], copies := [], dieA := 0, peerEpoch := 0, peerSetter := 0, takeAdm := none, yielded := false,
    split := false, refused := false }

/-- The logbook (R449 to R455): wear counters of the lines in service, the remap table (line to
spare line, from 1), sections whose check fails, spare lines left, and the stored values of entries
whose line is worn. -/
structure Logbook where
  stored  : Tab Nat
  wear    : Tab Nat
  remap   : Tab Nat
  failed  : List Nat
  spares  : Nat
  deriving DecidableEq, Repr

/-- The management interfaces (chapters 17 and 18). -/
structure Mgmt where
  /-- emergency messages sent: port and time, newest first (R446) -/
  emergSent : List (Nat × Nat)
  /-- emergency messages that wait for the end of boot step 2 -/
  emergHeld : List (List Byte)
  i3cDyn    : List Nat
  mctpEid   : List Nat
  mctpMtu   : List Nat
  /-- the subsystem health the supervisor last copied, and the values of each port's last clearing -/
  health    : List (String × Nat)
  seen      : Tab (List Nat)
  /-- when the last heartbeat was sent -/
  hbLast    : Nat
  deriving DecidableEq, Repr

/-- A result of the Device Self-test log: the test (1 short, 2 extended), how it ended, its first
failing segment, the segments not fully run, its namespace and its end. -/
structure StResult where
  test    : Nat
  result  : Nat
  segment : Nat
  notRun  : Nat
  nsid    : Nat
  time    : Nat
  deriving DecidableEq, Repr

/-- Telemetry data areas 1 to 3 (R499). -/
structure Telem where
  area1 : List (String × Nat)
  area2 : List (String × Nat)
  area3 : List (String × Nat)
  deriving DecidableEq, Repr

/-- A fault the dredge test or a self-test found: time, task, unit and detail (Table 19.3). -/
structure DErr where
  time   : Nat
  task   : Nat
  unit   : Nat
  detail : Nat
  deriving DecidableEq, Repr

/-- Self-test, dredge test, temperatures, telemetry (chapter 19). -/
structure Service where
  stCode    : Nat
  stNsid    : Nat
  stResults : List StResult
  /-- start of the running dredge cycle, and whether it has been counted as an overrun -/
  cycleAt   : Option Nat
  /-- when the pilot sanity task last ran (Table 19.2) -/
  saneAt    : Nat
  overrun   : Bool
  /-- units done this cycle by task, with a mark for each at task + 16 × (unit + 1); faults since
  manufacture and the time of the last one, by task -/
  tasks     : Tab Nat
  taskFaults : Tab Nat
  taskLast  : Tab Nat
  dredgeErrs : List DErr
  bist      : List Nat
  /-- temperature thresholds set, keyed by sensor × 2, plus 1 for the under threshold -/
  thresh    : Tab Nat
  hostTel   : Option Telem
  ctrlTel   : Option Telem
  ctrlTelAvail : Bool
  telGen    : Nat
  /-- spare rows used, and march faults to be repaired at the next module-wide reset -/
  spareUsed : Nat
  rowFaults : Nat
  sanitize  : Nat
  sanCount  : Nat
  deriving DecidableEq, Repr

def Logbook.fresh : Logbook := { stored := [], wear := [], remap := [], failed := [], spares := 4096 }
def Mgmt.reset : Mgmt :=
  { emergSent := [], emergHeld := [], i3cDyn := [0, 0], mctpEid := [0, 0], mctpMtu := [64, 64],
    health := [], seen := [], hbLast := 0 }
def Service.reset : Service :=
  { stCode := 0, stNsid := 0, stResults := [], cycleAt := none, saneAt := 0, overrun := false,
    tasks := [], taskFaults := [], taskLast := [], dredgeErrs := [], bist := [], thresh := [], hostTel := none, ctrlTel := none, ctrlTelAvail := false, telGen := 0, spareUsed := 0, rowFaults := 0,
    sanitize := 0, sanCount := 0 }

end Sys2Proof.Machine
end

