-- ==== Sys2Proof/Machine/State.lean ====
section
/-!
DEFINITION. The state of the module, the state right after power-on reset, and the reasons a step
can stop.
-/
namespace Sys2Proof.Machine

/-- Reasons the module stops. No command of this model stops with a fault: every event that the
manual calls a fault (a scheduler fault, a rail fault, an abort code) is part of the state that
follows it. -/
inductive Fault where
  /-- Raised by no command. Safe: it stops nothing the manual lets go on. -/
  | none
  deriving DecidableEq, Repr

/-- Reasons a command has no meaning in this model. -/
inductive Refusal where
  /-- Raised by an arm of `exec` whose command has no meaning yet. Safe: it claims nothing. -/
  | notModelled (mnemonic : String)
  deriving DecidableEq, Repr

/-- The module. -/
structure State where
  /-- commands that wait, the next one first -/
  pending  : List Instr
  /-- everything sent outside, newest first -/
  out      : List Out
  /-- milliseconds of the whole run, which never restart; stored times are its readings -/
  nowMs    : Nat
  /-- the module-wide event clock: milliseconds since the last power-on or module-wide reset (R520) -/
  uptime   : Nat
  /-- how many free values have been drawn -/
  freeCount : Nat
  /-- dictionary entries that hold a value of their own, keyed by index × 256 + subindex -/
  dict     : Tab Nat
  /-- tenant fault records, newest first (R500) -/
  faults   : List FaultRec
  faultSeq : Nat
  /-- Persistent Event Log, newest first -/
  pel      : List PelEnt
  host     : HostIf
  prog     : Programs
  media    : Media
  pool     : Pool
  /-- bytes of near and far berths at their fabric addresses, and of firmware DRAM -/
  dram     : Tab Byte
  hm       : Harbour
  ik       : Ikixa
  customs  : Customs
  eng      : Engines
  tally    : Tally
  power    : Power
  pair     : Pair
  logbook  : Logbook
  mgmt     : Mgmt
  service  : Service
  deriving DecidableEq, Repr

/-- The module right after power-on reset (R424, R433): boot step 1 ended, only the supervisor's
domain powered, every store cleared. -/
def State.reset : State :=
  { pending := [], out := [], nowMs := 0, uptime := 0, freeCount := 0, dict := [], faults := [],
    faultSeq := 0, pel := [], host := .empty, prog := .empty, media := .empty, pool := .empty,
    dram := [], hm := .empty, ik := .empty, customs := .empty, eng := .empty, tally := .empty,
    power := .reset, pair := .single, logbook := .fresh, mgmt := .reset, service := .reset }

end Sys2Proof.Machine
end

