-- ==== Sys2Proof/Machine/Ops.lean ====
section
/-!
DEFINITION. Operations every part of the module shares: dictionary values and counters, free
values, logs, what is sent outside, completions and asynchronous events.
-/
namespace Sys2Proof.Machine

/-- A command's effect that is always carried out. -/
abbrev Res := Host.Outcome State Fault Refusal

/-- The effect `f` if the event's condition holds; an event whose condition does not hold is no
event and changes nothing (log entry 3). -/
def when (c : Bool) (s t : State) : State := if c then t else s

/-! ### Dictionary values -/

/-- The listed value of a key, if it is listed. -/
def tabFind {α : Type} : Tab α → Nat → Option α
  | [], _ => none
  | (j, v) :: t, k => if j = k then some v else tabFind t k

/-- A calibration entry (Reset column "cal"). -/
def isCal (i sub : Nat) : Bool :=
  match dictRow i sub with
  | some r => r.reset == .cal
  | none => false

/-- The value an entry holds that no write has changed: a calibration entry's is the shipped one, or
the generic one (R404). -/
def entryDefault (s : State) (i sub : Nat) : Nat :=
  if s.power.calGeneric && isCal i sub then Config.genericCal (dk i sub) else dictDefault (dk i sub)

/-- The value an entry holds (entries computed from other state are read by `dictValue`). -/
def dget (s : State) (i sub : Nat) : Nat :=
  match tabFind s.dict (dk i sub) with
  | some v => v
  | none => entryDefault s i sub

/-- The entry holds `v`. -/
def dset (s : State) (i sub v : Nat) : State :=
  { s with dict :=
      if v = entryDefault s i sub then tabDrop s.dict (dk i sub) else tabPut s.dict (dk i sub) v }

/-- The largest value an entry's counter holds. -/
def counterMax (i sub : Nat) : Nat :=
  match dictRow i sub with
  | some r => 2 ^ (8 * r.size)
  | none => 2 ^ 64

/-- The entry's counter rises by `n`, wrapping at its width (log entry 4). -/
def bump (s : State) (i sub n : Nat) : State :=
  dset s i sub ((dget s i sub + n) % counterMax i sub)

/-- A value the manual leaves open. -/
def drawn (s : State) : Nat := Config.freeValue s.freeCount

/-- The next value left open will be another. -/
def draw (s : State) : State := { s with freeCount := s.freeCount + 1 }

/-- One millisecond of the event clock. The mean of the banks powered by the searches of the
millisecond that ended becomes BANKS_POWERED (R361), with shift 16. -/
def tick (s : State) : State :=
  let s := { s with nowMs := s.nowMs + 1, uptime := s.uptime + 1 }
  let t := s.tally
  dset { s with tally := { t with powSum := 0, powCnt := 0 } } 0x7070 5 (t.powSum * 65536 / t.powCnt)

/-! ### Logs and outputs -/

def emit (s : State) (o : Out) : State := { s with out := o :: s.out }

/-- A Persistent Event Log entry. -/
def logPel (s : State) (what : String) (a b : Nat) : State :=
  { s with pel := { time := s.nowMs, what := what, a := a, b := b } :: s.pel }

/-- At most the 256 newest records of each tenant are kept (R500). -/
def trimFaults (tenant : Nat) : Nat → List FaultRec → List FaultRec
  | _, [] => []
  | n, r :: rs =>
    if r.tenant = tenant then (if n = 0 then trimFaults tenant 0 rs else r :: trimFaults tenant (n - 1) rs)
    else r :: trimFaults tenant n rs

/-- A tenant fault record (R500), or a Persistent Event Log entry in the firmware space. -/
def logFault (s : State) (space kind code : Nat) (thread : Option Nat) (addr : W64)
    (channel port : Nat) : State :=
  if space < 1024 then
    let r : FaultRec := { seq := s.faultSeq, time := s.nowMs, tenant := space, kind := kind, code := code, thread := thread, addr := addr, channel := channel, port := port }
    bump { s with faultSeq := s.faultSeq + 1, faults := trimFaults space 256 (r :: s.faults) }
      (0x6000 + space) 0x0B 1
  else logPel s "fault in the firmware space" (kind * 256 + code) channel

/-! ### Functions, queues, completions -/

def getFn (s : State) (fn : Nat) : Fn := tabGet Fn.empty s.host.fns fn
def setFn (s : State) (fn : Nat) (f : Fn) : State :=
  { s with host := { s.host with fns := tabSet Fn.empty s.host.fns fn f } }
def modFn (s : State) (fn : Nat) (g : Fn → Fn) : State := setFn s fn (g (getFn s fn))
def getSq (s : State) (fn q : Nat) : Sq := tabGet Sq.empty (getFn s fn).sqs q
def modSq (s : State) (fn q : Nat) (g : Sq → Sq) : State :=
  modFn s fn (fun f => { f with sqs := tabMod Sq.empty f.sqs q g })
def getCq (s : State) (fn q : Nat) : Cq := tabGet Cq.empty (getFn s fn).cqs q
def modCq (s : State) (fn q : Nat) (g : Cq → Cq) : State :=
  modFn s fn (fun f => { f with cqs := tabMod Cq.empty f.cqs q g })

/-- The Do Not Retry bit of a status (R519, Table 2.13). -/
def dnrOf : Status → Bool
  | .success => false
  | .vendor c => !(c == 0x80 || c == 0x81 || c == 0x85 || c == 0x87)
  | .namespaceNotReady => false
  | .anaInaccessible => false
  | _ => true

/-- The tenant of a virtual function. -/
def tenantOf (fn : Nat) : Nat := fn - 1

/-- The value of a feature that no command has set: every asynchronous event but Firmware Activation
Starting is enabled (log entry 30); the temperature thresholds have defaults of their own. -/
def featDefault (k : Nat) : Nat := if k = 0x0B then 0x08000DFF else 0
def featGet (f : Fn) (k : Nat) : Nat :=
  match tabFind f.features k with
  | some v => v
  | none => featDefault k
def featSet (f : Fn) (k v : Nat) : Fn :=
  { f with features := if v = featDefault k then tabDrop f.features k else tabPut f.features k v }

/-- An interrupt of a vector: at once, or held for aggregation (feature 0x08) where the vector is
an I/O vector, coalescing is set and not disabled for the vector (feature 0x09). -/
def raiseVector (s : State) (fn vector : Nat) : State :=
  let f := getFn s fn
  let ic := featGet f 0x08
  let thr := ic % 256
  let off := bitOf (featGet f (0x900000 + vector)) 16
  if vector = 0 ∨ off ∨ thr = 0 ∨ ic / 256 % 256 = 0 then emit s (.msi fn vector)
  else
    let n := tabGet 0 f.coal vector + 1
    if n > thr then emit (modFn s fn (fun f => { f with coal := tabSet 0 f.coal vector 0 })) (.msi fn vector)
    else modFn s fn (fun f => { f with coal := tabSet 0 f.coal vector n })

/-- The landing policy in force as dword 11 of feature 0xC1: the value set, or the saved one (R123). -/
def landSaved (s : State) : Nat :=
  dget s 0x4010 1 + dget s 0x4010 2 * 2 ^ 8 + dget s 0x4010 3 * 2 ^ 16 + dget s 0x4010 4 * 2 ^ 24
def landNow (s : State) : Nat :=
  match tabFind (getFn s 0).features 0xC1 with
  | some v => v
  | none => landSaved s
def landPct (s : State) : Nat := bitsOf (landNow s) 0 7
def foldUrg (s : State) : Nat := bitsOf (landNow s) 8 15
def landDirect (s : State) : Bool := bitOf (landNow s) 16
def landMaxAge (s : State) : Nat := bitsOf (landNow s) 24 31

/-- A completion queue entry is written, or waits while the queue is full; a queue that does not
exist takes none, and a dump stops completions (R409). -/
def postCpl (s : State) (cqid : Nat) (c : Cpl) : State :=
  let q := getCq s c.fn cqid
  if !q.live ∨ s.power.dumping then s
  else if q.used + 1 < q.size then
    let s := emit (modCq s c.fn cqid (fun q => { q with used := q.used + 1 })) (.cpl cqid c)
    if q.ien then raiseVector s c.fn q.vector else s
  else modCq s c.fn cqid (fun q => { q with waiting := q.waiting ++ [c] })

/-- An admin command completes. -/
def adminDone (s : State) (a : Adm) (st : Status) (dw0 : Nat) (p : Payload) : State :=
  let s := if st = .success then s else
    modFn s a.fn (fun f => { f with errCount := f.errCount + 1, errors := (({ count := f.errCount + 1, sqid := 0, cid := a.cid, status := st, lba := 0, nsid := 0 } : ErrEnt) :: f.errors).take 256 })
  postCpl s 0 { fn := a.fn, sqid := 0, cid := a.cid, status := st, dnr := dnrOf st, dw0 := dw0, dw1 := 0, data := p }

/-- An admin command completes successfully with nothing to say. -/
def adminOk (s : State) (a : Adm) : State := adminDone s a .success 0 .none

/-- An admin command is refused. -/
def adminFail (s : State) (a : Adm) (st : Status) : State := adminDone s a st 0 .none

/-- Dword 0 of an event completion. -/
def eventDw0 (e : Event) : Nat := e.typ + 256 * e.info + 65536 * e.log

/-- The Asynchronous Event Configuration bit that a notice needs. -/
def noticeBit (info : Nat) : Nat := if info = 0xEF then 27 else 8 + info

/-- An asynchronous event of a controller: it completes an outstanding request, or waits. A notice
(type 2) is posted only where the controller's configuration enables it. -/
def postEvent (s : State) (fn : Nat) (e : Event) : State :=
  let f := getFn s fn
  if f.rdy && (e.typ != 2 || bitOf (featGet f 0x0B) (noticeBit e.info)) then
    match f.aers with
    | cid :: rest =>
      adminDone (setFn s fn { f with aers := rest }) ⟨fn, cid⟩ .success (eventDw0 e) .none
    | [] => if f.events.contains e then s else setFn s fn { f with events := f.events ++ [e] }
  else s

/-- An event on every controller of a list. -/
def postEvents (s : State) (fns : List Nat) (e : Event) : State :=
  fns.foldl (fun s fn => postEvent s fn e) s

/-- The functions whose controller exists. -/
def fnList (s : State) : List Nat := tabKeys s.host.fns

/-- A controller takes admin commands: it is ready, and neither an activation (Table 2.11a) nor a dump
(R409) has stopped fetching. -/
def adminOpen (s : State) (fn : Nat) : Bool := (getFn s fn).rdy && s.host.activation.isNone && !s.power.dumping

/-- The effect of an admin command a function accepts in recovery mode too (R430). -/
def adminAny (s : State) (a : Adm) (t : State) : Res := .next (when (adminOpen s a.fn) s t)

/-- The effect of an admin command a function accepts; in recovery mode it is an Invalid Command
Opcode. -/
def admin (s : State) (a : Adm) (t : State) : Res :=
  adminAny s a (if s.power.recovery then adminFail s a .invalidOpcode else t)

/-- The effect of an admin command of the physical function's scope: from another function it is
an Invalid Command Opcode (R46, R77). -/
def adminPf (s : State) (a : Adm) (t : State) : Res :=
  admin s a (if a.fn = 0 then t else adminFail s a .invalidOpcode)

/-- A SMART critical warning bit changes; setting it posts the SMART / Health event. -/
def setWarn (s : State) (bit : Nat) (on : Bool) : State :=
  if bitOf s.host.smartWarn bit = on then s
  else if on then
    postEvents { s with host := { s.host with smartWarn := s.host.smartWarn + 2 ^ bit } }
      ((fnList s).filter (fun fn => bitOf (featGet (getFn s fn) 0x0B) bit))
      { typ := 1, info := if bit = 0 then 2 else if bit = 1 then 1 else 0, log := 2 }
  else { s with host := { s.host with smartWarn := s.host.smartWarn - 2 ^ bit } }

/-! ### Power states of domains -/

def domainOn (s : State) (d : Nat) : Bool := s.power.on.contains d
def clusterOn (s : State) (c : Nat) : Bool := domainOn s (3 + c)
def quayOn (s : State) (q : Nat) : Bool := domainOn s (11 + q)

end Sys2Proof.Machine
end

