-- ==== Sys2Proof/Machine/Haw.lean ====
section
/-!
DEFINITION. The hawser link: messages, flits, sending and resending (R367 to R372).
-/
namespace Sys2Proof.Machine

def getSub (s : State) (k : Nat) : SubLink := if k = 0 then s.pair.sub0 else s.pair.sub1
def setSub (s : State) (k : Nat) (l : SubLink) : State :=
  if k = 0 then { s with pair := { s.pair with sub0 := l } } else { s with pair := { s.pair with sub1 := l } }

/-- The bytes of a message (Table 14.4). -/
def msgBytes (m : HawMsg) : List Byte :=
  [BitVec.ofNat 8 m.typ, 0, 0, 0] ++ leBytes 4 m.body.length ++ leBytes 8 m.hdr.seq ++ leBytes 4 m.hdr.nsid ++
    leBytes 4 m.hdr.aux32 ++ leBytes 8 m.hdr.aux64 ++ m.body

/-- A flit without its check word, and whole (Table 14.3). -/
def flitHead (ack : Nat) (f : HFlit) : List Byte :=
  [1, BitVec.ofNat 8 (b2n f.som + 2 * b2n f.eom)] ++ leBytes 2 f.payload.length ++ leBytes 4 f.fseq ++
    padTo 240 f.payload ++ leBytes 4 ack
def flitBytes (ack : Nat) (f : HFlit) : List Byte := flitHead ack f ++ leBytes 4 (crc32c (flitHead ack f))

/-- The payloads of a message, 240 bytes each. -/
def chunks240 : Nat → List Byte → List (List Byte)
  | 0, _ => []
  | fuel + 1, l => if l.length ≤ 240 then [l] else l.take 240 :: chunks240 fuel (l.drop 240)

/-- The flits of a message, still without numbers. -/
def msgFlits (m : HawMsg) : List HFlit :=
  let ps := chunks240 (m.body.length / 240 + 2) (msgBytes m)
  ps.zipIdx.map (fun e => { fseq := 0, mseq := m.hdr.seq, som := e.2 == 0, eom := e.2 + 1 == ps.length, payload := e.1 })

/-- A flit is numbered, held and sent; while 2,048 are held it waits. -/
def pushFlit (s : State) (k : Nat) (f : HFlit) : State :=
  let l := getSub s k
  if l.held.length < 2048 then
    let f := { f with fseq := (l.sendSeq + 1) % 2 ^ 32 }
    emit (setSub s k { l with sendSeq := f.fseq, held := l.held ++ [f] }) (.flit k (flitBytes l.recvSeq f))
  else setSub s k { l with queue := l.queue ++ [f] }

/-- A message goes out on a sub-link. -/
def sendOn (s : State) (k : Nat) (m : HawMsg) : State :=
  let s := setSub s k { (getSub s k) with msgs := (getSub s k).msgs ++ [m] }
  (msgFlits m).foldl (fun s f => pushFlit s k f) s

/-- The sub-link a message travels on (R369): none while both are lost. -/
def subFor (s : State) (nsid : Nat) : Option Nat :=
  let k := if nsid = 0 then 0 else nsid % 2
  if (getSub s k).up then some k else if (getSub s (1 - k)).up then some (1 - k) else none

/-- A message is sent; it takes the next MSEQ. A dump stops MWRITE and MACK (R409). -/
def hawSend (s : State) (typ nsid aux32 aux64 : Nat) (body : List Byte) : State :=
  if s.power.dumping ∧ (typ = 0x10 ∨ typ = 0x11) then s
  else match subFor s nsid with
  | none => s
  | some k =>
    let m : HawMsg := { typ := typ, hdr := { len := body.length, seq := s.pair.mseq, nsid := nsid, aux32 := aux32, aux64 := aux64 }, body := body }
    sendOn { s with pair := { s.pair with mseq := s.pair.mseq + 1 } } k m

/-- Flits up to the one an ACKSEQ names are covered; waiting flits follow. -/
def ackTo (s : State) (k ack : Nat) : State :=
  let l := getSub s k
  if l.held.any (fun f => f.fseq == ack) then
    let held := (l.held.dropWhile (fun f => f.fseq != ack)).drop 1
    let q := l.queue
    let s := setSub s k { l with held := held, queue := [] }
    let s := q.foldl (fun s f => pushFlit s k f) s
    let l := getSub s k
    setSub s k { l with msgs := l.msgs.filter (fun m => (l.held ++ l.queue).any (fun f => f.mseq == m.hdr.seq)) }
  else s

/-- Every held flit is resent, in order (R368). -/
def replay (s : State) (k : Nat) : State :=
  let l := getSub s k
  l.held.foldl (fun s f => emit s (.flit k (flitBytes l.recvSeq f))) (bump s 0x8010 3 1)

/-- A lost sub-link's unfinished messages go whole on the other (R369). -/
def moveMessages (s : State) (k : Nat) : State :=
  let ms := (getSub s k).msgs
  let s := setSub s k { (getSub s k) with held := [], queue := [], msgs := [], inbox := [] }
  if (getSub s (1 - k)).up then ms.foldl (fun s m => sendOn s (1 - k) m) s else s

/-- A message from the partner is applied once (R369). -/
def fresh (s : State) (h : MsgHdr) : Bool := !s.pair.mseqIn.contains h.seq
def seen (s : State) (h : MsgHdr) : State :=
  { s with pair := { s.pair with mseqIn := h.seq :: s.pair.mseqIn } }

/-- Values of the pair record. -/
def pairRole (s : State) : Nat := dget s 0x8000 2
def pairEpoch (s : State) : Nat := dget s 0x8000 7
def pairSetter (s : State) : Nat := dget s 0x8000 8

/-- The firmware revision value of the running image (R371). -/
def fwRevOf (s : State) : Nat :=
  match (if s.power.fwSlot = 1 then s.power.fw1 else s.power.fw2) with
  | some b => Config.fwDigest b
  | none => Config.fwShippedDigest s.power.fwSlot

/-- The body of a HELLO (Table 14.11). -/
def helloBody (s : State) : List Byte :=
  padTo 16 (leBytes 16 (dget s 0x1000 4)) ++ leBytes 8 (dget s 0x1000 5) ++ leBytes 4 (dget s 0x7050 3) ++
    leBytes 1 Config.slotsPerPage ++ [0] ++ leBytes 2 Config.pagesPerBlock ++
    leBytes 4 (Config.slotsPerPage * Config.pagesPerBlock) ++ leBytes 4 (pairEpoch s) ++ leBytes 1 (pairSetter s) ++
    leBytes 1 (dget s 0x8000 9) ++ leBytes 1 (b2n s.pair.split + 2 * b2n s.pair.yielded) ++ List.replicate 21 0

/-- A HELLO is sent. -/
def sendHello (s : State) : State := hawSend s 0x02 0 (pairRole s) (fwRevOf s) (helloBody s)

/-- A BEAT on each trained sub-link (R372, R371). -/
def beatBody (s : State) : List Byte := leBytes 4 (pairEpoch s) ++ leBytes 1 (pairSetter s) ++ [0, 0, 0]
def sendBeat (s : State) : State :=
  [0, 1].foldl (fun s k =>
    if (getSub s k).up then
      sendOn { s with pair := { s.pair with mseq := s.pair.mseq + 1 } } k
        { typ := 0x01, hdr := { len := 8, seq := s.pair.mseq, nsid := 0, aux32 := s.pair.state + 8 * b2n s.power.healthy + 16 * pairRole s, aux64 := s.media.peerJsn }, body := beatBody s }
    else s) { s with media := { s.media with peerBeat := s.media.peerJsn } }

end Sys2Proof.Machine
end

