-- ==== Sys2Proof/Machine/LogOps.lean ====
section
/-!
DEFINITION. The logbook and the messages the module sends on its field ports by itself: commits,
wear, worn lines, heartbeat and emergency frames (R442 to R455).
-/
namespace Sys2Proof.Machine

/-! ### Frames -/

/-- The bytes of a number, most significant first. -/
def bigEnd (n v : Nat) : List Byte := (leBytes n v).reverse

/-- The MAC address of a Synmon port: port 1's is port 0's plus 1 (R521). -/
def macOf (s : State) (port : Nat) : List Byte :=
  bigEnd 6 ((ofLe (leBytes 6 (dget s 0x1110 2)).reverse + port) % 2 ^ 48)

/-- A Synmon frame (R442, Table 17.2): destination, source, EtherType, header, data, padding. -/
def synFrame (s : State) (port : Nat) (dest : List Byte) (service flags tid index sub : Nat)
    (data : List Byte) : List Byte :=
  dest ++ macOf s port ++ [0x88, 0xB5] ++
    padTo 46 ([1, BitVec.ofNat 8 service, BitVec.ofNat 8 (dget s 0x1100 1), BitVec.ofNat 8 flags] ++
      leBytes 2 tid ++ leBytes 2 index ++ [BitVec.ofNat 8 sub, 0] ++ leBytes 2 data.length ++ data)

/-- A frame leaves a port and is counted. -/
def sendFrame (s : State) (port : Nat) (bytes : List Byte) : State :=
  bump (emit s (.frame port bytes)) (0x1110 + port) 9 1

/-- What an access that succeeds returns: nothing but the length written, a value with its length, or
the items of a block read with their number. -/
inductive Got where
  | wrote (n : Nat)
  | value (n : Nat) (data : List Byte)
  | items (n : Nat) (data : List Byte)
  deriving DecidableEq, Repr

def Got.data : Got → List Byte
  | .wrote _ => []
  | .value _ d => d
  | .items _ d => d

/-- Bits [31:16] of a tunnel completion (R79), and bits [23:16] of an NVMe-MI response (R440). -/
def Got.tunnelCount : Got → Nat
  | .wrote _ => 0
  | .value n _ => n
  | .items n _ => n
def Got.miCount : Got → Nat
  | .items n _ => n
  | _ => 0

/-- A payload of bytes, if there are any. -/
def bytesOr (d : List Byte) : Payload := if d.isEmpty then .none else .bytes d

/-- An access succeeds. A Synmon write's response carries the length written as two bytes, a node ID's
the new value (log entry 40). -/
def answer (s : State) (r : Reply) (g : Got) : State :=
  match r with
  | .access p i sub => emit s (.access p i sub 0 g.data)
  | .tunnel a => adminDone s a .success (g.tunnelCount * 65536) (bytesOr g.data)
  | .frame p dest svc tid i sub =>
    sendFrame s p (synFrame s p dest svc 1 tid i sub (match g with
      | .wrote n => if svc = 0x12 then leBytes 1 (dget s 0x1100 1) else leBytes 2 n
      | _ => g.data))
  | .mi p => emit s (.mi p .success (g.miCount * 65536) (bytesOr g.data))

/-- An access aborts with a code (R79, R440, R443). A tunnel read or block read that aborts transfers no data (DESIGN
CHOICE, log entry 69). -/
def answerAbort (s : State) (r : Reply) (code : Nat) : State :=
  match r with
  | .access p i sub => emit s (.access p i sub code [])
  | .tunnel a => adminDone s a (if code = 6 then .vendor 0x84 else .success) code .none
  | .frame p dest svc tid i sub => sendFrame s p (synFrame s p dest svc 3 tid i sub (leBytes 2 code))
  | .mi p => emit s (.mi p (if code = 6 then .internalError else .success) code .none)

def portEnabled (s : State) (port : Nat) : Bool := dget s (0x1110 + port) 1 == 1
def hbDest (s : State) : List Byte := leBytes 6 (dget s 0x1100 3)

/-- Bytes 0 and on of a heartbeat (R445). -/
def hbState (s : State) : Nat :=
  if s.power.dumping ∨ s.power.modRst ∨ s.power.fenceIn then 2
  else if s.power.recovery then 3
  else if s.power.bootStep < 6 then 0 else 1
def hbData (s : State) : List Byte :=
  leBytes 1 (hbState s) ++ leBytes 1 s.power.bootStep ++ leBytes 6 s.uptime

/-- A heartbeat on each enabled port. -/
def sendHeartbeats (s : State) : State :=
  let s := { s with mgmt := { s.mgmt with hbLast := s.nowMs } }
  [0, 1].foldl (fun s p => if portEnabled s p then sendFrame s p (synFrame s p (hbDest s) 0x10 0 0 0 0 (hbData s)) else s) s

/-- An emergency message on one port: fewer than 10 in the preceding second (R446). -/
def sendEmergency (s : State) (data : List Byte) (p : Nat) : State :=
  if !portEnabled s p then s
  else if (s.mgmt.emergSent.filter (fun e => e.1 == p && decide (s.nowMs < e.2 + 1000))).length < 10 then
    sendFrame { s with mgmt := { s.mgmt with emergSent := (p, s.nowMs) :: s.mgmt.emergSent.filter (fun e => decide (s.nowMs < e.2 + 1000)) } } p
      (synFrame s p (hbDest s) 0x11 0 0 0 0 data)
  else bump s 0x1200 8 1

/-- An emergency message on both ports, while EMERG_ENABLE is 1. -/
def sendEmergencies (s : State) (data : List Byte) : State :=
  if dget s 0x1100 5 = 1 then [0, 1].foldl (fun s p => sendEmergency s data p) s else s

/-- An event of Table 17.3. Before the end of boot step 2 it waits for that point. -/
def emergency (s : State) (code index sub detail : Nat) : State :=
  let data := leBytes 2 code ++ leBytes 2 index ++ leBytes 1 sub ++ [0, 0, 0] ++ leBytes 4 detail
  let s := dset s 0x1200 9 (ofLe data)
  if s.power.bootStep < 2 then { s with mgmt := { s.mgmt with emergHeld := s.mgmt.emergHeld ++ [data] } }
  else sendEmergencies s data

/-! ### Lines and sections (Table 17.6) -/

/-- Lines of sections 0 to 10. -/
def sectionSizes : List Nat := [64, 8192, 2048, 4160, 8193, 256, 64, 512, 49153, 49153, 256]
def sectionSize (n : Nat) : Nat := (sectionSizes[n]?).getD 1
def sectionBase (n : Nat) : Nat := (sectionSizes.take n).sum
def checkLine (n : Nat) : Nat := sectionBase n + sectionSize n - 1

/-- The line of a section that holds an item, which the manual leaves open. -/
def itemLine (sec item : Nat) : Nat := sectionBase sec + Config.logLine item % (sectionSize sec - 1)

/-- The data line of a P entry; a tenant's entries lie in 8 lines of its own. -/
def dataLine (i sub : Nat) : Nat :=
  if dictSection i sub = 4 then sectionBase 4 + 8 * (i - 0x6000) + Config.logLine (dk i sub) % 8
  else itemLine (dictSection i sub) (dk i sub)

def wearRating : Nat := 200000000
def wearOf (s : State) (line : Nat) : Nat := tabGet 0 s.logbook.wear line

/-- A line is worn: it reached its rating and no spare line is left (R455). -/
def lineWorn (s : State) (line : Nat) : Bool :=
  s.logbook.spares == 0 && decide (wearRating ≤ wearOf s line)

/-- A commit to a section's line would be refused (R455). -/
def commitWorn (s : State) (sec line : Nat) : Bool := lineWorn s line || lineWorn s (checkLine sec)
def entryWorn (s : State) (i sub : Nat) : Bool := commitWorn s (dictSection i sub) (dataLine i sub)

/-- A line is written; where that wears it out, the values its read-only entries hold stay in it. -/
def wearLine (s : State) (line : Nat) : State :=
  let was := lineWorn s line
  let s := { s with logbook := { s.logbook with wear := tabMod 0 s.logbook.wear line (· + 1) } }
  if lineWorn s line && !was then
    { s with logbook := { s.logbook with stored := (s.dict.filter (fun e => dataLine (e.1 / 256) (e.1 % 256) == line)).foldl (fun t e => tabPut t e.1 e.2) s.logbook.stored } }
  else s

/-- A section that failed its check is rewritten whole by the first write to it (R453); the
calibration section, the firmware slots and the directory are not. -/
def rewriteSection (s : State) (sec : Nat) : State :=
  if s.logbook.failed.contains sec ∧ sec ≠ 2 ∧ sec < 8 then
    let s := (List.range (sectionSize sec - 1)).foldl (fun s l => wearLine s (sectionBase sec + l)) s
    { s with logbook := { s.logbook with failed := s.logbook.failed.filter (· != sec) } }
  else s

/-- A commit (R451): the check line, then the data line. -/
def commitAt (s : State) (sec line : Nat) : State :=
  bump (wearLine (wearLine (rewriteSection s sec) (checkLine sec)) line) 0x1200 6 1

/-- A P entry takes a new value and commits it; a value already held costs nothing (R436, R437). -/
def persist (s : State) (i sub v : Nat) : State :=
  if dget s i sub = v then s
  else commitAt (dset s i sub v) (dictSection i sub) (dataLine i sub)

/-- A write refused with 0x0006 (R455). -/
def wornRefusal (s : State) (i sub line : Nat) : State :=
  emergency (bump s 0x1200 3 1) 0x0102 i sub line

/-- LOGBOOK_LINE_REMAP: a line within 1,024 writes of its rating passes to a spare (R454). -/
def execLogbookLineRemap (line : Nat) (s : State) : Res :=
  .next (when (decide (wearRating - 1024 ≤ wearOf s line) && decide (0 < s.logbook.spares)) s
    (let s := { s with logbook := { s.logbook with
        wear := tabSet 0 s.logbook.wear line 0, spares := s.logbook.spares - 1, remap := tabPut s.logbook.remap line (4097 - s.logbook.spares), failed := s.logbook.failed.filter (· != 10) } }
     if s.logbook.spares = 256 then emergency s 0x0103 0x1200 2 256 else s))

end Sys2Proof.Machine
end

