-- ==== Sys2Proof/Machine/HostOps.lean ====
section
/-!
DEFINITION. The docket table and its locks (R53 to R58), and the codes of the statuses.
-/
namespace Sys2Proof.Machine

def getDk (s : State) (d : Nat) : Docket := tabGet Docket.free s.host.dockets d
def setDk (s : State) (d : Nat) (e : Docket) : State :=
  { s with host := { s.host with dockets := tabSet Docket.free s.host.dockets d e } }
def modDk (s : State) (d : Nat) (g : Docket → Docket) : State := setDk s d (g (getDk s d))

/-- The entry holds a command. -/
def dkUsed (s : State) (d : Nat) : Bool := (tabFind s.host.dockets d).isSome

/-- Entries of the docket table: an entry is held until its completion is posted or a reset discards it
(R53). What remains of a committed write until step 9 of Table 1.5, its lock and its berths, keeps its
number here but is no entry of the table (log entry 63). -/
def docketUsed (s : State) : Nat := (s.host.dockets.filter (fun e => !e.2.posted)).length

/-- The commands a function has in flight (R54). -/
def inFlight (s : State) (fn : Nat) : Nat :=
  (s.host.dockets.filter (fun e => e.2.fn == fn && e.2.remote.isNone && !e.2.posted)).length

/-- Lock table entries in use. -/
def locksUsed (s : State) : Nat := (s.host.dockets.map (fun e => e.2.locks.length)).sum

/-- Two lock entries conflict: they overlap in one namespace and either is a write entry (R57). -/
def lockConflict (a b : Lock) : Bool :=
  a.nsid == b.nsid && decide (a.lo ≤ b.hi) && decide (b.lo ≤ a.hi) && (a.write || b.write)

/-- An earlier-fetched command still in flight holds a conflicting entry. -/
def lockBlocked (s : State) (e : Docket) : Bool :=
  s.host.dockets.any (fun o =>
    decide (o.2.seq < e.seq) && o.2.locks.any (fun l => e.locks.any (lockConflict l)))

/-- Any entry of the lock table conflicts with these. -/
def locksHeld (s : State) (ls : List Lock) : Bool :=
  s.host.dockets.any (fun o => o.2.locks.any (fun l => ls.any (lockConflict l)))

/-- NVMe 2.1 codes of the statuses: status code type × 256 + status code (PRESUMED, log entry 5). -/
def statusCode : Status → Nat
  | .success => 0 | .invalidOpcode => 0x01 | .invalidField => 0x02 | .dataTransferError => 0x04
  | .internalError => 0x06 | .abortRequested => 0x07 | .sqDeleted => 0x08 | .invalidNamespaceOrFormat => 0x0B
  | .commandSequenceError => 0x0C | .sanitizeFailed => 0x1C | .sanitizeInProgress => 0x1D
  | .namespaceWriteProtected => 0x20 | .lbaOutOfRange => 0x80 | .capacityExceeded => 0x81
  | .namespaceNotReady => 0x82 | .reservationConflict => 0x83
  | .completionQueueInvalid => 0x100 | .invalidQueueIdentifier => 0x101
  | .invalidQueueSize => 0x102 | .abortLimitExceeded => 0x103 | .asyncEventLimitExceeded => 0x105
  | .invalidFirmwareSlot => 0x106 | .invalidFirmwareImage => 0x107
  | .invalidInterruptVector => 0x108 | .invalidLogPage => 0x109 | .invalidFormat => 0x10A
  | .invalidQueueDeletion => 0x10C | .featureNotSaveable => 0x10D | .featureNotChangeable => 0x10E
  | .firmwareActivationProhibited => 0x113 | .nsInsufficientCapacity => 0x115
  | .nsIdUnavailable => 0x116 | .nsAlreadyAttached => 0x118 | .nsIsPrivate => 0x119
  | .nsNotAttached => 0x11A | .invalidControllerList => 0x11C | .selfTestInProgress => 0x11D
  | .invalidControllerIdentifier => 0x11F | .invalidSecondaryState => 0x120
  | .invalidControllerResources => 0x121 | .invalidResourceIdentifier => 0x122
  | .commandSizeLimitExceeded => 0x183 | .insufficientResources => 0x189 | .insufficientProgramResources => 0x18A
  | .invalidMemoryNamespace => 0x18B | .invalidMemoryRangeSet => 0x18C | .invalidRangeSetId => 0x18D
  | .invalidProgramData => 0x18E | .invalidProgramIndex => 0x18F | .invalidProgramType => 0x190
  | .rangesExceeded => 0x191 | .rangeSetsExceeded => 0x192 | .programsExceeded => 0x193 | .programBytesExceeded => 0x194
  | .rangeSetInUse => 0x195 | .noProgram => 0x196 | .overlappingRanges => 0x197 | .programNotActivated => 0x198
  | .programInUse => 0x199
  | .zoneBoundaryError => 0x1B8 | .zoneFull => 0x1B9 | .zoneReadOnly => 0x1BA
  | .zoneOffline => 0x1BB | .zoneInvalidWrite => 0x1BC | .tooManyActiveZones => 0x1BD
  | .tooManyOpenZones => 0x1BE | .invalidZoneTransition => 0x1BF
  | .writeFault => 0x280 | .unrecoveredReadError => 0x281 | .compareFailure => 0x285
  | .anaInaccessible => 0x302 | .anaTransition => 0x303
  | .vendor c => 0x700 + c

/-- Completion dword 3 bits [31:17]: status code, type and DNR. -/
def statusField (st : Status) : Nat := statusCode st + (if dnrOf st then 0x4000 else 0)

/-- Command dword `n` of a submission entry, 10 to 15. -/
def sqeDw (q : Sqe) (n : Nat) : Nat := ((q.dw[n - 10]?).getD 0).toNat

/-- The kinds of command that write. -/
def isWriteKind : IoKind → Bool
  | .write | .writeZeroes | .writeUncorrectable | .zoneAppend | .copy => true
  | _ => false

/-- The event condition shared by the rows that execute a docket entry: the entry holds an admitted
command of this kind that is not stalled and whose row has not come yet, and no dump runs (R409). -/
def dkStart (s : State) (d : Nat) (k : IoKind) : Bool :=
  let e := getDk s d
  dkUsed s d && e.sqe.kind == k && e.word == .admitted && !e.stalled && !e.started && !s.power.dumping

/-- An I/O command row: nothing where the entry is not such a command. -/
def io (s : State) (d : Nat) (k : IoKind) (t : State) : Res := .next (when (dkStart s d k) s t)

end Sys2Proof.Machine
end

