-- ==== Sys2Proof/Machine/Pool.lean ====
section
/-!
DEFINITION. The berth pool manager (chapter 5): owner tags, the free store, checks, waiting,
sharing and reclaiming. Tokens and result words are delivered through the harbour master's
operations, which this file's results name.
-/
namespace Sys2Proof.Machine

/-- Base, size and count of the classes (Table 5.1). -/
def nearBase : Nat := 0x000100000000
def farBase : Nat := 0x001000000000
def berthSize (far : Bool) : Nat := if far then 65536 else 4096
def berthCount (far : Bool) : Nat := if far then 1048576 else 24576
def berthBase (far : Bool) : Nat := if far then farBase else nearBase
def berthAddr (far : Bool) (i : Nat) : Nat := berthBase far + i * berthSize far

/-- The class whose range holds an address. -/
def berthClass (a : Nat) : Option Bool :=
  if nearBase ≤ a ∧ a < nearBase + 24576 * 4096 then some false
  else if farBase ≤ a ∧ a < farBase + 1048576 * 65536 then some true
  else none

def getBerth (s : State) (a : Nat) : Berth := tabGet Berth.free s.pool.berths a
def setBerth (s : State) (a : Nat) (b : Berth) : State :=
  { s with pool := { s.pool with berths := tabSet Berth.free s.pool.berths a b } }

/-- The class's hot stack and wait queue. -/
def hotStack (s : State) (far : Bool) : List Nat := if far then s.pool.farStack else s.pool.nearStack
def setStack (s : State) (far : Bool) (l : List Nat) : State :=
  if far then { s with pool := { s.pool with farStack := l } }
  else { s with pool := { s.pool with nearStack := l } }
def waitQ (s : State) (far : Bool) : List Waiter := if far then s.pool.farWait else s.pool.nearWait
def setWaitQ (s : State) (far : Bool) (l : List Waiter) : State :=
  if far then { s with pool := { s.pool with farWait := l } }
  else { s with pool := { s.pool with nearWait := l } }

/-- Berths allocated in a class. -/
def allocCount (s : State) (far : Bool) : Nat :=
  (s.pool.berths.filter (fun e => e.2.alloc && (berthClass e.1 == some far))).length

/-- Free berths of a class, stack included; none near while D2 is off (R172). -/
def freeCountOf (s : State) (far : Bool) : Nat :=
  if !far && !domainOn s 2 then 0
  else berthCount far - allocCount s far

/-- The lows follow the free counts (Table 5.6). -/
def noteLow (s : State) (far : Bool) : State :=
  if far then { s with pool := { s.pool with farLow := min s.pool.farLow (freeCountOf s true) } }
  else if domainOn s 2 then
    { s with pool := { s.pool with nearLow := min s.pool.nearLow (freeCountOf s false) } }
  else s

/-- The lowest-numbered berth that is free in the class's bitmap (R155). -/
def bitmapFree (s : State) (far : Bool) : Option Nat :=
  let used (i : Nat) : Bool :=
    let a := berthAddr far i
    (getBerth s a).alloc || (hotStack s far).contains a
  let fuel := s.pool.berths.length + (hotStack s far).length + 1
  match lowestFrom (fun i => !used i) fuel 0 with
  | some i => if i < berthCount far then some (berthAddr far i) else none
  | none => none

/-- Take a berth for an owner, as R155 orders; none where the class is empty. -/
def poolTake (s : State) (far : Bool) (tag : Nat) : Option (Nat × State) :=
  if !far && !domainOn s 2 then none
  else
    let own : Berth := { alloc := true, owner := tag, claims := [], done := none }
    match hotStack s far with
    | a :: rest => some (a, noteLow (setBerth (setStack s far rest) a own) far)
    | [] =>
      match bitmapFree s far with
      | some a => some (a, noteLow (setBerth s a own) far)
      | none => none

/-- `n` far berths for an owner, in allocation order; fewer where the class runs empty. -/
def poolTakeN (tag : Nat) : Nat → State → List Nat × State
  | 0, s => ([], s)
  | n + 1, s =>
    match poolTake s true tag with
    | none => ([], s)
    | some (a, s) => let r := poolTakeN tag n s; (a :: r.1, r.2)

/-- A freed berth with no waiter goes to the hot stack, or to the bitmap (R156). -/
def poolStore (s : State) (far : Bool) (a : Nat) : State :=
  let s := setBerth s a Berth.free
  if (hotStack s far).length < 64 then setStack s far (a :: hotStack s far) else s

/-! ### Owner tags -/

/-- The tag a requester's port stamps (R159, Table 5.3). The owner field is the thread a core runs,
or the docket entry the host-queue logic works for. -/
def tagOf (r : Requester) : Nat :=
  let k (kind i : Nat) := kind * 2 ^ 20 + i
  if r.port < 7 then (if r.index < 8 then k 5 (r.port * 8 + r.index) else k 8 r.port)
  else if r.port = 7 then k 6 r.owner
  else if r.port = 8 then k 7 0
  else if r.port = 9 then k 3 r.index
  else if r.port = 10 then k 4 r.index
  else if r.port < 19 then k 1 r.owner
  else k 2 r.owner

def threadTag (t : Nat) : Nat := if t < 65536 then 2 ^ 20 + t else 2 ^ 21 + (t - 65536)

/-! ### Fields of a request record (Table 5.4) -/

def brOp (r : BerthReq) : Nat := bitsOf r.w0.toNat 0 3
def brFar (r : BerthReq) : Bool := r.w0.getLsbD 4
def brWait (r : BerthReq) : Bool := r.w0.getLsbD 5
def brNsh (r : BerthReq) : Nat := bitsOf r.w0.toNat 6 7
def brAddr (r : BerthReq) : Nat := bitsOf r.w0.toNat 16 63
def brChannel (r : BerthReq) : Nat := bitsOf r.w1.toNat 0 23
def brNotify (r : BerthReq) : Bool := r.w1.getLsbD 24
def brDone (r : BerthReq) : Nat := bitsOf r.w1.toNat 32 55
def brDoneV (r : BerthReq) : Bool := r.w1.getLsbD 56
def brOwners (r : BerthReq) : List Nat :=
  [bitsOf r.w3.toNat 0 23, bitsOf r.w3.toNat 32 55, bitsOf r.w4.toNat 0 23, bitsOf r.w4.toNat 32 55]

/-- The reserved fields of the record are 0. -/
def brClean (r : BerthReq) : Bool :=
  bitsOf r.w0.toNat 8 15 == 0 && bitsOf r.w1.toNat 25 31 == 0 && bitsOf r.w1.toNat 57 63 == 0 &&
  bitsOf r.w3.toNat 24 31 == 0 && bitsOf r.w3.toNat 56 63 == 0 &&
  bitsOf r.w4.toNat 24 31 == 0 && bitsOf r.w4.toNat 56 63 == 0

/-- Nothing of SHARE's own fields is set. -/
def brNoShare (r : BerthReq) : Bool :=
  brNsh r == 0 && brDone r == 0 && !brDoneV r && r.w3 == 0 && r.w4 == 0

/-- The record is well formed for its operation (R164). -/
def brFormed (r : BerthReq) : Bool :=
  brClean r &&
  match brOp r with
  | 0 => brNoShare r && brAddr r == 0
  | 1 | 3 | 4 => brNoShare r && !brFar r && !brWait r
  | 2 => !brFar r && !brWait r && (((brOwners r).drop (brNsh r + 1)).all (· == 0))
  | _ => false

/-- The tags a SHARE may name (R168): a lighter thread only threads of its own tenant and tags of kinds 2 to 8. A tag
of a kind that never occurs (R160) is refused to every caller (DESIGN CHOICE, log entry 69). -/
def shareNamesOk (s : State) (tag : Nat) (owners : List Nat) : Bool :=
  if tag / 2 ^ 20 = 1 then
    let space := (tabGet Thread.free s.hm.threads (tag % 2 ^ 20)).space
    owners.all (fun o =>
      let k := o / 2 ^ 20
      (decide (2 ≤ k) && decide (k ≤ 8)) ||
        (k == 1 && (tabGet Thread.free s.hm.threads (o % 2 ^ 20)).space == space &&
          (tabGet Thread.free s.hm.threads (o % 2 ^ 20)).state != 0))
  else owners.all (fun o => decide (1 ≤ o / 2 ^ 20) && decide (o / 2 ^ 20 ≤ 8))

/-- The code the checks of Table 5.5 give a FREE, SHARE, RELEASE or RECLAIM. -/
def berthCheck (s : State) (port tag : Nat) (r : BerthReq) : Nat :=
  let op := brOp r
  let a := brAddr r
  let b := getBerth s a
  let names := (brOwners r).take (brNsh r + 1)
  if !brFormed r || (op == 2 && !shareNamesOk s tag names) then 2
  else match berthClass a with
    | none => 2
    | some far =>
      if (a - berthBase far) % berthSize far ≠ 0 then 3
      else if !b.alloc then 4
      else if (op == 1 || op == 2) && b.owner != tag then 5
      else if op == 3 && !b.claims.contains tag then 5
      else if op == 4 && port != 19 then 5
      else if op == 1 && !b.claims.isEmpty then 6
      else if op == 2 && decide (4 < b.claims.length + (brNsh r + 1)) then 7
      else 0

/-- The result word (R162). -/
def berthWord (code op addr : Nat) : W64 := BitVec.ofNat 64 (code + op * 256 + addr * 65536)

/-- Counters of codes 1 to 7. -/
def countCode (s : State) (code : Nat) : State :=
  if code = 0 then s else bump s 0x7010 (0x10 + code) 1

/-- The share of a class's wait queue that a port belongs to has a place (R165). -/
def waitPlace (s : State) (far : Bool) (port : Nat) : Bool :=
  if port ≤ 10 then decide (((waitQ s far).filter (fun w => w.who.port ≤ 10)).length < 256)
  else decide (((waitQ s far).filter (fun w => 10 < w.who.port)).length < 3840)

/-- The fabric address of the near end of a control core's DMA. -/
def dmaNear (d : Dma) : Nat := Config.dmaNearHigh * 2 ^ 32 + d.near

/-- A transfer is reading or writing a berth: at its far end, or at the near end of a control core's. -/
def berthBusy (s : State) (a : Nat) : Bool :=
  match berthClass a with
  | none => false
  | some far =>
    let meets (lo n : Nat) : Bool := decide (lo < a + berthSize far) && decide (a < lo + n)
    s.hm.dmas.any (fun e => e.2.live &&
      ((!e.2.slm && meets e.2.far e.2.length) || (decide (65536 ≤ e.2.thread) && meets (dmaNear e.2) e.2.length))) ||
    s.ik.cores.any (fun c => c.2.streams.any (fun w => (w.2.isOpen || w.2.draining) && !w.2.slm && meets w.2.far w.2.length))

end Sys2Proof.Machine
end

