-- ==== Sys2Proof/Machine/Harbour.lean ====
section
/-!
DEFINITION. The harbour master (chapter 6): channels, matching, ready lists, placement, core
leases, windows, and the delivery of result words.
-/
namespace Sys2Proof.Machine

def fwSpace : Nat := 1024

def getThr (s : State) (t : Nat) : Thread := tabGet Thread.free s.hm.threads t
def setThr (s : State) (t : Nat) (th : Thread) : State :=
  { s with hm := { s.hm with threads := tabSet Thread.free s.hm.threads t th } }
def modThr (s : State) (t : Nat) (g : Thread → Thread) : State := setThr s t (g (getThr s t))

def getCore (s : State) (c : Nat) : Core := tabGet Core.empty s.ik.cores c
def setCore (s : State) (c : Nat) (x : Core) : State :=
  { s with ik := { s.ik with cores := tabSet Core.empty s.ik.cores c x } }
def modCore (s : State) (c : Nat) (g : Core → Core) : State := setCore s c (g (getCore s c))

def isControl (t : Nat) : Bool := decide (65536 ≤ t)
def isLighterCore (c : Nat) : Bool := decide (c < 256)
def clusterOf (c : Nat) : Nat := c / 32

/-! ### Channels -/

def chanKey (space ch : Nat) : Nat := space * 2 ^ 24 + ch
def getChan (s : State) (k : Nat) : Chan := tabGet ⟨0, false⟩ s.hm.chans k
def setChan (s : State) (k : Nat) (c : Chan) : State :=
  { s with hm := { s.hm with chans := tabSet ⟨0, false⟩ s.hm.chans k (if c.count = 0 then ⟨0, false⟩ else c) } }

/-- The keys a waiting thread's requirements name. -/
def reqKeys (s : State) (t : Nat) : List Nat :=
  (getThr s t).reqs.map (fun r => chanKey (getThr s t).space r.channel)

/-- A requirement of some waiting thread names the channel. -/
def chanNamed (s : State) (k : Nat) : Bool := s.hm.waits.any (fun t => (reqKeys s t).contains k)

/-- The channel's entry is in the spill ring. -/
def chanInRing (s : State) (k : Nat) : Bool := s.hm.ring.contains (.chan k)

/-- Posts that wait for a channel's entry to return from the ring. -/
def waitingPosts (s : State) (k : Nat) : List RingPost := s.hm.ringPosts.filter (fun p => p.key == k)

/-- Idle channels of a space, in the store or in the ring (R184). -/
def idleChans (s : State) (space : Nat) : Nat :=
  ((tabKeys s.hm.chans ++ s.hm.ringPosts.map (·.key)).dedup.filter (fun k => k / 2 ^ 24 == space && !chanNamed s k)).length

def idleLimit (space : Nat) : Nat := if space = fwSpace then 65536 else 256

/-- Channel entries: counts above 0, and channels a requirement names. -/
def chanEntries (s : State) : List Nat :=
  (tabKeys s.hm.chans ++ (s.hm.waits.map (reqKeys s)).flatten).dedup

/-- Entries in the manifest store (R184): those in the spill ring are not counted. -/
def manifestUsed (s : State) : Nat :=
  ((chanEntries s).filter (fun k => !chanInRing s k)).length +
    (s.hm.waits.map (fun t => ((getThr s t).reqs.filter (fun r => !s.hm.ring.contains (.req t r))).length)).sum

/-- A new entry goes to the ring (R186). -/
def toRing (s : State) : Bool := !s.hm.ring.isEmpty || decide (32768 ≤ manifestUsed s)

def pushRing (s : State) (e : RingEnt) : State :=
  { s with hm := { s.hm with ring := s.hm.ring ++ [e], spillHigh := max s.hm.spillHigh (s.hm.ring.length + 1) } }

/-- The thread a thread channel names (Table 6.2). -/
def chanThread (space ch : Nat) : Option Nat :=
  if 0xFF0000 ≤ ch ∧ ch < 0x1000000 then some (ch - 0xFF0000)
  else if space = fwSpace ∧ 0xFEF000 ≤ ch ∧ ch ≤ 0xFEFFFF then some (65536 + (ch - 0xFEF000))
  else none

/-- A channel left idle as one too many has its count discarded (R185). -/
def trimIdle (s : State) (k port : Nat) : State :=
  let n := (getChan s k).count + ((waitingPosts s k).map (·.qty)).sum
  if n > 0 ∧ !chanNamed s k ∧ idleChans s (k / 2 ^ 24) > idleLimit (k / 2 ^ 24) then
    let s := { setChan s k ⟨0, false⟩ with hm := { (setChan s k ⟨0, false⟩).hm with
      ring := s.hm.ring.filter (fun e => decide (e ≠ .chan k)), ringPosts := s.hm.ringPosts.filter (fun p => p.key != k) } }
    logFault (bump s 0x7020 0x0C n) (k / 2 ^ 24) 2 0 none 0 (k % 2 ^ 24) port
  else s

/-- A ring entry of a channel that holds no token and that nothing names any more is gone (R184). -/
def dropRingChan (s : State) (k : Nat) : State :=
  if chanInRing s k && !chanNamed s k && (waitingPosts s k).isEmpty then
    { s with hm := { s.hm with ring := s.hm.ring.filter (fun e => decide (e ≠ .chan k)) } }
  else s

/-! ### Leases and eligibility -/

def getLease (s : State) (c : Nat) : CoreLease := tabGet CoreLease.free s.hm.leases c
def setLease (s : State) (c : Nat) (l : CoreLease) : State :=
  { s with hm := { s.hm with leases := tabSet CoreLease.free s.hm.leases c l } }

/-- Cores leased to a space. -/
def coresHeld (s : State) (space : Nat) : Nat :=
  (s.hm.leases.filter (fun e => e.2.space == some space)).length

/-- The cap of a space (R193). -/
def coreCap (s : State) (space : Nat) : Nat :=
  if space = fwSpace then dget s 0x7020 4 else dget s (0x6000 + space) 2

/-- Cores a space holds or is about to hold. -/
def coresClaimed (s : State) (space : Nat) : Nat :=
  coresHeld s space + (s.hm.leases.filter (fun e => e.2.next == some (some space))).length

/-- The lease cluster mask of a space. The firmware space has no lease record: it may run on every cluster
(DESIGN CHOICE, log entry 69). -/
def clusterMask (s : State) (space : Nat) : Nat :=
  if space = fwSpace then 0xFF else dget s (0x6000 + space) 3

/-- A core is retired (R492). -/
def coreRetired (s : State) (c : Nat) : Bool := bitOf (dget s 0x9000 8) c

/-- A lighter core can be given a thread at all: its domain is on, no test or withholding keeps it,
it is idle, and its lease is not changing. -/
def coreIdle (s : State) (c : Nat) : Bool :=
  decide ((getCore s c).phase = .idle) && !s.power.dumping &&
    (if isLighterCore c then clusterOn s (clusterOf c) && !coreRetired s c &&
        !s.service.bist.contains (clusterOf c) && !s.power.withheld && (getLease s c).next.isNone
     else domainOn s 1)

/-- Threads of a space whose windows lie on a core and must be saved before it passes (R194); a
stopped thread's window is over. -/
def windowsOn (s : State) (c : Nat) (space : Nat) : List Nat :=
  (s.hm.threads.filter (fun e =>
    decide (e.1 < 65536) && e.2.state != 0 && e.2.state != 5 && e.2.space == space && e.2.lastCore == c &&
      decide (0 < e.2.winSize))).map Prod.fst

/-- Far berths a thread's window is saved to. -/
def windowBerths (th : Thread) : Nat := ceilDiv (th.winSize * 4096) 65536

/-- A transfer into or out of a thread's window is in flight (R260). -/
def threadBusy (s : State) (t : Nat) : Bool :=
  s.hm.dmas.any (fun e => e.2.live && e.2.thread == t) ||
  s.ik.cores.any (fun c => c.2.streams.any (fun w => (w.2.isOpen || w.2.draining) && w.2.thread == t))

/-- A transfer of a thread whose window lies on the core is in flight: no change gets past step 1 (R260). -/
def changeBlocked (s : State) (c : Nat) : Bool :=
  s.hm.threads.any (fun e => decide (e.1 < 65536) && e.2.state != 0 && e.2.lastCore == c && threadBusy s e.1)

/-- An own-space thread waits that core `c` could run. -/
def ownWaits (s : State) (c space : Nat) : Bool :=
  s.hm.ready.any (fun r =>
    (r.place == .affinity c || r.place == .cluster (clusterOf c)) &&
      (getThr s r.thread).space == space && bitOf (getThr s r.thread).cmask (clusterOf c) &&
      bitOf (clusterMask s space) (clusterOf c))

/-- The lease of core `c` may pass to `space` (R193). -/
def mayPass (s : State) (c space : Nat) : Bool :=
  let l := getLease s c
  l.next.isNone && decide (coresClaimed s space < coreCap s space) &&
  match l.space with
  | none => true
  | some own => own != space && ((l.minOver && !ownWaits s c own) || l.quantum)

/-- Core `c` is eligible for thread `t` (R188). -/
def eligible (s : State) (c t : Nat) : Bool :=
  let th := getThr s t
  if isControl t then !isLighterCore c
  else isLighterCore c && bitOf th.cmask (clusterOf c) && bitOf (clusterMask s th.space) (clusterOf c) &&
    ((getLease s c).space == some th.space || mayPass s c th.space) &&
    (!threadBusy s t || th.lastCore == c)

/-! ### Windows -/

/-- Where a thread's window byte `off` lies in the scratchpad memory, if it is on a core. -/
def winAddr (th : Thread) (off : Nat) : Nat := th.lastCore * 2 ^ 20 + th.winBase * 4096 + off

/-- Bytes of a lighter thread's window, wherever it lies: a core's scratchpad, or save berths. -/
def winRead (s : State) (t off len : Nat) : List Byte :=
  let th := getThr s t
  if th.lastCore ≠ 0xFFFF then memRead s.ik.spad (winAddr th off) len
  else (List.range len).map (fun i =>
    match th.saved[(off + i) / 65536]? with
    | some a => tabGet 0 s.dram (a + (off + i) % 65536)
    | none => 0)

/-- Stores of bytes at save berths. -/
def savedWrite (saved : List Nat) (m : Tab Byte) (off : Nat) : List Byte → Tab Byte
  | [] => m
  | b :: bs =>
    savedWrite saved
      (match saved[off / 65536]? with | some a => tabSet 0 m (a + off % 65536) b | none => m) (off + 1) bs

/-- Store into a lighter thread's window, wherever it lies. -/
def winWrite (s : State) (t off : Nat) (bs : List Byte) : State :=
  let th := getThr s t
  if th.lastCore ≠ 0xFFFF then
    { s with ik := { s.ik with spad := memWrite s.ik.spad (winAddr th off) bs } }
  else { s with dram := savedWrite th.saved s.dram off bs }

/-- A result word is delivered to a thread (R162): into a lighter thread's window, or at a control
thread's address. -/
def deliver (s : State) (t result : Nat) (w : W64) : State :=
  if isControl t then { s with dram := memWrite s.dram result (leBytes 8 w.toNat) }
  else if (getThr s t).state = 0 then s
  else winWrite s t result (leBytes 8 w.toNat)

/-- A far berth for a thread's window has come; with the last of them the window is copied, and lies on no core
any more (R194). -/
def saveGot (s : State) (t a : Nat) : State :=
  let th := getThr s t
  let saved := th.saved ++ [a]
  if saved.length < windowBerths th then setThr s t { th with saved := saved }
  else
    let bytes := winRead s t 0 (th.winSize * 4096)
    let s := setThr s t { th with lastCore := 0xFFFF, saved := saved }
    { s with dram := savedWrite saved s.dram 0 bytes }

/-- The request for a far berth of the module's own machinery, of index 32 at its port (log entry 70). -/
def ownAlloc (port owner tag : Nat) : Waiter := ⟨{ port := port, index := 32, owner := owner }, tag, { w0 := 0x30, w1 := 0, w2 := 0, w3 := 0, w4 := 0 }⟩

/-- Requests of the machinery that have no berth yet. -/
def ownAsked (s : State) (w : Waiter) : Nat := (s.pool.farWait ++ s.pool.held).count w

/-- The request of a window save (R159, R194). -/
def saveReq (t : Nat) : Waiter := ownAlloc 19 t (threadTag t)

/-- The requests of a port that wait there behind one held at its head. -/
def portHeld (s : State) (port : Nat) : Bool := s.pool.held.any (fun w => w.who.port == port)

/-- The requester has a place in its port's queue (R158): at most 128 a port; at most 4 a requester, but for the
host-queue logic, the hawser link controller and the machinery. -/
def portRoom (s : State) (who : Requester) : Bool :=
  decide ((s.pool.held.filter (fun w => w.who.port == who.port)).length < 128) &&
    (who.index == 32 || who.port == 7 || who.port == 8 ||
      decide ((s.pool.held.filter (fun w => w.who.port == who.port && w.who.index == who.index)).length < 4))

def pushHeld (s : State) (w : Waiter) : State := { s with pool := { s.pool with held := s.pool.held ++ [w] } }
def pushWait (s : State) (far : Bool) (w : Waiter) : State := setWaitQ s far (waitQ s far ++ [w])

/-- One far berth is asked for on a thread's behalf; it never completes with code 1 (R165). -/
def saveAsk (s : State) (t : Nat) : State :=
  let w := saveReq t
  if portHeld s 19 then (if portRoom s w.who then pushHeld s w else s)
  else match poolTake s true w.tag with
    | some (a, s) => saveGot s t a
    | none => if waitPlace s true 19 then pushWait s true w else pushHeld s w

/-- What a window's save still lacks is asked for. -/
def saveAsks (s : State) (t : Nat) : State :=
  (List.range (windowBerths (getThr s t) - (getThr s t).saved.length - ownAsked s (saveReq t))).foldl (fun s _ => saveAsk s t) s

/-- Saves of a window that has come to another core are asked for no more. -/
def dropSaves (s : State) (t : Nat) : State :=
  let out (l : List Waiter) := l.filter (fun w => decide (w ≠ saveReq t))
  { s with pool := { s.pool with farWait := out s.pool.farWait, held := out s.pool.held } }

/-- The window of one thread goes to far berths that are free. -/
def saveWindow (s : State) (t : Nat) : State :=
  (List.range (windowBerths (getThr s t) - (getThr s t).saved.length)).foldl (fun s _ => saveAsk s t) s

/-- The scratchpad, stream buffers and both banks of a core are set to zero. -/
def zeroCore (s : State) (c : Nat) : State :=
  let s := { s with ik := { s.ik with spad := memClear s.ik.spad (c * 2 ^ 20) ((c + 1) * 2 ^ 20) } }
  modCore s c (fun x => { x with bank0 := .empty, bank1 := .empty })

/-- A core of a cluster falls idle, or the cluster comes on. -/
def noteIdle (s : State) (cl : Nat) : State := { s with hm := { s.hm with idleAt := tabSet 0 s.hm.idleAt cl s.nowMs } }

/-- Steps 3 and 4 of a lease change (R194): the core is zeroed and recorded for the incoming space, or as free. A
core granted above a lease reduced meanwhile is taken back first (R193). -/
def finishChange (s : State) (c : Nat) (space : Option Nat) : State :=
  let s := modCore (zeroCore s c) c (fun x => { x with fresh := true })
  let s := setLease { s with hm := { s.hm with grantSeq := s.hm.grantSeq + 1 } } c
    (match space with
     | some sp => { CoreLease.free with space := some sp, seq := s.hm.grantSeq, taking := decide (coreCap s sp ≤ coresHeld s sp) }
     | none => CoreLease.free)
  bump s 0x7020 0x0B 1

/-- A lease change goes on (R194): once no transfer into a window on the core is in flight, the outgoing space's
windows are saved; with the last of them saved, steps 3 and 4 follow. -/
def settleChange (s : State) (c : Nat) : State :=
  let l := getLease s c
  match l.next with
  | none => s
  | some nx =>
    if changeBlocked s c then s
    else
      let ws (s : State) : List Nat := match l.space with | some own => windowsOn s c own | none => []
      let s := (ws s).foldl saveAsks s
      if (ws s).isEmpty then finishChange s c nx else s

/-- A lease change begins on a core whose last block has completed: to a space, or to none. -/
def startChange (s : State) (c : Nat) (space : Option Nat) : State :=
  settleChange (setLease s c { getLease s c with next := some space }) c

/-! ### Placement (R187 to R190) -/

/-- Thread `t` is dispatched to idle core `c`; the core has still to switch to it, and its lease may have to change
first. POISONED is latched for the block (R196). A program's first dispatch is its commit point (Table 2.8). -/
def dispatch (s : State) (c t : Nat) : State :=
  let th := getThr s t
  let s := if isControl t ∨ (getLease s c).space = some th.space then s else startChange s c (some th.space)
  let s := match th.root with
    | some d => if (getDk s d).word = .admitted then modDk s d (fun e => { e with word := .committed }) else s
    | none => s
  modThr (modCore s c (fun x => { x with phase := .switching t, poisoned := th.poisoned })) t (fun th => { th with state := 3 })

/-- The idle eligible cores of a cluster, ascending; cluster 8 holds the control cores. -/
def idleCores (s : State) (cl t : Nat) : List Nat :=
  ((List.range 32).map (· + cl * 32)).filter (fun c => coreIdle s c && eligible s c t)

def listLen (s : State) (p : Place) : Nat := (s.hm.ready.filter (fun r => r.place == p)).length

/-- A ready thread joins the lists behind every thread that became ready before it. -/
def insertReady (s : State) (r : Ready) : List Ready → List Ready
  | [] => [r]
  | q :: qs => if (getThr s r.thread).readySeq < (getThr s q.thread).readySeq then r :: q :: qs else q :: insertReady s r qs

def pushReady (s : State) (t : Nat) (p : Place) : State :=
  { s with hm := { s.hm with ready := insertReady s ⟨t, p⟩ s.hm.ready } }

/-- The thread becomes ready now: its place in the order of R187. -/
def stampReady (s : State) (t : Nat) : State :=
  modThr { s with hm := { s.hm with readyCount := s.hm.readyCount + 1 } } t (fun th => { th with readySeq := s.hm.readyCount })

/-- The list of cluster `d`; 8 is the control cores'. -/
def clusterPlace (d : Nat) : Place := if d = 8 then .control else .cluster d

/-- The core that takes a thread at once as it enters the list of cluster `d`, and whether it steals it: the
lowest-numbered idle eligible core there, else of cluster d − k for the smallest k (R189). -/
def takenBy (s : State) (d t : Nat) : Option (Nat × Bool) :=
  match idleCores s d t with
  | c :: _ => some (c, false)
  | [] =>
    if d = 8 then none
    else (((List.range 7).map (fun k => (d + 8 - (k + 1)) % 8)).findSome? (fun cl => (idleCores s cl t).head?)).map (fun c => (c, true))

/-- A thread enters the cluster list of cluster `d`: a core takes it at once, or it waits there, or, where the
list is full, in the spill ring. One that returns from the ring has room. -/
def enterList (s : State) (d t : Nat) (returned : Bool) : State :=
  let s := modThr s t (fun th => { th with state := 2 })
  match takenBy s d t with
  | some (c, stolen) => if stolen then bump (dispatch s c t) 0x7020 0x09 1 else dispatch s c t
  | none =>
    if returned || (decide (listLen s (clusterPlace d) < 512) && s.hm.ring.isEmpty) then pushReady s t (clusterPlace d)
    else pushRing (pushReady s t (.ring d)) (.ready t)

def enterCluster (s : State) (d t : Nat) : State := enterList s d t false

/-- The cluster of the mask with the most idle eligible cores, the lowest on ties. -/
def freshCluster (s : State) (t : Nat) : Nat :=
  let m := (getThr s t).cmask
  let best := (List.range 8).foldl (fun (b : Option (Nat × Nat)) c =>
    if bitOf m c then
      let n := (idleCores s c t).length
      match b with
      | none => some (c, n)
      | some (bc, bn) => if n > bn then some (c, n) else some (bc, bn)
    else b) none
  match best with | some (c, _) => c | none => 0

/-- A thread that is ready is placed (R189). One whose window was saved, so that it has no last core, is placed as
one that never ran (DESIGN CHOICE, log entry 69). -/
def place (s : State) (t : Nat) : State :=
  let s := modThr s t (fun th => { th with state := 2 })
  let th := getThr s t
  let c := th.lastCore
  if c = 0xFFFF then (if isControl t then enterCluster s 8 t else enterCluster s (freshCluster s t) t)
  else if coreIdle s c && eligible s c t then dispatch s c t
  else if !(decide ((getCore s c).phase = .idle)) &&
      (isControl t || ((getLease s c).space == some th.space && (getLease s c).next.isNone)) &&
      decide (listLen s (.affinity c) < 16) && decide (dget s 0x7020 2 ≠ 0) then
    pushReady s t (.affinity c)
  else if isControl t then enterCluster s 8 t
  else enterCluster s (clusterOf c) t

/-- A thread becomes ready; a held thread only remembers it (R176). -/
def makeReady (s : State) (t : Nat) : State :=
  let s := stampReady s t
  if (getThr s t).state = 4 then modThr s t (fun th => { th with reqs := [], heldReady := true })
  else place (modThr s t (fun th => { th with reqs := [] })) t

/-! ### Matching (R182, R183) -/

/-- Every requirement of a waiting thread is met, and none of its entries is in the ring. -/
def reqsMet (s : State) (t : Nat) : Bool :=
  (getThr s t).reqs.all (fun r =>
    decide (r.count ≤ (getChan s (chanKey (getThr s t).space r.channel)).count)) &&
  !(s.hm.ring.any (fun e => match e with | .req u _ => u == t | _ => false))

/-- An open message whose early results posted on a channel remembers the thread that consumes from
it, up to 256 threads (R336). -/
def noteConsumer (keys emptied : List Nat) (t : Nat) (m : CMsg) : CMsg :=
  if keys.any (fun k => m.chans.contains k) then
    let m := { m with chans := m.chans.filter (fun k => !emptied.contains k) }
    if m.consumers.contains t then m
    else if m.consumers.length < 256 then { m with consumers := m.consumers ++ [t] }
    else { m with many := true }
  else m

/-- Every open message sees a consumption. -/
def noteConsumers (s : State) (keys : List Nat) (t : Nat) : State :=
  let emptied := keys.filter (fun k => (getChan s k).count == 0)
  { s with eng := { s.eng with msgs := s.eng.msgs.map (fun e => (e.1, e.2.map (noteConsumer keys emptied t))) } }

/-- The required counts are subtracted and the thread becomes ready; consuming from a marked
channel poisons it (R197). -/
def consume (s : State) (t port : Nat) : State :=
  let th := getThr s t
  let keys := reqKeys s t
  let pois := keys.any (fun k => (getChan s k).marked)
  let s := th.reqs.foldl (fun s r =>
    let k := chanKey th.space r.channel
    setChan s k { getChan s k with count := (getChan s k).count - r.count }) s
  let s := noteConsumers s keys t
  let s := { s with hm := { s.hm with waits := s.hm.waits.filter (· != t) } }
  let s := keys.foldl (fun s k => trimIdle s k port) s
  makeReady (if pois then modThr s t (fun th => { th with poisoned := true }) else s) t

/-- The requirements on a channel are tried in the order of their WAITs. -/
def matchChan (s : State) (k port : Nat) : State :=
  s.hm.waits.foldl (fun s t =>
    if (reqKeys s t).contains k && s.hm.waits.contains t && reqsMet s t then consume s t port else s) s

/-- A count is added to a channel whose entry is in the store, and matched. -/
def applyPost (s : State) (k qty port : Nat) (marked : Bool) : State :=
  let c := getChan s k
  let n := min (c.count + qty) 0xFFFFFFFF
  let s := if c.count + qty > n then bump s 0x7020 0x0C (c.count + qty - n) else s
  matchChan (setChan s k ⟨n, c.marked || marked⟩) k port

/-- What keeps a post from being applied: none, the thread channel of a free or stopped thread, a
denied post (code 3), or one idle channel too many (code 4). -/
inductive PostBar where
  | clear | dead | denied | limit
  deriving DecidableEq, Repr

def postBar (s : State) (space ch qty : Nat) : PostBar :=
  let k := chanKey space ch
  let lim : PostBar :=
    if (getChan s k).count = 0 ∧ !chanNamed s k ∧ !chanInRing s k ∧ idleLimit space ≤ idleChans s space then .limit
    else .clear
  if qty = 0 ∨ 65535 < qty then .denied
  else match chanThread space ch with
    | none => lim
    | some t =>
      let th := getThr s t
      if th.state = 0 ∨ th.state = 5 then .dead
      else if th.space ≠ space then .denied
      else lim

/-- A post that nothing bars. -/
def postApply (s : State) (port space ch qty : Nat) (marked : Bool) : State :=
  let k := chanKey space ch
  if chanInRing s k then
    { s with hm := { s.hm with ringPosts := s.hm.ringPosts ++ [⟨k, qty, marked, port⟩] } }
  else if (getChan s k).count = 0 ∧ !chanNamed s k ∧ toRing s then
    let s := pushRing s (.chan k)
    { s with hm := { s.hm with ringPosts := s.hm.ringPosts ++ [⟨k, qty, marked, port⟩] } }
  else applyPost s k qty port marked

/-- A post from any source but a thread (R179, R185). -/
def postToken (s : State) (port space ch qty : Nat) (marked : Bool) : State :=
  match postBar s space ch qty with
  | .clear => postApply s port space ch qty marked
  | .dead => bump s 0x7020 0x0C qty
  | _ => logFault (bump s 0x7020 0x0C qty) space 2 0 none 0 ch port

/-! ### Choosing (R190) -/

/-- The earliest-ready thread of the highest priority among the entries that satisfy `p`. -/
def oldest (s : State) (p : Ready → Bool) : Option Nat :=
  (List.range 8).findSome? (fun pr =>
    (s.hm.ready.find? (fun r => p r && (getThr s r.thread).prio == pr)).map (·.thread))

def unready (s : State) (t : Nat) : State :=
  { s with hm := { s.hm with ready := s.hm.ready.filter (fun r => r.thread != t) } }

/-- The next thread of a core, and whether it is stolen. -/
def choose (s : State) (c : Nat) : Option (Nat × Bool) :=
  let el (r : Ready) : Bool := eligible s c r.thread
  if isLighterCore c then
    match oldest s (fun r => r.place == .affinity c && el r) with
    | some t => some (t, false)
    | none =>
      match oldest s (fun r => r.place == .cluster (clusterOf c) && el r) with
      | some t => some (t, false)
      | none =>
        ((List.range 7).map (fun k => (clusterOf c + k + 1) % 8)).findSome? (fun d =>
          (oldest s (fun r => r.place == .cluster d && el r)).map (fun t => (t, true)))
  else
    match oldest s (fun r => r.place == .affinity c && el r) with
    | some t => some (t, false)
    | none => (oldest s (fun r => r.place == .control && el r)).map (fun t => (t, false))

/-- An idle core chooses and is given its next thread, if there is one. -/
def chooseFor (s : State) (c : Nat) : State :=
  if coreIdle s c then
    match choose s c with
    | some (t, stolen) =>
      let s := dispatch (unready s t) c t
      if stolen then bump s 0x7020 0x09 1 else s
    | none => s
  else s

/-- At a block boundary after its quantum, a core passes to the first ready thread of another space
in its cluster list (R193). -/
def quantumPass (s : State) (c : Nat) : State :=
  match (getLease s c).space with
  | some own =>
    if isLighterCore c && (getLease s c).quantum && coreIdle s c then
      match oldest s (fun r => r.place == .cluster (clusterOf c) &&
          (getThr s r.thread).space != own && eligible s c r.thread) with
      | some t => dispatch (unready s t) c t
      | none => s
    else s
  | none => s

/-! ### Berths freed, granted, released -/

/-- The space of the thread a tag of kind 1 or 2 names. -/
def threadSpace (s : State) (tag : Nat) : Nat := if tag / 2 ^ 20 = 1 then (getThr s (tag % 2 ^ 20)).space else fwSpace

/-- The scan whose output berth an address is. -/
def scanOf (s : State) (a : Nat) : Option Scan :=
  (s.customs.scans.find? (fun e => e.2.open_.any (fun b => b.2.addr == a) || e.2.closed.any (fun b => b.addr == a))).map Prod.snd

/-- The space a requester's tokens are posted in (R177): a thread's own; for an engine its holder's; for a customs
unit that of the scan the berth belongs to, else of the first lighter thread the request names; for a docket entry
that of its function. -/
def ownerSpace (s : State) (tag a : Nat) (names : List Nat) : Nat :=
  match tag / 2 ^ 20 with
  | 3 => threadSpace s (tabGet Engine.free s.eng.comp (tag % 2 ^ 20)).holder
  | 4 => threadSpace s (tabGet Engine.free s.eng.cip (tag % 2 ^ 20)).holder
  | 5 => match scanOf s a with
    | some sc => sc.space
    | none => match names.find? (fun n => n / 2 ^ 20 == 1) with
      | some n => threadSpace s n
      | none => fwSpace
  | 6 => let fn := (getDk s (tag % 2 ^ 20)).fn; if fn = 0 then fwSpace else tenantOf fn
  | _ => threadSpace s tag

/-- A berth result reaches its requester: a thread's result word and token, or the internal path of
the other requesters, which take no token (DESIGN CHOICE, log entry 69). -/
def berthReply (s : State) (who : Requester) (tag : Nat) (r : BerthReq) (w : W64) : State :=
  if 11 ≤ who.port then
    let t := if who.port < 19 then who.owner else 65536 + who.owner
    let s := deliver s t r.w2.toNat w
    if brNotify r then postToken s 21 (threadSpace s tag) (brChannel r) 1 false else s
  else emit s (.berthResult who.port who.index w)

/-- A berth has been allocated: it joins a window's save or a held write's data, or its requester is told; one for
a lighter thread is zeroed first (R169). -/
def allocGot (s : State) (far : Bool) (a : Nat) (w : Waiter) : State :=
  if w.who.index = 32 then
    if w.who.port = 19 then saveGot s w.who.owner a
    else modDk s w.who.owner (fun e => { e with berths := e.berths ++ [a] })
  else
    let s := if 11 ≤ w.who.port ∧ w.who.port < 19 then { s with dram := memClear s.dram a (a + berthSize far) } else s
    berthReply s w.who w.tag w.req (berthWord 0 0 a)

/-- A berth granted to a waiter (R166). -/
def grantBerth (s : State) (far : Bool) (a : Nat) (w : Waiter) : State :=
  allocGot (setBerth s a { alloc := true, owner := w.tag, claims := [], done := none }) far a w

/-- The first of the requests a port holds that satisfies `p`, the lowest-numbered port's (R159). -/
def lowestHeld (s : State) (p : Waiter → Bool) : Option Waiter :=
  (List.range 20).findSome? (fun port =>
    match s.pool.held.find? (fun w => w.who.port == port) with
    | some w => if p w then some w else none
    | none => none)

def dropHeld (s : State) (w : Waiter) : State := { s with pool := { s.pool with held := s.pool.held.erase w } }

/-- The ALLOC held at the head of a port joins the wait queue as a place frees (R165). -/
def admitHeld (s : State) (far : Bool) : State :=
  match lowestHeld s (fun w => brOp w.req == 0 && brFar w.req == far && brFormed w.req && brWait w.req && waitPlace s far w.who.port) with
  | some w => pushWait (dropHeld s w) far w
  | none => s

/-- A berth becomes free: granted to the oldest waiter, or stored (R156, R166). A reclaim of it that still waited
is over. -/
def berthFreed (s : State) (a : Nat) : State :=
  let s := { s with pool := { s.pool with reclaims := s.pool.reclaims.filter (· != a) } }
  match berthClass a with
  | none => s
  | some far =>
    match waitQ s far with
      | w :: rest => admitHeld (grantBerth (setWaitQ s far rest) far a w) far
      | [] => poolStore s far a

/-- One claim of a tag on a berth is removed; the last removed posts the DONE token (R168). -/
def dropClaim (s : State) (a tag : Nat) : State :=
  let b := getBerth s a
  let cl := b.claims.erase tag
  let s := setBerth s a { b with claims := cl }
  match cl, b.done with
  | [], some (space, ch) => postToken s 21 space ch 1 false
  | _, _ => s

/-- A berth is reclaimed, at once or when the transfer on it ends (R170). -/
def reclaimBerth (s : State) (a : Nat) : State :=
  if s.pool.reclaims.contains a then s
  else if berthBusy s a then { s with pool := { s.pool with reclaims := s.pool.reclaims ++ [a] } }
  else berthFreed (setBerth s a { (getBerth s a) with claims := [] }) a

/-- The berths a tag owns. -/
def ownedBy (s : State) (tag : Nat) : List Nat :=
  (s.pool.berths.filter (fun e => e.2.alloc && e.2.owner == tag)).map Prod.fst

/-- The steps of R170 for an owner: its waits are removed, its claims released, its berths
reclaimed. -/
def releaseOwner (s : State) (tag : Nat) : State :=
  let out (l : List Waiter) := l.filter (fun w => w.tag != tag)
  let s := { s with pool := { s.pool with nearWait := out s.pool.nearWait, farWait := out s.pool.farWait, held := out s.pool.held } }
  let s := (s.pool.berths.filter (fun e => e.2.claims.contains tag)).foldl
    (fun s e => (List.range (e.2.claims.count tag)).foldl (fun s _ => dropClaim s e.1 tag) s) s
  (ownedBy s tag).foldl reclaimBerth s

/-- Berths allocated by the module's machinery are freed, in order. -/
def freeBerths (s : State) (l : List Nat) : State := l.foldl berthFreed s

/-- Reclaims whose transfer has ended take effect. -/
def settleReclaims (s : State) : State :=
  let ready := s.pool.reclaims.filter (fun a => !berthBusy s a)
  let s := { s with pool := { s.pool with reclaims := s.pool.reclaims.filter (fun a => berthBusy s a) } }
  ready.foldl reclaimBerth s

end Sys2Proof.Machine
end

