-- ==== Sys2Proof/Machine/Berth.lean ====
section
/-!
DEFINITION. The berth pool's requests at their ports: ALLOC, FREE, SHARE, RELEASE, RECLAIM (R158 to R172); and what
may go on in the harbour master after any change: held requests, lease changes, holds, idle cores.
-/
namespace Sys2Proof.Machine

/-- The core whose block of a thread runs, or has its end event still to be resolved. -/
def runningCore (s : State) (t : Nat) : Option Nat :=
  (s.ik.cores.find? (fun e => decide (e.2.phase = .running t ∨ e.2.phase = .ended t))).map Prod.fst

/-- A fault an X syllable of a block raised: the block runs on, and the thread stops at its end
(R259). The first one stands. -/
def raiseFaultAt (s : State) (t code : Nat) (pc : W64) (ch : Nat) : State :=
  match runningCore s t with
  | some c => modCore s c (fun x => { x with fault := match x.fault with | some f => some f | none => some ⟨code, pc, ch⟩ })
  | none => s

/-- The same, at the bundle the core is gathering. -/
def raiseFault (s : State) (t code : Nat) : State :=
  match runningCore s t with
  | some c => raiseFaultAt s t code (getCore s c).pc 0
  | none => s

/-- A lighter thread's RESULT lies aligned inside its window (R256). -/
def resultOk (s : State) (t result : Nat) : Bool :=
  isControl t || (result % 8 == 0 && decide (result + 8 ≤ (getThr s t).winSize * 4096))

/-- An ALLOC reaches the serialisation point (R155, R165). The machinery's own, on ports 0 to 10 or of index 32,
never completes with code 1 for a full share: it stays at the head of its port. -/
def allocAct (s : State) (w : Waiter) : State :=
  let far := brFar w.req
  let refuse (code : Nat) : State := berthReply (countCode s code) w.who w.tag w.req (berthWord code 0 0)
  if !brFormed w.req then refuse 2
  else match poolTake s far w.tag with
    | some (a, s) => allocGot s far a w
    | none =>
      if !brWait w.req then refuse 1
      else if waitPlace s far w.who.port then pushWait s far w
      else if w.who.port ≤ 10 ∨ w.who.index = 32 then pushHeld s w
      else refuse 1

/-- A SHARE that passed its checks (R168). -/
def shareAct (s : State) (tag : Nat) (r : BerthReq) : State :=
  let a := brAddr r
  let b := getBerth s a
  let names := (brOwners r).take (brNsh r + 1)
  setBerth s a { b with
    owner := names.getLastD b.owner
    claims := b.claims ++ names.dropLast
    done := if brDoneV r then some (ownerSpace s tag a names, brDone r) else b.done }

/-- A request resolved at the pool's serialisation point (R159). A RECLAIM that has to wait for a transfer is
answered at once, with code 0 (DESIGN CHOICE, log entry 69). -/
def berthResolve (s : State) (w : Waiter) : State :=
  let r := w.req
  let op := brOp r
  if op = 0 then allocAct s w
  else
    let code := berthCheck s w.who.port w.tag r
    let s := countCode s code
    let s := if code ≠ 0 then s
      else if op = 1 then berthFreed s (brAddr r)
      else if op = 2 then shareAct s w.tag r
      else if op = 3 then dropClaim s (brAddr r) w.tag
      else reclaimBerth s (brAddr r)
    berthReply s w.who w.tag r (berthWord code op (brAddr r))

/-- A request held at the head of its port can now go on: any but an ALLOC with WAIT that finds neither a berth nor
a wait place (R165). -/
def heldGoes (s : State) (w : Waiter) : Bool :=
  brOp w.req != 0 || !brFormed w.req || !brWait w.req || decide (0 < freeCountOf s (brFar w.req)) || waitPlace s (brFar w.req) w.who.port

/-- Held requests go on as far as they can, the lowest-numbered port first (R159). -/
def drainHeld : Nat → State → State
  | 0, s => s
  | n + 1, s =>
    match lowestHeld s (heldGoes s) with
    | some w => drainHeld n (berthResolve (dropHeld s w) w)
    | none => s

/-- A request at its port: behind a held request it waits with it (R165); else it is resolved. -/
def berthRequest (s : State) (w : Waiter) : State :=
  if portHeld s w.who.port then (if portRoom s w.who then pushHeld s w else s)
  else
    let s := berthResolve s w
    drainHeld s.pool.held.length s

/-- The requesters of Table 5.2, each with the thread its core runs, and with a place in its port's queue. -/
def requesterOk (s : State) (w : Requester) : Bool :=
  (if w.port < 7 then decide (w.index ≤ 8)
  else if w.port = 7 then w.index == 0 && dkUsed s w.owner
  else if w.port = 8 then w.index == 0
  else if w.port ≤ 10 then decide (w.index < 32)
  else if w.port ≤ 18 then decide (w.index < 32) && decide (w.owner < 65536) &&
    decide (runningCore s w.owner = some ((w.port - 11) * 32 + w.index))
  else w.port == 19 && decide (w.index < 32) && decide (w.owner < 4096) &&
    decide (runningCore s (65536 + w.owner) = some (256 + w.index))) &&
  (!portHeld s w.port || portRoom s w)

/-! ### Holding threads (R176), and leases taken back (R193) -/

/-- The threads a tenant holds (STATE other than 0). -/
def threadsOf (s : State) (space : Nat) : List Nat :=
  (s.hm.threads.filter (fun e => e.2.state != 0 && e.2.space == space && decide (e.1 < 65536))).map Prod.fst

/-- Threads of a space are held (R176): firmware activation, a lighter-core lease of 0, or a lease
reduction taking effect. -/
def isHeld (s : State) (space : Nat) : Bool :=
  s.host.activation.isSome ||
  (decide (space < 1024) && (dget s (0x6000 + space) 2 == 0 || decide (dget s (0x6000 + space) 2 < coresHeld s space)))

/-- A thread of a held space leaves the ready lists, or stops being tried for placement. -/
def holdThread (s : State) (t : Nat) : State :=
  let th := getThr s t
  if th.state = 2 then modThr (unready s t) t (fun th => { th with state := 4, heldReady := true })
  else if th.state = 1 then modThr s t (fun th => { th with state := 4 })
  else s

/-- The hold of a thread ends. -/
def unholdThread (s : State) (t : Nat) : State :=
  let th := getThr s t
  if th.state = 4 then
    if th.heldReady then place (modThr s t (fun th => { th with heldReady := false })) t
    else modThr s t (fun th => { th with state := 1 })
  else s

/-- Every lighter thread of a space is held, or released, as `isHeld` says; those released are placed in the order
in which they became ready (R187). -/
def settleHold (s : State) (space : Nat) : State :=
  if isHeld s space then (threadsOf s space).foldl holdThread s
  else (sortSeq ((threadsOf s space).map (fun t => ((getThr s t).readySeq, t)))).foldl unholdThread s

/-- The holds that have ended. -/
def settleHolds (s : State) : State :=
  ((s.hm.threads.filter (fun e => e.2.state == 4)).map (fun e => e.2.space)).dedup.foldl
    (fun s sp => if isHeld s sp then s else settleHold s sp) s

/-- The take-back of a core's lease (R193) begins once its thread's last block has ended; a change under way goes
on. -/
def settleTaking (s : State) (c : Nat) : State :=
  let l := getLease s c
  if l.taking && l.next.isNone && l.space.isSome && decide ((getCore s c).phase = .idle) then startChange s c none
  else settleChange s c

/-- What may go on after any change: requests held at the ports, lease changes, holds. -/
def settleHarbour (s : State) : State :=
  let s := drainHeld s.pool.held.length s
  settleHolds ((tabKeys s.hm.leases).foldl settleTaking s)

/-- Every core that idles chooses again, after what may go on has. -/
def kickIdle (s : State) : State := (List.range 288).foldl chooseFor (settleHarbour s)

end Sys2Proof.Machine
end

