-- ==== Sys2Proof/Machine/Lz4.lean ====
section
/-!
DEFINITION. The LZ4 blocks and the containers of the compression engines (R305 to R308).
-/
namespace Sys2Proof.Machine

/-- The 32-bit little-endian word at index `i` (R308). -/
def read32 (src : Array Byte) (i : Nat) : Nat := ofLe ((src.extract i (i + 4)).toList)

/-- Length bytes past a nibble of 15: runs of 255 and a last byte below it. -/
def lz4Ext : Nat → Nat → List Byte
  | 0, _ => []
  | n + 1, v => if v < 255 then [BitVec.ofNat 8 v] else 255 :: lz4Ext n (v - 255)
def lz4Len (v : Nat) : List Byte := if v < 15 then [] else lz4Ext (v + 1) (v - 15)

/-- One sequence: token, literals, offset, match length. -/
def lz4Seq (lits : List Byte) (off len : Nat) : List Byte :=
  BitVec.ofNat 8 (min lits.length 15 * 16 + min (len - 4) 15) :: lz4Len lits.length ++ lits ++
    leBytes 2 off ++ lz4Len (len - 4)

/-- The last sequence: literals only. -/
def lz4Last (lits : List Byte) : List Byte :=
  BitVec.ofNat 8 (min lits.length 15 * 16) :: lz4Len lits.length ++ lits

/-- The match grows from `len`; the last 5 bytes stay literals. -/
def lz4Grow (src : Array Byte) (c i : Nat) : Nat → Nat → Nat
  | 0, len => len
  | f + 1, len =>
    if i + len + 5 < src.size ∧ src[c + len]? = src[i + len]? then lz4Grow src c i f (len + 1) else len

/-- The encoder's loop (R308); the fuel is the input's length. -/
def lz4Loop (src : Array Byte) : Nat → Tab Nat → Nat → Nat → List Byte
  | 0, _, anchor, _ => lz4Last (src.extract anchor src.size).toList
  | f + 1, table, anchor, i =>
    if i + 12 ≤ src.size then
      let h := read32 src i * 2654435761 % 2 ^ 32 / 2 ^ 20
      let c := tabFind h table
      let table := tabPut table h i
      match c with
      | some c =>
        if i - c ≤ 65535 ∧ read32 src c = read32 src i then
          let len := lz4Grow src c i src.size 4
          lz4Seq (src.extract anchor i).toList (i - c) len ++ lz4Loop src f table (i + len) (i + len)
        else lz4Loop src f table anchor (i + 1)
      | none => lz4Loop src f table anchor (i + 1)
    else lz4Last (src.extract anchor src.size).toList
where
  /-- The position a hash was last seen at. -/
  tabFind (h : Nat) : Tab Nat → Option Nat
    | [] => none
    | (j, v) :: t => if j = h then some v else tabFind h t

/-- The LZ4 block of some bytes. -/
def lz4Encode (l : List Byte) : List Byte := lz4Loop l.toArray (l.length + 1) [] 0 0

/-- A length with its extension bytes; none where they run out. -/
def lz4ReadExt : Nat → List Byte → Option (Nat × List Byte)
  | v, [] => if v < 15 then some (v, []) else none
  | v, b :: r =>
    if v < 15 then some (v, b :: r) else go v (b :: r)
where
  /-- The extension bytes. -/
  go (v : Nat) : List Byte → Option (Nat × List Byte)
    | [] => none
    | b :: r => if b = 255 then go (v + 255) r else some (v + b.toNat, r)

/-- `len` bytes copied from `off` back; the output is held newest first. -/
def lz4Copy (off : Nat) : Nat → List Byte → List Byte
  | 0, out => out
  | n + 1, out => lz4Copy off n ((out[off - 1]?).getD 0 :: out)

/-- The decoder (R307), output newest first; none where the block is rejected. -/
def lz4Loop2 : Nat → List Byte → List Byte → Option (List Byte)
  | 0, _, _ => none
  | _ + 1, [], _ => none
  | f + 1, t :: r, out =>
    match lz4ReadExt (t.toNat / 16) r with
    | none => none
    | some (ll, r) =>
      if r.length < ll then none
      else
        let out := (r.take ll).reverse ++ out
        match r.drop ll with
        | [] => some out
        | o0 :: o1 :: r =>
          match lz4ReadExt (t.toNat % 16) r with
          | none => none
          | some (ml, r) =>
            let off := o0.toNat + 256 * o1.toNat
            if off = 0 ∨ out.length < off then none else lz4Loop2 f r (lz4Copy off (ml + 4) out)
        | _ => none

/-- The bytes of an LZ4 block that decodes to `n` bytes. -/
def lz4Decode (l : List Byte) (n : Nat) : Option (List Byte) :=
  match lz4Loop2 (l.length + 1) l [] with
  | some out => if out.length = n then some out.reverse else none
  | none => none

/-! ### Containers (Table 11.1) -/

/-- The container of one block (R305, R306), and whether it is raw. -/
def container (bsize : Nat) (l : List Byte) : List Byte × Bool :=
  let p := lz4Encode l
  let raw := decide (l.length ≤ 16 + p.length)
  let body := if raw then l else p
  ([0x54, 0x42, BitVec.ofNat 8 (b2n raw), BitVec.ofNat 8 bsize] ++ leBytes 4 l.length ++
    leBytes 4 body.length ++ leBytes 4 (crc32c l) ++ body, raw)

/-- How the container at the head of some source bytes reads. -/
inductive Unpacked where
  /-- CODE 4 -/
  | corrupt
  /-- CODE 5 -/
  | badCrc
  /-- the original bytes, the bytes the container takes, and its raw flag -/
  | ok (bytes : List Byte) (taken : Nat) (raw : Bool)
  deriving DecidableEq, Repr

/-- The container at the head of the source (R305, R307, Table 11.5). -/
def unpack (src : List Byte) : Unpacked :=
  let flags := recNat src 2 1
  let bs := recNat src 3 1
  let orig := recNat src 4 4
  let stor := recNat src 8 4
  let raw := flags == 1
  if src.length < 16 ∨ src.take 2 ≠ [0x54, 0x42] ∨ 1 < flags ∨ bs < 12 ∨ 20 < bs ∨ orig = 0 ∨ 2 ^ bs < orig ∨
      (if raw then stor ≠ orig else orig ≤ 16 + stor) ∨ src.length < 16 + stor then .corrupt
  else
    let body := (src.drop 16).take stor
    match (if raw then some body else lz4Decode body orig) with
    | none => .corrupt
    | some l => if crc32c l = recNat src 12 4 then .ok l (16 + stor) raw else .badCrc

end Sys2Proof.Machine
end

