-- ==== Sys2Proof/Machine/Sled.lean ====
section
/-!
DEFINITION. The sled as its format left it: its blocks, their pools and the lots formed of them (R94, R98,
R118, R119, R122, R123, Table 18.3). Which blocks serve which pool is left open (log entry 9).
-/
namespace Sys2Proof.Machine

/-- Bytes and slots of a QLC block, slots and bytes of an SLC-mode block (R118). -/
def slotsPerBlock : Nat := Config.slotsPerPage * Config.pagesPerBlock
def qlcBytes : Nat := slotsPerBlock * 4096
def slcSlots : Nat := Config.slotsPerPage * (Config.pagesPerBlock / 4)
def slcBytes : Nat := slcSlots * 4096

/-! ### Blocks

A block is named by its channel × 2^32 + (CE × 8 + LUN) × 2^27 + its number in the LUN. -/

/-- The block at a position of a channel. -/
def blockAt (ch x : Nat) : Nat :=
  let l := x / Config.blocksPerLun
  ch * 2 ^ 32 + (l / Config.luns * 8 + l % Config.luns) * 2 ^ 27 + x % Config.blocksPerLun
/-- The position of a block in its channel; none where the sled has no such block. -/
def blockPos (b : Nat) : Option Nat :=
  let l := b / 2 ^ 27 % 32
  let x := (l / 8 * Config.luns + l % 8) * Config.blocksPerLun + b % 2 ^ 27
  if b / 2 ^ 32 < Config.channels ∧ l / 8 < Config.chipEnables ∧ l % 8 < Config.luns ∧ b % 2 ^ 27 < Config.blocksPerLun ∧ x < Config.channelBlocks then some x
  else none

/-- The positions of a channel's blocks that are not factory-marked, and where one stands in the order in
which the format took them. -/
def goodAt (ch : Nat) : List Nat := (List.range Config.channelBlocks).filter (fun x => !Config.sledBad (blockAt ch x))
def formatRank (ch x : Nat) : Nat :=
  ((goodAt ch).filter (fun y => decide (Config.sledOrder (blockAt ch y) < Config.sledOrder (blockAt ch x)) ||
    (Config.sledOrder (blockAt ch y) == Config.sledOrder (blockAt ch x) && decide (y < x)))).length

/-- Every block of the sled that is not factory-marked; those factory-marked. -/
def sledBlocks : List Nat := ((List.range Config.channels).map (fun c => (goodAt c).map (blockAt c))).flatten
def factoryBad : Nat := Config.blocks - sledBlocks.length

/-! ### Pools at format (R118, R122) -/

/-- The landing target of a LANDPCT: rounded tenths of a percent of B (R123). -/
def landTarget (pct : Nat) : Nat := (2 * pct * Config.blocks + 1000) / 2000
/-- Blocks of the journal area, and erased blocks of the dump reserve on a channel (R122). -/
def journalBlocks : Nat := ceilDiv (8 * 2 ^ 30) slcBytes
def dumpPerChannel : Nat := max 1 (ceilDiv (4352 * 2 ^ 20) (448 * slcBytes))
/-- A channel's share of a number of blocks. -/
def channelShare (n ch : Nat) : Nat := n / Config.channels + b2n (decide (ch < n % Config.channels))
/-- The landing blocks a channel got at format, of LANDPCT 25: at least its dump reserve and its share of
the journal area. -/
def formatLand (ch : Nat) : Nat := max (channelShare (landTarget 25) ch) (dumpPerChannel + channelShare journalBlocks ch)
/-- Blocks of every channel that neither is factory-marked nor serves landing. -/
def formatRest : Nat := (((List.range Config.channels).map (fun c => (goodAt c).length - formatLand c)).min?).getD 0
/-- Checkpoint blocks of a channel, and of the sled, C. -/
def ckptPerChannel : Nat := Config.sledCkpt % (formatRest + 1)
def ckptBlocks : Nat := Config.channels * ckptPerChannel
/-- Lots of a channel group, and of the sled: at most 2,097,152 (R98). -/
def groups : Nat := Config.channels / 32
def lotsPerGroup : Nat := min (Config.sledLots % (formatRest - ckptPerChannel + 1)) (2097152 / groups)
def lotCount : Nat := groups * lotsPerGroup
/-- The pool of a block after format (see Block). -/
def formatPool (b : Nat) : Nat :=
  match blockPos b with
  | none => 7
  | some x =>
    let ch := b / 2 ^ 32
    let r := formatRank ch x
    if Config.sledBad b then 7
    else if r < dumpPerChannel then 4
    else if r < dumpPerChannel + channelShare journalBlocks ch then 2
    else if r < formatLand ch then 1
    else if r < formatLand ch + ckptPerChannel then 5
    else if r < formatLand ch + ckptPerChannel + lotsPerGroup then 8
    else 0

/-- The channel group of a lot, and its member on a channel of the group: block number + 2^16 × (CE × 8 +
LUN). -/
def lotGroup (l : Nat) : Nat := l % groups
def lotMember (l m : Nat) : Nat :=
  let ch := 32 * lotGroup l + m
  match (goodAt ch).find? (fun x => formatRank ch x == formatLand ch + ckptPerChannel + l / groups) with
  | some x => blockAt ch x % 2 ^ 27 + 2 ^ 16 * (blockAt ch x / 2 ^ 27 % 32)
  | none => 0

end Sys2Proof.Machine
end

