-- ==== Sys2Proof/Machine/MediaOps.lean ====
section
/-!
DEFINITION. Where a namespace's data lies (R83, R90, R91, R99, R100, R104): map words, zones, lots
and flash slots.
-/
namespace Sys2Proof.Machine

def getNs (s : State) (n : Nat) : Ns := tabGet Ns.empty s.media.cur.nss n
def setNs (s : State) (n : Nat) (v : Ns) : State :=
  { s with media := { s.media with cur := { s.media.cur with nss := tabSet Ns.empty s.media.cur.nss n v } } }
def modNs (s : State) (n : Nat) (g : Ns → Ns) : State := setNs s n (g (getNs s n))

/-- Bytes of an LBA, 4 KiB slots of a map unit and of an LBA (Table 3.1). -/
def lbaSlots (lbaf : Nat) : Nat := if lbaf = 2 then 4 else 1
def unitSlots (lbaf : Nat) : Nat := if lbaf = 0 then 1 else 4
def lbaBytes (lbaf : Nat) : Nat := 4096 * lbaSlots lbaf
/-- LBAs of a map unit. -/
def unitLbas (lbaf : Nat) : Nat := unitSlots lbaf / lbaSlots lbaf

def mapKey (nsid unit : Nat) : Nat := nsid * 2 ^ 48 + unit
def mapWord (m : MapSt) (nsid unit : Nat) : Nat := tabGet 0 m.map (mapKey nsid unit)

def mMapped (w : Nat) : Bool := bitOf w 41
def mLanded (w : Nat) : Bool := bitOf w 42
def mPacked (w : Nat) : Bool := bitOf w 43
def mZero (w : Nat) : Bool := bitOf w 44
def mUncorr (w : Nat) : Bool := bitOf w 45
def mResync (w : Nat) : Bool := bitOf w 46
def mAddr (w : Nat) : Nat := w % 2 ^ 41

/-- A word for a unit stored at an address. -/
def storedWord (addr : Nat) (landed packed resync : Bool) : Nat :=
  addr % 2 ^ 41 + 2 ^ 41 + b2n landed * 2 ^ 42 + b2n packed * 2 ^ 43 + b2n resync * 2 ^ 46

/-- Only the combinations of Table 3.4 are taken. -/
def wordOk (w : Nat) : Bool :=
  !bitOf w 47 &&
  (if mMapped w then !mZero w && !mUncorr w
   else !mLanded w && !mPacked w && !(mZero w && mUncorr w))

/-- The unit counts in NUSE (Table 3.4). -/
def wordUsed (w : Nat) : Bool := mMapped w || mZero w || mUncorr w

/-! ### Zones and lots -/

/-- Zone capacity in 4 KiB units, and zone size in 4 KiB units: the least power of two that holds
it (R100). -/
def zoneCap : Nat := 31 * Config.slotsPerPage * Config.pagesPerBlock
def zoneSize : Nat := 2 ^ Nat.clog 2 zoneCap

def zoneKey (nsid z : Nat) : Nat := nsid * 2 ^ 24 + z
def getZone (m : MapSt) (nsid z : Nat) : Zone := tabGet Zone.empty m.zones (zoneKey nsid z)
/-- A lot that no record has changed is free, as the sled's format formed it (R94, R98). -/
def formedLot (l : Nat) : Lot :=
  { Lot.free with chgrp := lotGroup l % 14, members := (List.range 32).map (fun k => { block := lotMember l k % 65536, celun := lotMember l k / 65536 % 32, mstate := 0 }) }
def getLot (m : MapSt) (l : Nat) : Lot :=
  let x := tabGet Lot.free m.lots l
  if x.members.isEmpty then formedLot l else x
def setLot (m : MapSt) (l : Nat) (x : Lot) : MapSt := { m with lots := tabSet Lot.free m.lots l x }

/-- A flash address of R90: channel, CE × 8 + LUN, block, slot in block. -/
def flashAddr (ch celun block slot : Nat) : Nat :=
  ch * 2 ^ 32 + celun * 2 ^ 27 + block * (Config.slotsPerPage * Config.pagesPerBlock) + slot

/-- The channel of an address. -/
def addrChannel (a : Nat) : Nat := a / 2 ^ 32 % 512
/-- The block of an address: channel, chip enable, LUN and block as one number. -/
def addrBlock (a : Nat) : Nat :=
  a / 2 ^ 27 * 2 ^ 27 + a % 2 ^ 27 / (Config.slotsPerPage * Config.pagesPerBlock)

/-- Where zone-relative unit `u` of a lot lies (R99). -/
def lotAddr (l : Lot) (u : Nat) : Nat :=
  let s := Config.slotsPerPage
  let row := u / (31 * s)
  let k := u % (31 * s)
  let d := k / s
  let p := row % 32
  let m := if d < p then d else d + 1
  match l.members[m]? with
  | some mem => flashAddr (32 * l.chgrp + m) mem.celun mem.block (row * s + k % s)
  | none => 0

def zlandKey (nsid z u : Nat) : Nat := zoneKey nsid z * 2 ^ 32 + u

/-- The first slot address of a block. -/
def blockAddr (b : Nat) : Nat := b / 2 ^ 27 * 2 ^ 27 + b % 2 ^ 27 * slotsPerBlock
/-- The block of a member of a lot, the blocks of a lot, and the lot a block is a member of: one that a
record has named, or any. -/
def memberBlock (x : Lot) (i : Nat) (m : Member) : Nat := (32 * x.chgrp + i) * 2 ^ 32 + m.celun * 2 ^ 27 + m.block
def lotBlocks (x : Lot) : List Nat := x.members.zipIdx.map (fun e => memberBlock x e.2 e.1)
def lotWith (m : MapSt) (b : Nat) : Option Nat := (m.lots.find? (fun e => (lotBlocks (getLot m e.1)).contains b)).map Prod.fst
def lotOf (m : MapSt) (b : Nat) : Option Nat :=
  match lotWith m b with
  | some l => some l
  | none => lowestFrom (fun l => (lotBlocks (getLot m l)).contains b) lotCount 0
def isPooled (x : Lot) : Bool := x.zone == 0xFFFFFFFF
def lotUnits : Nat := 31 * slotsPerBlock
/-- 4 KiB units of a row of a lot (R95). -/
def rowUnits : Nat := 31 * Config.slotsPerPage
/-- The lot is in service: its descriptor is open, full or degraded. -/
def lotInUse (x : Lot) : Bool := x.state == 1 || x.state == 2 || x.state == 4

/-- The row of a lot that the slot at an address lies in, and its member. -/
def slotRow (a : Nat) : Nat := a % 2 ^ 27 % slotsPerBlock / Config.slotsPerPage
def slotMember (a : Nat) : Nat := addrChannel a % 32
/-- The index in a lot of the slot at an address; none at a parity page or outside the lot (R99). -/
def lotIndex (x : Lot) (a : Nat) : Option Nat :=
  let sp := Config.slotsPerPage
  let row := slotRow a
  let m := addrChannel a - 32 * x.chgrp
  let p := row % 32
  let d := if m < p then m else m - 1
  let u := row * rowUnits + d * sp + a % 2 ^ 27 % slotsPerBlock % sp
  if m ≠ p ∧ lotAddr x u = a then some u else none

/-- A slot has been programmed since its block was erased. -/
def written (s : State) (a : Nat) : Bool := (tabGet none s.media.flash a).isSome

/-- What a map unit, or a 4 KiB slot of it, reads as. -/
inductive UnitLoc where
  /-- deallocated or written zeroes -/
  | zeroes (counted : Bool)
  | uncorr
  | packed (addr : Nat)
  | stored (addr : Nat)
  /-- a map entry of no legal combination, or an erased slot (R91) -/
  | broken
  deriving DecidableEq, Repr

/-- Bytes of the slots from an address. -/
def slotsData (s : State) (a : Nat) : Nat → List Byte
  | 0 => []
  | n + 1 =>
    (match tabGet none s.media.flash a with
     | some x => padTo 4096 x.data
     | none => List.replicate 4096 0) ++ slotsData s (a + 1) n

/-- The bytes a packed unit's container at an address decodes to; none where it is corrupt (R317). -/
def packedData (s : State) (a : Nat) : Option (List Byte) :=
  match unpack (slotsData s a 3) with
  | .ok l _ _ => some l
  | _ => none

/-- Slots a packed container takes. -/
def containerSlots (s : State) (a : Nat) : Nat :=
  match unpack (slotsData s a 3) with
  | .ok _ n _ => ceilDiv n 4096
  | _ => 1

/-- The slots a stored map word names. -/
def storedSlots (s : State) (ns : Ns) (w : Nat) : List Nat :=
  (List.range (if mPacked w then containerSlots s (mAddr w) else unitSlots ns.lbaf)).map (· + mAddr w)

/-- The 4 KiB slots of a zoned unit, in order. -/
def zonedSlots (s : State) (nsid unit : Nat) : List Nat :=
  let ns := getNs s nsid
  (List.range (unitSlots ns.lbaf)).map (fun i =>
    let u := unit * unitSlots ns.lbaf + i
    let zn := getZone s.media.cur nsid (u / zoneSize)
    let o := u % zoneSize
    let lot := getLot s.media.cur zn.lot
    if o < lot.foldptr then lotAddr lot o else tabGet 0 s.media.cur.zland (zlandKey nsid (u / zoneSize) o))

/-- Where a map unit of a namespace lies. A zoned unit is counted in map units of its format; its
slots lie at consecutive zone-relative units. -/
def locate (s : State) (nsid unit : Nat) : UnitLoc :=
  let ns := getNs s nsid
  if ns.zoned then
    let u := unit * unitSlots ns.lbaf
    let z := u / zoneSize
    let o := u % zoneSize
    let zn := getZone s.media.cur nsid z
    if zn.wp ≤ o ∨ zoneCap ≤ o then .zeroes false
    else if (zonedSlots s nsid unit).all (written s) then .stored ((zonedSlots s nsid unit).headD 0)
    else .broken
  else
    let w := mapWord s.media.cur nsid unit
    if !wordOk w then .broken
    else if mMapped w then
      if !(storedSlots s ns w).all (written s) then .broken
      else if mPacked w then .packed (mAddr w) else .stored (mAddr w)
    else if mUncorr w then .uncorr
    else .zeroes (mZero w)

/-- The flash slots a map unit is read from. -/
def unitSlotList (s : State) (nsid unit : Nat) : List Nat :=
  match locate s nsid unit with
  | .stored a => if (getNs s nsid).zoned then zonedSlots s nsid unit else (List.range (unitSlots (getNs s nsid).lbaf)).map (· + a)
  | .packed a => (List.range (containerSlots s a)).map (· + a)
  | _ => []

/-- The bytes of a stored map unit; a zoned unit's slots are found one by one. -/
def unitData (s : State) (nsid unit : Nat) : List Byte :=
  let ns := getNs s nsid
  match locate s nsid unit with
  | .stored a =>
    if ns.zoned then ((zonedSlots s nsid unit).map (fun x => slotsData s x 1)).flatten
    else slotsData s a (unitSlots ns.lbaf)
  | .packed a => (packedData s a).getD (List.replicate 16384 0)
  | _ => List.replicate (4096 * unitSlots ns.lbaf) 0

/-- The flash address a unit is read at; none where no page is read. -/
def unitAddr (s : State) (nsid unit : Nat) : Option Nat :=
  match locate s nsid unit with
  | .stored a => some a
  | .packed a => some a
  | _ => none

/-! ### Blocks and the block account (R118 to R124, Table 4.2) -/

/-- A block that nothing has changed since the sled was formatted. -/
def formatted (b : Nat) : Block := { Block.fresh with pool := formatPool b }
def getBlk (s : State) (b : Nat) : Block := tabGet (formatted b) s.media.blocks b
/-- The landing pool: data landing, journal area, peer log and dump reserve (Table 4.1). -/
def inLanding (x : Block) : Bool := decide (1 ≤ x.pool) && decide (x.pool ≤ 4)
/-- A block changes; the count of landing blocks follows. -/
def setBlk (s : State) (b : Nat) (v : Block) : State :=
  { s with media := { s.media with
      blocks := tabPut s.media.blocks b v
      landHeld := s.media.landHeld + b2n (inLanding v) - b2n (inLanding (getBlk s b)) } }
def modBlk (s : State) (b : Nat) (g : Block → Block) : State := setBlk s b (g (getBlk s b))

/-- Slots of a block below the first one never programmed since its erase. -/
def nextSlot (s : State) (b : Nat) : Nat :=
  ((s.media.flash.filter (fun e => addrBlock e.1 == b && e.2.isSome)).map (fun e => e.1 - blockAddr b + 1)).foldl max 0
/-- No slot of the block has been programmed since its erase. -/
def blank (s : State) (b : Nat) : Bool := nextSlot s b == 0

/-- The channel group of a lot has no failed channel. -/
def groupOk (s : State) (g : Nat) : Bool := !(s.media.failedCh.any (fun c => c / 32 == g))
def blockGroup (b : Nat) : Nat := b / 2 ^ 32 / 32

def goodBlocks (s : State) : Nat := Config.blocks - factoryBad - s.media.gdl.length
def landBlocks (s : State) (pct : Nat) : Nat := max (landTarget pct) s.media.landHeld
/-- Zones of a zoned namespace. -/
def nsZones (n : Ns) : Nat := n.nsze * lbaSlots n.lbaf / zoneSize
/-- Blocks reserved for a namespace, and for all. -/
def nsBlocks (n : Ns) : Nat :=
  if n.zoned then 32 * nsZones n
  else ceilDiv (n.ncap * lbaBytes n.lbaf * 32 * 17) (31 * 16 * qlcBytes)
/-- This module's flash holds the namespace: mirrored, or not homed on the partner (R37). -/
def nsHere (s : State) (n : Ns) : Bool := n.mirror || s.pair.state == 0 || n.home == 0
/-- Those of the namespaces this module's flash holds. -/
def reservedBlocks (s : State) : Nat := ((s.media.cur.nss.filter (fun e => nsHere s e.2)).map (fun e => nsBlocks e.2)).sum
/-- The spare count for a landing percentage and further reserved blocks. -/
def spareWith (s : State) (pct extra : Nat) : Int :=
  (goodBlocks s : Int) - landBlocks s pct - ckptBlocks - (reservedBlocks s + extra : Nat)
def spareCount (s : State) : Int := spareWith s (landPct s) 0
def spareTarget : Nat := ceilDiv (2 * Config.blocks) 100
def spareFloor : Nat := ceilDiv Config.blocks 100
/-- Available Spare in percent (Table 4.8). -/
def availSpare (s : State) : Nat := min 100 ((100 * spareCount s * 100 / (2 * (Config.blocks : Int))).toNat)

/-- Blocks of the peer log, and data landing blocks of a landing pool (R122). -/
def peerBlocks (s : State) : Nat := if s.pair.state = 0 then 0 else journalBlocks
def dataBlocksOf (s : State) (l : Nat) : Nat := l - Config.channels * ceilDiv journalBlocks Config.channels - peerBlocks s - Config.channels * dumpPerChannel
/-- Landed 4 KiB slots. -/
def landedSlots (s : State) : Nat :=
  ((s.media.cur.map.filter (fun e => mMapped e.2 && mLanded e.2)).map (fun e => unitSlots (getNs s (e.1 / 2 ^ 48)).lbaf)).sum +
    s.media.cur.zland.length
/-- Data landing occupancy in percent. -/
def landOcc (s : State) : Nat := landedSlots s * 100 / (dataBlocksOf s s.media.landHeld * slcSlots)

/-- Pacing begins at 95 % and ends below 90 % (R133). -/
def settlePacing (s : State) : State :=
  let o := landOcc s
  let p := if s.media.paced then decide (90 ≤ o) else decide (95 ≤ o)
  { s with media := { s.media with paced := p } }

/-- Bytes of a log of bytes and times within the last 10 ms. -/
def lastTen (s : State) (l : List (Nat × Nat)) : Nat := ((l.filter (fun e => decide (s.nowMs < e.2 + 10))).map Prod.fst).sum

/-- Rated cycles of both modes, and the wear fraction of a block with shift 16 (R146). -/
def ratedCycles (s : State) : Nat := dget s 0x4020 6 * dget s 0x4020 7
def wearCycles (s : State) (b : Nat) : Nat := (getBlk s b).eq * dget s 0x4020 7 + (getBlk s b).es * dget s 0x4020 6
def wearFrac (s : State) (b : Nat) : Nat := wearCycles s b * 65536 / ratedCycles s

/-- A block is queued for refresh at a rank, 5 before 8 (R150). -/
def queueRefresh (s : State) (b rank : Nat) : State :=
  modBlk s b (fun x => { x with refresh := if x.refresh = 5 then 5 else rank })

/-- A block is erased, in no lot and on no defect list: it may be taken into another pool (R118). -/
def spare (s : State) (b : Nat) : Bool :=
  (getBlk s b).pool == 0 && !s.media.gdl.contains b && groupOk s (blockGroup b) && blank s b
/-- Those of a channel. -/
def sparesOn (s : State) (ch : Nat) : List Nat := ((goodAt ch).map (blockAt ch)).filter (spare s)

/-- The landing pool takes erased free blocks up to its target; the choice is the firmware's (R124). -/
def growLanding (s : State) : State :=
  let l := sledBlocks.filter (spare s)
  let k := drawn s % (l.length + 1)
  let take := (l.drop k ++ l.take k).take (landTarget (landPct s) - s.media.landHeld)
  if take.isEmpty then s else take.foldl (fun s b => modBlk s b (fun x => { x with pool := 1, open_ := false })) (draw s)

/-- Data landing blocks of a LUN that are open (R126). -/
def openOn (s : State) (lun : Nat) : Nat :=
  (s.media.blocks.filter (fun e => e.2.pool == 1 && e.2.open_ && e.1 / 2 ^ 27 == lun)).length
/-- A block of the data landing may take data: on a channel of a group in service; at most two are open on
a LUN. -/
def mayLand (s : State) (b : Nat) : Bool :=
  (getBlk s b).pool == 1 && !s.media.gdl.contains b && groupOk s (blockGroup b) && ((getBlk s b).open_ || decide (openOn s (b / 2 ^ 27) < 2))

/-- Erased blocks of a pool of the landing or of the checkpoint area that may be opened. -/
def blanksOf (s : State) (pool : Nat) : List Nat :=
  sledBlocks.filter (fun b => (getBlk s b).pool == pool && blank s b && !s.media.gdl.contains b && groupOk s (blockGroup b) &&
    (pool != 1 || decide (openOn s (b / 2 ^ 27) < 2)))

/-- A block is opened. -/
def openBlk (s : State) (o : Option Nat) : State :=
  { s with media := { s.media with blocks := match o with
      | some b => tabPut s.media.blocks b { (getBlk s b) with open_ := true }
      | none => s.media.blocks } }

/-- `n` erased slots in an open block of a pool, or in an erased one of it; which is the firmware's choice,
and so is the address where the pool has none. -/
def landSpot (s : State) (pool n : Nat) : Nat × State :=
  match s.media.blocks.find? (fun e => e.2.pool == pool && e.2.open_ && groupOk s (blockGroup e.1) && decide (nextSlot s e.1 + n ≤ slcSlots)) with
  | some e => (blockAddr e.1 + nextSlot s e.1, s)
  | none =>
    let l := blanksOf s pool
    let b := l[drawn s % l.length]?
    (match b with | some b => blockAddr b | none => drawn s % (448 * 2 ^ 32), openBlk (draw s) b)

/-- The peer log takes 8 GiB of erased data landing blocks while the module is paired, and gives them back
(R122). -/
def peerArea (s : State) (on : Bool) : State :=
  if on then ((sledBlocks.filter (fun b => (getBlk s b).pool == 1 && blank s b)).take journalBlocks).foldl (fun s b => modBlk s b (fun x => { x with pool := 3, open_ := false })) s
  else (sledBlocks.filter (fun b => (getBlk s b).pool == 3)).foldl (fun s b => modBlk s b (fun x => { x with pool := 1 })) s

/-- Slots from an address take bytes. -/
def putRaw (s : State) (a : Nat) (b : List Byte) : State :=
  let n := ceilDiv b.length 4096
  let f := (List.range n).foldl (fun f k => tabPut f (a + k) (some { data := (b.drop (k * 4096)).take 4096, key := 0, tag := none, time := s.nowMs })) s.media.flash
  { s with media := { s.media with flash := f }, host := { s.host with bytesMedia := s.host.bytesMedia + n * 4096 } }

/-! ### Namespace keys (R322, R338, R340) -/

/-- The quay dies that have power, and the one of an address's channel. -/
def quaysOn (s : State) : List Nat := (List.range 7).filter (quayOn s)
def addrQuay (a : Nat) : Nat := addrChannel a / 64

/-- A namespace's key enters the namespace table and the key table of every XTS engine. -/
def loadKey (s : State) (nsid : Nat) (k : List Byte) : State :=
  { s with
    media := { s.media with nsKeys := tabPut s.media.nsKeys nsid k }
    eng := { s.eng with xts := (quaysOn s).foldl (fun t q => tabPut t (q * 2 ^ 16 + nsid) k) s.eng.xts } }
/-- A key is drawn for a namespace. -/
def keyNs (s : State) (nsid : Nat) : State :=
  let r := drawKey (leBytes 48 (drawn s)) 64 s.eng.rng
  loadKey (draw { s with eng := { s.eng with rng := r.2 } }) nsid r.1
/-- A namespace's key is no more. -/
def dropKey (s : State) (nsid : Nat) : State :=
  { s with
    media := { s.media with nsKeys := tabDrop s.media.nsKeys nsid }
    eng := { s.eng with xts := s.eng.xts.filter (fun e => e.1 % 2 ^ 16 != nsid) } }
/-- An engine's table loses its keys with its power, and is loaded from the namespace table. -/
def clearXts (s : State) (q : Nat) : State := { s with eng := { s.eng with xts := s.eng.xts.filter (fun e => e.1 / 2 ^ 16 != q) } }
def fillXts (s : State) (q : Nat) : State :=
  { s with eng := { s.eng with xts := s.media.nsKeys.foldl (fun t e => tabPut t (q * 2 ^ 16 + e.1) e.2) s.eng.xts } }
/-- The key under which the engine of an address's channel seals a namespace's slots. -/
def xtsKey (s : State) (a nsid : Nat) : List Byte := tabGet [] s.eng.xts (addrQuay a * 2 ^ 16 + nsid)

/-! ### Rows of lots (R95) -/

/-- What the flash holds of a slot: sealed with its key and tweak, or as it is. -/
def sealedData (x : Slot) : List Byte :=
  if x.sealKey.isEmpty then padTo 4096 x.data else xtsSeal x.sealKey x.tweak (padTo 4096 x.data)

/-- The slot of a row's parity page. -/
def parityAddr (x : Lot) (row k : Nat) : Nat :=
  match x.members[row % 32]? with
  | some m => flashAddr (32 * x.chgrp + row % 32) m.celun m.block (row * Config.slotsPerPage + k)
  | none => 0

/-- A row of a lot is programmed whole: data slots that nothing was copied to hold zeroes, and the parity
page the XOR of the 31 data pages. -/
def wholeRow (x : Lot) (s : State) (row : Nat) : State :=
  let sp := Config.slotsPerPage
  let zero : Slot := { data := List.replicate 4096 0, key := 0, tag := none, time := s.nowMs }
  let as := (List.range rowUnits).map (fun i => lotAddr x (row * rowUnits + i))
  let pad := as.filter (fun a => !written s a)
  let f := pad.foldl (fun f a => tabPut f a (some zero)) s.media.flash
  let par (k : Nat) : List Byte :=
    ((List.range 31).map (fun d => match tabGet none f (lotAddr x (row * rowUnits + d * sp + k)) with | some y => sealedData y | none => zero.data)).foldl xorB zero.data
  let f := (List.range sp).foldl (fun f k => tabPut f (parityAddr x row k) (some { zero with data := par k })) f
  let s := { s with media := { s.media with flash := f }, host := { s.host with bytesMedia := s.host.bytesMedia + (pad.length + sp) * 4096 } }
  (lotBlocks x).foldl (fun s b => if (getBlk s b).pool = 8 then modBlk s b (fun y => { y with pool := 6 }) else s) s
/-- Rows of a lot from one to below another. -/
def wholeRows (s : State) (x : Lot) (lo hi : Nat) : State := ((List.range (hi - lo)).map (· + lo)).foldl (wholeRow x) s

/-! ### Checkpoint images (R110, R145, Tables 3.5 and 3.8) -/

/-- Valid 4 KiB units a pooled lot holds. -/
def lotValid (s : State) (m : MapSt) (l : Nat) : Nat :=
  let bs := lotBlocks (getLot m l)
  ((m.map.filter (fun e => mMapped e.2 && !mLanded e.2 && bs.contains (addrBlock (mAddr e.2)))).map
    (fun e => if mPacked e.2 then containerSlots s (mAddr e.2) else unitSlots (getNs s (e.1 / 2 ^ 48)).lbaf)).sum

/-- A pooled lot holds a unit of a mirrored namespace. -/
def lotMirrors (m : MapSt) (l : Nat) : Bool :=
  let bs := lotBlocks (getLot m l)
  m.map.any (fun e => mMapped e.2 && !mLanded e.2 && bs.contains (addrBlock (mAddr e.2)) && (tabGet Ns.empty m.nss (e.1 / 2 ^ 48)).mirror)

/-- The 128 bytes of a lot descriptor, with its CHECK. -/
def lotBytes (s : State) (m : MapSt) (l : Nat) : List Byte :=
  let x := getLot m l
  let mir := if isPooled x then lotMirrors m l else x.mirrored
  let b := leBytes 1 x.state ++ leBytes 1 (b2n x.zoned + 2 * b2n mir + 4 * b2n x.reloc) ++ leBytes 1 x.chgrp ++ leBytes 1 x.lost ++
    leBytes 4 x.nsid ++ leBytes 4 x.zone ++ leBytes 4 x.wrptr ++ (x.members.map (fun k => leBytes 3 (k.block + k.celun * 2 ^ 16 + k.mstate * 2 ^ 21))).flatten ++
    leBytes 4 x.gen ++ leBytes 4 (if isPooled x then lotValid s m l else x.foldptr) ++ leBytes 4 0
  b ++ leBytes 4 (crc32c b)

/-- The objects that hold anything of a mapping state. -/
def objectsOf (m : MapSt) : List CkObj :=
  let obj (k n i : Nat) : CkObj := { kind := k, nsid := n, index := i }
  (m.map.map (fun e => obj 1 (e.1 / 2 ^ 48) (e.1 % 2 ^ 48 / 4096)) ++ m.lots.map (fun e => obj 2 0 (e.1 / 256)) ++
    m.zones.map (fun e => obj 3 (e.1 / 2 ^ 24) (e.1 % 2 ^ 24 / 4096)) ++
    m.zland.map (fun e => obj 3 (e.1 / 2 ^ 56) (e.1 / 2 ^ 32 % 2 ^ 24 / 4096)) ++ [obj 4 0 0]).dedup
/-- The part of a mapping state that is an object; a zone's landing index goes with its zone-table block
(log entry 68). -/
def partOf (m : MapSt) (o : CkObj) : MapSt :=
  match o.kind with
  | 1 => { MapSt.empty with map := m.map.filter (fun e => e.1 / 2 ^ 48 == o.nsid && e.1 % 2 ^ 48 / 4096 == o.index) }
  | 2 => { MapSt.empty with lots := m.lots.filter (fun e => e.1 / 256 == o.index) }
  | 3 => { MapSt.empty with
      zones := m.zones.filter (fun e => e.1 / 2 ^ 24 == o.nsid && e.1 % 2 ^ 24 / 4096 == o.index)
      zland := m.zland.filter (fun e => e.1 / 2 ^ 56 == o.nsid && e.1 / 2 ^ 32 % 2 ^ 24 / 4096 == o.index) }
  | _ => { MapSt.empty with nss := m.nss }
/-- A mapping state takes an object's part from an image. -/
def joinPart (m p : MapSt) : MapSt :=
  { map := p.map.foldl (fun t e => tabPut t e.1 e.2) m.map, lots := p.lots.foldl (fun t e => tabPut t e.1 e.2) m.lots
    zones := p.zones.foldl (fun t e => tabPut t e.1 e.2) m.zones, zland := p.zland.foldl (fun t e => tabPut t e.1 e.2) m.zland
    nss := p.nss.foldl (fun t e => tabPut t e.1 e.2) m.nss }

/-- The 4 bytes of a block on the grown defect list (R145). -/
def defectBytes (b : Nat) : List Byte :=
  leBytes 4 (b / 2 ^ 32 % 512 + b / 2 ^ 30 % 4 * 2 ^ 9 + b / 2 ^ 27 % 8 * 2 ^ 11 + b % 2 ^ 16 * 2 ^ 14)
/-- The payload of an image; the entries of the namespace table are left open. -/
def imagePayload (s : State) (m : MapSt) (o : CkObj) : List Byte :=
  match o.kind with
  | 1 => ((List.range 4096).map (fun i => leBytes 6 (mapWord m o.nsid (o.index * 4096 + i)))).flatten
  | 2 => ((List.range 256).map (fun i => lotBytes s m (o.index * 256 + i))).flatten
  | 3 => ((List.range 4096).map (fun i =>
      let v := getZone m o.nsid (o.index * 4096 + i)
      leBytes 4 (v.lot + b2n v.lotv * 2 ^ 21 + v.zs * 2 ^ 22) ++ leBytes 4 v.wp)).flatten
  | _ => leBytes (64 * m.nss.length) (drawn s) ++ (s.media.gdl.map defectBytes).flatten
/-- An image: the header of Table 3.8, then its payload. -/
def ckImageBytes (s : State) (m : MapSt) (o : CkObj) (jsn : Nat) : List Byte :=
  let p := imagePayload s m o
  let h := [0x43, 0x4B, 0x50, 0x54] ++ leBytes 1 o.kind ++ leBytes 3 0 ++ leBytes 4 (if o.kind = 1 ∨ o.kind = 3 then o.nsid else 0) ++
    leBytes 4 o.index ++ leBytes 8 jsn ++ leBytes 4 p.length ++ List.replicate 32 0
  h ++ leBytes 4 (crc32c (h ++ p)) ++ p

/-- An image of an object is programmed in the checkpoint area; of the older ones the newest stays. -/
def writeImage (m : MapSt) (jsn : Nat) (s : State) (o : CkObj) : State :=
  let b := ckImageBytes s m o jsn
  let r := landSpot s 5 (ceilDiv b.length 4096)
  let s := putRaw (draw r.2) r.1 b
  let old := ((s.media.images.filter (fun i => i.obj == o)).reverse).take 1
  { s with media := { s.media with images := s.media.images.filter (fun i => i.obj != o || old.contains i) ++
      [{ obj := o, jsn := jsn, addr := r.1, part := partOf m o, gdl := if o.kind = 4 then s.media.gdl else [] }] } }

/-- The spares' warnings and read-only media follow a retirement (R148, R152). -/
def spareWarnings (s : State) : State :=
  let s := setWarn s 0 (decide (availSpare s < 75))
  if spareCount s < spareFloor ∧ !s.media.readOnly then
    emergency (setWarn (persist { s with media := { s.media with readOnly := true } } 0x4020 4 1) 3 true) 0x0401 0x4020 4 (spareCount s).toNat
  else s

/-- A block is retired (R145): on the grown defect list, never used again; the namespace table's image
carries it before a replacement enters service. A block of the dump reserve is missed there (R122). -/
def retireBlock (s : State) (b : Nat) : State :=
  if s.media.gdl.contains b then s
  else
    let short := (getBlk s b).pool == 4 && groupOk s (blockGroup b)
    let s := setBlk { s with media := { s.media with gdl := s.media.gdl ++ [b], dumpShort := if short then s.media.dumpShort ++ [b / 2 ^ 32] else s.media.dumpShort } } b
      { (getBlk s b) with pool := 7, refresh := 0, retireNext := false, open_ := false }
    spareWarnings (bump (writeImage s.media.ckpt s.media.ckptJsn s ⟨4, 0, 0⟩) 0x4030 3 1)

/-- Every erased block of a channel group leaves service with it (R144). -/
def retireGroup (s : State) (g : Nat) : State :=
  let bs := sledBlocks.filter (fun b => blockGroup b == g && blank s b && !s.media.gdl.contains b)
  let s := bs.foldl (fun s b => setBlk s b { (getBlk s b) with pool := 7, refresh := 0, open_ := false }) s
  let s := { s with media := { s.media with gdl := s.media.gdl ++ bs, dumpShort := s.media.dumpShort.filter (fun c => c / 32 != g) } }
  spareWarnings (bump (writeImage s.media.ckpt s.media.ckptJsn s ⟨4, 0, 0⟩) 0x4030 3 bs.length)

/-- NUSE of a device-mapped namespace, in map units. -/
def usedUnits (m : MapSt) (nsid : Nat) : Nat :=
  (m.map.filter (fun e => e.1 / 2 ^ 48 == nsid && wordUsed e.2)).length

/-! ### Subsystem local memory -/

def slmGranule : Nat := 16 * 1024 * 1024
/-- Bytes of a tenant's SLM lease, and where it begins. -/
def slmSize (s : State) (tenant : Nat) : Nat := dget s (0x6000 + tenant) 4 * slmGranule
def slmAt (_ : State) (tenant : Nat) : Nat := tenant * 2 ^ 34
def slmRead (s : State) (tenant off len : Nat) : List Byte := memRead s.prog.slm (slmAt s tenant + off) len
def slmWrite (s : State) (tenant off : Nat) (bs : List Byte) : State :=
  { s with prog := { s.prog with slm := memWrite s.prog.slm (slmAt s tenant + off) bs } }

/-- The function of a tenant. -/
def fnOf (tenant : Nat) : Nat := tenant + 1

/-- A namespace is attached to a function's controller; the physical function sees those attached
to it. -/
def attachedTo (s : State) (fn nsid : Nat) : Bool := (getNs s nsid).live && (getNs s nsid).attached.contains fn

/-- This module's flash holds the namespace. -/
def heldHere (s : State) (nsid : Nat) : Bool := nsHere s (getNs s nsid)

end Sys2Proof.Machine
end

