-- ==== Sys2Proof/Machine/Journal.lean ====
section
/-!
DEFINITION. The map journal (R106 to R109, R115): records, their durability, and their effect on the
mapping state.
-/
namespace Sys2Proof.Machine

/-! ### Records (Table 3.7) -/

def jrec (typ nsid unit count entry aux : Nat) : JRec :=
  { typ := typ, flags := 0, count := count, nsid := nsid, unit := unit, entry := entry, aux := aux, jsn := 0 }

def zeroWord : Nat := 2 ^ 44
def uncorrWord : Nat := 2 ^ 45

/-- The record that gives a map unit a word. A word that stores nothing but is marked RESYNC is
carried by a MAP record. -/
def wordRec (nsid unit w : Nat) : JRec :=
  if w = 0 then jrec 0x02 nsid unit 1 0 0
  else if w = zeroWord then jrec 0x03 nsid unit 1 0 0
  else if w = uncorrWord then jrec 0x04 nsid unit 1 0 0
  else jrec 0x01 nsid unit 1 w 0

/-- The 32 bytes of a record (R108). -/
def recBytes (r : JRec) : List Byte :=
  leBytes 1 r.typ ++ leBytes 1 r.flags ++ leBytes 2 r.count ++ leBytes 4 r.nsid ++ leBytes 8 r.unit ++
    leBytes 6 r.entry ++ [0, 0] ++ leBytes 8 r.aux
def recOf (b : List Byte) (jsn : Nat) : JRec :=
  { typ := recNat b 0 1, flags := recNat b 1 1, count := recNat b 2 2, nsid := recNat b 4 4, unit := recNat b 8 8,
    entry := recNat b 16 6, aux := recNat b 24 8, jsn := jsn }

/-- A record in logical form (Table 3.10). -/
def logical (r : JRec) : JRec :=
  if r.typ = 0x01 ∨ r.typ = 0x10 then
    { r with entry := r.entry / 2 ^ 41 * 2 ^ 41 - b2n (bitOf r.entry 42) * 2 ^ 42 }
  else r

/-- Types sent to the partner. -/
def recMirrored (m : MapSt) (r : JRec) : Bool :=
  decide (1 ≤ r.typ ∧ r.typ ≤ 5) || r.typ == 0x10 || decide (0x30 ≤ r.typ ∧ r.typ ≤ 0x32) ||
    (r.typ == 0x12 && (tabGet Ns.empty m.nss r.nsid).mirror)

/-! ### Effect -/

def setWord (m : MapSt) (nsid unit w : Nat) : MapSt := { m with map := tabSet 0 m.map (mapKey nsid unit) w }
def setZone (m : MapSt) (nsid z : Nat) (v : Zone) : MapSt := { m with zones := tabSet Zone.empty m.zones (zoneKey nsid z) v }

/-- Every map word, zone and landing index of a namespace is dropped. -/
def dropNs (m : MapSt) (nsid : Nat) : MapSt :=
  { m with
    map := m.map.filter (fun e => e.1 / 2 ^ 48 != nsid)
    zones := m.zones.filter (fun e => e.1 / 2 ^ 24 != nsid)
    zland := m.zland.filter (fun e => e.1 / 2 ^ 56 != nsid) }

/-- The landing index of a zone below or from a unit on is dropped. -/
def dropLand (m : MapSt) (nsid z : Nat) (p : Nat → Bool) : MapSt :=
  { m with zland := m.zland.filter (fun e => !(e.1 / 2 ^ 32 == zoneKey nsid z && p (e.1 % 2 ^ 32))) }

/-- One record changes the mapping state. -/
def applyRec (m : MapSt) (r : JRec) : MapSt :=
  let ns := tabGet Ns.empty m.nss r.nsid
  match r.typ with
  | 0x01 => (List.range r.count).foldl (fun m i =>
      setWord m r.nsid (r.unit + i) (if mMapped r.entry then r.entry + i * unitSlots ns.lbaf else r.entry)) m
  | 0x02 => (List.range r.count).foldl (fun m i => setWord m r.nsid (r.unit + i) 0) m
  | 0x03 => (List.range r.count).foldl (fun m i => setWord m r.nsid (r.unit + i) zeroWord) m
  | 0x04 => (List.range r.count).foldl (fun m i => setWord m r.nsid (r.unit + i) uncorrWord) m
  | 0x05 => dropNs m r.nsid
  | 0x10 => (List.range r.count).foldl (fun m i =>
      { m with zland := tabPut m.zland (zlandKey r.nsid r.aux (r.unit + i)) (r.entry % 2 ^ 41 + i) }) m
  | 0x11 =>
    let l := bitsOf r.aux 32 52
    let fp := bitsOf r.aux 0 31
    dropLand (setLot m l { getLot m l with foldptr := fp }) r.nsid r.unit (fun u => decide (u < fp))
  | 0x12 =>
    let st := bitsOf r.aux 0 3
    let wp := bitsOf r.entry 0 31
    let old := getZone m r.nsid r.unit
    let m := setZone m r.nsid r.unit { lot := bitsOf r.aux 4 24, lotv := bitOf r.aux 25, zs := st, wp := wp }
    let m := dropLand m r.nsid r.unit (fun u => decide (wp ≤ u))
    if bitOf r.aux 25 then
      let l := bitsOf r.aux 4 24
      let x := getLot m l
      let fp := if old.lotv then (if old.lot = l then x.foldptr else (getLot m old.lot).foldptr) else x.foldptr
      setLot m l { x with state := (if x.state = 0 then 1 else x.state), zoned := true, mirrored := ns.mirror, nsid := r.nsid, zone := r.unit, wrptr := wp, foldptr := fp }
    else m
  | 0x20 =>
    let x := getLot m r.unit
    let st := bitsOf r.aux 0 7
    setLot m r.unit (if st = 0 then { formedLot r.unit with members := x.members.map (fun k => if k.mstate = 1 then { k with mstate := 0 } else k), gen := x.gen + 1, chgrp := x.chgrp }
      else { x with state := st, nsid := bitsOf r.aux 32 63, zone := bitsOf r.entry 0 31 })
  | 0x21 =>
    let x := getLot m r.unit
    let w := bitsOf r.aux 5 28
    let k := bitsOf r.aux 0 4
    let lost := if bitsOf w 21 23 = 2 then (if x.lost = 0xFF then k else x.lost) else if x.lost = k then 0xFF else x.lost
    setLot m r.unit { x with lost := lost, members := listMod (fun _ => { block := bitsOf w 0 15, celun := bitsOf w 16 20, mstate := bitsOf w 21 23 }) x.members k }
  | 0x30 =>
    { m with nss := tabSet Ns.empty m.nss r.nsid { Ns.empty with
        live := true, nsze := r.unit, ncap := r.aux, lbaf := bitsOf r.entry 0 7 % 16, zoned := bitsOf r.entry 8 15 == 2,
        mirror := bitsOf r.entry 16 23 == 1, home := bitsOf r.entry 24 31, shared := bitOf r.entry 32,
        keyGen := r.jsn, ready := true } }
  | 0x31 => let m := dropNs m r.nsid; { m with nss := tabDrop m.nss r.nsid }
  | 0x32 =>
    { m with nss := tabSet Ns.empty m.nss r.nsid { ns with
        attached := if r.aux = 0 then (if ns.attached.contains r.unit then ns.attached else ns.attached ++ [r.unit]) else ns.attached.filter (· != r.unit) } }
  | _ => m

/-! ### Appending and durability -/

/-- Records that the DRAM journal tail of 256 MiB holds, in pages of 127 (R106). -/
def tailRecs : Nat := 2 ^ 28 / 4096 * 127

/-- A record is durable: its page is programmed, or it sits in the tail while hold-up is healthy. -/
def durableTo (s : State) : Nat :=
  if s.power.healthy then min s.media.jsn (s.media.programmedJsn + tailRecs) else s.media.programmedJsn

/-- Every durable record that waits is applied, in order. -/
def applyReady (s : State) : State :=
  let lim := max (durableTo s) s.media.appliedJsn
  let due := s.media.journal.filter (fun r => decide (s.media.appliedJsn < r.jsn) && decide (r.jsn ≤ lim))
  { s with media := { s.media with cur := due.foldl applyRec s.media.cur, appliedJsn := lim } }

/-- The newest mapping state, counting records not yet applied (R136). -/
def newestMap (s : State) : MapSt :=
  (s.media.journal.filter (fun r => decide (s.media.appliedJsn < r.jsn))).foldl applyRec s.media.cur

/-- The record is of a mirrored namespace; its creation says so itself. -/
def recOfMirrored (m : MapSt) (r : JRec) : Bool :=
  if r.typ = 0x30 then bitsOf r.entry 16 23 == 1 else (tabGet Ns.empty m.nss r.nsid).mirror

/-- A record takes the next JSN, and bit 0 of its RFLAGS says whether its namespace is mirrored; it is
appended. -/
def numbered (s : State) (r : JRec) : JRec :=
  { r with jsn := s.media.jsn + 1, flags := r.flags / 2 * 2 + b2n (recOfMirrored (newestMap s) r) }
def appendOwn (s : State) (r : JRec) : State :=
  { s with media := { s.media with jsn := s.media.jsn + 1, journal := s.media.journal ++ [numbered s r], cleanStop := false } }

/-- A record is appended; in a pair its logical form goes to the partner, or is kept for it. -/
def appendRec (s : State) (r : JRec) : State :=
  let x := numbered s r
  let s := appendOwn s r
  if !recMirrored s.media.cur x then s
  else if s.pair.state = 1 ∨ s.pair.state = 4 then
    hawSend s 0x20 x.nsid 1 0 (leBytes 8 x.jsn ++ leBytes 8 0 ++ recBytes (logical x))
  else if (s.pair.state = 2 ∨ s.pair.state = 3) ∧ 0x30 ≤ x.typ then
    { s with pair := { s.pair with heldRecs := s.pair.heldRecs ++ [x] } }
  else s

/-- Records appended in order, then applied as far as they are durable. -/
def append (s : State) (rs : List JRec) : State := applyReady (rs.foldl appendRec s)

/-- The newest word of a map unit. -/
def newestWord (s : State) (nsid unit : Nat) : Nat := mapWord (newestMap s) nsid unit

/-- The ZSTATE record of a zone. -/
def zstateRec (nsid z : Nat) (v : Zone) : JRec :=
  jrec 0x12 nsid z 0 v.wp (v.zs + v.lot * 2 ^ 4 + b2n v.lotv * 2 ^ 25)

/-- The LOTSTATE record of a lot. -/
def lotRec (l : Lot) (i st : Nat) : JRec := jrec 0x20 0 i 0 l.zone (st + l.nsid * 2 ^ 32)

/-! ### Lots in reclaim (Table 4.4 step 4) -/

/-- Free lots of a channel group. -/
def freeLots (s : State) (g : Nat) : Nat :=
  ((List.range lotCount).filter (fun l => let x := getLot s.media.cur l; x.state == 0 && x.chgrp == g)).length

/-- Lots in reclaim whose members are all erased are free again: LOTSTATE 0 is appended. -/
def formLots (s : State) : State :=
  let due := (s.media.cur.lots.filter (fun e => e.2.state == 3 && (lotBlocks (getLot s.media.cur e.1)).all (fun b => s.media.erased.contains b))).map Prod.fst
  if due.isEmpty then s
  else
    let bs := (due.map (fun l => lotBlocks (getLot s.media.cur l))).flatten
    let s := append { s with media := { s.media with erased := s.media.erased.filter (fun b => !bs.contains b) } } (due.map (fun l => lotRec Lot.free l 0))
    { s with media := { s.media with gcOn := s.media.gcOn.filter (fun g => !decide (dget s 0x4040 2 ≤ freeLots s g)) } }

/-- The journal window in bytes: whole pages of 127 records (R111). -/
def windowBytes (s : State) : Nat := ceilDiv (s.media.jsn - s.media.ckptJsn) 127 * 4096
def settleWindow (s : State) : State :=
  let w := windowBytes s
  { s with media := { s.media with windowHeld := if s.media.windowHeld then decide (7 * 2 ^ 29 ≤ w) else decide (2 ^ 32 ≤ w) } }

/-! ### Journal pages (R107, R128) -/

/-- The 4 KiB of a journal page: the header of Table 3.6, then its records; PAD ends them. -/
def pageBytes (jsn prev : Nat) (rs : List JRec) : List Byte :=
  let h := [0x4A, 0x52, 0x4E, 0x4C] ++ leBytes 2 1 ++ leBytes 2 rs.length ++ leBytes 8 jsn ++ leBytes 8 prev ++ leBytes 4 0
  let b := padTo 4064 (rs.map recBytes).flatten
  h ++ leBytes 4 (crc32c (h ++ b)) ++ b

/-- The next journal page is programmed into a pool's blocks, with at most 127 records, none above `lim`. -/
def programPage (s : State) (pool lim : Nat) : State :=
  let first := s.media.programmedJsn + 1
  let top := min lim (s.media.programmedJsn + 127)
  let rs := s.media.journal.filter (fun r => decide (first ≤ r.jsn) && decide (r.jsn ≤ top))
  let prev := match s.media.pages.getLast? with | some p => p.jsn | none => 0
  let r := landSpot s pool 1
  let s := putRaw r.2 r.1 (pageBytes first prev rs)
  { s with media := { s.media with
      programmedJsn := top, pages := s.media.pages ++ [{ addr := r.1, jsn := first, nrec := rs.length, prev := prev }] } }

/-- The whole tail up to a record is programmed; the fuel is the number of its pages. -/
def programTail (pool lim : Nat) : Nat → State → State
  | 0, s => s
  | n + 1, s => if s.media.programmedJsn < lim then programTail pool lim n (programPage s pool lim) else s
/-- All of it goes to the journal area, and is applied. -/
def programAll (s : State) : State := applyReady (programTail 2 s.media.jsn (s.media.jsn - s.media.programmedJsn) s)

/-! ### Checkpoints (R110 to R112) -/

/-- The logbook line of the map root (R111). -/
def rootLine : Nat := itemLine 5 0

/-- The objects whose content is not that of their newest image. -/
def dirtyObjects (s : State) : List CkObj :=
  let newest := s.media.ckpt
  ((objectsOf s.media.cur ++ objectsOf newest).dedup).filter (fun o => partOf s.media.cur o != partOf newest o || !(s.media.images.any (fun i => i.obj == o)))

/-- The map root names the checkpoint area and the page that holds the window's first record. -/
def newRoot (s : State) (start : Nat) : MapRoot :=
  { area := (((sledBlocks.filter (fun b => formatPool b == 5)).map blockAddr).headD 0)
    page := ((s.media.pages.find? (fun p => decide (start < p.jsn + p.nrec))).map (·.addr)).getD 0
    start := start }

/-- A checkpoint pass: images of every object that changed, then a CKMARK record with their count, which the
journal is programmed up to, and the map root. What the images hold needs no journal page. -/
def checkpoint (s : State) (clean : Bool) : State :=
  let s := applyReady s
  let os := dirtyObjects s
  let s := os.foldl (writeImage s.media.cur s.media.appliedJsn) s
  let m := s.media
  let s := { s with media := { m with ckpt := m.cur, ckptJsn := m.appliedJsn, programmedJsn := max m.programmedJsn m.appliedJsn, journal := m.journal.filter (fun r => decide (m.appliedJsn < r.jsn)), passAt := some s.nowMs } }
  let s := append s [{ jrec 0x40 0 os.length 0 0 (m.appliedJsn + 1) with flags := 2 * b2n clean }]
  let s := programAll s
  let s := { s with media := { s.media with
      cleanStop := clean, root := newRoot s (m.appliedJsn + 1), pages := s.media.pages.filter (fun p => decide (m.appliedJsn < p.jsn + p.nrec)) } }
  commitAt s 5 rootLine

end Sys2Proof.Machine
end

