-- ==== Sys2Proof/Machine/DocketOps.lean ====
section
/-!
DEFINITION. What becomes of a docket entry: its completion, step 9 of the write flow, cancellation,
queue freezes and Flush (R53 to R68, R127).
-/
namespace Sys2Proof.Machine

/-- The bytes of a payload. -/
def payloadBytes : Payload → List Byte
  | .bytes l => l
  | .units l => (l.map (fun u => u.getD [])).flatten
  | _ => []

/-- The completion of a docket entry's command goes to its queue, or to the partner it was
forwarded from as FWDCPL (Table 14.12). A command has one; after a reset of its function it has none (R61). -/
def dkPost (s : State) (d : Nat) (st : Status) (dw0 dw1 : Nat) (p : Payload) : State :=
  let e := getDk s d
  match e.remote with
  | some tag =>
    hawSend s 0x31 e.sqe.nsid 0 tag (leBytes 4 dw0 ++ leBytes 4 dw1 ++ leBytes 4 0 ++
      leBytes 4 (e.sqe.cid + statusField st * 2 ^ 17) ++ payloadBytes p)
  | none =>
    if e.mirrorOf.isSome ∨ e.posted ∨ !(getSq s e.fn e.sqid).live then s
    else
      let s := if st = .success then s else
        modFn s e.fn (fun f => { f with errCount := f.errCount + 1, errors := (({ count := f.errCount + 1, sqid := e.sqid, cid := e.sqe.cid, status := st, lba := e.sqe.slba, nsid := e.sqe.nsid } : ErrEnt) :: f.errors).take 256 })
      postCpl s (getSq s e.fn e.sqid).cqid { fn := e.fn, sqid := e.sqid, cid := e.sqe.cid, status := st, dnr := dnrOf st, dw0 := dw0, dw1 := dw1, data := p }

/-- The pair waits for nothing on behalf of a docket entry any more. -/
def forgetDk (p : Pair) (d : Nat) : Pair :=
  { p with
    cancels := p.cancels.filter (fun c => !(p.fwd.any (fun x => x.2 == d && x.1 == c.1)))
    awaiting := p.awaiting.filter (fun x => x.2 != d)
    fwd := p.fwd.filter (fun x => x.2 != d)
    states := p.states.map (fun x => if x.2 = .dock d then (x.1, .none) else x) }

/-- No thread has this number. -/
def noThread : Nat := 2 ^ 20
/-- Cascaded searches still out at the partner have nobody left to answer: their words are discarded
when they end (R170, R351). -/
def orphanCascades (s : State) (mine : Cascade → Bool) : State :=
  { s with tally := { s.tally with waiting := s.tally.waiting.map (fun c => if mine c then { c with thread := noThread, docket := none } else c) } }

/-- The tag a write's far berths are stamped with (R159). -/
def dkTag (e : Docket) (d : Nat) : Nat := if e.mirrorOf.isSome then 7 * 2 ^ 20 else 6 * 2 ^ 20 + d

/-- The request for a far berth of a write at step 3 (R165). -/
def dkReq (e : Docket) (d : Nat) : Waiter := ownAlloc (if e.mirrorOf.isSome then 8 else 7) d (dkTag e d)

/-- The berths of a docket entry are released: a committed write's are freed at step 9, under the tag that stamped
them; what else the entry asked for, claims or owns is given up as R170 says. -/
def dkBerths (s : State) (d : Nat) (e : Docket) : State :=
  let out (l : List Waiter) := l.filter (fun w => decide (w ≠ dkReq e d))
  let s := { s with pool := { s.pool with farWait := out s.pool.farWait, held := out s.pool.held } }
  let own := e.berths.filter (fun a => (getBerth s a).alloc && (getBerth s a).owner == dkTag e d)
  let s := if e.word = .committed then freeBerths s own else own.foldl reclaimBerth s
  if e.mirrorOf.isSome then s else releaseOwner s (dkTag e d)

/-- The entry is free again: its locks, its berths and its place in the table are released. -/
def dkFree (s : State) (d : Nat) : State :=
  let e := getDk s d
  let s := orphanCascades s (fun c => c.docket == some d)
  dkBerths (setDk { s with pair := forgetDk s.pair d, host := { s.host with busyAt := s.nowMs } } d Docket.free) d e

/-- A later command of a frozen queue counts as finished normally (Table 2.9); on an ordered queue that is
not frozen, one that finishes ahead of an earlier command is kept for the record of a freeze to come. -/
def countFinished (s : State) (e : Docket) : State :=
  let q := getSq s e.fn e.sqid
  let earlier (n : Nat) : Bool :=
    s.host.dockets.any (fun o => o.2.fn == e.fn && o.2.sqid == e.sqid && o.2.remote.isNone && !o.2.posted && decide (o.2.seq < n))
  match q.freeze with
  | some z =>
    if z.seq < e.seq ∧ !e.posted then
      modSq s e.fn e.sqid (fun q => { q with freeze := some { z with finished := z.finished + 1 } })
    else s
  | none =>
    if q.live ∧ e.ordered ∧ !e.posted ∧ e.remote.isNone then
      modSq s e.fn e.sqid (fun q => { q with finished := (e.seq :: q.finished).filter earlier })
    else s

/-- The commands a freeze cancels: fetched after the failing one from its queue, still Admitted. -/
def freezeVictims (s : State) (e : Docket) : List Nat :=
  (s.host.dockets.filter (fun o =>
    o.2.fn == e.fn && o.2.sqid == e.sqid && decide (e.seq < o.2.seq) && o.2.word == .admitted &&
      o.2.remote.isNone)).map Prod.fst

/-! ### Cancellation -/

/-- The map units a command's LBAs cover. -/
def cmdUnits (s : State) (q : Sqe) : List Nat :=
  let u := unitLbas (getNs s q.nsid).lbaf
  if q.nlb = 0 then [] else (List.range ((q.slba + q.nlb - 1) / u + 1 - q.slba / u)).map (· + q.slba / u)

/-- The records that restore what a programmed write's units held (R127). -/
def restoreRecs (s : State) (e : Docket) : List JRec :=
  match e.zoneAt with
  | some (z, _, _) => [zstateRec e.sqe.nsid z (getZone (newestMap s) e.sqe.nsid z)]
  | none => (e.places.map (·.unit)).map (fun u => wordRec e.sqe.nsid u (newestWord s e.sqe.nsid u))

/-- Threads of a program none of which has been dispatched are dropped, and a scan that still waits. -/
def dropWork (s : State) (d : Nat) : State :=
  let ts := (s.hm.threads.filter (fun t => t.2.root == some d)).map Prod.fst
  let s := ts.foldl (fun s t => setThr (unready s t) t Thread.free) s
  { s with customs := { s.customs with scans := s.customs.scans.filter (fun e => !(e.2.fromHost && e.2.owner == d)) } }

/-- A forwarded command's state word is the executing module's (R377): the swap is asked for there by
FWDABT, and an Abort that asked earlier keeps its turn (log entry 64). After a reset the answer finds no
completion to post. -/
def cancelForward (s : State) (d tag : Nat) (st : Option Status) : State :=
  let s := if st.isNone then modDk s d (fun e => { e with posted := true }) else s
  let first := s.pair.aborts.any (fun a => a.1 == tag) || s.pair.cancels.any (fun c => c.1 == tag)
  hawSend { s with pair := { s.pair with
      aborts := s.pair.aborts ++ [(tag, none)]
      cancels := if first then s.pair.cancels else s.pair.cancels ++ [(tag, st)] } } 0x32 0 0 tag []

/-- A command's word swaps to Cancelled: it releases what it holds and completes with the status of
the party that cancelled it, or with none. After a flash program its restoring records come first. -/
def dkCancel (s : State) (d : Nat) (st : Option Status) : State :=
  let e := getDk s d
  if e.word ≠ .admitted then s
  else match s.pair.fwd.find? (fun x => x.2 == d) with
  | some (tag, _) => cancelForward s d tag st
  | none =>
    let s := dropWork s d
    if e.programmed then
      let s := append s (restoreRecs s e)
      let s := setDk s d { e with word := .cancelled, cancelSt := st, waitJsn := some s.media.jsn }
      if durableTo s < s.media.jsn then s
      else dkFree (match st with | some x => dkPost s d x 0 0 .none | none => s) d
    else dkFree (match st with | some x => dkPost s d x 0 0 .none | none => s) d

/-- An ordered queue freezes on a failing completion (R64 to R66). -/
def freezeQueue (s : State) (e : Docket) (st : Status) : State :=
  let q := getSq s e.fn e.sqid
  if q.live ∧ e.ordered ∧ q.freeze.isNone ∧ st ≠ .success ∧ st ≠ .vendor 0x80 ∧ st ≠ .sqDeleted ∧ e.remote.isNone ∧ !e.posted then
    let vs := freezeVictims s e
    let here := (vs.filter (fun d => !(s.pair.fwd.any (fun x => x.2 == d)))).length
    let s := vs.foldl (fun s d => dkCancel s d (some (.vendor 0x80))) s
    let z : Freeze := { cid := e.sqe.cid, slot := e.slot, status := statusField st, next := q.head, cancelled := here, finished := (q.finished.filter (fun n => decide (e.seq < n))).length, time := s.nowMs, order := s.host.freezeSeq, seq := e.seq }
    let s := modSq s e.fn e.sqid (fun q => { q with freeze := some z, finished := [] })
    let s := modFn { s with host := { s.host with freezeSeq := s.host.freezeSeq + 1 } } e.fn
      (fun f => { f with freezeGen := f.freezeGen + 1 })
    postEvent (bump s 0x5000 0x08 1) e.fn { typ := 7, info := 0, log := 0xC0 }
  else s

/-- An I/O command completes and its entry is freed. -/
def ioDone (s : State) (d : Nat) (st : Status) (dw0 dw1 : Nat) (p : Payload) : State :=
  let e := getDk s d
  let s := dkPost s d st dw0 dw1 p
  let s := if st = .success then countFinished s e else s
  freezeQueue (dkFree s d) e st

def ioOk (s : State) (d : Nat) : State := ioDone s d .success 0 0 .none
def ioFail (s : State) (d : Nat) (st : Status) : State := ioDone s d st 0 0 .none

/-- A write's completion is posted at its commit point; the entry stays until step 9 of
Table 1.5. -/
def dkCommitPost (s : State) (d : Nat) (dw0 dw1 : Nat) : State :=
  let e := getDk s d
  let s := countFinished (dkPost s d .success dw0 dw1 .none) e
  setDk s d { e with word := .committed, posted := true, issueJsn := if e.programmed then e.issueJsn else s.media.jsn }

/-! ### Flush -/

/-- An earlier write still keeps a Flush waiting: not committed, or not programmed where hold-up
was insufficient when the Flush was fetched (R32, R68). -/
def flushWaits (fl w : Docket) : Bool :=
  isWriteKind w.sqe.kind && w.fn == fl.fn && decide (w.seq < fl.seq) &&
    (fl.sqe.nsid == 0xFFFFFFFF || w.sqe.nsid == fl.sqe.nsid) &&
    (if fl.healthy then w.word == .admitted else !w.programmed)

/-- The Flushes that can complete. -/
def flushesDue (s : State) : List Nat :=
  (s.host.dockets.filter (fun e =>
    e.2.sqe.kind == .flush && e.2.started && e.2.word == .admitted &&
      !(s.host.dockets.any (fun w => flushWaits e.2 w.2)))).map Prod.fst

/-- A shutdown waits for a write: of a virtual function as a Flush would (R112), of the physical
function for every write not yet programmed. -/
def shutdownWaits (s : State) (fn : Nat) (w : Docket) : Bool :=
  isWriteKind w.sqe.kind &&
    (if fn = 0 then true else w.fn == fn && (if s.power.healthy then w.word == .admitted else !w.programmed))

/-- Shutdowns whose condition holds are complete; the physical function's is a clean stop (R112). -/
def settleShutdown (s : State) : State :=
  (fnList s).foldl (fun s fn =>
    if (getFn s fn).shst = 1 ∧ !(s.host.dockets.any (fun w => shutdownWaits s fn w.2)) then
      let s := if fn = 0 then checkpoint s true else s
      modFn s fn (fun f => { f with shst := 2 })
    else s) s

/-- Every Flush, and every shutdown, whose condition holds completes. -/
def flushCheck (s : State) : State := settleShutdown ((flushesDue s).foldl ioOk s)


/-! ### Step 9 -/

/-- A write's step 9 is done, or a cancelled write's restoring records are durable: the entry
closes. -/
def dkClose (s : State) (d : Nat) : State :=
  let e := getDk s d
  if e.word = .cancelled then
    match e.cancelSt with
    | some x => flushCheck (freezeQueue (dkFree (dkPost s d x 0 0 .none) d) e x)
    | none => flushCheck (dkFree s d)
  else flushCheck (dkFree s d)

/-- A command is cancelled with a status of its own; what that completion causes follows (R62, R64). -/
def dkAbort (s : State) (d : Nat) (st : Status) : State :=
  let e := getDk s d
  let s := dkCancel s d (some st)
  if dkUsed s d then s else flushCheck (freezeQueue s e st)

/-- Namespace commands whose records are durable on both modules complete (R115); the reservations of
the namespaces count from then on (R120, R152). -/
def settleAdm (s : State) : State :=
  let due (e : Nat × Adm × Nat) : Bool := decide (e.1 ≤ durableTo s) && ((s.pair.state != 1 && s.pair.state != 4) || decide (e.1 ≤ s.media.partnerAck))
  let l := s.host.admWait.filter due
  if l.isEmpty then s
  else
    let s := l.foldl (fun s e => adminDone s e.2.1 .success e.2.2 .none) { s with host := { s.host with admWait := s.host.admWait.filter (fun e => !due e) } }
    setWarn s 0 (decide (availSpare s < 75))

/-- An admin command completes once a record is durable. -/
def adminAfter (s : State) (jsn : Nat) (a : Adm) (dw0 : Nat) : State :=
  settleAdm { s with host := { s.host with admWait := s.host.admWait ++ [(jsn, a, dw0)] } }

/-- A full landing block is closed once every record for its slots is durable (R126). -/
def closeFull (s : State) : State :=
  { s with media := { s.media with blocks := s.media.blocks.map (fun e => (e.1, { e.2 with
      open_ := e.2.open_ && !(e.2.pool == 1 && decide (slcSlots ≤ nextSlot s e.1) && !(s.host.dockets.any (fun d => d.2.places.any (fun p => addrBlock p.addr == e.1)))) })) } }

/-- Entries whose records are durable close, and so do namespace commands; erased lots are formed again. -/
def closeDue (s : State) : State :=
  let s := settleAdm (formLots s)
  let lim := durableTo s
  closeFull (((s.host.dockets.filter (fun e => match e.2.waitJsn with | some j => decide (j ≤ lim) | none => false)).map Prod.fst).foldl dkClose s)

/-- Records are appended, applied as far as durable, and what waited for them is closed. -/
def journalOp (s : State) (rs : List JRec) : State := settleWindow (closeDue (append s rs))

/-- The same, of records the partner has already or must not have. -/
def journalQuiet (s : State) (rs : List JRec) : State := settleWindow (closeDue (applyReady (rs.foldl appendOwn s)))

/-- The word of a placed unit. -/
def placeWord (e : Docket) (p : Placement) : Nat := storedWord p.addr p.landed p.packed e.degraded

/-- The command covers a map unit whole. -/
def fullUnit (s : State) (q : Sqe) (u : Nat) : Bool :=
  let k := unitLbas (getNs s q.nsid).lbaf
  decide (q.slba ≤ u * k) && decide (u * k + k ≤ q.slba + q.nlb)

/-- The records of a write's step 9. -/
def writeRecs (s : State) (e : Docket) : List JRec :=
  match e.zoneAt with
  | some (z, u, n) =>
    let v := getZone (newestMap s) e.sqe.nsid z
    let wp := max v.wp (u + n)
    let direct := (e.places.filter (fun p => !p.landed)).length
    ((e.places.filter (fun p => p.landed)).map (fun p => jrec 0x10 e.sqe.nsid (p.unit % zoneSize) 1 (p.addr % 2 ^ 41) z)) ++
      [zstateRec e.sqe.nsid z { v with wp := wp, zs := if zoneCap ≤ wp then 0xE else v.zs }] ++
      (if direct = 0 then [] else [jrec 0x11 e.sqe.nsid z 0 0 (u + direct + v.lot * 2 ^ 32)])
  | none =>
    match e.sqe.kind with
    | .writeZeroes =>
      ((cmdUnits s e.sqe).filter (fullUnit s e.sqe)).map (fun u => wordRec e.sqe.nsid u ((if e.sqe.flag then 0 else zeroWord) + b2n e.degraded * 2 ^ 46)) ++
        e.places.map (fun p => wordRec e.sqe.nsid p.unit (placeWord e p))
    | .writeUncorrectable => (cmdUnits s e.sqe).map (fun u => wordRec e.sqe.nsid u (uncorrWord + b2n e.degraded * 2 ^ 46))
    | _ => e.places.map (fun p => wordRec e.sqe.nsid p.unit (placeWord e p))

/-- Step 9 of a committed and programmed write (Table 1.5). -/
def stepNine (s : State) (d : Nat) : State :=
  let e := getDk s d
  let s := append s (writeRecs s e)
  let s := setDk s d { e with waitJsn := some s.media.jsn }
  settlePacing (settleWindow (closeDue s))

end Sys2Proof.Machine
end

