-- ==== Sys2Proof/Machine/PairOps.lean ====
section
/-!
DEFINITION. What every command asks of the pair (R37, R375, R377): ANA states, forwarding, degraded
writes, mirrored state, and changes of the pair state.
-/
namespace Sys2Proof.Machine

/-- ANA states: 1 Optimized, 2 Non-optimized, 3 Inaccessible (PRESUMED codes, log entry 5). -/
inductive Ana where
  | optimized | nonOptimized | inaccessible
  deriving DecidableEq, Repr

/-- Table 1.11 for a namespace whose copy is done or which needs none, in step. -/
def anaInStep (n : Ns) : Ana := if n.home = 0 then .optimized else .nonOptimized

/-- The ANA state this module reports for a namespace (R37, R381, R384). -/
def anaOf (s : State) (nsid : Nat) : Ana :=
  let n := getNs s nsid
  if s.pair.state = 0 then .optimized
  else if n.mirror && s.pair.stale.contains nsid then .inaccessible
  else if s.pair.state = 1 then anaInStep n
  else if s.pair.state = 2 then (if n.home = 0 then .optimized else .inaccessible)
  else if s.pair.state = 3 then (if n.mirror || n.home == 0 then .optimized else .inaccessible)
  else if n.mirror && s.pair.copying.contains nsid then .optimized
  else anaInStep n

/-- The command goes to the primary or home module (R377). -/
def forwards (s : State) (nsid : Nat) : Bool := anaOf s nsid == .nonOptimized

/-- A mirrored write of this module goes to the partner and waits for its MACK (R376). -/
def mirrorsTo (s : State) (nsid : Nat) : Bool :=
  (getNs s nsid).mirror && (s.pair.state == 1 || s.pair.state == 4)
/-- It commits locally and stays marked (R37, R384). -/
def writesDegraded (s : State) (nsid : Nat) : Bool :=
  (getNs s nsid).mirror && (s.pair.state == 2 || s.pair.state == 3 ||
    (s.pair.state == 4 && s.pair.copying.contains nsid))

/-- The live namespaces. -/
def nsids (s : State) : List Nat := (s.media.cur.nss.filter (fun e => e.2.live)).map Prod.fst
def anaAll (s : State) : List (Nat × Ana) := (nsids s).map (fun n => (n, anaOf s n))

/-- An Asymmetric Namespace Access Change event on the controllers of every namespace whose state
changed (R81). -/
def anaEvents (before : List (Nat × Ana)) (s : State) : State :=
  let ch := (before.filter (fun e => (getNs s e.1).live && decide (anaOf s e.1 ≠ e.2))).map Prod.fst
  let fns := ((ch.map (fun n => 0 :: (getNs s n).attached)).flatten).dedup
  postEvents s fns { typ := 2, info := 3, log := 0x0C }

/-- What a STATE completes (R375). -/
def finishState (s : State) : StateDone → State
  | .none => s
  | .adm a dw0 => adminDone s a .success dw0 .none
  | .record j a dw0 => adminAfter s j a dw0
  | .reply r n => answer s r (.wrote n)
  | .dock d => if dkUsed s d then ioOk s d else s

/-- A STATE is sent. -/
def sendState (s : State) (i : StateItem) (dn : StateDone) : State :=
  match subFor s i.nsid with
  | none => finishState { s with pair := { s.pair with heldStates := s.pair.heldStates ++ [i] } } dn
  | some _ =>
    let seq := s.pair.mseq
    let s := hawSend s 0x21 i.nsid i.kind 0 i.body
    { s with pair := { s.pair with states := s.pair.states ++ [(seq, dn)] } }

/-- An operation on mirrored state completes once both modules hold its result; while the partner is
away it completes here and the item is kept for the rejoin. -/
def mirrorState (s : State) (kind nsid : Nat) (body : List Byte) (dn : StateDone) : State :=
  let i : StateItem := { kind := kind, nsid := nsid, body := body }
  if s.pair.state = 1 ∨ s.pair.state = 4 then sendState s i dn
  else if s.pair.state = 0 then finishState s dn
  else finishState { s with pair := { s.pair with heldStates := s.pair.heldStates ++ [i] } } dn

/-- STATEs whose partner is gone complete here, and are kept (R375). -/
def dropStates (s : State) : State :=
  let l := s.pair.states
  l.foldl (fun s e => finishState s e.2) { s with pair := { s.pair with states := [] } }

/-- An effect that may change reported ANA states, with its events. -/
def reAna (s : State) (f : State → State) : State := anaEvents (anaAll s) (f s)

/-- The pair state changes, with other fields of the pair: it is recorded, and the events of R81 are
posted. Copies run only while Resynchronising. The information field of this type 7 event, as of every
vendor-specific event, is 0 (DESIGN CHOICE, log entry 66: R81 gives its type and log identifier only). -/
def pairTo (s : State) (st : Nat) (f : Pair → Pair) : State :=
  let before := anaAll s
  let p := { f s.pair with state := st, lastChange := s.nowMs }
  let p := if st = 4 then p else { p with copying := [], resync := [], copies := [] }
  let s := persist { s with pair := p } 0x8000 9 st
  let s := postEvents (anaEvents before s) (fnList s) { typ := 7, info := 0, log := 0xC3 }
  let s := emergency s 0x0801 0x8000 1 st
  if st = 1 ∨ st = 4 then s else dropStates s
def pairSet (s : State) (st : Nat) : State := pairTo s st id

/-- Forwarded commands without an answer complete with 0x85; their Aborts report that nothing was
aborted (R378). -/
def failForwards (s : State) : State :=
  let l := s.pair.fwd
  let ab := s.pair.aborts
  let s := { s with pair := { s.pair with fwd := [], aborts := [], cancels := [] } }
  let s := l.foldl (fun s e => if dkUsed s e.2 then ioFail (bump s 0x8010 8 1) e.2 (.vendor 0x85) else s) s
  ab.foldl (fun s e => match e.2 with | some a => adminDone s a .success 1 .none | none => s) s

/-- Epoch and setter are durable in the pair record. -/
def setEpoch (s : State) (epoch setter : Nat) : State := persist (persist s 0x8000 7 epoch) 0x8000 8 setter

/-! ### Takeover (Table 14.7) -/

/-- Namespaces that change owner in a takeover. -/
def changesOwner (s : State) (nsid : Nat) : Bool := (getNs s nsid).mirror && anaOf s nsid != .optimized

/-- New commands for a namespace whose owner changes are held until the takeover ends. -/
def heldByTakeover (s : State) (nsid : Nat) : Bool := s.pair.taking.isSome && changesOwner s nsid

/-- Steps 5 to 7, once FENCE_OUT is asserted and no mirrored write awaits a MACK; a Pair Control
TAKEOVER clears the stale marks, and completes. -/
def takeoverEnd (s : State) : State :=
  match s.pair.taking with
  | none => s
  | some r =>
    if s.pair.fenceOut && s.pair.awaiting.isEmpty then
      let adm := s.pair.takeAdm
      let stale := if adm.isSome then [] else s.pair.stale
      let s := setEpoch s (pairEpoch s + 1) (pairRole s)
      let s := pairTo s (if stale.isEmpty then 3 else 2) (fun p =>
        { p with taking := none, takeAdm := none, stale := stale, takeover := some { r with done := s.nowMs } })
      let s := bump s 0x8010 6 1
      match adm with | some a => adminOk s a | none => s
    else s

/-- The partner is declared lost: steps 1 to 3. `exposed` is R380's decision. -/
def takeoverStart (s : State) (exposed : Bool) : State :=
  if s.pair.taking.isSome then s
  else
    let s := { s with pair := { s.pair with taking := some { exposed := exposed, time := s.nowMs, exposure := if exposed then s.pair.lastFlit else 0, done := 0 }
                                            fenceOut := s.pair.fenceOut || pairRole s == 1 } }
    takeoverEnd (failForwards s)

def linkUp (s : State) : Bool := s.pair.sub0.up || s.pair.sub1.up

/-- The partner is lost: the link is lost and ALIVE_IN reads low with no alive fault (R379). From In
step, whether ALIVE_IN fell within 6 µs of the last flit is below the clock of this model: it is a
free value. -/
def partnerLost (s : State) : State :=
  if s.pair.state = 0 ∨ linkUp s ∨ s.pair.aliveIn ∨ s.pair.aliveFault ∨ s.pair.state = 3 ∨ s.power.bootWait = 3 then s
  else if dget s 0x8000 4 = 1 then
    takeoverStart (draw s) (s.pair.state != 1 || drawn s % 2 == 1)
  else if s.pair.state = 2 then s else pairSet (failForwards s) 2

/-- The link is lost with the partner alive (R378). -/
def linkLost (s : State) : State :=
  if s.pair.state = 0 ∨ s.pair.state = 3 ∨ s.pair.state = 2 then s
  else if s.pair.aliveIn ∨ s.pair.aliveFault then pairSet (failForwards s) 2
  else partnerLost s

end Sys2Proof.Machine
end

