-- ==== Sys2Proof/Machine/IoOps.lean ====
section
/-!
DEFINITION. What the I/O commands share: admission checks, reservations, forwarding, the steps of the
write flow, reads (R18 to R20, R37, R60, R84, R93, R121, R377).
-/
namespace Sys2Proof.Machine

/-! ### Checks -/

def isWriteLock : IoKind → Bool
  | .write | .writeZeroes | .writeUncorrectable | .datasetManagement | .copy | .zoneAppend
  | .zoneOpen | .zoneClose | .zoneFinish | .zoneReset | .zoneOffline => true
  | _ => false

/-- Commands of the Zoned command set, and of the NVM set that zoned namespaces lack (Table 2.3). -/
def zonedOnly : IoKind → Bool
  | .zoneOpen | .zoneClose | .zoneFinish | .zoneReset | .zoneOffline | .zoneReport | .zoneAppend => true
  | _ => false
def mappedOnly : IoKind → Bool
  | .writeUncorrectable => true
  | _ => false

/-- How a host is identified for reservations: its Host Identifier, else its controller. -/
def hostKey (s : State) (fn : Nat) : Nat :=
  if (getFn s fn).hostId = 0 then 2 ^ 128 + fn else (getFn s fn).hostId

def registrant (s : State) (n : Ns) (fn : Nat) : Option Registrant := n.regs.find? (fun r => r.host == hostKey s fn)

/-- The reservation's holder: of the All Registrants types, every registrant. -/
def holdsResv (s : State) (n : Ns) (fn : Nat) : Bool :=
  if n.resvType = 5 ∨ n.resvType = 6 then (registrant s n fn).isSome
  else n.resvHolder == some (hostKey s fn)

/-- The namespace's reservation forbids the command. -/
def resvConflict (s : State) (n : Ns) (fn : Nat) (write : Bool) : Bool :=
  let reg := (registrant s n fn).isSome
  match n.resvType with
  | 1 => write && !holdsResv s n fn
  | 2 => !holdsResv s n fn
  | 3 => write && !reg
  | 4 => !reg
  | 5 => write && !reg
  | 6 => !reg
  | _ => false

/-- The range a command names lies in the namespace. -/
def lbasOk (n : Ns) (q : Sqe) : Bool := decide (q.slba + q.nlb ≤ n.nsze) && q.ranges.all (fun r => decide (r.1 + r.2 ≤ n.nsze))

/-- The refusals that come before a command may be forwarded. -/
def nsRefusal (s : State) (e : Docket) : Option Status :=
  let n := getNs s e.sqe.nsid
  if !n.live || (e.remote.isNone && !attachedTo s e.fn e.sqe.nsid) then some .invalidNamespaceOrFormat
  else if !n.ready || !s.media.ready then some .namespaceNotReady
  else if (if n.zoned then mappedOnly e.sqe.kind else zonedOnly e.sqe.kind) then some .invalidOpcode
  else if anaOf s e.sqe.nsid = .inaccessible then some (if isWriteLock e.sqe.kind then .vendor 0x85 else .anaInaccessible)
  else none

/-- The refusals of the module that executes a command. -/
def hereRefusal (s : State) (e : Docket) : Option Status :=
  let n := getNs s e.sqe.nsid
  let w := isWriteLock e.sqe.kind
  if !lbasOk n e.sqe then some .lbaOutOfRange
  else if w && s.media.readOnly then some .namespaceWriteProtected
  else if resvConflict s n e.fn w then some .reservationConflict
  else none

/-! ### Forwarding (R377) -/

/-- NVMe opcodes (log entry 5). -/
def opcodeOf : IoKind → Nat
  | .flush => 0x00 | .write => 0x01 | .read => 0x02 | .writeUncorrectable => 0x04 | .compare => 0x05
  | .writeZeroes => 0x08 | .datasetManagement => 0x09 | .verify => 0x0C | .resvRegister => 0x0D
  | .resvReport => 0x0E | .resvAcquire => 0x11 | .resvRelease => 0x15 | .copy => 0x19
  | .zoneOpen | .zoneClose | .zoneFinish | .zoneReset | .zoneOffline => 0x79
  | .zoneReport => 0x7A | .zoneAppend => 0x7D
  | .executeProgram => 0x01 | .memoryRead => 0x02 | .memoryWrite => 0x01
  | .customsScan => 0x80 | .tallyLoad => 0x84 | .tallySearch => 0x88

def cdw0 (q : Sqe) : Nat := opcodeOf q.kind + q.cid * 65536

/-- The zone send action of a command. -/
def zoneAction : IoKind → Nat
  | .zoneClose => 1 | .zoneFinish => 2 | .zoneOpen => 3 | .zoneReset => 4 | .zoneOffline => 5 | _ => 0

/-- Command dwords 10 to 15: as the submission entry holds them, else from its fields. -/
def cdw10 (q : Sqe) : List Nat :=
  if !q.dw.isEmpty then ((q.dw ++ List.replicate 6 0).take 6).map BitVec.toNat
  else
    let d12 := if zonedOnly q.kind && q.kind != .zoneAppend then 0 else q.nlb - 1 + b2n (q.flag && q.kind == .writeZeroes) * 2 ^ 25
    let d13 := zoneAction q.kind + b2n q.flag * 256 * b2n (zoneAction q.kind != 0)
    if q.kind == .datasetManagement then [q.ranges.length - 1, b2n q.flag * 4, 0, 0, 0, 0]
    else [q.slba % 2 ^ 32, q.slba / 2 ^ 32, d12, d13, 0, 0]

/-- A 64-byte submission entry, its data and metadata pointers 0 (Table 14.12). -/
def sqeBytes (q : Sqe) : List Byte :=
  leBytes 4 (cdw0 q) ++ leBytes 4 q.nsid ++ leBytes 4 q.dw2.toNat ++ leBytes 4 q.dw3.toNat ++ List.replicate 24 0 ++
    ((cdw10 q).map (leBytes 4)).flatten

/-- The ranges a Copy or Dataset Management carries as data. -/
def rangeData (q : Sqe) : List Byte :=
  (q.ranges.map (fun r => if q.kind == .copy then padTo 8 [] ++ leBytes 8 r.1 ++ padTo 16 (leBytes 2 (r.2 - 1))
    else leBytes 4 0 ++ leBytes 4 r.2 ++ leBytes 8 r.1)).flatten

/-- The command is sent to the primary or home module; it completes from its FWDCPL. -/
def forward (s : State) (d : Nat) (data : List Byte) : State :=
  let e := getDk s d
  let tag := s.pair.fwdTag
  let s := modDk s d (fun e => { e with started := true })
  hawSend { s with pair := { s.pair with fwdTag := tag + 1, fwd := s.pair.fwd ++ [(tag, d)] } } 0x30 e.sqe.nsid e.fn tag
    (sqeBytes e.sqe ++ rangeData e.sqe ++ data)

/-- The namespace's key is being regenerated: its commands wait at admission, and no slot of it is sealed or
unsealed (R340). -/
def rekeying (s : State) (nsid : Nat) : Bool := decide (s.media.appliedJsn < (getNs s nsid).rekeyAt)

/-- An I/O command on a namespace: refused, forwarded with its data, or run here. -/
def onNs (s : State) (d : Nat) (data : List Byte) (run : State → State) : State :=
  let e := getDk s d
  if heldByTakeover s e.sqe.nsid ∨ rekeying s e.sqe.nsid then s
  else match nsRefusal s e with
  | some st => ioFail s d st
  | none =>
    if forwards s e.sqe.nsid && e.remote.isNone then forward s d data
    else match hereRefusal s e with
      | some st => ioFail s d st
      | none => run (modDk s d (fun e => { e with started := true }))

/-- A command that is never forwarded (R377): refused, or run here. -/
def onHere (s : State) (d : Nat) (run : State → State) : State :=
  let e := getDk s d
  if rekeying s e.sqe.nsid then s
  else match nsRefusal s e with
  | some st => ioFail s d st
  | none => match hereRefusal s e with
    | some st => ioFail s d st
    | none => run (modDk s d (fun e => { e with started := true }))

/-! ### Zones at admission (R102 to R104) -/

/-- Zones of a namespace, or of all, in a set of states. -/
def zonesIn (m : MapSt) (nsid : Option Nat) (p : Nat → Bool) : Nat :=
  (m.zones.filter (fun e => (match nsid with | some n => e.1 / 2 ^ 24 == n | none => true) && p e.2.zs)).length
def zActive (zs : Nat) : Bool := zs == 2 || zs == 3 || zs == 4
def zOpen (zs : Nat) : Bool := zs == 2 || zs == 3

/-- A free lot; which one is the firmware's choice. -/
def freeLot (s : State) (m : MapSt) : Option Nat :=
  (lowestFrom (fun k => let i := (drawn s + k) % lotCount; (getLot m i).state == 0 && groupOk s (getLot m i).chgrp && !(s.media.relocs.any (fun e => e.2.dest == some i)))
    lotCount 0).map (fun k => (drawn s + k) % lotCount)

/-- Units of in-flight writes that the zone's write pointer does not yet cover. -/
def zoneInFlight (s : State) (nsid z : Nat) : Nat :=
  (s.host.dockets.map (fun e => match e.2.zoneAt with
    | some (y, _, n) => if e.2.sqe.nsid = nsid ∧ y = z ∧ e.2.waitJsn.isNone then n else 0
    | none => 0)).sum

/-- The write pointer a new write meets. -/
def workingWp (s : State) (nsid z : Nat) : Nat := (getZone (newestMap s) nsid z).wp + zoneInFlight s nsid z

/-- A zone becomes open for a write or for Zone Open: a lot is bound to an Empty zone, limits hold, and
an implicitly open zone is closed where the open limit would be passed. The refusal otherwise. -/
def openZone (s : State) (nsid z zs : Nat) : Option Status × State :=
  let m := newestMap s
  let v := getZone m nsid z
  let fromEmpty := v.zs == 1
  if fromEmpty ∧ (1024 ≤ zonesIn m (some nsid) zActive ∨ 16384 ≤ zonesIn m none zActive) then (some .tooManyActiveZones, s)
  else
    let full := !zOpen v.zs && decide (1024 ≤ zonesIn m (some nsid) zOpen)
    let victims := (m.zones.filter (fun e => e.1 / 2 ^ 24 == nsid && e.2.zs == 2)).map Prod.fst
    if full ∧ victims.isEmpty then (some .tooManyOpenZones, s)
    else
      let pick := (victims[drawn s % (victims.length)]?).getD 0
      let close := if full then [zstateRec nsid (pick % 2 ^ 24) { getZone m nsid (pick % 2 ^ 24) with zs := 4 }] else []
      if v.lotv then (none, append (if full then draw s else s) (close ++ [zstateRec nsid z { v with zs := zs }]))
      else match freeLot (draw s) m with
        | none => (some .zoneReadOnly, s)
        | some l => (none, append (draw (draw s)) (close ++ [zstateRec nsid z { v with lot := l, lotv := true, zs := zs }]))

/-- A zoned write finds its place: zone, first unit, units; its zone is open afterwards. -/
def zonedPlace (s : State) (q : Sqe) : Except Status (State × (Nat × Nat × Nat)) :=
  let k := lbaSlots (getNs s q.nsid).lbaf
  let u := q.slba * k
  let n := q.nlb * k
  let z := u / zoneSize
  let v := getZone (newestMap s) q.nsid z
  let wp := workingWp s q.nsid z
  let app := q.kind == .zoneAppend
  if app ∧ u % zoneSize ≠ 0 then .error .invalidField
  else if v.zs = 0xE ∨ (zoneCap ≤ wp ∧ v.zs ≠ 0xD ∧ v.zs ≠ 0xF) then .error .zoneFull
  else if v.zs = 0xD then .error .zoneReadOnly
  else if v.zs = 0xF then .error .zoneOffline
  else if !app ∧ zoneCap < u % zoneSize + n then .error .zoneBoundaryError
  else if !app ∧ u % zoneSize ≠ wp then .error .zoneInvalidWrite
  else if zoneCap < wp + n then .error .zoneBoundaryError
  else if zOpen v.zs then .ok (s, (z, wp, n))
  else match openZone s q.nsid z 2 with
    | (some st, _) => .error st
    | (none, s) => .ok (s, (z, wp, n))

/-! ### Units a write programs -/

/-- The units for flash: 4 KiB units of a zoned write, map units of any other; units a Write Zeroes
covers whole and uncorrectable units have no flash copy. -/
def flashUnits (s : State) (e : Docket) : List Nat :=
  match e.zoneAt with
  | some (z, u, n) => (List.range n).map (fun i => z * zoneSize + u + i)
  | none => match e.sqe.kind with
    | .writeUncorrectable => []
    | .writeZeroes => (cmdUnits s e.sqe).filter (fun u => !fullUnit s e.sqe u)
    | _ => cmdUnits s e.sqe

/-- The new bytes of a unit: the command's data over what the unit held (R84). -/
def newUnit (s : State) (e : Docket) (u : Nat) : List Byte :=
  match e.zoneAt with
  | some (z, u0, _) => padTo 4096 ((e.data.drop ((u - z * zoneSize - u0) * 4096)).take 4096)
  | none =>
    let n := getNs s e.sqe.nsid
    let k := unitLbas n.lbaf
    let b := lbaBytes n.lbaf
    let old := unitData s e.sqe.nsid u
    ((List.range k).map (fun i =>
      let lba := u * k + i
      if e.sqe.slba ≤ lba ∧ lba < e.sqe.slba + e.sqe.nlb then padTo b ((e.data.drop ((lba - e.sqe.slba) * b)).take b)
      else (old.drop (i * b)).take b)).flatten

/-- The container of a unit that packing helps (R316); none where the unit is stored plain. -/
def packedForm (e : Docket) (bytes : List Byte) : Option (List Byte) :=
  if e.pack ∧ bytes.length = 16384 then
    let c := container 14 bytes
    if !c.2 ∧ c.1.length ≤ 12288 then some c.1 else none
  else none

/-- The units a write of a device-mapped namespace covers in part, whose rest it reads (R84). -/
def partUnits (s : State) (e : Docket) : List Nat :=
  if e.zoneAt.isSome ∨ e.sqe.kind = .writeUncorrectable then [] else (cmdUnits s e.sqe).filter (fun u => !fullUnit s e.sqe u)

/-! ### Direct writes (R129) -/

/-- A lot whose content is being moved. -/
def lotMoved (s : State) (l : Nat) : Bool := s.media.relocs.any (fun e => e.2.lot == some l)

/-- A zone append may be steered to QLC: its size, its zone's fold and write pointers, the hold-up health, and
no relocation of its lot. -/
def mayDirect (s : State) (e : Docket) : Bool :=
  match e.zoneAt with
  | some (z, u, n) =>
    let v := getZone s.media.cur e.sqe.nsid z
    let lot := getLot s.media.cur v.lot
    landDirect s && e.healthy && s.power.healthy && e.sqe.kind == .zoneAppend && decide (1048576 ≤ e.data.length) &&
      lot.foldptr == u && v.wp == u && !lotMoved s v.lot && decide (rowUnits ≤ n)
  | none => false

/-! ### Pacing (R133) -/

/-- Step 3 holds a write that would land while the landing rate of the last 10 ms would pass the fold
rate. -/
def pacedOut (s : State) (e : Docket) : Bool :=
  s.media.paced && !mayDirect s e && decide (lastTen s s.media.folded < lastTen s s.media.landed + e.data.length)

/-! ### Steps 3 to 5 of the write flow -/

def berthsFor (bytes : Nat) : Nat := ceilDiv bytes 65536

/-- Far berths that hold, or are asked for, write data not yet programmed (R19). -/
def writeBerths (s : State) : Nat :=
  (s.host.dockets.map (fun e => if e.2.programmed || !isWriteKind e.2.sqe.kind then 0 else e.2.berths.length + ownAsked s (dkReq e.2 e.1))).sum

/-- One far berth is asked for at the write's port, with WAIT (R165). -/
def dkAsk (s : State) (d : Nat) : State :=
  let w := dkReq (getDk s d) d
  if portHeld s w.who.port then (if portRoom s w.who then pushHeld s w else s) else allocAct s w

/-- What a write at step 3 still lacks is asked for. -/
def dkAsks (s : State) (d n : Nat) : State :=
  let e := getDk s d
  (List.range (n - e.berths.length - ownAsked s (dkReq e d))).foldl (fun s _ => dkAsk s d) s

/-- The body of an MWRITE (Table 14.12). -/
def mwriteBody (e : Docket) : List Byte :=
  leBytes 4 (cdw0 e.sqe) ++ (((cdw10 e.sqe).drop 2).map (leBytes 4)).flatten ++ leBytes 2 e.fn ++ List.replicate 10 0 ++
    (if e.sqe.kind = .writeZeroes ∨ e.sqe.kind = .writeUncorrectable then [] else e.data)

/-- Step 4, its far berths granted: the data moves into them, and a mirrored namespace's goes to the partner. A write
to a namespace still being copied does not wait for its MACK (R384). -/
def stepFour (s : State) (d : Nat) : State :=
  let e := getDk s d
  let s := { s with media := { s.media with landed := (e.data.length, s.nowMs) :: s.media.landed.filter (fun x => decide (s.nowMs < x.2 + 10)) } }
  let s := e.berths.zipIdx.foldl (fun s x => { s with dram := memWrite s.dram x.1 ((e.data.drop (x.2 * 65536)).take 65536) }) s
  let mir := mirrorsTo s e.sqe.nsid && e.mirrorOf.isNone
  let early := s.pair.copying.contains e.sqe.nsid
  let s := setDk s d { e with
    heldAt3 := false, dataIn := true, issueJsn := s.media.jsn, programmed := (flashUnits s e).isEmpty
    acked := !mir || early, degraded := e.degraded || (writesDegraded s e.sqe.nsid && e.mirrorOf.isNone) }
  if mir then
    let seq := s.pair.mseq
    let lba := match e.zoneAt with | some (z, u, _) => (z * zoneSize + u) / lbaSlots (getNs s e.sqe.nsid).lbaf | none => e.sqe.slba
    let p := if early then { s.pair with lapsed := s.pair.lapsed ++ [(seq, (cmdUnits s e.sqe).map (fun u => ⟨e.sqe.nsid, u⟩))] } else { s.pair with awaiting := s.pair.awaiting ++ [(seq, d)] }
    hawSend { s with pair := p } 0x10 e.sqe.nsid (e.sqe.nlb - 1) lba (mwriteBody e)
  else s

/-- Step 3: a write that nothing holds asks for its far berths, and goes on once it has them all. -/
def stepThree (s : State) (d : Nat) : State :=
  let e := getDk s d
  let n := berthsFor e.data.length
  let s := modDk s d (fun e => { e with heldAt3 := true })
  if s.media.windowHeld ∨ pacedOut s e then s
  else
    let s := if 65536 < writeBerths s + (n - e.berths.length - ownAsked s (dkReq e d)) then s else dkAsks s d n
    if (getDk s d).berths.length = n then stepFour s d else s

/-- Held writes try again, in fetch order (R19, R111). -/
def heldWrites (s : State) : List Nat := sortSeq ((s.host.dockets.filter (fun e => e.2.heldAt3)).map (fun e => (e.2.seq, e.1)))
def resumeHeld (s : State) : State := (heldWrites s).foldl stepThree s

/-- What berths freed, transfers ended and tokens posted let go on: reclaims, held requests and writes, lease changes,
idle cores. -/
def settleAll (s : State) : State := resumeHeld (kickIdle (settleReclaims s))

/-- The units a write leaves in use: of a Write Zeroes that deallocates, those it covers in part. -/
def unitsUsed (s : State) (q : Sqe) : List Nat :=
  (cmdUnits s q).filter (fun u => !(q.kind == .writeZeroes && q.flag && fullUnit s q u))

/-- Writes of a namespace that have started and have appended no record yet. -/
def writesUnderWay (s : State) (nsid : Nat) : List Sqe :=
  (s.host.dockets.filter (fun e => e.2.sqe.nsid == nsid && isWriteKind e.2.sqe.kind && (e.2.dataIn || e.2.heldAt3 || e.2.partRead) && e.2.waitJsn.isNone)).map (·.2.sqe)

/-- A write of a device-mapped namespace would raise NUSE above NCAP, writes in flight counted (R93). -/
def overCapacity (s : State) (q : Sqe) : Bool :=
  let n := getNs s q.nsid
  let m := newestMap s
  let fresh := (((writesUnderWay s q.nsid ++ [q]).map (unitsUsed s)).flatten.dedup).filter (fun u => !wordUsed (mapWord m q.nsid u))
  !(unitsUsed s q).all (fun u => wordUsed (mapWord m q.nsid u)) && decide (n.ncap < (usedUnits m q.nsid + fresh.length) * unitLbas n.lbaf)

/-! ### The rest of partly covered units, and the start of a write -/

/-- The first slot of the page a slot lies in. -/
def pageOf (a : Nat) : Nat := a - a % Config.slotsPerPage

/-- The pages that hold the rest of the units a write covers in part. -/
def partPages (s : State) (e : Docket) : List Nat := (((partUnits s e).map (unitSlotList s e.sqe.nsid)).flatten.map pageOf).dedup

/-- A unit reads as Unrecovered Read Error, given the pages that failed. -/
def unitBad (s : State) (nsid : Nat) (failed : List Nat) (u : Nat) : Bool :=
  (match locate s nsid u with
    | .uncorr => true
    | .broken => true
    | .packed a => (packedData s a).isNone
    | _ => false) || (unitSlotList s nsid u).any (fun a => failed.contains (pageOf a))

/-- A broken map entry among units that are read is entered in the Persistent Event Log (R91). -/
def noteUnits (s : State) (nsid : Nat) (us : List Nat) : State :=
  (us.filter (fun u => locate s nsid u == .broken)).foldl (fun s u => logPel s "illegal map entry or erased slot" nsid u) s

/-- The rest of a write's units has been read; a unit that cannot be read ends the write (R84, R91). -/
def finishPart (s : State) (d : Nat) (failed : List Nat) : State :=
  let e := getDk s d
  let us := partUnits s e
  let s := noteUnits s e.sqe.nsid us
  let bad := (us.filter (unitBad s e.sqe.nsid failed)).length
  if bad ≠ 0 then ioFail (bump s 0x4030 6 bad) d .unrecoveredReadError
  else stepThree (modDk s d (fun e => { e with reads := [], failed := [], partRead := false })) d

/-- A write that passed the checks of every command: place and capacity, then the rest of the units it covers
in part is read, then step 3. -/
def startWrite (s : State) (d : Nat) (data : List Byte) : State :=
  let e := getDk s d
  let n := getNs s e.sqe.nsid
  let wantsData := e.sqe.kind != .writeZeroes && e.sqe.kind != .writeUncorrectable
  if wantsData ∧ data.length ≠ e.sqe.nlb * lbaBytes n.lbaf then ioFail s d .dataTransferError
  else if n.zoned then
    match zonedPlace s e.sqe with
    | .error st => ioFail s d st
    | .ok (s, p) =>
      stepThree (modDk s d (fun e => { e with data := if wantsData then data else List.replicate (e.sqe.nlb * lbaBytes n.lbaf) 0, zoneAt := some p, aux := (p.1 * zoneSize + p.2.1) / lbaSlots n.lbaf })) d
  else if overCapacity s e.sqe then ioFail s d .capacityExceeded
  else
    let ps := partPages s e
    let s := modDk s d (fun e => { e with data := data, reads := ps, failed := [], partRead := true })
    if ps.isEmpty then finishPart s d [] else s

/-! ### Reads -/

/-- Map units of a run of LBAs. -/
def rangeUnits (s : State) (nsid slba nlb : Nat) : List Nat := cmdUnits s { emptySqe with nsid := nsid, slba := slba, nlb := nlb }

/-- The LBA ranges a command reads. -/
def readRanges (q : Sqe) : List (Nat × Nat) := if q.kind = .copy then q.ranges else [(q.slba, q.nlb)]

/-- The pages a command reads. -/
def pagesFor (s : State) (q : Sqe) : List Nat :=
  (((readRanges q).map (fun r => (rangeUnits s q.nsid r.1 r.2).map (fun u => (unitSlotList s q.nsid u).map pageOf))).flatten.flatten).dedup

/-- The bytes of a run of LBAs. -/
def lbaData (s : State) (nsid slba nlb : Nat) : List Byte :=
  let n := getNs s nsid
  let k := unitLbas n.lbaf
  ((((rangeUnits s nsid slba nlb).map (unitData s nsid)).flatten).drop (slba % k * lbaBytes n.lbaf)).take (nlb * lbaBytes n.lbaf)

/-- The units a command reads. -/
def readUnits (s : State) (q : Sqe) : List Nat := ((readRanges q).map (fun r => rangeUnits s q.nsid r.1 r.2)).flatten

/-- Units of a command that read as Unrecovered Read Error, given the pages that failed. -/
def badUnits (s : State) (q : Sqe) (failed : List Nat) : Nat := ((readUnits s q).filter (unitBad s q.nsid failed)).length

/-- Broken map entries that a command reads are entered in the Persistent Event Log. -/
def noteBroken (s : State) (q : Sqe) : State := noteUnits s q.nsid (readUnits s q)

/-- A Compare, Verify, Read or Copy whose pages are all read (R60, R140). -/
def finishRead (s : State) (d : Nat) (failed : List Nat) : State :=
  let e := getDk s d
  let units := ((readRanges e.sqe).map (fun r => rangeUnits s e.sqe.nsid r.1 r.2)).flatten
  let s := bump s 0x7060 1 (4096 * ((units.map (fun u => (unitSlotList s e.sqe.nsid u).length)).sum))
  let s := bump s 0x7040 6 (units.filter (fun u => match locate s e.sqe.nsid u with | .packed a => (packedData s a).isNone | _ => false)).length
  let s := noteBroken s e.sqe
  let bad := badUnits s e.sqe failed
  if bad ≠ 0 then ioFail (bump s 0x4030 6 bad) d .unrecoveredReadError
  else
    let n := e.sqe.nlb * lbaBytes (getNs s e.sqe.nsid).lbaf
    let data := ((readRanges e.sqe).map (fun r => lbaData s e.sqe.nsid r.1 r.2)).flatten
    match e.sqe.kind with
    | .read => ioDone { s with host := { s.host with bytesRead := s.host.bytesRead + n } } d .success 0 0 (.bytes data)
    | .compare => if data = e.data then ioOk s d else ioFail s d .compareFailure
    | .copy => startWrite (modDk s d (fun e => { e with reads := [], failed := [] })) d data
    | _ => ioOk s d

/-- A command's page reads are issued; with no page to read it ends at once. -/
def startRead (s : State) (d : Nat) (data : List Byte) : State :=
  let e := getDk s d
  let ps := pagesFor s e.sqe
  let s := modDk s d (fun e => { e with data := data, reads := ps })
  if ps.isEmpty then finishRead s d [] else s

end Sys2Proof.Machine
end

