-- ==== Sys2Proof/Machine/BerthCmds.lean ====
section
/-!
DEFINITION. The meanings of the berth pool's commands: ALLOC, FREE, SHARE, RELEASE, RECLAIM (R161 to R172).
-/
namespace Sys2Proof.Machine

/-- A row of the pool: the requester of Table 5.2 asks with a record of this operation, or of a
reserved one. A lighter thread's record whose RESULT breaks R256 is refused at the core. -/
def berthRow (s : State) (op : Nat) (who : Requester) (r : BerthReq) : Res :=
  .next (when (requesterOk s who && domainOn s 1 && (brOp r == op || decide (5 ≤ brOp r))) s
    (if 11 ≤ who.port ∧ who.port < 19 ∧ !resultOk s who.owner r.w2.toNat then raiseFault s who.owner 5
     else settleAll (berthRequest s ⟨who, tagOf who, r⟩)))

def execAlloc (who : Requester) (r : BerthReq) (s : State) : Res := berthRow s 0 who r
def execFree (who : Requester) (r : BerthReq) (s : State) : Res := berthRow s 1 who r
def execShare (who : Requester) (r : BerthReq) (s : State) : Res := berthRow s 2 who r
def execBerthRelease (who : Requester) (r : BerthReq) (s : State) : Res := berthRow s 3 who r
def execReclaim (who : Requester) (r : BerthReq) (s : State) : Res := berthRow s 4 who r

end Sys2Proof.Machine
end

