-- ==== Sys2Proof/Machine/Float.lean ====
section
/-!
DEFINITION. The floating-point arithmetic of vector lanes (R245, R246): binary32, binary64 and
bf16, round to nearest even, subnormals taken and given as zero, one default NaN. Operations are
computed exactly on integers and rounded once.
-/
namespace Sys2Proof.Machine

/-- A format: exponent and fraction widths. -/
structure FFmt where
  ew : Nat
  mw : Nat
  deriving DecidableEq, Repr

def fBf16 : FFmt := ⟨8, 7⟩
def fF32 : FFmt := ⟨8, 23⟩
def fF64 : FFmt := ⟨11, 52⟩

/-- A number read from a lane: a NaN, an infinity, or ±m × 2^e. -/
inductive FVal where
  | nan
  | inf (neg : Bool)
  | num (neg : Bool) (m : Nat) (e : Int)
  deriving DecidableEq, Repr

def fBias (f : FFmt) : Int := 2 ^ (f.ew - 1) - 1

/-- The bits of an infinity. -/
def fInfBits (f : FFmt) (neg : Bool) : Nat :=
  b2n neg * 2 ^ (f.ew + f.mw) + (2 ^ f.ew - 1) * 2 ^ f.mw

/-- The bits of the default quiet NaN (R245). -/
def fNanBits (f : FFmt) : Nat := (2 ^ f.ew - 1) * 2 ^ f.mw + 2 ^ (f.mw - 1)

/-- The value of a lane; a subnormal is a zero of its sign. -/
def fDecode (f : FFmt) (bits : Nat) : FVal :=
  let neg := bitOf bits (f.ew + f.mw)
  let ex := bits / 2 ^ f.mw % 2 ^ f.ew
  let fr := bits % 2 ^ f.mw
  if ex = 2 ^ f.ew - 1 then (if fr = 0 then .inf neg else .nan)
  else if ex = 0 then .num neg 0 0
  else .num neg (2 ^ f.mw + fr) (ex - fBias f - f.mw)

/-- `m` divided by 2^`k`, rounded to nearest even. -/
def rneShift (m k : Nat) : Nat :=
  let q := m / 2 ^ k
  let r := m % 2 ^ k
  if 2 * r > 2 ^ k ∨ (2 * r = 2 ^ k ∧ q % 2 = 1) then q + 1 else q

/-- The lane nearest to ±m × 2^e (R245): rounded with an unbounded exponent first; below the least
normal number a zero, above the greatest an infinity. -/
def fRound (f : FFmt) (neg : Bool) (m : Nat) (e : Int) : Nat :=
  if m = 0 then b2n neg * 2 ^ (f.ew + f.mw)
  else
    let l := Nat.log2 m
    let q := if l ≤ f.mw then m * 2 ^ (f.mw - l) else rneShift m (l - f.mw)
    let up := decide (q = 2 ^ (f.mw + 1))
    let q := if up then 2 ^ f.mw else q
    let ex : Int := (l : Int) + e + (if up then 1 else 0) + fBias f
    if ex < 1 then b2n neg * 2 ^ (f.ew + f.mw)
    else if ex ≥ 2 ^ f.ew - 1 then fInfBits f neg
    else b2n neg * 2 ^ (f.ew + f.mw) + ex.toNat * 2 ^ f.mw + (q - 2 ^ f.mw)

/-- The lane of a value. -/
def fEncode (f : FFmt) : FVal → Nat
  | .nan => fNanBits f
  | .inf n => fInfBits f n
  | .num n m e => fRound f n m e

/-- Exact sum of two values. -/
def fvAdd : FVal → FVal → FVal
  | .nan, _ => .nan
  | _, .nan => .nan
  | .inf a, .inf b => if a = b then .inf a else .nan
  | .inf a, _ => .inf a
  | _, .inf b => .inf b
  | .num na ma ea, .num nb mb eb =>
    let lo := if ea ≤ eb then ea else eb
    let ia : Int := (ma * 2 ^ (ea - lo).toNat : Nat)
    let ib : Int := (mb * 2 ^ (eb - lo).toNat : Nat)
    let sum := (if na then -ia else ia) + (if nb then -ib else ib)
    if sum = 0 then .num (na && nb) 0 0
    else .num (decide (sum < 0)) sum.natAbs lo

/-- Exact product of two values. -/
def fvMul : FVal → FVal → FVal
  | .nan, _ => .nan
  | _, .nan => .nan
  | .inf a, .inf b => .inf (a != b)
  | .inf a, .num b m _ => if m = 0 then .nan else .inf (a != b)
  | .num b m _, .inf a => if m = 0 then .nan else .inf (a != b)
  | .num na ma ea, .num nb mb eb => .num (na != nb) (ma * mb) (ea + eb)

def fvNeg : FVal → FVal
  | .nan => .nan
  | .inf a => .inf (!a)
  | .num n m e => .num (!n) m e

/-- Strictly less, for values that are no NaN; `zeroSigned` orders −0 below +0. -/
def fvLt (zeroSigned : Bool) : FVal → FVal → Bool
  | .nan, _ => false
  | _, .nan => false
  | .inf a, .inf b => a && !b
  | .inf a, .num .. => a
  | .num .., .inf b => !b
  | .num na ma ea, .num nb mb eb =>
    if ma = 0 ∧ mb = 0 then zeroSigned && na && !nb
    else
      let lo := if ea ≤ eb then ea else eb
      let ia : Int := (ma * 2 ^ (ea - lo).toNat : Nat)
      let ib : Int := (mb * 2 ^ (eb - lo).toNat : Nat)
      decide ((if na then -ia else ia) < (if nb then -ib else ib))

/-- A lane operation of format `f`: bf16 is computed as binary32 and rounded again (R245). -/
def fFinish (f : FFmt) (v : FVal) : Nat :=
  if f = fBf16 then fEncode fBf16 (fDecode fF32 (fEncode fF32 v)) else fEncode f v

def fAdd (f : FFmt) (a b : Nat) : Nat := fFinish f (fvAdd (fDecode f a) (fDecode f b))
def fSub (f : FFmt) (a b : Nat) : Nat := fFinish f (fvAdd (fDecode f a) (fvNeg (fDecode f b)))
def fMul (f : FFmt) (a b : Nat) : Nat := fFinish f (fvMul (fDecode f a) (fDecode f b))

/-- d + a × b, or d − a × b, with one rounding. -/
def fFma (f : FFmt) (sub : Bool) (d a b : Nat) : Nat :=
  let p := fvMul (fDecode f a) (fDecode f b)
  fFinish f (fvAdd (fDecode f d) (if sub then fvNeg p else p))

/-- Minimum: a NaN if either operand is one; −0 below +0. -/
def fMin (f : FFmt) (a b : Nat) : Nat :=
  match fDecode f a, fDecode f b with
  | .nan, _ => fNanBits f
  | _, .nan => fNanBits f
  | x, y => fEncode f (if fvLt true y x then y else x)

/-- Maximum, as `fMin`. -/
def fMax (f : FFmt) (a b : Nat) : Nat :=
  match fDecode f a, fDecode f b with
  | .nan, _ => fNanBits f
  | _, .nan => fNanBits f
  | x, y => fEncode f (if fvLt true x y then y else x)

def fLt (f : FFmt) (a b : Nat) : Bool := fvLt false (fDecode f a) (fDecode f b)
def fLe (f : FFmt) (a b : Nat) : Bool :=
  match fDecode f a, fDecode f b with
  | .nan, _ => false
  | _, .nan => false
  | x, y => !fvLt false y x
def fEq (f : FFmt) (a b : Nat) : Bool := fLe f a b && fLe f b a

/-- The integer lane of `w` bits as a signed number. -/
def laneInt (w v : Nat) : Int := if v % 2 ^ w < 2 ^ (w - 1) then (v % 2 ^ w : Nat) else (v % 2 ^ w : Nat) - 2 ^ w

/-- The lane of a signed number, wrapping. -/
def intLane (w : Nat) (i : Int) : Nat := (i % 2 ^ w).toNat

/-- Saturation to the signed range of `w` bits. -/
def satS (w : Nat) (i : Int) : Nat :=
  if i < -2 ^ (w - 1) then 2 ^ (w - 1)
  else if i > 2 ^ (w - 1) - 1 then 2 ^ (w - 1) - 1
  else intLane w i

/-- Saturation to the unsigned range of `w` bits. -/
def satU (w : Nat) (i : Int) : Nat :=
  if i < 0 then 0 else if i > 2 ^ w - 1 then 2 ^ w - 1 else i.toNat

/-- Float to signed integer of `w` bits: nearest even, saturating; a NaN gives 0 (R246). -/
def fToInt (f : FFmt) (w : Nat) (a : Nat) : Nat :=
  match fDecode f a with
  | .nan => 0
  | .inf n => satS w (if n then -2 ^ w else 2 ^ w)
  | .num n m e =>
    let v : Int := if e < 0 then (rneShift m (-e).toNat : Nat) else (m * 2 ^ e.toNat : Nat)
    satS w (if n then -v else v)

/-- Signed integer of `w` bits to float, rounded once. -/
def fOfInt (f : FFmt) (w : Nat) (a : Nat) : Nat :=
  let i := laneInt w a
  fRound f (decide (i < 0)) i.natAbs 0

/-- Float to float, rounded once. -/
def fToF (src dst : FFmt) (a : Nat) : Nat := fEncode dst (fDecode src a)

end Sys2Proof.Machine
end

