-- ==== Sys2Proof/Machine/CustomsEval.lean ====
section
/-!
DEFINITION. Customs descriptors: the checks of Table 10.5 and the evaluation of records
(R283 to R293).
-/
namespace Sys2Proof.Machine

/-! ### Fields of a descriptor (Table 10.1) -/

def dByte (d : List Byte) (i : Nat) : Nat := recNat d i 1
def dRfmt (d : List Byte) : Nat := bitsOf (dByte d 6) 0 1
def dPwCode (d : List Byte) : Nat := bitsOf (dByte d 6) 2 3
def dPw (d : List Byte) : Nat := if dPwCode d = 0 then 1 else if dPwCode d = 1 then 2 else 4
def dPinc (d : List Byte) : Bool := bitOf (dByte d 6) 4
def dNext (d : List Byte) : Nat := dByte d 7
def dRlen (d : List Byte) : Nat := recNat d 8 2
def dNcmp (d : List Byte) : Nat := dByte d 10
def dNterm (d : List Byte) : Nat := dByte d 11
def dNproj (d : List Byte) : Nat := dByte d 12
def dNoOut (d : List Byte) : Bool := bitOf (dByte d 13) 0
def dExtOff (d : List Byte) (i : Nat) : Nat := recNat d (32 + 4 * i) 2
def dExtWidth (d : List Byte) (i : Nat) : Nat := bitsOf (dByte d (34 + 4 * i)) 0 4
def dExtBe (d : List Byte) (i : Nat) : Bool := bitOf (dByte d (35 + 4 * i)) 0
def dExtSigned (d : List Byte) (i : Nat) : Bool := bitOf (dByte d (35 + 4 * i)) 1
def dCmp (d : List Byte) (i : Nat) : Nat := recNat d (96 + 4 * i) 4
def dConst (d : List Byte) (i : Nat) : Nat := recNat d (160 + 16 * i) 16
def dTrue (d : List Byte) (i : Nat) : Nat := recNat d (416 + 4 * i) 2
def dFalse (d : List Byte) (i : Nat) : Nat := recNat d (418 + 4 * i) 2
def dProj (d : List Byte) (i : Nat) : Nat := bitsOf (dByte d (480 + i)) 0 3
def dCnt (d : List Byte) (i : Nat) : Nat := recNat d (496 + 4 * i) 4

/-- A failure at a byte offset, if the condition holds. -/
def failAt (c : Bool) (off code : Nat) : List (Nat × Nat) := if c then [(off, code)] else []

/-- Every check of Table 10.5 that fails, as byte offset and code. -/
def descFails (d : List Byte) (gran : Nat) : List (Nat × Nat) :=
  let rfmt := dRfmt d
  let bytesZero (lo n : Nat) := ((List.range n).map (fun i => failAt (dByte d (lo + i) != 0) (lo + i) 2)).flatten
  failAt (recNat d 0 4 != 0x54535543) 0 1 ++ failAt (recNat d 4 2 != 1) 4 1 ++
  failAt (recNat d 28 4 != crc32c (d.take 28 ++ (d.drop 32).take 480)) 28 1 ++
  failAt (bitsOf (dByte d 6) 5 7 != 0) 6 2 ++
  failAt (decide (2 ≤ rfmt) || dPwCode d == 3 || (rfmt == 0 && (dPwCode d != 0 || dPinc d))) 6 3 ++
  failAt (decide (16 < dNext d)) 7 5 ++
  failAt (if rfmt = 0 then dRlen d == 0 || decide (4096 < dRlen d) else dRlen d != 0) 8 4 ++
  failAt (decide (16 < dNcmp d)) 10 5 ++ failAt (decide (16 < dNterm d)) 11 5 ++ failAt (decide (16 < dNproj d)) 12 5 ++
  failAt (bitsOf (dByte d 13) 1 7 != 0) 13 2 ++ bytesZero 14 14 ++
  ((List.range 16).map (fun i =>
    let o := 32 + 4 * i
    if i < dNext d then
      failAt (dExtWidth d i == 0 || decide (16 < dExtWidth d i)) (o + 2) 6 ++
      failAt (decide ((if rfmt = 0 then dRlen d else gran) < dExtOff d i + dExtWidth d i)) o 6 ++
      failAt (bitsOf (dByte d (o + 2)) 5 7 != 0) (o + 2) 2 ++ failAt (bitsOf (dByte d (o + 3)) 2 7 != 0) (o + 3) 2
    else bytesZero o 4)).flatten ++
  ((List.range 16).map (fun i =>
    let o := 96 + 4 * i
    let w := dCmp d i
    let op := bitsOf w 4 6
    if i < dNcmp d then
      failAt (decide (dNext d ≤ bitsOf w 0 3) || decide (5 ≤ op) ||
        (bitsOf w 12 15 != 0 && op != 2 && op != 4) ||
        (if op = 3 then bitsOf w 16 20 == 0 || decide (dExtWidth d (bitsOf w 0 3) < bitsOf w 16 20) else bitsOf w 16 20 != 0)) o 7 ++
      failAt (bitsOf w 21 31 != 0) o 2
    else bytesZero o 4)).flatten ++
  ((List.range 16).map (fun i =>
    let o := 416 + 4 * i
    if i < dNterm d then
      failAt (decide (2 ^ dNcmp d ≤ dTrue d i) || decide (2 ^ dNcmp d ≤ dFalse d i) || (dTrue d i &&& dFalse d i) != 0) o 8
    else bytesZero o 4)).flatten ++
  ((List.range 16).map (fun i =>
    let o := 480 + i
    if i < dNproj d then
      failAt (decide (dNext d ≤ dProj d i)) o 9 ++ failAt (bitsOf (dByte d o) 4 7 != 0) o 2
    else bytesZero o 1)).flatten ++
  ((List.range 4).map (fun i =>
    let o := 496 + 4 * i
    let w := dCnt d i
    let mode := bitsOf w 0 1
    let cond := bitsOf w 4 9
    if mode = 0 then bytesZero o 4
    else
      failAt (mode == 3 || !(decide (cond ≤ 1) || (decide (16 ≤ cond) && decide (cond < 16 + dNterm d))) ||
        (if mode = 2 then decide (dNext d ≤ bitsOf w 10 13) || decide (8 < dExtWidth d (bitsOf w 10 13)) else bitsOf w 10 13 != 0)) o 0x0A ++
      failAt (bitsOf w 2 3 != 0 || bitsOf w 14 31 != 0) o 2)).flatten

/-- The failure at the lowest byte offset, with its code; none for a valid descriptor (R288). -/
def descCheck (d : List Byte) (gran : Nat) : Option (Nat × Nat) :=
  (descFails d gran).foldl (fun b f =>
    match b with
    | none => some f
    | some g => if f.1 < g.1 ∨ (f.1 = g.1 ∧ f.2 < g.2) then some f else some g) none

/-! ### Records -/

/-- Fixed-length records (R284). -/
def fixedRecords (g : List Byte) (rlen : Nat) : List (List Byte) :=
  (List.range (g.length / rlen)).map (fun k => (g.drop (k * rlen)).take rlen)

/-- Length-prefixed records of the rest of a granule, and whether parsing met a length error
(R285). -/
def prefixRecords (pw : Nat) (pinc : Bool) : Nat → List Byte → List (List Byte) × Bool
  | 0, _ => ([], false)
  | fuel + 1, g =>
    if g.length < pw then ([], false)
    else
      let v := ofLe (g.take pw)
      let len := if pinc then v else v + pw
      if v = 0 then ([], false)
      else if g.length < len ∨ (pinc ∧ v < pw) then ([], true)
      else
        let r := prefixRecords pw pinc fuel (g.drop len)
        (g.take len :: r.1, r.2)

def granuleRecords (d g : List Byte) : List (List Byte) × Bool :=
  if dRfmt d = 0 then (fixedRecords g (dRlen d), false) else prefixRecords (dPw d) (dPinc d) g.length g

/-- The stored bytes of a field; none where it is missing (R292). -/
def fieldBytes (d r : List Byte) (i : Nat) : Option (List Byte) :=
  if r.length < dExtOff d i + dExtWidth d i then none
  else some ((r.drop (dExtOff d i)).take (dExtWidth d i))

/-- A field's value as a 128-bit number (R289). -/
def fieldValue (d : List Byte) (i : Nat) (bs : List Byte) : Nat :=
  let n := ofLe (if dExtBe d i then bs.reverse else bs)
  if dExtSigned d i then intLane 128 (laneInt (8 * bs.length) n) else n

/-- One comparator on a record (Table 10.3). -/
def cmpEval (d r : List Byte) (j : Nat) : Bool :=
  let w := dCmp d j
  let i := bitsOf w 0 3
  match fieldBytes d r i with
  | none => bitOf w 7
  | some bs =>
    let f := fieldValue d i bs
    let ca := dConst d (bitsOf w 8 11)
    let cb := dConst d (bitsOf w 12 15)
    let le (a b : Nat) : Bool := if dExtSigned d i then decide (laneInt 128 a ≤ laneInt 128 b) else decide (a ≤ b)
    match bitsOf w 4 6 with
    | 0 => f == ca
    | 1 => !le ca f
    | 2 => le ca f && le f cb
    | 3 => bs.take (bitsOf w 16 20) == (leBytes 16 ca).take (bitsOf w 16 20)
    | _ => (f &&& cb) == ca

/-- One term (R290). -/
def termEval (d r : List Byte) (j : Nat) : Bool :=
  (List.range (dNcmp d)).all (fun c =>
    (!bitOf (dTrue d j) c || cmpEval d r c) && (!bitOf (dFalse d j) c || !cmpEval d r c))

def recMatches (d r : List Byte) : Bool :=
  dNterm d == 0 || (List.range (dNterm d)).any (termEval d r)

/-- What a record adds to counter `k` (R291). -/
def cntAdd (d r : List Byte) (k : Nat) : Nat :=
  let w := dCnt d k
  let cond := bitsOf w 4 9
  let holds := if cond = 0 then recMatches d r else if cond = 1 then true else termEval d r (cond - 16)
  if !holds then 0
  else match bitsOf w 0 1 with
    | 1 => 1
    | 2 =>
      match fieldBytes d r (bitsOf w 10 13) with
      | none => 0
      | some bs => fieldValue d (bitsOf w 10 13) bs % 2 ^ 64
    | _ => 0

/-- The output record of a matching record (R293). -/
def outRecord (d r : List Byte) (gran ord : Nat) : List Byte :=
  let n := dNproj d
  let body := if n = 0 then r else
    ((List.range n).map (fun p =>
      (fieldBytes d r (dProj d p)).getD (List.replicate (dExtWidth d (dProj d p)) 0))).flatten
  let present := if n = 0 then 0 else
    ((List.range n).map (fun p => b2n (fieldBytes d r (dProj d p)).isSome * 2 ^ p)).sum
  let len := ceilDiv (12 + body.length) 4 * 4
  padTo len (leBytes 2 len ++ leBytes 2 present ++ leBytes 4 gran ++ leBytes 2 ord ++ leBytes 2 0 ++ body)

end Sys2Proof.Machine
end

