-- ==== Sys2Proof/Machine/CustomsOps.lean ====
section
/-!
DEFINITION. Customs scans: their stores, output berths, and their ends (R294 to R302).
-/
namespace Sys2Proof.Machine

def getScan (s : State) (i : Nat) : Scan := tabGet Scan.empty s.customs.scans i
def setScan (s : State) (i : Nat) (v : Scan) : State :=
  { s with customs := { s.customs with scans := tabSet Scan.empty s.customs.scans i v } }
def modScan (s : State) (i : Nat) (g : Scan → Scan) : State := setScan s i (g (getScan s i))

/-- The owner tag, port and index of customs unit `u` (0 to 55). -/
def unitTag (u : Nat) : Nat := 5 * 2 ^ 20 + u
def unitReq (u : Nat) : Requester := { port := u / 8, index := u % 8, owner := 0 }

/-- The 64-byte header of an output berth (Table 10.7). -/
def berthHeader (sc : Scan) (b : CBerth) : List Byte :=
  padTo 64 (leBytes 4 sc.tag ++ leBytes 1 b.unit ++ leBytes 1 (b2n b.last) ++ leBytes 2 0 ++
    leBytes 4 b.records ++ leBytes 4 b.bytes.length ++ leBytes 8 sc.produced ++ leBytes 4 b.firstG ++ leBytes 4 b.lastG)

/-- The result record (Table 10.8) from GRANULES_READ on. -/
def resultCounts (sc : Scan) : List Byte :=
  leBytes 8 sc.granules ++ leBytes 8 sc.skipped ++ leBytes 8 sc.packed ++ leBytes 8 sc.unreadable ++
    leBytes 8 sc.firstBad ++ leBytes 8 sc.records ++ leBytes 8 sc.matched ++ leBytes 8 sc.lenErr ++
    leBytes 8 sc.outBytes ++
    ((List.range 4).map (fun k => leBytes 8 (((List.range 56).map (fun u => tabGet 0 sc.counters (u * 4 + k))).sum % 2 ^ 64))).flatten ++
    List.replicate 128 0

/-- The SCAN result word (R299). -/
def scanWord (code check tag : Nat) : W64 := BitVec.ofNat 64 (code + check * 256 + tag * 2 ^ 32)

/-- A thread scan's result word, then a token on its end channel; a host scan's completion. -/
def scanReport (s : State) (sc : Scan) (code check : Nat) (st : Status) (dw0 dw1 : Nat) : State :=
  if sc.fromHost then (if dkUsed s sc.owner then ioDone s sc.owner st dw0 dw1 .none else s)
  else
    postToken (deliver s sc.owner sc.result (scanWord code check sc.tag)) 22 sc.space sc.endCh 1 false

/-- A record is evaluated: its counts and its counters (R290, R291). -/
def countRecord (i u : Nat) (d : List Byte) (s : State) (r : List Byte) : State :=
  let m := recMatches d r
  let s := modScan s i (fun sc => { sc with
    records := sc.records + 1, matched := sc.matched + b2n m
    counters := (List.range 4).foldl (fun t k => tabMod 0 t (u * 4 + k) (fun v => (v + cntAdd d r k) % 2 ^ 64)) sc.counters })
  bump (bump s 0x7030 0x04 1) 0x7030 0x05 (b2n m)

/-- A granule is handled. -/
def granuleDone (s : State) (i g : Nat) (f : Scan → Scan) : State :=
  modScan s i (fun sc => { f sc with done := g :: sc.done })

/-- A granule has been parsed to its end (R285). -/
def granuleParsed (s : State) (i g : Nat) (lenErr : Bool) : State :=
  bump (bump (granuleDone s i g (fun sc => { sc with granules := sc.granules + 1, lenErr := sc.lenErr + b2n lenErr }))
    0x7030 0x03 1) 0x7030 0x06 (b2n lenErr)

/-- The pages a unit has read are still evaluated when a scan ends early, without output (R302). -/
def restEvaluated (i : Nat) (s : State) (e : Nat × ScanRest) : State :=
  granuleParsed (e.2.recs.foldl (countRecord i e.1 (getScan s i).desc) s) i e.2.gran e.2.lenErr

/-- A unit's wait for a far berth ends, unless another scan holds records back there. -/
def unitGivesUp (i : Nat) (s : State) (u : Nat) : State :=
  if s.customs.scans.any (fun e => e.1 != i && e.2.rest.any (fun x => x.1 == u)) then s
  else { s with pool := { s.pool with
    farWait := s.pool.farWait.filter (fun w => w.tag != unitTag u), held := s.pool.held.filter (fun w => w.tag != unitTag u) } }

/-- A running scan ends with a code (Table 10.10): pages already read are evaluated, its undelivered berths are
reclaimed, its result record is written unless a tenant reset forbids it, and its owner is told. -/
def scanFinish (s : State) (i code : Nat) (reset : Bool) : State :=
  let s := (getScan s i).rest.foldl (restEvaluated i) s
  let sc := getScan s i
  let s := (sc.rest.map Prod.fst).foldl (unitGivesUp i) s
  let s := (sc.open_.map (fun e => e.2.addr) ++ sc.closed.map (·.addr)).foldl reclaimBerth s
  let s := if sc.state = 1 ∨ reset then s else
    slmWrite (slmWrite s sc.space (sc.ringOff + 16) ([1, BitVec.ofNat 8 code] ++ List.replicate 6 0)) sc.space (sc.ringOff + 24) (resultCounts sc)
  let s := setScan s i Scan.empty
  if reset ∧ sc.fromHost then s
  else if code = 0 then scanReport s sc 0 0 .success (sc.produced % 2 ^ 32) (min sc.unreadable 0xFFFFFFFF)
  else scanReport s sc code 0 (.vendor 0x81) 0 0

/-- The scans a thread owns end with code 5 (R299, R302). -/
def endScansOf (s : State) (t : Nat) (reset : Bool) : State :=
  (s.customs.scans.filter (fun e => !e.2.fromHost && e.2.owner == t)).foldl (fun s e => scanFinish s e.1 5 reset) s

end Sys2Proof.Machine
end

