-- ==== Sys2Proof/Machine/EngineOps.lean ====
section
/-!
DEFINITION. What the compression and cipher engines share: lock registers and their FIFOs, the
ranges of jobs, results, and the forced release of a stopped holder (R309 to R314, R331).
-/
namespace Sys2Proof.Machine

/-- The engines of a kind. -/
def engTab (s : State) (cip : Bool) : Tab Engine := if cip then s.eng.cip else s.eng.comp
def getEng (s : State) (cip : Bool) (e : Nat) : Engine := tabGet Engine.free (engTab s cip) e
def setEng (s : State) (cip : Bool) (e : Nat) (v : Engine) : State :=
  if cip then { s with eng := { s.eng with cip := tabSet Engine.free s.eng.cip e v } }
  else { s with eng := { s.eng with comp := tabSet Engine.free s.eng.comp e v } }
def engCommon (s : State) (cip : Bool) : List EJob := if cip then s.eng.cipCommon else s.eng.compCommon
def setCommon (s : State) (cip : Bool) (l : List EJob) : State :=
  if cip then { s with eng := { s.eng with cipCommon := l } }
  else { s with eng := { s.eng with compCommon := l } }

/-- The open message of a cipher engine. -/
def getMsg (s : State) (e : Nat) : Option CMsg := tabGet none s.eng.msgs e
def setMsg (s : State) (e : Nat) (m : Option CMsg) : State :=
  { s with eng := { s.eng with msgs := tabSet none s.eng.msgs e m } }

/-- Token ports of the engines (Table 6.3), kinds of their owner tags (Table 5.3), and their
dictionary record. -/
def engPort (cip : Bool) : Nat := if cip then 10 else 9
def engKind (cip : Bool) : Nat := if cip then 4 else 3
def engDict (cip : Bool) : Nat := if cip then 0x7050 else 0x7040

/-- The engine is reserved for control firmware (R309, R331). -/
def engReserved (s : State) (cip : Bool) (e : Nat) : Bool := decide (32 ≤ e + dget s (engDict cip) 1)

/-! ### Ranges and results -/

/-- Bytes of a tenant's SLM, or of the berth window. -/
def rangeRead (s : State) (space : Nat) (slm : Bool) (a n : Nat) : List Byte :=
  if slm then slmRead s space a n else memRead s.dram a n
def rangeWrite (s : State) (space : Nat) (slm : Bool) (a : Nat) (bs : List Byte) : State :=
  if slm then slmWrite s space a bs else { s with dram := memWrite s.dram a bs }

/-- A thread may use a berth: it owns it or holds a claim (R169). -/
def berthHeldBy (s : State) (t a : Nat) : Bool :=
  let b := getBerth s a
  b.alloc && (b.owner == threadTag t || b.claims.contains (threadTag t))

/-- A range lies wholly within one far berth the thread owns or claims, or within its tenant's SLM
lease (R312). -/
def rangeOk (s : State) (t : Nat) (slm : Bool) (a n : Nat) : Bool :=
  n == 0 ||
  if slm then decide (a + n ≤ slmSize s (getThr s t).space)
  else match berthClass a with
    | some true =>
      let b := farBase + (a - farBase) / 65536 * 65536
      decide (a + n ≤ b + 65536) && berthHeldBy s t b
    | _ => false

/-- Two ranges overlap. -/
def rangesMeet (slm1 : Bool) (a1 n1 : Nat) (slm2 : Bool) (a2 n2 : Nat) : Bool :=
  slm1 == slm2 && decide (0 < n1) && decide (0 < n2) && decide (a1 < a2 + n2) && decide (a2 < a1 + n1)

/-- The words at a thread's RESULT, then its token if NOTIFY is set in the CHANNEL field (R162). -/
def engReply (s : State) (cip : Bool) (t result chan : Nat) (ws : List W64) : State :=
  if (getThr s t).state = 0 ∨ (getThr s t).state = 5 then s
  else
    let s := ((List.range ws.length).zip ws).foldl (fun s iw => deliver s t (result + 8 * iw.1) iw.2) s
    if bitOf chan 24 then postToken s (engPort cip) (getThr s t).space (bitsOf chan 0 23) 1 false else s

/-- The lock result word (R310). -/
def lockWord (code e : Nat) : W64 := BitVec.ofNat 64 (code + e * 256)
def lockReply (s : State) (cip : Bool) (j : EJob) (code e : Nat) : State :=
  engReply s cip j.thread (recNat j.record 8 8) (recNat j.record 4 4) [lockWord code e]

/-! ### Locks -/

/-- A waiter may hold the engine: it is not reserved, or the waiter is a control thread. -/
def mayLock (s : State) (cip : Bool) (e t : Nat) : Bool := !engReserved s cip e || isControl t

/-- A thread holds the engine from now on. -/
def lockTake (s : State) (cip : Bool) (e : Nat) (j : EJob) : State :=
  lockReply (setEng s cip e { (getEng s cip e) with holder := threadTag j.thread }) cip j 0 e

/-- A free engine serves its own FIFO, then the common one; waiters it has become reserved against
are answered with code 3 (R309, R320). -/
def serveLock (s : State) (cip : Bool) (e : Nat) : State :=
  let q := (getEng s cip e).fifo
  let out := q.filter (fun j => !mayLock s cip e j.thread)
  let rest := q.filter (fun j => mayLock s cip e j.thread)
  let s := setEng s cip e { (getEng s cip e) with fifo := rest }
  let s := out.foldl (fun s j => lockReply s cip j 3 e) s
  match rest with
  | j :: rest => lockTake (setEng s cip e { (getEng s cip e) with fifo := rest }) cip e j
  | [] =>
    if engReserved s cip e then s
    else match engCommon s cip with
      | j :: rest => lockTake (setCommon s cip rest) cip e j
      | [] => s

/-- Every destination byte an open message has written is filled with zeroes. -/
def wipeDests (s : State) (space : Nat) (m : CMsg) : State :=
  m.dests.foldl (fun s d => rangeWrite s space d.slm d.addr (List.replicate d.len 0)) s

/-- The open message of a cipher engine is closed without a tag (R331). -/
def closeMsg (s : State) (e space : Nat) : State :=
  match getMsg s e with
  | some m => setMsg (wipeDests s space m) e none
  | none => s

/-- The tag's thread. -/
def tagThread (tag : Nat) : Nat := if tag / 2 ^ 20 = 2 then 65536 + tag % 2 ^ 20 else tag % 2 ^ 20

/-- The engine passes from its holder: its state is zeroised, its owned berths reclaimed, the next
waiter served (R311). -/
def engRelease (s : State) (cip : Bool) (e : Nat) : State :=
  let g := getEng s cip e
  let s := if cip then closeMsg s e (getThr s (tagThread g.holder)).space else s
  let s := releaseOwner s (engKind cip * 2 ^ 20 + e)
  serveLock (setEng s cip e { g with holder := 0, jobs := [], unlocks := [] }) cip e

/-- Unlocks that waited for the holder's jobs take effect (R310). -/
def settleUnlock (s : State) (cip : Bool) (e : Nat) : State :=
  let g := getEng s cip e
  match g.jobs, g.unlocks with
  | [], j :: rest =>
    let s := lockReply s cip j 0 e
    let s := rest.foldl (fun s j => lockReply s cip j 3 e) s
    settleHarbour (engRelease s cip e)
  | _, _ => s

/-- A record of Table 11.2 is valid. -/
def lockRecOk (r : List Byte) (unlock : Bool) : Bool :=
  let e := recNat r 0 1
  (decide (e < 32) || (!unlock && e == 0xFF)) && decide (recNat r 1 1 ≤ 1) && recNat r 2 2 == 0 &&
    bitsOf (recNat r 4 4) 25 31 == 0

/-- The lowest-numbered free engine that is not reserved. -/
def freeEngine (s : State) (cip : Bool) : Option Nat :=
  lowestFrom (fun e => !engReserved s cip e && (getEng s cip e).holder == 0) 32 0

/-- A lock request is resolved (R309, R310). -/
def lockRequest (s : State) (cip : Bool) (j : EJob) : State :=
  let e := recNat j.record 0 1
  let wait := bitOf (recNat j.record 1 1) 0
  if !lockRecOk j.record false then lockReply s cip j 2 e
  else if e = 0xFF then
    match freeEngine s cip with
    | some f => lockTake s cip f j
    | none =>
      if wait ∧ (engCommon s cip).length < 1024 then setCommon s cip (engCommon s cip ++ [j])
      else lockReply s cip j 1 e
  else if !mayLock s cip e j.thread then lockReply s cip j 3 e
  else if (getEng s cip e).holder = 0 then lockTake s cip e j
  else if wait ∧ (getEng s cip e).fifo.length < 256 then
    setEng s cip e { (getEng s cip e) with fifo := (getEng s cip e).fifo ++ [j] }
  else lockReply s cip j 1 e

/-- An unlock request is resolved; behind jobs it waits (R310). -/
def unlockRequest (s : State) (cip : Bool) (j : EJob) : State :=
  let e := recNat j.record 0 1
  let g := getEng s cip e
  if !lockRecOk j.record true then lockReply s cip j 2 e
  else if g.holder ≠ threadTag j.thread then lockReply s cip j 3 e
  else settleUnlock (setEng s cip e { g with unlocks := g.unlocks ++ [j] }) cip e

/-- The locks a stopped holder holds are force-released, its waiting requests dropped (R311). -/
def releaseEngines (s : State) (tag : Nat) : State :=
  let t := tagThread tag
  let out (l : List EJob) : List EJob := l.filter (fun j => j.thread != t)
  [false, true].foldl (fun s cip =>
    let s := setCommon s cip (out (engCommon s cip))
    (List.range 32).foldl (fun s e =>
      let s := setEng s cip e { (getEng s cip e) with fifo := out (getEng s cip e).fifo }
      if (getEng s cip e).holder = tag then engRelease s cip e else s) s) s

/-- Engines no longer reserved, or free with waiters, serve them (R320). -/
def serveAll (s : State) (cip : Bool) : State :=
  (List.range 32).foldl (fun s e => if (getEng s cip e).holder = 0 then serveLock s cip e else s) s

end Sys2Proof.Machine
end

