-- ==== Sys2Proof/Machine/Alu.lean ====
section
/-!
DEFINITION. The integer operations of the I units (Table 8.2) at the operating width.
-/
namespace Sys2Proof.Machine

/-- The operations of the TRI format. -/
inductive AluOp where
  | add | sub | and | or | xor | andn | shl | shr | sar | rol
  | min | max | minu | maxu | mul | mulh | mulhu | div | divu | rem | remu
  | clz | ctz | popc | bswap
  deriving DecidableEq, Repr

/-- Latency (Table 9.1). -/
def aluLat : AluOp → Nat
  | .mul | .mulh | .mulhu => 3
  | .div | .divu | .rem | .remu => 20
  | .clz | .ctz | .popc | .bswap => 2
  | _ => 1

/-- Operations that take one operand: RB must be 0. -/
def aluUnary : AluOp → Bool
  | .clz | .ctz | .popc | .bswap => true
  | _ => false

/-- Operations whose 32-bit form is reserved. -/
def aluWideOnly : AluOp → Bool
  | .mulh | .mulhu => true
  | _ => false

/-- Trailing zeros of `v` within `n` bits. -/
def ctzFrom : Nat → Nat → Nat
  | 0, _ => 0
  | n + 1, v => if v % 2 = 1 then 0 else 1 + ctzFrom n (v / 2)

/-- Leading zeros of `v` at width `n`. -/
def clzFrom : Nat → Nat → Nat
  | 0, _ => 0
  | n + 1, v => if v / 2 ^ n % 2 = 1 then 0 else 1 + clzFrom n v

/-- Set bits of `v` within `n` bits. -/
def popFrom : Nat → Nat → Nat
  | 0, _ => 0
  | n + 1, v => v % 2 + popFrom n (v / 2)

/-- The operation on two numbers below 2^w, as a number below 2^w. -/
def aluNat (op : AluOp) (w a b : Nat) : Nat :=
  let sa := laneInt w a
  let sb := laneInt w b
  match op with
  | .add => (a + b) % 2 ^ w
  | .sub => intLane w (a - b)
  | .and => a &&& b
  | .or => a ||| b
  | .xor => a ^^^ b
  | .andn => a &&& (2 ^ w - 1 - b)
  | .shl => laneShlN w a (b % w)
  | .shr => a / 2 ^ (b % w)
  | .sar => intLane w (sa / 2 ^ (b % w))
  | .rol => laneShlN w a (b % w) + a / 2 ^ (w - b % w)
  | .min => if sa < sb then a else b
  | .max => if sa < sb then b else a
  | .minu => if a < b then a else b
  | .maxu => if a < b then b else a
  | .mul => a * b % 2 ^ w
  | .mulh => intLane w (sa * sb / 2 ^ w)
  | .mulhu => a * b / 2 ^ w
  | .div => if b = 0 then 2 ^ w - 1 else intLane w (sa.tdiv sb)
  | .divu => if b = 0 then 2 ^ w - 1 else a / b
  | .rem => if b = 0 then a else intLane w (sa.tmod sb)
  | .remu => if b = 0 then a else a % b
  | .clz => clzFrom w a
  | .ctz => ctzFrom w a
  | .popc => popFrom w a
  | .bswap => ofLe (leBytes (w / 8) a).reverse
where
  /-- Left shift by `k` at width `w`. -/
  laneShlN (w a k : Nat) : Nat := a * 2 ^ k % 2 ^ w

/-- The operation on registers: `fn` 0 at 64 bits, 1 on the low 32 bits with the result
sign-extended (R241). -/
def alu (op : AluOp) (fn : Nat) (a b : W64) : W64 :=
  if fn = 0 then BitVec.ofNat 64 (aluNat op 64 a.toNat b.toNat)
  else (BitVec.ofNat 32 (aluNat op 32 (a.toNat % 2 ^ 32) (b.toNat % 2 ^ 32))).signExtend 64

/-- The compares. -/
inductive CmpOp where
  | eq | ne | lt | ltu | le | leu | tst
  deriving DecidableEq, Repr

def cmpHolds (op : CmpOp) (a b : W64) : Bool :=
  match op with
  | .eq => a == b
  | .ne => a != b
  | .lt => a.slt b
  | .ltu => a.ult b
  | .le => a.sle b
  | .leu => a.ule b
  | .tst => (a &&& b) != 0

end Sys2Proof.Machine
end

