-- ==== Sys2Proof/Machine/Vector.lean ====
section
/-!
DEFINITION. Lanes of vector registers (R205, Table 7.11) and the lane operations of the V units
(Table 8.3).
-/
namespace Sys2Proof.Machine

/-- Lane width of element type `et`; 0 for the reserved code. -/
def etWidth (et : Nat) : Nat :=
  match et with
  | 0 => 8 | 1 => 16 | 2 => 32 | 3 => 64 | 4 => 16 | 5 => 32 | 6 => 64 | _ => 0

def etInt (et : Nat) : Bool := decide (et < 4)
def etFloat (et : Nat) : Bool := decide (4 ≤ et) && decide (et ≤ 6)
def etFmt (et : Nat) : FFmt := if et = 4 then fBf16 else if et = 5 then fF32 else fF64

/-- Number of lanes of width `w`. -/
def laneCount (w : Nat) : Nat := 512 / w

/-- Lane `i` of width `w`. -/
def lane (w : Nat) (v : V512) (i : Nat) : Nat := v.toNat / 2 ^ (w * i) % 2 ^ w

/-- The register whose lanes from 0 are listed. -/
def packLanes (w : Nat) : List Nat → Nat
  | [] => 0
  | x :: xs => x % 2 ^ w + 2 ^ w * packLanes w xs

/-- The register with lane i equal to `f i`. -/
def mkLanes (w : Nat) (f : Nat → Nat) : V512 :=
  BitVec.ofNat 512 (packLanes w ((List.range (laneCount w)).map f))

/-- VADD and VSUB of one lane: `fn` 0 wraps, 1 saturates signed, 2 saturates unsigned. -/
def laneAddSub (sub : Bool) (et fn a b : Nat) : Nat :=
  let w := etWidth et
  if etFloat et then (if sub then fSub (etFmt et) a b else fAdd (etFmt et) a b)
  else
    let op (x y : Int) : Int := if sub then x - y else x + y
    if fn = 1 then satS w (op (laneInt w a) (laneInt w b))
    else if fn = 2 then satU w (op a b)
    else intLane w (op a b)

/-- VMUL of one lane: `fn` 0 low half, 1 high half signed, 2 high half unsigned. -/
def laneMul (et fn a b : Nat) : Nat :=
  let w := etWidth et
  if etFloat et then fMul (etFmt et) a b
  else if fn = 1 then intLane w (laneInt w a * laneInt w b / 2 ^ w)
  else if fn = 2 then a * b / 2 ^ w % 2 ^ w
  else a * b % 2 ^ w

/-- VMIN and VMAX of one lane. -/
def laneMinMax (max : Bool) (et fn a b : Nat) : Nat :=
  let w := etWidth et
  if etFloat et then (if max then fMax (etFmt et) a b else fMin (etFmt et) a b)
  else
    let less := if fn = 1 then decide (a < b) else decide (laneInt w a < laneInt w b)
    if max then (if less then b else a) else (if less then a else b)

/-- VCMP of one lane. -/
def laneCmp (et fn a b : Nat) : Nat :=
  let w := etWidth et
  let r := if etFloat et then
      (if fn = 0 then fEq (etFmt et) a b else if fn = 1 then fLt (etFmt et) a b else fLe (etFmt et) a b)
    else if fn = 0 then decide (a = b)
    else if fn = 1 then decide (laneInt w a < laneInt w b)
    else if fn = 2 then decide (laneInt w a ≤ laneInt w b)
    else decide (a < b)
  if r then 2 ^ w - 1 else 0

/-- Shift of one lane; `k` is taken modulo the width. -/
def laneShl (w a k : Nat) : Nat := a * 2 ^ (k % w) % 2 ^ w
def laneShr (w : Nat) (arith : Bool) (a k : Nat) : Nat :=
  if arith then intLane w (laneInt w a / 2 ^ (k % w)) else a / 2 ^ (k % w)

/-- Conversion of one lane from element type `se` to `te` (R246). -/
def laneCvt (se te a : Nat) : Nat :=
  if etInt se then
    (if etInt te then satS (etWidth te) (laneInt (etWidth se) a)
     else fOfInt (etFmt te) (etWidth se) a)
  else
    (if etInt te then fToInt (etFmt se) (etWidth te) a else fToF (etFmt se) (etFmt te) a)

/-- VCVT: `fn` selects the half of the wider side; unwritten lanes keep their value (R246). -/
def vecCvt (se te fn : Nat) (old a : V512) : V512 :=
  let ws := etWidth se
  let wt := etWidth te
  let ls := laneCount ws
  let lt := laneCount wt
  if lt < ls then mkLanes wt (fun i => laneCvt se te (lane ws a (fn * lt + i)))
  else if ls < lt then
    mkLanes wt (fun i =>
      if fn * ls ≤ i ∧ i < fn * ls + ls then laneCvt se te (lane ws a (i - fn * ls)) else lane wt old i)
  else mkLanes wt (fun i => laneCvt se te (lane ws a i))

/-- VRED: sum, minimum or maximum over the lanes in ascending order. -/
def vecRed (et fn : Nat) (a : V512) : V512 :=
  let w := etWidth et
  let step (acc x : Nat) : Nat :=
    if fn = 0 then laneAddSub false et 0 acc x
    else laneMinMax (decide (fn = 2)) et 0 acc x
  let ls := (List.range (laneCount w)).map (lane w a)
  match ls with
  | [] => 0
  | x :: xs => BitVec.ofNat 512 (xs.foldl step x % 2 ^ w)

/-- Operations lane by lane over two registers. -/
def vecMap2 (et : Nat) (f : Nat → Nat → Nat) (a b : V512) : V512 :=
  let w := etWidth et
  mkLanes w (fun i => f (lane w a i) (lane w b i))

/-- VPERM: `fn` 0 takes the index modulo the lanes, 1 gives 0 beyond them. -/
def vecPerm (et fn : Nat) (a b : V512) : V512 :=
  let w := etWidth et
  let n := laneCount w
  mkLanes w (fun i =>
    let k := lane w b i
    if fn = 1 ∧ n ≤ k then 0 else lane w a (k % n))

/-- VSLD: lane i takes lane i + `k`; `fn` 0 fills with zero, 1 rotates. -/
def vecSld (et fn : Nat) (a : V512) (k : Nat) : V512 :=
  let w := etWidth et
  let n := laneCount w
  mkLanes w (fun i => if fn = 1 then lane w a ((i + k) % n) else if i + k < n then lane w a (i + k) else 0)

end Sys2Proof.Machine
end

