-- ==== Sys2Proof/Machine/IkCore.lean ====
section
/-!
DEFINITION. What a syllable reads: registers, bits, memory, records and feature registers; the
gathering of syllables into a bundle; and the code store as the decoder reads it (R204 to R225,
R233, R256).
-/
namespace Sys2Proof.Machine

/-! ### Banks -/

def curBank (x : Core) : Bank := if x.bank then x.bank1 else x.bank0
def setCur (x : Core) (b : Bank) : Core := if x.bank then { x with bank1 := b } else { x with bank0 := b }

/-- Register x[r]; x0 reads as 0 (Table 7.2). -/
def bankX (b : Bank) (r : Nat) : W64 := if r = 0 then 0 else tabGet 0 b.x r
def bankV (b : Bank) (r : Nat) : V512 := tabGet 0 b.v r

/-- A write to a register or private bit; writes to x0 are discarded. -/
def bankWr (b : Bank) : Wr → Bank
  | .x r w => if r = 0 then b else { b with x := tabSet 0 b.x r w }
  | .v r w => { b with v := tabSet 0 b.v r w }
  | .rc w => { b with rc := w }
  | .bit k w => { b with b := if w then b.b ||| BitVec.twoPow 1024 k else b.b &&& ~~~(BitVec.twoPow 1024 k) }
  | .mem _ _ => b

/-- One write takes effect: in the bank, in the scratchpad or at a fabric address. -/
def applyWr (s : State) (c : Nat) (w : Wr) : State :=
  match w with
  | .mem a bs =>
    if isLighterCore c then { s with ik := { s.ik with spad := memWrite s.ik.spad (c * 2 ^ 20 + a) bs } }
    else { s with dram := memWrite s.dram a bs }
  | w => modCore s c (fun x => setCur x (bankWr (curBank x) w))

/-- A write joins those in flight behind every write of no later cycle (R206). -/
def insertPend (p : Pend) : List Pend → List Pend
  | [] => [p]
  | q :: qs => if p.due < q.due then p :: q :: qs else q :: insertPend p qs

def sortPend (l : List Pend) : List Pend := l.foldl (fun acc p => insertPend p acc) []

/-- Every write in flight due by cycle `t` takes effect, in the order of R206. -/
def settle (s : State) (c t : Nat) : State :=
  let x := getCore s c
  let now := x.pend.filter (fun p => p.due ≤ t)
  let s := setCore s c { x with pend := x.pend.filter (fun p => t < p.due) }
  (sortPend now).foldl (fun s p => applyWr s c p.wr) s

/-! ### Reads at issue -/

def rdX (s : State) (c : Nat) (r : Nat) : W64 := bankX (curBank (getCore s c)) r
def rdV (s : State) (c : Nat) (r : Nat) : V512 := bankV (curBank (getCore s c)) r

/-- rc; inside a repeat, as the REP bundle read it (R253). -/
def rdRc (s : State) (c : Nat) : W16 :=
  let x := getCore s c
  match x.rep with
  | some r => r.rc
  | none => (curBank x).rc

/-- The space of the thread a core runs. -/
def coreThread (s : State) (c : Nat) : Nat :=
  match (getCore s c).phase with
  | .running t | .ended t | .switching t => t
  | .idle => 0
def coreSpace (s : State) (c : Nat) : Nat := if isLighterCore c then (getThr s (coreThread s c)).space else fwSpace

/-- The cluster whose shared bits a core uses; the control cores share set 8. -/
def bitCluster (c : Nat) : Nat := if isLighterCore c then clusterOf c else 8
def sharedSet (s : State) (c : Nat) : Nat := bitCluster c * 1025 + coreSpace s c
def sharedKey (s : State) (c k : Nat) : Nat := sharedSet s c * 1024 + (k - 1024)

/-- The cluster cycle in which the core's bundle issues. -/
def absCycle (s : State) (c : Nat) : Nat := (getCore s c).base + (getCore s c).cyc

/-- The value of a shared bit with the writes in flight that satisfy `p` applied in order. -/
def sharedView (s : State) (c k : Nat) (p : ShPend → Bool) : Bool :=
  let key := sharedKey s c k
  (tabGet [] s.ik.shPend (sharedSet s c)).foldl
    (fun v w => if w.key = key ∧ p w then w.val else v) (tabGet false s.ik.shared key)

def getStream (s : State) (c w : Nat) : Stream := tabGet Stream.closed (getCore s c).streams w
def setStream (s : State) (c w : Nat) (m : Stream) : State :=
  modCore s c (fun x => { x with streams := tabSet Stream.closed x.streams w m })

/-- The status bits (Table 7.5). -/
def statusBit (s : State) (c k : Nat) : Bool :=
  let x := getCore s c
  if k < 2112 then
    if isLighterCore c then
      let w := getStream s c ((k - 2048) / 4)
      match (k - 2048) % 4 with
      | 0 => w.isOpen
      | 1 => w.ready0
      | 2 => w.ready1
      | _ => w.sfault
    else false
  else if k = 2112 then x.poisoned
  else if k = 2113 then x.migrated
  else if k = 2114 then x.fresh
  else if k = 2115 then x.bank
  else false

/-- Bit variable b[k] as a syllable issued now reads it (R209 to R212). -/
def rdBit (s : State) (c k : Nat) : Bool :=
  if k < 1024 then (curBank (getCore s c)).b.getLsbD k
  else if k < 2048 then sharedView s c k (fun w => decide (w.issued + 3 ≤ absCycle s c) || !isLighterCore c)
  else statusBit s c k

/-! ### Memory of a core -/

/-- The window address of a lighter access: bits [19:0], rounded down to the size; a stream window's
address falls on its 8 KiB buffer (R213, R216). -/
def winNorm (a size : Nat) : Nat :=
  let a := a % 2 ^ 20 / size * size
  if a < 0x80000 then a else 0x80000 + (a - 0x80000) / 0x8000 * 0x8000 + a % 0x2000

/-- The bytes of a stored chunk over a byte read so far. -/
def overlay (a : Nat) (old : Byte) (w : Wr) : Byte :=
  match w with
  | .mem b bs => if b ≤ a ∧ a < b + bs.length then (bs[a - b]?).getD old else old
  | _ => old

/-- One byte of the core's memory with the stores in flight due by `t` applied. -/
def byteView (s : State) (c t a : Nat) : Byte :=
  let base := if isLighterCore c then tabGet 0 s.ik.spad (c * 2 ^ 20 + a) else tabGet 0 s.dram a
  (sortPend ((getCore s c).pend.filter (fun p => p.due ≤ t))).foldl (fun b p => overlay a b p.wr) base

def bytesView (s : State) (c t a : Nat) : Nat → List Byte
  | 0 => []
  | n + 1 => byteView s c t a :: bytesView s c t (a + 1) n

/-- A load: of a stream window not open, 0 (R216). -/
def loadAt (s : State) (c t a size : Nat) : List Byte :=
  if isLighterCore c then
    let a := winNorm a size
    if 0x80000 ≤ a ∧ !(getStream s c ((a - 0x80000) / 0x8000)).isOpen then List.replicate size 0
    else bytesView s c t a size
  else bytesView s c t a size

/-- The writes a store makes: none into a stream window that is not open, inbound, or whose half is
not READY (R216, R240, R268). -/
def storeAt (s : State) (c a : Nat) (bs : List Byte) : List Wr :=
  if isLighterCore c then
    let a := winNorm a bs.length
    if a < 0x80000 then [.mem a bs]
    else
      let w := getStream s c ((a - 0x80000) / 0x8000)
      if w.isOpen && w.outbound && (if a % 0x2000 < 4096 then w.ready0 else w.ready1) then [.mem a bs] else []
  else [.mem a bs]

/-- A control core's access lies in the harbour fabric's map (R218). -/
def fabricOk (a size : Nat) : Bool :=
  ((berthClass a).isSome && (berthClass (a + size - 1)).isSome) ||
    (Config.fabricMapped a && Config.fabricMapped (a + size - 1))

/-- The record of an X syllable issued now: read as a load issued in the next cycle would (R256). -/
def recordAt (s : State) (c ra len : Nat) : List Byte :=
  let a := (rdX s c ra).toNat
  let t := (getCore s c).cyc + 1
  if isLighterCore c then
    (List.range (ceilDiv len 8)).map (fun i => loadAt s c t (a + 8 * i) 8) |>.flatten |>.take len
  else bytesView s c t a len

/-! ### Call frames (R226) -/

/-- The set bits of a mask below `n`, ascending. -/
def maskBits (m n : Nat) : List Nat := (List.range n).filter (fun g => bitOf m g)

/-- FSIZE of a frame (R226). -/
def frameSize (imask vmask : Nat) : Nat :=
  64 + 64 * ceilDiv (32 * (maskBits imask 16).length) 64 + 256 * (maskBits vmask 8).length

/-- The bytes of the frame a CALL writes (Table 7.12). -/
def frameBytes (s : State) (c : Nat) (ret : W64) (imask vmask : Nat) : List Byte :=
  let sp := rdX s c 63
  let f := frameSize imask vmask
  let head := padTo 64 (leBytes 8 ret.toNat ++ leBytes 2 imask ++ leBytes 1 vmask ++ [0] ++ leBytes 4 f ++ leBytes 2 (rdRc s c).toNat ++
    List.replicate 6 0 ++ leBytes 8 sp.toNat)
  let ints := ((maskBits imask 16).map (fun g => ((List.range 4).map (fun j => leBytes 8 (rdX s c (4 * g + j)).toNat)).flatten)).flatten
  let vecs := ((maskBits vmask 8).map (fun g => ((List.range 4).map (fun j => leBytes 64 (rdV s c (4 * g + j)).toNat)).flatten)).flatten
  head ++ padTo (64 * ceilDiv ints.length 64) ints ++ vecs

/-- Bytes stored in aligned chunks of 64. -/
def storeChunks (s : State) (c : Nat) (a : Nat) (bs : List Byte) : List Wr :=
  ((List.range (bs.length / 64)).map (fun i => storeAt s c (a + 64 * i) ((bs.drop (64 * i)).take 64))).flatten

/-! ### Feature registers (R225) -/

def pairField (s : State) : Nat :=
  match s.pair.state with | 0 => 0 | 1 => 1 | 2 => 2 | 3 => 2 | _ => 3

def feature (s : State) (c n : Nat) : W64 :=
  let lit := isLighterCore c
  let f (l : List (Nat × Nat)) : W64 := BitVec.ofNat 64 ((l.map (fun e => e.2 * 2 ^ e.1)).sum)
  match n with
  | 0 => f [(0, if lit then 1 else 2), (4, 1), (8, if lit then clusterOf c else 0xFF), (16, c % 32),
            (32, coreSpace s c)]
  | 1 => f [(0, 8), (8, 8), (16, if lit then 512 else 0), (32, if lit then 16 else 0),
            (40, if lit then 8 else 0), (48, 2), (56, if lit then 32 else 0)]
  | 2 => f [(0, 32), (8, 32), (16, 56), (24, ((List.range 7).filter (quayOn s)).length), (32, 4096),
            (48, 1), (49, b2n (s.tally.miUp && s.pair.state == 1))]
  | 3 => f [(0, b2n s.power.healthy), (1, b2n (!s.power.calFailed)), (2, pairField s),
            (4, s.host.ps), (7, b2n s.media.readOnly), (16, if Config.speed36 then 36 else 28)]
  | _ => 0

/-! ### The code store and the decoder -/

/-- The image a bundle address names, for a thread of a space. -/
def imageAt (s : State) (space : Nat) (pc : W64) : Option Image :=
  s.prog.images.find? (fun i => i.handle == bitsOf pc.toNat 32 47 && i.owner == space)

/-- The 32-bit word at byte offset `off` of some code. -/
def codeWord (code : List Byte) (off : Nat) : Nat := recNat code off 4

/-- Extension syllables of an opcode of a unit; none if undefined (Table 8.10). `lit` is a lighter
core. -/
def extCount (lit : Bool) (u op : Nat) : Option Nat :=
  let m (l : List Nat) : Bool := l.contains op
  if u < 2 then
    if op ≤ 0x66 then (if op % 8 = 7 then none else some 0)
    else if op = 0x68 ∨ op = 0x70 ∨ op = 0x78 then some 0
    else if 0x80 ≤ op ∧ op ≤ 0xE0 ∧ op % 8 = 0 then some 1
    else none
  else if u < 4 then
    if op ≤ 0x0D ∨ (0x10 ≤ op ∧ op ≤ 0x12) ∨ (0x14 ≤ op ∧ op ≤ 0x1B) ∨ (0x20 ≤ op ∧ op ≤ 0x26) ∨
        m [0x28, 0x29, 0x30, 0x34] ∨ (0x40 ≤ op ∧ op ≤ 0x46) then some 0
    else if op = 0x31 ∨ op = 0x33 ∨ (0x48 ≤ op ∧ op ≤ 0x4E) then some 1
    else if op = 0x32 then some 2
    else none
  else if u < 6 then (if op ≤ 0x11 ∨ (0x20 ≤ op ∧ op ≤ 0x26) then some 0 else none)
  else if u = 6 then
    if op ≤ 4 ∨ (8 ≤ op ∧ op ≤ 0x0C) ∨ op = 0x1A ∨ op = 0x20 ∨ op = 0x21 then some 0
    else if op = 5 ∨ op = 6 ∨ op = 0x10 ∨ op = 0x18 ∨ op = 0x19 then some 1
    else none
  else if op ≤ 0x10 ∧ (lit || !(decide (7 ≤ op ∧ op ≤ 9))) then some 0
  else none

/-- The decoder of R222 on the words of a bundle at `off`: its unit words with their extensions,
or none where the bundle is illegal or runs past the code. `n` counts the words. -/
def decodeFrom (lit : Bool) (code : List Byte) (off : Nat) :
    Nat → Nat → Option Nat → List (Nat × List Nat) → Option (List (Nat × List Nat) × Nat)
  | 0, _, _, _ => none
  | fuel + 1, n, last, acc =>
    if 16 ≤ n ∨ code.length < off + 4 * n + 4 then none
    else
      let w := codeWord code (off + 4 * n)
      let u := bitsOf w 28 30
      if (match last with | none => false | some l => decide (u ≤ l)) then none
      else match extCount lit u (bitsOf w 20 27) with
        | none => none
        | some k =>
          if 0 < k ∧ bitOf w 31 then none
          else if 16 < n + 1 + k ∨ code.length < off + 4 * (n + 1 + k) then none
          else
            let exts := (List.range k).map (fun j => codeWord code (off + 4 * (n + 1 + j)))
            if (exts.dropLast).any (fun e => bitOf e 31) then none
            else
              let stop := match exts.getLast? with | none => bitOf w 31 | some e => bitOf e 31
              let acc := acc ++ [(w, exts)]
              if stop then some (acc, n + 1 + k) else decodeFrom lit code off fuel (n + 1 + k) (some u) acc

def decodeBundle (lit : Bool) (code : List Byte) (off : Nat) : Option (List (Nat × List Nat) × Nat) :=
  if off % 4 = 0 then decodeFrom lit code off 17 0 none [] else none

/-- The bundle at a code address, as a core of its kind decodes it; none if no legal bundle stands there. -/
def bundleAt (s : State) (c : Nat) (pc : W64) : Option (List (Nat × List Nat) × Nat) :=
  if isLighterCore c then
    match imageAt s (coreSpace s c) pc with
    | some i => decodeBundle true i.code (bitsOf pc.toNat 0 31)
    | none => none
  else decodeBundle false (memRead s.dram pc.toNat 64) 0

/-- NREQ of the BLOCK in the bundle at an address; none if no bundle with a BLOCK stands there. -/
def blockNreq (s : State) (c : Nat) (pc : W64) : Option Nat :=
  match bundleAt s c pc with
  | none => none
  | some (ws, _) =>
    (ws.find? (fun e => bitsOf e.1 28 30 == 7 && bitsOf e.1 20 27 == 0)).map (fun e => bitsOf e.1 0 2)

/-! ### Gathering a bundle -/

/-- The kinds of syllable the checks of R249, R254 and R257 tell apart. -/
inductive SylKind where
  | plain | bOther | block | finish
  deriving DecidableEq, Repr

/-- The unit code a syllable of a kind of unit takes (Table 7.8). -/
def unitOf (base : Nat) (q : Syl) : Nat := if q.u1 then base + 1 else base

/-- One syllable joins its core's bundle. `ok`: its fields are none of those R222 and R235 reserve. -/
def gather (s : State) (q : Syl) (unit exts : Nat) (ok : Bool) (k : SylKind) (effs : List Eff) : State :=
  modCore s q.core (fun x =>
    let b := x.bun
    let order := match b.last with | none => true | some l => decide (l < unit)
    { x with bun := { b with
        words := b.words + 1 + exts
        last := some unit
        effs := b.effs ++ effs
        illegal := b.illegal || !ok || !order || decide (16 < b.words + 1 + exts) || decide (8 ≤ unit)
        hasB := b.hasB || k == .bOther
        hasBlock := b.hasBlock || k == .block
        hasEnd := b.hasEnd || k == .finish
        hasX := b.hasX || unit == 7 } })

end Sys2Proof.Machine
end

