-- ==== Sys2Proof/Machine/Threads.lean ====
section
/-!
DEFINITION. Threads: creation, waiting, holding, stopping and scheduler faults (R174 to R176,
R181, R198 to R201), and the end of a program.
-/
namespace Sys2Proof.Machine

/-- The cores leased to a space. -/
def coresOf (s : State) (space : Nat) : List Nat :=
  (s.hm.leases.filter (fun e => e.2.space == some space)).map Prod.fst

/-- The most recent grant of a space not yet to be taken back. -/
def newestCore (s : State) (space : Nat) : Option Nat :=
  ((coresOf s space).filter (fun c => !(getLease s c).taking && (getLease s c).next.isNone)).foldl (fun b c =>
    match b with
    | some d => if (getLease s c).seq < (getLease s d).seq then some d else some c
    | none => some c) none

def setTaking (s : State) (c : Nat) (b : Bool) : State := setLease s c { getLease s c with taking := b }

/-- The `n` most recent grants of a space are to be taken back. -/
def markNewest (space : Nat) : Nat → State → State
  | 0, s => s
  | n + 1, s => match newestCore s space with
    | some c => markNewest space n (setTaking s c true)
    | none => s

/-- A lease below the cores held marks the most recent grants to be taken back (R193). -/
def markTaking (s : State) (space : Nat) : State :=
  let leaving := ((coresOf s space).filter (fun c => (getLease s c).next.isSome)).length
  markNewest space (coresHeld s space - leaving - coreCap s space) ((coresOf s space).foldl (fun s c => setTaking s c false) s)

/-- A lease reduction takes effect: the cores beyond it are taken back, idle ones at once (R52,
R193). -/
def takeBack (s : State) (space : Nat) : State :=
  let s := settleHold (markTaking s space) space
  (coresOf s space).foldl settleTaking s

/-- A thread's requirements are withdrawn without consuming any count (R170, R196). -/
def withdraw (s : State) (t port : Nat) : State :=
  let keys := reqKeys s t
  let s := modThr s t (fun th => { th with reqs := [] })
  let s := { s with hm := { s.hm with waits := s.hm.waits.filter (· != t), ring := s.hm.ring.filter (fun e => match e with | .req u _ => u != t | .ready u => u != t | _ => true) } }
  keys.foldl (fun s k => dropRingChan (trimIdle s k port) k) s

/-- One requirement of a waiting thread makes its entries (R184): the channel's, if it has none, and its own; each
goes to the ring where R186 says so. -/
def addReq (t : Nat) (s : State) (r : Req) : State :=
  let k := chanKey (getThr s t).space r.channel
  let fresh := (getChan s k).count == 0 && !chanNamed s k && !chanInRing s k
  let spill := fresh && toRing s
  let s := if spill then pushRing s (.chan k) else s
  let s := if !s.hm.ring.isEmpty || decide (32768 ≤ manifestUsed s + b2n (fresh && !spill)) then pushRing s (.req t r) else s
  modThr s t (fun th => { th with reqs := th.reqs ++ [r] })

/-- A WAIT is resolved (R181, R182): its entries are made and, if already met, consumed. -/
def waitOn (s : State) (t : Nat) (reqs : List Req) (port : Nat) : State :=
  let s := modThr s t (fun th => { th with state := if isHeld s th.space && !isControl t then 4 else 1, reqs := [], heldReady := false })
  let s := reqs.foldl (addReq t) { s with hm := { s.hm with waits := s.hm.waits ++ [t] } }
  if reqsMet s t then consume s t port else s

/-- The last thread of a program has gone: Execute Program completes (R198). -/
def programEnd (s : State) (d : Nat) : State :=
  let e := getDk s d
  match e.faulted with
  | some (code, t) => ioDone s d (.vendor 0x88) (code + t * 65536) 0 .none
  | none => if e.poisoned then ioFail s d (.vendor 0x83) else ioOk s d

/-- A thread of a program exited or stopped. -/
def programGone (s : State) (t code : Nat) (counts : Bool) : State :=
  let th := getThr s t
  match th.root with
  | none => s
  | some d =>
    let s := modThr s t (fun th => { th with root := none })
    if dkUsed s d && (getDk s d).sqe.kind == .executeProgram then
      let s := modDk s d (fun e => { e with
        live := e.live - 1
        poisoned := e.poisoned || (counts && code == 0 && th.poisoned)
        faulted := match e.faulted with | some f => some f | none => if counts ∧ code ≠ 0 then some (code, t) else none })
      if (getDk s d).live = 0 then programEnd s d else s
    else s

/-- A stopped thread's core idles; its bundle, writes in flight and streams are dropped. -/
def clearCore (s : State) (c : Nat) : State :=
  modCore (noteIdle s (clusterOf c)) c (fun x => { x with
    phase := .idle, pend := [], bun := .empty, delay := 0, target := none, rep := none, fault := none, endEv := none, first := true, fresh := x.fresh && (match x.phase with | .switching _ => true | _ => false), poisoned := false, migrated := false
    streams := (x.streams.map (fun e => (e.1, { e.2 with isOpen := false, draining := e.2.isOpen || e.2.draining, ready0 := false, ready1 := false, committed := [] }))).filter (fun e => decide (e.2 ≠ Stream.closed)) })

/-- The core a thread holds in any phase. -/
def heldCore (s : State) (t : Nat) : Option Nat :=
  (s.ik.cores.find? (fun e => decide (e.2.phase = .running t ∨ e.2.phase = .ended t ∨ e.2.phase = .switching t))).map Prod.fst

/-- The sets of shared bits of a space are 0 in every cluster (R210). -/
def clearShared (s : State) (space : Nat) : State :=
  let mine (k : Nat) : Bool := k / 1024 % 1025 == space
  { s with ik := { s.ik with
      shared := s.ik.shared.filter (fun e => !mine e.1)
      shPend := s.ik.shPend.map (fun e => (e.1, e.2.filter (fun p => !mine p.key))) } }

/-- The last block of a space that a tenant reset still let run has ended: what it wrote to the shared bits since is
cleared too (R210). -/
def settleShare (s : State) (space : Nat) : State :=
  if s.hm.threads.any (fun e => e.2.stopping && e.2.space == space) then s else clearShared s space

/-- What follows a thread's fault (R200): the token on FAULTCH, the record (in the firmware space the Persistent Event
Log's entry) and the count of its code. -/
def faultReport (s : State) (t code : Nat) (addr : W64) (channel : Nat) : State :=
  let th := getThr s t
  let s := match th.faultCh with
    | some ch => postToken s 22 th.space ch 1 false
    | none => s
  let s := logFault s th.space 1 code (if isControl t then none else some t) addr channel 0
  if code = 0 then s else bump s 0x7020 (0x10 + code) 1

/-- A thread stops (R170, R200, R201): by a fault, by exiting, or by a tenant reset (`counts` false). Its descriptor
stays stopped until DESCRIPTOR_FREE. A channel that the withdrawal leaves idle as one too many is recorded with port
22 (DESIGN CHOICE, log entry 69). -/
def stopAs (s : State) (t code : Nat) (fault counts : Bool) (addr : W64) (channel : Nat) : State :=
  let th := getThr s t
  let s := withdraw (unready s t) t 22
  let s := modThr s t (fun th => { th with state := 5, fault := code, heldReady := false, stopping := false, saved := [], restart := fault && isControl t })
  let s := match heldCore s t with | some c => clearCore s c | none => s
  let s := if th.stopping then settleShare s th.space else s
  let s := releaseOwner s (threadTag t)
  let s := endScansOf (releaseEngines s (threadTag t)) t (!counts)
  let s := orphanCascades s (fun c => c.docket.isNone && c.thread == t)
  let s := { s with hm := { s.hm with dying := s.hm.dying ++ [t] } }
  programGone (if fault then faultReport s t code addr channel else s) t code counts

/-- The same, with a fault of Table 6.5 where the code is not 0. -/
def stopThread (s : State) (t code : Nat) (counts : Bool) (addr : W64) (channel : Nat) : State :=
  stopAs s t code (decide (code ≠ 0)) counts addr channel

/-- The core takes up its next thread after a block: its lease may be taken back or pass. -/
def coreFreed (s : State) (c : Nat) : State :=
  kickIdle (chooseFor (quantumPass (settleTaking s c) c) c)

/-- A stop in the middle of a block also lets the core choose again. -/
def faultNow (s : State) (t code : Nat) (addr : W64) : State :=
  let c := heldCore s t
  let s := stopThread s t code true addr 0
  match c with | some c => coreFreed s c | none => s

/-- A control thread's fault in the middle of its block that has no code of Table 6.5 (R200, R218): FAULT stays 0 and
no count is raised (DESIGN CHOICE, log entry 69). -/
def ctrlFault (s : State) (c : Nat) : State :=
  match (getCore s c).phase with
  | .running t => coreFreed (stopAs s t 0 true true (getCore s c).pc 0) c
  | _ => s

/-- A poison token (R196, R199): the flag is set; a waiting thread's requirements are withdrawn and
it becomes ready; one for a free or stopped thread is discarded. -/
def poisonThread (s : State) (t port : Nat) : State :=
  let th := getThr s t
  if th.state = 0 ∨ th.state = 5 then s
  else
    let s := modThr s t (fun th => { th with poisoned := true })
    if th.state = 1 ∨ (th.state = 4 ∧ !th.heldReady) then makeReady (withdraw s t port) t else s

/-- The lowest-numbered free descriptor of a kind. -/
def freeThread (s : State) (control : Bool) : Option Nat :=
  let lo := if control then 65536 else 0
  let n := if control then 4096 else 65536
  match lowestFrom (fun i => (getThr s i).state == 0) (s.hm.threads.length + 1) lo with
  | some i => if i < lo + n then some i else none
  | none => none

/-- A new thread in a descriptor; it becomes ready at its first block (R175, R231). -/
def createThread (s : State) (t : Nat) (space prio cmask wbase wsize : Nat) (entry : W64)
    (faultCh : Option Nat) (root : Option Nat) (init : ThreadInit) : State :=
  let s := setThr s t { Thread.free with state := 2, prio := prio, space := space, cmask := cmask, lastCore := 0xFFFF, entry := entry, winBase := wbase, winSize := wsize, faultCh := faultCh, root := root, init := some init }
  let s := match root with
    | some d => modDk s d (fun e => { e with live := e.live + 1 })
    | none => s
  let s := stampReady s t
  if isHeld s space && !isControl t then modThr s t (fun th => { th with state := 4, heldReady := true })
  else place s t

/-- WINDOW and CMASK are valid for a new thread. -/
def windowOk (wbase wsize : Nat) : Bool := decide (wsize ≤ 64) && decide (wbase + wsize ≤ 128)

end Sys2Proof.Machine
end

