-- ==== Sys2Proof/Machine/Compress.lean ====
section
/-!
DEFINITION. The meanings of the compression engines' commands: jobs, locks, unlocks and job ends
(R309 to R314).
-/
namespace Sys2Proof.Machine

/-- A thread that can issue an X syllable whose result words lie inside its window (R256): the
request is issued; else the syllable is refused at the core with code 5. -/
def xRequest (s : State) (t result words : Nat) (u : State) : State :=
  let th := getThr s t
  if th.state = 0 ∨ th.state = 5 ∨ !domainOn s 1 then s
  else if isControl t ∨ (result % 8 = 0 ∧ result + 8 * words ≤ th.winSize * 4096) then u
  else raiseFault s t 5

/-! ### Fields of a job record (Table 11.3) -/

def cjSrc (r : List Byte) : Nat := recNat r 0 8
def cjDst (r : List Byte) : Nat := recNat r 8 8
def cjSrcLen (r : List Byte) : Nat := recNat r 16 4
def cjDstLen (r : List Byte) : Nat := recNat r 20 4
def cjOp (r : List Byte) : Nat := recNat r 24 1
def cjBsize (r : List Byte) : Nat := recNat r 25 1
def cjSslm (r : List Byte) : Bool := bitOf (recNat r 26 1) 0
def cjDslm (r : List Byte) : Bool := bitOf (recNat r 26 1) 1
def cjEngine (r : List Byte) : Nat := recNat r 27 1

/-- The record breaks R312 or Table 11.3 (CODE 2). -/
def cjInvalid (s : State) (t : Nat) (r : List Byte) : Bool :=
  let verify := cjOp r == 2
  decide (3 ≤ cjOp r) || decide (4 ≤ recNat r 26 1) || decide (32 ≤ cjEngine r) ||
  bitsOf (recNat r 28 4) 25 31 != 0 || recNat r 40 8 != 0 ||
  decide (cjSrcLen r < 1) || decide (2 ^ 31 < cjSrcLen r) ||
  (if cjOp r = 0 then decide (cjBsize r < 12) || decide (20 < cjBsize r) else cjBsize r != 0) ||
  (if verify then cjDst r != 0 || cjDstLen r != 0 || cjDslm r
   else decide (cjDstLen r < 16) || decide (2 ^ 31 < cjDstLen r)) ||
  !rangeOk s t (cjSslm r) (cjSrc r) (cjSrcLen r) ||
  (!verify && (!rangeOk s t (cjDslm r) (cjDst r) (cjDstLen r) ||
    rangesMeet (cjSslm r) (cjSrc r) (cjSrcLen r) (cjDslm r) (cjDst r) (cjDstLen r)))

/-- What a job has done so far. -/
structure CProg where
  code     : Nat
  blocks   : Nat
  consumed : Nat
  out      : List Byte
  raw      : Nat
  orig     : Nat
  deriving DecidableEq, Repr

/-- A compress job over the source that is left; the fuel bounds the blocks (R312, R313). -/
def compressRun (bsize room : Nat) : Nat → List Byte → CProg → CProg
  | 0, _, p => p
  | f + 1, src, p =>
    if src.isEmpty then p
    else
      let blk := src.take (2 ^ bsize)
      let c := container bsize blk
      if room < p.out.length + c.1.length then { p with code := 1 }
      else compressRun bsize room f (src.drop (2 ^ bsize))
        { p with blocks := p.blocks + 1, consumed := p.consumed + blk.length, out := p.out ++ c.1, raw := p.raw + b2n c.2, orig := p.orig + blk.length }

/-- A decompress or verify job over the source that is left (R312, R313). -/
def decompressRun (room : Option Nat) : Nat → List Byte → CProg → CProg
  | 0, _, p => p
  | f + 1, src, p =>
    if src.isEmpty then p
    else match unpack src with
      | .corrupt => { p with code := 4 }
      | .badCrc => { p with code := 5 }
      | .ok l taken raw =>
        if room.any (fun n => n < p.out.length + l.length) then { p with code := 1 }
        else decompressRun room f (src.drop taken)
          { p with blocks := p.blocks + 1, consumed := p.consumed + taken, out := if room.isSome then p.out ++ l else [], raw := p.raw + b2n raw, orig := p.orig + l.length }

/-- The result of a job on its source bytes. -/
def compressionRun (r src : List Byte) : CProg :=
  let p : CProg := { code := 0, blocks := 0, consumed := 0, out := [], raw := 0, orig := 0 }
  if cjOp r = 0 then compressRun (cjBsize r) (cjDstLen r) (src.length + 1) src p
  else decompressRun (if cjOp r = 1 then some (cjDstLen r) else none) (src.length + 1) src p

/-- The two result words (Table 11.4), and the job counted. -/
def compressionReply (s : State) (j : EJob) (p : CProg) : State :=
  engReply (bump s 0x7040 2 1) false j.thread (recNat j.record 32 8) (recNat j.record 28 4)
    [BitVec.ofNat 64 (p.code + min p.blocks 0xFFFF * 2 ^ 16 + p.consumed * 2 ^ 32),
     BitVec.ofNat 64 (p.out.length + p.raw * 2 ^ 32)]

/-- A job reaches its engine: refused with CODE 2, 3 or 6, or queued (R312, R314). -/
def compressionJob (s : State) (t : Nat) (r : List Byte) : State :=
  let j : EJob := ⟨t, r⟩
  let g := getEng s false (cjEngine r)
  let refuse (code : Nat) : State :=
    compressionReply s j { code := code, blocks := 0, consumed := 0, out := [], raw := 0, orig := 0 }
  if cjInvalid s t r then refuse 2
  else if g.holder ≠ threadTag t then refuse 3
  else if 4 ≤ g.jobs.length then refuse 6
  else setEng s false (cjEngine r) { g with jobs := g.jobs ++ [j] }

/-- The oldest job of an engine ends (R312 to R314), and an unlock that waited for it may act. A range that the thread
has given up since it submitted the job is one outside R312 (DESIGN CHOICE, log entry 71). -/
def compressionEnd (s : State) (e : Nat) (j : EJob) (rest : List EJob) : State :=
  let space := (getThr s j.thread).space
  let r := j.record
  let p := if cjInvalid s j.thread r then { code := 2, blocks := 0, consumed := 0, out := [], raw := 0, orig := 0 } else
    compressionRun r (rangeRead s space (cjSslm r) (cjSrc r) (cjSrcLen r))
  let s := rangeWrite s space (cjDslm r) (cjDst r) p.out
  let s := setEng s false e { (getEng s false e) with jobs := rest }
  let s := bump s 0x7040 3 p.orig
  let s := bump s 0x7040 4 (if cjOp r = 0 then p.out.length else p.consumed)
  let s := if cjOp r = 0 then bump s 0x7040 5 p.raw else s
  let s := if p.code = 4 ∨ p.code = 5 then bump s 0x7040 6 1 else s
  settleUnlock (compressionReply s j p) false e

def execCompressionJob (t : Nat) (r : List Byte) (s : State) : Res :=
  .next (xRequest s t (recNat r 32 8) 2 (compressionJob s t r))
def execCompressionLock (t : Nat) (r : List Byte) (s : State) : Res :=
  .next (xRequest s t (recNat r 8 8) 1 (lockRequest s false ⟨t, r⟩))
def execCompressionUnlock (t : Nat) (r : List Byte) (s : State) : Res :=
  .next (xRequest s t (recNat r 8 8) 1 (unlockRequest s false ⟨t, r⟩))
def execCompressionJobEnd (e : Nat) (s : State) : Res :=
  .next (match (getEng s false e).jobs with
    | j :: rest => compressionEnd s e j rest
    | [] => s)

end Sys2Proof.Machine
end

