-- ==== Sys2Proof/Machine/Cipher.lean ====
section
/-!
DEFINITION. The meanings of the cipher engines' commands: jobs, locks, unlocks, job ends, tag
failures (R328 to R337).
-/
namespace Sys2Proof.Machine

def getSlot (s : State) (i : Nat) : KeySlot := tabGet KeySlot.empty s.eng.slots i
def setSlot (s : State) (i : Nat) (v : KeySlot) : State :=
  { s with eng := { s.eng with slots := tabSet KeySlot.empty s.eng.slots i v } }

/-! ### Fields of a job record (Table 12.5) -/

def ciSrc (r : List Byte) : Nat := recNat r 0 8
def ciDst (r : List Byte) : Nat := recNat r 8 8
def ciAad (r : List Byte) : Nat := recNat r 16 8
def ciSrcLen (r : List Byte) : Nat := recNat r 24 4
def ciAadLen (r : List Byte) : Nat := recNat r 28 4
def ciNonce (r : List Byte) : List Byte := (r.drop 32).take 12
def ciSlot (r : List Byte) : Nat := recNat r 44 2
def ciOpByte (r : List Byte) : Nat := recNat r 46 1
def ciOpen (r : List Byte) : Bool := bitOf (ciOpByte r) 0
def ciHdr (r : List Byte) : Bool := bitOf (ciOpByte r) 2
def ciEarly (r : List Byte) : Bool := bitOf (ciOpByte r) 3
def ciCont (r : List Byte) : Bool := bitOf (ciOpByte r) 4
def ciFinal (r : List Byte) : Bool := bitOf (ciOpByte r) 5
def ciSslm (r : List Byte) : Bool := bitOf (recNat r 47 1) 0
def ciDslm (r : List Byte) : Bool := bitOf (recNat r 47 1) 1
def ciAslm (r : List Byte) : Bool := bitOf (recNat r 47 1) 2
def ciEngine (r : List Byte) : Nat := recNat r 48 1

/-- Bytes of the inline header, of the tag in the source, of the payload, and of the destination
(R329, R333). -/
def ciHdrLen (r : List Byte) : Nat := if ciHdr r then ciAadLen r else 0
def ciTagIn (r : List Byte) : Nat := if ciOpen r && ciFinal r then 16 else 0
def ciPayload (r : List Byte) : Nat := ciSrcLen r - ciHdrLen r - ciTagIn r
def ciDstLen (r : List Byte) : Nat :=
  ciHdrLen r + ciPayload r + (if !ciOpen r && ciFinal r then 16 else 0)
/-- Associated data kept apart from the source. -/
def ciAadSep (r : List Byte) : Nat := if ciHdr r then 0 else ciAadLen r

/-- CODE 2: a reserved field or value, a length, a range or an overlap (Table 12.7). -/
def ciInvalid (s : State) (t : Nat) (r : List Byte) : Bool :=
  decide (2 ≤ bitsOf (ciOpByte r) 0 1) || decide (64 ≤ ciOpByte r) || decide (8 ≤ recNat r 47 1) ||
  decide (32 ≤ ciEngine r) || recNat r 49 3 != 0 || bitsOf (recNat r 52 4) 25 31 != 0 ||
  decide (4096 ≤ ciSlot r) || decide (2 ^ 31 < ciSrcLen r) || decide (2 ^ 31 < ciAadLen r) ||
  (ciCont r && (ciHdr r || ciAadLen r != 0 || ciSlot r != 0 || (ciNonce r).any (· != 0))) ||
  ((ciAadLen r == 0 || ciHdr r) && ciAad r != 0) ||
  decide (ciSrcLen r < ciHdrLen r + ciTagIn r) ||
  !rangeOk s t (ciSslm r) (ciSrc r) (ciSrcLen r) ||
  !rangeOk s t (ciDslm r) (ciDst r) (ciDstLen r) ||
  !rangeOk s t (ciAslm r) (ciAad r) (ciAadSep r) ||
  rangesMeet (ciSslm r) (ciSrc r) (ciSrcLen r) (ciDslm r) (ciDst r) (ciDstLen r) ||
  rangesMeet (ciSslm r) (ciSrc r) (ciSrcLen r) (ciAslm r) (ciAad r) (ciAadSep r) ||
  rangesMeet (ciAslm r) (ciAad r) (ciAadSep r) (ciDslm r) (ciDst r) (ciDstLen r)

/-- CODE 7: the slot a first job names is empty or not assigned to the thread's tenant. -/
def ciNoSlot (s : State) (t : Nat) (r : List Byte) : Bool :=
  let k := getSlot s (ciSlot r)
  !ciCont r && (k.tenant != some (getThr s t).space || k.kind == 0 || decide (3 < k.kind))

/-- CODE 8 (Table 12.7), given the engine's open message. -/
def ciSequence (m : Option CMsg) (r : List Byte) : Bool :=
  (ciCont r != m.isSome) || m.any (fun m => decide (1024 ≤ m.segs)) ||
  (!ciFinal r && ciPayload r % 64 != 0) ||
  (ciOpen r && !ciEarly r && (ciCont r || !ciFinal r || decide (65536 < ciPayload r)))

/-- The most payload a message holds (R330). -/
def cipherLimit : Nat := (2 ^ 32 - 2) * 16

/-- The two result words (Table 12.6), and the job counted. -/
def cipherReply (s : State) (j : EJob) (code seg consumed produced : Nat) : State :=
  engReply (bump s 0x7050 6 1) true j.thread (recNat j.record 56 8) (recNat j.record 52 4)
    [BitVec.ofNat 64 (code + seg * 2 ^ 16 + consumed * 2 ^ 32), BitVec.ofNat 64 produced]

/-- A job reaches its engine: refused with CODE 2, 3, 6 or 7, or queued (R332, R334). -/
def cipherJob (s : State) (t : Nat) (r : List Byte) : State :=
  let j : EJob := ⟨t, r⟩
  let g := getEng s true (ciEngine r)
  if ciInvalid s t r then cipherReply s j 2 0 0 0
  else if g.holder ≠ threadTag t then cipherReply s j 3 0 0 0
  else if 4 ≤ g.jobs.length then cipherReply s j 6 0 0 0
  else if ciNoSlot s t r then cipherReply s j 7 0 0 0
  else setEng s true (ciEngine r) { g with jobs := g.jobs ++ [j] }

/-- The message a first job opens. -/
def newMsg (s : State) (space : Nat) (r : List Byte) : CMsg :=
  let k := getSlot s (ciSlot r)
  { kind := k.kind, key := k.key, nonce := ciNonce r, sealed := [], total := 0, segs := 0, dests := [], chans := [], consumers := [], many := false
    aad := if ciHdr r then rangeRead s space (ciSslm r) (ciSrc r) (ciAadLen r) else rangeRead s space (ciAslm r) (ciAad r) (ciAadLen r) }

/-- Lighter threads that own or claim a berth overlapping a range of the message. -/
def berthThreads (s : State) (m : CMsg) : List Nat :=
  ((s.pool.berths.filter (fun e => m.dests.any (fun d =>
      rangesMeet false e.1 (berthSize ((berthClass e.1).getD false)) d.slm d.addr d.len))).map
    (fun e => (e.2.owner :: e.2.claims).filter (fun g => g / 2 ^ 20 == 1))).flatten.map (· % 2 ^ 20)

/-- The threads a failed tag poisons (R336). -/
def poisonList (s : State) (holder : Nat) (m : CMsg) : List Nat :=
  if m.many then (holder :: berthThreads s m ++ threadsOf s (getThr s holder).space).dedup
  else (holder :: m.consumers ++ berthThreads s m).dedup

/-- A failed final tag (R335, R336): every destination byte is zeroed; an early open poisons. -/
def tagFailure (s : State) (j : EJob) (m : CMsg) : State :=
  let s := wipeDests s (getThr s j.thread).space m
  let s := bump s 0x7050 8 1
  if ciEarly j.record then
    let l := poisonList s j.thread m
    bump (l.foldl (fun s t => poisonThread s t 10) s) 0x7050 9 l.length
  else s

/-- A job that runs: the segment is sealed or opened, its destination written, its result
delivered (R329, R333 to R336). -/
def cipherRun (s : State) (e : Nat) (j : EJob) (m : CMsg) : State :=
  let r := j.record
  let space := (getThr s j.thread).space
  let src := rangeRead s space (ciSslm r) (ciSrc r) (ciSrcLen r)
  let hdr := src.take (ciHdrLen r)
  let pay := (src.drop (ciHdrLen r)).take (ciPayload r)
  let out := aeadCrypt m.kind m.key m.nonce m.total pay
  let ct := m.sealed ++ (if ciOpen r then pay else out)
  let tag := aeadTag m.kind m.key m.nonce m.aad ct
  let bad := ciOpen r && ciFinal r && src.drop (ciHdrLen r + ciPayload r) != tag
  let bytes := hdr ++ out ++ (if !ciOpen r && ciFinal r then tag else [])
  let m := { m with
    sealed := ct, total := m.total + ciPayload r, segs := m.segs + 1
    dests := m.dests ++ [⟨ciDslm r, ciDst r, ciDstLen r⟩]
    chans := if ciOpen r && ciEarly r && bitOf (recNat r 52 4) 24 then (m.chans ++ [chanKey space (bitsOf (recNat r 52 4) 0 23)]).dedup else m.chans }
  let s := bump s 0x7050 7 (ciPayload r)
  if bad then cipherReply (setMsg (tagFailure s j m) e none) j 5 (m.segs - 1) (ciSrcLen r) 0
  else
    let s := rangeWrite s space (ciDslm r) (ciDst r) bytes
    cipherReply (setMsg s e (if ciFinal r then none else some m)) j 0 (m.segs - 1) (ciSrcLen r) bytes.length

/-- The oldest job of an engine ends; an unlock that waited for it may act. A range that the thread has given up since
it submitted the job is one outside R332 (DESIGN CHOICE, log entry 71). -/
def cipherEnd (s : State) (e : Nat) (j : EJob) (rest : List EJob) : State :=
  let r := j.record
  let old := getMsg s e
  let s := setEng s true e { (getEng s true e) with jobs := rest }
  let s :=
    if ciInvalid s j.thread r then cipherReply s j 2 0 0 0
    else if cipherLimit < (if ciCont r then (old.map (·.total)).getD 0 else 0) + ciPayload r then cipherReply s j 4 0 0 0
    else if ciSequence old r then cipherReply s j 8 0 0 0
    else cipherRun s e j (match old with | some m => m | none => newMsg s (getThr s j.thread).space r)
  settleUnlock s true e

def execCipherJob (t : Nat) (r : List Byte) (s : State) : Res :=
  .next (xRequest s t (recNat r 56 8) 2 (cipherJob s t r))
def execCipherLock (t : Nat) (r : List Byte) (s : State) : Res :=
  .next (xRequest s t (recNat r 8 8) 1 (lockRequest s true ⟨t, r⟩))
def execCipherUnlock (t : Nat) (r : List Byte) (s : State) : Res :=
  .next (xRequest s t (recNat r 8 8) 1 (unlockRequest s true ⟨t, r⟩))
def execCipherJobEnd (e : Nat) (s : State) : Res :=
  .next (match (getEng s true e).jobs with
    | j :: rest => cipherEnd s e j rest
    | [] => s)

end Sys2Proof.Machine
end

