-- ==== Sys2Proof/Machine/Io.lean ====
section
/-!
DEFINITION. The I/O commands of the NVM set, and how writes commit and are programmed (R18 to R20, R60,
R68, R84, R96, R125, R129, R140, R141, R150, R316).
-/
namespace Sys2Proof.Machine

/-! ### Commands -/

/-- A Flush waits for the earlier writes of its function; it names a namespace, or all. -/
def execFlush (d : Nat) (s : State) : Res :=
  io s d .flush (
    let e := getDk s d
    if rekeying s e.sqe.nsid then s
    else if e.sqe.nsid ≠ 0xFFFFFFFF ∧ !attachedTo s e.fn e.sqe.nsid then ioFail s d .invalidNamespaceOrFormat
    else flushCheck (modDk s d (fun e => { e with started := true })))

def execWrite (d : Nat) (data : List Byte) (s : State) : Res :=
  io s d .write (onNs s d data (fun s => startWrite s d data))

def execRead (d : Nat) (s : State) : Res := io s d .read (onNs s d [] (fun s => startRead s d []))

def execCompare (d : Nat) (data : List Byte) (s : State) : Res :=
  io s d .compare (onNs s d data (fun s => startRead s d data))

def execVerify (d : Nat) (s : State) : Res := io s d .verify (onNs s d [] (fun s => startRead s d []))

def execWriteZeroes (d : Nat) (s : State) : Res :=
  io s d .writeZeroes (onNs s d [] (fun s => startWrite s d []))

def execWriteUncorrectable (d : Nat) (s : State) : Res :=
  io s d .writeUncorrectable (onNs s d [] (fun s => startWrite s d []))

/-- A command whose commit point is the append of its records (Table 2.8). -/
def recordCommand (s : State) (d : Nat) (rs : List JRec) : State :=
  let s := append s rs
  let s := dkCommitPost s d 0 0
  settlePacing (settleWindow (closeDue (modDk s d (fun e => { e with waitJsn := some s.media.jsn }))))

/-- The map units a range covers whole. -/
def wholeUnits (s : State) (nsid : Nat) (r : Nat × Nat) : List Nat :=
  let q := { emptySqe with nsid := nsid, slba := r.1, nlb := r.2 }
  (cmdUnits s q).filter (fullUnit s q)

/-- Dataset Management: Deallocate unmaps the units its ranges cover whole; a zoned namespace keeps
its data. -/
def dsm (s : State) (d : Nat) : State :=
  let e := getDk s d
  let deg := b2n (writesDegraded s e.sqe.nsid) * 2 ^ 46
  if 256 < e.sqe.ranges.length then ioFail s d .invalidField
  else if !e.sqe.flag ∨ (getNs s e.sqe.nsid).zoned then ioOk s d
  else recordCommand s d (((e.sqe.ranges.map (wholeUnits s e.sqe.nsid)).flatten).map (fun u => wordRec e.sqe.nsid u deg))

def execDatasetManagement (d : Nat) (s : State) : Res := io s d .datasetManagement (onNs s d [] (fun s => dsm s d))

/-- Copy: format 0, at most 128 sources; a zoned destination starts at its zone's write pointer. -/
def copyCmd (s : State) (d : Nat) : State :=
  let q := (getDk s d).sqe
  if q.format ≠ 0 then ioFail s d .invalidField
  else if 128 < q.ranges.length ∨ (q.ranges.map Prod.snd).sum ≠ q.nlb then ioFail s d .commandSizeLimitExceeded
  else startRead s d []

def execCopy (d : Nat) (s : State) : Res := io s d .copy (onNs s d [] (fun s => copyCmd s d))

/-- Zone Append: its zone's first LBA is named; the assigned LBA is returned. -/
def execZoneAppend (d : Nat) (data : List Byte) (s : State) : Res :=
  io s d .zoneAppend (onNs s d data (fun s => startWrite s d data))

/-! ### Commit (Table 1.4) -/

/-- The conditions of Table 1.4 hold, and no dump has begun (R409). -/
def commitReady (s : State) (d : Nat) : Bool :=
  let e := getDk s d
  dkUsed s d && isWriteKind e.sqe.kind && e.started && e.word == .admitted && e.dataIn && (e.healthy || e.programmed) &&
    (e.acked || e.lapsed) && !s.power.dumping

/-- What the partner receives for a mirrored write at its commit: MACK (R376). -/
def sendMack (s : State) (e : Docket) : State :=
  match e.mirrorOf with
  | some seq => hawSend s 0x11 e.sqe.nsid 0 seq []
  | none => s

/-- A write commits; its completion is posted. One already programmed goes on to step 9. -/
def writeCommit (s : State) (d : Nat) : State :=
  let e := getDk s d
  let s := { s with host := { s.host with bytesWritten := s.host.bytesWritten + (if e.mirrorOf.isSome then 0 else e.data.length) } }
  let lba := if e.sqe.kind = .zoneAppend then e.aux else 0
  let s := sendMack (dkCommitPost s d (lba % 2 ^ 32) (lba / 2 ^ 32)) e
  flushCheck (if e.programmed then resumeHeld (stepNine s d) else s)

def execWriteCommit (d : Nat) (s : State) : Res := .next (when (commitReady s d) s (writeCommit s d))

/-- ACK_LAPSE: the 8 µs have passed; the write is degraded (R376). -/
def execAckLapse (d : Nat) (s : State) : Res :=
  .next (when (s.pair.awaiting.any (fun x => x.2 == d)) s
    (let e := getDk s d
     let seq := ((s.pair.awaiting.find? (fun x => x.2 == d)).map Prod.fst).getD 0
     let us := (cmdUnits s e.sqe).map (fun u => (⟨e.sqe.nsid, u⟩ : UnitRef))
     let s := { s with pair := { s.pair with awaiting := s.pair.awaiting.filter (fun x => x.2 != d), lapsed := s.pair.lapsed ++ [(seq, us)] } }
     takeoverEnd (bump (setDk s d { e with lapsed := true, degraded := true }) 0x8010 5 1)))

/-! ### Programming -/

/-- The slots a placement takes, and what they hold. -/
def placeForm (s : State) (e : Docket) (p : Placement) : List Byte :=
  let b := newUnit s e p.unit
  (packedForm e b).getD b
def placeSlots (s : State) (e : Docket) (p : Placement) : List Nat :=
  (List.range (ceilDiv (placeForm s e p).length 4096)).map (· + p.addr)

/-- Placements that are not landed are all the whole rows from the write pointer on, at their lot's own
places (R99, R129). -/
def directOk (s : State) (e : Docket) (l : List Placement) : Bool :=
  let dir := l.filter (fun p => !p.landed)
  dir.isEmpty || (mayDirect s e && (match e.zoneAt with
    | some (z, u, n) =>
      let lot := getLot s.media.cur (getZone s.media.cur e.sqe.nsid z).lot
      dir.length == n / rowUnits * rowUnits &&
        dir.all (fun p => decide (p.unit - z * zoneSize < u + dir.length) && p.addr == lotAddr lot (p.unit - z * zoneSize))
    | none => false))

/-- Landed placements lie in erased slots of data landing blocks, at most two open on a LUN, while the dump
reserve is complete (R118, R122, R126). -/
def landOk (s : State) (e : Docket) (l : List Placement) : Bool :=
  let ps := l.filter (fun p => p.landed)
  let bs := (ps.map (fun p => addrBlock p.addr)).dedup
  let fresh := bs.filter (fun b => !(getBlk s b).open_)
  ps.isEmpty || (s.media.dumpShort.isEmpty && bs.all (mayLand s) &&
    bs.all (fun b => decide (openOn s (b / 2 ^ 27) + (fresh.filter (fun c => c / 2 ^ 27 == b / 2 ^ 27)).length ≤ 2)) &&
    ps.all (fun p => decide (p.addr - blockAddr (addrBlock p.addr) + (placeSlots s e p).length ≤ slcSlots)))

/-- The media manager put exactly the write's units in erased slots, packed where packing helps. -/
def placesOk (s : State) (e : Docket) (l : List Placement) : Bool :=
  let slots := (l.map (placeSlots s e)).flatten
  decide (l.map (·.unit) = flashUnits s e) && l.all (fun p => p.nsid == e.sqe.nsid && decide (addrChannel p.addr < 448) && decide (p.addr < 2 ^ 41) &&
      p.packed == (packedForm e (newUnit s e p.unit)).isSome &&
      (!p.packed || decide (p.addr % Config.slotsPerPage + (placeSlots s e p).length ≤ Config.slotsPerPage))) &&
    slots.all (fun a => !written s a) && decide slots.Nodup && landOk s e l && directOk s e l && !rekeying s e.sqe.nsid

/-- The tag of a landed slot (Table 4.3). -/
def slotTag (s : State) (e : Docket) (p : Placement) (pos total k : Nat) : Tag :=
  { nsid := e.sqe.nsid, unit := (match e.zoneAt with | some (z, _, _) => p.unit - z * zoneSize | none => p.unit)
    zone := (match e.zoneAt with | some (z, _, _) => z | none => 0xFFFFFFFF)
    ljsn := e.issueJsn, cseq := s.media.cseq, cpos := pos, last := pos + 1 == total
    pstart := p.packed && k == 0, pcont := p.packed && k != 0, dump := false }

/-- The tweak of a unit's first slot: its offset in the namespace over 4,096 (R339). -/
def unitTweak (s : State) (e : Docket) (u : Nat) : Nat := if e.zoneAt.isSome then u else u * unitSlots (getNs s e.sqe.nsid).lbaf

/-- Slots are programmed, in order, from position `pos` of the command, sealed under the namespace's key. -/
def programSlots (s : State) (e : Docket) (total : Nat) : Nat → List Placement → State
  | _, [] => s
  | pos, p :: rest =>
    let b := placeForm s e p
    let n := ceilDiv b.length 4096
    let slot (k : Nat) : Slot := {
      data := (b.drop (k * 4096)).take 4096, key := (getNs s e.sqe.nsid).keyGen, tag := if p.landed then some (slotTag s e p (pos + k) total k) else none
      sealKey := xtsKey s p.addr e.sqe.nsid, tweak := unitTweak s e p.unit + k, time := s.nowMs }
    let f := (List.range n).foldl (fun f k => tabPut f (p.addr + k) (some (slot k))) s.media.flash
    let s := { s with media := { s.media with flash := f }, host := { s.host with bytesMedia := s.host.bytesMedia + n * 4096 } }
    let s := modBlk s (addrBlock p.addr) (fun x => { x with pool := if p.landed then 1 else 6, open_ := p.landed || x.open_ })
    let s := if e.pack ∧ e.sqe.kind ≠ .writeUncorrectable then bump s 0x7040 (if p.packed then 7 else 8) 1 else s
    let s := bump s 0x7060 1 (n * 4096)
    programSlots s e total (pos + n) rest

/-- The rows that a direct write programmed get their parity (R95). -/
def directRows (s : State) (e : Docket) (l : List Placement) : State :=
  match e.zoneAt with
  | some (z, u, _) =>
    let rows := (l.filter (fun p => !p.landed)).length / rowUnits
    if rows = 0 then s else wholeRows s (getLot s.media.cur (getZone s.media.cur e.sqe.nsid z).lot) (u / rowUnits) (u / rowUnits + rows)
  | none => s

/-- A write's data is programmed (steps 6 to 8). CSEQ rises by one for each landed write command. -/
def programmed (s : State) (d : Nat) (l : List Placement) : State :=
  let e := getDk s d
  let total := ((l.map (placeSlots s e)).flatten).length
  let s := directRows (programSlots s e total 0 l) e l
  let s := { s with media := { s.media with cseq := (s.media.cseq + b2n (l.any (·.landed))) % 2 ^ 32 } }
  let s := setDk s d { e with programmed := true, places := l }
  flushCheck (if e.word = .committed then resumeHeld (stepNine s d) else s)

/-- LOTMEMBER records that give every member lying in a block another block and member state. -/
def memberRecs (m : MapSt) (b dst st : Nat) : List JRec :=
  (m.lots.map (fun l => ((getLot m l.1).members.zipIdx.filter (fun x => memberBlock (getLot m l.1) x.2 x.1 == b)).map (fun x =>
    jrec 0x21 0 l.1 0 0 (x.2 + (dst % 2 ^ 16 + dst / 2 ^ 27 % 32 * 2 ^ 16 + st * 2 ^ 21) * 32)))).flatten

/-- The records that move every unit of a block to the same slots of another: MAP and ZLAND records of
what lies there, or the LOTMEMBER record of a lot's member. -/
def moveRecs (s : State) (b dst : Nat) : List JRec :=
  let m := newestMap s
  let moved (a : Nat) : Nat := blockAddr dst + (a - blockAddr b)
  ((m.map.filter (fun e => mMapped e.2 && addrBlock (mAddr e.2) == b)).map (fun e =>
      wordRec (e.1 / 2 ^ 48) (e.1 % 2 ^ 48) (e.2 - mAddr e.2 + moved (mAddr e.2)))) ++
    ((m.zland.filter (fun e => addrBlock e.2 == b)).map (fun e =>
      jrec 0x10 (e.1 / 2 ^ 56) (e.1 % 2 ^ 32) 1 (moved e.2) (e.1 / 2 ^ 32 % 2 ^ 24))) ++ memberRecs m b dst 0

/-- The programmed pages of a block are moved into another, which serves in its pool (R141 steps 2 to 4). -/
def moveBlock (s : State) (b dst pool : Nat) : State :=
  let rs := moveRecs s b dst
  let l := s.media.flash.filter (fun e => addrBlock e.1 == b && e.2.isSome)
  let f := l.foldl (fun f e => tabPut f (blockAddr dst + (e.1 - blockAddr b)) e.2) s.media.flash
  let s := { s with media := { s.media with flash := f }, host := { s.host with bytesMedia := s.host.bytesMedia + 4096 * l.length } }
  journalOp (modBlk s dst (fun x => { x with pool := pool, open_ := pool == 1 })) rs

/-! ### Page reads -/

/-- What one page read leaves behind: the block's read count, and the marks of the recovery ladder
(R140, R143, R150). -/
def notePage (s : State) (p : PageRead) : State :=
  let b := addrBlock p.addr
  let s := modBlk s b (fun x => { x with reads := x.reads + 1 })
  match p.step with
  | some 3 => queueRefresh (bump s 0x4030 4 1) b 5
  | some 4 =>
    let s := queueRefresh (bump s 0x4030 5 1) b 5
    modBlk s b (fun x => { x with step4 := x.step4 + 1, retireNext := x.retireNext || decide (1 ≤ x.step4) })
  | some _ => if dget s 0x4040 4 < p.bits then queueRefresh s b 8 else s
  | none => s

/-- The lot and row that a page lies in. -/
def pageRow (s : State) (a : Nat) : Option (Nat × Nat) :=
  if (getBlk s (addrBlock a)).pool = 6 then (lotWith s.media.cur (addrBlock a)).map (fun l => (l, slotRow a)) else none

/-- A member of a lot cannot be read: it is lost, or its channel has failed. -/
def memberGone (s : State) (x : Lot) (i : Nat) : Bool :=
  s.media.failedCh.contains (32 * x.chgrp + i) || (match x.members[i]? with | some m => m.mstate == 2 | none => false)

/-- How a page may be read (R96, R140): a page of a lost member only by a rebuild; a rebuild only where no
other page of its row is known to be unreadable; a landed page's ladder ends at step 3. -/
def pageOk (s : State) (ps : List PageRead) (p : PageRead) : Bool :=
  match p.step with
  | none => true
  | some k =>
    decide (1 ≤ k) && decide (k ≤ 4) &&
      (match pageRow s p.addr with
      | some (l, row) =>
        let x := getLot s.media.cur l
        let me := slotMember p.addr
        if k = 4 then
          (List.range 32).all (fun i => i == me || !memberGone s x i) &&
            ps.all (fun q => q.addr == p.addr || pageRow s q.addr != some (l, row) || (q.step != none && q.step != some 4))
        else !memberGone s x me
      | none => k != 4 && !s.media.failedCh.contains (addrChannel p.addr))

/-- A page read is awaited by the docket entry's command: by one still Admitted, or by a Read whose first page
has gone to the host. -/
def readDue (s : State) (d : Nat) (ps : List PageRead) : Bool :=
  let e := getDk s d
  dkUsed s d && (e.word == .admitted || (e.word == .committed && e.sqe.kind == .read)) && !ps.isEmpty &&
    ps.all (fun p => e.reads.contains p.addr) && decide (ps.map (·.addr)).Nodup && ps.all (pageOk s ps) && !rekeying s e.sqe.nsid

/-- FLASH_READ_COMPLETE: some of the pages the command waits for have been read; the last of them end its
reads. A Read commits when the first page that could be recovered goes to the host (Table 2.8). -/
def execFlashReadComplete (d : Nat) (ps : List PageRead) (s : State) : Res :=
  let e := getDk s d
  .next (when (readDue s d ps) s
    (let s := ps.foldl notePage s
     let failed := e.failed ++ (ps.filter (fun p => p.step.isNone)).map (·.addr)
     let left := e.reads.filter (fun a => !(ps.any (fun p => p.addr == a)))
     if left.isEmpty then (if e.partRead then finishPart s d failed else finishRead s d failed)
     else
       let goes := e.sqe.kind == .read && ps.any (fun p => p.step.isSome)
       modDk s d (fun e => { e with reads := left, failed := failed, word := if goes then .committed else e.word })))

end Sys2Proof.Machine
end

