-- ==== Sys2Proof/Machine/Customs.lean ====
section
/-!
DEFINITION. The meanings of the scan commands: Customs Scan, SCAN_SLOT_GRANT, CUSTOMS_PAGE,
SCAN_NOTICE, SCAN_RING_POLL, SCAN_END (R281 to R303).
-/
namespace Sys2Proof.Machine

/-- The rows 1 to 5 of Table 10.10 for a scan about to be accepted: code and status of the first
that applies. `raw` is row 1 of the form at hand, `granules` the whole LBAs of a granule. -/
def scanRefusal (s : State) (fn : Nat) (sc : Scan) (raw : Bool) (slba nlb : Nat) (descOk : Bool) : Option (Nat × Status) :=
  let ns := getNs s sc.nsid
  let g := unitLbas ns.lbaf
  let lease := if fn = 0 then 0 else slmSize s sc.space
  if raw then some (3, .invalidField)
  else if !attachedTo s fn sc.nsid then some (3, .invalidNamespaceOrFormat)
  else if !heldHere s sc.nsid then some (6, .anaInaccessible)
  else if ns.nsze < slba + nlb then some (3, .lbaOutOfRange)
  else if slba % g ≠ 0 ∨ nlb % g ≠ 0 ∨ 2 ^ 32 < nlb / g then some (3, .invalidField)
  else if lease < sc.ringOff + sc.ringLen ∨ (sc.slmMode ∧ lease < sc.outOff + sc.outSlots * 65536) ∨ !descOk ∨
      (!sc.fromHost ∧ coreCap s sc.space = 0) then some (1, .vendor 0x82)
  else none

/-- An accepted scan waits for a slot, with a tag the manual leaves open. -/
def scanAccept (s : State) (sc : Scan) : State :=
  let i := s.customs.nextScan
  let tag := (drawn s) % 2 ^ 32
  let s := draw { s with customs := { s.customs with nextScan := i + 1 } }
  setScan s i { sc with state := 1, tag := tag }

/-- A thread's SCAN record (Table 10.9) reaches firmware (R298). -/
def scanRequest (s : State) (t : Nat) (r : List Byte) : State :=
  let th := getThr s t
  let fl := recNat r 4 4
  let nown := bitsOf fl 4 5 + 1
  let slm := bitOf fl 0
  let ring := recNat r 36 4
  let own := (List.range 4).map (fun i => recNat r (56 + 4 * i) 4)
  let dAddr := recNat r 24 8
  let nsid := recNat r 0 4
  let lbaf := (getNs s nsid).lbaf
  let space := th.space
  let dOk := if bitOf fl 1 then decide (dAddr + 512 ≤ slmSize s space)
    else match berthClass dAddr with
      | some true =>
        let a := farBase + (dAddr - farBase) / 65536 * 65536
        decide (dAddr + 512 ≤ a + 65536) && (getBerth s a).alloc && ((getBerth s a).owner == threadTag t || (getBerth s a).claims.contains (threadTag t))
      | _ => false
  let desc := if bitOf fl 1 then slmRead s space dAddr 512 else memRead s.dram dAddr 512
  let raw := bitOf fl 3 || bitsOf fl 6 31 != 0 || ring == 0 || decide (4096 < ring) || recNat r 16 8 == 0 ||
    (if slm then recNat r 44 4 == 0 || nown != 1 || own.any (· != 0) else recNat r 40 4 != 0 || recNat r 44 4 != 0 ||
      (own.drop nown).any (· != 0) || own.any (fun o => decide (2 ^ 24 ≤ o)) || !shareNamesOk s (threadTag t) (own.take nown)) ||
    bitsOf (recNat r 48 4) 24 31 != 0 || bitsOf (recNat r 52 4) 24 31 != 0
  let sc : Scan := { Scan.empty with
    owner := t, space := space, nsid := nsid, first := recNat r 8 8 / unitLbas lbaf, count := recNat r 16 8 / unitLbas lbaf
    desc := desc, slmMode := slm, nowait := bitOf fl 2, ringOff := recNat r 32 4 * 4096, ringLen := ring * 4096
    outOff := recNat r 40 4 * 65536, outSlots := recNat r 44 4, channel := bitsOf (recNat r 48 4) 0 23
    endCh := bitsOf (recNat r 52 4) 0 23, owners := own.take nown, result := recNat r 72 8 }
  match scanRefusal s (fnOf space) sc raw (recNat r 8 8) (recNat r 16 8) dOk with
  | some (code, st) => scanReport s sc code 0 st 0 0
  | none => scanAccept s sc

/-- Customs Scan (R300): SLM mode, the descriptor in the data of the command. -/
def customsScan (s : State) (d : Nat) (desc : List Byte) : State :=
  let e := getDk s d
  let dw (i : Nat) : Nat := ((e.sqe.dw[i]?).getD 0).toNat
  let slba := dw 0 + dw 1 * 2 ^ 32
  let nlb := dw 2 + 1
  let lbaf := (getNs s e.sqe.nsid).lbaf
  let ring := (bitsOf (dw 5) 0 11 + 1) * 4096
  let raw := bitsOf (dw 3) 1 31 != 0 || bitsOf (dw 4) 22 31 != 0 || bitsOf (dw 5) 12 31 != 0 || e.sqe.dw3 == 0
  let sc : Scan := { Scan.empty with
    fromHost := true, owner := d, space := tenantOf e.fn, nsid := e.sqe.nsid, first := slba / unitLbas lbaf, count := nlb / unitLbas lbaf
    desc := desc, slmMode := true, nowait := bitOf (dw 3) 0, ringOff := bitsOf (dw 4) 0 21 * 4096, ringLen := ring
    outOff := e.sqe.dw2.toNat * 65536, outSlots := e.sqe.dw3.toNat }
  if rekeying s e.sqe.nsid then s
  else match scanRefusal s e.fn sc raw slba nlb true with
  | some (_, st) => ioFail s d st
  | none => scanAccept (modDk s d (fun e => { e with started := true, aux := s.customs.nextScan })) sc

def execCustomsScan (d : Nat) (desc : List Byte) (s : State) : Res :=
  io s d .customsScan (customsScan s d desc)

/-- The slot numbers in use. -/
def slotsUsed (s : State) : List Nat :=
  (s.customs.scans.filter (fun e => e.2.state == 2 || e.2.state == 3)).map (fun e => e.2.slot)

/-- The oldest waiting scan takes the lowest free slot number (R282); its descriptor is checked and
loaded (R288). -/
def execScanSlotGrant (i : Nat) (s : State) : Res :=
  let sc := getScan s i
  let first := (s.customs.scans.find? (fun e => e.2.state == 1)).map Prod.fst
  .next (match lowestFrom (fun k => !(slotsUsed s).contains k) 16 0 with
    | some k =>
      if first = some i ∧ s.host.activation.isNone then
        match descCheck sc.desc (4096 * unitSlots (getNs s sc.nsid).lbaf) with
        | some (off, code) =>
          scanReport (setScan (bump s 0x7030 0x07 1) i Scan.empty) sc 2 code (.vendor 0x86) (code + off * 65536) 0
        | none =>
          let s := setScan s i { sc with state := 2, slot := k }
          slmWrite s sc.space sc.ringOff (List.replicate 256 0)
      else s
    | none => s)

/-- Notice entries of a scan's ring (R295). -/
def ringEntries (sc : Scan) : Nat := (sc.ringLen - 256) / 8

/-- The ring has no place for the next notice (R297). -/
def ringFull (sc : Scan) : Bool :=
  decide (sc.consumed + (if sc.slmMode then min (ringEntries sc) sc.outSlots else ringEntries sc) ≤ sc.produced)

/-- A far berth granted to a unit that no scan uses yet. -/
def unitSpare (s : State) (u : Nat) : Option Nat :=
  (ownedBy s (unitTag u)).find? (fun a =>
    !(s.customs.scans.any (fun e => e.2.open_.any (fun b => b.2.addr == a) || e.2.closed.any (fun b => b.addr == a))))

/-- A unit takes a berth for its output: one already granted, or a new one. -/
def unitTake (s : State) (u : Nat) : Option (Nat × State) :=
  match unitSpare s u with
  | some a => some (a, setBerth s a { (getBerth s a) with done := some (0, 0) })
  | none => poolTake s true (unitTag u)

/-- One output record joins the unit's open berth, which is closed and replaced where the record
does not fit (R294); the flag says whether a berth took it. -/
def putRecord (s : State) (i u gran : Nat) (r : List Byte) : State × Bool :=
  let sc := getScan s i
  let b := tabGet CBerth.none sc.open_ u
  if b.addr ≠ 0 ∧ b.bytes.length + r.length ≤ 65472 then
    (setScan s i { sc with open_ := tabSet CBerth.none sc.open_ u { b with records := b.records + 1, bytes := b.bytes ++ r, firstG := min b.firstG gran, lastG := max b.lastG gran }, outBytes := sc.outBytes + r.length }, true)
  else
    let sc := if b.addr ≠ 0 then { sc with closed := sc.closed ++ [b], open_ := tabDrop sc.open_ u } else sc
    let s := setScan s i sc
    match unitTake s u with
    | none => (s, false)
    | some (a, s) =>
      let s := setBerth s a { (getBerth s a) with done := none }
      (modScan s i (fun sc => { sc with open_ := tabSet CBerth.none sc.open_ u { unit := u, addr := a, records := 1, bytes := r, firstG := gran, lastG := gran, last := false }, outBytes := sc.outBytes + r.length }), true)

/-- The records of a granule are evaluated in order (R290, R293), up to the first that finds no berth: what is left
then, and its index. -/
def evalRecords (i u gran : Nat) (d : List Byte) : List (List Byte) → Nat → State → State × Nat × List (List Byte)
  | [], ord, s => (s, ord, [])
  | r :: rs, ord, s =>
    if recMatches d r ∧ !dNoOut d then
      match putRecord s i u gran (outRecord d r gran ord) with
      | (s, true) => evalRecords i u gran d rs (ord + 1) (countRecord i u d s r)
      | (s, false) => (s, ord, r :: rs)
    else evalRecords i u gran d rs (ord + 1) (countRecord i u d s r)

/-- A unit waits for a far berth that it has asked for. -/
def unitAsks (s : State) (u : Nat) : Bool := s.pool.farWait.any (fun w => w.tag == unitTag u) || s.pool.held.any (fun w => w.tag == unitTag u)

/-- A unit evaluates the records of a granule. Where it finds no far berth it keeps the records left and waits for
one in the class's queue, once (R22, R165); for a scan that set NOWAIT, its request having returned code 1, what has
been read is evaluated and the scan ends with code 4 (R301, R302). -/
def unitRun (s : State) (i u : Nat) (x : ScanRest) : State :=
  let d := (getScan s i).desc
  match evalRecords i u x.gran d x.recs x.ord s with
  | (s, _, []) => granuleParsed (modScan s i (fun sc => { sc with rest := tabDrop sc.rest u })) i x.gran x.lenErr
  | (s, ord, left) =>
    if (getScan s i).nowait then
      scanFinish (countCode (granuleParsed (left.foldl (countRecord i u d) s) i x.gran x.lenErr) 1) i 4 false
    else
      let s := modScan s i (fun sc => { sc with rest := (u, { x with ord := ord, recs := left }) :: tabDrop sc.rest u })
      if unitAsks s u then s
      else berthRequest s ⟨unitReq u, unitTag u, { w0 := 0x30, w1 := 0, w2 := 0, w3 := 0, w4 := 0 }⟩

/-- The unit that holds records of a granule back, with them. -/
def restOf (sc : Scan) (g : Nat) : Option (Nat × ScanRest) := sc.rest.find? (fun e => e.2.gran == g)

/-- The reads of a scan on a quay die are paused: a unit there holds records back for want of a berth (R22). -/
def scanPaused (sc : Scan) (quay : Nat) : Bool := sc.rest.any (fun e => e.1 / 8 == quay)

/-- A granule that cannot be read is counted (R290). -/
def granuleBad (s : State) (i g : Nat) : State :=
  let sc := getScan s i
  granuleDone s i g (fun c => { c with unreadable := c.unreadable + 1, firstBad := min c.firstBad ((sc.first + g) * unitLbas (getNs s sc.nsid).lbaf) })

/-- The pages of a granule. -/
def granulePages (s : State) (sc : Scan) (g : Nat) : List Nat := ((unitSlotList s sc.nsid (sc.first + g)).map pageOf).dedup

/-- The first page read is the commit point of a host's scan (Table 2.8). -/
def scanCommits (s : State) (sc : Scan) : State :=
  if sc.fromHost then modDk s sc.owner (fun e => { e with word := if e.word = .admitted then .committed else e.word }) else s

/-- A granule of a running scan reaches its customs unit, its pages read (R281 to R292); or the unit goes on with the
records of it that it held back. `g` is the granule from the scan's first. -/
def customsPage (s : State) (i g : Nat) (reads : List PageRead) : State :=
  let sc := getScan s i
  let unit := sc.first + g
  match restOf sc g with
  | some (u, x) => unitRun s i u x
  | none =>
  match locate s sc.nsid unit with
  | .zeroes _ => granuleDone s i g (fun sc => { sc with skipped := sc.skipped + 1 })
  | .packed _ => granuleDone s i g (fun sc => { sc with packed := sc.packed + 1 })
  | .uncorr => granuleBad s i g
  | .broken => granuleBad (noteUnits s sc.nsid [unit]) i g
  | .stored a =>
    let s := reads.foldl notePage (scanCommits s sc)
    if reads.any (fun p => p.step.isNone) then granuleBad s i g
    else
      let data := unitData s sc.nsid unit
      let rs := granuleRecords sc.desc data
      unitRun (bump s 0x7060 1 data.length) i (addrChannel a / 8) { gran := g, ord := 0, recs := rs.1, lenErr := rs.2 }

/-- The pages of a granule can be read now: each with its outcome, by a quay die with power where the scan is
not paused, its ring having room (R297). A granule already read needs no page. -/
def pagesCome (s : State) (sc : Scan) (g : Nat) (reads : List PageRead) : Bool :=
  if (restOf sc g).isSome then reads.isEmpty else
  !ringFull sc && match locate s sc.nsid (sc.first + g) with
  | .stored a => quayOn s (addrQuay a) && !scanPaused sc (addrQuay a) && decide (reads.map (·.addr) = granulePages s sc g) &&
      reads.all (pageOk s reads) && !rekeying s sc.nsid
  | _ => reads.isEmpty

/-- CUSTOMS_PAGE: a granule not yet handled, while no activation pauses the scan (R302). -/
def execCustomsPage (i g : Nat) (reads : List PageRead) (s : State) : Res :=
  let sc := getScan s i
  .next (when (sc.state == 2 && decide (g < sc.count) && !sc.done.contains g &&
    s.host.activation.isNone && pagesCome s sc g reads) s (settleAll (customsPage s i g reads)))

/-- The sequencer delivers the oldest closed berth (R295, R296). -/
def scanNotice (s : State) (i : Nat) (b : CBerth) (rest : List CBerth) : State :=
  let sc := getScan s i
  let bytes := padTo 65536 (berthHeader sc b ++ b.bytes)
  let n := sc.produced
  let slot := sc.outOff + n % sc.outSlots * 65536
  let s := { s with dram := memWrite s.dram b.addr bytes }
  let s := if sc.slmMode then berthFreed (slmWrite s sc.space slot bytes) b.addr
    else setBerth s b.addr { (getBerth s b.addr) with owner := sc.owners.getLastD 0, claims := (getBerth s b.addr).claims ++ sc.owners.dropLast }
  let where_ := if sc.slmMode then slot else b.addr
  let s := slmWrite s sc.space (sc.ringOff + 256 + n % ringEntries sc * 8) (leBytes 8 (b.records + where_ * 65536))
  let s := slmWrite s sc.space sc.ringOff (leBytes 8 (n + 1))
  let sc' := { sc with produced := n + 1, closed := rest }
  let s := setScan s i sc'
  let s := if ringFull sc' then bump s 0x7030 0x08 1 else s
  if sc.fromHost then s else postToken s (b.unit / 8) sc.space sc.channel 1 false

def execScanNotice (i : Nat) (s : State) : Res :=
  let sc := getScan s i
  .next (match sc.closed with
    | b :: rest => when (sc.state == 2 && !ringFull sc) s (settleAll (scanNotice s i b rest))
    | [] => s)

/-- The sequencer reads CONSUMED from the ring (R297). -/
def execScanRingPoll (i : Nat) (s : State) : Res :=
  let sc := getScan s i
  .next (when (sc.state == 2) s
    (let c := recNat (slmRead s sc.space (sc.ringOff + 8) 8) 0 8
     setScan s i { sc with consumed := c }))

/-- A granule with no page to read. -/
def granuleSkips (s : State) (sc : Scan) (g : Nat) : Bool :=
  (restOf sc g).isNone && match locate s sc.nsid (sc.first + g) with
  | .zeroes _ | .packed _ => true
  | _ => false

/-- Granules still to be handled. -/
def granulesLeft (sc : Scan) : List Nat := (List.range sc.count).filter (fun g => !sc.done.contains g)

/-- SCAN_END: once every granule with a page has been handled, the rest is counted as skipped and
each unit closes its partly filled berth; once every berth is delivered the scan ends with code 0
(R294, R301). -/
def execScanEnd (i : Nat) (s : State) : Res :=
  let sc := getScan s i
  let left := granulesLeft sc
  .next (when (sc.state == 2 && left.all (granuleSkips s sc)) s
    (let s := left.foldl (fun s g => customsPage s i g []) s
     let sc := getScan s i
     if sc.open_.isEmpty ∧ sc.closed.isEmpty then settleAll (scanFinish s i 0 false)
     else setScan s i { sc with open_ := [], closed := sc.closed ++ sc.open_.map (fun e => { e.2 with last := true }) }))

end Sys2Proof.Machine
end

