-- ==== Sys2Proof/Machine/TallyOps.lean ====
section
/-!
DEFINITION. The tally array (chapter 13): banks, entries, searches and loads, and the frames of the
cascade lines (R472 to R475).
-/
namespace Sys2Proof.Machine

def getRow (s : State) (r : Nat) : Row := tabGet Row.empty s.tally.rows r
def setRow (s : State) (r : Nat) (v : Row) : State :=
  { s with tally := { s.tally with rows := tabSet Row.empty s.tally.rows r v } }

/-! ### Banks (R344, R346, R349) -/

def bankCfg (s : State) (b : Nat) : Nat := tabGet 0 s.tally.banks b
def cfgTag (c : Nat) : Nat := bitsOf c 0 7
def cfgMask (c : Nat) : Nat := bitsOf c 8 15
def cfgWidth (c : Nat) : Nat := bitsOf c 16 17
def cfgPfoff (c : Nat) : Nat := bitsOf c 20 29
/-- Rows of an entry, and key bits. -/
def rowsPer (w : Nat) : Nat := 2 ^ w
def keyBits (w : Nat) : Nat := 160 * rowsPer w
def bankWidth (s : State) (b : Nat) : Nat := cfgWidth (bankCfg s b)

/-- The tenant a bank is leased to. -/
def bankTenant (s : State) (b : Nat) : Option Nat :=
  (List.range 1024).find? (fun t =>
    decide (dget s (0x6000 + t) 0x0C ≤ b) && decide (b < dget s (0x6000 + t) 0x0C + dget s (0x6000 + t) 0x0D))

/-- A space reaches a bank: a tenant its leased banks, firmware those leased to no tenant. -/
def bankOk (s : State) (space b : Nat) : Bool :=
  decide (b < 256) && (if space < 1024 then
      decide (dget s (0x6000 + space) 0x0C ≤ b) && decide (b < dget s (0x6000 + space) 0x0C + dget s (0x6000 + space) 0x0D)
    else (bankTenant s b).isNone)

/-- A bank's rows become invalid and its configuration is reset (R350, R351). -/
def clearBank (s : State) (b : Nat) : State :=
  { s with tally := { s.tally with
      rows := s.tally.rows.filter (fun e => e.1 / 512 != b), banks := tabSet 0 s.tally.banks b 0 } }

/-- The banks leased to a tenant. -/
def tenantBanks (s : State) (t : Nat) : List Nat :=
  (List.range (dget s (0x6000 + t) 0x0D)).map (· + dget s (0x6000 + t) 0x0C)

/-- A function-level reset or PERST_N of a tenant clears its banks (R351). -/
def clearTenantBanks (s : State) (t : Nat) : State := (tenantBanks s t).foldl clearBank s

/-! ### Searching (R345, R347, R354, R355) -/

/-- The 160 bits of part `k` of a key. -/
def part160 (v k : Nat) : Nat := v / 2 ^ (160 * k) % 2 ^ 160

/-- The entry whose first row is `i` matches the key. -/
def entryMatches (s : State) (w key i : Nat) : Bool :=
  (List.range (rowsPer w)).all (fun k =>
    let r := getRow s (i + k)
    r.valid && (part160 key k &&& r.care) == r.value)

/-- A bank is powered for a key (R347). -/
def bankPowered (s : State) (key b : Nat) : Bool :=
  let c := bankCfg s b
  ((key / 2 ^ cfgPfoff c % 256) ^^^ cfgTag c) &&& cfgMask c == 0

/-- The matching indexes of a range of banks, ascending; after START for a next. -/
def matchesOf (s : State) (first n key : Nat) (after : Option Nat) : List Nat :=
  (tabKeys s.tally.rows).filter (fun i =>
    let b := i / 512
    decide (first ≤ b) && decide (b < first + n) && bankPowered s key b && i % rowsPer (bankWidth s b) == 0 &&
      entryMatches s (bankWidth s b) key i && after.all (fun a => decide (a < i)))

/-- The result word of some matches, with the PARTIAL bit. -/
def searchWord (l : List Nat) (partial_ : Bool) : Nat :=
  b2n (!l.isEmpty) * 16 + b2n (decide (2 ≤ l.length)) * 32 + b2n partial_ * 64 + min l.length 255 * 256 +
    l.headD 0 * 2 ^ 32

/-- Two result words merged (R356): the partner's entries rank after every local one. -/
def mergeWords (a b : Nat) : Nat :=
  let n := bitsOf a 8 15 + bitsOf b 8 15
  let idx := if bitOf a 4 then bitsOf a 32 49 else if bitOf b 4 then 131072 + bitsOf b 32 49 else 0
  b2n (decide (0 < n)) * 16 + b2n (decide (2 ≤ n)) * 32 + min n 255 * 256 + idx * 2 ^ 32

/-- The banks of a range share one width. -/
def sameWidth (s : State) (first n : Nat) : Bool :=
  (List.range n).all (fun k => bankWidth s (first + k) == bankWidth s first)

/-- The code of a search over a range of banks (Table 13.5); `clean` says its fields are valid. -/
def searchCode (s : State) (space first n : Nat) (clean : Bool) : Nat :=
  if !((List.range n).all (fun k => bankOk s space (first + k))) then 1
  else if !clean || n == 0 || decide (256 < n) || !sameWidth s first n then 2
  else 0

/-- An operation is counted: an entry of record 7070, and REJECTS where its code is not 0. -/
def tallyCount (s : State) (sub code : Nat) : State :=
  if code = 0 then bump s 0x7070 sub 1 else bump (bump s 0x7070 sub 1) 0x7070 6 1

/-- Banks powered are gathered for BANKS_POWERED. -/
def notePower (s : State) (first n key : Nat) : State :=
  { s with tally := { s.tally with
      powSum := s.tally.powSum + ((List.range n).filter (fun k => bankPowered s key (first + k))).length
      powCnt := s.tally.powCnt + 1 } }

/-! ### Search records (Table 13.3) -/

def srFirst (r : List Byte) : Nat := recNat r 8 1
def srN (r : List Byte) : Nat := recNat r 10 2
def srCascade (r : List Byte) : Bool := bitOf (recNat r 12 1) 0
def srStart (r : List Byte) : Nat := recNat r 16 4
def srKey (r : List Byte) : Nat := recNat r 24 80

/-- The record's fields are valid for the width of its first bank. -/
def srClean (s : State) (r : List Byte) (next : Bool) : Bool :=
  recNat r 9 1 == 0 && decide (recNat r 12 1 ≤ 1) && recNat r 13 3 == 0 &&
  (if next then decide (srStart r < 2 ^ 18) else srStart r == 0) &&
  bitsOf (recNat r 20 4) 25 31 == 0 && decide (srKey r < 2 ^ keyBits (bankWidth s (srFirst r)))

/-! ### Cascade frames (R473, Table 18.6) -/

def wordBytes (ws : List W64) : List Byte := (ws.map (fun w => leBytes 8 w.toNat)).flatten
/-- A frame with its check word. -/
def cascadeFrame (ws : List W64) : List W64 := ws ++ [BitVec.ofNat 64 (crc32c (wordBytes ws))]
/-- The check word of a frame holds. -/
def frameOk (ws : List W64) : Bool :=
  ws.getLast? == some (BitVec.ofNat 64 (crc32c (wordBytes ws.dropLast)))
/-- Key words of a width. -/
def keyWordsOf (w : Nat) : Nat := if w = 0 then 3 else if w = 1 then 5 else 10

def cascadeHeader (ftype w first n space tag : Nat) : W64 :=
  BitVec.ofNat 64 (ftype + w * 2 ^ 4 + first * 2 ^ 8 + n * 2 ^ 16 + space * 2 ^ 25 + tag * 2 ^ 36)

/-- The request of a search (R474). -/
def requestFrame (space tag w first n key : Nat) (after : Option Nat) : List W64 :=
  let start := match after with | some a => if a < 131072 then 0 else a - 131072 | none => 0
  let ft := match after with | some a => if a < 131072 then 1 else 2 | none => 1
  cascadeFrame (cascadeHeader ft w first n space tag :: BitVec.ofNat 64 start ::
    (List.range (keyWordsOf w)).map (fun k => BitVec.ofNat 64 (key / 2 ^ (64 * k))))

/-- A tag no outstanding search has; which one the manual leaves open. -/
def freeTag (s : State) : Nat :=
  match lowestFrom (fun k => !(s.tally.waiting.any (fun c => c.tag == (drawn s + k) % 4096))) 65 0 with
  | some k => (drawn s + k) % 4096
  | none => 0

/-- The partner's array is reachable (R358, R472). -/
def cascadeUp (s : State) : Bool := s.tally.miUp && s.pair.state == 1

/-- What a search of valid fields does at the array: a local word, or a wait for the partner.  The
caller is a thread with its record, or a docket entry. -/
def searchAt (s : State) (space first n key : Nat) (after : Option Nat) (cascade : Bool)
    (thread : Nat) (docket : Option Nat) (record : List Byte) : State × Option Nat :=
  let s := notePower s first n key
  let l := matchesOf s first n key after
  if !cascade then (s, some (searchWord l false))
  else if !cascadeUp s then (bump s 0x7070 4 1, some (searchWord l true))
  else if 64 ≤ s.tally.waiting.length then (bump (bump s 0x7070 4 1) 0x7070 9 1, some (searchWord l true))
  else
    let tag := freeTag s
    let s := emit (draw s) (.cascade (requestFrame space tag (bankWidth s first) first n key after))
    ({ s with tally := { s.tally with waiting := s.tally.waiting ++ [⟨tag, thread, docket, record, searchWord l false⟩] } }, none)

/-! ### Loads (R350, R353, Table 13.4) -/

/-- The row: bits [16:0] of INDEX. -/
def ldIndex (r : List Byte) : Nat := recNat r 8 4 % 2 ^ 17
def ldKind (r : List Byte) : Nat := recNat r 12 1
def ldRows (r : List Byte) : Nat := recNat r 20 4
def ldValue (r : List Byte) : Nat := recNat r 24 80
def ldCare (r : List Byte) : Nat := recNat r 104 80

/-- A bank holds a valid row. -/
def bankHasValid (s : State) (b : Nat) : Bool := s.tally.rows.any (fun e => e.1 / 512 == b && e.2.valid)

/-- The banks a load record covers. -/
def ldBanks (r : List Byte) : List Nat :=
  let i := ldIndex r
  if ldKind r = 2 then
    (List.range ((i + ldRows r - 1) / 512 + 1 - i / 512)).map (· + i / 512)
  else [i / 512]

/-- The fields of a load record are valid; `kinds` lists the LKINDs its row takes. -/
def ldClean (s : State) (kinds : List Nat) (r : List Byte) : Bool :=
  let i := ldIndex r
  let b := i / 512
  kinds.contains (ldKind r) && recNat r 13 3 == 0 && bitsOf (recNat r 16 4) 25 31 == 0 && decide (recNat r 8 4 < 2 ^ 17) &&
  (if ldKind r = 2 then
    decide (1 ≤ ldRows r) && decide (ldRows r ≤ 131072) && ldValue r == 0 && ldCare r == 0 &&
      i % rowsPer (bankWidth s b) == 0 && (i + ldRows r) % rowsPer (bankWidth s ((i + ldRows r) / 512)) == 0
   else if ldKind r = 1 then
    let c := ldValue r
    ldRows r == 0 && ldCare r == 0 && i % 512 == 0 && decide (c < 2 ^ 30) && bitsOf c 18 19 == 0 &&
      decide (cfgWidth c < 3) && decide (cfgPfoff c + 8 ≤ keyBits (cfgWidth c)) &&
      (cfgWidth c == bankWidth s b || !bankHasValid s b)
   else ldRows r == 0 && i % rowsPer (bankWidth s b) == 0)

/-- The code of a load record (Table 13.5). -/
def ldCode (s : State) (space : Nat) (kinds : List Nat) (r : List Byte) : Nat :=
  if !((ldBanks r).all (bankOk s space)) then 1 else if !ldClean s kinds r then 2 else 0

/-- A load record that passed its checks takes effect in one step. -/
def ldApply (s : State) (r : List Byte) : State :=
  let i := ldIndex r
  if ldKind r = 0 then
    (List.range (rowsPer (bankWidth s (i / 512)))).foldl (fun s k =>
      setRow s (i + k) { value := part160 (ldValue r) k &&& part160 (ldCare r) k, care := part160 (ldCare r) k, valid := true }) s
  else if ldKind r = 1 then
    { s with tally := { s.tally with banks := tabSet 0 s.tally.banks (i / 512) (ldValue r) } }
  else { s with tally := { s.tally with rows := s.tally.rows.filter (fun e => decide (e.1 < i) || decide (i + ldRows r ≤ e.1)) } }

/-- One load record resolved at the array: its code, and the state after it. -/
def ldResolve (s : State) (space : Nat) (kinds : List Nat) (r : List Byte) : State × Nat :=
  let code := ldCode s space kinds r
  let s := tallyCount s 2 code
  (if code = 0 then ldApply s r else s, code)

end Sys2Proof.Machine
end

