-- ==== Sys2Proof/Machine/TempOps.lean ====
section
/-!
DEFINITION. The power cap (R412), and sensors and temperature thresholds (R497).
-/
namespace Sys2Proof.Machine

/-! ### Cap -/

/-- Maximum power of a power state, W (Table 2.12). -/
def statePower (ps : Nat) : Nat := match ps with | 0 => 520 | 1 => 400 | 2 => 280 | 3 => 160 | _ => 35

/-- The power state whose cap is in force: the one a Set Features has the module entering (R74), else the
one reached. -/
def selectedPs (s : State) : Nat := match s.host.psWait with | some w => w.target | none => s.host.ps

/-- The cap in force, W. -/
def capW (s : State) : Nat :=
  min (min (statePower (selectedPs s)) (dget s 0x2300 1))
    (min (if s.power.calFailed then 312 else 520) (if s.power.dumping then 330 else 520))

/-! ### Temperature -/

/-- A 32-bit dictionary value as a signed number, and back. -/
def signed32 (v : Nat) : Int := if v < 2 ^ 31 then (v : Int) else (v : Int) - 2 ^ 32
def unsigned32 (i : Int) : Nat := (i % 2 ^ 32).toNat

/-- The reading of sensor entry [3100.sub], in 0.1 °C. -/
def tempOf (s : State) (sub : Nat) : Int := signed32 (dget s 0x3100 sub)

/-- The highest reading of a run of sensors. -/
def hottest (s : State) (subs : List Nat) : Int :=
  match subs with
  | [] => 0
  | x :: xs => xs.foldl (fun m y => max m (tempOf s y)) (tempOf s x)

def quaySensors : List Nat := (List.range 7).map (· + 3)
def dramSensors : List Nat := (List.range 12).map (· + 10)
def ringSensors : List Nat := (List.range 4).map (· + 22)

/-- A reading in whole kelvin, rounded up. -/
def kelvin (t : Int) : Int := (2 * t + 5463 + 19) / 20

/-- Composite Temperature (0) and SMART Temperature Sensors 1 to 5, in kelvin. -/
def smartTemp (s : State) (i : Nat) : Int :=
  match i with
  | 0 => kelvin (hottest s (1 :: quaySensors ++ dramSensors))
  | 1 => kelvin (tempOf s 1)
  | 2 => kelvin (tempOf s 2)
  | 3 => kelvin (hottest s quaySensors)
  | 4 => kelvin (hottest s dramSensors)
  | _ => kelvin (hottest s ringSensors)

def wctemp : Nat := 369
def cctemp : Nat := 373

/-- The threshold of a sensor: over WCTEMP, under 273 K, unless set. -/
def threshOf (s : State) (sensor : Nat) (under : Bool) : Nat :=
  match tabFind s.service.thresh (sensor * 2 + b2n under) with
  | some v => v
  | none => if under then 273 else wctemp

/-- A sensor reads beyond one of its thresholds. -/
def beyond (s : State) (i : Nat) : Bool :=
  decide ((threshOf s i false : Int) ≤ smartTemp s i) || decide (smartTemp s i ≤ (threshOf s i true : Int))

/-- The composite, the highest die reading and SMART critical warning bit 1 follow the readings. -/
def settleTemp (s : State) : State :=
  let s := dset s 0x3100 0x20 ((smartTemp s 0).toNat % 65536)
  let top := hottest s (1 :: 2 :: quaySensors ++ dramSensors)
  let s := if signed32 (dget s 0x3100 0x22) < top then persist s 0x3100 0x22 (unsigned32 top) else s
  setWarn s 1 ((List.range 6).any (beyond s))

end Sys2Proof.Machine
end

