-- ==== Sys2Proof/Machine/ResetOps.lean ====
section
/-!
DEFINITION. Resets of one function (R69, Table 2.10), the waiting power state, and the end of a
self-test.
-/
namespace Sys2Proof.Machine

/-! ### Ports and functions (R39, R40) -/

/-- The port a virtual function is bound to; the physical function is on port 0. -/
def portOf (s : State) (fn : Nat) : Nat := if fn = 0 then 0 else dget s (0x6000 + tenantOf fn) 1

/-- Functions bound to a port, the physical function among them on port 0. -/
def boundFns (s : State) (port : Nat) : List Nat := (fnList s).filter (fun fn => portOf s fn == port)

/-! ### Power state requests (R62, R73, R74) -/

/-- The next waiting Set Features (Power Management) begins its entry. -/
def nextPower (s : State) : State :=
  match s.host.psQueue with
  | [] => { s with host := { s.host with psWait := none } }
  | w :: rest => { s with host := { s.host with psWait := some { w with saved := s.host.ps }, psQueue := rest } }

/-- The waiting request is withdrawn: the module returns to the state it held before. -/
def cancelPower (s : State) (w : PsWait) : State :=
  nextPower { s with host := { s.host with ps := w.saved } }

/-! ### Self-test (R489) -/

/-- A self-test in progress ends with a result code; the newest 20 results are kept. -/
def selfTestEnd (s : State) (result segment notRun : Nat) : State :=
  if s.service.stCode = 0 then s
  else
    let r : StResult := { test := s.service.stCode, result := result, segment := segment, notRun := notRun, nsid := s.service.stNsid, time := s.nowMs }
    { s with service := { s.service with stCode := 0, stNsid := 0, stResults := (r :: s.service.stResults).take 20 } }

/-! ### Threads and scans of a tenant -/

/-- A tenant reset stops a thread: at once, or, while it runs, at its next block boundary (R200). -/
def resetThread (s : State) (t : Nat) : State :=
  match heldCore s t with
  | some c =>
    if (getCore s c).phase = .running t then modThr s t (fun th => { th with stopping := true })
    else stopThread s t 0 false 0 0
  | none => stopThread s t 0 false 0 0

/-- The scans the function's host started end; their results are not reported. -/
def endHostScans (s : State) (fn : Nat) : State :=
  (s.customs.scans.filter (fun e => e.2.fromHost && (getDk s e.2.owner).fn == fn)).foldl (fun s e => scanFinish s e.1 5 true) s

/-- A tenant reset: threads, timers, engine locks and shared bits (Table 2.10, R195, R210). -/
def resetTenant (s : State) (space : Nat) : State :=
  let ts := threadsOf s space
  let s := ts.foldl (fun s t => releaseEngines s (threadTag t)) s
  let s := ts.foldl resetThread s
  clearShared { s with hm := { s.hm with timers := s.hm.timers.filter (fun e => !e.2.any (fun t => t.space == space)) } } space

/-! ### Commands -/

/-- What becomes of one in-flight command of a function that is reset (R61, R69): Admitted ones are
cancelled without a completion, committed writes finish internally, everything else is abandoned. -/
def resetCommand (s : State) (d : Nat) : State :=
  let e := getDk s d
  if e.word = .admitted then dkCancel s d none
  else if isWriteKind e.sqe.kind || e.word == .cancelled || e.sqe.kind == .executeProgram then modDk s d (fun e => { e with posted := true })
  else dkFree s d

/-- The commands of a function are settled. An Execute Program's entry closes with its last thread. -/
def resetCommands (s : State) (fn : Nat) : State :=
  let ds := (s.host.dockets.filter (fun e => e.2.fn == fn && e.2.remote.isNone)).map Prod.fst
  flushCheck (ds.foldl resetCommand s)

/-- Unsaved settings of Write-Path Compression made by a function fall back to the saved ones. -/
def revertCompress (s : State) (fn : Nat) : State :=
  { s with media := { s.media with cur := { s.media.cur with nss := s.media.cur.nss.map (fun e => if e.2.compressFn = fn + 1 then (e.1, { e.2 with compress := e.2.compressSaved, compressFn := 0 }) else e) } } }

/-- The controller itself: queues, freeze records, features, events and outstanding requests go;
flexible resources of the physical function take effect (R42); the Timestamp counts from here (R520). -/
def resetController (s : State) (fn : Nat) (flr : Bool) : State :=
  modFn s fn (fun f => { f with
    en := false, rdy := false, shst := 0, sqs := [], cqs := [], features := [], aers := [], events := [], freezeGen := 0, aborts := 0
    tsOffset := -(s.uptime : Int), tsSet := false, coal := [], nqSet := false, hostId := 0
    vq := if fn = 0 then f.vqNext else f.vq, vi := if fn = 0 then f.viNext else f.vi
    adminSq := if flr then 0 else f.adminSq, adminCq := if flr then 0 else f.adminCq })

/-- A controller reset, or a function-level reset, of a function. -/
def resetFn (s : State) (fn : Nat) (flr : Bool) : State :=
  let s := resetController s fn flr
  let s := endHostScans s fn
  let s := if fn = 0 then s else resetTenant s (tenantOf fn)
  let s := resetCommands s fn
  let s := revertCompress s fn
  let s := { s with pair := { s.pair with aborts := s.pair.aborts.map (fun e => (e.1, e.2.filter (fun a => a.fn != fn))), states := s.pair.states.map (fun e => match e.2 with | .adm a _ => if a.fn = fn then (e.1, .none) else e | .record _ a _ => if a.fn = fn then (e.1, .none) else e | _ => e) }, host := { s.host with admWait := s.host.admWait.filter (fun e => e.2.1.fn != fn) } }
  let s := if fn = 0 then
      let s := selfTestEnd s 2 0 0
      settleTemp { s with host := { s.host with ps := 0, psLastOp := 0, psWait := none, psQueue := [] }, service := { s.service with thresh := [] } }
    else s
  if flr ∧ fn ≠ 0 then
    let t := tenantOf fn
    clearTenantBanks { s with prog := { s.prog with slm := memClear s.prog.slm (slmAt s t) (slmAt s t + slmSize s t), ranges := s.prog.ranges.filter (fun r => r.fn != fn) } } t
  else s

end Sys2Proof.Machine
end

