-- ==== Sys2Proof/Machine/HostQueues.lean ====
section
/-!
DEFINITION. Doorbells, fetching, queues, resets of a function, virtualization, Abort, Thaw Queue and
event requests (R39 to R69, R77, R112).
-/
namespace Sys2Proof.Machine

/-! ### Doorbells (R178) -/

/-- A doorbell error event: a register of no queue, or a value out of range. -/
def doorbellError (s : State) (fn info : Nat) : State := postEvent s fn { typ := 0, info := info, log := 1 }

/-- The channel of a submission queue's doorbell event (Table 6.2). -/
def doorbellChannel (q : Sq) (fn qid : Nat) : Nat := if qid = 0 then 0xFE4000 + fn else 0xFE0000 + q.pool

/-- SQ_TAIL_DOORBELL. -/
def execSqTailDoorbell (fn qid tail : Nat) (s : State) : Res :=
  let q := getSq s fn qid
  .next (when (getFn s fn).rdy s
    (if !q.live then doorbellError s fn 0
     else if q.size ≤ tail then doorbellError s fn 1
     else kickIdle (postToken (modSq s fn qid (fun q => { q with tail := tail })) 7 fwSpace (doorbellChannel q fn qid) 1 false)))

/-- CQ_HEAD_DOORBELL: entries are consumed, and entries that waited for room are written. -/
def execCqHeadDoorbell (fn qid head : Nat) (s : State) : Res :=
  let q := getCq s fn qid
  let n := (head + q.size - q.head) % q.size
  .next (when (getFn s fn).rdy s
    (if !q.live then doorbellError s fn 0
     else if q.size ≤ head ∨ q.used < n then doorbellError s fn 1
     else
       let s := modCq s fn qid (fun q => { q with head := head, used := q.used - n, waiting := [] })
       q.waiting.foldl (fun s c => postCpl s qid c) s))

/-- AGGREGATION_TIME_EXPIRY: the pending interrupt of a vector is sent. -/
def execAggregationTimeExpiry (fn vector : Nat) (s : State) : Res :=
  .next (when (decide (0 < tabGet 0 (getFn s fn).coal vector)) s
    (emit (modFn s fn (fun f => { f with coal := tabSet 0 f.coal vector 0 })) (.msi fn vector)))

/-! ### Fetching (R53 to R58) -/

/-- The docket ceiling of a function. -/
def docketCeiling (s : State) (fn : Nat) : Nat :=
  if fn = 0 then dget s 0x5000 1 else dget s (0x6000 + tenantOf fn) 5

/-- Nothing but its turn keeps the module from fetching from an I/O submission queue: with all lock table
entries in use it fetches from none (R58). -/
def fetchReady (s : State) (fn sqid : Nat) : Bool :=
  let q := getSq s fn sqid
  adminOpen s fn && sqid != 0 && q.live && q.head != q.tail && q.freeze.isNone && !s.host.globalStop &&
    !s.power.dumping && decide (inFlight s fn < docketCeiling s fn) && decide (locksUsed s < 16384)

/-- The queues of a function with something to fetch, ascending. -/
def readyQueues (s : State) (fn : Nat) : List Nat := (tabKeys (getFn s fn).sqs).filter (fetchReady s fn)

/-- Another command may follow in the burst of the queue served last: the Arbitration Burst of feature 0x01,
2^AB commands, unlimited for AB = 7. -/
def burstLeft (f : Fn) : Bool := decide (featGet f 0x01 % 8 = 7) || decide (f.rrCount < 2 ^ (featGet f 0x01 % 8))

/-- The queues of a function are served in round robin, each for at most a burst (R55). -/
def queueTurn (s : State) (fn sqid : Nat) : Bool :=
  let f := getFn s fn
  let qs := readyQueues s fn
  let next := match qs.find? (fun q => decide (f.rrQueue < q)) with | some q => q | none => qs.headD 0
  sqid == next || (sqid == f.rrQueue && burstLeft f)

/-- Commands a function may fetch in a round: a tenant's fetch weight; the physical function, which has
none, takes a tenant's reset value (log entry 65). -/
def fetchWeight (s : State) (fn : Nat) : Nat := if fn = 0 then 16 else dget s (0x6000 + tenantOf fn) 6

/-- A function may still fetch in its round, or no function that could fetch may. -/
def roundLeft (s : State) (t : Tab Nat) (fn : Nat) : Bool := decide (tabGet 0 t fn < fetchWeight s fn)
def roundTurn (s : State) (fn : Nat) : Bool :=
  match s.host.round with
  | none => true
  | some t => roundLeft s t fn || !(fnList s).any (fun g => !(readyQueues s g).isEmpty && roundLeft s t g)

/-- The module may fetch from an I/O submission queue now: it is ready and has its turn. A queue whose head
may find too few lock entries left gives up its turn (R56). -/
def fetchOpen (s : State) (fn sqid : Nat) : Bool :=
  fetchReady s fn sqid && (decide (16383 ≤ locksUsed s) || (queueTurn s fn sqid && roundTurn s fn))

/-- A fetch is counted in the burst of its queue and in the round of its function; the weighted round
robin ends when nothing is left to fetch (log entry 65). -/
def noteTurn (s : State) (fn sqid : Nat) : State :=
  let w := fetchWeight s fn
  let s := modFn s fn (fun f => { f with rrQueue := sqid, rrCount := if sqid = f.rrQueue ∧ burstLeft f then f.rrCount + 1 else 1 })
  { s with host := { s.host with round := s.host.round.bind (fun t =>
      if (fnList s).all (fun g => (readyQueues s g).isEmpty) then none
      else if tabGet 0 t fn < w then some (tabMod 0 t fn (· + 1)) else some [(fn, 1)]) } }

/-- A lock entry widened to whole map units (R84). -/
def lockOf (s : State) (nsid lo hi : Nat) (write : Bool) : Lock :=
  let u := unitLbas (getNs s nsid).lbaf
  { nsid := nsid, lo := lo / u * u, hi := hi / u * u + (u - 1), write := write }

/-- The lowest to the highest LBA of a list of ranges. -/
def spanOf (l : List (Nat × Nat)) : Nat × Nat :=
  l.foldl (fun m r => (min m.1 r.1, max m.2 (r.1 + r.2 - 1))) (match l with | [] => (0, 0) | r :: _ => (r.1, r.1 + r.2 - 1))

/-- LBAs of a zone. -/
def zoneLbas (s : State) (nsid : Nat) : Nat := zoneSize / lbaSlots (getNs s nsid).lbaf

/-- The lock table entries of a command (Table 2.7). -/
def locksOf (s : State) (q : Sqe) : List Lock :=
  let one (w : Bool) := [lockOf s q.nsid q.slba (q.slba + q.nlb - 1) w]
  let zone :=
    let z := zoneLbas s q.nsid
    [lockOf s q.nsid (q.slba / z * z) (q.slba / z * z + z - 1) true]
  match q.kind with
  | .read | .compare | .verify => one false
  | .write | .writeZeroes | .writeUncorrectable => one true
  | .datasetManagement => [lockOf s q.nsid (spanOf q.ranges).1 (spanOf q.ranges).2 true]
  | .copy => lockOf s q.nsid (spanOf q.ranges).1 (spanOf q.ranges).2 false :: one true
  | .zoneAppend => zone
  | .zoneOpen | .zoneClose | .zoneFinish | .zoneReset | .zoneOffline =>
    if q.flag then [lockOf s q.nsid 0 ((getNs s q.nsid).nsze - 1) true] else zone
  | _ => []

/-- The docket table is full: fetching stops until GLOBAL_FETCH_RESUME (R55). A full lock table stops
it until entries free (R58). Both are counted. -/
def noteFull (s : State) (took : Bool) : State :=
  let s := if took ∧ 16384 ≤ locksUsed s then bump s 0x5000 7 1 else s
  if 262144 ≤ docketUsed s then bump { s with host := { s.host with globalStop := true } } 0x5000 6 1 else s

/-- A docket entry is opened for a command, which stalls behind earlier conflicting ones (R57). -/
def openDocket (s : State) (d fn sqid slot : Nat) (q : Sqe) : State :=
  let e : Docket := { Docket.free with word := .admitted, fn := fn, sqid := sqid, slot := slot, sqe := q, seq := s.host.seq, locks := locksOf s q, healthy := s.power.healthy, ordered := (getSq s fn sqid).ordered, pack := (getNs s q.nsid).compress && dget s 0x7040 1 != 0 }
  let s := setDk { s with host := { s.host with seq := s.host.seq + 1 } } d { e with stalled := lockBlocked s e }
  noteFull s (!e.locks.isEmpty)

/-- An I/O command fetched in PS4 returns the module to its last operational state (R75). -/
def wakePs4 (s : State) : State :=
  let s := { s with host := { s.host with psWait := s.host.psWait.map (fun w => { w with idle := false }) } }
  if s.host.ps = 4 then { s with host := { s.host with ps := s.host.psLastOp } } else s

/-- A slot of an I/O submission queue is fetched. -/
def fetchSlot (s : State) (fn sqid : Nat) : State :=
  noteTurn (wakePs4 (modSq s fn sqid (fun x => { x with head := (x.head + 1) % x.size }))) fn sqid

/-- COMMAND_FETCH: the entry's number is not in use, and the command's lock entries can be taken. -/
def execCommandFetch (fn sqid d : Nat) (q : Sqe) (s : State) : Res :=
  .next (when (fetchOpen s fn sqid && decide (d < 524288) && !dkUsed s d &&
      decide (locksUsed s + (locksOf s q).length ≤ 16384)) s
    (openDocket (fetchSlot s fn sqid) d fn sqid (getSq s fn sqid).head q))

/-- GLOBAL_FETCH_RESUME. -/
def execGlobalFetchResume (s : State) : Res :=
  .next (when (s.host.globalStop && decide (docketUsed s + 1024 ≤ 262144)) s
    { s with host := { s.host with globalStop := false, round := some [] } })

/-- INVALID_COMMAND_OPCODE: an I/O command passes through a docket entry, an admin command takes
none. -/
def execInvalidCommandOpcode (io : Bool) (fn sqid cid : Nat) (s : State) : Res :=
  if io then
    match lowestFrom (fun d => !dkUsed s d) (s.host.dockets.length + 1) 0 with
    | some d =>
      .next (when (fetchOpen s fn sqid) s
        (let h := (getSq s fn sqid).head
         let ordered := (getSq s fn sqid).ordered
         let s := fetchSlot s fn sqid
         ioFail (setDk { s with host := { s.host with seq := s.host.seq + 1 } } d { Docket.free with word := .admitted, fn := fn, sqid := sqid, slot := h, sqe := { emptySqe with cid := cid }, seq := s.host.seq, ordered := ordered }) d .invalidOpcode))
    | none => .next s
  else .next (when (adminOpen s fn) s (adminFail s ⟨fn, cid⟩ .invalidOpcode))

/-! ### I/O queues (R41 to R43) -/

/-- I/O queue pairs a function may use: the Number of Queues granted, or its VQ resources. -/
def queueLimit (f : Fn) (fn : Nat) (sq : Bool) : Nat :=
  let all := if fn = 0 then min f.vq 1024 else f.vq
  if f.nqSet then min all (featGet f 0x07 / (if sq then 1 else 65536) % 65536 + 1) else all

/-- The lowest queue pool index that no queue holds. -/
def freePoolIndex (s : State) : Nat :=
  let used := (s.host.fns.map (fun e => (e.2.sqs.filter (fun q => q.1 != 0)).map (fun q => q.2.pool))).flatten
  (lowestFrom (fun i => !used.contains i) (used.length + 1) 0).getD 0

/-- The refusal of a queue's identifier, size or placement. -/
def queueRefusal (live pc : Bool) (limit qid size : Nat) : Option Status :=
  if !pc then some .invalidField
  else if qid = 0 ∨ limit < qid ∨ live then some .invalidQueueIdentifier
  else if size < 2 ∨ 65536 < size then some .invalidQueueSize
  else none

def createSq (s : State) (a : Adm) (qid size cqid : Nat) (pc : Bool) : State :=
  match queueRefusal (getSq s a.fn qid).live pc (queueLimit (getFn s a.fn) a.fn true) qid size with
  | some st => adminFail s a st
  | none =>
    if cqid = 0 ∨ !(getCq s a.fn cqid).live then adminFail s a .completionQueueInvalid
    else adminOk (modSq s a.fn qid (fun _ => { Sq.empty with live := true, size := size, cqid := cqid, pool := freePoolIndex s })) a

def execCreateIoSubmissionQueue (a : Adm) (qid size cqid : Nat) (pc : Bool) (s : State) : Res :=
  admin s a (createSq s a qid size cqid pc)

/-- The commands of a deleted queue that are still Admitted are cancelled; its freeze record goes. -/
def deleteSq (s : State) (a : Adm) (qid : Nat) : State :=
  if qid = 0 ∨ !(getSq s a.fn qid).live then adminFail s a .invalidQueueIdentifier
  else
    let s := modSq s a.fn qid (fun q => { q with ordered := false })
    let ds := (s.host.dockets.filter (fun e => e.2.fn == a.fn && e.2.sqid == qid && e.2.remote.isNone && e.2.word == .admitted)).map Prod.fst
    let s := ds.foldl (fun s d => dkAbort s d .sqDeleted) s
    adminOk (modSq s a.fn qid (fun _ => Sq.empty)) a

def execDeleteIoSubmissionQueue (a : Adm) (qid : Nat) (s : State) : Res := admin s a (deleteSq s a qid)

/-- Entries of a function's MSI-X table, entry 0 for the admin completion queue. -/
def msixEntries (fn : Nat) : Nat := if fn = 0 then 1025 else 129

/-- An MSI-X entry of the function with a vector behind it (R41). -/
def vectorOk (f : Fn) (fn vector : Nat) : Bool := decide (vector ≤ f.vi) && decide (vector < msixEntries fn)

def createCq (s : State) (a : Adm) (qid size vector : Nat) (pc ien : Bool) : State :=
  match queueRefusal (getCq s a.fn qid).live pc (queueLimit (getFn s a.fn) a.fn false) qid size with
  | some st => adminFail s a st
  | none =>
    if !vectorOk (getFn s a.fn) a.fn vector then adminFail s a .invalidInterruptVector
    else adminOk (modCq s a.fn qid (fun _ => { Cq.empty with live := true, size := size, vector := vector, ien := ien })) a

def execCreateIoCompletionQueue (a : Adm) (qid size vector : Nat) (pc ien : Bool) (s : State) : Res :=
  admin s a (createCq s a qid size vector pc ien)

def deleteCq (s : State) (a : Adm) (qid : Nat) : State :=
  if qid = 0 ∨ !(getCq s a.fn qid).live then adminFail s a .invalidQueueIdentifier
  else if (getFn s a.fn).sqs.any (fun q => q.2.live && q.1 != 0 && q.2.cqid == qid) then adminFail s a .invalidQueueDeletion
  else adminOk (modCq s a.fn qid (fun _ => Cq.empty)) a

def execDeleteIoCompletionQueue (a : Adm) (qid : Nat) (s : State) : Res := admin s a (deleteCq s a qid)

/-! ### The controllers of the functions (R431, R69, R112) -/

/-- The controller of a function can be enabled: boot step 4 has ended, its port's link is up, and a
secondary controller is online. -/
def canEnable (s : State) (fn : Nat) : Bool :=
  let f := getFn s fn
  f.present && !f.en && decide (4 ≤ s.power.bootStep) && (s.power.linkUp[portOf s fn]?).getD false &&
    (fn == 0 || (f.online && !s.power.recovery))

/-- CONTROLLER_ENABLE; the admin queues the host has set up hold 4,096 entries (log entry 32). -/
def execControllerEnable (fn : Nat) (s : State) : Res :=
  .next (when (canEnable s fn) s
    (modFn s fn (fun f => { f with
      en := true, rdy := true, adminSq := 4096, adminCq := 4096
      sqs := tabPut f.sqs 0 { Sq.empty with live := true, size := 4096 }
      cqs := tabPut f.cqs 0 { Cq.empty with live := true, size := 4096, ien := true } })))

/-- CONTROLLER_RESET. -/
def execControllerReset (fn : Nat) (s : State) : Res :=
  .next (when (getFn s fn).en s (settleAll (resetFn s fn false)))

/-- FUNCTION_LEVEL_RESET. -/
def execFunctionLevelReset (fn : Nat) (s : State) : Res :=
  .next (when ((getFn s fn).present && decide (4 ≤ s.power.bootStep)) s (settleAll (resetFn s fn true)))

/-- CONTROLLER_SHUTDOWN through CC.SHN. -/
def execControllerShutdown (fn : Nat) (s : State) : Res :=
  .next (when ((getFn s fn).rdy && (getFn s fn).shst == 0) s
    (settleShutdown (modFn s fn (fun f => { f with shst := 1 }))))

/-- The port's link comes up where its reset and refclk allow. -/
def settlePort (s : State) (p : Nat) : State :=
  let up := decide (4 ≤ s.power.bootStep) && !s.host.perst.contains p && (s.power.portRef[p]?).getD false
  { s with power := { s.power with linkUp := listMod (fun _ => up) s.power.linkUp p } }

/-- PERST_N of a port: a function-level reset of every function bound to it; its virtual functions
disappear with the port function's SR-IOV capability. -/
def perstAssert (s : State) (p : Nat) : State :=
  let fns := boundFns s p
  let s := fns.foldl (fun s fn => resetFn s fn true) s
  let s := (fns.filter (· != 0)).foldl (fun s fn => modFn s fn (fun f => { f with present := false })) s
  settlePort { s with host := { s.host with perst := p :: s.host.perst, vfEnabled := tabDrop s.host.vfEnabled p } } p

def execPerstNAssert (p : Nat) (s : State) : Res :=
  .next (when (decide (p < 4) && !s.host.perst.contains p) s (settleAll (perstAssert s p)))

/-- PERST_N deasserted: the port trains where it can. -/
def execPerstNDeassert (p : Nat) (s : State) : Res :=
  .next (when (decide (p < 4) && s.host.perst.contains p) s
    (settlePort { s with host := { s.host with perst := s.host.perst.filter (· != p) } } p))

/-- SRIOV_VF_ENABLE: TotalVFs is fixed, and the functions bound to the port appear (R40). -/
def execSriovVfEnable (p : Nat) (s : State) : Res :=
  .next (when (decide (p < 4) && (s.power.linkUp[p]?).getD false && !s.power.recovery && (tabFind s.host.vfEnabled p).isNone) s
    (let fns := ((List.range 1024).map (· + 1)).filter (fun fn => portOf s fn == p)
     let s := fns.foldl (fun s fn => modFn s fn (fun f => { f with present := true })) s
     { s with host := { s.host with vfEnabled := tabPut s.host.vfEnabled p fns } }))

/-- The PCIe VF number of a virtual function within its port: by ascending module-wide number among those
the host enabled, or would enable now (R40). -/
def vfNumber (s : State) (fn : Nat) : Nat :=
  let p := portOf s fn
  let l := match tabFind s.host.vfEnabled p with
    | some l => l
    | none => ((List.range 1024).map (· + 1)).filter (fun g => portOf s g == p)
  (l.filter (fun g => decide (g ≤ fn))).length

/-- What PCIe function 0 of a port presents (R39): its class code, base address registers, NVMe controllers,
and TotalVFs and VF Enable of its SR-IOV capability. -/
structure PortFunction where
  classCode   : Nat
  bars        : Nat
  controllers : List Nat
  totalVfs    : Nat
  vfEnable    : Bool
  deriving DecidableEq, Repr

/-- Function 0 of port 0 is the physical function with controller ID 0, an NVMe controller (class code of
NVMe, PRESUMED, log entry 5); those of ports 1 to 3 are port functions. -/
def portFunction (s : State) (p : Nat) : PortFunction :=
  { classCode := if p = 0 then 0x010802 else 0x088000, bars := if p = 0 then 1 else 0
    controllers := if p = 0 then [0] else []
    totalVfs := ((tabFind s.host.vfEnabled p).getD []).length, vfEnable := (tabFind s.host.vfEnabled p).isSome }

/-- The CAP register of every controller (Table 2.1): MQES, CQR, AMS, TO and NSSRS in the places of NVMe 2.1
(PRESUMED, log entry 5). -/
def capRegister : Nat := 0xFFFF + 2 ^ 16 + 0 * 2 ^ 17 + 2 * 2 ^ 24 + 0 * 2 ^ 36

/-! ### Virtualization Management (R42 to R45) -/

/-- Resources of the pool of 16,384 that functions other than `fn` hold. -/
def poolHeld (s : State) (vi : Bool) (fn : Nat) : Nat :=
  (s.host.fns.map (fun e =>
    let r := if vi then (e.2.vi, e.2.viNext) else (e.2.vq, e.2.vqNext)
    if e.1 = 0 then (if fn = 0 then 0 else max r.1 r.2)
    else if e.1 = fn then r.2 else r.1 + r.2)).sum

def execPrimaryFlexibleAllocation (a : Adm) (vi : Bool) (count : Nat) (s : State) : Res :=
  adminPf s a (if 16384 < poolHeld s vi 0 + count then adminFail s a .invalidControllerResources
    else adminDone (modFn s 0 (fun f => if vi then { f with viNext := count } else { f with vqNext := count })) a .success count .none)

def secondaryId (c : Nat) : Bool := decide (1 ≤ c) && decide (c ≤ 1024)

/-- Secondary Offline: a controller reset; the resources return once the discarded commands are gone. -/
def execSecondaryOffline (a : Adm) (c : Nat) (s : State) : Res :=
  adminPf s a (if !secondaryId c then adminFail s a .invalidControllerIdentifier
    else adminOk (modFn (resetFn s c false) c (fun f => { f with
      online := false, vqNext := f.vqNext + f.vq, viNext := f.viNext + f.vi, vq := 0, vi := 0 })) a)

/-- A command that a reset of the function discarded has not left yet: its restoring records are not
durable, or a thread of its program has not stopped. -/
def discardedLeft (s : State) (fn : Nat) : Bool :=
  s.host.dockets.any (fun e => e.2.fn == fn && e.2.remote.isNone &&
    ((e.2.word == .cancelled && (e.2.posted || e.2.cancelSt.isNone)) || (e.2.posted && !isWriteKind e.2.sqe.kind)))

/-- SECONDARY_RESOURCES_RETURN. -/
def execSecondaryResourcesReturn (fn : Nat) (s : State) : Res :=
  .next (when (secondaryId fn && !discardedLeft s fn) s
    (modFn s fn (fun f => { f with vqNext := 0, viNext := 0 })))

def execSecondaryAssign (a : Adm) (c : Nat) (vi : Bool) (count : Nat) (s : State) : Res :=
  adminPf s a (if !secondaryId c then adminFail s a .invalidControllerIdentifier
    else if (getFn s c).online then adminFail s a .invalidSecondaryState
    else if 128 < count ∨ 16384 < poolHeld s vi c + count then adminFail s a .invalidControllerResources
    else adminDone (modFn s c (fun f => if vi then { f with vi := count } else { f with vq := count })) a .success count .none)

def execSecondaryOnline (a : Adm) (c : Nat) (s : State) : Res :=
  adminPf s a (if !secondaryId c then adminFail s a .invalidControllerIdentifier
    else if (getFn s c).vq = 0 ∨ (getFn s c).vi = 0 then adminFail s a .invalidControllerResources
    else adminOk (modFn s c (fun f => { f with online := true })) a)

/-! ### Abort, event requests, Thaw Queue (R62, R67) -/

/-- Abort's dword 0: bit 0 is 0 only if the command was aborted. -/
def abortDone (s : State) (a : Adm) (aborted : Bool) : State := adminDone s a .success (b2n (!aborted)) .none

def abortCmd (s : State) (a : Adm) (sqid cid : Nat) : State :=
  if 8 ≤ (s.pair.aborts.filter (fun e => e.2.any (fun x => x.fn == a.fn))).length then adminFail s a .abortLimitExceeded
  else if sqid = 0 then
    match s.host.psWait with
    | some w =>
      if w.adm = ⟨a.fn, cid⟩ then abortDone (adminFail (cancelPower s w) w.adm .abortRequested) a true
      else abortDone s a false
    | none => abortDone s a false
  else
    match s.host.dockets.find? (fun e => e.2.fn == a.fn && e.2.sqid == sqid && e.2.sqe.cid == cid && e.2.remote.isNone && !e.2.posted && e.2.mirrorOf.isNone) with
    | none => abortDone s a false
    | some (d, e) =>
      match s.pair.fwd.find? (fun x => x.2 == d) with
      | some (tag, _) =>
        hawSend { s with pair := { s.pair with aborts := s.pair.aborts ++ [(tag, some a)] } } 0x32 0 0 tag []
      | none =>
        if e.word = .admitted then abortDone (dkAbort s d .abortRequested) a true
        else abortDone s a false

def execAbort (a : Adm) (sqid cid : Nat) (s : State) : Res := admin s a (abortCmd s a sqid cid)

def execAsynchronousEventRequest (a : Adm) (s : State) : Res :=
  admin s a (match (getFn s a.fn).events with
    | e :: rest => adminDone (modFn s a.fn (fun f => { f with events := rest })) a .success (eventDw0 e) .none
    | [] =>
      if 8 ≤ (getFn s a.fn).aers.length then adminFail s a .asyncEventLimitExceeded
      else modFn s a.fn (fun f => { f with aers := f.aers ++ [a.cid] }))

/-- A new head counted forward from the failing slot up to the tail inclusive. -/
def thawHeadOk (q : Sq) (z : Freeze) (head : Nat) : Bool :=
  decide (head < q.size) && decide ((head + q.size - z.slot) % q.size ≤ (q.tail + q.size - z.slot) % q.size)

def thawQueue (s : State) (a : Adm) (dw10 dw11 : W32) : State :=
  let sqid := bitsOf dw10.toNat 0 15
  let head := bitsOf dw11.toNat 0 15
  let q := getSq s a.fn sqid
  if sqid = 0 ∨ !q.live then adminFail s a .invalidQueueIdentifier
  else match q.freeze with
    | none => adminFail s a .commandSequenceError
    | some z =>
      if bitsOf dw10.toNat 16 31 ≠ 0 ∨ bitsOf dw11.toNat 16 31 ≠ 0 ∨ !thawHeadOk q z head then adminFail s a .invalidField
      else adminOk (modSq s a.fn sqid (fun q => { q with freeze := none, head := head })) a

def execThawQueue (a : Adm) (dw10 dw11 : W32) (s : State) : Res := admin s a (thawQueue s a dw10 dw11)

end Sys2Proof.Machine
end

