-- ==== Sys2Proof/Machine/Features.lean ====
section
/-!
DEFINITION. Features and power states (R48, R63, R72 to R76, R123, R315, R520).
-/
namespace Sys2Proof.Machine

/-- Features of Table 2.4 that Set Features carries without a row of its own. -/
def plainFeature (fid : Nat) : Bool := [0x01, 0x04, 0x05, 0x06, 0x08, 0x09, 0x0B, 0x19, 0x81, 0x82, 0x83].contains fid
/-- Features with a row of their own. -/
def ownFeature (fid : Nat) : Bool := [0x02, 0x07, 0x0E, 0xC0, 0xC1, 0xC2].contains fid
/-- Features set from the physical function only. -/
def pfFeature (fid : Nat) : Bool := [0x02, 0x04, 0xC1].contains fid

/-- The refusals that R48 gives every Set Features: a value that cannot be saved, then the scope. -/
def featRefusal (fn fid : Nat) (save : Bool) : Option Status :=
  if save && fid != 0xC1 && fid != 0xC2 then some .featureNotSaveable
  else if pfFeature fid && fn != 0 then some .featureNotChangeable
  else none

/-- Set Features of a feature this function may change. -/
def setPlain (s : State) (a : Adm) (fid nsid : Nat) (dw11 : W32) (data : List Byte) : State :=
  let v := dw11.toNat
  let keep (k x : Nat) : State := adminOk (modFn s a.fn (fun f => featSet f k x)) a
  let nss := if nsid = 0xFFFFFFFF then (nsids s).filter (attachedTo s a.fn) else [nsid]
  match fid with
  | 0x01 => keep 0x01 v
  | 0x04 =>
    let sel := bitsOf v 16 19
    let th := bitsOf v 20 21
    if (5 < sel ∧ sel ≠ 15) ∨ 1 < th then adminFail s a .invalidField
    else
      let set := (if sel = 15 then List.range 6 else [sel]).foldl (fun t i => tabPut t (i * 2 + th) (v % 65536)) s.service.thresh
      adminOk (settleTemp { s with service := { s.service with thresh := set } }) a
  | 0x05 => if v % 65536 ≠ 0 ∨ bitOf v 16 then adminFail s a .invalidField else keep 0x05 v
  | 0x06 => if s.power.healthy then adminFail s a .invalidField else keep 0x06 (v % 2)
  | 0x08 => keep 0x08 (v % 65536)
  | 0x09 =>
    if !vectorOk (getFn s a.fn) a.fn (v % 65536) then adminFail s a .invalidField
    else keep (0x900000 + v % 65536) (b2n (bitOf v 16) * 65536)
  | 0x0B => keep 0x0B v
  | 0x19 => if v % 512 ≠ 0 then adminFail s a .invalidField else keep 0x19 0
  | 0x81 => adminOk (modFn s a.fn (fun f => { f with hostId := ofLe (data.take (if bitOf v 0 then 16 else 8)) })) a
  | 0x82 =>
    if nss.any (fun n => !attachedTo s a.fn n) then adminFail s a .invalidNamespaceOrFormat
    else adminOk (nss.foldl (fun s n => modFn s a.fn (fun f => featSet f (0x82 * 2 ^ 32 + n) v)) s) a
  | _ =>
    if nss.any (fun n => !attachedTo s a.fn n) then adminFail s a .invalidNamespaceOrFormat
    else adminOk (nss.foldl (fun s n => modNs s n (fun x => { x with persist := bitOf v 0 })) s) a

/-- SET_FEATURES. A feature with a row of its own is that row's command. -/
def execSetFeatures (a : Adm) (fid nsid : Nat) (save : Bool) (dw11 : W32) (data : List Byte) (s : State) : Res :=
  if ownFeature fid then .next s
  else
    admin s a (if !plainFeature fid then adminFail s a .invalidField
      else match featRefusal a.fn fid save with
        | some st => adminFail s a st
        | none => setPlain s a fid nsid dw11 data)

/-! ### Number of Queues, Timestamp, Ordered Queue Mode -/

/-- Set Features (Number of Queues); the counts are 0's based. -/
def setNumberOfQueues (s : State) (a : Adm) (nsq ncq : Nat) : State :=
  let f := getFn s a.fn
  let all := if a.fn = 0 then min f.vq 1024 else f.vq
  if 65535 ≤ nsq ∨ 65535 ≤ ncq then adminFail s a .invalidField
  else if f.sqs.any (fun q => q.1 != 0) ∨ f.cqs.any (fun q => q.1 != 0) then adminFail s a .commandSequenceError
  else
    let v := min nsq (all - 1) + min ncq (all - 1) * 65536
    adminDone (modFn s a.fn (fun f => featSet { f with nqSet := true } 0x07 v)) a .success v .none

def execSetNumberOfQueues (a : Adm) (save : Bool) (nsq ncq : Nat) (s : State) : Res :=
  admin s a (match featRefusal a.fn 0x07 save with
    | some st => adminFail s a st
    | none => setNumberOfQueues s a nsq ncq)

/-- The Timestamp of a controller (R520). -/
def timestamp (s : State) (fn : Nat) : Nat := (((s.uptime : Int) + (getFn s fn).tsOffset).toNat) % 2 ^ 48

/-- A stored time as the reading controller's Timestamp gives it; below 0, or stamped before the event
clock last restarted, it reads 0. -/
def readTime (s : State) (fn t : Nat) : Nat :=
  if t + s.uptime < s.nowMs then 0 else ((((t + s.uptime - s.nowMs : Nat) : Int) + (getFn s fn).tsOffset).toNat)

def execSetTimestamp (a : Adm) (save : Bool) (ms : Nat) (s : State) : Res :=
  admin s a (match featRefusal a.fn 0x0E save with
    | some st => adminFail s a st
    | none => adminOk (modFn s a.fn (fun f => { f with tsOffset := (ms % 2 ^ 48 : Nat) - (s.uptime : Int), tsSet := true })) a)

/-- An I/O submission queue of the function. -/
def ioSq (s : State) (fn qid : Nat) : Bool := qid != 0 && (getSq s fn qid).live

/-- Set Features (Ordered Queue Mode) (R63); reserved bits of a register-coded field are ignored (R10). -/
def execSetOrderedQueueMode (a : Adm) (save : Bool) (dw11 : W32) (s : State) : Res :=
  let qid := bitsOf dw11.toNat 0 15
  admin s a (match featRefusal a.fn 0xC0 save with
    | some st => adminFail s a st
    | none =>
      if !ioSq s a.fn qid then adminFail s a .invalidField
      else adminOk (modSq s a.fn qid (fun q => { q with ordered := dw11.getLsbD 16 })) a)

/-! ### Landing Policy (R123, R124) -/

/-- Dword 11 of the Landing Policy is in range, and its target leaves spares and data landing. -/
def landingOk (s : State) (v : Nat) : Bool :=
  let pct := bitsOf v 0 7
  decide (10 ≤ pct) && decide (pct ≤ 200) && decide (50 ≤ bitsOf v 8 15) && decide (bitsOf v 8 15 ≤ 90) &&
    bitsOf v 17 23 == 0 && decide (1 ≤ bitsOf v 24 31) && decide (bitsOf v 24 31 ≤ 168) &&
    decide ((spareTarget : Int) ≤ spareWith s pct 0) && decide (4 * Config.channels ≤ dataBlocksOf s (landTarget pct))

/-- A field of the policy's dictionary entry. -/
def landingField (v sub : Nat) : Nat :=
  match sub with
  | 1 => bitsOf v 0 7
  | 2 => bitsOf v 8 15
  | 3 => b2n (bitOf v 16)
  | _ => bitsOf v 24 31

/-- The policy takes a value, saved or not; the refusal otherwise. -/
def applyLanding (s : State) (v : Nat) (save : Bool) : Option Status × State :=
  if !landingOk s v then (some .invalidField, s)
  else if save then
    match [1, 2, 3, 4].find? (fun k => entryWorn s 0x4010 k && dget s 0x4010 k != landingField v k) with
    | some k => (some (.vendor 0x84), wornRefusal s 0x4010 k (dataLine 0x4010 k))
    | none =>
      let s := [1, 2, 3, 4].foldl (fun s k => persist s 0x4010 k (landingField v k)) s
      (none, growLanding (modFn s 0 (fun f => { f with features := tabDrop f.features 0xC1 })))
  else (none, growLanding (modFn s 0 (fun f => { f with features := tabPut f.features 0xC1 v })))

def execSetLandingPolicy (a : Adm) (save : Bool) (dw11 : W32) (s : State) : Res :=
  admin s a (match featRefusal a.fn 0xC1 save with
    | some st => adminFail s a st
    | none => match applyLanding s dw11.toNat save with
      | (some st, s) => adminFail s a st
      | (none, s) => adminOk s a)

/-! ### Write-Path Compression (R315) -/

/-- The logbook line of a namespace's saved setting. -/
def compressLine (nsid : Nat) : Nat := itemLine 1 (0x1000000 + nsid)

def setCompression (s : State) (a : Adm) (save : Bool) (nsid v : Nat) : State :=
  let n := getNs s nsid
  if nsid = 0 ∨ nsid = 0xFFFFFFFF ∨ 1 < v then adminFail s a .invalidField
  else if !n.live ∨ (a.fn ≠ 0 ∧ !attachedTo s a.fn nsid) then adminFail s a .invalidNamespaceOrFormat
  else if n.zoned ∨ unitSlots n.lbaf ≠ 4 then adminFail s a .invalidField
  else if save ∧ n.compressSaved ≠ (v == 1) ∧ commitWorn s 1 (compressLine nsid) then
    adminFail (wornRefusal s 0 0 (compressLine nsid)) a (.vendor 0x84)
  else
    let s := if save ∧ n.compressSaved ≠ (v == 1) then commitAt s 1 (compressLine nsid) else s
    let s := modNs s nsid (fun n => if save then { n with compress := v == 1, compressSaved := v == 1, compressFn := 0 } else { n with compress := v == 1, compressFn := a.fn + 1 })
    if n.mirror then mirrorState s 6 nsid (leBytes 4 v ++ leBytes 4 0) (.adm a 0) else adminOk s a

def execSetWritePathCompression (a : Adm) (save : Bool) (nsid : Nat) (dw11 : W32) (s : State) : Res :=
  admin s a (match featRefusal a.fn 0xC2 save with
    | some st => adminFail s a st
    | none => setCompression s a save nsid dw11.toNat)

/-! ### Power states (R73 to R75, R414) -/

/-- Lighter cluster domains a power state allows (Table 15.5). -/
def clusterLimit (ps : Nat) : Nat := match ps with | 0 => 8 | 1 => 8 | 2 => 4 | 3 => 1 | _ => 0

/-- Set Features (Power Management): one waits for its state, further ones wait for it (R73). -/
def execSetPowerManagement (a : Adm) (save : Bool) (ps : Nat) (s : State) : Res :=
  admin s a (match featRefusal a.fn 0x02 save with
    | some st => adminFail s a st
    | none =>
      if 4 < ps then adminFail s a .invalidField
      else
        let w : PsWait := { adm := a, target := ps, saved := s.host.ps, idle := false }
        match s.host.psWait with
        | none => { s with host := { s.host with psWait := some w } }
        | some _ => { s with host := { s.host with psQueue := s.host.psQueue ++ [w] } })

/-- The domain limits of the target state are met. -/
def limitsMet (s : State) (ps : Nat) : Bool :=
  decide (((List.range 8).filter (clusterOn s)).length ≤ clusterLimit ps) &&
    (ps != 4 || !((List.range 7).any (quayOn s)))

/-- Average input power has stayed at or below the state's cap for 1 ms: the ten newest means of 100 µs
(R414). PS4 has no cap. -/
def underCap (s : State) (ps : Nat) : Bool := ps == 4 || (s.power.pw100.take 10).all (fun p => decide (p ≤ 1000 * statePower ps))

/-- POWER_STATE_REACHED: the waiting Set Features completes, and the next begins. -/
def execPowerStateReached (s : State) : Res :=
  match s.host.psWait with
  | some w =>
    .next (when (limitsMet s w.target && underCap s w.target && (w.target != 4 || (w.idle && s.host.dockets.isEmpty)) && !s.power.dumping) s
      (let s := { s with host := { s.host with psLastOp := if w.target < 4 then w.target else if s.host.ps < 4 then s.host.ps else s.host.psLastOp, ps := w.target } }
       adminOk (nextPower s) w.adm))
  | none => .next s

/-- PS4_IDLE_ENTRY: 1 ms has passed with no I/O command in flight. -/
def execPs4IdleEntry (s : State) : Res :=
  .next (when (s.host.psWait.any (fun w => w.target == 4) && s.host.dockets.isEmpty && decide (s.host.busyAt < s.nowMs)) s
    { s with host := { s.host with psWait := s.host.psWait.map (fun w => { w with idle := true }) } })

/-! ### Get Features -/

/-- The Timestamp data structure: milliseconds, then whether the host has set it. -/
def timestampData (s : State) (fn : Nat) : List Byte :=
  leBytes 6 (timestamp s fn) ++ [if (getFn s fn).tsSet then 2 else 0, 0]

/-- What Get Features returns: a refusal, or dword 0 and the data. -/
def featureValue (s : State) (fn fid nsid : Nat) (dw11 : W32) : Except Status (Nat × Payload) :=
  let f := getFn s fn
  let v := dw11.toNat
  let ok (x : Nat) : Except Status (Nat × Payload) := .ok (x, .none)
  let all := if fn = 0 then min f.vq 1024 else f.vq
  match fid with
  | 0x02 => ok s.host.ps
  | 0x04 =>
    if 5 < bitsOf v 16 19 ∨ 1 < bitsOf v 20 21 then .error .invalidField
    else ok (threshOf s (bitsOf v 16 19) (bitOf v 20))
  | 0x06 => if s.power.healthy then .error .invalidField else ok (featGet f 0x06)
  | 0x07 => ok (if f.nqSet then featGet f 0x07 else (all - 1) * 65537)
  | 0x09 => if !vectorOk f fn (v % 65536) then .error .invalidField else ok (v % 65536 + featGet f (0x900000 + v % 65536))
  | 0x0E => .ok (0, .bytes (timestampData s fn))
  | 0x81 => .ok (0, .bytes (leBytes (if bitOf v 0 then 16 else 8) f.hostId))
  | 0x82 => if attachedTo s fn nsid then ok (featGet f (0x82 * 2 ^ 32 + nsid)) else .error .invalidNamespaceOrFormat
  | 0x83 => if attachedTo s fn nsid then ok (b2n (getNs s nsid).persist) else .error .invalidNamespaceOrFormat
  | 0xC0 => if ioSq s fn (v % 65536) then ok (b2n (getSq s fn (v % 65536)).ordered * 65536) else .error .invalidField
  | 0xC1 => ok (landNow s)
  | 0xC2 =>
    if (getNs s nsid).live ∧ (fn = 0 ∨ attachedTo s fn nsid) then ok (b2n (getNs s nsid).compress)
    else .error .invalidNamespaceOrFormat
  | _ => if plainFeature fid then ok (featGet f fid) else .error .invalidField

def getFeature (s : State) (a : Adm) (fid nsid : Nat) (dw11 : W32) : State :=
  match featureValue s a.fn fid nsid dw11 with
  | .ok (x, p) => adminDone s a .success x p
  | .error st => adminFail s a st

def execGetFeatures (a : Adm) (fid nsid : Nat) (dw11 : W32) (s : State) : Res := admin s a (getFeature s a fid nsid dw11)

end Sys2Proof.Machine
end

