-- ==== Sys2Proof/Machine/Leases.lean ====
section
/-!
DEFINITION. Tenant leases (R50 to R52, R349, R350).
-/
namespace Sys2Proof.Machine

/-- The value is in the range of its kind (Table 2.6). -/
def leaseRange (kind v : Nat) : Bool :=
  match kind with
  | 0 => decide (bitsOf v 0 8 ≤ 256) && bitsOf v 9 15 == 0 && bitsOf v 24 31 == 0
  | 1 => decide (v ≤ 1024)
  | 2 => decide (1 ≤ v) && decide (v ≤ 65536)
  | 3 => decide (1 ≤ v) && decide (v ≤ 255)
  | 4 => decide (bitsOf v 8 16 ≤ 256) && bitsOf v 17 31 == 0
  | _ => true

/-- The entries of a tenant's record that hold a lease, with their values. -/
def leaseEntries (kind v : Nat) : List (Nat × Nat) :=
  match kind with
  | 0 => [(2, bitsOf v 0 8), (3, bitsOf v 16 23)]
  | 1 => [(4, v)]
  | 2 => [(5, v)]
  | 3 => [(6, v)]
  | 4 => [(0x0C, bitsOf v 0 7), (0x0D, bitsOf v 8 16)]
  | _ => []

/-- The lease in force, as VALUE spells it; read back gives the docket ceiling. -/
def leaseNow (s : State) (t kind : Nat) : Nat :=
  let g (k : Nat) := dget s (0x6000 + t) k
  match kind with
  | 0 => g 2 + g 3 * 65536
  | 1 => g 4
  | 3 => g 6
  | 4 => g 0x0C + g 0x0D * 256
  | _ => g 5

/-- Granules of SLM leased to tenants other than `t`. -/
def slmLeased (s : State) (t : Nat) : Nat :=
  ((s.dict.filter (fun e => decide (0x6000 ≤ e.1 / 256) && decide (e.1 / 256 < 0x6400) && e.1 % 256 == 4 && e.1 / 256 != 0x6000 + t)).map Prod.snd).sum

/-- Another tenant's range overlaps banks `first` to `first + n - 1`. -/
def banksTaken (s : State) (t first n : Nat) : Bool :=
  (List.range n).any (fun k => match bankTenant s (first + k) with | some u => u != t | none => false)

/-- A memory range set of the tenant ends beyond `granules`. -/
def rangeBeyond (s : State) (t granules : Nat) : Bool :=
  s.prog.ranges.any (fun r => r.fn == fnOf t && r.ranges.any (fun x => decide (granules * slmGranule < x.1 + x.2)))

/-- Why a lease is refused. -/
def leaseRefusal (s : State) (t kind v : Nat) : Option Status :=
  if !leaseRange kind v then some .invalidField
  else if kind = 1 ∧ 1024 < slmLeased s t + v then some .invalidField
  else if kind = 1 ∧ rangeBeyond s t v then some .commandSequenceError
  else if kind = 4 ∧ (256 < bitsOf v 0 7 + bitsOf v 8 16 ∨ banksTaken s t (bitsOf v 0 7) (bitsOf v 8 16)) then some .invalidField
  else none

/-- A lease takes effect: its entries are committed, banks that change hands are cleared (R350), what a
smaller SLM lease no longer holds is dropped, and held threads are settled (R52, R176). -/
def leaseApply (s : State) (t kind v : Nat) : State :=
  let was := if kind = 4 then tenantBanks s t else []
  let s := (leaseEntries kind v).foldl (fun s e => persist s (0x6000 + t) e.1 e.2) s
  let s := if kind = 4 then
      let now := tenantBanks s t
      ((was.filter (fun b => !now.contains b)) ++ now.filter (fun b => !was.contains b)).foldl clearBank s
    else s
  let s := if kind = 1 then { s with prog := { s.prog with slm := memClear s.prog.slm (slmAt s t + slmSize s t) (slmAt s t + 2 ^ 34) } } else s
  if kind = 0 then kickIdle (takeBack s t) else s

/-- A lease entry's line is worn (R455). -/
def leaseWorn (s : State) (t kind v : Nat) : Option (Nat × Nat) :=
  (leaseEntries kind v).find? (fun e => entryWorn s (0x6000 + t) e.1 && dget s (0x6000 + t) e.1 != e.2)

/-- Tenant Lease with KIND `kind`; a record of another kind is another row's command. -/
def tenantLease (kind : Nat) (a : Adm) (dw10 dw11 : W32) (s : State) : State :=
  let t := bitsOf dw10.toNat 0 9
  let k := bitsOf dw10.toNat 16 18
  if k < 6 ∧ k ≠ kind then s
  else if k ≠ kind ∨ bitsOf dw10.toNat 10 15 ≠ 0 ∨ bitsOf dw10.toNat 19 31 ≠ 0 then adminFail s a .invalidField
  else if kind = 5 then adminDone s a .success (leaseNow s t 5) .none
  else match leaseRefusal s t kind dw11.toNat with
    | some st => adminFail s a st
    | none =>
      match leaseWorn s t kind dw11.toNat with
      | some e => adminFail (wornRefusal s (0x6000 + t) e.1 (dataLine (0x6000 + t) e.1)) a .internalError
      | none =>
        let s := leaseApply s t kind dw11.toNat
        mirrorState s 5 0 (leBytes 4 dw10.toNat ++ leBytes 4 dw11.toNat ++ leBytes 8 0) (.adm a (leaseNow s t kind))

def execTenantLeaseCores (a : Adm) (dw10 dw11 : W32) (s : State) : Res := adminPf s a (tenantLease 0 a dw10 dw11 s)
def execTenantLeaseSlm (a : Adm) (dw10 dw11 : W32) (s : State) : Res := adminPf s a (tenantLease 1 a dw10 dw11 s)
def execTenantLeaseDocketCeiling (a : Adm) (dw10 dw11 : W32) (s : State) : Res := adminPf s a (tenantLease 2 a dw10 dw11 s)
def execTenantLeaseFetchWeight (a : Adm) (dw10 dw11 : W32) (s : State) : Res := adminPf s a (tenantLease 3 a dw10 dw11 s)
def execTenantLeaseTallyRows (a : Adm) (dw10 dw11 : W32) (s : State) : Res := adminPf s a (tenantLease 4 a dw10 dw11 s)
def execTenantLeaseReadBack (a : Adm) (dw10 dw11 : W32) (s : State) : Res := adminPf s a (tenantLease 5 a dw10 dw11 s)

end Sys2Proof.Machine
end

