-- ==== Sys2Proof/Machine/DictRead.lean ====
section
/-!
DEFINITION. Reading the dictionary: the value of every entry, what a read returns, and the checks of
Table 17.4 that a read meets (R434 to R447, R456 to R459).
-/
namespace Sys2Proof.Machine

/-! ### Values computed from other state -/

/-- The bits of a list of numbers. -/
def bitSet (l : List Nat) : Nat := (l.dedup.map (2 ^ ·)).sum

/-- The mean of a list, rounded down. -/
def meanOf (l : List Nat) : Nat := l.sum / l.length

/-- Input power over 100 ms, W. -/
def inputW (s : State) : Nat := meanOf s.power.pw100 / 1000

/-- The highest wear counter of a line in service, and the lowest line that has it. -/
def wearTop (s : State) : Nat := (s.logbook.wear.map Prod.snd).foldl max 0
def wearTopLine (s : State) : Nat :=
  match s.logbook.wear.find? (fun e => e.2 == wearTop s) with
  | some e => e.1
  | none => 0

/-- The revision of the running image, and of a slot's (R521). -/
def slotRev (s : State) (slot : Nat) : Nat :=
  match (if slot = 1 then s.power.fw1 else s.power.fw2) with
  | some b => Config.fwRevision b
  | none => Config.fwShippedRev slot

/-- The blocks that have served and are not retired; the others in service have no wear. -/
def wornBlocks (s : State) : List Nat := (s.media.blocks.filter (fun e => e.2.pool != 7)).map Prod.fst
/-- The mean wear fraction of the blocks in service, times a scale. -/
def meanWear (s : State) (scale : Nat) : Nat := ((wornBlocks s).map (wearCycles s)).sum * scale / (ratedCycles s * goodBlocks s)

/-- Bytes folded in the last 10 ms, as MB/s. -/
def foldRate (s : State) : Nat := lastTen s s.media.folded / 10000

/-- The owner tag that holds an engine's lock. -/
def holderOf (s : State) (cip : Bool) (e : Nat) : Nat := (getEng s cip e).holder

/-- Percent of the dredge cycle done: each of the units of tasks 1 to 5 and 7 counts alike (log entry
44). -/
def taskUnits (s : State) (k : Nat) : Nat :=
  match k with
  | 1 => ((List.range 8).filter (clusterOn s)).length
  | 2 => 24576
  | 3 => 1048576
  | 4 => (s.media.blocks.filter (fun e => !(e.2.pool == 0 || e.2.pool == 7))).length
  | 5 => 131072
  | 7 => ((List.range 22).filter (fun i => dget s (0x2100 + i) 1 == 1)).length
  | _ => 1
def cycleTasks : List Nat := [1, 2, 3, 4, 5, 7]
def taskDone (s : State) (k : Nat) : Nat := min (tabGet 0 s.service.tasks k) (taskUnits s k)
def dredgePercent (s : State) : Nat :=
  (cycleTasks.map (taskDone s)).sum * 100 / (cycleTasks.map (taskUnits s)).sum

/-- A tenant's entries. -/
def tenantValue (s : State) (t sub : Nat) : Nat :=
  let fn := fnOf t
  match sub with
  | 0x07 => inFlight s fn
  | 0x08 => b2n (getFn s fn).online
  | 0x09 => (getFn s fn).vq
  | 0x0A => (getFn s fn).vi
  | 0x21 => (threadsOf s t).length
  | 0x22 => coresHeld s t
  | 0x30 => (s.eng.slots.filter (fun e => e.2.tenant == some t)).length
  | 0x40 => dget s (0x6000 + t) 0x0C + dget s (0x6000 + t) 0x0D * 256
  | _ => dget s (0x6000 + t) sub

/-- The value an entry reads as. -/
def dictValue (s : State) (i sub : Nat) : Nat :=
  if 0x2100 ≤ i ∧ i < 0x2118 ∧ sub = 0x09 then (tabGet Pilot.empty s.power.pilots (i - 0x2100)).region
  else if 0x2100 ≤ i ∧ i < 0x2118 ∧ sub = 0x0A then (tabGet Pilot.empty s.power.pilots (i - 0x2100)).schedX
  else if 0x6000 ≤ i ∧ i < 0x6400 then tenantValue s (i - 0x6000) sub
  else match i, sub with
  | 0x1000, 0x07 => slotRev s s.power.fwSlot
  | 0x1000, 0x09 => s.uptime
  | 0x1111, 0x02 => ofLe (macOf s 1)
  | 0x1200, 0x02 => s.logbook.spares
  | 0x1200, 0x04 => wearTop s
  | 0x1200, 0x05 => wearTopLine s
  | 0x1300, 0x03 => (s.mgmt.i3cDyn[0]?).getD 0
  | 0x1300, 0x04 => (s.mgmt.i3cDyn[1]?).getD 0
  | 0x1300, 0x05 => (s.mgmt.mctpEid[0]?).getD 0
  | 0x1300, 0x06 => (s.mgmt.mctpEid[1]?).getD 0
  | 0x2000, 0x01 => s.power.vavg
  | 0x2000, 0x02 => inputW s
  | 0x2000, 0x03 => capW s
  | 0x2000, 0x04 => bitSet s.power.on
  | 0x2000, 0x06 => b2n s.power.healthy
  | 0x2000, 0x07 => if s.power.calUnstored then 3 else dget s 0x2000 0x07
  | 0x3000, 0x01 => if !s.power.synmon then 0 else b2n s.power.refclk + 2 * b2n s.power.holdover + 4 * bitSet ((List.range 4).filter (fun p => (s.power.portRef[p]?).getD false))
  | 0x3010, 0x01 => s.power.cause
  | 0x3010, 0x02 => s.power.bootStep
  | 0x3010, 0x05 => s.power.bootMs
  | 0x3010, 0x06 => s.power.fwSlot + 64 * b2n s.power.fwOther + 128 * b2n s.power.recovery
  | 0x4000, 0x01 => Config.slotsPerPage
  | 0x4000, 0x02 => Config.pagesPerBlock
  | 0x4000, 0x03 => Config.slotsPerPage * Config.pagesPerBlock
  | 0x4000, 0x04 => Config.blocks
  | 0x4000, 0x05 => goodBlocks s
  | 0x4000, 0x06 => ckptBlocks
  | 0x4000, 0x07 => if s.power.bootStep < 4 then 0 else Config.flashIf
  | 0x4000, 0x08 => if s.power.bootStep < 4 then 0 else Config.channelRate
  | 0x4000, 0x09 => if s.power.bootStep < 4 then 0 else Config.channelsUsed - s.media.failedCh.length
  | 0x4010, 0x01 => landPct s
  | 0x4010, 0x02 => foldUrg s
  | 0x4010, 0x03 => b2n (landDirect s)
  | 0x4010, 0x04 => landMaxAge s
  | 0x4010, 0x05 => s.media.landHeld
  | 0x4010, 0x06 => landOcc s
  | 0x4010, 0x07 => foldRate s
  | 0x4010, 0x08 => b2n s.media.paced
  | 0x4020, 0x01 => (spareCount s).toNat
  | 0x4020, 0x02 => spareTarget
  | 0x4020, 0x03 => spareFloor
  | 0x4020, 0x05 => ((wornBlocks s).map (wearFrac s)).foldl max 0
  | 0x4020, 0x08 => meanWear s 65536
  | 0x5000, 0x02 => docketUsed s
  | 0x5000, 0x03 => locksUsed s
  | 0x5000, 0x04 => 16384 - poolHeld s false 4096
  | 0x5000, 0x05 => 16384 - poolHeld s true 4096
  | 0x5000, 0x09 => s.host.ps
  | 0x7010, 0x01 => if domainOn s 2 then freeCountOf s false else 0
  | 0x7010, 0x02 => freeCountOf s true
  | 0x7010, 0x03 => s.pool.nearLow
  | 0x7010, 0x04 => s.pool.farLow
  | 0x7010, 0x05 => s.pool.nearWait.length
  | 0x7010, 0x06 => s.pool.farWait.length
  | 0x7020, 0x05 => manifestUsed s
  | 0x7020, 0x06 => s.hm.ring.length
  | 0x7020, 0x07 => s.hm.spillHigh
  | 0x7030, 0x01 => (s.customs.scans.filter (fun e => decide (2 ≤ e.2.state))).length
  | 0x7030, 0x02 => (s.customs.scans.filter (fun e => e.2.state == 1)).length
  | 0x7070, 0x07 => b2n s.tally.miUp
  | 0x8000, 0x01 => s.pair.state
  | 0x9000, 0x04 => dredgePercent s
  | 0x9000, 0x09 => Config.spareRows - s.service.spareUsed
  | _, _ =>
    if i = 0x7040 ∧ 0x10 ≤ sub ∧ sub ≤ 0x2F then holderOf s false (sub - 0x10)
    else if i = 0x7050 ∧ 0x10 ≤ sub ∧ sub ≤ 0x2F then holderOf s true (sub - 0x10)
    else dget s i sub

/-! ### Bytes on the wire -/

/-- The length of a string value: up to its last byte that is not zero. -/
def strLen : Nat → Nat → Nat
  | 0, _ => 0
  | n + 1, v => if v = 0 then 0 else strLen n (v / 256) + 1

/-- The bytes of an entry's value. -/
def wireBytes (s : State) (i : Nat) (r : DRow) (sub : Nat) : List Byte :=
  let v := dictValue s i sub
  leBytes (if r.ty = .str then strLen r.size v else r.size) v

/-- The record exists: an index of Table 17.7's regions that its chapter defines. -/
def recordTop (i : Nat) : Option Nat := dictTop i

/-- The entry's row, subindex 0 standing for the highest subindex. -/
def topRow (i : Nat) : DRow :=
  { idx := i, lo := 0, hi := 0, size := 1, ty := .u8, acc := .const, pers := false, reset := .val 0, min := 0, max := 255 }
def anyRow (i sub : Nat) : Option DRow := if sub = 0 then (recordTop i).map (fun _ => topRow i) else dictRow i sub
def anyBytes (s : State) (i sub : Nat) (r : DRow) : List Byte :=
  if sub = 0 then leBytes 1 ((recordTop i).getD 0) else wireBytes s i r sub

/-- Entries of the harbour die (Table 17.7). -/
def harbourServed (i : Nat) : Bool := decide (0x4000 ≤ i)

/-- The first row of Table 17.4 for a harbour entry. -/
def harbourBusy (s : State) (i : Nat) : Bool := harbourServed i && decide (s.power.bootStep < 4)

/-- Checks 0x0007 to 0x0002 for any access, in the order of Table 17.4. -/
def findEntry (s : State) (i sub : Nat) : Except Nat DRow :=
  if harbourBusy s i then .error 7
  else match recordTop i with
    | none => .error 1
    | some _ => match anyRow i sub with
      | none => .error 2
      | some r => .ok r

/-- A read: its abort code, or the value's bytes (R436). `room` is the LENGTH of a tunnel or NVMe-MI
read. -/
def dictRead (s : State) (i sub : Nat) (room : Option Nat) : Except Nat (List Byte) :=
  match findEntry s i sub with
  | .error c => .error c
  | .ok r =>
    if r.acc = .wo then .error 3
    else
      let b := anyBytes s i sub r
      let need := if r.ty = .str then b.length else r.size
      if room.any (fun n => decide (n < need)) then .error 4 else .ok b

/-- The items of a block read from subindex `sub` on, while they fit in `room` (R441). -/
def blockItems (s : State) (i : Nat) : Nat → Nat → Nat → Nat × List Byte
  | 0, _, _ => (0, [])
  | fuel + 1, sub, room =>
    match anyRow i sub with
    | none => blockItems s i fuel (sub + 1) room
    | some r =>
      if r.acc = .wo then blockItems s i fuel (sub + 1) room
      else
        let v := anyBytes s i sub r
        let item := leBytes 1 sub ++ leBytes 2 v.length ++ v
        if room < item.length then (0, [])
        else
          let (n, rest) := blockItems s i fuel (sub + 1) (room - item.length)
          (n + 1, item ++ rest)

/-- A block read: its abort code, or the number of items and their bytes. -/
def dictBlockRead (s : State) (i sub room : Nat) : Except Nat (Nat × List Byte) :=
  match findEntry s i sub with
  | .error c => .error c
  | .ok _ =>
    let (n, b) := blockItems s i ((recordTop i).getD 0 + 1 - sub) sub room
    if n = 0 then .error 4 else .ok (n, b)

end Sys2Proof.Machine
end

