-- ==== Sys2Proof/Machine/Dictionary.lean ====
section
/-!
DEFINITION. Writing the dictionary: permissions, the checks of Table 17.4, the rules of the single
entries, and the commands that some entries are (R436 to R440, R447, R448).
-/
namespace Sys2Proof.Machine

/-! ### Checks -/

/-- The path may write (R439). -/
def pathAllowed (s : State) (p : Path) : Bool :=
  match p with
  | .synmon k => bitOf (dget s 0x1100 4) k
  | .mi _ => bitOf (dget s 0x1100 4) 2
  | _ => true

/-- A slot's record and the slot. -/
def slotOf (i : Nat) : Option Nat := if 0x2100 ≤ i ∧ i < 0x2118 then some (i - 0x2100) else none

/-- Windows of a frame that a rate takes (R397), and that the slots take with slot `k` at rate `v`. -/
def rateWindows (v : Nat) : Nat := 2 ^ v
def windowsWith (s : State) (k v : Nat) : Nat :=
  ((List.range 22).map (fun j => rateWindows (if j = k then v else dget s (0x2100 + j) 2))).sum

/-- The thresholds of a slot's regions rise by more than the hysteresis (R402). -/
def thresholdsOk (th : Nat → Nat) (h nreg : Nat) : Bool :=
  (List.range (nreg - 1)).all (fun r => decide (th r + h < th (r + 1)))

/-- A slot's thresholds with entry `sub` holding `v`. -/
def slotThOk (s : State) (i sub v : Nat) : Bool :=
  let g (k : Nat) := if k = sub then v else dget s i k
  thresholdsOk (fun r => g (0x10 + r)) (g 7) (g 8)

/-- The value of a slot entry breaks its rule (R398 to R402). -/
def slotRangeBad (s : State) (i k sub v : Nat) : Bool :=
  if sub = 1 then v == 0 && (decide (k < 4) || k == 20 || k == 21)
  else if sub = 2 then decide (160 < windowsWith s k v)
  else if sub = 3 then decide (v < dget s i 0x0C % 65536) || decide (dget s i 0x0C / 65536 < v)
  else if sub = 4 then decide (dget s i 5 < v)
  else if sub = 5 then decide (v < dget s i 4)
  else if sub = 6 then decide (6 < v)
  else if sub = 7 ∨ sub = 8 ∨ (0x10 ≤ sub ∧ sub ≤ 0x17) then !slotThOk s i sub v
  else if 0x20 ≤ sub ∧ sub ≤ 0x57 then decide (2 ^ 37 ≤ v)
  else false

/-- Dword 11 of Landing Policy with the field of [4010.sub] replaced. -/
def landingWith (s : State) (sub v : Nat) : Nat :=
  let f (k : Nat) := if k = sub then v else landingField (landNow s) k
  f 1 + f 2 * 2 ^ 8 + f 3 * 2 ^ 16 + f 4 * 2 ^ 24

/-- The KIND of a lease entry, and VALUE with the entry's field replaced. -/
def leaseKind (sub : Nat) : Option Nat :=
  match sub with
  | 2 => some 0 | 3 => some 0 | 4 => some 1 | 5 => some 2 | 6 => some 3 | 0x0C => some 4 | 0x0D => some 4
  | _ => none
def leaseWith (s : State) (t sub v : Nat) : Nat :=
  let g (k : Nat) := if k = sub then v else dget s (0x6000 + t) k
  match sub with
  | 2 => g 2 + g 3 * 65536
  | 3 => g 2 + g 3 * 65536
  | 0x0C => g 0x0C + g 0x0D * 256
  | 0x0D => g 0x0C + g 0x0D * 256
  | _ => v

/-- The refusal of a lease entry's Tenant Lease. -/
def leaseEntryRefusal (s : State) (i sub v : Nat) : Option Status :=
  if 0x6000 ≤ i ∧ i < 0x6400 then
    match leaseKind sub with
    | some k => leaseRefusal s (i - 0x6000) k (leaseWith s (i - 0x6000) sub v)
    | none => none
  else none

/-- The value lies outside its stated range or breaks a constraint between entries (0x0005). -/
def rangeBad (s : State) (i sub : Nat) (r : DRow) (v : Nat) : Bool :=
  if v < r.min ∨ r.max < v then true
  else if leaseEntryRefusal s i sub v = some .invalidField then true
  else match slotOf i with
    | some k => slotRangeBad s i k sub v
    | none =>
      if i = 0x1100 ∧ sub = 2 then v != 0 && decide (v < 10)
      else if i = 0x4010 ∧ sub ≤ 4 then !landingOk s (landingWith s sub v)
      else if i = 0x4040 ∧ sub ≤ 3 then
        let g (k : Nat) := if k = sub then v else dget s i k
        !(decide (g 1 < g 2) && decide (g 3 < g 1))
      else if i = 0x8000 ∧ sub = 5 then v != 0 && decide (v < 10)
      else false

/-- The entry's rule forbids the write in the current state (0x0008). -/
def stateBad (s : State) (i sub v : Nat) : Bool :=
  if isCal i sub then s.power.calUnstored
  else if leaseEntryRefusal s i sub v = some .commandSequenceError then true
  else match slotOf i with
    | some k => sub == 1 && v == 1 && decide (22 ≤ k)
    | none =>
      if i = 0x2000 ∧ sub = 8 then !s.power.calUnstored
      else if i = 0x8000 ∧ sub = 0x0B then s.pair.state != 0
      else if 0x6000 ≤ i ∧ i < 0x6400 ∧ sub = 1 then (getFn s (fnOf (i - 0x6000))).online
      else false

/-- The worn line a write would commit to, with the entry whose line it is (R455). -/
def wornEntry (s : State) (i sub v : Nat) (pers : Bool) : Option (Nat × Nat) :=
  if i = 0x4010 ∧ sub ≤ 4 then
    ([1, 2, 3, 4].find? (fun k => entryWorn s i k && dget s i k != landingField (landingWith s sub v) k)).map (fun k => (k, dataLine i k))
  else if i = 0x2000 ∧ sub = 8 then
    if v = 1 then ((List.range (sectionSize 2)).find? (fun l => lineWorn s (sectionBase 2 + l))).map (fun l => (8, sectionBase 2 + l)) else none
  else if pers && entryWorn s i sub && dget s i sub != (if i = 0x1100 ∧ sub = 4 then v % 8 + 8 else v) then some (sub, dataLine i sub)
  else none

/-! ### Effects -/

/-- The heartbeat follows a new period (R445): one is sent at once where its due time has passed, and
where the period was 0. -/
def rescheduleBeat (s : State) (old new : Nat) : State :=
  if new ≠ old ∧ new ≠ 0 ∧ (old = 0 ∨ s.mgmt.hbLast + new ≤ s.nowMs) then sendHeartbeats s else s

/-- CAL_RESEED (R404): the generic values become the section. -/
def reseed (s : State) : State :=
  let s := (List.range (sectionSize 2)).foldl (fun s l => wearLine s (sectionBase 2 + l)) s
  let s := { s with power := { s.power with calGeneric := true, calUnstored := false }
                    logbook := { s.logbook with failed := s.logbook.failed.filter (· != 2) }
                    dict := s.dict.filter (fun e => !isCal (e.1 / 256) (e.1 % 256)) }
  dset (bump s 0x1200 6 1) 0x2000 7 2

/-- A calibration entry changes for good; the first such write moves CAL_STATE from 0 to 1 (R403). -/
def setCal (s : State) (i sub v : Nat) : State :=
  if dget s i sub = v then s
  else
    let s := persist s i sub v
    if dget s 0x2000 7 = 0 then dset s 0x2000 7 1 else s

/-- CLEAR_LOW. -/
def clearLow (s : State) : State :=
  { s with pool := { s.pool with nearLow := if domainOn s 2 then dictValue s 0x7010 1 else s.pool.nearLow, farLow := dictValue s 0x7010 2 } }

/-- The write of an entry that passed every check, its reply aside. -/
def applyWrite (s : State) (i sub : Nat) (pers : Bool) (v : Nat) : State :=
  if isCal i sub then setCal s i sub v
  else if i = 0x1100 ∧ sub = 2 then rescheduleBeat (persist s i sub v) (dget s i sub) v
  else if i = 0x1100 ∧ sub = 4 then persist s i sub (v % 8 + 8)
  else if i = 0x2000 ∧ sub = 8 then (if v = 1 then reseed s else s)
  else if i = 0x4010 ∧ sub ≤ 4 then (applyLanding s (landingWith s sub v) true).2
  else if i = 0x7010 ∧ sub = 7 then (if v = 1 then clearLow s else s)
  else if i = 0x7040 ∧ sub = 1 then serveAll (persist s i sub v) false
  else if i = 0x7050 ∧ sub = 1 then serveAll (persist s i sub v) true
  else if pers then persist s i sub v
  else dset s i sub v

/-- A lease entry's write is a Tenant Lease, complete once both modules hold it (R448). -/
def writeLease (s : State) (t kind sub v : Nat) (r : Reply) (n : Nat) : State :=
  let w := leaseWith s t sub v
  match leaseWorn s t kind w with
  | some e => answerAbort (wornRefusal s (0x6000 + t) e.1 (dataLine (0x6000 + t) e.1)) r 6
  | none =>
    mirrorState (leaseApply s t kind w) 5 0 (leBytes 4 (t + kind * 65536) ++ leBytes 4 w ++ leBytes 8 0) (.reply r n)

/-- The first code of Table 17.4 that a write meets before the logbook's own. -/
def writeAbort (s : State) (p : Path) (i sub : Nat) (data : List Byte) : Option Nat :=
  if s.power.dumping && (dictRow i sub).any (·.pers) then some 7
  else match findEntry s i sub with
    | .error c => some c
    | .ok r =>
      if sub = 0 ∨ r.acc = .ro ∨ r.acc = .const ∨ !pathAllowed s p then some 3
      else if (if r.ty = .str then decide (r.size < data.length) else data.length != r.size) then some 4
      else if rangeBad s i sub r (ofLe data) then some 5
      else if stateBad s i sub (ofLe data) then some 8
      else none

/-- A write of the dictionary (R447). -/
def dictWrite (s : State) (p : Path) (i sub : Nat) (data : List Byte) (r : Reply) : State :=
  match writeAbort s p i sub data with
  | some c => answerAbort s r c
  | none =>
    let v := ofLe data
    let pers := (dictRow i sub).any (·.pers)
    match (if 0x6000 ≤ i ∧ i < 0x6400 then leaseKind sub else none) with
    | some k => writeLease s (i - 0x6000) k sub v r data.length
    | none =>
      match wornEntry s i sub v pers with
      | some e => answerAbort (wornRefusal s i e.1 e.2) r 6
      | none => answer (applyWrite s i sub pers v) r (.wrote data.length)

/-! ### Commands -/

/-- An access on a path reaches the module: the supervisor has started its interfaces, the Synmon port
is in use, the tunnel's controller and firmware run. -/
def pathUp (s : State) (p : Path) : Bool :=
  s.power.synmon && (match p with
    | .synmon k => decide (k < 2) && portEnabled s k
    | .mi k => decide (k < 2)
    | _ => decide (4 ≤ s.power.bootStep))

/-- A write that a command row names by itself. -/
def rowWrite (s : State) (p : Path) (i sub : Nat) (data : List Byte) : Res :=
  .next (when (pathUp s p) s (dictWrite s p i sub data (.access p i sub)))

def execDictionaryWrite (path : Path) (index sub : Nat) (data : List Byte) (s : State) : Res := rowWrite s path index sub data
def execCalReseed (path : Path) (data : List Byte) (s : State) : Res := rowWrite s path 0x2000 8 data
def execCalibrationWrite (path : Path) (index sub : Nat) (data : List Byte) (s : State) : Res := rowWrite s path index sub data
def execPilotParameterWrite (path : Path) (slot sub : Nat) (data : List Byte) (s : State) : Res := rowWrite s path (0x2100 + slot) sub data
def execRate (path : Path) (slot : Nat) (data : List Byte) (s : State) : Res := rowWrite s path (0x2100 + slot) 2 data
def execEnable (path : Path) (slot : Nat) (data : List Byte) (s : State) : Res := rowWrite s path (0x2100 + slot) 1 data
def execPathWrite (path : Path) (data : List Byte) (s : State) : Res := rowWrite s path 0x1100 4 data
def execHbPeriodMs (path : Path) (data : List Byte) (s : State) : Res := rowWrite s path 0x1100 2 data
def execNsidHalf (path : Path) (data : List Byte) (s : State) : Res := rowWrite s path 0x8000 0x0B data
def execPort (path : Path) (tenant : Nat) (data : List Byte) (s : State) : Res := rowWrite s path (0x6000 + tenant) 1 data
def execLeaseEntryWrite (path : Path) (tenant sub : Nat) (data : List Byte) (s : State) : Res := rowWrite s path (0x6000 + tenant) sub data
def execLandingPolicy (path : Path) (sub : Nat) (data : List Byte) (s : State) : Res := rowWrite s path 0x4010 sub data
def execWpEngines (path : Path) (data : List Byte) (s : State) : Res := rowWrite s path 0x7040 1 data
def execFwEngines (path : Path) (data : List Byte) (s : State) : Res := rowWrite s path 0x7050 1 data
def execOpCap (path : Path) (data : List Byte) (s : State) : Res := rowWrite s path 0x2300 1 data
def execQuayEnable (path : Path) (data : List Byte) (s : State) : Res := rowWrite s path 0x2300 3 data
def execClusterEnable (path : Path) (data : List Byte) (s : State) : Res := rowWrite s path 0x2300 4 data
def execRefclkMode (path : Path) (data : List Byte) (s : State) : Res := rowWrite s path 0x3000 3 data
def execPlcaWrite (path : Path) (port sub : Nat) (data : List Byte) (s : State) : Res := rowWrite s path (0x1110 + port) sub data
def execDredgeEnable (path : Path) (data : List Byte) (s : State) : Res := rowWrite s path 0x9000 1 data
def execClearLow (path : Path) (data : List Byte) (s : State) : Res := rowWrite s path 0x7010 7 data

/-- A heartbeat falls due (R445). -/
def execHeartbeat (s : State) : Res :=
  let p := dget s 0x1100 2
  .next (when (s.power.synmon && p != 0 && decide (s.mgmt.hbLast + p ≤ s.nowMs)) s (sendHeartbeats s))

end Sys2Proof.Machine
end

