-- ==== Sys2Proof/Machine/Firmware.lean ====
section
/-!
DEFINITION. Firmware images and their activation (R70, R71, R430, R501, R502).
-/
namespace Sys2Proof.Machine

/-- Bytes of a firmware slot. -/
def fwMax : Nat := 3 * 2 ^ 20

/-- FIRMWARE_IMAGE_DOWNLOAD. -/
def fwDownload (s : State) (a : Adm) (off : Nat) (data : List Byte) : State :=
  if off % 4096 ≠ 0 ∨ data.length % 4096 ≠ 0 ∨ data.length = 0 ∨ fwMax < off + data.length then adminFail s a .invalidField
  else adminOk { s with power := { s.power with fwBuf := memWrite s.power.fwBuf off data, fwBufLen := max s.power.fwBufLen (off + data.length) } } a

/-- Admin commands of the physical function that recovery mode accepts too. -/
def adminPfAny (s : State) (a : Adm) (t : State) : Res :=
  adminAny s a (if a.fn = 0 then t else adminFail s a .invalidOpcode)

def execFirmwareImageDownload (a : Adm) (off : Nat) (data : List Byte) (s : State) : Res :=
  adminPfAny s a (fwDownload s a off data)

/-- The slot a commit names: 0 leaves the choice to the module, which takes the one that is not
running. -/
def fwTarget (s : State) (slot : Nat) : Option Nat :=
  if slot = 0 then some (3 - s.power.fwSlot) else if slot ≤ 2 then some slot else none

/-- The image in a slot verifies (R430). -/
def slotOk (s : State) (slot : Nat) : Bool :=
  !s.logbook.failed.contains (7 + slot) &&
  match (if slot = 1 then s.power.fw1 else s.power.fw2) with
  | some b => Config.fwSigned b
  | none => Config.fwShippedOk slot

/-- The logbook lines that hold the first `n` bytes of a slot's image: sections 8 and 9. -/
def slotLines (slot n : Nat) : List Nat := (List.range (ceilDiv n 64)).map (· + sectionBase (7 + slot))

/-- An image is stored in a slot; a worn line among its lines refuses it. -/
def storeImage (s : State) (slot : Nat) (b : List Byte) : State :=
  let s := (slotLines slot b.length).foldl wearLine (wearLine s (checkLine (7 + slot)))
  let s := bump s 0x1200 6 1
  let s := { s with logbook := { s.logbook with failed := s.logbook.failed.filter (· != 7 + slot) } }
  { s with power := if slot = 1 then { s.power with fw1 := some b, fwBuf := [], fwBufLen := 0 } else { s.power with fw2 := some b, fwBuf := [], fwBufLen := 0 } }

/-- The downloaded image goes to a slot, its signature checked first. -/
def fwStore (s : State) (slot : Nat) : Option Status × State :=
  match fwTarget s slot with
  | none => (some .invalidFirmwareSlot, s)
  | some t =>
    let b := memRead s.power.fwBuf 0 s.power.fwBufLen
    if b.isEmpty ∨ !Config.fwSigned b then (some .invalidFirmwareImage, s)
    else match (checkLine (7 + t) :: slotLines t b.length).find? (lineWorn s) with
      | some line => (some .internalError, wornRefusal s 0 0 line)
      | none => (none, storeImage s t b)

/-- Commit action 0x0. -/
def execFirmwareCommitStore (a : Adm) (slot : Nat) (s : State) : Res :=
  adminPfAny s a (match fwStore s slot with
    | (some st, s) => adminFail s a st
    | (none, s) => adminOk s a)

/-- Commit action 0x1: stored, and active from the next module-wide reset on. -/
def execFirmwareCommitReplaceActivate (a : Adm) (slot : Nat) (s : State) : Res :=
  adminPfAny s a (if s.pair.state = 1 then adminFail s a .firmwareActivationProhibited
    else match fwStore s slot with
      | (some st, t) => adminFail t a st
      | (none, t) => adminOk { t with power := { t.power with fwNext := (fwTarget s slot).getD 1 } } a)

/-- Commit action 0x2: the slot's image is active from the next module-wide reset on. -/
def execFirmwareCommitActivate (a : Adm) (slot : Nat) (s : State) : Res :=
  adminPf s a (match fwTarget s slot with
    | none => adminFail s a .invalidFirmwareSlot
    | some t =>
      if s.pair.state = 1 then adminFail s a .firmwareActivationProhibited
      else if !slotOk s t then adminFail s a .invalidFirmwareImage
      else adminOk { s with power := { s.power with fwNext := t } } a)

/-- Threads of every space are held while an activation drains, and released when it ends. -/
def settleSpaces (s : State) : State :=
  ((s.hm.threads.map (fun e => e.2.space)).dedup).foldl settleHold s

/-- Commit action 0x3: step 1 of Table 2.11a; its completion comes with step 4. -/
def execFirmwareCommitActivateNow (a : Adm) (slot : Nat) (s : State) : Res :=
  adminPf s a (match fwTarget s slot with
    | none => adminFail s a .invalidFirmwareSlot
    | some t =>
      if !slotOk s t then adminFail s a .invalidFirmwareImage
      else
        let s := settleSpaces { s with host := { s.host with activation := some { adm := a, slot := t, start := s.nowMs } } }
        postEvents s (fnList s) { typ := 2, info := 1, log := 3 })

/-- Everything has drained but paused scans and held threads (Table 2.11a step 2). -/
def drained (s : State) : Bool :=
  s.host.dockets.all (fun e => e.2.sqe.kind == .customsScan || e.2.sqe.kind == .executeProgram) &&
    !(s.ik.cores.any (fun c => match c.2.phase with | .idle => false | _ => decide (c.1 < 256)))

/-- FW_DRAIN_COMPLETE: steps 3 and 4. -/
def execFwDrainComplete (s : State) : Res :=
  match s.host.activation with
  | none => .next s
  | some x => .next (when (drained s && decide (s.nowMs < x.start + 200)) s
    (let s := { s with host := { s.host with activation := none }, power := { s.power with fwSlot := x.slot, fwNext := x.slot, wdtAt := s.power.wdtAt.map (fun _ => s.nowMs) } }
     adminOk (settleSpaces s) x.adm))

/-- FW_ACTIVATION_TIMEOUT: the old image goes on (R71). -/
def execFwActivationTimeout (s : State) : Res :=
  match s.host.activation with
  | none => .next s
  | some x => .next (when (decide (x.start + 200 ≤ s.nowMs)) s
    (adminFail (settleSpaces { s with host := { s.host with activation := none }, power := { s.power with wdtAt := s.power.wdtAt.map (fun _ => s.nowMs) } }) x.adm .firmwareActivationProhibited))

end Sys2Proof.Machine
end

