-- ==== Sys2Proof/Machine/Zones.lean ====
section
/-!
DEFINITION. Zone Management and Reservations (R37, R100 to R104, R132, R375).
-/
namespace Sys2Proof.Machine

/-! ### Zone Management Send -/

/-- The records that take a zone's lot away (R102). -/
def unbindRecs (m : MapSt) (v : Zone) : List JRec :=
  if v.lotv then [lotRec (getLot m v.lot) v.lot 3] else []

/-- What an action does to a zone in a state: nothing (it is already there), records, or a refusal. -/
def zoneRecs (s : State) (k : IoKind) (nsid z : Nat) : Except Status (List JRec) :=
  let m := newestMap s
  let v := getZone m nsid z
  let set (zs : Nat) : Except Status (List JRec) := .ok [zstateRec nsid z { v with zs := zs }]
  match k with
  | .zoneClose => if v.zs = 4 then .ok [] else if zOpen v.zs then set 4 else .error .invalidZoneTransition
  | .zoneFinish =>
    if v.zs = 0xE then .ok [] else if v.zs = 1 ∨ zActive v.zs then set 0xE else .error .invalidZoneTransition
  | .zoneReset =>
    if v.zs = 1 then .ok []
    else if zActive v.zs ∨ v.zs = 0xE then .ok (zstateRec nsid z Zone.empty :: unbindRecs m v)
    else .error .invalidZoneTransition
  | .zoneOffline =>
    if v.zs = 0xF then .ok []
    else if v.zs = 0xD then .ok (zstateRec nsid z { Zone.empty with zs := 0xF } :: unbindRecs m v)
    else .error .invalidZoneTransition
  | _ => .ok []

/-- Zones an action with Select All takes. -/
def selectZone (k : IoKind) (zs : Nat) : Bool :=
  match k with
  | .zoneOpen => zs == 4
  | .zoneClose => zOpen zs
  | .zoneFinish => zActive zs
  | .zoneReset => zActive zs || zs == 0xE
  | .zoneOffline => zs == 0xD
  | _ => false
def selectZones (s : State) (k : IoKind) (nsid : Nat) : List Nat :=
  (((newestMap s).zones.filter (fun e => e.1 / 2 ^ 24 == nsid && selectZone k e.2.zs)).map (fun e => e.1 % 2 ^ 24))

/-- The zones a command names: the one at its LBA, or those Select All takes. -/
def sendZonesOf (s : State) (q : Sqe) : List Nat :=
  if q.flag then selectZones s q.kind q.nsid else [q.slba / (zoneSize / lbaSlots (getNs s q.nsid).lbaf)]

/-- A fold row of the zone is in flight. -/
def zoneFolding (s : State) (nsid z : Nat) : Bool :=
  s.media.relocs.any (fun r => r.2.kind == 1 && r.2.step == 1 && r.2.units.any (fun u => u.1.nsid == nsid && u.1.unit / zoneSize == z))

/-- A Zone Management Send. Reset, Finish and Offline wait for a fold row in flight in their zones (R132). -/
def zoneSend (s : State) (d : Nat) : State :=
  let q := (getDk s d).sqe
  let lbas := zoneSize / lbaSlots (getNs s q.nsid).lbaf
  if !q.flag ∧ (q.slba % lbas ≠ 0 ∨ (getNs s q.nsid).nsze ≤ q.slba) then ioFail s d .invalidField
  else
    let zs := sendZonesOf s q
    if (q.kind = .zoneReset ∨ q.kind = .zoneFinish ∨ q.kind = .zoneOffline) ∧ zs.any (zoneFolding s q.nsid) then
      modDk s d (fun e => { e with foldWait := true })
    else
    if q.kind = .zoneOpen then
      let r := zs.foldl (fun (r : Option Status × State) z =>
        match r.1 with
        | some _ => r
        | none =>
          let v := getZone (newestMap r.2) q.nsid z
          if v.zs = 3 then r
          else if v.zs = 2 then (none, append r.2 [zstateRec q.nsid z { v with zs := 3 }])
          else if v.zs = 1 ∨ v.zs = 4 then openZone r.2 q.nsid z 3
          else (some .invalidZoneTransition, r.2)) (none, s)
      match r.1 with
      | some st => ioFail r.2 d st
      | none => recordCommand r.2 d []
    else
      match zs.foldl (fun (r : Except Status (List JRec)) z => match r with
          | .ok l => (match zoneRecs s q.kind q.nsid z with | .ok x => .ok (l ++ x) | .error e => .error e)
          | .error e => .error e) (.ok []) with
      | .error st => ioFail s d st
      | .ok rs => recordCommand s d rs

def execZoneOpen (d : Nat) (s : State) : Res := io s d .zoneOpen (onNs s d [] (fun s => zoneSend s d))
def execZoneClose (d : Nat) (s : State) : Res := io s d .zoneClose (onNs s d [] (fun s => zoneSend s d))
def execZoneFinish (d : Nat) (s : State) : Res := io s d .zoneFinish (onNs s d [] (fun s => zoneSend s d))
def execZoneReset (d : Nat) (s : State) : Res := io s d .zoneReset (onNs s d [] (fun s => zoneSend s d))
def execZoneOffline (d : Nat) (s : State) : Res := io s d .zoneOffline (onNs s d [] (fun s => zoneSend s d))

/-! ### Report Zones -/

/-- The zone states a Zone Receive Action Specific value lists (0 lists every state). -/
def reportState (zrasf : Nat) : Option Nat :=
  match zrasf with | 1 => some 1 | 2 => some 2 | 3 => some 3 | 4 => some 4 | 5 => some 0xE | 6 => some 0xD | 7 => some 0xF | _ => none

/-- The Zone Descriptor fields of a zone. -/
def zoneFields (s : State) (nsid z : Nat) : List (String × Nat) :=
  let v := getZone s.media.cur nsid z
  let k := lbaSlots (getNs s nsid).lbaf
  [("ZT", 2), ("ZS", v.zs), ("ZCAP", zoneCap / k), ("ZSLBA", z * zoneSize / k), ("WP", (z * zoneSize + v.wp) / k)]

/-- Zone Management Receive (Report Zones): as many descriptors as the buffer holds. -/
def zoneReport (s : State) (d : Nat) : State :=
  let q := (getDk s d).sqe
  let lbas := zoneSize / lbaSlots (getNs s q.nsid).lbaf
  let bytes := (sqeDw q 12 + 1) * 4
  let zrasf := bitsOf (sqeDw q 13) 8 15
  let partial_ := bitOf (sqeDw q 13) 16
  if bitsOf (sqeDw q 13) 0 7 ≠ 0 ∨ 7 < zrasf then ioFail s d .invalidField
  else
    let all := (List.range (nsZones (getNs s q.nsid) - q.slba / lbas)).map (· + q.slba / lbas)
    let l := all.filter (fun z => match reportState zrasf with | some x => (getZone s.media.cur q.nsid z).zs == x | none => true)
    let shown := l.take ((bytes - 64) / 64)
    ioDone s d .success 0 0 (.fields (("NZONES", if partial_ then shown.length else l.length) :: (shown.map (zoneFields s q.nsid)).flatten))

def execZoneManagementReceive (d : Nat) (s : State) : Res := io s d .zoneReport (onHere s d (fun s => zoneReport s d))

/-! ### Reservations -/

/-- The Reservation Status data structure with extended data (log entry 5). -/
def resvStatus (n : Ns) : List Byte :=
  leBytes 4 n.resvGen ++ leBytes 1 n.resvType ++ leBytes 2 n.regs.length ++ [0, 0] ++ leBytes 1 (b2n n.persist) ++ List.replicate 54 0 ++
    (n.regs.map (fun r => leBytes 2 r.fn ++ leBytes 1 (b2n (n.resvHolder == some r.host || n.resvType == 5 || n.resvType == 6)) ++
      List.replicate 5 0 ++ leBytes 8 r.key.toNat ++ leBytes 16 r.host ++ List.replicate 32 0)).flatten

/-- Dword 10 of an action, the data it carries with the host's own key, and the action they spell (log
entry 5). -/
def resvDw10 : ResvAction → Nat
  | .register _ => 0
  | .unregister => 1
  | .replace _ => 2
  | .acquire t => t * 256
  | .preempt _ t => 1 + t * 256
  | .preemptAbort _ t => 2 + t * 256
  | .release t => t * 256
  | .clear => 1
def resvKeys (own : Nat) : ResvAction → List Byte
  | .register k => leBytes 8 own ++ leBytes 8 k.toNat
  | .replace k => leBytes 8 own ++ leBytes 8 k.toNat
  | .preempt k _ => leBytes 8 own ++ leBytes 8 k.toNat
  | .preemptAbort k _ => leBytes 8 own ++ leBytes 8 k.toNat
  | .unregister => leBytes 8 own ++ leBytes 8 0
  | .acquire _ => leBytes 8 own ++ leBytes 8 0
  | _ => leBytes 8 own
def resvOf (k : IoKind) (dw10 : Nat) (data : List Byte) : Option ResvAction :=
  let key := BitVec.ofNat 64 (recNat data 8 8)
  let t := bitsOf dw10 8 15
  match k, bitsOf dw10 0 2 with
  | .resvRegister, 0 => some (.register key)
  | .resvRegister, 1 => some .unregister
  | .resvRegister, 2 => some (.replace key)
  | .resvAcquire, 0 => some (.acquire t)
  | .resvAcquire, 1 => some (.preempt key t)
  | .resvAcquire, 2 => some (.preemptAbort key t)
  | .resvRelease, 0 => some (.release t)
  | .resvRelease, 1 => some .clear
  | _, _ => none
def ownKey (s : State) (d : Nat) : Nat :=
  match registrant s (getNs s (getDk s d).sqe.nsid) (getDk s d).fn with
  | some r => r.key.toNat
  | none => 0

/-- The refusals before a Reservation command may be forwarded. -/
def resvNs (s : State) (d : Nat) (data : List Byte) (run : State → State) : State :=
  let e := getDk s d
  if heldByTakeover s e.sqe.nsid ∨ rekeying s e.sqe.nsid then s
  else match nsRefusal s e with
  | some st => ioFail s d st
  | none => if forwards s e.sqe.nsid && e.remote.isNone then forward s d data else run (modDk s d (fun e => { e with started := true }))

/-- A registration leaves; a reservation it held goes with it. -/
def dropRegs (n : Ns) (p : Registrant → Bool) : Ns :=
  let rs := n.regs.filter (fun r => !p r)
  let gone := match n.resvHolder with | some h => n.regs.any (fun r => p r && r.host == h) | none => false
  let n := { n with regs := rs }
  if (n.resvType = 5 ∨ n.resvType = 6) then (if rs.isEmpty then { n with resvType := 0, resvHolder := none } else n)
  else if gone then { n with resvType := 0, resvHolder := none } else n

/-- A reservation command's effect; none where it conflicts. -/
def resvStep (s : State) (n : Ns) (fn : Nat) : ResvAction → Option Ns
  | .register key =>
    match registrant s n fn with
    | some r => if r.key = key then some n else none
    | none => some { n with regs := n.regs ++ [{ fn := fn, host := hostKey s fn, key := key }], resvGen := n.resvGen + 1 }
  | .unregister => if (registrant s n fn).isNone then none else some { dropRegs n (fun r => r.host == hostKey s fn) with resvGen := n.resvGen + 1 }
  | .replace key =>
    if (registrant s n fn).isNone then none
    else some { n with regs := n.regs.map (fun r => if r.host = hostKey s fn then { r with key := key } else r), resvGen := n.resvGen + 1 }
  | .acquire t =>
    if (registrant s n fn).isNone then none
    else if n.resvType = 0 then some { n with resvType := t, resvHolder := some (hostKey s fn) }
    else if holdsResv s n fn ∧ n.resvType = t then some n else none
  | .preempt key t => preempt key t
  | .preemptAbort key t => preempt key t
  | .release t =>
    if (registrant s n fn).isNone then none
    else if n.resvType = 0 ∨ !holdsResv s n fn then some n
    else if n.resvType = t then some { n with resvType := 0, resvHolder := none } else none
  | .clear =>
    if (registrant s n fn).isNone then none
    else some { n with regs := [], resvType := 0, resvHolder := none, resvGen := n.resvGen + 1 }
where
  preempt (key : W64) (t : Nat) : Option Ns :=
    let me := hostKey s fn
    let all := n.resvType = 5 ∨ n.resvType = 6
    let holder := n.regs.find? (fun r => n.resvHolder == some r.host)
    if (registrant s n fn).isNone then none
    else if n.resvType ≠ 0 ∧ ((all ∧ key = 0) ∨ (¬ all ∧ holder.any (fun r => r.key == key))) then
      some { n with
        regs := n.regs.filter (fun r => r.host == me || !(if all then true else r.key == key))
        resvType := t, resvHolder := some me, resvGen := n.resvGen + 1 }
    else if n.regs.any (fun r => r.key == key) then
      some { dropRegs n (fun r => r.key == key) with resvGen := n.resvGen + 1 }
    else none

/-- Reservation notifications to the other registrants: a log entry, and the event (log page 0x80). -/
def resvNotify (s : State) (nsid fn typ : Nat) (was : Ns) : State :=
  (was.regs.filter (fun r => r.fn != fn)).foldl (fun s r =>
    if bitOf (featGet (getFn s r.fn) (0x82 * 2 ^ 32 + nsid)) typ then s
    else postEvent (modFn s r.fn (fun f => { f with resvLog := f.resvLog ++ [(nsid, typ)] })) r.fn { typ := 6, info := 0, log := 0x80 }) s

/-- What an action notifies: 1 registration preempted, 2 reservation released, 3 reservation
preempted. -/
def notice (was now : Ns) : ResvAction → Nat
  | .preempt _ _ | .preemptAbort _ _ => if was.resvType ≠ now.resvType ∨ was.resvHolder ≠ now.resvHolder then 3 else 1
  | .clear => 3
  | .release _ | .unregister => if was.resvType ≠ 0 ∧ now.resvType = 0 then 2 else 0
  | _ => 0

/-- Commands of the preempted hosts are aborted (Preempt and Abort). -/
def abortPreempted (s : State) (nsid fn : Nat) (was now : Ns) : State :=
  let gone := was.regs.filter (fun r => !now.regs.any (fun x => x.host == r.host) && r.fn != fn)
  ((s.host.dockets.filter (fun e => e.2.sqe.nsid == nsid && gone.any (fun r => r.fn == e.2.fn) && e.2.word == .admitted)).map Prod.fst).foldl (fun s d => dkAbort s d .abortRequested) s

/-- A Reservation command; on a mirrored namespace it completes once both modules hold the result. -/
def resvCmd (s : State) (d : Nat) (act : ResvAction) : State :=
  let e := getDk s d
  let was := getNs s e.sqe.nsid
  match resvStep s was e.fn act with
  | none => ioFail s d .reservationConflict
  | some now =>
    let s := setNs s e.sqe.nsid now
    let s := match act with | .preemptAbort _ _ => abortPreempted s e.sqe.nsid e.fn was now | _ => s
    let t := notice was now act
    let s := if t = 0 then s else resvNotify s e.sqe.nsid e.fn t was
    if was.mirror then mirrorState s 3 e.sqe.nsid (resvStatus now) (.dock d) else ioOk s d

def isRegister : ResvAction → Bool | .register _ => true | .unregister => true | .replace _ => true | _ => false
def isAcquire : ResvAction → Bool | .acquire _ => true | .preempt _ _ => true | .preemptAbort _ _ => true | _ => false
def resvTypeOk : ResvAction → Bool
  | .acquire t => decide (1 ≤ t) && decide (t ≤ 6)
  | .preempt _ t => decide (1 ≤ t) && decide (t ≤ 6)
  | .preemptAbort _ t => decide (1 ≤ t) && decide (t ≤ 6)
  | _ => true

/-- An action of another command is refused. -/
def resvRow (s : State) (d : Nat) (mine : Bool) (act : ResvAction) : State :=
  let q := (getDk s d).sqe
  let s := if q.dw.isEmpty then modDk s d (fun e => { e with sqe := { q with dw := [BitVec.ofNat 32 (resvDw10 act)] } }) else s
  resvNs s d (resvKeys (ownKey s d) act) (fun s => if !mine ∨ !resvTypeOk act then ioFail s d .invalidField else resvCmd s d act)

/-- Reservation Report. -/
def reportResv (s : State) (d : Nat) : State :=
  resvNs s d [] (fun s => ioDone s d .success 0 0 (.bytes (resvStatus (getNs s (getDk s d).sqe.nsid))))

def execReservationRegister (d : Nat) (act : ResvAction) (s : State) : Res :=
  io s d .resvRegister (resvRow s d (isRegister act) act)
def execReservationAcquire (d : Nat) (act : ResvAction) (s : State) : Res :=
  io s d .resvAcquire (resvRow s d (isAcquire act) act)
def execReservationRelease (d : Nat) (act : ResvAction) (s : State) : Res :=
  io s d .resvRelease (resvRow s d (!isRegister act && !isAcquire act) act)
def execReservationReport (d : Nat) (s : State) : Res :=
  io s d .resvReport (reportResv s d)

end Sys2Proof.Machine
end

