-- ==== Sys2Proof/Machine/MediaCmds.lean ====
section
/-!
DEFINITION. Background work on the media: journal pages, checkpoints, folding, garbage collection,
refresh, rebuild, wear swaps, erases and failures (R97, R110, R128 to R151).
-/
namespace Sys2Proof.Machine

/-! ### Journal and checkpoint -/

/-- JOURNAL_PAGE_PROGRAM: the next page, at most 127 records, is programmed (R107, R128). -/
def execJournalPageProgram (s : State) : Res :=
  .next (when (decide (s.media.programmedJsn < s.media.jsn)) s
    (resumeHeld (settlePacing (settleWindow (closeDue (applyReady (programPage s 2 s.media.jsn)))))))

/-- CHECKPOINT_PASS: passes start at least 8 s apart; a worn root line makes none (R110, R111, R455). -/
def execCheckpointPass (s : State) : Res :=
  .next (when (s.media.ready && (match s.media.passAt with | some t => decide (t + 8000 ≤ s.nowMs) | none => true)) s
    (if commitWorn s 5 rootLine then logPel s "map root line worn" rootLine 0
     else resumeHeld (settleWindow (closeDue (checkpoint s false)))))

/-- The media take new background work: the map is restored, the governor has not paused quay issue
(R413), and no dump runs. -/
def mediaOpen (s : State) : Bool := s.media.ready && !s.power.quayPaused && !s.power.dumping

/-! ### What a relocation moves -/

/-- A unit's word; a zoned 4 KiB unit's is formed of the address it lies at. -/
def unitWord (s : State) (m : MapSt) (r : UnitRef) : Nat :=
  let n := tabGet Ns.empty m.nss r.nsid
  if !n.live ∨ !heldHere s r.nsid then 0
  else if n.zoned then
    let z := r.unit / zoneSize
    let o := r.unit % zoneSize
    let v := getZone m r.nsid z
    let x := getLot m v.lot
    if !v.lotv ∨ v.wp ≤ o then 0
    else if o < x.foldptr then storedWord (lotAddr x o) false false false
    else storedWord (tabGet 0 m.zland (zlandKey r.nsid z o)) true false false
  else mapWord m r.nsid r.unit

/-- The slots behind a word. -/
def wordSlots (s : State) (r : UnitRef) (w : Nat) : List Nat :=
  if (getNs s r.nsid).zoned then [mAddr w]
  else (List.range (if mPacked w then containerSlots s (mAddr w) else unitSlots (getNs s r.nsid).lbaf)).map (· + mAddr w)

/-- The unit is already being moved. -/
def beingMoved (s : State) (r : UnitRef) : Bool := s.media.relocs.any (fun e => e.2.step == 1 && e.2.units.any (fun u => u.1 == r))

/-- A relocation begins: it takes the lowest free number (Table 4.4 step 1). The lot it empties is marked, and
so is the member it is for. -/
def startReloc (s : State) (r : Reloc) : State :=
  let k := (lowestFrom (fun k => (tabFind s.media.relocs k).isNone) (s.media.relocs.length + 1) 0).getD 0
  let s := { s with media := { s.media with relocs := tabPut s.media.relocs k { r with step := 1, jsn := s.media.jsn } } }
  match r.lot with
  | some l =>
    let x := getLot s.media.cur l
    let ms := x.members.zipIdx.map (fun e => if r.block = some (memberBlock x e.2 e.1) ∧ e.1.mstate = 0 then { e.1 with mstate := 1 } else e.1)
    { s with media := { s.media with cur := setLot s.media.cur l { x with reloc := true, members := ms } } }
  | none => s

def withWords (s : State) (l : List UnitRef) : List (UnitRef × Nat) := let m := newestMap s; l.map (fun r => (r, unitWord s m r))

/-- When a landed unit was written: the journal number in its tag, and the time. -/
def landedAt (s : State) (w : Nat) : Nat :=
  match tabGet none s.media.flash (mAddr w) with
  | some x => (match x.tag with | some t => t.ljsn | none => 0)
  | none => 0
def landedTime (s : State) (w : Nat) : Nat := match tabGet none s.media.flash (mAddr w) with | some x => x.time | none => 0

/-- Device-mapped units ready to be folded: landed and not yet being moved. -/
def foldable (s : State) (r : UnitRef) (w : Nat) : Bool := !(getNs s r.nsid).zoned && mMapped w && mLanded w && !beingMoved s r

/-! ### The rank order of background work (R139, Table 4.6) -/

/-- The full pooled lot of a group with the lowest VALID, the lowest index of equals (R134). -/
def gcVictim (s : State) (g : Nat) : Option Nat :=
  let m := newestMap s
  let l := (m.lots.filter (fun e => e.2.state == 2 && isPooled e.2 && e.2.chgrp == g && !lotMoved s e.1)).map Prod.fst
  l.foldl (fun b x => match b with
    | none => some x
    | some y => if lotValid s m x < lotValid s m y then some x else some y) none

/-- Garbage collection is due in a group: from below the start count until the stop count. -/
def gcDue (s : State) (g : Nat) : Bool :=
  decide (freeLots s g < dget s 0x4040 1) || (s.media.gcOn.contains g && decide (freeLots s g < dget s 0x4040 2))
def gcRank (s : State) (g : Nat) : Nat := if freeLots s g < dget s 0x4040 3 then 3 else 7
/-- Folding is urgent at or above FOLDURG (R131). -/
def foldRank (s : State) : Nat := if foldUrg s ≤ landOcc s then 4 else 6

/-- A refresh of the block can start: a landing block's, or that of a lot in service which is not moving. -/
def refreshOpen (s : State) (m : MapSt) (b : Nat) : Bool :=
  !(s.media.relocs.any (fun e => e.2.block == some b)) &&
    ((getBlk s b).pool == 1 || (match lotWith m b with | some l => lotInUse (getLot m l) && !lotMoved s l | none => false))

/-- The ranks of the work that waits on a channel and could start. -/
def waitingRanks (s : State) (ch : Nat) : List Nat :=
  let m := newestMap s
  let g := ch / 32
  let landedHere := m.map.any (fun e => foldable s ⟨e.1 / 2 ^ 48, e.1 % 2 ^ 48⟩ e.2 && addrChannel (mAddr e.2) == ch)
  (if !s.media.readOnly && (gcVictim s g).isSome && gcDue s g then [gcRank s g] else []) ++
    (if !s.media.readOnly && landedHere && foldRank s == 4 then [4] else []) ++
    ((s.media.blocks.filter (fun e => e.1 / 2 ^ 32 == ch && e.2.refresh != 0 && refreshOpen s m e.1)).map (·.2.refresh))

/-- No work of a higher rank waits on any of the channels. -/
def rankOpen (s : State) (chs : List Nat) (rank : Nat) : Bool := chs.all (fun c => (waitingRanks s c).all (fun k => decide (rank ≤ k)))
/-- The channels units lie on. -/
def unitChannels (l : List (UnitRef × Nat)) : List Nat := (l.map (fun u => addrChannel (mAddr u.2))).dedup

/-! ### Folding (R130 to R132) -/

/-- Where units in a row end, in slots: a packed unit stays in one page. -/
def rowFill (s : State) (l : List (UnitRef × Nat)) : Nat :=
  l.foldl (fun p u =>
    let n := (wordSlots s u.1 u.2).length
    let sp := Config.slotsPerPage
    (if mPacked u.2 ∧ sp < p % sp + n then (p / sp + 1) * sp else p) + n) 0

/-- The units are the oldest landed ones, and fill whole rows. -/
def foldMappedOk (s : State) (l : List UnitRef) : Bool :=
  let us := withWords s l
  let newest := (us.map (fun u => landedAt s u.2)).foldl max 0
  !l.isEmpty && decide l.Nodup && us.all (fun u => foldable s u.1 u.2) &&
    ceilDiv (rowFill s us) Config.slotsPerPage % 31 == 0 && (rowFill s us % Config.slotsPerPage == 0 || us.any (fun u => mPacked u.2)) &&
    (newestMap s).map.all (fun e =>
      let r : UnitRef := ⟨e.1 / 2 ^ 48, e.1 % 2 ^ 48⟩
      l.contains r || !foldable s r e.2 || decide (newest ≤ landedAt s e.2))

/-- The units are one zone's, from its FOLDPTR on, in whole rows; a finished zone folds its partial
row. -/
def foldZoneOk (s : State) (l : List UnitRef) : Bool :=
  match l with
  | [] => false
  | r :: _ =>
    let m := newestMap s
    let z := r.unit / zoneSize
    let v := getZone m r.nsid z
    let x := getLot m v.lot
    let n := l.length
    (getNs s r.nsid).live && (getNs s r.nsid).zoned && heldHere s r.nsid && v.lotv && !lotMoved s v.lot && l.all (fun u => !beingMoved s u) &&
      decide (l = (List.range n).map (fun i => (⟨r.nsid, z * zoneSize + x.foldptr + i⟩ : UnitRef))) && decide (x.foldptr + n ≤ v.wp) &&
      (n % rowUnits == 0 || (v.zs == 0xE && x.foldptr + n == v.wp))

/-- FOLD_START: folding takes units, at its rank. -/
def execFoldStart (units : List UnitRef) (zoneFold : Bool) (s : State) : Res :=
  let us := withWords s units
  .next (when (mediaOpen s && !s.media.readOnly && (if zoneFold then foldZoneOk s units else foldMappedOk s units) && rankOpen s (unitChannels us) (foldRank s)) s
    (startReloc s { Reloc.empty with kind := b2n zoneFold, units := us }))

/-- The landed device-mapped units, oldest first. -/
def insertUnit (x : Nat × UnitRef) : List (Nat × UnitRef) → List (Nat × UnitRef)
  | [] => [x]
  | y :: ys => if x.1 ≤ y.1 then x :: y :: ys else y :: insertUnit x ys
def oldestLanded (s : State) : List UnitRef :=
  (((newestMap s).map.filterMap (fun e =>
    let r : UnitRef := ⟨e.1 / 2 ^ 48, e.1 % 2 ^ 48⟩
    if foldable s r e.2 then some (landedAt s e.2, r) else none)).foldr insertUnit []).map Prod.snd

/-- The units that a fold for the sake of one unit takes: the rows from its zone's FOLDPTR on, or the oldest
landed units up to it that fill whole rows; none where no whole rows hold it yet. -/
def ageFold (s : State) (unit : UnitRef) : Option (List UnitRef) :=
  if (getNs s unit.nsid).zoned then
    let z := unit.unit / zoneSize
    let v := getZone (newestMap s) unit.nsid z
    let fp := (getLot (newestMap s) v.lot).foldptr
    let n := if v.zs = 0xE then v.wp - fp else (v.wp - fp) / rowUnits * rowUnits
    let us := (List.range n).map (fun i => (⟨unit.nsid, z * zoneSize + fp + i⟩ : UnitRef))
    if us.contains unit && foldZoneOk s us then some us else none
  else
    let l := oldestLanded s
    ((List.range l.length).find? (fun k => (l.take (k + 1)).contains unit && foldMappedOk s (l.take (k + 1)))).map (fun k => l.take (k + 1))

/-- FOLD_MAXAGE: a landed unit older than MAXAGE hours is queued for folding at normal priority; the fold
starts as soon as whole rows hold it. The partial row of a zone not yet finished stays landed (R131). -/
def execFoldMaxage (unit : UnitRef) (s : State) : Res :=
  let w := unitWord s (newestMap s) unit
  .next (when (mediaOpen s && !s.media.readOnly && mMapped w && mLanded w && !beingMoved s unit && decide (landedTime s w + landMaxAge s * 3600000 < s.nowMs)) s
    (let s := { s with media := { s.media with foldQueue := if s.media.foldQueue.contains unit then s.media.foldQueue else s.media.foldQueue ++ [unit] } }
     match ageFold s unit with
     | some us =>
       if rankOpen s (unitChannels (withWords s us)) 6 then
         startReloc s { Reloc.empty with kind := b2n (getNs s unit.nsid).zoned, units := withWords s us }
       else s
     | none => s))

/-! ### Garbage collection, refresh, whole-lot moves (R97, R134, R150, R151) -/

/-- The units a lot holds. -/
def lotContents (m : MapSt) (l : Nat) : List UnitRef :=
  let x := getLot m l
  if isPooled x then
    let bs := lotBlocks x
    (m.map.filter (fun e => mMapped e.2 && !mLanded e.2 && bs.contains (addrBlock (mAddr e.2)))).map (fun e => ⟨e.1 / 2 ^ 48, e.1 % 2 ^ 48⟩)
  else
    let v := getZone m x.nsid x.zone
    (List.range (min x.foldptr v.wp)).map (fun o => ⟨x.nsid, x.zone * zoneSize + o⟩)

/-- A whole lot is moved: a pooled lot's units into open pooled lots, a zone's lot into a free one. -/
def moveLot (s : State) (kind l : Nat) (block : Option Nat) : State :=
  let m := newestMap s
  let r : Reloc := { Reloc.empty with kind := kind, units := withWords s (lotContents m l), lot := some l, block := block }
  if isPooled (getLot m l) then startReloc s r
  else match freeLot s m with
    | some d => startReloc (draw s) { r with dest := some d }
    | none => s

/-- GC_START: at its rank, in a group where it is due. -/
def execGcStart (group : Nat) (s : State) : Res :=
  .next (when (mediaOpen s && !s.media.readOnly && decide (group < 14) && gcDue s group &&
      rankOpen s ((List.range 32).map (· + 32 * group)) (gcRank s group)) s
    (match gcVictim s group with
     | none => s
     | some l =>
       let s := { s with media := { s.media with gcOn := if s.media.gcOn.contains group then s.media.gcOn else s.media.gcOn ++ [group] } }
       moveLot s 2 l none))

/-- REFRESH_START: a landing block's units move to other landing blocks, a lot moves whole; at the rank the
block is queued at. -/
def execRefreshStart (block : Nat) (s : State) : Res :=
  let m := newestMap s
  let x := getBlk s block
  .next (when (mediaOpen s && x.refresh != 0 && refreshOpen s m block && rankOpen s [block / 2 ^ 32] x.refresh) s
    (if x.pool = 1 then
      let us := ((m.map.filter (fun e => mMapped e.2 && addrBlock (mAddr e.2) == block)).map (fun e => (⟨e.1 / 2 ^ 48, e.1 % 2 ^ 48⟩ : UnitRef))) ++
        ((m.zland.filter (fun e => addrBlock e.2 == block)).map (fun e => (⟨e.1 / 2 ^ 56, e.1 / 2 ^ 32 % 2 ^ 24 * zoneSize + e.1 % 2 ^ 32⟩ : UnitRef)))
      startReloc s { Reloc.empty with kind := 3, units := (withWords s us).filter (fun u => !beingMoved s u.1), block := some block }
    else match lotWith m block with
      | some l => moveLot s 3 l (some block)
      | none => s))

/-- READ_DISTURB_THRESHOLD: reads since the last erase reached the limit; ten times that in SLC
mode (R151). -/
def execReadDisturbThreshold (block : Nat) (s : State) : Res :=
  let x := getBlk s block
  let lim := dget s 0x4040 5 * (if x.pool = 6 then 1 else 10)
  .next (when ((x.pool == 6 || x.pool == 1) && decide (lim ≤ x.reads)) s (queueRefresh s block 8))

/-! ### The copy and its records (Table 4.4 steps 1 to 3) -/

/-- Where a unit of a relocation may be copied to: its own lot's place, the same place of the lot its zone
moves to, erased landing slots, or the unprogrammed rows of a pooled lot. Garbage collection takes the
group with the most free lots. -/
def destOk (s : State) (r : Reloc) (u : UnitRef × Nat) (p : Placement) : Bool :=
  let m := newestMap s
  let n := (wordSlots s u.1 u.2).length
  p.nsid == u.1.nsid && p.unit == u.1.unit && p.packed == mPacked u.2 && ((List.range n).map (· + p.addr)).all (fun a => !written s a) &&
    !s.media.gdl.contains (addrBlock p.addr) && !s.media.failedCh.contains (addrChannel p.addr) && decide (p.addr < 448 * 2 ^ 32) &&
    (if r.kind = 1 then !p.landed && p.addr == lotAddr (getLot m (getZone m u.1.nsid (u.1.unit / zoneSize)).lot) (u.1.unit % zoneSize)
     else match r.dest with
      | some d => !p.landed && p.addr == lotAddr (getLot m d) (u.1.unit % zoneSize)
      | none =>
        if p.landed then r.kind == 3 && mLanded u.2 && mayLand s (addrBlock p.addr) && decide (p.addr - blockAddr (addrBlock p.addr) + n ≤ slcSlots)
        else !(getNs s u.1.nsid).zoned && (match lotOf m (addrBlock p.addr) with
          | some l =>
            let x := getLot m l
            decide (x.state ≤ 1) && isPooled x && groupOk s x.chgrp &&
              (r.kind != 2 || (List.range 14).all (fun g => !groupOk s g || decide (freeLots s g ≤ freeLots s x.chgrp))) &&
              (match lotIndex x p.addr with
              | some i => decide (x.wrptr ≤ i) && decide (i % Config.slotsPerPage + n ≤ Config.slotsPerPage ∨ !p.packed)
              | none => false)
          | none => false))

/-- The pages a relocation reads. -/
def relocPages (s : State) (r : Reloc) : List Nat := (((r.units.map (fun u => wordSlots s u.1 u.2)).flatten).map pageOf).dedup
/-- A unit of it none of whose pages failed. -/
def unitRead (s : State) (failed : List Nat) (u : UnitRef × Nat) : Bool := (wordSlots s u.1 u.2).all (fun a => !failed.contains (pageOf a))

/-- Slots are copied, sealed as they are; a landed copy keeps its tag but for the LJSN of its issue. -/
def copyUnit (jsn : Nat) (s : State) (u : UnitRef × Nat) (p : Placement) : State :=
  let src := wordSlots s u.1 u.2
  let f := src.zipIdx.foldl (fun f x =>
    match tabGet none s.media.flash x.1 with
    | some sl => tabPut f (p.addr + x.2) (some { sl with tag := if p.landed then sl.tag.map (fun t => { t with ljsn := jsn }) else none })
    | none => f) s.media.flash
  modBlk { s with media := { s.media with flash := f }, host := { s.host with bytesMedia := s.host.bytesMedia + 4096 * src.length } }
    (addrBlock p.addr) (fun x => { x with pool := if p.landed then 1 else 6, open_ := p.landed })

/-- The unit still lies where the copy was read (R136). -/
def stillThere (s : State) (m : MapSt) (u : UnitRef × Nat) : Bool :=
  let w := unitWord s m u.1
  mMapped w && mAddr w == mAddr u.2

/-- Records of a copied device-mapped or landed unit. -/
def unitRec (s : State) (m : MapSt) (u : UnitRef × Nat) (p : Placement) : JRec :=
  if (getNs s u.1.nsid).zoned then jrec 0x10 u.1.nsid (u.1.unit % zoneSize) 1 (p.addr % 2 ^ 41) (u.1.unit / zoneSize)
  else wordRec u.1.nsid u.1.unit (storedWord p.addr p.landed p.packed (mResync (unitWord s m u.1)))

/-- The rows of a lot that placements lie in. -/
def destRows (x : Lot) (ps : List Placement) : List Nat := ((ps.filter (fun p => !p.landed)).filterMap (fun p => (lotIndex x p.addr).map (· / rowUnits))).dedup
/-- The pooled lots that a copy went to, with the write pointers past its rows. -/
def destLots (m : MapSt) (ps : List Placement) : List (Nat × Nat) :=
  let ls := ((ps.filter (fun p => !p.landed)).filterMap (fun p => lotOf m (addrBlock p.addr))).dedup
  ls.map (fun l => (l, ((destRows (getLot m l) ps).map (· + 1)).foldl max 0 * rowUnits))
/-- No row of the pooled lots is left out. -/
def rowsOk (m : MapSt) (ps : List Placement) : Bool :=
  (destLots m ps).all (fun e =>
    let x := getLot m e.1
    (List.range ((e.2 - x.wrptr) / rowUnits)).all (fun i => (destRows x ps).contains (x.wrptr / rowUnits + i)))

/-- A Reset or Offline of the zone waits for the fold row in flight, and discards the fold (R132). -/
def foldDropped (s : State) (nsid z : Nat) : Bool :=
  s.host.dockets.any (fun e => e.2.foldWait && (e.2.sqe.kind == .zoneReset || e.2.sqe.kind == .zoneOffline) && e.2.sqe.nsid == nsid &&
    (sendZonesOf s e.2.sqe).contains z)

/-- The records of step 2. Where a page of the source could not be read, its units stay where they are and so
does a lot. -/
def relocRecs (s : State) (r : Reloc) (ps : List Placement) (failed : List Nat) : List JRec :=
  let m := newestMap s
  let ok := (r.units.zip ps).filter (fun x => stillThere s m x.1 && unitRead s failed x.1)
  let left := r.units.any (fun u => stillThere s m u && !unitRead s failed u)
  let source := match r.lot with | some l => if left then [] else [lotRec (getLot m l) l 3] | none => []
  if r.kind = 1 then
    match r.units with
    | [] => []
    | u :: _ =>
      let z := u.1.unit / zoneSize
      let v := getZone m u.1.nsid z
      let x := getLot m v.lot
      let fp := x.foldptr + r.units.length
      if ok.length = r.units.length ∧ x.foldptr = u.1.unit % zoneSize ∧ !foldDropped s u.1.nsid z then
        jrec 0x11 u.1.nsid z 0 0 (fp + v.lot * 2 ^ 32) :: (if v.zs = 0xE ∨ fp = zoneCap then [lotRec x v.lot 2] else [])
      else []
  else match r.dest, r.lot with
    | some d, some l =>
      let x := getLot m l
      let v := getZone m x.nsid x.zone
      if v.lotv ∧ v.lot = l ∧ x.foldptr = r.units.length ∧ !left then zstateRec x.nsid x.zone { v with lot := d } :: source else []
    | _, _ =>
      let dl := destLots m ps
      (dl.filter (fun e => (getLot m e.1).state == 0)).map (fun e => lotRec (getLot m e.1) e.1 1) ++
        ok.map (fun x => unitRec s m x.1 x.2) ++ source ++
        (dl.filter (fun e => decide (lotUnits ≤ e.2))).map (fun e => lotRec (getLot m e.1) e.1 2)

/-- The rows that a copy programmed are whole (R95). -/
def relocRows (s : State) (m : MapSt) (r : Reloc) (ps : List Placement) : State :=
  if r.kind = 1 then
    match r.units with
    | [] => s
    | u :: _ =>
      let x := getLot m (getZone m u.1.nsid (u.1.unit / zoneSize)).lot
      wholeRows s x (x.foldptr / rowUnits) (ceilDiv (x.foldptr + r.units.length) rowUnits)
  else match r.dest with
    | some d => wholeRows s (getLot m d) 0 (ceilDiv r.units.length rowUnits)
    | none => (destLots m ps).foldl (fun s e => wholeRows s (getLot m e.1) ((getLot m e.1).wrptr / rowUnits) (e.2 / rowUnits)) s

/-- What a relocation's copy leaves: the pages read and programmed, the records, the write pointers of the
pooled lots it went to. -/
def relocCopied (s : State) (k : Nat) (r : Reloc) (dests : List Placement) (reads : List PageRead) : State :=
  let failed := (reads.filter (fun p => p.step.isNone)).map (·.addr)
  let rs := relocRecs s r dests failed
  let m := newestMap s
  let dl := if r.kind = 1 ∨ r.dest.isSome then [] else destLots m dests
  let n := ((r.units.map (fun u => (wordSlots s u.1 u.2).length)).sum) * 4096
  let s := reads.foldl notePage s
  let s := ((r.units.zip dests).filter (fun x => unitRead s failed x.1)).foldl (fun s x => copyUnit r.jsn s x.1 x.2) s
  let s := relocRows s m r dests
  let s := journalOp s rs
  let s := dl.foldl (fun s e => { s with media := { s.media with cur := setLot s.media.cur e.1 { getLot s.media.cur e.1 with wrptr := max e.2 (getLot s.media.cur e.1).wrptr } } }) s
  let s := if r.kind = 3 then bump s 0x4030 7 1 else s
  let s := if r.kind ≤ 1 then { s with media := { s.media with folded := (n, s.nowMs) :: s.media.folded } } else s
  { s with media := { s.media with
      foldQueue := s.media.foldQueue.filter (fun u => mLanded (unitWord s (newestMap s) u))
      relocs := tabPut s.media.relocs k { r with step := 2, jsn := s.media.jsn } } }

/-- Zone commands that waited for a fold row go on, in fetch order. -/
def resumeZones (s : State) : State :=
  let ds := (((s.host.dockets.filter (fun e => e.2.foldWait)).map (fun e => (e.2.seq, e.1))).foldr insertSeq []).map Prod.snd
  ds.foldl (fun s d => zoneSend (modDk s d (fun e => { e with foldWait := false })) d) s

/-- RELOCATION_COPY_DONE. -/
def execRelocationCopyDone (reloc : Nat) (copy : RelocCopy) (s : State) : Res :=
  let dests := copy.dests
  let reads := copy.reads
  let r := tabGet Reloc.empty s.media.relocs reloc
  let slots : List Nat := ((r.units.zip dests).map (fun x => (List.range (wordSlots s x.1.1 x.1.2).length).map (· + x.2.addr))).flatten
  .next (when (r.step == 1 && dests.length == r.units.length && (r.units.zip dests).all (fun x => destOk s r x.1 x.2) && decide slots.Nodup &&
      (r.dest.isSome || r.kind == 1 || rowsOk (newestMap s) dests) && decide (reads.map (·.addr) = relocPages s r) && reads.all (pageOk s reads)) s
    (resumeHeld (settlePacing (resumeZones (relocCopied s reloc r dests reads)))))

/-! ### Erases -/

/-- The mapping state still names a block. -/
def mapNames (m : MapSt) (b : Nat) : Bool :=
  m.map.any (fun e => mMapped e.2 && addrBlock (mAddr e.2) == b) || m.zland.any (fun e => addrBlock e.2 == b) ||
    m.lots.any (fun e => lotInUse e.2 && (lotBlocks (getLot m e.1)).contains b)

/-- Every record that moves units off the block is durable and applied, and no write waits for its
records (R109). -/
def blockDead (s : State) (b : Nat) : Bool :=
  !mapNames s.media.cur b && !mapNames (newestMap s) b && !(s.host.dockets.any (fun e => e.2.places.any (fun p => addrBlock p.addr == b)))

/-- No read issued to the block is under way (R137). -/
def noReads (s : State) (b : Nat) : Bool :=
  !(s.host.dockets.any (fun e => e.2.reads.any (fun a => addrBlock a == b))) &&
    !(s.media.relocs.any (fun e => e.2.step == 1 && e.2.units.any (fun u => addrBlock (mAddr u.2) == b)))

/-- The blocks a relocation empties. -/
def relocBlocks (s : State) (r : Reloc) : List Nat :=
  match r.lot with
  | some l => lotBlocks (getLot s.media.cur l)
  | none => (((r.block.toList) ++ (r.units.map (fun u => addrBlock (mAddr u.2)))).dedup).filter (blockDead s)

/-- Erases wait until the journal tail of an insufficient hold-up is programmed (R106). -/
def tailDone (s : State) : Bool := decide (s.media.tailDue ≤ s.media.programmedJsn)

/-- SOURCE_ERASE: the erase of a relocation's source is issued. A lot that a zone reset or a newer record
kept in service is not erased. -/
def execSourceErase (reloc : Nat) (s : State) : Res :=
  let r := tabGet Reloc.empty s.media.relocs reloc
  let bs := relocBlocks s r
  .next (when (r.step == 2 && decide (r.jsn ≤ s.media.appliedJsn) && tailDone s && bs.all (noReads s) && (r.kind != 5 || !bs.isEmpty)) s
    (let go := match r.lot with | some l => (getLot s.media.cur l).state == 3 | none => true
     let s := { s with media := { s.media with relocs := tabDrop s.media.relocs reloc, erasing := s.media.erasing ++ (if go then bs.filter (fun b => !s.media.erasing.contains b) else []) } }
     match r.lot with
     | some l => { s with media := { s.media with cur := setLot s.media.cur l { getLot s.media.cur l with reloc := false } } }
     | none => s))

/-- The lot in reclaim a block belongs to. -/
def reclaimLot (s : State) (b : Nat) : Option Nat :=
  (s.media.cur.lots.find? (fun e => e.2.state == 3 && (lotBlocks (getLot s.media.cur e.1)).contains b)).map Prod.fst

/-- A block of the landing or of the checkpoint area that was programmed and holds nothing that is needed:
no unit, no page of the journal window, no image. -/
def areaDead (s : State) (b : Nat) : Bool :=
  !blank s b && !(s.media.pages.any (fun p => addrBlock p.addr == b)) && (match (getBlk s b).pool with
    | 1 => blockDead s b
    | 2 => true
    | 5 => !(s.media.images.any (fun i => addrBlock i.addr == b))
    | _ => false)

/-- An erase of the block is due: it was issued, its lot is in reclaim, or it is a block of landing or of the
checkpoint area that holds nothing. -/
def eraseDue (s : State) (b : Nat) : Bool :=
  noReads s b && !s.media.erased.contains b &&
    (s.media.erasing.contains b || (tailDone s && ((reclaimLot s b).isSome || areaDead s b)))

/-- A member leaves its lot for good: LOTMEMBER with state 2, the retirement, then its replacement; with no
erased block on the channel the lot itself is retired (R97, R142, R145, log entry 68). -/
def retireMember (s : State) (l b : Nat) (replacement : Option Nat) : State :=
  let m := newestMap s
  let s := retireBlock (journalOp s (memberRecs m b b 2)) b
  match replacement with
  | some r =>
    let s := modBlk s r (fun x => { x with pool := 8 })
    journalOp { s with media := { s.media with erased := r :: s.media.erased.filter (· != b) } } (memberRecs m b r 0)
  | none => journalOp s [lotRec (getLot m l) l 5]

/-- The pool of a block once it is erased: a landing block completes its channel's dump reserve before
anything else, or returns to the landing or the free pool (R118, R122, R124); a lot's member stays one. -/
def erasedPool (s : State) (b : Nat) : Nat :=
  let x := getBlk s b
  if (reclaimLot s b).isSome then 8
  else if x.pool = 1 then
    (if s.media.dumpShort.contains (b / 2 ^ 32) then 4 else if landTarget (landPct s) < s.media.landHeld then 0 else 1)
  else if 2 ≤ x.pool ∧ x.pool ≤ 5 then x.pool
  else if s.media.landHeld < landTarget (landPct s) then 1 else 0

/-- The block of an erase that succeeded is empty, and counted in the mode it served in. -/
def eraseBlock (s : State) (b : Nat) : State :=
  let qlc := (getBlk s b).pool == 6 || (getBlk s b).pool == 8
  let p := erasedPool s b
  let s := { s with media := { s.media with
      flash := s.media.flash.filter (fun e => addrBlock e.1 != b)
      dumpShort := if p = 4 ∧ (getBlk s b).pool = 1 then s.media.dumpShort.erase (b / 2 ^ 32) else s.media.dumpShort } }
  modBlk s b (fun x => { x with pool := p, reads := 0, refresh := 0, open_ := false, eq := x.eq + b2n qlc, es := x.es + b2n (!qlc) })

/-- The block must leave service at this erase (R143, R144). -/
def retiresNow (s : State) (b : Nat) : Bool :=
  (getBlk s b).retireNext || decide (ratedCycles s ≤ wearCycles s b) || !groupOk s (blockGroup b)

/-- The erased block that replaces a lot's member: the one named, or another of the channel. -/
def replacementFor (s : State) (b replacement : Nat) : Option Nat :=
  if replacement / 2 ^ 32 = b / 2 ^ 32 ∧ spare s replacement then some replacement else (sparesOn s (b / 2 ^ 32)).head?

/-- FLASH_ERASE_COMPLETE. -/
def execFlashEraseComplete (block : Nat) (ok : Bool) (replacement : Nat) (s : State) : Res :=
  .next (when (eraseDue s block) s
    (let lot := reclaimLot s block
     let s := { s with media := { s.media with erasing := s.media.erasing.filter (· != block) } }
     let s := if ok then eraseBlock s block else bump s 0x4030 2 1
     let gone := !ok || retiresNow s block
     let s := match lot with
       | some l => if gone then retireMember s l block (replacementFor s block replacement)
         else { s with media := { s.media with erased := s.media.erased ++ [block] } }
       | none => if gone then retireBlock s block else s
     resumeHeld (settlePacing (spareWarnings (journalOp s [])))))

/-! ### Program failures (R141) -/

/-- A program failed: its block's pages move into a fresh block, and it is retired; the write is still to be
programmed. With no erased block on a lot's channel the whole lot moves; landing without an erased block
keeps the pages until a refresh. -/
def programFailed (s : State) (b : Nat) : State :=
  let pool := (getBlk s b).pool
  let s := bump s 0x4030 1 1
  let l := if pool = 1 then blanksOf s 1 else sparesOn s (b / 2 ^ 32)
  match l[drawn s % l.length]? with
  | some dst => moveBlock (retireBlock (journalOp (draw s) (memberRecs (newestMap s) b b 2)) b) b dst pool
  | none =>
    let s := queueRefresh (modBlk s b (fun x => { x with retireNext := true, open_ := false })) b 5
    match lotWith (newestMap s) b with
    | some l => if lotMoved s l then s else moveLot s 4 l (some b)
    | none => s

/-- FLASH_PROGRAM_COMPLETE: with healthy hold-up it follows the commit point. -/
def execFlashProgramComplete (d : Nat) (res : ProgramResult) (s : State) : Res :=
  let e := getDk s d
  let due := dkUsed s d && isWriteKind e.sqe.kind && e.dataIn && !e.programmed &&
    (e.word == .committed || (e.word == .admitted && !e.healthy))
  match res with
  | .ok l => .next (when (due && placesOk s e l) s (programmed s d l))
  | .failed b => .next (when (due && !s.media.gdl.contains b && ((getBlk s b).pool == 1 || (getBlk s b).pool == 6)) s (programFailed s b))

/-! ### Failures, rebuild and wear -/

/-- March faults await more spare rows than are left (R493). -/
def rowsShort (s : State) : Bool := decide (Config.spareRows < s.service.spareUsed + s.service.rowFaults)

/-- Critical warning bit 2 (Table 4.8, R492, R493). -/
def settleDegraded (s : State) : State :=
  setWarn s 2 (!s.media.failedCh.isEmpty || !s.media.degraded24.isEmpty || dget s 0x9000 8 != 0 || rowsShort s)

/-- CHANNEL_FAILURE: the lots of the channel's group are degraded, everything in it is to move away at rank
8, and its erased blocks leave service (R144). -/
def execChannelFailure (channel : Nat) (s : State) : Res :=
  .next (when (decide (channel < 448) && !s.media.failedCh.contains channel) s
    (let g := channel / 32
     let s := bump { s with media := { s.media with failedCh := s.media.failedCh ++ [channel] } } 0x4030 8 1
     let m := newestMap s
     let ls := (m.lots.filter (fun e => lotInUse e.2 && e.2.chgrp == g)).map Prod.fst
     let rs := (ls.map (fun l =>
       (((getLot m l).members[channel % 32]?).toList.map (fun x => jrec 0x21 0 l 0 0 (channel % 32 + (x.block + x.celun * 2 ^ 16 + 2 * 2 ^ 21) * 32))) ++ [lotRec (getLot m l) l 4])).flatten
     let s := journalOp s rs
     let s := { s with media := { s.media with degradedAt := ls.foldl (fun t l => if (tabFind t l).isSome then t else tabPut t l (s.nowMs + 1)) s.media.degradedAt } }
     let bs := (s.media.blocks.filter (fun e => blockGroup e.1 == g && (e.2.pool == 6 || e.2.pool == 1) && !blank s e.1)).map Prod.fst
     settleDegraded (retireGroup (bs.foldl (fun s b => queueRefresh s b 8) s) g)))

/-- A lot whose members are all in service again is no longer degraded. -/
def settleLot (s : State) (l : Nat) : State :=
  let x := getLot (newestMap s) l
  if x.state = 4 ∧ x.members.all (fun m => m.mstate != 2) then
    let full := if isPooled x then decide (lotUnits ≤ x.wrptr) else (getZone (newestMap s) x.nsid x.zone).zs == 0xE
    let s := journalOp s [lotRec x l (if full then 2 else 1)]
    settleDegraded { s with media := { s.media with degradedAt := tabDrop s.media.degradedAt l, degraded24 := s.media.degraded24.filter (· != l) } }
  else s

/-- The lot is degraded from now on, a member of it being rebuilt. -/
def degradeLot (s : State) (l i : Nat) (old : Nat) : State :=
  let m := newestMap s
  let s := journalOp s (memberRecs m old old 2 ++ [lotRec (getLot m l) l 4])
  { s with media := { s.media with
      cur := setLot s.media.cur l { getLot s.media.cur l with lost := i }
      degradedAt := if (tabFind s.media.degradedAt l).isSome then s.media.degradedAt else tabPut s.media.degradedAt l (s.nowMs + 1) } }

/-- LOT_REBUILD: a lost or retired member is rebuilt from the other 31 into an erased block on its channel, the
lot being degraded meanwhile; on a channel without any, or where another member is lost, the whole lot
moves (R97). -/
def execLotRebuild (lot mem block : Nat) (s : State) : Res :=
  let m := newestMap s
  let x := getLot m lot
  match x.members[mem]? with
  | none => .next s
  | some mm =>
    let ch := 32 * x.chgrp + mem
    let old := memberBlock x mem mm
    let fits := block / 2 ^ 32 == ch && spare s block
    let whole := (List.range 32).all (fun i => i == mem || !memberGone s x i)
    .next (when (lotInUse x && (mm.mstate == 2 || s.media.gdl.contains old) && !lotMoved s lot && rankOpen s [ch] 8) s
      (if fits ∧ whole then settleLot (moveBlock (degradeLot s lot mem old) old block 6) lot
       else if !whole ∨ (sparesOn s ch).isEmpty then moveLot s 4 lot none
       else s))

/-- In-service and free blocks of a channel that have served since format: the others have no wear. -/
def channelBlocks (s : State) (ch : Nat) (p : Block → Bool) : List Nat :=
  (s.media.blocks.filter (fun e => e.1 / 2 ^ 32 == ch && p e.2)).map Prod.fst
def inService (x : Block) : Bool := decide (1 ≤ x.pool) && decide (x.pool ≤ 6)

/-- WEAR_SWAP: the coldest member or landing block of a channel moves onto its most worn free block; its
erase follows Table 4.4 (R147). -/
def execWearSwap (channel src dst : Nat) (s : State) : Res :=
  let sv := (channelBlocks s channel inService).map (wearFrac s)
  let movable := channelBlocks s channel (fun x => x.pool == 1 || x.pool == 6)
  let free := channelBlocks s channel (fun x => x.pool == 0)
  let spread := sv.foldl max 0 - sv.foldl min (sv.headD 0)
  .next (when (s.media.ready && decide (dget s 0x4020 0xA < spread) && movable.contains src && dst / 2 ^ 32 == channel && spare s dst &&
      movable.all (fun b => decide (wearFrac s src ≤ wearFrac s b)) && free.all (fun b => !spare s b || decide (wearFrac s b ≤ wearFrac s dst)) &&
      rankOpen s [channel] 9) s
    (let s := moveBlock s src dst (getBlk s src).pool
     let k := (lowestFrom (fun k => (tabFind s.media.relocs k).isNone) (s.media.relocs.length + 1) 0).getD 0
     { s with media := { s.media with relocs := tabPut s.media.relocs k { Reloc.empty with kind := 5, block := some src, step := 2, jsn := s.media.jsn } } }))

/-- LOT_DEGRADED_24H: a lot has been degraded for more than 24 h (R152). -/
def execLotDegraded24h (lot : Nat) (s : State) : Res :=
  let at_ := tabGet 0 s.media.degradedAt lot
  .next (when ((getLot s.media.cur lot).state == 4 && at_ != 0 && decide (at_ + 86400000 ≤ s.nowMs) && !s.media.degraded24.contains lot) s
    (settleDegraded { s with media := { s.media with degraded24 := s.media.degraded24 ++ [lot] } }))

end Sys2Proof.Machine
end

