-- ==== Sys2Proof/Machine/Logs.lean ====
section
/-!
DEFINITION. Identify and the log pages (R46, R49, R66, R152, R387, R415, R495, R499, R500, R521,
R522). Pages this manual lays out are bytes; pages and structures of NVMe 2.1 are the named fields the
manual gives a value for.
-/
namespace Sys2Proof.Machine

/-! ### Identify -/

/-- The NVM Subsystem NQN is named by the DIE_ID of role A (R522). -/
def nqnDie (s : State) : Nat := if pairRole s = 2 then s.pair.dieA else dget s 0x1000 5

/-- The namespaces a function sees: those attached to it; the physical function sees all (`all`). -/
def nsidsOf (s : State) (fn : Nat) : List Nat := (nsids s).filter (fun n => (getNs s n).attached.contains fn)

/-- A power state descriptor (Table 2.12): maximum power in W, entry and exit latency in µs, and whether the
state is non-operational. -/
def powerDescriptor (ps : Nat) : List (String × Nat) :=
  [("PSD", ps), ("MP", statePower ps), ("ENLAT", match ps with | 0 => 0 | 1 => 2000 | 2 => 5000 | 3 => 10000 | _ => 50000),
   ("EXLAT", match ps with | 0 => 0 | 1 => 2000 | 2 => 5000 | 3 => 10000 | _ => 200000), ("NOPS", b2n (ps == 4))]

/-- An LBA format (Table 3.1): the size of its LBAs in bytes, and no metadata. -/
def lbaFormats : List (String × Nat) :=
  ("NLBAF", 2) :: (List.range 3).flatMap (fun i => [("LBAF", i), ("LBA bytes", lbaBytes i), ("MS", 0)])

/-- Identify Controller; RTD3E of R112. -/
def identController (s : State) (fn : Nat) : List (String × Nat) :=
  [("VID", 0x1F3D), ("SSVID", 0x1F3D), ("SN", dget s 0x1000 4), ("MN", dget s 0x1000 2), ("FR", slotRev s s.power.fwSlot),
   ("CNTLID", fn), ("ACL", 7), ("AERL", 7), ("VWC", b2n (!s.power.healthy)), ("WCTEMP", wctemp), ("CCTEMP", cctemp),
   ("EDSTT", 90), ("DSTO", 1), ("FWUG", 1), ("NN", 4096), ("SUBNQN", nqnDie s), ("RTD3E", if fn = 0 then 10000000 else 1000000),
   ("APSTA", 0), ("NPSS", 4)] ++ (List.range 5).flatMap powerDescriptor

/-- NSFEAT bit 0, DLFEAT and NPWG (R89, Table 3.1). -/
def npwg (lbaf : Nat) : Nat := if lbaf = 1 then 3 else 0

/-- Identify Namespace. -/
def identNs (s : State) (nsid : Nat) : List (String × Nat) :=
  let n := getNs s nsid
  [("NSZE", n.nsze), ("NCAP", n.ncap), ("NUSE", usedUnits s.media.cur nsid * unitLbas n.lbaf), ("FLBAS", n.lbaf),
   ("NMIC", b2n n.shared), ("NSFEAT", b2n (!n.zoned)), ("DLFEAT", if n.zoned then 0 else 9), ("NPWG", npwg n.lbaf),
   ("MIRROR", b2n n.mirror), ("HOME", n.home)] ++ lbaFormats

/-- The zoned part of Identify Namespace (R100, R103). -/
def identZoned (s : State) (nsid : Nat) : List (String × Nat) :=
  let n := getNs s nsid
  [("MAR", 1023), ("MOR", 1023), ("ZSZE", zoneSize / lbaSlots n.lbaf), ("ZDES", 0), ("RAZB", 1)]

def named (name : String) (l : List Nat) : List (String × Nat) := l.map (fun v => (name, v))

/-- Table 2.1 as the Primary Controller Capabilities report it. -/
def identPrimary (s : State) : List (String × Nat) :=
  let f := getFn s 0
  [("CNTLID", 0), ("VQFRT", 16384), ("VIFRT", 16384), ("VQRFAP", f.vq), ("VIRFAP", f.vi), ("VQPRT", 0), ("VIPRT", 0),
   ("VQFRSM", 128), ("VIFRSM", 128)]

/-- Secondary Controller List: controller, state and resources, from `from_` on. -/
def identSecondary (s : State) (from_ : Nat) : List (String × Nat) :=
  ((List.range 1025).filter (fun c => decide (1 ≤ c) && decide (from_ ≤ c))).flatMap (fun c =>
    let f := getFn s c
    [("SCID", c), ("PCID", 0), ("SCS", b2n f.online), ("VFN", vfNumber s c), ("NVQ", f.vq), ("NVI", f.vi)])

/-- Identify (Table 2.2): the CNS values of NVMe 2.1 (PRESUMED, log entry 5). -/
def identify (s : State) (fn cns nsid cntid : Nat) : Except Status (List (String × Nat)) :=
  let mine (n : Nat) : Bool := (getNs s n).live && (fn == 0 || attachedTo s fn n)
  let here (n : Nat) : Bool := attachedTo s fn n
  let above (l : List Nat) : List (String × Nat) := named "NSID" ((l.filter (fun n => decide (nsid < n))).take 1024)
  match cns with
  | 0x00 => if nsid = 0xFFFFFFFF then .ok lbaFormats else if !(getNs s nsid).live then .error .invalidNamespaceOrFormat else .ok (if here nsid then identNs s nsid else [])
  | 0x01 => .ok (identController s fn)
  | 0x02 => .ok (above (nsidsOf s fn))
  | 0x03 => if here nsid then .ok [("CSI", if (getNs s nsid).zoned then 2 else 0)] else .error .invalidNamespaceOrFormat
  | 0x05 => if !here nsid then .error .invalidNamespaceOrFormat else .ok (if (getNs s nsid).zoned then identZoned s nsid else [])
  | 0x06 => .ok []
  | 0x07 => .ok (above ((nsidsOf s fn).filter (fun n => (getNs s n).zoned)))
  | 0x08 => if here nsid then .ok [("NMIC", b2n (getNs s nsid).shared), ("NSTAT", b2n (getNs s nsid).ready)] else .error .invalidNamespaceOrFormat
  | 0x10 => if fn = 0 then .ok (above (nsids s)) else .error .invalidField
  | 0x11 => if fn ≠ 0 then .error .invalidField else .ok (if mine nsid then identNs s nsid else [])
  | 0x12 => if fn ≠ 0 then .error .invalidField else if !mine nsid then .error .invalidNamespaceOrFormat else .ok (named "CNTLID" ((getNs s nsid).attached.filter (fun c => decide (cntid ≤ c))))
  | 0x13 => if fn ≠ 0 then .error .invalidField else .ok (named "CNTLID" ((fnList s).filter (fun c => decide (cntid ≤ c))))
  | 0x14 => if fn = 0 then .ok (identPrimary s) else .error .invalidField
  | 0x15 => if fn = 0 then .ok (identSecondary s cntid) else .error .invalidField
  | 0x19 => .ok [("ENDGID", 1)]
  | 0x1A => if fn = 0 then .ok (above ((nsids s).filter (fun n => (getNs s n).zoned))) else .error .invalidField
  | 0x1B => if fn ≠ 0 then .error .invalidField else .ok (if mine nsid && (getNs s nsid).zoned then identZoned s nsid else [])
  | 0x1C => .ok [("IOCSC", 1 + 4 + 8 + 16)]
  | _ => .error .invalidField

def execIdentify (a : Adm) (cns nsid cntid : Nat) (s : State) : Res :=
  adminAny s a (match identify s a.fn cns nsid cntid with
    | .ok l => adminDone s a .success 0 (.fields l)
    | .error st => adminFail s a st)

/-! ### Logs this manual lays out -/

/-- Bytes at an offset of a page of `n` bytes. -/
def page (n : Nat) (parts : List (Nat × List Byte)) : List Byte :=
  parts.foldl (fun p e => p.take e.1 ++ e.2 ++ p.drop (e.1 + e.2.length)) (List.replicate n 0)

/-- A number that saturates at `n` bytes. -/
def satBytes (n v : Nat) : List Byte := leBytes n (min v (256 ^ n - 1))

/-- One record of the Freeze Record log (Table 2.9). -/
def freezeRecord (s : State) (fn sqid : Nat) (z : Freeze) : List Byte :=
  leBytes 2 sqid ++ leBytes 2 z.cid ++ leBytes 2 z.slot ++ leBytes 2 (z.status % 2 ^ 15) ++ leBytes 2 z.next ++ leBytes 2 0 ++
    leBytes 4 z.cancelled ++ leBytes 4 z.finished ++ leBytes 4 0 ++ leBytes 8 (readTime s fn z.time)

/-- The freezes of a function, oldest first. -/
def insertFreeze (x : Nat × Freeze) : List (Nat × Freeze) → List (Nat × Freeze)
  | [] => [x]
  | y :: ys => if x.2.order < y.2.order then x :: y :: ys else y :: insertFreeze x ys
def freezesOf (s : State) (fn : Nat) : List (Nat × Freeze) :=
  ((getFn s fn).sqs.filterMap (fun e => e.2.freeze.map (fun z => (e.1, z)))).foldr insertFreeze []

def freezeLog (s : State) (fn : Nat) : List Byte :=
  let l := freezesOf s fn
  leBytes 2 l.length ++ leBytes 2 0 ++ leBytes 4 (getFn s fn).freezeGen ++ leBytes 8 0 ++
    (l.map (fun e => freezeRecord s fn e.1 e.2)).flatten

/-- Table 19.3. -/
def dredgeLog (s : State) (fn : Nat) : List Byte :=
  let v := s.service
  let selfTest : Bool := v.stCode == 2
  page 512 ([(0, leBytes 4 (dget s 0x9000 5)), (4, leBytes 4 (dget s 0x9000 6)),
    (8, leBytes 8 (match v.cycleAt with | some t => readTime s fn t | none => 0)), (16, leBytes 1 (dredgePercent s)),
    (17, leBytes 1 (dget s 0x9000 1 + 2 * b2n selfTest))] ++
    (List.range 7).map (fun i => (24 + 32 * i, leBytes 8 (taskUnits s (i + 1)) ++ leBytes 8 (tabGet 0 v.tasks (i + 1)) ++
      leBytes 8 (tabGet 0 v.taskFaults (i + 1)) ++ leBytes 8 (match tabFind v.taskLast (i + 1) with | some t => readTime s fn t | none => 0))) ++
    (v.dredgeErrs.take 8).zipIdx.map (fun e => (248 + 32 * e.2, leBytes 8 (readTime s fn e.1.time) ++ leBytes 1 e.1.task ++ leBytes 3 0 ++
      leBytes 4 e.1.unit ++ leBytes 8 e.1.detail)))

/-- What caps the input power (Table 15.6a). -/
def capReason (s : State) : Nat :=
  let c := capW s
  b2n (statePower (selectedPs s) == c) + 2 * b2n (s.power.calFailed && c == 312) + 4 * b2n (dget s 0x2300 1 == c) + 8 * b2n s.power.limiting

/-- Table 15.6a. -/
def pilotLog (s : State) (fn : Nat) : List Byte :=
  let p := s.power
  page 512 ([(0, leBytes 1 s.host.ps), (1, leBytes 1 (capReason s)), (2, leBytes 2 (capW s)), (4, satBytes 2 (inputW s)),
    (6, leBytes 2 p.vavg), (8, leBytes 4 (bitSet p.on)), (12, leBytes 1 (dictValue s 0x2000 7)), (14, leBytes 2 (dget s 0x1200 1)),
    (16, leBytes 1 (b2n p.healthy + 2 * b2n p.noIsolation)), (20, leBytes 4 (dget s 0x2000 5)), (24, satBytes 4 p.lastC),
    (32, leBytes 8 (match p.measuredAt with | some t => readTime s fn t | none => 0)), (40, leBytes 4 (dget s 0x2000 9)),
    (44, leBytes 4 (dget s 0x2000 0x0A)), (48, leBytes 8 p.dumpBytes), (56, satBytes 4 p.dumpUs), (60, leBytes 4 (dget s 0x2000 0x0C))] ++
    (List.range 24).map (fun i => (64 + 4 * i,
      let x := tabGet Pilot.empty p.pilots i
      leBytes 2 (x.region + 8 * b2n x.outOfRange) ++ satBytes 2 x.satLast)))

/-- Units with RESYNC = 1. -/
def resyncUnits (s : State) : List (Nat × Nat) := s.media.cur.map.filter (fun e => mResync e.2)

/-- Table 14.9. -/
def pairLog (s : State) (fn : Nat) : List Byte :=
  let p := s.pair
  page 512 ([(0, leBytes 1 p.state), (1, leBytes 1 (pairRole s)),
    (2, leBytes 1 (b2n p.sub0.up + 2 * b2n p.sub1.up + 4 * b2n p.aliveIn + 8 * b2n p.fenceOut + 16 * b2n p.aliveFault + 32 * b2n p.split + 64 * b2n p.refused)),
    (3, satBytes 1 p.stale.length), (4, leBytes 4 (pairEpoch s)), (8, leBytes 8 (readTime s fn p.lastChange)),
    (16, leBytes 8 (resyncUnits s).length), (24, leBytes 8 ((p.resync.map (fun u => 4096 * unitSlots (getNs s u.nsid).lbaf)).sum)),
    (32, leBytes 8 (dget s 0x8010 8))] ++
    match p.takeover with
    | some t => [(40, [1, BitVec.ofNat 8 (b2n t.exposed)]), (48, leBytes 8 (readTime s fn t.time)),
        (56, leBytes 8 (if t.exposed then readTime s fn t.exposure else 0)), (64, leBytes 8 (readTime s fn t.done))]
    | none => [])

/-- Table 19.6. -/
def faultBytes (s : State) (fn : Nat) (r : FaultRec) : List Byte :=
  leBytes 8 r.seq ++ leBytes 8 (readTime s fn r.time) ++ leBytes 2 r.tenant ++ leBytes 1 r.kind ++ leBytes 1 r.code ++
    leBytes 4 (match r.thread with | some t => t + 65536 | none => 0) ++ leBytes 8 r.addr.toNat ++ leBytes 4 r.channel ++
    leBytes 1 r.port ++ List.replicate 27 0

/-- The Tenant Fault Records log of a selection, oldest first (R500). -/
def faultLog (s : State) (fn : Nat) (sel : Option Nat) : List Byte :=
  let l := (s.faults.filter (fun r => sel.all (· == r.tenant))).reverse
  let written := match sel with
    | some t => dget s (0x6000 + t) 0x0B
    | none => ((List.range 1024).map (fun t => dget s (0x6000 + t) 0x0B)).sum
  leBytes 4 l.length ++ leBytes 4 0 ++ leBytes 8 written ++ leBytes 8 (written - l.length) ++ leBytes 8 0 ++
    (l.map (faultBytes s fn)).flatten

/-- The tenant a Log Specific Identifier selects for a function; none selects all. -/
def faultSel (fn lsi : Nat) : Option (Option Nat) :=
  if fn = 0 then (if lsi = 0xFFFF then some none else if lsi < 1024 then some (some lsi) else none)
  else if lsi = 0 then some (some (tenantOf fn)) else none

/-! ### Logs of NVMe 2.1 -/

/-- Admin opcodes and I/O opcodes supported (Tables 2.2, 2.3 and 2.11; standard codes PRESUMED, log
entry 5). -/
def adminOpcodes : List Nat :=
  [0x00, 0x01, 0x02, 0x04, 0x05, 0x06, 0x08, 0x09, 0x0A, 0x0C, 0x0D, 0x10, 0x11, 0x14, 0x15, 0x1C, 0x22, 0x23, 0x21, 0x80, 0x84, 0xC0, 0xC1, 0xC2, 0xC3, 0xC4]
def ioOpcodes : List Nat :=
  [0x00, 0x01, 0x02, 0x04, 0x05, 0x08, 0x09, 0x0C, 0x0D, 0x0E, 0x11, 0x15, 0x19, 0x79, 0x7A, 0x7D, 0x80, 0x84, 0x88]
def featureIds : List Nat := [0x01, 0x02, 0x04, 0x05, 0x06, 0x07, 0x08, 0x09, 0x0B, 0x0E, 0x19, 0x81, 0x82, 0x83, 0xC0, 0xC1, 0xC2]

/-- Effects of a command in the bits of NVMe 2.1 (PRESUMED, log entry 5): 0 supported, 1 changes user data,
2 changes namespace capabilities, 3 changes the namespace inventory, 4 changes controller capabilities. -/
def commandEffects (admin : Bool) (op : Nat) : Nat :=
  1 + 2 * b2n (if admin then [0x80, 0x84].contains op else [0x01, 0x04, 0x08, 0x09, 0x19, 0x79, 0x7D].contains op) +
    4 * b2n (admin && op == 0x80) + 8 * b2n (admin && [0x0D, 0x15].contains op) + 16 * b2n (admin && op == 0x10)
def opcodeEffects (admin : Bool) (name : String) (l : List Nat) : List (String × Nat) :=
  l.flatMap (fun op => [(name, op), ("effects", commandEffects admin op)])

/-- Effects of a feature: supported, and its scope, a namespace (bit 20), the controller (bit 21) or the
subsystem (bit 25) (PRESUMED, log entry 5). -/
def featureEffects (fid : Nat) : List (String × Nat) :=
  [("FID", fid), ("effects", 1 + (if [0x82, 0x83, 0xC2].contains fid then 2 ^ 20 else if [0x02, 0x04, 0xC1].contains fid then 2 ^ 25 else 2 ^ 21))]

/-- Table 4.8, and the temperatures of R497. -/
def percentUsed (s : State) : Nat := min 255 (meanWear s 100)
def healthFields (s : State) (fn : Nat) : List (String × Nat) :=
  [("critical warning", s.host.smartWarn), ("composite temperature", (smartTemp s 0).toNat), ("available spare", availSpare s),
   ("available spare threshold", 75), ("percentage used", percentUsed s), ("data units read", ceilDiv s.host.bytesRead 512000),
   ("data units written", ceilDiv s.host.bytesWritten 512000), ("media errors", dget s 0x4030 6), ("error entries", (getFn s fn).errCount)] ++
    (List.range 5).map (fun i => ("temperature sensor", (smartTemp s (i + 1)).toNat))
def enduranceFields (s : State) : List (String × Nat) :=
  [("critical warning", s.host.smartWarn), ("available spare", availSpare s), ("available spare threshold", 75), ("percentage used", percentUsed s),
   ("data units read", ceilDiv s.host.bytesRead 512000), ("data units written", ceilDiv s.host.bytesWritten 512000),
   ("media units written", ceilDiv s.host.bytesMedia 512000), ("media errors", dget s 0x4030 6)]

def errorFields (e : ErrEnt) : List (String × Nat) :=
  [("count", e.count), ("SQID", e.sqid), ("CID", e.cid), ("status", statusField e.status), ("LBA", e.lba), ("NSID", e.nsid)]
def selfTestFields (s : State) (fn : Nat) : List (String × Nat) :=
  [("current", s.service.stCode), ("percent", if s.service.stCode = 0 then 0 else drawn s % 101)] ++
    s.service.stResults.flatMap (fun r => [("code", r.test), ("result", r.result), ("segment", r.segment), ("not run", r.notRun), ("NSID", r.nsid), ("time", readTime s fn r.time)])
def pelFields (s : State) (fn : Nat) : List (String × Nat) :=
  s.pel.flatMap (fun e => [("time", readTime s fn e.time), (e.what, e.a), ("detail", e.b)])
def anaCode : Ana → Nat | .optimized => 1 | .nonOptimized => 2 | .inaccessible => 3

/-! ### Telemetry (R499) -/

/-- Every ro entry. -/
def roKeys : List (Nat × Nat) :=
  ((List.range 9).flatMap (fun k => dictRegion ((k + 1) * 0x1000))).flatMap (fun r =>
    if r.acc = .ro then
      (List.range (if r.idx = 0x2100 then 24 else if r.idx = 0x1110 then 2 else if r.idx = 0x6000 then 1024 else 1)).flatMap (fun k =>
        (List.range (r.hi + 1 - r.lo)).map (fun j => (r.idx + k, r.lo + j)))
    else [])

/-- Telemetry is collected now; the firmware's trace is open. -/
def collect (s : State) : Telem :=
  { area1 := roKeys.flatMap (fun e => [("entry", dk e.1 e.2), ("value", dictValue s e.1 e.2)])
    area2 := pelFields s 0 ++ (s.faults.take 4096).flatMap (fun r => [("fault", r.seq), ("tenant", r.tenant), ("kind", r.kind), ("code", r.code)])
    area3 := [("trace", drawn s)] }

/-- Controller-initiated telemetry is collected and announced. -/
def collectCtrl (s : State) : State :=
  let s := draw { s with service := { s.service with ctrlTel := some (collect s), ctrlTelAvail := true, telGen := s.service.telGen + 1 } }
  postEvent s 0 { typ := 2, info := 2, log := 0x08 }

def telAreas (t : Option Telem) (area : Nat) : List (String × Nat) :=
  match t with
  | none => []
  | some t => t.area1 ++ (if 2 ≤ area then t.area2 else []) ++ (if 3 ≤ area then t.area3 else [])

/-! ### Get Log Page -/

/-- The pages a virtual function may read (Table 2.5). -/
def logForAll (lid : Nat) : Bool := [0x01, 0x02, 0x04, 0x05, 0x0C, 0x12, 0x80, 0xBF, 0xC0, 0xC3, 0xC4].contains lid
def logForPf (lid : Nat) : Bool := [0x03, 0x06, 0x07, 0x08, 0x09, 0x0D, 0x81, 0xC1, 0xC2].contains lid

/-- A log page as function `fn` reads it. -/
def logPage (s : State) (fn lid nsid lsi : Nat) : Except Status Payload :=
  let f := getFn s fn
  if !logForAll lid ∧ (fn ≠ 0 ∨ !logForPf lid) then .error .invalidLogPage
  else match lid with
  | 0x01 => .ok (.fields (f.errors.flatMap errorFields))
  | 0x02 => if nsid = 0xFFFFFFFF then .ok (.fields (healthFields s fn)) else .error .invalidField
  | 0x03 => .ok (.fields [("active slot", s.power.fwSlot), ("next slot", s.power.fwNext), ("revision 1", slotRev s 1), ("revision 2", slotRev s 2)])
  | 0x04 => .ok (.fields (named "NSID" f.changedNs))
  | 0x05 => .ok (.fields (opcodeEffects true "admin opcode" adminOpcodes ++ opcodeEffects false "I/O opcode" ioOpcodes))
  | 0x06 => .ok (.fields (selfTestFields s fn))
  | 0x07 => .ok (.fields (telAreas s.service.hostTel 3))
  | 0x08 => .ok (.fields (("available", b2n s.service.ctrlTelAvail) :: ("generation", s.service.telGen) :: telAreas s.service.ctrlTel 3))
  | 0x09 => .ok (.fields (enduranceFields s))
  | 0x0C => .ok (.fields ((nsidsOf s fn).flatMap (fun n => [("NSID", n), ("ANA state", anaCode (anaOf s n))])))
  | 0x0D => .ok (.fields (pelFields s fn))
  | 0x12 => .ok (.fields (featureIds.flatMap featureEffects))
  | 0x80 => .ok (.fields (match f.resvLog with | [] => [] | r :: rest => [("count", rest.length + 1), ("NSID", r.1), ("type", r.2)]))
  | 0x81 => .ok (.fields [("sanitize", s.service.sanitize), ("count", s.service.sanCount)])
  | 0xBF =>
    let l := f.changedZones.filter (fun z => z.1 == nsid)
    .ok (.fields (("count", if 511 < l.length then 0xFFFF else l.length) :: named "zone" (if 511 < l.length then [] else l.map Prod.snd)))
  | 0xC0 => .ok (.bytes (freezeLog s fn))
  | 0xC1 => .ok (.bytes (dredgeLog s fn))
  | 0xC2 => .ok (.bytes (pilotLog s fn))
  | 0xC3 => .ok (.bytes (pairLog s fn))
  | _ => match faultSel fn lsi with
    | some sel => .ok (.bytes (faultLog s fn sel))
    | none => .error .invalidField

/-- What reading a page changes: a Changed Namespace or Zone List is emptied, a reservation notification
consumed, controller-initiated data no longer new (NVMe 2.1; PRESUMED, log entry 5), and a value left
open is another next time. -/
def logRead (s : State) (fn lid nsid : Nat) : State :=
  match lid with
  | 0xBF => modFn s fn (fun f => { f with changedZones := f.changedZones.filter (fun z => z.1 != nsid) })
  | 0x04 => modFn s fn (fun f => { f with changedNs := [] })
  | 0x80 => modFn s fn (fun f => { f with resvLog := f.resvLog.drop 1 })
  | 0x08 => { s with service := { s.service with ctrlTelAvail := false } }
  | 0x06 => if s.service.stCode = 0 then s else draw s
  | _ => s

/-- A part of a page: an offset beyond its end is refused. -/
def cut (off len : Nat) (p : Payload) : Except Status Payload :=
  match p with
  | .bytes b => if b.length < off then .error .invalidField else .ok (.bytes ((b.drop off).take len))
  | p => .ok p

/-- Get Log Page in recovery mode gives pages 0x02 and 0x03 only (R430). -/
def getLog (s : State) (a : Adm) (lid nsid lsi : Nat) (part : Option (Nat × Nat)) : Res :=
  adminAny s a
    (if s.power.recovery ∧ lid ≠ 2 ∧ lid ≠ 3 then adminFail s a .invalidOpcode
     else match logPage s a.fn lid nsid lsi with
      | .error st => adminFail s a st
      | .ok p => match (match part with | some e => cut e.1 e.2 p | none => .ok p) with
        | .error st => adminFail s a st
        | .ok p => adminDone (logRead s a.fn lid nsid) a .success 0 p)

def execGetLogPage (a : Adm) (lid nsid : Nat) (s : State) : Res := getLog s a lid nsid 0 none
def execLogFreezeRecord (a : Adm) (off len : Nat) (s : State) : Res := getLog s a 0xC0 0xFFFFFFFF 0 (some (off, len))
def execLogPilotAndPower (a : Adm) (off len : Nat) (s : State) : Res := getLog s a 0xC2 0xFFFFFFFF 0 (some (off, len))
def execLogDredgeResults (a : Adm) (off len : Nat) (s : State) : Res := getLog s a 0xC1 0xFFFFFFFF 0 (some (off, len))
def execLogPairState (a : Adm) (off len : Nat) (s : State) : Res := getLog s a 0xC3 0xFFFFFFFF 0 (some (off, len))
def execLogTenantFaultRecords (a : Adm) (lsi off len : Nat) (s : State) : Res := getLog s a 0xC4 0xFFFFFFFF lsi (some (off, len))

/-- Telemetry, host- or controller-initiated, of data areas 1 to `area`; a host-initiated read may
collect first. -/
def execLogTelemetry (a : Adm) (controllerInitiated create : Bool) (area : Nat) (s : State) : Res :=
  admin s a
    (if a.fn ≠ 0 then adminFail s a .invalidLogPage
     else if area = 0 ∨ 3 < area then adminFail s a .invalidField
     else if controllerInitiated then
       adminDone (logRead s 0 8 0) a .success 0 (.fields (("available", b2n s.service.ctrlTelAvail) :: ("generation", s.service.telGen) :: telAreas s.service.ctrlTel area))
     else
       let s := if create then draw { s with service := { s.service with hostTel := some (collect s) } } else s
       adminDone s a .success 0 (.fields (telAreas s.service.hostTel area)))

/-! ### Device self-test (R486 to R489) -/

/-- Progress of the tests a start begins. -/
def selfTestStart (s : State) (a : Adm) (code nsid : Nat) : State :=
  if nsid ≠ 0 ∧ nsid ≠ 0xFFFFFFFF ∧ !(getNs s nsid).live then adminFail s a .invalidNamespaceOrFormat
  else if s.service.stCode ≠ 0 then adminFail s a .selfTestInProgress
  else adminOk { s with service := { s.service with stCode := code, stNsid := nsid } } a

def execSelfTestShort (a : Adm) (nsid : Nat) (s : State) : Res := adminPf s a (selfTestStart s a 1 nsid)
def execSelfTestExtended (a : Adm) (nsid : Nat) (s : State) : Res := adminPf s a (selfTestStart s a 2 nsid)
def execSelfTestAbort (a : Adm) (s : State) : Res := adminPf s a (adminOk (selfTestEnd s 1 0 0) a)

end Sys2Proof.Machine
end

