-- ==== Sys2Proof/Machine/Synmon.lean ====
section
/-!
DEFINITION. The carriers of dictionary accesses: the Synmon Tunnel (R78, R79), Synmon frames (R442 to
R444), and Synmon Access over NVMe-MI (R440).
-/
namespace Sys2Proof.Machine

/-! ### Synmon Tunnel -/

def tIndex (dw10 : W32) : Nat := bitsOf dw10.toNat 0 15
def tSub (dw10 : W32) : Nat := bitsOf dw10.toNat 16 23
def tService (dw10 : W32) : Nat := bitsOf dw10.toNat 24 25
def tLen (dw11 : W32) : Nat := bitsOf dw11.toNat 0 12

/-- Reserved bits are 0, the service exists and LENGTH is 1 to 4,096 (R78). -/
def tClean (dw10 dw11 : W32) : Bool :=
  bitsOf dw10.toNat 26 31 == 0 && bitsOf dw11.toNat 13 31 == 0 && tService dw10 != 3 &&
    decide (1 ≤ tLen dw11) && decide (tLen dw11 ≤ 4096)

/-- A Synmon Tunnel command of service `svc`; a record of another service is another row's command. -/
def tunnel (svc : Nat) (a : Adm) (dw10 dw11 : W32) (s : State) (run : State) : State :=
  if tService dw10 ≠ svc ∧ tService dw10 ≠ 3 then s
  else if !tClean dw10 dw11 then adminFail s a .invalidField
  else run

/-- A read and a block read over a carrier that states the room; `fill` pads the bytes returned. -/
def readAt (s : State) (i sub room : Nat) (r : Reply) (fill : Bool) : State :=
  match dictRead s i sub (some room) with
  | .error c => answerAbort s r c
  | .ok b => answer s r (.value b.length (if fill then padTo room b else b))
def blockReadAt (s : State) (i sub room : Nat) (r : Reply) (fill : Bool) : State :=
  match dictBlockRead s i sub room with
  | .error c => answerAbort s r c
  | .ok (n, b) => answer s r (.items n (if fill then padTo room b else b))

def execSynmonTunnelRead (a : Adm) (dw10 dw11 : W32) (s : State) : Res :=
  adminPf s a (tunnel 0 a dw10 dw11 s (readAt s (tIndex dw10) (tSub dw10) (tLen dw11) (.tunnel a) true))
def execSynmonTunnelWrite (a : Adm) (dw10 dw11 : W32) (data : List Byte) (s : State) : Res :=
  adminPf s a (tunnel 1 a dw10 dw11 s
    (dictWrite s .tunnel (tIndex dw10) (tSub dw10) ((padTo (tLen dw11) data).take (tLen dw11)) (.tunnel a)))
def execSynmonTunnelBlockRead (a : Adm) (dw10 dw11 : W32) (s : State) : Res :=
  adminPf s a (tunnel 2 a dw10 dw11 s (blockReadAt s (tIndex dw10) (tSub dw10) (tLen dw11) (.tunnel a) true))

/-! ### Synmon frames -/

def fDest (f : Frame) : List Byte := f.bytes.take 6
def fSrc (f : Frame) : List Byte := (f.bytes.drop 6).take 6
def fPayload (f : Frame) : List Byte := f.bytes.drop 14
def fField (f : Frame) (off len : Nat) : Nat := recNat (fPayload f) off len
def fService (f : Frame) : Nat := fField f 1 1
def fLen (f : Frame) : Nat := fField f 10 2
def fData (f : Frame) : List Byte := ((fPayload f).drop 12).take (fLen f)

def broadcast : List Byte := List.replicate 6 0xFF

/-- An untagged frame of EtherType 0x88B5 to the port's address or to all (R478). -/
def frameHere (s : State) (port : Nat) (f : Frame) : Bool :=
  ((f.bytes.drop 12).take 2 == [0x88, 0xB5]) && (fDest f == macOf s port || fDest f == broadcast)

def services : List Nat := [1, 2, 3, 0x10, 0x11, 0x12]

/-- A frame that R442 discards. A block read's LENGTH is room, not data. -/
def frameBad (f : Frame) : Bool :=
  decide ((fPayload f).length < 12) || fField f 0 1 != 1 || !services.contains (fService f) ||
    decide (4 ≤ fField f 3 1) || fField f 9 1 != 0 ||
    (fService f != 3 && decide ((fPayload f).length < 12 + fLen f))

/-- The node ID service (R444). -/
def nodeService (s : State) (port : Nat) (f : Frame) (r : Reply) : State :=
  let die := leBytes 8 (dget s 0x1000 5)
  if fDest f ≠ broadcast ∨ fField f 2 1 ≠ 0 ∨ bitOf (fField f 3 1) 0 then s
  else if fLen f = 0 then answer s r (.value 9 (leBytes 1 (dget s 0x1100 1) ++ die))
  else if fLen f = 9 ∧ (fData f).drop 1 = die then dictWrite s (.synmon port) 0x1100 1 ((fData f).take 1) r
  else s

/-- A read, write or block read request (R443). -/
def requestService (s : State) (port : Nat) (f : Frame) (r : Reply) : State :=
  let i := fField f 6 2
  let sub := fField f 8 1
  if fDest f ≠ macOf s port ∨ (fField f 2 1 ≠ 0 ∧ fField f 2 1 ≠ dget s 0x1100 1) ∨ bitOf (fField f 3 1) 0 then s
  else if fService f = 1 then
    match dictRead s i sub none with
    | .error c => answerAbort s r c
    | .ok b => if fLen f ≠ 0 then answerAbort s r 4 else answer s r (.value b.length b)
  else if fService f = 2 then dictWrite s (.synmon port) i sub (fData f) r
  else blockReadAt s i sub (min (fLen f) 1488) r false

/-- A frame arrives at a port. -/
def receiveFrame (s : State) (port : Nat) (f : Frame) : State :=
  if !frameHere s port f then s
  else
    let s := bump s (0x1110 + port) 8 1
    if frameBad f then bump s (0x1110 + port) 0x0A 1
    else
      let r : Reply := .frame port (fSrc f) (fService f) (fField f 4 2) (fField f 6 2) (fField f 8 1)
      if fService f = 0x12 then nodeService s port f r
      else if fService f ≤ 3 then requestService s port f r
      else s

/-- A frame row: the frame is one of service `svc`, or one that is discarded. -/
def frameRow (s : State) (port : Nat) (f : Frame) : Res :=
  .next (when (pathUp s (.synmon port)) s (receiveFrame s port f))

def execSynmonRead (port : Nat) (f : Frame) (s : State) : Res := frameRow s port f
def execSynmonWrite (port : Nat) (f : Frame) (s : State) : Res := frameRow s port f
def execSynmonBlockRead (port : Nat) (f : Frame) (s : State) : Res := frameRow s port f
def execNodeIdQuery (port : Nat) (f : Frame) (s : State) : Res := frameRow s port f
def execNodeIdAssign (port : Nat) (f : Frame) (s : State) : Res := frameRow s port f

/-! ### Synmon Access over NVMe-MI -/

/-- A request of service `svc` with its data: malformed ones reach no entry (R440). -/
def miAccess (svc port : Nat) (nmd0 nmd1 : W32) (data : List Byte) (s : State) (run : State) : Res :=
  .next (when (pathUp s (.mi port)) s
    (if tService nmd0 ≠ svc ∧ tService nmd0 ≠ 3 then s
     else if !tClean nmd0 nmd1 ∨ data.length ≠ (if svc = 1 then tLen nmd1 else 0) then emit s (.mi port .invalidParameter 0 .none)
     else run))

def execMiSynmonRead (port : Nat) (nmd0 nmd1 : W32) (data : List Byte) (s : State) : Res :=
  miAccess 0 port nmd0 nmd1 data s (readAt s (tIndex nmd0) (tSub nmd0) (tLen nmd1) (.mi port) false)
def execMiSynmonWrite (port : Nat) (nmd0 nmd1 : W32) (data : List Byte) (s : State) : Res :=
  miAccess 1 port nmd0 nmd1 data s (dictWrite s (.mi port) (tIndex nmd0) (tSub nmd0) data (.mi port))
def execMiSynmonBlockRead (port : Nat) (nmd0 nmd1 : W32) (data : List Byte) (s : State) : Res :=
  miAccess 2 port nmd0 nmd1 data s (blockReadAt s (tIndex nmd0) (tSub nmd0) (tLen nmd1) (.mi port) false)

end Sys2Proof.Machine
end

