-- ==== Sys2Proof/Machine/Mi.lean ====
section
/-!
DEFINITION. The management endpoints on I3C: addresses, MCTP control, and the NVMe-MI profile (R479 to
R481). Identifiers of NVMe-MI and MCTP are PRESUMED (log entry 45).
-/
namespace Sys2Proof.Machine

/-- A command at an I3C port. -/
def miRow (s : State) (port : Nat) (t : State) : Res := .next (when (pathUp s (.mi port)) s t)

/-- A response that is no dictionary access. -/
def miSay (s : State) (port : Nat) (st : MiStatus) (p : Payload) : State := emit s (.mi port st 0 p)

/-- A command that needs the harbour die. -/
def miHarbour (s : State) (port : Nat) (t : State) : Res :=
  miRow s port (if s.power.bootStep < 4 then miSay s port .pcieInaccessible .none else t)

/-! ### Health -/

/-- Subsystem health now, and as the supervisor answers: while the harbour die is down, from its last
copy. -/
def healthNow (s : State) : List (String × Nat) :=
  [("smart warnings", s.host.smartWarn), ("composite temperature", (smartTemp s 0).toNat), ("percentage used", percentUsed s),
   ("available spare", availSpare s), ("fatal", b2n s.power.cfs), ("pair state", s.pair.state)]
def healthCopy (s : State) : List (String × Nat) := if s.power.bootStep < 4 then s.mgmt.health else healthNow s

/-- Which values have changed since a port's host last cleared them. -/
def healthChanges (s : State) (port : Nat) : Nat :=
  let now := (healthCopy s).map Prod.snd
  let seen := tabGet [] s.mgmt.seen port
  ((List.range now.length).map (fun i => if now[i]? = seen[i]? then 0 else 2 ^ i)).sum

/-- A port's changes in `bits` are cleared. -/
def clearHealth (s : State) (port bits : Nat) : State :=
  let now := (healthCopy s).map Prod.snd
  let seen := tabGet [] s.mgmt.seen port
  let new := (List.range now.length).map (fun i => if bitOf bits i then (now[i]?).getD 0 else (seen[i]?).getD 0)
  { s with mgmt := { s.mgmt with seen := tabSet [] s.mgmt.seen port new } }

def execMiSubsystemHealthPoll (port : Nat) (clear : Bool) (s : State) : Res :=
  miRow s port
    (let s := miSay s port .success (.fields (healthCopy s ++ [("changes", healthChanges s port)]))
     if clear then clearHealth s port (2 ^ 6 - 1) else s)

def execMiControllerHealthPoll (port cntlid : Nat) (s : State) : Res :=
  miHarbour s port
    (let f := getFn s cntlid
     if !f.present then miSay s port .invalidParameter .none
     else miSay s port .success (.fields ([("CNTLID", cntlid), ("ready", b2n f.rdy), ("fatal", b2n s.power.cfs), ("shutdown", f.shst)] ++ healthNow s)))

/-! ### Data structures, configuration, VPD -/

def execMiReadDataStructure (port dtyp portid cntlid : Nat) (s : State) : Res :=
  if dtyp = 2 ∨ dtyp = 3 then
    miHarbour s port
      (if dtyp = 2 then miSay s port .success (.fields (named "CNTLID" ((fnList s).filter (fun c => decide (cntlid ≤ c)))))
       else if !(getFn s cntlid).present then miSay s port .invalidParameter .none
       else
         let did := if cntlid = 0 then 0x7448 else 0x744A
         miSay s port .success (.fields [("port", portOf s cntlid), ("VID", 0x1F3D), ("DID", did), ("SSVID", 0x1F3D), ("SSID", did)]))
  else miRow s port
    (match dtyp with
    | 0 => miSay s port .success (.fields [("ports", 6)])
    | 1 => if portid < 4 then miSay s port .success (.fields [("type", 1), ("max payload", 512)])
           else if portid < 6 then miSay s port .success (.fields [("type", 2), ("MCTP unit", (s.mgmt.mctpMtu[portid - 4]?).getD 64), ("buffer", 0)])
           else miSay s port .invalidParameter .none
    | 4 => miSay s port .success (.fields (named "command" [0x00, 0x01, 0x02, 0x03, 0x04, 0x05, 0xC0]))
    | _ => miSay s port .invalidParameter .none)

/-- Configuration identifiers: 2 Health Status Change, 3 MCTP Transmission Unit Size. -/
def execMiConfigurationSet (port cfg value : Nat) (s : State) : Res :=
  miRow s port
    (if cfg = 2 then miSay (clearHealth s port value) port .success .none
     else if cfg = 3 ∧ 64 ≤ value ∧ value ≤ 256 then
       miSay { s with mgmt := { s.mgmt with mctpMtu := listMod (fun _ => value) s.mgmt.mctpMtu port } } port .success .none
     else miSay s port .invalidParameter .none)

def execMiConfigurationGet (port cfg : Nat) (s : State) : Res :=
  miRow s port
    (if cfg = 2 then miSay s port .success .none
     else if cfg = 3 then miSay s port .success (.fields [("MCTP unit", (s.mgmt.mctpMtu[port]?).getD 64)])
     else miSay s port .invalidParameter .none)

/-- The vital product data: the items of the identity section in the order of Table 17.6 (log entry
45). -/
def vpd (s : State) : List Byte := leBytes 16 (dget s 0x1000 4) ++ leBytes 2 (dget s 0x1000 6) ++ leBytes 4 (dget s 0x1000 8)

def execMiVpdRead (port off len : Nat) (s : State) : Res :=
  miRow s port
    (if (vpd s).length < off + len then miSay s port .invalidParameter .none
     else miSay s port .success (.bytes (((vpd s).drop off).take len)))

/-- NVMe Admin Command: Identify, Get Log Page and Get Features on any controller. -/
def miAdmin (s : State) (port fn : Nat) (c : MiAdmin) : State :=
  let d := c.dw10.toNat
  let say (s : State) (r : Except Status (Nat × Payload)) : State :=
    match r with
    | .ok (x, p) => emit s (.miAdmin port .success false x p)
    | .error st => emit s (.miAdmin port st (dnrOf st) 0 .none)
  match c.opcode with
  | 0x06 => say s ((identify s fn (bitsOf d 0 7) c.nsid (bitsOf d 16 31)).map (fun l => (0, .fields l)))
  | 0x02 =>
    match logPage s fn (bitsOf d 0 7) c.nsid (bitsOf c.dw11.toNat 16 31) with
    | .ok p => say (logRead s fn (bitsOf d 0 7) c.nsid) (.ok (0, p))
    | .error st => say s (.error st)
  | 0x0A => say s (featureValue s fn (bitsOf d 0 7) c.nsid c.dw11)
  | _ => miSay s port .invalidOpcode .none

def execMiAdminCommand (port cntlid : Nat) (cmd : MiAdmin) (s : State) : Res :=
  miHarbour s port (if !(getFn s cntlid).present then miSay s port .invalidParameter .none else miAdmin s port cntlid cmd)

/-! ### MCTP control -/

def eidOf (s : State) (port : Nat) : Nat := (s.mgmt.mctpEid[port]?).getD 0

def execMctpSetEndpointId (port eid : Nat) (s : State) : Res :=
  miRow s port
    (if eid < 8 ∨ 254 < eid then emit s (.mctp port [2])
     else emit { s with mgmt := { s.mgmt with mctpEid := listMod (fun _ => eid) s.mgmt.mctpEid port } } (.mctp port [0, 0, BitVec.ofNat 8 eid, 0]))
def execMctpGetEndpointId (port : Nat) (s : State) : Res :=
  miRow s port (emit s (.mctp port [0, BitVec.ofNat 8 (eidOf s port), 0, 0]))
def execMctpGetEndpointUuid (port : Nat) (s : State) : Res :=
  miRow s port (emit s (.mctp port (0 :: leBytes 16 Config.mctpUuid)))
def execMctpGetVersionSupport (port mtype : Nat) (s : State) : Res :=
  miRow s port (emit s (.mctp port (if mtype = 0 ∨ mtype = 4 then [0, 1] ++ leBytes 4 (Config.mctpVersion mtype) else [0x80])))
def execMctpGetMessageTypeSupport (port : Nat) (s : State) : Res :=
  miRow s port (emit s (.mctp port [0, 2, 0, 4]))

/-! ### I3C addresses -/

/-- The provisioned ID (R479). -/
def i3cPid (s : State) (port : Nat) : Nat :=
  0x0D1B * 2 ^ 33 + 0x7448 * 2 ^ 16 + port % 16 * 2 ^ 12 + dget s 0x1000 5 % 2 ^ 12

/-- A target without a dynamic address takes one. -/
def takeAddress (s : State) (port addr : Nat) : State :=
  emit { s with mgmt := { s.mgmt with i3cDyn := listMod (fun _ => addr) s.mgmt.i3cDyn port } } (.i3c port (i3cPid s port) 0x06 Config.i3cDcr)
def noAddress (s : State) (port : Nat) : Bool := (s.mgmt.i3cDyn[port]?).getD 0 == 0

def execI3cEntdaa (port addr : Nat) (s : State) : Res :=
  miRow s port (when (noAddress s port && decide (8 ≤ addr) && decide (addr ≤ 0x7D)) s (takeAddress s port addr))
def execI3cSetdasa (port static addr : Nat) (s : State) : Res :=
  miRow s port (when (noAddress s port && dget s 0x1300 (1 + port) == static && decide (8 ≤ addr) && decide (addr ≤ 0x7D)) s (takeAddress s port addr))

end Sys2Proof.Machine
end

