-- ==== Sys2Proof/Machine/Land.lean ====
section
/-!
DEFINITION. Data that control firmware lands by itself: copies from the partner and the power-loss dump
(R121, R125, R384).
-/
namespace Sys2Proof.Machine

/-- Slots from an address take bytes, each with its tag, sealed under the namespace's key from a tweak on. -/
def putSlots (s : State) (a : Nat) (nsid : Nat) (b : List Byte) (tweak : Nat) (tag : Nat → Tag) : State :=
  let n := ceilDiv b.length 4096
  let slot (k : Nat) : Slot := {
    data := (b.drop (k * 4096)).take 4096, key := (getNs s nsid).keyGen, tag := some (tag k)
    sealKey := xtsKey s a nsid, tweak := tweak + k, time := s.nowMs }
  let f := (List.range n).foldl (fun f k => tabPut f (a + k) (some (slot k))) s.media.flash
  { s with media := { s.media with flash := f }, host := { s.host with bytesMedia := s.host.bytesMedia + n * 4096 } }

end Sys2Proof.Machine
end

