-- ==== Sys2Proof/Machine/Keys.lean ====
section
/-!
DEFINITION. Key Slot Load: load, clear, assign, install and zeroize (R323 to R327).
-/
namespace Sys2Proof.Machine

/-- Fields of Table 12.2. -/
def kSlot (dw10 : W32) : Nat := bitsOf dw10.toNat 0 11
def kOp (dw10 : W32) : Nat := bitsOf dw10.toNat 12 14
def kKind (dw10 : W32) : Nat := bitsOf dw10.toNat 16 17
def kTenant (dw11 : W32) : Nat := bitsOf dw11.toNat 0 10
def kLen (dw12 : W32) : Nat := bitsOf dw12.toNat 0 7

/-- LENGTH of an operation (R324). -/
def kLenOk (dw10 dw12 : W32) : Bool :=
  kLen dw12 == (match kOp dw10 with
    | 0 => if kKind dw10 = 1 then 24 else 40
    | 3 => 32
    | _ => 0)

/-- The fields are valid, and a virtual function stays within R325. -/
def kClean (s : State) (fn : Nat) (dw10 dw11 dw12 : W32) (data : List Byte) : Bool :=
  let op := kOp dw10
  let t := kTenant dw11
  decide (op < 5) && !dw10.getLsbD 15 && bitsOf dw10.toNat 18 31 == 0 && bitsOf dw11.toNat 11 31 == 0 &&
  bitsOf dw12.toNat 8 31 == 0 && kLenOk dw10 dw12 && data.length == kLen dw12 &&
  (if op = 0 then kKind dw10 != 0 else kKind dw10 == 0) &&
  (if op = 2 then decide (t < 1024) || t == 0x7FF else t == 0) &&
  (decide (op < 3) || kSlot dw10 == 0) &&
  (fn == 0 || (decide (op < 2) && (getSlot s (kSlot dw10)).tenant == some (tenantOf fn)))

/-- A queued or running job names the slot. -/
def slotBusy (s : State) (slot : Nat) : Bool :=
  s.eng.cip.any (fun e => e.2.jobs.any (fun j => !ciCont j.record && ciSlot j.record == slot))
def anyCipherJob (s : State) : Bool := s.eng.cip.any (fun e => !e.2.jobs.isEmpty)

/-- The counters that follow the slots (Table 12.8). -/
def keyCounts (s : State) : State :=
  let s := dset s 0x7050 4 (s.eng.slots.filter (fun e => e.2.kind != 0)).length
  ((s.eng.slots.filterMap (fun e => e.2.tenant)).dedup).foldl
    (fun s t => dset s (0x6000 + t) 0x30 (s.eng.slots.filter (fun e => e.2.tenant == some t)).length) s

/-- A slot takes a value, and the counters follow. -/
def putSlot (s : State) (i : Nat) (k : KeySlot) : State :=
  let s := match (getSlot s i).tenant with
    | some t => dset s (0x6000 + t) 0x30 (dget s (0x6000 + t) 0x30 - 1)
    | none => s
  keyCounts (setSlot s i k)

/-- What operations 0 to 2 do to a slot; the same on the partner (R327). -/
def slotOp (s : State) (slot op kind tenant : Nat) (key : List Byte) : State :=
  let k := getSlot s slot
  match op with
  | 0 => putSlot s slot { k with kind := kind, key := key }
  | 1 => putSlot s slot { k with kind := 0, key := [] }
  | _ => putSlot s slot { kind := 0, key := [], tenant := if tenant = 0x7FF then none else some tenant }

/-- The logbook lines of a slot and of the module key. -/
def slotLine (slot : Nat) : Nat := itemLine 3 slot
def modKeyLine : Nat := itemLine 3 4096

/-- A completion with dword 0, for the refusals that say why. -/
def keyFail (s : State) (a : Adm) (st : Status) (dw0 : Nat) : State := adminDone s a st dw0 .none

/-- The STATE body of a slot operation (Table 14.14). -/
def slotState (slot op kind tenant : Nat) (wrapped : List Byte) : List Byte :=
  leBytes 2 slot ++ leBytes 1 op ++ leBytes 1 kind ++ leBytes 2 tenant ++ leBytes 1 wrapped.length ++ List.replicate 9 0 ++ wrapped

/-- An operation on a slot that passed the checks of Table 12.3 but the last. -/
def slotCommit (s : State) (a : Adm) (slot op kind tenant : Nat) (key wrapped : List Byte) : State :=
  if commitWorn s 3 (slotLine slot) then keyFail (wornRefusal s 0x7050 2 (slotLine slot)) a .internalError 2
  else mirrorState (slotOp (commitAt s 3 (slotLine slot)) slot op kind tenant key) 1 0 (slotState slot op kind tenant wrapped) (.adm a 0)

/-- The module key is installed or removed. -/
def setModuleKey (s : State) (k : Option (List Byte)) : State :=
  let s := { s with eng := { s.eng with moduleKey := k } }
  dset (dset s 0x7050 2 (b2n k.isSome)) 0x7050 3 (match k with | some k => keyCheckValue k | none => 0)

/-- Key Slot Load with OP `op` (Table 12.3). A record whose OP field is another operation's is that
operation's command. -/
def keySlotLoad (op : Nat) (a : Adm) (dw10 dw11 dw12 : W32) (data : List Byte) (s : State) : State :=
  let slot := kSlot dw10
  if kOp dw10 < 5 ∧ kOp dw10 ≠ op then s
  else if !kClean s a.fn dw10 dw11 dw12 data then adminFail s a .invalidField
  else match op with
    | 0 =>
      match s.eng.moduleKey with
      | none => adminFail s a .commandSequenceError
      | some mk =>
        if slotBusy s slot then adminFail s a .commandSequenceError
        else match keyUnwrap mk data with
          | none => keyFail (bump s 0x7050 5 1) a .invalidField 1
          | some key => slotCommit s a slot 0 (kKind dw10) 0 key data
    | 1 => if slotBusy s slot then adminFail s a .commandSequenceError else slotCommit s a slot 1 0 0 [] []
    | 2 => if slotBusy s slot then adminFail s a .commandSequenceError else slotCommit s a slot 2 0 (kTenant dw11) [] []
    | 3 =>
      if s.eng.moduleKey.isSome then adminFail s a .commandSequenceError
      else if commitWorn s 3 modKeyLine then keyFail (wornRefusal s 0x7050 2 modKeyLine) a .internalError 2
      else adminOk (setModuleKey (commitAt s 3 modKeyLine) (some data)) a
    | _ =>
      if s.pair.state ≠ 0 ∨ anyCipherJob s then adminFail s a .commandSequenceError
      else if commitWorn s 3 modKeyLine then keyFail (wornRefusal s 0x7050 2 modKeyLine) a .internalError 2
      else
        let s := setModuleKey (commitAt s 3 modKeyLine) none
        adminOk ((s.eng.slots.map Prod.fst).foldl (fun s i => slotOp s i 1 0 0 []) s) a

def execKeySlotLoad (a : Adm) (dw10 dw11 dw12 : W32) (data : List Byte) (s : State) : Res :=
  admin s a (keySlotLoad 0 a dw10 dw11 dw12 data s)
def execKeySlotClear (a : Adm) (dw10 dw11 dw12 : W32) (data : List Byte) (s : State) : Res :=
  admin s a (keySlotLoad 1 a dw10 dw11 dw12 data s)
def execKeySlotAssign (a : Adm) (dw10 dw11 dw12 : W32) (data : List Byte) (s : State) : Res :=
  admin s a (keySlotLoad 2 a dw10 dw11 dw12 data s)
def execModuleKeyInstall (a : Adm) (dw10 dw11 dw12 : W32) (data : List Byte) (s : State) : Res :=
  admin s a (keySlotLoad 3 a dw10 dw11 dw12 data s)
def execKeyZeroize (a : Adm) (dw10 dw11 dw12 : W32) (data : List Byte) (s : State) : Res :=
  admin s a (keySlotLoad 4 a dw10 dw11 dw12 data s)

end Sys2Proof.Machine
end

