-- ==== Sys2Proof/Machine/Namespaces.lean ====
section
/-!
DEFINITION. Namespace Management and Attachment, Format NVM and Sanitize (R82 to R89, R92, R117, R120,
R338, R362, R363).
-/
namespace Sys2Proof.Machine

/-! ### Creation -/

/-- Fine-map segments of a namespace (R92). -/
def nsSegments (n : Ns) : Nat :=
  if n.zoned then 0 else ceilDiv (n.nsze * lbaBytes n.lbaf) (4096 * (4096 * unitSlots n.lbaf))

/-- The range NSIDs are taken from: lowest and how many (R117, R362, R363). -/
def nsidRange (s : State) : Nat × Nat :=
  if s.pair.state = 0 then
    (match dget s 0x8000 0xB with | 1 => (1, 2048) | 2 => (2049, 2048) | _ => (1, 4096))
  else if s.pair.state = 2 ∨ s.pair.state = 3 then (if pairRole s = 1 then (1, 2048) else (2049, 2048))
  else (1, 4096)

def freeNsid (s : State) : Option Nat :=
  let m := newestMap s
  lowestFrom (fun n => !(tabGet Ns.empty m.nss n).live) (nsidRange s).2 (nsidRange s).1

/-- The namespace a create request describes. -/
def wanted (q : NsCreate) : Ns :=
  { Ns.empty with
    live := true, nsze := q.nsze, ncap := q.ncap, lbaf := q.flbas, zoned := q.zoned, shared := q.shared
    mirror := q.mirror == 1, home := q.home.toNat }

/-- The namespaces that take this module's pools: those in its flash, created ones from their request on,
deleted ones until their record is durable (R88, R115, R120). -/
def nssHeld (s : State) : List Ns :=
  let new := (newestMap s).nss
  ((new ++ s.media.cur.nss.filter (fun e => (tabFind new e.1).isNone)).map Prod.snd).filter (nsHere s)

/-- The pools are short of what a namespace in this module's flash needs (R86, R92, R98, R103, R120). -/
def poolsShort (s : State) (n : Ns) : Bool :=
  let held := nssHeld s
  let segs := (held.map nsSegments).sum + nsSegments n
  let zones := (held.map (fun e => if e.zoned then nsZones e else 0)).sum + nsZones n
  let pooled := ((newestMap s).lots.filter (fun e => lotInUse e.2 && isPooled e.2)).length
  let later := (held.map nsBlocks).sum - reservedBlocks s
  decide (4194304 < segs) || (n.zoned && decide (min 2097152 lotCount < zones + pooled)) ||
    decide (spareWith s (landPct s) (nsBlocks n + later) < (spareTarget : Int))

/-- The partner's flash is to hold the namespace too, or alone; its pools are short: its own matter, left open
here (log entry 29). -/
def partnerHolds (n : Ns) : Bool := n.mirror || n.home == 1
def partnerShort (s : State) (n : Ns) : Bool := partnerHolds n && drawn s % 2 == 1
def askPartner (s : State) (n : Ns) : State := if partnerHolds n then draw s else s

/-- Table 3.3, in its order, after the reserved bytes of Table 3.2. -/
def createRefusal (s : State) (q : NsCreate) : Option Status :=
  let n := wanted q
  let st := s.pair.state
  if q.rsv.any (· != 0) ∨ 1 < q.mirror.toNat ∨ 1 < q.home.toNat then some .invalidField
  else if 3 ≤ q.flbas ∨ (q.flbas = 1 ∧ q.zoned) then some .invalidFormat
  else if (n.mirror ∨ n.home = 1) ∧ st = 0 then some .invalidField
  else if (n.mirror ∧ 2 ≤ st) ∨ (n.home = 1 ∧ (st = 2 ∨ st = 3)) then some .commandSequenceError
  else if n.nsze < n.ncap ∨ n.ncap = 0 ∨ (n.zoned ∧ (n.ncap ≠ n.nsze ∨ n.nsze * lbaSlots n.lbaf % zoneSize ≠ 0)) then some .invalidField
  else if ((n.mirror ∨ n.home = 0) ∧ poolsShort s n) ∨ partnerShort s n then some .nsInsufficientCapacity
  else if (freeNsid s).isNone then some .nsIdUnavailable
  else none

/-- The body of the STATE that carries a namespace's key, wrapped under the module key (Table 14.14). -/
def keyBody (s : State) (nsid jsn : Nat) : List Byte :=
  leBytes 8 jsn ++ keyWrap (s.eng.moduleKey.getD []) (tabGet [] s.media.nsKeys nsid)

/-- A namespace's key goes to the partner. -/
def sendKey (s : State) (nsid jsn : Nat) (dn : StateDone) : State :=
  mirrorState s 2 nsid (keyBody s nsid jsn) dn

/-- The NSCREATE record (Table 3.7). -/
def createRec (nsid : Nat) (n : Ns) : JRec :=
  jrec 0x30 nsid n.nsze 0 (n.lbaf + (if n.zoned then 2 else 0) * 2 ^ 8 + b2n n.mirror * 2 ^ 16 + n.home * 2 ^ 24 + b2n n.shared * 2 ^ 32) n.ncap

def namespaceCreate (s : State) (a : Adm) (q : NsCreate) : State :=
  match createRefusal s q, freeNsid s with
  | some st, _ => adminFail (askPartner s (wanted q)) a st
  | none, none => adminFail s a .nsIdUnavailable
  | none, some nsid =>
    let s := keyNs (journalOp (askPartner s (wanted q)) [createRec nsid (wanted q)]) nsid
    let j := s.media.jsn
    if s.pair.state = 0 then adminAfter s j a nsid else sendKey s nsid j (.record j a nsid)

def execNamespaceCreate (a : Adm) (req : NsCreate) (s : State) : Res := adminPf s a (namespaceCreate s a req)

/-! ### Attachment -/

/-- The controllers a namespace is visible to: those it is attached to and the physical function's. -/
def visibleTo (n : Ns) : List Nat := (0 :: n.attached).dedup

/-- Attachment changes are posted and listed (R81). -/
def attributeChanged (s : State) (nsid : Nat) (fns : List Nat) : State :=
  let s := fns.foldl (fun s fn => modFn s fn (fun f => { f with changedNs := if f.changedNs.contains nsid then f.changedNs else f.changedNs ++ [nsid] })) s
  postEvents s fns { typ := 2, info := 0, log := 4 }

/-- Records and events of an attachment or detachment. -/
def attachChange (s : State) (nsid : Nat) (ctrls : List Nat) (detach : Bool) : State :=
  let s := journalOp s (ctrls.map (fun c => jrec 0x32 nsid c 0 0 (b2n detach)))
  attributeChanged s nsid (visibleTo (getNs s nsid) ++ ctrls).dedup

def ctrlsBad (l : List Nat) : Bool := l.isEmpty || l.any (fun c => decide (1024 < c)) || decide (¬ l.Nodup)

def execNamespaceAttach (a : Adm) (nsid : Nat) (ctrls : List Nat) (s : State) : Res :=
  let n := tabGet Ns.empty (newestMap s).nss nsid
  adminPf s a (
    if !n.live ∨ n.deleting.isSome then adminFail s a .invalidNamespaceOrFormat
    else if ctrlsBad ctrls then adminFail s a .invalidControllerList
    else if ctrls.any (fun c => n.attached.contains c) then adminFail s a .nsAlreadyAttached
    else if !n.shared ∧ 1 < n.attached.length + ctrls.length then adminFail s a .nsIsPrivate
    else
      let s := attachChange s nsid ctrls false
      adminAfter s s.media.jsn a 0)

def execNamespaceDetach (a : Adm) (nsid : Nat) (ctrls : List Nat) (s : State) : Res :=
  let n := tabGet Ns.empty (newestMap s).nss nsid
  adminPf s a (
    if !n.live ∨ n.deleting.isSome then adminFail s a .invalidNamespaceOrFormat
    else if ctrlsBad ctrls then adminFail s a .invalidControllerList
    else if !ctrls.all (fun c => n.attached.contains c) then adminFail s a .nsNotAttached
    else
      let s := attachChange s nsid ctrls true
      adminAfter s s.media.jsn a 0)

/-! ### Deletion -/

/-- Docket entries of a namespace. -/
def nsDockets (s : State) (nsid : Nat) (p : Docket → Bool) : List Nat :=
  (s.host.dockets.filter (fun e => e.2.sqe.nsid == nsid && p e.2)).map Prod.fst

/-- Commands still in Admitted complete with Invalid Namespace or Format. -/
def cancelOn (s : State) (nsid : Nat) (st : Status) : State :=
  (nsDockets s nsid (fun e => e.word == .admitted)).foldl (fun s d => dkAbort s d st) s

/-- A namespace's deletion begins: detached, its Admitted commands cancelled, its self-test ended. -/
def startDelete (s : State) (a : Adm) (nsid : Nat) : State :=
  let s := attachChange s nsid (getNs s nsid).attached true
  let s := modNs s nsid (fun n => { n with deleting := some a, attached := [] })
  let s := cancelOn s nsid .invalidNamespaceOrFormat
  if s.service.stCode ≠ 0 ∧ s.service.stNsid = nsid then selfTestEnd s 3 0 0 else s

/-- While the partner is away only non-mirrored namespaces homed here are deleted (R117). -/
def deleteBarred (s : State) (n : Ns) : Bool := (s.pair.state == 2 || s.pair.state == 3) && (n.mirror || n.home != 0)

def execNamespaceDelete (a : Adm) (nsid : Nat) (s : State) : Res :=
  adminPf s a (
    let ns := if nsid = 0xFFFFFFFF then (nsids s).filter (fun n => (getNs s n).deleting.isNone) else [nsid]
    if ns.any (fun n => !(getNs s n).live || (getNs s n).deleting.isSome) then adminFail s a .invalidNamespaceOrFormat
    else if ns.any (fun n => deleteBarred s (getNs s n)) then adminFail s a .commandSequenceError
    else if ns.isEmpty then adminOk s a
    else ns.foldl (fun s n => startDelete s a n) s)

/-- The lots of a namespace's zones go to reclaim. -/
def nsLotRecs (m : MapSt) (nsid : Nat) : List JRec :=
  ((m.zones.filter (fun e => e.1 / 2 ^ 24 == nsid && e.2.lotv)).map (fun e => lotRec (getLot m e.2.lot) e.2.lot 3))

/-- What becomes of everything that names a deleted namespace. -/
def forgetNs (s : State) (nsid : Nat) : State :=
  { s with
    media := { s.media with relocs := s.media.relocs.filter (fun r => !(r.2.step == 1 && r.2.units.any (fun u => u.1.nsid == nsid))) }
    pair := { s.pair with stale := s.pair.stale.filter (· != nsid), copying := s.pair.copying.filter (· != nsid), resync := s.pair.resync.filter (fun u => u.nsid != nsid), copies := s.pair.copies.filter (fun c => c.2.nsid != nsid) } }

/-- NS_DELETE_DONE: the last docket entry is closed; the delete record, then the completion once it is
durable. A command that deletes all completes with the last one. -/
def execNsDeleteDone (nsid : Nat) (s : State) : Res :=
  match (getNs s nsid).deleting with
  | none => .next s
  | some a =>
    .next (when ((nsDockets s nsid (fun _ => true)).isEmpty && tabGet Ns.empty (newestMap s).nss nsid != Ns.empty) s
      (let s := forgetNs s nsid
       let last := !(s.media.cur.nss.any (fun e => e.1 != nsid && e.2.deleting == some a))
       let j := s.media.jsn + 1
       let s := dropKey (journalOp s (jrec 0x31 nsid 0 0 0 0 :: nsLotRecs (newestMap s) nsid)) nsid
       if last then adminAfter s j a 0 else s))

/-! ### Format NVM and Sanitize -/

/-- Commands past their commit point that still hold data of a namespace are closed: their data goes
with everything else in it. -/
def dropCommitted (s : State) (nsid : Nat) : State :=
  flushCheck ((nsDockets s nsid (fun e => e.word == .committed && isWriteKind e.sqe.kind)).foldl dkFree s)

/-- Every unit of a namespace is deallocated; with `rekey` its key is drawn anew, and its commands wait until
the record that deallocates it is applied (R338, R340). -/
def clearNs (s : State) (nsid : Nat) (rekey : Bool) : State :=
  let s := forgetNs (dropCommitted s nsid) nsid
  let f := s.media.jsn + 1
  let s := journalOp s (jrec 0x05 nsid 0 0 0 0 :: nsLotRecs (newestMap s) nsid)
  if !rekey then s
  else
    let j := s.media.jsn
    let s := bump (modNs (keyNs s nsid) nsid (fun n => { n with keyGen := j, rekeyAt := f })) 0x7060 2 1
    if (getNs s nsid).mirror ∨ (getNs s nsid).home ≠ 0 then sendKey s nsid j .none else s

/-- A namespace takes an LBA format; its size in bytes stays. -/
def setFormat (s : State) (nsid lbaf : Nat) : State :=
  modNs s nsid (fun n => { n with lbaf := lbaf, nsze := n.nsze * lbaBytes n.lbaf / lbaBytes lbaf, ncap := n.ncap * lbaBytes n.lbaf / lbaBytes lbaf })

def formatNvm (s : State) (a : Adm) (nsid lbaf ses : Nat) (pi : Bool) : State :=
  let ns := if nsid = 0xFFFFFFFF then nsids s else [nsid]
  if 2 < ses then adminFail s a .invalidField
  else if ns.any (fun n => !(getNs s n).live || (getNs s n).deleting.isSome) then adminFail s a .invalidNamespaceOrFormat
  else if pi ∨ 3 ≤ lbaf ∨ ns.any (fun n => (getNs s n).zoned && lbaf == 1) then adminFail s a .invalidFormat
  else
    let s := selfTestEnd s 4 0 0
    let s := ns.foldl (fun s n => setFormat (clearNs s n (ses == 2)) n lbaf) s
    adminAfter s s.media.jsn a 0

def execFormatNvm (a : Adm) (nsid lbaf ses : Nat) (pi : Bool) (s : State) : Res := adminPf s a (formatNvm s a nsid lbaf ses pi)

/-- A block of user data is erased; of a lot in reclaim it counts as such. -/
def eraseOne (s : State) (b : Nat) : State :=
  let s' := eraseBlock s b
  if (reclaimLot s b).isSome then { s' with media := { s'.media with erased := s'.media.erased.filter (· != b) ++ [b] } } else s'
/-- Every block of user data is erased, once the journal has every lot in reclaim (R109). -/
def eraseAll (s : State) : State :=
  let m := newestMap s
  let s := closeDue (programAll (journalOp s ((m.lots.filter (fun e => lotInUse e.2)).map (fun e => lotRec (getLot m e.1) e.1 3))))
  journalOp (((s.media.blocks.filter (fun e => e.2.pool == 1 || e.2.pool == 6)).map Prod.fst).foldl eraseOne s) []

/-- Sanitize: every namespace, Admitted commands completing with Sanitize In Progress. It ends in the
same step with Sanitize Operation Completed posted (log entry 33). -/
def sanitize (s : State) (a : Adm) (crypto : Bool) : State :=
  let s := adminOk (selfTestEnd s 9 0 0) a
  let s := (nsids s).foldl (fun s n => clearNs (cancelOn s n .sanitizeInProgress) n crypto) s
  let s := if crypto then s else eraseAll s
  let s := { s with service := { s.service with sanitize := if crypto then 4 else 2, sanCount := s.service.sanCount + 1 } }
  postEvent s 0 { typ := 6, info := 1, log := 0x81 }

def execSanitizeBlockErase (a : Adm) (s : State) : Res := adminPf s a (sanitize s a false)
def execSanitizeCryptoErase (a : Adm) (s : State) : Res := adminPf s a (sanitize s a true)

end Sys2Proof.Machine
end

