-- ==== Sys2Proof/Machine/IkCommit.lean ====
section
/-!
DEFINITION. What a bundle does once its last syllable is there (R222, R232 to R234, R248 to R254,
R264 to R274): legality, effects, the next bundle address and issue cycle, and the block end.
-/
namespace Sys2Proof.Machine

/-- `words` words at the core's bundle address lie inside its image's code (R220, R222). Firmware code
is not in a code store. -/
def codeHolds (s : State) (c words : Nat) : Bool :=
  let x := getCore s c
  if isLighterCore c then
    match imageAt s (coreSpace s c) x.pc with
    | some i => decide (bitsOf x.pc.toNat 0 31 + 4 * words ≤ i.code.length) && x.pc.toNat % 4 == 0
    | none => false
  else true

/-- The bundle lies inside its image's code. -/
def bundleInCode (s : State) (c : Nat) : Bool := codeHolds s c (getCore s c).bun.words

/-- The bundle is legal where it stands (R222, R249, R254, R257). -/
def bundleLegal (s : State) (c : Nat) : Bool :=
  let x := getCore s c
  let b := x.bun
  !b.illegal && bundleInCode s c && (b.hasBlock == x.first) &&
    !(decide (0 < x.delay) && (b.hasB || b.hasBlock || b.hasEnd)) &&
    !(x.rep.isSome && (b.hasB || b.hasBlock || b.hasEnd)) &&
    !(b.hasB && b.hasEnd)

/-- Bits [31:0] of a bundle address replaced. -/
def pcTo (pc : W64) (off : Nat) : W64 := BitVec.ofNat 64 (pc.toNat / 2 ^ 32 * 2 ^ 32 + off % 2 ^ 32)

/-- A write of a syllable issued now with latency `lat`. Inside a repeat a write to rc is held
(R253). On a control core the next bundle reads it (R234). -/
def putWr (s : State) (c lat : Nat) (w : Wr) : State :=
  let x := getCore s c
  match x.rep, w with
  | some r, .rc v => setCore s c { x with rep := some { r with held := some v }, endCyc := max x.endCyc (x.cyc + lat) }
  | _, _ =>
    setCore s c { x with pend := x.pend ++ [⟨x.cyc + (if isLighterCore c then lat else 1), w⟩], endCyc := max x.endCyc (x.cyc + lat) }

/-- A shared write joins those in flight, in order of issue cycle and core (R211). -/
def insertShared (p : ShPend) : List ShPend → List ShPend
  | [] => [p]
  | q :: qs =>
    if p.issued < q.issued ∨ (p.issued = q.issued ∧ p.core < q.core) then p :: q :: qs
    else q :: insertShared p qs

def putShared (s : State) (c k : Nat) (v : Bool) : State :=
  let i := sharedSet s c
  let p : ShPend := { issued := absCycle s c, core := c, key := sharedKey s c k, val := v }
  modCore { s with ik := { s.ik with shPend := tabMod [] s.ik.shPend i (insertShared p) } } c
    (fun x => { x with endCyc := max x.endCyc (x.cyc + 3) })

/-- The value a read-modify-write issued now finds: every write of an earlier cycle, or of this one
by a lower-numbered core, has been applied (R211; DEDUCED, log entry 12). -/
def rmwView (s : State) (c k : Nat) : Bool :=
  let n := absCycle s c
  sharedView s c k (fun w => decide (w.issued < n ∨ (w.issued = n ∧ w.core ≤ c)))

/-- A store of the X queue's new entry, or its discard with 64 undelivered (R272, R273). -/
def putQueue (s : State) (c : Nat) (r : XReq) : State :=
  let x := getCore s c
  if x.xq.length < 64 then setCore s c { x with xq := x.xq ++ [⟨x.pc, coreThread s c, r⟩] }
  else logFault (bump s 0x7020 0x18 1) (coreSpace s c) 3 0 (some (coreThread s c)) x.pc 0 0

/-- A stream is closed as at the block's end (R217): it ends once what is committed has drained. -/
def closeStream (s : State) (c w : Nat) : State :=
  let m := getStream s c w
  if m.isOpen ∧ m.reported then setStream s c w { Stream.closed with sfault := m.sfault }
  else if m.isOpen then setStream s c w { m with isOpen := false, draining := true, ready0 := false, ready1 := false } else s

/-- Hand back or commit a half whose READY bit is 1 (R217, R261). -/
def advanceStream (s : State) (c w : Nat) (half : Bool) : State :=
  let m := getStream s c w
  let rdy := if half then m.ready1 else m.ready0
  if m.isOpen ∧ rdy then
    let m := if half then { m with ready1 := false } else { m with ready0 := false }
    setStream s c w (if m.outbound then { m with committed := m.committed ++ [half] } else { m with taken := m.taken + 4096 })
  else s

/-- The first fault an X syllable raised stands (R259). -/
def putFault (s : State) (c code ch : Nat) : State :=
  modCore s c (fun x => { x with fault := match x.fault with | some f => some f | none => some ⟨code, x.pc, ch⟩ })

/-- The sp a call with a frame of `f` bytes sets (R226). -/
def callSp (s : State) (c f : Nat) : W64 := BitVec.ofNat 64 ((rdX s c 63).toNat / 64 * 64) - BitVec.ofNat 64 f

/-- A call (R226, R250 to R252): the frame stores and the writes of sp and lk take effect after the
call's latency; lk is the address after the whole bundle. -/
def callEff (s : State) (c target imask vmask : Nat) : State :=
  let x := getCore s c
  let f := frameSize imask vmask
  let lat := 3 + ceilDiv f 128
  let sp := callSp s c f
  let ret := pcTo x.pc (x.pc.toNat + 4 * x.bun.words)
  let ws := Wr.x 63 sp :: Wr.x 62 ret :: storeChunks s c sp.toNat (frameBytes s c ret imask vmask)
  let s := setCore s c { x with target := some target, delay := 0 }
  ws.foldl (fun s w => putWr s c lat w) s

/-- One effect of a legal bundle. -/
def doEff (s : State) (c : Nat) (e : Eff) : State :=
  match e with
  | .wr lat w => putWr s c lat w
  | .shared k v => putShared s c k v
  | .sharedRmw k set dst =>
    let old := rmwView s c k
    putWr (putShared s c k set) c 3 (.bit dst old)
  | .branch t taken => modCore s c (fun x => { x with delay := 3, target := if taken then some t else none })
  | .call t im vm => callEff s c t im vm
  | .ret t f _ _ => modCore s c (fun x => { x with target := some (t.toNat % 2 ^ 32), delay := 0, endCyc := max x.endCyc (x.cyc + 3 + ceilDiv f 128) })
  | .rep n => modCore s c (fun x => { x with rep := some { left := n, iter := 0, rc := (curBank x).rc, held := none, bases := [] } })
  | .block _ => s
  | .finish e => modCore s c (fun x => { x with endEv := some e })
  | .queue r => putQueue s c r
  | .fault code ch => putFault s c code ch
  | .sadv w h => advanceStream s c w h
  | .sclose w => closeStream s c w

/-- The registers a bundle's RET restores. -/
def effRestores (effs : List Eff) : Option (List Nat × List Nat) :=
  effs.findSome? (fun e => match e with | .ret _ _ r v => some (r, v) | _ => none)

/-- Writes of earlier bundles to what a RET restores are discarded (R252). -/
def dropRestored (s : State) (c : Nat) (effs : List Eff) : State :=
  match effRestores effs with
  | none => s
  | some (regs, vregs) =>
    modCore s c (fun x => { x with pend := x.pend.filter (fun p => !(match p.wr with
      | .x r _ => regs.contains r
      | .v r _ => vregs.contains r
      | .rc _ => true
      | _ => false)) })

/-- The requirements a bundle's BLOCK asks for. -/
def effNreq (effs : List Eff) : Nat :=
  (effs.findSome? (fun e => match e with | .block n => some n | _ => none)).getD 0

/-- Cycles until the next bundle issues after a CALL or RET. -/
def callLat (effs : List Eff) : Option Nat :=
  effs.findSome? (fun e => match e with
    | .call _ im vm => some (3 + ceilDiv (frameSize im vm) 128)
    | .ret _ f _ _ => some (3 + ceilDiv f 128)
    | _ => none)

def effRep (effs : List Eff) : Option Nat :=
  effs.findSome? (fun e => match e with | .rep n => some n | _ => none)

/-- Length in words of the bundle at a code address; none if no legal bundle stands there. -/
def bundleLen (s : State) (c : Nat) (pc : W64) : Option Nat := (bundleAt s c pc).map Prod.snd

/-- Shared writes old enough for every reader of the cluster join the store. -/
def settleShared (s : State) (c : Nat) : State :=
  let i := sharedSet s c
  let clk := tabGet 0 s.ik.clk (bitCluster c)
  let l := tabGet [] s.ik.shPend i
  let now := l.filter (fun w => decide (w.issued + 3 ≤ clk) || !isLighterCore c)
  let later := l.filter (fun w => !(decide (w.issued + 3 ≤ clk) || !isLighterCore c))
  { s with ik := { s.ik with
      shPend := tabSet [] s.ik.shPend i later
      shared := now.foldl (fun t w => tabSet false t w.key w.val) s.ik.shared } }

/-- The core goes to its next bundle: address `pc`, `adv` cycles on. Writes due by then take
effect. -/
def goTo (s : State) (c : Nat) (pc : W64) (adv : Nat) : State :=
  let x := getCore s c
  let cyc := x.cyc + adv
  let s := setCore s c { x with pc := pc, cyc := cyc, bun := .empty, first := false }
  let s := settle s c cyc
  let abs := (getCore s c).base + cyc
  let s := { s with ik := { s.ik with clk := tabMod 0 s.ik.clk (bitCluster c) (fun k => max k abs) } }
  settleShared s c

/-- The bytes of a context record (Table 7.3). -/
def contextRecord (b : Bank) : List Byte :=
  leBytes 8 0 ++ ((List.range 63).map (fun i => leBytes 8 (bankX b (i + 1)).toNat)).flatten ++
    ((List.range 32).map (fun i => leBytes 64 (bankV b i).toNat)).flatten ++
    leBytes 128 b.b.toNat ++ leBytes 2 b.rc.toNat ++ List.replicate 382 0

/-- The bank a context record holds. -/
def recordBank (r : List Byte) : Bank :=
  { x := (List.range 63).foldl (fun t i => tabSet 0 t (i + 1) (BitVec.ofNat 64 (recNat r (8 + 8 * i) 8))) []
    v := (List.range 32).foldl (fun t i => tabSet 0 t i (BitVec.ofNat 512 (recNat r (512 + 64 * i) 64))) []
    b := BitVec.ofNat 1024 (recNat r 2560 128)
    rc := BitVec.ofNat 16 (recNat r 2688 2) }

/-- The block ends (R217, R258, R274): every write in flight takes effect, open streams close, the
registers go to the context record in the thread's window, or to the firmware context area, and the
end event waits behind the X queue. -/
def endBlock (s : State) (c : Nat) : State :=
  let x := getCore s c
  let s := settle s c (max x.endCyc (x.cyc + 1))
  let t := coreThread s c
  let s := (List.range 16).foldl (fun s w => closeStream s c w) s
  let th := getThr s t
  let b := curBank (getCore s c)
  let s := if !isLighterCore c then { s with ik := { s.ik with ctx := tabSet Bank.empty s.ik.ctx t b } }
    else if 0 < th.winSize then winWrite s t 0 (contextRecord b) else s
  modCore s c (fun x => { x with phase := .ended t, bun := .empty, delay := 0, target := none, rep := none, first := false, cyc := max x.endCyc (x.cyc + 1) })

/-- Where the core goes after a legal bundle without an end syllable. -/
def advance (s : State) (c : Nat) (effs : List Eff) (words : Nat) : State :=
  let x := getCore s c
  let next := pcTo x.pc (x.pc.toNat + 4 * words)
  match callLat effs, x.target with
  | some l, some t => goTo (modCore s c (fun x => { x with target := none })) c (pcTo x.pc t) l
  | _, _ =>
    match effRep effs with
    | some 0 =>
      let s := modCore s c (fun x => { x with rep := none })
      match bundleLen s c next with
      | some n => goTo s c (pcTo next (next.toNat + 4 * n)) 2
      | none => faultNow s (coreThread s c) 1 next
    | some _ =>
      let s := goTo s c next 1
      modCore s c (fun x => { x with rep := x.rep.map (fun r => { r with bases := (curBank x).x }) })
    | none =>
      match x.rep with
      | some r =>
        if 1 < r.left then
          goTo (modCore s c (fun x => { x with rep := some { r with left := r.left - 1, iter := r.iter + 1 } })) c x.pc 1
        else
          let s := goTo (modCore s c (fun x => { x with rep := none })) c next 1
          match r.held with
          | some v => modCore s c (fun x => setCur x (bankWr (curBank x) (.rc v)))
          | none => s
      | none =>
        if x.delay = 1 then
          let s := modCore s c (fun x => { x with delay := 0, target := none })
          goTo s c (match x.target with | some t => pcTo x.pc t | none => next) 1
        else goTo (modCore s c (fun x => { x with delay := x.delay - 1 })) c next 1

/-- The last syllable of a bundle is there: an illegal bundle takes no effect and stops its thread
(R222); a legal one takes effect and the core goes on. A first block that asks for requirements
stops its thread (R257). -/
def commit (s : State) (c : Nat) : State :=
  let x := getCore s c
  let t := coreThread s c
  let s := modCore s c (fun x => { x with lastPc := x.pc })
  if !bundleLegal s c then faultNow s t 1 x.pc
  else
    let effs := x.bun.effs
    if x.first ∧ x.newThread ∧ 0 < effNreq effs then faultNow s t 2 x.pc
    else
      let s := effs.foldl (fun s e => doEff s c e) (dropRestored s c effs)
      if x.bun.hasEnd then endBlock s c else advance s c effs x.bun.words

/-- A running core of its kind takes a syllable: presented to a core that runs no block it is no
event. -/
def syl (s : State) (q : Syl) (unit exts : Nat) (ok : Bool) (k : SylKind) (effs : List Eff) : Res :=
  .next (match (getCore s q.core).phase with
    | .running _ =>
      let s := gather s q unit exts ok k effs
      if q.stop then commit s q.core else s
    | _ => s)

end Sys2Proof.Machine
end

