-- ==== Sys2Proof/Machine/IkM.lean ====
section
/-!
DEFINITION. The M units (Table 8.1): addressing modes, loads, stores, SWPD, AADDD, FENCE.
-/
namespace Sys2Proof.Machine

/-- Memory operations: a load, sign-extended or not, a store, or a vector access. -/
inductive MemOp where
  | load (size : Nat) (signed : Bool)
  | loadV
  | store (size : Nat)
  | storeV
  deriving DecidableEq, Repr

def memSize : MemOp → Nat
  | .load n _ | .store n => n
  | .loadV | .storeV => 64

def memVec : MemOp → Bool
  | .loadV | .storeV => true
  | _ => false

def memLat : MemOp → Nat
  | .load _ _ | .loadV => 4
  | _ => 2

/-- The fields of a short form are valid (R237, R238). -/
def memOk (op : MemOp) (f : MemF) : Bool :=
  (if f.mode = 3 then f.sc != 7 else f.sc == 0) && (!memVec op || !f.rt.getLsbD 5)

/-- The fields of a long form are valid. -/
def memLongOk (op : MemOp) (f : MemF) : Bool :=
  f.mode == 0 && f.sc == 0 && f.off6 == 0 && (!memVec op || !f.rt.getLsbD 5)

/-- OFF6 as a signed count of access sizes. -/
def offBytes (f : MemF) (size : Nat) : W64 := f.off6.signExtend 64 * BitVec.ofNat 64 size

/-- The base a syllable starts from: inside a repeat, modes 0b01 and 0b10 run on from the value at
the first iteration (R239). -/
def runBase (s : State) (c : Nat) (f : MemF) (size : Nat) : W64 :=
  match (getCore s c).rep with
  | some r => bankX { (curBank (getCore s c)) with x := r.bases } f.ra.toNat +
      (if f.mode = 1 then offBytes f size else -(offBytes f size)) * BitVec.ofNat 64 r.iter
  | none => rdX s c f.ra.toNat

/-- The address used (Table 7.7). -/
def memAddr (s : State) (c : Nat) (f : MemF) (size : Nat) : W64 :=
  match f.mode.toNat with
  | 0 => rdX s c f.ra.toNat + offBytes f size
  | 1 => runBase s c f size
  | 2 => runBase s c f size - offBytes f size
  | _ => rdX s c f.ra.toNat + rdX s c f.off6.toNat * BitVec.ofNat 64 (2 ^ f.sc.toNat)

/-- The base update (Table 7.7). -/
def baseEff (s : State) (c : Nat) (f : MemF) (size lat : Nat) : List Eff :=
  match f.mode.toNat with
  | 1 => [.wr lat (.x f.ra.toNat (runBase s c f size + offBytes f size))]
  | 2 => [.wr lat (.x f.ra.toNat (runBase s c f size - offBytes f size))]
  | _ => []

/-- The address as the core's memory takes it. -/
def coreAddr (a : W64) : Nat := a.toNat

/-- Sign or zero extension of loaded bytes. -/
def extLoad (size : Nat) (signed : Bool) (bs : List Byte) : W64 :=
  if signed then BitVec.ofInt 64 (laneInt (8 * size) (ofLe bs)) else BitVec.ofNat 64 (ofLe bs)

/-- The effects of an access at address `a`. -/
def accessEff (s : State) (c : Nat) (op : MemOp) (rt : Nat) (a : W64) : List Eff :=
  let t := (getCore s c).cyc
  match op with
  | .load n sg => [.wr 4 (.x rt (extLoad n sg (loadAt s c t (coreAddr a) n)))]
  | .loadV => [.wr 4 (.v rt (BitVec.ofNat 512 (ofLe (loadAt s c t (coreAddr a) 64))))]
  | .store n => (storeAt s c (coreAddr a) (leBytes n (rdX s c rt).toNat)).map (Eff.wr 2)
  | .storeV => (storeAt s c (coreAddr a) (leBytes 64 (rdV s c rt).toNat)).map (Eff.wr 2)

/-- A control core's access outside the fabric's map, or an unaligned atomic, is a control-thread
fault (R218, R240). -/
def accessFault (c : Nat) (a : W64) (size : Nat) (atomic : Bool) : Bool :=
  !isLighterCore c && (!fabricOk a.toNat size || (atomic && a.toNat % size != 0))

/-- A memory syllable of the short form. Where a load's register is also its updated base, the update stands, as the
later of the syllable's two writes (DESIGN CHOICE, log entry 69: R206 orders bundles and units only). -/
def memSyl (q : Syl) (f : MemF) (op : MemOp) (s : State) : Res :=
  let a := memAddr s q.core f (memSize op)
  if memOk op f && accessFault q.core a (memSize op) false then .next (ctrlFault s q.core)
  else syl s q (unitOf 0 q) 0 (memOk op f) .plain
    (accessEff s q.core op f.rt.toNat a ++ baseEff s q.core f (memSize op) (memLat op))

/-- A memory syllable of the long form: byte offset EXT[30:0], signed. -/
def memLong (q : Syl) (f : MemF) (ext : BitVec 31) (op : MemOp) (s : State) : Res :=
  let a := rdX s q.core f.ra.toNat + ext.signExtend 64
  if memLongOk op f && accessFault q.core a (memSize op) false then .next (ctrlFault s q.core)
  else syl s q (unitOf 0 q) 1 (memLongOk op f) .plain (accessEff s q.core op f.rt.toNat a)

/-- SWPD and AADDD: the location's old value to x[RT], the new value to the location, as one step. -/
def atomSyl (q : Syl) (f : MemF) (add : Bool) (s : State) : Res :=
  let c := q.core
  let ok := f.mode == 0 && f.sc == 0
  let a := rdX s c f.ra.toNat + offBytes f 8
  let old := extLoad 8 false (loadAt s c (getCore s c).cyc a.toNat 8)
  let new := if add then old + rdX s c f.rt.toNat else rdX s c f.rt.toNat
  if ok && accessFault c a 8 true then .next (ctrlFault s c)
  else syl s q (unitOf 0 q) 0 ok .plain
    ((storeAt s c a.toNat (leBytes 8 new.toNat)).map (Eff.wr 4) ++ [.wr 4 (.x f.rt.toNat old)])

def execLdb (q : Syl) (f : MemF) (s : State) : Res := memSyl q f (.load 1 true) s
def execLdbu (q : Syl) (f : MemF) (s : State) : Res := memSyl q f (.load 1 false) s
def execLdh (q : Syl) (f : MemF) (s : State) : Res := memSyl q f (.load 2 true) s
def execLdhu (q : Syl) (f : MemF) (s : State) : Res := memSyl q f (.load 2 false) s
def execLdw (q : Syl) (f : MemF) (s : State) : Res := memSyl q f (.load 4 true) s
def execLdwu (q : Syl) (f : MemF) (s : State) : Res := memSyl q f (.load 4 false) s
def execLdd (q : Syl) (f : MemF) (s : State) : Res := memSyl q f (.load 8 false) s
def execLdv (q : Syl) (f : MemF) (s : State) : Res := memSyl q f .loadV s
def execStb (q : Syl) (f : MemF) (s : State) : Res := memSyl q f (.store 1) s
def execSth (q : Syl) (f : MemF) (s : State) : Res := memSyl q f (.store 2) s
def execStw (q : Syl) (f : MemF) (s : State) : Res := memSyl q f (.store 4) s
def execStd (q : Syl) (f : MemF) (s : State) : Res := memSyl q f (.store 8) s
def execStv (q : Syl) (f : MemF) (s : State) : Res := memSyl q f .storeV s
def execSwpd (q : Syl) (f : MemF) (s : State) : Res := atomSyl q f false s
def execAaddd (q : Syl) (f : MemF) (s : State) : Res := atomSyl q f true s

/-- FENCE: accesses of this model complete in order, so it has no effect beyond its place in the
bundle. -/
def execFence (q : Syl) (f : MemF) (s : State) : Res :=
  syl s q (unitOf 0 q) 0 (f.rt == 0 && f.ra == 0 && f.mode == 0 && f.off6 == 0 && f.sc == 0) .plain []

def execLdbL (q : Syl) (f : MemF) (ext : BitVec 31) (s : State) : Res := memLong q f ext (.load 1 true) s
def execLdbuL (q : Syl) (f : MemF) (ext : BitVec 31) (s : State) : Res := memLong q f ext (.load 1 false) s
def execLdhL (q : Syl) (f : MemF) (ext : BitVec 31) (s : State) : Res := memLong q f ext (.load 2 true) s
def execLdhuL (q : Syl) (f : MemF) (ext : BitVec 31) (s : State) : Res := memLong q f ext (.load 2 false) s
def execLdwL (q : Syl) (f : MemF) (ext : BitVec 31) (s : State) : Res := memLong q f ext (.load 4 true) s
def execLdwuL (q : Syl) (f : MemF) (ext : BitVec 31) (s : State) : Res := memLong q f ext (.load 4 false) s
def execLddL (q : Syl) (f : MemF) (ext : BitVec 31) (s : State) : Res := memLong q f ext (.load 8 false) s
def execLdvL (q : Syl) (f : MemF) (ext : BitVec 31) (s : State) : Res := memLong q f ext .loadV s
def execStbL (q : Syl) (f : MemF) (ext : BitVec 31) (s : State) : Res := memLong q f ext (.store 1) s
def execSthL (q : Syl) (f : MemF) (ext : BitVec 31) (s : State) : Res := memLong q f ext (.store 2) s
def execStwL (q : Syl) (f : MemF) (ext : BitVec 31) (s : State) : Res := memLong q f ext (.store 4) s
def execStdL (q : Syl) (f : MemF) (ext : BitVec 31) (s : State) : Res := memLong q f ext (.store 8) s
def execStvL (q : Syl) (f : MemF) (ext : BitVec 31) (s : State) : Res := memLong q f ext .storeV s

end Sys2Proof.Machine
end

