-- ==== Sys2Proof/Machine/IkX.lean ====
section
/-!
DEFINITION. The X unit (Table 8.5): blocks and their ends, queued syllables, streams, feature reads.
-/
namespace Sys2Proof.Machine

/-- An X syllable. -/
def xSyl (q : Syl) (ok : Bool) (k : SylKind) (effs : List Eff) (s : State) : Res := syl s q 7 0 ok k effs

/-- An X syllable with a record of `len` bytes at x[RA]; a control core's record outside the fabric's
map is a control-thread fault (R218). -/
def xRec (q : Syl) (f : XopF) (len : Nat) (ok : Bool) (k : SylKind) (effs : List Eff) (s : State) : Res :=
  if ok && accessFault q.core (rdX s q.core f.ra.toNat) len false then .next (ctrlFault s q.core)
  else xSyl q ok k effs s

def noRb (f : XopF) : Bool := f.rb == 0 && f.sub == 0
def none3 (f : XopF) : Bool := f.ra == 0 && noRb f

def execBlock (q : Syl) (f : XopF) (s : State) : Res :=
  xSyl q (f.ra == 0 && f.rb == 0 && decide (f.sub.toNat ≤ 4)) .block [.block f.sub.toNat] s

/-- The requirements of a WAIT's list (Table 6.1, REQ). -/
def waitList (r : List Byte) (n : Nat) : List Nat := (List.range n).map (fun i => recNat r (8 * i) 8)

def reqOf (w : Nat) : Req := { channel := bitsOf w 0 23, count := bitsOf w 24 39 }

/-- No two entries name one channel. -/
def distinctChans : List Req → Bool
  | [] => true
  | r :: rs => !(rs.any (fun o => o.channel == r.channel)) && distinctChans rs

/-- A WAIT's list and next block are none R181 and R258 refuse. -/
def waitOk (s : State) (c : Nat) (ws : List Nat) (next : W64) : Bool :=
  ws.all (fun w => bitOf w 40 && bitsOf w 41 63 == 0 && bitsOf w 24 39 != 0) &&
    distinctChans (ws.map reqOf) &&
    (match blockNreq s c next with | some n => n == ws.length | none => true)

/-- WAIT: ends the block; refused with code 2 where R181 or R258 says so. -/
def execWait (q : Syl) (f : XopF) (s : State) : Res :=
  let n := f.sub.toNat
  let ws := waitList (recordAt s q.core f.ra.toNat (8 * n)) n
  let next := rdX s q.core f.rb.toNat
  xRec q f (8 * n) (decide (1 ≤ n) && decide (n ≤ 4)) .finish
    ((if waitOk s q.core ws next then [] else [Eff.fault 2 0]) ++ [.finish (.wait (ws.map reqOf) next)]) s

/-- YIELD: ends the block; the thread is ready at once. A next block with requirements is refused
with code 2. -/
def execYield (q : Syl) (f : XopF) (s : State) : Res :=
  let next := rdX s q.core f.rb.toNat
  let bad := match blockNreq s q.core next with | some n => n != 0 | none => false
  xSyl q (f.ra == 0 && f.sub == 0) .finish ((if bad then [Eff.fault 2 0] else []) ++ [.finish (.yield next)]) s

/-- EXIT: ends the thread. -/
def execExit (q : Syl) (f : XopF) (s : State) : Res := xSyl q (none3 f) .finish [.finish .exit] s

/-- POST: a quantity of 0 or above 65,535 is refused with code 3 (R259). -/
def execPost (q : Syl) (f : XopF) (s : State) : Res :=
  let ch := (rdX s q.core f.ra.toNat).toNat % 2 ^ 24
  let n := (rdX s q.core f.rb.toNat).toNat
  xSyl q (f.sub == 0) .plain (if n = 0 ∨ 65535 < n then [.fault 3 ch] else [.queue (.post ch n)]) s

/-- A record whose RESULT word breaks R256 is refused at the core with code 5. -/
def queueRec (s : State) (q : Syl) (result : Nat) (r : XReq) : List Eff :=
  if resultOk s (coreThread s q.core) result then [.queue r] else [.fault 5 0]

def execSpawn (q : Syl) (f : XopF) (s : State) : Res :=
  let r := recordAt s q.core f.ra.toNat 48
  xRec q f 48 (noRb f) .plain (queueRec s q (recNat r 40 8) (.spawn r)) s

def execDma (q : Syl) (f : XopF) (s : State) : Res :=
  xRec q f 32 (noRb f) .plain [.queue (.dma (recordAt s q.core f.ra.toNat 32))] s

/-- SOPEN, on lighter cores only. -/
def execSopen (q : Syl) (f : XopF) (s : State) : Res :=
  let r := recordAt s q.core f.ra.toNat 32
  xSyl q (isLighterCore q.core && noRb f) .plain (queueRec s q (recNat r 24 8) (.sopen r)) s

/-- SADV: hands back or commits half SUB[4] of window SUB[3:0]. -/
def execSadv (q : Syl) (f : XopF) (s : State) : Res :=
  xSyl q (isLighterCore q.core && f.ra == 0 && f.rb == 0 && decide (f.sub.toNat < 32)) .plain
    [.sadv (f.sub.toNat % 16) (f.sub.getLsbD 4)] s

/-- SCLOSE: closes window SUB[3:0] as at block end. -/
def execSclose (q : Syl) (f : XopF) (s : State) : Res :=
  xSyl q (isLighterCore q.core && f.ra == 0 && f.rb == 0 && decide (f.sub.toNat < 16)) .plain
    [.sclose f.sub.toNat] s

/-- SCAN: a Customs Scan request, whose record is that of Table 10.9. -/
def execScan (q : Syl) (f : XopF) (s : State) : Res :=
  let r := recordAt s q.core f.ra.toNat 80
  xRec q f 80 (noRb f) .plain (queueRec s q (recNat r 72 8) (.scan r)) s

/-- TIMER arm: SUB = 0, RA record. -/
def execTimerArm (q : Syl) (f : XopF) (s : State) : Res :=
  let r := recordAt s q.core f.ra.toNat 24
  xRec q f 24 (noRb f) .plain (queueRec s q (recNat r 16 8) (.timerArm r)) s

/-- TIMER cancel: SUB = 1, RB handle. -/
def execTimerCancel (q : Syl) (f : XopF) (s : State) : Res :=
  xSyl q (f.ra == 0 && f.sub == 1) .plain
    [.queue (.timerCancel ((rdX s q.core f.rb.toNat).toNat % 2 ^ 32))] s

def execPclr (q : Syl) (f : XopF) (s : State) : Res := xSyl q (none3 f) .plain [.queue .pclr] s

/-- RDFEAT: field [19:14] names RD, SUB[2:0] the feature register; latency 2. -/
def execRdfeat (q : Syl) (f : XopF) (s : State) : Res :=
  xSyl q (f.rb == 0 && decide (f.sub.toNat < 8)) .plain
    [.wr 2 (.x f.ra.toNat (feature s q.core f.sub.toNat))] s

end Sys2Proof.Machine
end

