-- ==== Sys2Proof/Machine/Admission.lean ====
section
/-!
DEFINITION. The admission check of Load Program (R277 to R279): the field rules of every syllable
as raw words (R222, R235 to R262), the sequence of bundles of an image, and Table 9.6.
-/
namespace Sys2Proof.Machine

/-! ### Fields of a syllable word -/

def wUnit (w : Nat) : Nat := bitsOf w 28 30
def wOp (w : Nat) : Nat := bitsOf w 20 27
def wLow (w : Nat) : Nat := bitsOf w 0 19

/-- Fields of an M syllable (R237, R238). -/
def rawMemOk (w : Nat) : Bool :=
  let op := wOp w
  let mode := bitsOf w 6 7
  if op < 0x68 then
    let k := op / 8
    (if mode = 3 then true else op % 8 == 0) && !((k == 7 || k == 12) && bitOf w 19)
  else if op = 0x68 ∨ op = 0x70 then mode == 0
  else if op = 0x78 then wLow w == 0
  else
    let k := (op - 0x80) / 8
    bitsOf w 0 7 == 0 && !((k == 7 || k == 12) && bitOf w 19)

/-- Fields of an I syllable (R241, Table 8.2). -/
def rawIntOk (w : Nat) (exts : List Nat) : Bool :=
  let op := wOp w
  let fn := bitsOf w 0 1
  let e0 := bitsOf (exts.headD 0) 0 30
  if op ≤ 0x10 then decide (fn ≤ 1)
  else if op ≤ 0x12 then fn == 0
  else if op ≤ 0x17 then decide (fn ≤ 1)
  else if op ≤ 0x1B then decide (fn ≤ 1) && bitsOf w 2 7 == 0
  else if op ≤ 0x23 then true
  else if op ≤ 0x26 then bitsOf w 6 7 == 0
  else if op = 0x28 then bitsOf w 14 19 == 0 && bitsOf w 0 7 == 0
  else if op = 0x29 then bitsOf w 8 13 == 0 && bitsOf w 0 7 == 0
  else if op = 0x32 then decide (bitsOf (exts.getLastD 0) 0 30 < 2 ^ 19)
  else if op = 0x34 then bitsOf w 12 13 == 0
  else if 0x48 ≤ op then bitsOf w 0 7 == 0 && decide (e0 < 2048)
  else true

/-- Fields of a V syllable (R244, Table 8.3). -/
def rawVecOk (w : Nat) : Bool :=
  let op := wOp w
  if 0x20 ≤ op then
    let et := bitsOf w 1 3
    let fn := bitsOf w 0 0
    let any := decide (et < 7)
    if op = 0x20 then any && fn == 0 && bitsOf w 10 14 == 0
    else if op = 0x21 then any
    else if op = 0x22 then any && (etInt et || fn == 1) && bitsOf w 15 19 == 0
    else if op = 0x25 then etInt et && fn == 0
    else etInt et
  else
    let et := bitsOf w 2 4
    let fn := bitsOf w 0 1
    let vb := bitsOf w 5 9
    let upTo (n : Nat) : Bool := (etInt et && decide (fn ≤ n)) || (etFloat et && fn == 0)
    let zero : Bool := et == 0 && fn == 0
    match op with
    | 0x00 | 0x01 | 0x02 => upTo 2
    | 0x03 => etFloat et && decide (fn ≤ 1)
    | 0x04 | 0x05 => upTo 1
    | 0x0A => etInt et && fn == 0
    | 0x0B | 0x0E => etInt et && decide (fn ≤ 1)
    | 0x0C => etInt et || (etFloat et && decide (fn ≤ 2))
    | 0x0F =>
      decide (vb < 7) && decide (et < 7) && decide (fn ≤ 1) && (fn == 0 || etWidth vb != etWidth et)
    | 0x10 => decide (et < 7) && decide (fn ≤ 2) && vb == 0
    | 0x11 => zero && vb == 0
    | _ => zero

/-- Fields of a B syllable (R247, Table 8.4). -/
def rawBrOk (w : Nat) (exts : List Nat) : Bool :=
  let op := wOp w
  let e0 := bitsOf (exts.headD 0) 0 30
  let bn := bitsOf w 8 19
  let triOne : Bool := bitsOf w 14 19 == 0 && bitsOf w 0 7 == 0
  match op with
  | 0x00 | 0x1A | 0x21 => wLow w == 0
  | 0x02 => triOne
  | 0x05 | 0x06 => bitsOf w 0 7 == 0
  | 0x08 | 0x09 | 0x0A => bitsOf w 0 7 == 0 && decide (bn < 2048)
  | 0x0B | 0x0C => decide (bn < 2048)
  | 0x10 => bitsOf w 0 3 == 0 && bitsOf e0 0 6 == 0 && decide (bn < 2048)
  | 0x18 => bitsOf e0 24 30 == 0
  | 0x19 => bitsOf e0 24 30 == 0 && triOne
  | 0x20 => bitsOf w 16 19 == 0
  | _ => true

/-- Fields of an X syllable (R255, Table 8.5). -/
def rawXOk (w : Nat) : Bool :=
  let sub := bitsOf w 0 7
  let ra := bitsOf w 14 19
  let rb := bitsOf w 8 13
  match wOp w with
  | 0x00 => ra == 0 && rb == 0 && decide (sub ≤ 4)
  | 0x01 => decide (1 ≤ sub) && decide (sub ≤ 4)
  | 0x02 => ra == 0 && sub == 0
  | 0x03 | 0x0F => wLow w == 0
  | 0x04 => sub == 0
  | 0x08 => ra == 0 && rb == 0 && decide (sub < 32)
  | 0x09 => ra == 0 && rb == 0 && decide (sub < 16)
  | 0x0B => rb == 0 && decide (sub < 8) && sub != 3 && sub != 7
  | 0x0C => rb == 0 && decide (sub < 4)
  | 0x0E => if sub = 0 then rb == 0 else sub == 1 && ra == 0
  | 0x10 => rb == 0 && decide (sub < 8)
  | _ => rb == 0 && sub == 0

/-- No reserved field of a syllable is set (R222). -/
def rawSylOk (e : Nat × List Nat) : Bool :=
  let u := wUnit e.1
  if u < 2 then rawMemOk e.1 else if u < 4 then rawIntOk e.1 e.2 else if u < 6 then rawVecOk e.1
  else if u = 6 then rawBrOk e.1 e.2 else rawXOk e.1

/-! ### The sequence of bundles -/

/-- How a bundle of the sequence ends: at a word count, illegal, or past CODELEN. -/
inductive BEnd where
  | ok | bad | past
  deriving DecidableEq, Repr

/-- A bundle of the sequence. -/
structure ABun where
  off   : Nat
  words : Nat
  syls  : List (Nat × List Nat)
  fin   : BEnd
  deriving DecidableEq, Repr

/-- The decoder of R222, telling a bundle that runs past CODELEN from one illegal on its own. -/
def scanFrom (code : List Byte) (off : Nat) : Nat → Nat → Option Nat → List (Nat × List Nat) → ABun
  | 0, n, _, acc => ⟨off, n, acc, .bad⟩
  | fuel + 1, n, last, acc =>
    if 16 ≤ n then ⟨off, n, acc, .bad⟩
    else if code.length < off + 4 * n + 4 then ⟨off, n, acc, .past⟩
    else
      let w := codeWord code (off + 4 * n)
      let u := wUnit w
      if (match last with | none => false | some l => decide (u ≤ l)) then ⟨off, n, acc, .bad⟩
      else match extCount true u (wOp w) with
        | none => ⟨off, n, acc, .bad⟩
        | some k =>
          if 0 < k ∧ bitOf w 31 then ⟨off, n, acc, .bad⟩
          else if code.length < off + 4 * min (n + 1 + k) 16 then ⟨off, n, acc, .past⟩
          else if 16 < n + 1 + k then ⟨off, n, acc, .bad⟩
          else
            let exts := (List.range k).map (fun j => codeWord code (off + 4 * (n + 1 + j)))
            if exts.dropLast.any (fun e => bitOf e 31) then ⟨off, n, acc, .bad⟩
            else
              let acc := acc ++ [(w, exts)]
              if (match exts.getLast? with | none => bitOf w 31 | some e => bitOf e 31) then ⟨off, n + 1 + k, acc, .ok⟩
              else scanFrom code off fuel (n + 1 + k) (some u) acc

/-- The sequence from offset `off`; it stops at a bundle the decoder cannot end. -/
def bundlesFrom (code : List Byte) : Nat → Nat → List ABun
  | 0, _ => []
  | fuel + 1, off =>
    if code.length ≤ off then []
    else
      let b := scanFrom code off 17 0 none []
      if b.fin = .ok then b :: bundlesFrom code fuel (off + 4 * b.words) else [b]

/-- A bundle holds a syllable of a unit with one of these opcodes. -/
def holds (b : ABun) (u : Nat) (ops : List Nat) : Bool :=
  b.syls.any (fun e => wUnit e.1 == u && ops.contains (wOp e.1))

def holdsBlock (b : ABun) : Bool := holds b 7 [0]
def holdsB (b : ABun) : Bool := b.syls.any (fun e => wUnit e.1 == 6 && wOp e.1 != 0)
/-- R249 and R254 on a delay bundle or the bundle after a REP. -/
def slotBad (b : ABun) : Bool := holdsB b || holds b 7 [0, 1, 2, 3]

/-- R222 on its own, with R249 on block ends beside the B unit. -/
def decodeBad (b : ABun) : Bool :=
  b.fin == .bad || b.syls.any (fun e => !rawSylOk e) || (holdsB b && holds b 7 [1, 2, 3])

/-- A number of `n` bits as a signed one. -/
def sext (n v : Nat) : Int := if 2 ^ (n - 1) ≤ v then (v : Int) - 2 ^ n else v

/-- The target of a syllable that names one, and whether it is a code address of LA. -/
def sylTarget (off : Nat) (e : Nat × List Nat) : Option (Int × Bool) :=
  let e0 := bitsOf (e.2.headD 0) 0 30
  let at_ (i : Int) (la : Bool) : Option (Int × Bool) := some (((off : Int) + 4 * i) % 2 ^ 32, la)
  if wUnit e.1 = 6 then
    match wOp e.1 with
    | 0x01 | 0x18 => at_ (sext 20 (wLow e.1)) false
    | 0x03 | 0x04 => at_ (sext 8 (bitsOf e.1 0 7)) false
    | 0x05 | 0x06 => at_ (sext 31 e0) false
    | _ => none
  else if (wUnit e.1 = 2 ∨ wUnit e.1 = 3) ∧ wOp e.1 = 0x33 then at_ (sext 45 (e0 * 2 ^ 14 + bitsOf e.1 0 13)) true
  else none

/-- The bundle at an offset. -/
def bunAt (bs : List ABun) (off : Int) : Option ABun := bs.find? (fun b => (b.off : Int) == off)

/-- The checks of a bundle with the bundles that follow it, as (word index, code) of each failure.
`two` says the bundle two before holds a BR or BRR. -/
def bunFails (len : Nat) (bs : List ABun) (b : ABun) (rest : List ABun) (two : Bool) : List (Nat × Nat) :=
  let w := b.off / 4
  let f (c : Bool) (w code : Nat) : List (Nat × Nat) := if c then [(w, code)] else []
  let targets := b.syls.filterMap (sylTarget b.off)
  let ends := b.fin == .ok && b.off + 4 * b.words == len
  let br := holds b 6 [1, 2, 3, 4, 5, 6]
  let rep := holds b 6 [0x20, 0x21]
  let falls := !(holds b 7 [1, 2, 3] || holds b 6 [0x1A] || two)
  f (decodeBad b) w 1 ++ f (b.fin == .past) w 2 ++
  f (targets.any (fun t => (bunAt bs t.1).isNone)) w 4 ++
  f (targets.any (fun t => !t.2 && (bunAt bs t.1).any holdsBlock)) w 5 ++
  f ((br && decide (rest.length < 2)) || (rep && rest.isEmpty)) w 6 ++
  (if br then ((rest.take 2).map (fun d => f (slotBad d) (d.off / 4) 6)).flatten else []) ++
  (if rep then ((rest.take 1).map (fun d => f (slotBad d) (d.off / 4) 6)).flatten else []) ++
  f (falls && b.fin == .ok && (ends || (rest.head?).any holdsBlock)) w 7

/-- The failures of a sequence; `prev` are the two bundles before. -/
def seqFails (len : Nat) (all : List ABun) : List ABun → Bool → Bool → List (Nat × Nat)
  | [], _, _ => []
  | b :: rest, two, one => bunFails len all b rest two ++ seqFails len all rest one (holds b 6 [1, 2])

/-- ENTRY is a bundle address whose BLOCK has NREQ 0. -/
def entryOk (bs : List ABun) (entry : Nat) : Bool :=
  (bunAt bs entry).any (fun b => b.syls.any (fun e => wUnit e.1 == 7 && wOp e.1 == 0 && bitsOf e.1 0 2 == 0))

/-- The lowest failure: word index first, then code. -/
def lowestFail : List (Nat × Nat) → Option (Nat × Nat)
  | [] => none
  | e :: es =>
    match lowestFail es with
    | none => some e
    | some m => if e.1 < m.1 ∨ (e.1 = m.1 ∧ e.2 ≤ m.2) then some e else some m

/-- The admission check: dword 0 of the rejection, or none where the image is admitted. -/
def admission (code : List Byte) (entry : Nat) : Option Nat :=
  let bs := bundlesFrom code (code.length / 4 + 1) 0
  let fs := seqFails code.length bs bs false false ++ (if entryOk bs entry then [] else [(entry / 4, 3)])
  (lowestFail fs).map (fun e => e.2 + e.1 * 256)

end Sys2Proof.Machine
end

