-- ==== Sys2Proof/Machine/Programs.lean ====
section
/-!
DEFINITION. Program images and subsystem local memory: Load Program, Program Activation Management,
Execute Program, Memory Range Set Management, Memory Read and Write (R220, R228 to R231, R517, R518).
-/
namespace Sys2Proof.Machine

/-- The owner of a function's program indexes: a tenant, or the physical function's own table. -/
def progOwner (fn : Nat) : Nat := if fn = 0 then 1025 else tenantOf fn

def imageBy (s : State) (owner index : Nat) : Option Image :=
  s.prog.images.find? (fun i => i.owner == owner && i.index == index)

/-- The header checks of R229 on an image of Table 7.13. -/
def headerOk (b : List Byte) : Bool :=
  let codelen := recNat b 8 4
  let wsize := recNat b 17 1
  let datalen := recNat b 20 4
  decide (64 ≤ b.length) && b.take 4 == [0x49, 0x4B, 0x58, 0x50] && recNat b 4 2 == 1 && recNat b 6 2 == 0 &&
    codelen % 4 == 0 && decide (4 ≤ codelen) && decide (codelen ≤ 1048576) && decide (recNat b 12 4 < codelen) &&
    decide (1 ≤ wsize) && decide (wsize ≤ 64) && decide (recNat b 16 1 + wsize ≤ 128) && decide (recNat b 18 1 ≤ 7) &&
    recNat b 19 1 != 0 && decide (datalen + 3072 + 4096 ≤ wsize * 4096) &&
    recNat b 24 8 % 2 ^ 48 == 0 && decide (recNat b 24 8 < 2 ^ 50) && recNat b 32 28 == 0 &&
    b.length == 64 + codelen + datalen && recNat b 60 4 == crc32c (b.take 60 ++ b.drop 64)

/-- The image an admitted load places. -/
def imageOf (b : List Byte) (handle owner index base : Nat) : Image :=
  { handle := handle, owner := owner, index := index, base := base, code := (b.drop 64).take (recNat b 8 4),
    data := b.drop (64 + recNat b 8 4), entry := recNat b 12 4, wbase := recNat b 16 1, wsize := recNat b 17 1,
    prio := recNat b 18 1, cmask := recNat b 19 1, reqfeat := recNat b 24 8, active := false }

/-- First fit in the 8 MiB of a code store (R220): offset 0 or the end of an image. -/
def fits (l : List Image) (n base : Nat) : Bool :=
  decide (base + n ≤ 8388608) && l.all (fun i => decide (base + n ≤ i.base) || decide (i.base + i.code.length ≤ base))
def firstFit (l : List Image) (n : Nat) : Option Nat :=
  ((0 :: l.map (fun i => i.base + i.code.length)).filter (fits l n)).foldl (fun m b => match m with | none => some b | some a => some (min a b)) none

/-- The next handle not in use (R229). -/
def freeImageHandle (s : State) (l : List Image) : Option Nat :=
  (lowestFrom (fun k => !l.any (fun i => i.handle == (s.prog.nextHandle - 1 + k) % 65535 + 1)) 65535 0).map
    (fun k => (s.prog.nextHandle - 1 + k) % 65535 + 1)

/-- An image is in use (R230). -/
def imageBusy (s : State) (i : Image) : Bool :=
  i.active ||
  s.hm.threads.any (fun t => t.2.state != 0 && t.2.space == i.owner && decide (t.1 < 65536) && bitsOf t.2.entry.toNat 32 47 == i.handle) ||
  s.ik.cores.any (fun c => decide (c.1 < 256) && (match c.2.phase with
    | .running t => (getThr s t).space == i.owner && bitsOf c.2.pc.toNat 32 47 == i.handle
    | _ => false))

/-- The STATE body of an image (Table 14.14). -/
def imageState (handle owner index sel : Nat) (b : List Byte) : List Byte :=
  leBytes 2 handle ++ leBytes 2 owner ++ leBytes 2 index ++ leBytes 1 sel ++ List.replicate 9 0 ++ b

/-- An image is placed. -/
def placeImage (s : State) (l : List Image) (i : Image) : State :=
  { s with prog := { s.prog with images := l ++ [i], nextHandle := i.handle % 65535 + 1 } }

/-- Load Program, load (R229, R230, R277): header, in-use, space, admission. -/
def loadProgram (s : State) (a : Adm) (ptype pindex : Nat) (b : List Byte) : State :=
  let owner := progOwner a.fn
  let old := imageBy s owner pindex
  let rest := s.prog.images.filter (fun i => !(i.owner == owner && i.index == pindex))
  if 255 < pindex then adminFail s a .invalidField
  else if ptype ≠ 0xF0 then adminFail s a .invalidProgramType
  else if !headerOk b then adminFail s a .invalidProgramData
  else if old.any (imageBusy s) then adminFail s a .commandSequenceError
  else match firstFit rest (recNat b 8 4), freeImageHandle s rest with
    | some base, some h =>
      match admission ((b.drop 64).take (recNat b 8 4)) (recNat b 12 4) with
      | some dw0 => adminDone s a .invalidProgramData dw0 .none
      | none =>
        mirrorState (placeImage s rest (imageOf b h owner pindex base)) 4 0 (imageState h owner pindex 0 b) (.adm a 0)
    | _, _ => adminFail s a .insufficientProgramResources

def execLoadProgramLoad (a : Adm) (ptype pindex : Nat) (image : List Byte) (s : State) : Res :=
  admin s a (loadProgram s a ptype pindex image)

/-- Load Program, unload (R230). -/
def unloadProgram (s : State) (a : Adm) (pindex : Nat) : State :=
  let owner := progOwner a.fn
  match imageBy s owner pindex with
  | some i =>
    if 255 < pindex then adminFail s a .invalidField
    else if imageBusy s i then adminFail s a .commandSequenceError
    else mirrorState { s with prog := { s.prog with images := s.prog.images.filter (fun j => !(j.owner == owner && j.index == pindex)) } }
      4 0 (imageState i.handle owner pindex 1 []) (.adm a 0)
  | none => adminFail s a .invalidField

def execLoadProgramUnload (a : Adm) (pindex : Nat) (s : State) : Res := admin s a (unloadProgram s a pindex)

/-- Program Activation Management. -/
def setActive (s : State) (a : Adm) (pindex : Nat) (on : Bool) : State :=
  let owner := progOwner a.fn
  if 255 < pindex then adminFail s a .invalidField
  else if (imageBy s owner pindex).isNone then adminFail s a .noProgram
  else adminOk { s with prog := { s.prog with images := s.prog.images.map (fun i => if i.owner = owner ∧ i.index = pindex then { i with active := on } else i) } } a

def execProgramActivate (a : Adm) (pindex : Nat) (s : State) : Res := admin s a (setActive s a pindex true)
def execProgramDeactivate (a : Adm) (pindex : Nat) (s : State) : Res := admin s a (setActive s a pindex false)

/-- FEAT2 bits [49:48] as a program's REQFEAT is held against them. -/
def featHigh (s : State) : Nat := 2 ^ 48 + b2n (s.tally.miUp && s.pair.state == 1) * 2 ^ 49

/-- Command dword 2 of Execute Program: the program index, and the memory range set, 0 for none (PRESUMED,
log entry 57). -/
def execIndex (q : Sqe) : Nat := q.dw2.toNat % 65536
def execRange (q : Sqe) : Nat := q.dw2.toNat / 65536

/-- A memory range set of the function exists. -/
def hasRangeSet (s : State) (fn rsid : Nat) : Bool := s.prog.ranges.any (fun r => r.fn == fn && r.rsid == rsid)

/-- A memory range set is in use: a command in flight executes with it. -/
def rangeInUse (s : State) (fn rsid : Nat) : Bool :=
  s.host.dockets.any (fun e => e.2.fn == fn && e.2.remote.isNone && e.2.sqe.kind == .executeProgram && e.2.started && execRange e.2.sqe == rsid)

/-- Execute Program (R231, R518): its first thread is created. -/
def executeProgram (s : State) (d : Nat) (params : List Byte) : State :=
  let e := getDk s d
  let space := tenantOf e.fn
  let idx := execIndex e.sqe
  let rsid := execRange e.sqe
  let s := modDk s d (fun e => { e with started := true })
  if e.fn = 0 ∨ dget s (0x6000 + space) 2 = 0 then ioFail s d (.vendor 0x82)
  else if 255 < idx ∨ 4096 < params.length then ioFail s d .invalidField
  else match imageBy s space idx with
    | none => ioFail s d .noProgram
    | some i =>
      if !i.active then ioFail s d .programNotActivated
      else if rsid ≠ 0 ∧ !hasRangeSet s e.fn rsid then ioFail s d .invalidRangeSetId
      else if i.reqfeat &&& featHigh s ≠ i.reqfeat then ioFail s d .invalidField
      else if dget s (0x6000 + space) 0x20 ≤ (threadsOf s space).length then ioFail s d (.vendor 0x87)
      else match freeThread s false with
        | none => ioFail s d (.vendor 0x87)
        | some t =>
          createThread s t space i.prio i.cmask i.wbase i.wsize (BitVec.ofNat 64 (i.handle * 2 ^ 32 + i.entry)) none (some d)
            { data := i.data ++ params, x1 := BitVec.ofNat 64 (i.wbase * 4096 + 3072 + i.data.length), x2 := BitVec.ofNat 64 params.length }

def execExecuteProgram (d : Nat) (params : List Byte) (s : State) : Res := io s d .executeProgram (executeProgram s d params)

/-! ### Subsystem local memory -/

/-- Bytes of SLM a function may reach; the physical function none. -/
def slmOf (s : State) (fn : Nat) : Nat := if fn = 0 then 0 else slmSize s (tenantOf fn)

/-- Two of the ranges share a byte. -/
def rangesOverlap : List (Nat × Nat) → Bool
  | [] => false
  | r :: l => l.any (fun x => decide (x.1 < r.1 + r.2) && decide (r.1 < x.1 + x.2)) || rangesOverlap l

/-- Why a memory range set is refused (statuses of the Subsystem Local Memory command set, PRESUMED, log
entry 57): a range that is empty or outside the lease, too many ranges, ranges that overlap, too many sets. -/
def rangeRefusal (s : State) (fn : Nat) (ranges : List (Nat × Nat)) : Option Status :=
  if ranges.isEmpty ∨ ranges.any (fun r => decide (r.2 = 0) || decide (slmOf s fn < r.1 + r.2)) then some .invalidMemoryRangeSet
  else if max 1 Config.maxRanges < ranges.length then some .rangesExceeded
  else if rangesOverlap ranges then some .overlappingRanges
  else if max 1 Config.maxRangeSets ≤ (s.prog.ranges.filter (fun r => r.fn == fn)).length then some .rangeSetsExceeded
  else none

/-- Memory Range Set Management: create answers the identifier, delete removes a set that nothing uses. -/
def rangeSet (s : State) (a : Adm) (create : Bool) (rsid : Nat) (ranges : List (Nat × Nat)) : State :=
  if create then
    match rangeRefusal s a.fn ranges with
    | some st => adminFail s a st
    | none =>
      adminDone { s with prog := { s.prog with ranges := s.prog.ranges ++ [⟨a.fn, s.prog.nextRsid, ranges⟩], nextRsid := s.prog.nextRsid + 1 } }
        a .success s.prog.nextRsid .none
  else if !hasRangeSet s a.fn rsid then adminFail s a .invalidRangeSetId
  else if rangeInUse s a.fn rsid then adminFail s a .rangeSetInUse
  else adminOk { s with prog := { s.prog with ranges := s.prog.ranges.filter (fun r => !(r.fn == a.fn && r.rsid == rsid)) } } a

def execMemoryRangeSetManagement (a : Adm) (create : Bool) (rsid : Nat) (ranges : List (Nat × Nat)) (s : State) : Res :=
  admin s a (rangeSet s a create rsid ranges)

/-- The namespace a memory command names is one of another command set (R47). The manual gives the memory of
a lease no NSID: any that is no namespace of this module names it (log entry 57). -/
def notMemory (s : State) (q : Sqe) : Bool := (getNs s q.nsid).live

/-- Memory Read: `slba` is the first byte, `nlb` the bytes. -/
def memoryRead (s : State) (d : Nat) : State :=
  let e := getDk s d
  if notMemory s e.sqe then ioFail s d .invalidOpcode
  else if slmOf s e.fn < e.sqe.slba + e.sqe.nlb then ioFail s d (.vendor 0x82)
  else ioDone s d .success 0 0 (.bytes (slmRead s (tenantOf e.fn) e.sqe.slba e.sqe.nlb))

/-- Memory Write commits once all data is in SLM. -/
def memoryWrite (s : State) (d : Nat) (data : List Byte) : State :=
  let e := getDk s d
  if notMemory s e.sqe then ioFail s d .invalidOpcode
  else if slmOf s e.fn < e.sqe.slba + e.sqe.nlb then ioFail s d (.vendor 0x82)
  else if data.length ≠ e.sqe.nlb then ioFail s d .dataTransferError
  else ioOk (slmWrite s (tenantOf e.fn) e.sqe.slba data) d

def execMemoryRead (d : Nat) (s : State) : Res := io s d .memoryRead (memoryRead s d)
def execMemoryWrite (d : Nat) (data : List Byte) (s : State) : Res := io s d .memoryWrite (memoryWrite s d data)

end Sys2Proof.Machine
end

