-- ==== Sys2Proof/Machine/PairForm.lean ====
section
/-!
DEFINITION. Forming and dissolving a pair, and Pair Control (R362 to R366, R381, R383).
-/
namespace Sys2Proof.Machine

/-! ### What role A copies to role B, and each module of its namespaces (R365, Tables 14.5 and 14.6) -/

/-- A record travels to the partner in a JREC of its own. -/
def sendRec (s : State) (r : JRec) : State :=
  hawSend s 0x20 r.nsid 1 0 (leBytes 8 r.jsn ++ leBytes 8 0 ++ recBytes (logical r))

/-- The namespaces of this module. -/
def sendNamespaces (s : State) : State :=
  (s.media.cur.nss.filter (fun e => e.2.live && e.2.home == 0)).foldl (fun s e =>
    (createRec e.1 e.2 :: e.2.attached.map (fun c => jrec 0x32 e.1 c 0 0 0)).foldl (fun s r => sendRec s { r with jsn := s.media.jsn }) s) s

/-- The STATE items of a key slot: its assignment, then its key. -/
def slotItems (mk : List Byte) (i : Nat) (k : KeySlot) : List StateItem :=
  { kind := 1, nsid := 0, body := slotState i 2 0 (match k.tenant with | some t => t | none => 0x7FF) [] } ::
    (if k.kind = 0 then [] else [{ kind := 1, nsid := 0, body := slotState i 0 k.kind 0 (keyWrap mk k.key) }])

/-- The image of Table 7.13 that was loaded. -/
def imageBytes (i : Image) : List Byte :=
  let head := [0x49, 0x4B, 0x58, 0x50] ++ leBytes 2 1 ++ leBytes 2 0 ++ leBytes 4 i.code.length ++ leBytes 4 i.entry ++ leBytes 1 i.wbase ++
    leBytes 1 i.wsize ++ leBytes 1 i.prio ++ leBytes 1 i.cmask ++ leBytes 4 i.data.length ++ leBytes 8 i.reqfeat ++ List.replicate 28 0
  head ++ leBytes 4 (crc32c (head ++ i.code ++ i.data)) ++ i.code ++ i.data

/-- Tenants whose record holds a value of its own. -/
def leasedTenants (s : State) : List Nat :=
  ((s.dict.filter (fun e => decide (0x6000 ≤ e.1 / 256) && decide (e.1 / 256 < 0x6400))).map (fun e => e.1 / 256 - 0x6000)).dedup

/-- Mirrored state as STATE items. -/
def mirrorItems (s : State) : List StateItem :=
  (s.eng.slots.map (fun e => slotItems (s.eng.moduleKey.getD []) e.1 e.2)).flatten ++
    (s.media.nsKeys.filter (fun e => (getNs s e.1).live)).map (fun e => { kind := 2, nsid := e.1, body := keyBody s e.1 (getNs s e.1).keyGen }) ++
    s.prog.images.map (fun i => { kind := 4, nsid := 0, body := imageState i.handle i.owner i.index 0 (imageBytes i) }) ++
    ((leasedTenants s).map (fun t => [0, 1, 2, 3, 4].map (fun k =>
      ({ kind := 5, nsid := 0, body := leBytes 4 (t + k * 65536) ++ leBytes 4 (leaseNow s t k) ++ leBytes 8 0 } : StateItem)))).flatten

def sendItems (s : State) (l : List StateItem) : State := l.foldl (fun s i => sendState s i .none) s

/-! ### Formation and its end -/

/-- The module is in a pair, In step with epoch 1, which role A set; its namespaces are non-mirrored
and homed here. -/
def formPair (s : State) (role serial dieA : Nat) : State :=
  let s := { s with media := { s.media with
      cur := { s.media.cur with nss := s.media.cur.nss.map (fun e => (e.1, { e.2 with mirror := false, home := 0 })) }
      peerLog := [], peerJsn := 0, peerBeat := 0, peerLost := 0, partnerAck := 0 } }
  let s := peerArea s true
  let s := setEpoch (persist (persist s 0x8000 2 role) 0x8000 0xA serial) 1 1
  let s := pairTo s 1 (fun p => { p with
    stale := [], split := false, yielded := false, refused := false, takeover := none, heldRecs := [], heldStates := [],
    lapsed := [], dieA := dieA, peerEpoch := 1, peerSetter := 1 })
  sendNamespaces (sendHello s)

/-- A namespace leaves without a record for the partner: detached, its commands cancelled. -/
def dropNamespace (s : State) (n : Nat) : State :=
  let at_ := (getNs s n).attached
  let s := forgetNs (cancelOn s n .invalidNamespaceOrFormat) n
  let s := dropKey (journalQuiet s (jrec 0x31 n 0 0 0 0 :: nsLotRecs (newestMap s) n)) n
  attributeChanged s n ((0 :: at_).dedup)

/-- Namespaces homed on the partner leave; the module is Single. -/
def dissolvePair (s : State) : State :=
  let gone := (nsids s).filter (fun n => (getNs s n).home ≠ 0)
  let s := gone.foldl (fun s n => dropNamespace s n) s
  let s := peerArea (setEpoch (persist s 0x8000 2 0) 0 0) false
  pairTo s 0 (fun p => { p with stale := [], split := false, yielded := false, refused := false, heldRecs := [], heldStates := [], lapsed := [] })

/-! ### Pair Control (R364, R366) -/

/-- The operation, when OP is the row's own and the reserved fields are 0; a reserved OP or field is
refused, and another operation's record is another row's command. -/
def pairControl (op : Nat) (a : Adm) (dw10 : W32) (rest : List W32) (s : State) (run : State) : Res :=
  let o := bitsOf dw10.toNat 0 2
  adminPf s a (
    if o ≠ op ∧ o ≠ 0 ∧ o ≠ 7 then s
    else if o ≠ op ∨ bitsOf dw10.toNat 3 31 ≠ 0 ∨ rest.any (· != 0) then adminFail s a .invalidField
    else run)

/-- Command Sequence Error with a reason of Table 14.2. -/
def pairRefuse (s : State) (a : Adm) (reason : Nat) : State := adminDone s a .commandSequenceError reason .none

/-- The reason FORM is refused, in the order of Table 14.2. -/
def formRefusal (s : State) (p : PartnerInfo) : Option Nat :=
  if s.pair.state ≠ 0 ∨ !p.single then some 1
  else if !linkUp s ∨ !s.pair.aliveIn ∨ !p.accept then some 2
  else if s.eng.moduleKey.isNone ∨ p.kcv ≠ some (dget s 0x7050 3) then some 3
  else if p.slots ≠ Config.slotsPerPage ∨ p.pages ≠ Config.pagesPerBlock ∨ p.spb ≠ Config.slotsPerPage * Config.pagesPerBlock ∨ p.firmware ≠ fwRevOf s then some 4
  else if p.nsids.any (fun n => decide (n ≤ 2048)) ∨ (nsids s).any (fun n => decide (2048 < n)) then some 5
  else if !p.clean then some 6
  else none

def pairForm (s : State) (a : Adm) (p : PartnerInfo) : State :=
  match formRefusal s p with
  | some r => pairRefuse s a r
  | none =>
    let s := formPair s 1 (ofLe (p.serial.take 16)) (dget s 0x1000 5)
    adminOk (sendItems s (mirrorItems s)) a

def execPairForm (a : Adm) (dw10 : W32) (dw11to15 : List W32) (partner : PartnerInfo) (s : State) : Res :=
  pairControl 1 a dw10 dw11to15 s (pairForm s a partner)

def pairDissolve (s : State) (a : Adm) : State :=
  if s.pair.state ≠ 1 then pairRefuse s a 1
  else if (nsids s).any (fun n => (getNs s n).mirror) then pairRefuse s a 7
  else adminOk (sendHello (dissolvePair s)) a

def execPairDissolve (a : Adm) (dw10 : W32) (dw11to15 : List W32) (s : State) : Res :=
  pairControl 2 a dw10 dw11to15 s (pairDissolve s a)

def setFence (s : State) (on : Bool) : State := { s with pair := { s.pair with fenceOut := on } }

def execPairFence (a : Adm) (dw10 : W32) (dw11to15 : List W32) (s : State) : Res :=
  pairControl 3 a dw10 dw11to15 s (if s.pair.state = 0 then pairRefuse s a 1 else adminOk (takeoverEnd (setFence s true)) a)

def execPairRelease (a : Adm) (dw10 : W32) (dw11to15 : List W32) (s : State) : Res :=
  pairControl 4 a dw10 dw11to15 s (if !s.pair.fenceOut then pairRefuse s a 1 else adminOk (setFence s false) a)

/-- TAKEOVER completes at the end of Table 14.7. -/
def pairTakeover (s : State) (a : Adm) : State :=
  if s.pair.state ≠ 2 ∨ s.pair.taking.isSome then pairRefuse s a 1
  else if s.pair.aliveIn then pairRefuse s a 8
  else takeoverStart { s with pair := { s.pair with takeAdm := some a } } true

def execPairTakeover (a : Adm) (dw10 : W32) (dw11to15 : List W32) (s : State) : Res :=
  pairControl 5 a dw10 dw11to15 s (pairTakeover s a)

/-- Mirrored namespaces. -/
def mirroredNs (s : State) : List Nat := (nsids s).filter (fun n => (getNs s n).mirror)

/-- YIELD; with the link up the rejoin starts with a HELLO. -/
def pairYield (s : State) (a : Adm) : State :=
  if !s.pair.split ∧ s.pair.stale.isEmpty then pairRefuse s a 8
  else
    let s := reAna s (fun s => { s with pair := { s.pair with stale := mirroredNs s } })
    let s := setEpoch s 0 0
    let s := { s with pair := { s.pair with yielded := true, split := false } }
    adminOk (if linkUp s then sendHello s else s) a

def execPairYield (a : Adm) (dw10 : W32) (dw11to15 : List W32) (s : State) : Res :=
  pairControl 6 a dw10 dw11to15 s (pairYield s a)

end Sys2Proof.Machine
end

