-- ==== Sys2Proof/Machine/PairLink.lean ====
section
/-!
DEFINITION. The hawser link in service: flits, sub-links, BEAT and HELLO, rejoin and resynchronisation,
the alive and fence lines, the lone start (R367 to R374, R378 to R386, R471).
-/
namespace Sys2Proof.Machine

/-! ### Flits (R368) -/

/-- A flit is valid, but for its place in the sequence: its length, its check word, no reserved value. -/
def flitFormed (b : List Byte) : Bool :=
  let ty := recNat b 0 1
  let len := recNat b 2 2
  b.length == 256 && recNat b 252 4 == crc32c (b.take 252) && decide (ty ≤ 1) && decide (recNat b 1 1 < 4) &&
    (if ty = 0 then len == 0 else decide (1 ≤ len) && decide (len ≤ 240))

def mtypes : List Nat := [0x01, 0x02, 0x10, 0x11, 0x20, 0x21, 0x22, 0x30, 0x31, 0x32, 0x33, 0x40, 0x41]

/-- A counted discard of a flit or message. -/
def badFlit (s : State) : State := bump s 0x8010 4 1

/-- A message flit in order: its bytes join the message received; a whole message of reserved MTYPE is
discarded. What a message of any other type does is that message's own command. -/
def takeFlit (s : State) (k : Nat) (b : List Byte) : State :=
  let l := getSub s k
  let inbox := (if bitOf (recNat b 1 1) 0 then [] else l.inbox) ++ (b.drop 8).take (recNat b 2 2)
  let eom := bitOf (recNat b 1 1) 1
  let s := setSub s k { l with recvSeq := recNat b 4 4, inbox := if eom then [] else inbox }
  if eom && !mtypes.contains (recNat inbox 0 1) then badFlit s else s

/-- The link's sub-link is up. -/
def subUp (s : State) (k : Nat) : Bool := decide (k < 2) && (getSub s k).up

def noteValid (s : State) : State := { s with pair := { s.pair with lastFlit := s.nowMs } }

def receiveFlit (s : State) (k : Nat) (b : List Byte) : State :=
  let msg := recNat b 0 1 == 1
  if !flitFormed b ∨ (msg ∧ recNat b 4 4 ≠ ((getSub s k).recvSeq + 1) % 2 ^ 32) then badFlit s
  else
    let s := ackTo (noteValid s) k (recNat b 248 4)
    if msg then takeFlit s k b else s

def execFlitReceive (sub : Nat) (flit : List Byte) (s : State) : Res := .next (when (subUp s sub) s (receiveFlit s sub flit))

def execFlitReplay (sub : Nat) (s : State) : Res :=
  .next (when (subUp s sub && !(getSub s sub).held.isEmpty) s (replay s sub))

/-- A message that arrived on a sub-link: one whose length or reserved bytes are wrong is discarded and
counted, one whose MSEQ was applied before is discarded (R369, R371). `pre` is what the message waits
for. -/
def message (s : State) (k : Nat) (h : MsgHdr) (formed pre : Bool) (f : State → State) : Res :=
  .next (when (subUp s k && (pre || !formed || !fresh s h)) s
    (if !formed then badFlit (noteValid s)
     else if !fresh s h then noteValid s
     else f (seen (noteValid s) h)))

/-- A body of exactly `n` bytes whose bytes from `r` to below `e` are reserved. -/
def bodyOk (h : MsgHdr) (body : List Byte) (n r e : Nat) : Bool :=
  h.len == body.length && body.length == n && ((body.drop r).take (e - r)).all (· == 0)

/-! ### Resynchronisation (R384) -/

/-- A write entry of the lock table covers part of a map unit. -/
def unitLocked (s : State) (u : UnitRef) : Bool :=
  let k := unitLbas (getNs s u.nsid).lbaf
  s.host.dockets.any (fun e => e.2.locks.any (fun l => l.write && l.nsid == u.nsid && decide (l.lo < (u.unit + 1) * k) && decide (u.unit * k ≤ l.hi)))

/-- The bytes a copy carries; of a unit that cannot be read, bytes left open. -/
def copyBytes (s : State) (u : UnitRef) : List Byte :=
  match locate s u.nsid u.unit with
  | .uncorr => leBytes (4096 * unitSlots (getNs s u.nsid).lbaf) (drawn s)
  | .broken => leBytes (4096 * unitSlots (getNs s u.nsid).lbaf) (drawn s)
  | _ => unitData s u.nsid u.unit

/-- A copy of `n` bytes would hold nothing up on its sub-link: no message waits there for room, and all of its
flits have it, so mirrored data always goes ahead (R26). -/
def copyRoom (s : State) (nsid n : Nat) : Bool :=
  match subFor s nsid with
  | some k => (getSub s k).queue.isEmpty && decide ((getSub s k).held.length + ceilDiv (32 + n) 240 ≤ 2048)
  | none => false

/-- The next unit that no write holds is copied, one at a time. -/
def copyNext (s : State) : State :=
  if s.pair.state ≠ 4 ∨ !s.pair.copies.isEmpty ∨ !linkUp s then s
  else match takeFirst (fun u => !unitLocked s u && copyRoom s u.nsid (4096 * unitSlots (getNs s u.nsid).lbaf)) s.pair.resync with
    | none => s
    | some (u, rest) =>
      let k := unitLbas (getNs s u.nsid).lbaf
      let seq := s.pair.mseq
      let s := hawSend s 0x40 u.nsid (k - 1) (u.unit * k) (copyBytes s u)
      draw { s with pair := { s.pair with resync := rest, copies := [(seq, u)] } }

/-- Both modules are done: the module takes the partner's epoch if that is higher, and is In step. -/
def inStep (s : State) : State :=
  let s := if pairEpoch s < s.pair.peerEpoch then setEpoch s s.pair.peerEpoch s.pair.peerSetter else s
  pairTo s 1 (fun p => { p with yielded := false })

/-- Namespaces with nothing left to copy are done; once all are, the partner hears it by a HELLO that
names Resynchronising (log entry 47), and a module with no stale mark is In step. -/
def settleCopies (s : State) : State :=
  let left (n : Nat) : Bool := s.pair.resync.any (fun u => u.nsid == n) || s.pair.copies.any (fun c => c.2.nsid == n)
  let keep := s.pair.copying.filter left
  let ended := !s.pair.copying.isEmpty && keep.isEmpty
  let s := reAna s (fun s => { s with pair := { s.pair with copying := keep } })
  let s := if ended then sendHello s else s
  if s.pair.state = 4 ∧ keep.isEmpty ∧ s.pair.stale.isEmpty then inStep s else copyNext s

/-- Every unit of a namespace: of a zoned one, those its write pointers cover. -/
def allUnits (s : State) (nsid : Nat) : List Nat :=
  let n := getNs s nsid
  if n.zoned then
    ((s.media.cur.zones.filter (fun e => e.1 / 2 ^ 24 == nsid)).map (fun e =>
      (List.range (e.2.wp / unitSlots n.lbaf)).map (· + e.1 % 2 ^ 24 * (zoneSize / unitSlots n.lbaf)))).flatten
  else List.range (n.nsze / unitLbas n.lbaf)

/-- The ring of the peer log has overwritten the record that the partner last saw acknowledged (R116). -/
def peerOverrun (s : State) : Bool := decide (s.media.peerBeat < s.media.peerLost)

/-- The units R116 names: those marked RESYNC, and those of the partner's records that no BEAT of this
module has acknowledged. Zoned namespaces, whose zones hold no mark, and all after a yield or where the peer
log has lost records, whole. -/
def unitsToCopy (s : State) (whole : Bool) (nsid : Nat) : List UnitRef :=
  let marked : List Nat := (s.media.cur.map.filter (fun e => e.1 / 2 ^ 48 == nsid && mResync e.2)).map (fun e => e.1 % 2 ^ 48)
  let named : List Nat := ((s.media.peerLog.filter (fun r => r.nsid == nsid && decide (s.media.peerBeat < r.jsn))).map (fun r =>
    (List.range r.count).map (fun i => i + r.unit))).flatten
  (if whole ∨ (getNs s nsid).zoned then allUnits s nsid else (marked ++ named).dedup).map (fun u => ⟨nsid, u⟩)

/-- The records that drop every RESYNC mark of the mirrored namespaces (R383). -/
def dropMarks (s : State) : List JRec :=
  (s.media.cur.map.filter (fun e => mResync e.2 && (getNs s (e.1 / 2 ^ 48)).mirror)).map (fun e => wordRec (e.1 / 2 ^ 48) (e.1 % 2 ^ 48) (e.2 - 2 ^ 46))

/-- What was held for the partner is sent (R117, R327, R375). -/
def sendHeld (s : State) : State :=
  let rs := s.pair.heldRecs
  let items := s.pair.heldStates
  sendItems (rs.foldl sendRec { s with pair := { s.pair with heldRecs := [], heldStates := [] } }) items

/-- The zones of the zoned namespaces to be copied whole: each is emptied, then takes its state. -/
def sendZones (s : State) (cur : List Nat) : State :=
  (s.media.cur.zones.filter (fun e => cur.contains (e.1 / 2 ^ 24))).foldl (fun s e =>
    let n := e.1 / 2 ^ 24
    let z := e.1 % 2 ^ 24
    sendRec (sendRec s { zstateRec n z Zone.empty with jsn := s.media.jsn }) { zstateRec n z e.2 with jsn := s.media.jsn }) s

/-- Rejoin, with the namespaces this module is current for (R384). -/
def rejoin (s : State) (cur : List Nat) (epoch setter : Nat) (theyYielded : Bool) : State :=
  let s := sendHeld (sendHello s)
  let whole := theyYielded || s.pair.yielded || peerOverrun s
  let s := if s.pair.yielded then journalOp s (dropMarks s) else s
  let units := (cur.map (unitsToCopy s whole)).flatten
  let stale := (mirroredNs s).filter (fun n => !cur.contains n)
  let s := pairTo s 4 (fun p => { p with
    copying := cur, resync := units, copies := [], stale := stale, split := false, refused := false, peerEpoch := epoch, peerSetter := setter })
  let s := sendZones s cur
  settleCopies { s with power := { s.power with bootWait := 0 } }

/-! ### HELLO (R382, Table 14.8) -/

/-- The module the HELLO comes from holds the same key, geometry and firmware. -/
def helloMatches (s : State) (h : MsgHdr) (b : List Byte) : Bool :=
  recNat b 24 4 == dget s 0x7050 3 && recNat b 28 1 == Config.slotsPerPage % 256 && recNat b 30 2 == Config.pagesPerBlock % 65536 &&
    recNat b 32 4 == Config.slotsPerPage * Config.pagesPerBlock % 2 ^ 32 && h.aux64 == fwRevOf s % 2 ^ 64

/-- Nothing of R365 that role B must not hold. -/
def cleanForB (s : State) : Bool :=
  s.eng.slots.all (fun e => e.2.kind == 0) && s.prog.images.isEmpty && (nsids s).all (fun n => decide (2048 < n)) &&
    s.dict.all (fun e => !(decide (0x6000 ≤ e.1 / 256) && decide (e.1 / 256 < 0x6400) && [2, 3, 4, 5, 6, 0xC, 0xD].contains (e.1 % 256)))

/-- Table 14.8. -/
def compareEpochs (s : State) (b : List Byte) : State :=
  let epoch := recNat b 36 4
  let setter := recNat b 40 1
  let yielded := bitOf (recNat b 42 1) 1
  let ms := mirroredNs s
  if epoch < pairEpoch s then rejoin s ms epoch setter yielded
  else if pairEpoch s < epoch then rejoin s [] epoch setter yielded
  else if setter = pairSetter s then rejoin s (ms.filter (fun n => (getNs s n).home = 0)) epoch setter yielded
  else
    let s := { s with pair := { s.pair with split := true, refused := false } }
    if pairRole s = 2 then reAna s (fun s => { s with pair := { s.pair with stale := ms } }) else s

def hello (s : State) (h : MsgHdr) (b : List Byte) : State :=
  let serial := recNat b 0 16
  let epoch := recNat b 36 4
  if s.pair.state = 0 then
    when (h.aux32 == 1 && epoch == 1 && dget s 0x8000 3 == 1 && s.eng.moduleKey.isSome && helloMatches s h b && cleanForB s) s
      (formPair s 2 serial (recNat b 16 8))
  else if s.pair.state = 1 then when (h.aux32 == 0 && epoch == 0 && serial == dget s 0x8000 0xA) s (dissolvePair s)
  else if s.pair.state = 4 then
    when (recNat b 41 1 == 4) s
      (let s := reAna s (fun s => { s with pair := { s.pair with stale := [], peerEpoch := epoch, peerSetter := recNat b 40 1 } })
       if s.pair.copying.isEmpty then inStep s else s)
  else if serial ≠ dget s 0x8000 0xA ∨ !helloMatches s h b then { s with pair := { s.pair with refused := true } }
  else compareEpochs s b

def helloFormed (h : MsgHdr) (b : List Byte) : Bool :=
  bodyOk h b 64 43 64 && recNat b 29 1 == 0 && decide (recNat b 42 1 < 4)

def execHello (sub : Nat) (h : MsgHdr) (body : List Byte) (s : State) : Res :=
  message s sub h (helloFormed h body) true (fun s => hello s h body)

/-! ### BEAT (R371, R372) -/

/-- BEAT_SEND; a copy that waited for a write goes on. -/
def execBeatSend (s : State) : Res := .next (when (linkUp s) s (copyNext (sendBeat s)))

/-- A BEAT acknowledges records: what waited for them completes. -/
def beat (s : State) (h : MsgHdr) : State :=
  settleAdm { s with media := { s.media with partnerAck := max s.media.partnerAck h.aux64 } }

def execBeat (sub : Nat) (h : MsgHdr) (body : List Byte) (s : State) : Res :=
  message s sub h (bodyOk h body 8 5 8) true (fun s => beat s h)

/-! ### Sub-links (R369, R372, R471) -/

def subLost (s : State) (k : Nat) : State :=
  let s := moveMessages (setSub (bump s 0x8010 1 1) k { (getSub s k) with up := false }) k
  if linkUp s then s else linkLost s

def execSublinkLoss (sub : Nat) (s : State) : Res := .next (when (subUp s sub) s (subLost s sub))

/-- Both sub-links train from boot step 4 on. -/
def canTrain (s : State) (k : Nat) : Bool := decide (k < 2) && !(getSub s k).up && decide (4 ≤ s.power.bootStep) && !s.power.dumping

/-- A sub-link comes up; where the whole link had been lost, the modules of a pair exchange HELLO. -/
def subTrained (s : State) (k : Nat) : State :=
  let first := !linkUp s
  let s := setSub s k { SubLink.down with up := true }
  if !first then s
  else
    let s := { s with pair := { s.pair with mseqIn := [] } }
    if pairRole s = 0 then s else sendHello s

def execSublinkTrained (sub : Nat) (s : State) : Res := .next (when (canTrain s sub) s (subTrained s sub))

/-- The 1 s retry of a sub-link that is down: it trains, or stays down. -/
def execSublinkTrainRetry (sub : Nat) (trained : Bool) (s : State) : Res :=
  .next (when (canTrain s sub && trained) s (subTrained s sub))

/-! ### Alive and fence (R373, R374, R378 to R381) -/

def execAliveInLow (s : State) : Res :=
  .next (when (s.pair.aliveIn && !s.pair.aliveFault) s (partnerLost { s with pair := { s.pair with aliveIn := false } }))

/-- ALIVE_FAULT: the line reads low while BEATs arrive. -/
def execAliveFault (s : State) : Res :=
  .next (when (!s.pair.aliveIn && !s.pair.aliveFault && linkUp s) s
    (bump { s with pair := { s.pair with aliveFault := true } } 0x8010 7 1))

def execAliveInHigh (s : State) : Res :=
  .next (when (!s.pair.aliveIn || s.pair.aliveFault) s { s with pair := { s.pair with aliveIn := true, aliveFault := false, aliveAt := s.nowMs } })

/-- FENCE_DELAY_EXPIRY: 5 ms after detection, role B. -/
def execFenceDelayExpiry (s : State) : Res :=
  .next (when (s.pair.taking.any (fun t => decide (t.time + 5 ≤ s.nowMs)) && pairRole s == 2 && !s.pair.fenceOut) s (takeoverEnd (setFence s true)))

/-- AUTO_FENCE: Link lost with ALIVE_IN high has lasted its time, 5 ms more on role B. -/
def execAutoFence (s : State) : Res :=
  let t := dget s 0x8000 5
  .next (when (s.pair.state == 2 && s.pair.aliveIn && t != 0 && !s.pair.fenceOut && s.power.bootWait == 0 &&
      decide (max s.pair.lastChange s.pair.aliveAt + t + (if pairRole s = 2 then 5 else 0) ≤ s.nowMs)) s
    (setFence s true))

/-! ### Lone start (R386) -/

/-- The marks a lone start sets: none after Survivor, those of the partner's namespaces after In step or
Link lost, else all. -/
def loneStale (s : State) : List Nat :=
  match dget s 0x8000 9 with
  | 3 => []
  | 1 => (mirroredNs s).filter (fun n => (getNs s n).home ≠ 0)
  | 2 => (mirroredNs s).filter (fun n => (getNs s n).home ≠ 0)
  | _ => mirroredNs s

def loneStart (s : State) : State :=
  let survivor := dget s 0x8000 9 == 3
  let stale := loneStale s
  let s := pairTo { s with power := { s.power with bootWait := 0 } } 2 (fun p => { p with stale := stale })
  if survivor ∧ dget s 0x8000 4 = 1 then takeoverStart s true else s

/-- LONE_START: 10 s after the map restore neither a BEAT nor ALIVE_IN high has come. -/
def execLoneStart (s : State) : Res :=
  .next (when (s.power.bootWait == 3 && !linkUp s && !s.pair.aliveIn && decide (s.pair.lastChange + 10000 ≤ s.nowMs)) s (loneStart s))

end Sys2Proof.Machine
end

