-- ==== Sys2Proof/Machine/PairMsgs.lean ====
section
/-!
DEFINITION. The messages that carry writes, records, mirrored state, forwarded commands and copies
(R115, R116, R371, R375 to R377, R384).
-/
namespace Sys2Proof.Machine

/-! ### Commands that come from the partner -/

/-- A docket entry for a command from the partner can be opened. -/
def canAdmit (s : State) (d : Nat) (q : Sqe) : Bool :=
  (s.pair.state == 1 || s.pair.state == 4) && (getNs s q.nsid).live && decide (d < 262144) && !dkUsed s d &&
    decide (locksUsed s + (locksOf s q).length ≤ 16384)

/-- A forwarded command is executed as its own row would execute it (R377). -/
def runForwarded (s : State) (d : Nat) : State :=
  let e := getDk s d
  let s := modDk s d (fun e => { e with data := [] })
  match e.sqe.kind with
  | .write => onNs s d e.data (fun s => startWrite s d e.data)
  | .zoneAppend => onNs s d e.data (fun s => startWrite s d e.data)
  | .writeZeroes => onNs s d [] (fun s => startWrite s d [])
  | .writeUncorrectable => onNs s d [] (fun s => startWrite s d [])
  | .read => onNs s d [] (fun s => startRead s d [])
  | .verify => onNs s d [] (fun s => startRead s d [])
  | .compare => onNs s d e.data (fun s => startRead s d e.data)
  | .datasetManagement => onNs s d [] (fun s => dsm s d)
  | .copy => onNs s d [] (fun s => copyCmd s d)
  | .zoneOpen => onNs s d [] (fun s => zoneSend s d)
  | .zoneClose => onNs s d [] (fun s => zoneSend s d)
  | .zoneFinish => onNs s d [] (fun s => zoneSend s d)
  | .zoneReset => onNs s d [] (fun s => zoneSend s d)
  | .zoneOffline => onNs s d [] (fun s => zoneSend s d)
  | .resvReport => reportResv s d
  | .resvRegister => resv s d e
  | .resvAcquire => resv s d e
  | .resvRelease => resv s d e
  | _ => ioFail s d .invalidOpcode
where
  resv (s : State) (d : Nat) (e : Docket) : State :=
    match resvOf e.sqe.kind (sqeDw e.sqe 10) e.data with
    | some act => resvRow s d true act
    | none => ioFail s d .invalidField

/-- A mirrored write runs this module's own steps (R376); read-only media takes none, and it gets no MACK
(R148, log entry 68). -/
def runMirrored (s : State) (d : Nat) : State :=
  let data := (getDk s d).data
  if s.media.readOnly then flushCheck (dkFree s d)
  else startWrite (modDk s d (fun e => { e with started := true, data := [] })) d data

/-- An entry that came from the partner runs once it is not stalled. -/
def runFromPartner (s : State) (d : Nat) : State :=
  let e := getDk s d
  if e.stalled then s
  else if e.mirrorOf.isSome then runMirrored s d
  else if e.remote.isSome then runForwarded s d
  else s

/-- LOCK_STALL_RELEASE. -/
def execLockStallRelease (d : Nat) (s : State) : Res :=
  .next (when (dkUsed s d && (getDk s d).stalled && !lockBlocked s (getDk s d)) s
    (runFromPartner (modDk s d (fun e => { e with stalled := false })) d))

/-! ### MWRITE and MACK (R376) -/

/-- The command an MWRITE carries; one with no opcode of a write is malformed. A zoned write goes to
the LBA the primary assigned. -/
def mwriteSqe (h : MsgHdr) (b : List Byte) : Option Sqe :=
  let dw := (List.range 4).map (fun i => BitVec.ofNat 32 (recNat b (4 + 4 * i) 4))
  let q : Sqe := { emptySqe with cid := recNat b 2 2, nsid := h.nsid, slba := h.aux64, nlb := h.aux32 + 1, dw := BitVec.ofNat 32 h.aux64 :: BitVec.ofNat 32 (h.aux64 / 2 ^ 32) :: dw }
  match recNat b 0 1 with
  | 0x01 => some { q with kind := .write }
  | 0x7D => some { q with kind := .write }
  | 0x19 => some { q with kind := .write }
  | 0x08 => some { q with kind := .writeZeroes, flag := bitOf (recNat b 4 4) 25 }
  | 0x04 => some { q with kind := .writeUncorrectable }
  | _ => none

def mwriteFormed (s : State) (h : MsgHdr) (b : List Byte) : Bool :=
  match mwriteSqe h b with
  | some q => bodyOk h b (32 + (if q.kind = .write then q.nlb * lbaBytes (getNs s h.nsid).lbaf else 0)) 22 32
  | none => false

/-- The entry's function number of a mirrored write: none of this module's (log entry 48). -/
def mirrorFn : Nat := 4500

def mwrite (s : State) (d : Nat) (h : MsgHdr) (b : List Byte) : State :=
  match mwriteSqe h b with
  | some q => runFromPartner (modDk (openDocket s d mirrorFn 0 0 q) d (fun e => { e with mirrorOf := some h.seq, data := b.drop 32 })) d
  | none => s

def execMwrite (sub docket : Nat) (h : MsgHdr) (body : List Byte) (s : State) : Res :=
  message s sub h (mwriteFormed s h body)
    (match mwriteSqe h body with | some q => canAdmit s docket q && (getNs s h.nsid).mirror | none => true)
    (fun s => mwrite s docket h body)

/-- The RESYNC marks of units are cleared by MAP records (R116). -/
def clearMarks (s : State) (us : List UnitRef) : State :=
  let m := newestMap s
  let rs := (us.filter (fun u => !(getNs s u.nsid).zoned && mResync (mapWord m u.nsid u.unit))).map (fun u =>
    wordRec u.nsid u.unit (mapWord m u.nsid u.unit - 2 ^ 46))
  if rs.isEmpty then s else journalOp s rs

/-- MACK: the write it names commits where it only waited for it; a late one clears its marks. -/
def mack (s : State) (h : MsgHdr) : State :=
  match s.pair.awaiting.find? (fun x => x.1 == h.aux64) with
  | some (_, d) =>
    let s := modDk { s with pair := { s.pair with awaiting := s.pair.awaiting.filter (fun x => x.1 != h.aux64) } } d (fun e => { e with acked := true })
    takeoverEnd (if commitReady s d then writeCommit s d else s)
  | none =>
    let us := ((s.pair.lapsed.filter (fun x => x.1 == h.aux64)).map Prod.snd).flatten
    clearMarks { s with pair := { s.pair with lapsed := s.pair.lapsed.filter (fun x => x.1 != h.aux64) } } us

def execMack (sub : Nat) (h : MsgHdr) (body : List Byte) (s : State) : Res :=
  message s sub h (bodyOk h body 0 0 0) true (fun s => mack s h)

/-! ### JREC (R115) -/

/-- The records of a JREC body (Table 14.13), with the sender's numbers. -/
def jrecs (h : MsgHdr) (b : List Byte) : List JRec :=
  (List.range h.aux32).map (fun i => recOf ((b.drop (16 + 32 * i)).take 32) (recNat b 0 8 + i))

/-- A partner's zone state becomes this module's, whose own lot and write pointer stay; an emptied zone
loses them. -/
def partnerZone (s : State) (r : JRec) : State :=
  let m := newestMap s
  let v := getZone m r.nsid r.unit
  let zs := bitsOf r.aux 0 3
  if (getNs s r.nsid).home = 0 ∨ !(getNs s r.nsid).mirror ∨ s.pair.copying.contains r.nsid ∨ v.zs = zs then s
  else if zs = 1 ∨ zs = 0xF then journalQuiet s (zstateRec r.nsid r.unit { Zone.empty with zs := zs } :: unbindRecs m v)
  else journalQuiet s [zstateRec r.nsid r.unit { v with zs := zs }]

/-- A partner's namespace is seen from here: its home is the other module. -/
def flipHome (r : JRec) : JRec :=
  { r with entry := if bitsOf r.entry 24 31 = 0 then r.entry + 2 ^ 24 else r.entry - 2 ^ 24 }

/-- FORMAT reaches the data this module holds. -/
def partnerFormat (s : State) (nsid : Nat) : State :=
  if (getNs s nsid).mirror ∨ (getNs s nsid).home = 0 then
    let s := forgetNs (dropCommitted s nsid) nsid
    journalQuiet s (jrec 0x05 nsid 0 0 0 0 :: nsLotRecs (newestMap s) nsid)
  else s

/-- Records the peer log of 8 GiB holds (Table 3.10, log entry 68). -/
def peerRecs : Nat := 2 ^ 33 / 32
/-- A record joins the peer log, a ring: the oldest are overwritten. -/
def keepPeer (s : State) (r : JRec) : State :=
  let l := s.media.peerLog ++ [r]
  let drop := l.length - peerRecs
  { s with media := { s.media with
      peerLog := l.drop drop
      peerLost := match (l.take drop).getLast? with | some x => x.jsn + 1 | none => s.media.peerLost } }

/-- One record: the namespace table, zone states and FORMAT are applied, every map record is kept in
the peer log. -/
def takeRec (s : State) (r : JRec) : State :=
  let s := { s with media := { s.media with peerJsn := max s.media.peerJsn r.jsn } }
  match r.typ with
  | 0x30 => journalQuiet s [flipHome { r with jsn := 0 }]
  | 0x31 => dropNamespace s r.nsid
  | 0x32 => attributeChanged (journalQuiet s [{ r with jsn := 0 }]) r.nsid [0, r.unit].dedup
  | 0x12 => partnerZone s r
  | 0x05 => partnerFormat (keepPeer s r) r.nsid
  | _ => keepPeer s r

def execJrec (sub : Nat) (h : MsgHdr) (body : List Byte) (s : State) : Res :=
  message s sub h (bodyOk h body (16 + 32 * h.aux32) 8 16) (s.pair.state != 0) (fun s => (jrecs h body).foldl takeRec s)

/-! ### STATE and SACK (R375, Table 14.14) -/

def stateFormed (h : MsgHdr) (b : List Byte) : Bool :=
  match h.aux32 with
  | 1 => bodyOk h b (16 + recNat b 6 1) 7 16 && [0, 24, 40].contains (recNat b 6 1)
  | 2 => bodyOk h b 80 0 0
  | 3 => bodyOk h b (64 + 64 * recNat b 5 2) 0 0
  | 4 => bodyOk h b b.length 7 16 && decide (16 ≤ b.length) && (recNat b 6 1 == 0 || b.length == 16)
  | 5 => bodyOk h b 16 8 16
  | 6 => bodyOk h b 8 4 8
  | _ => false

/-- A key slot operation. -/
def stateSlot (s : State) (b : List Byte) : State :=
  let slot := recNat b 0 2
  let op := recNat b 2 1
  let c := commitAt s 3 (slotLine slot)
  if op = 0 then
    match s.eng.moduleKey.bind (fun mk => keyUnwrap mk (b.drop 16)) with
    | some key => slotOp c slot 0 (recNat b 3 1) 0 key
    | none => s
  else slotOp c slot op 0 (recNat b 4 2) []

/-- A controller of the partner, or this module's own that it names, and the host behind it. -/
def partnerFn (c : Nat) : Nat := if 5000 ≤ c then c - 5000 else c + 5000
def partnerHost (fn host : Nat) : Nat := if host < 65536 then 2 ^ 128 + partnerFn fn else host

/-- The reservation of a Reservation Status data structure. -/
def stateResv (n : Ns) (b : List Byte) : Ns :=
  let one (i : Nat) : List Byte := (b.drop (64 + 64 * i)).take 64
  let regs := (List.range (recNat b 5 2)).map (fun i =>
    ({ fn := partnerFn (recNat (one i) 0 2), host := partnerHost (recNat (one i) 0 2) (recNat (one i) 16 16), key := BitVec.ofNat 64 (recNat (one i) 8 8) } : Registrant))
  let typ := recNat b 4 1
  let held := (List.range (recNat b 5 2)).find? (fun i => bitOf (recNat (one i) 2 1) 0)
  { n with
    regs := regs, resvGen := recNat b 0 4, resvType := typ, persist := bitOf (recNat b 9 1) 0
    resvHolder := if typ = 0 then none else (held.bind (fun i => regs[i]?)).map (·.host) }

/-- An image is admitted under the same handle, or removed. -/
def stateImage (s : State) (b : List Byte) : State :=
  let owner := recNat b 2 2
  let index := recNat b 4 2
  let rest := s.prog.images.filter (fun i => !(i.owner == owner && i.index == index))
  let img := b.drop 16
  if recNat b 6 1 = 1 then { s with prog := { s.prog with images := rest } }
  else match firstFit rest (recNat img 8 4) with
    | some base => placeImage s rest (imageOf img (recNat b 0 2) owner index base)
    | none => s

/-- A namespace's key, wrapped under the module key. -/
def stateKey (s : State) (nsid : Nat) (b : List Byte) : State :=
  if (getNs s nsid).live then
    match s.eng.moduleKey.bind (fun mk => keyUnwrap mk (b.drop 8)) with
    | some k => modNs (loadKey s nsid k) nsid (fun n => { n with keyGen := recNat b 0 8 })
    | none => s
  else s

def applyState (s : State) (h : MsgHdr) (b : List Byte) : State :=
  match h.aux32 with
  | 1 => stateSlot s b
  | 2 => stateKey s h.nsid b
  | 3 => if (getNs s h.nsid).live then modNs s h.nsid (fun n => stateResv n b) else s
  | 4 => stateImage s b
  | 5 => leaseApply s (bitsOf (recNat b 0 4) 0 9) (bitsOf (recNat b 0 4) 16 18) (recNat b 4 4)
  | _ => if (getNs s h.nsid).live then modNs s h.nsid (fun n => { n with compress := bitOf (recNat b 0 4) 0 }) else s

/-- STATE: the item is applied and acknowledged. -/
def execState (sub : Nat) (h : MsgHdr) (body : List Byte) (s : State) : Res :=
  message s sub h (stateFormed h body) (s.pair.state != 0) (fun s => hawSend (applyState s h body) 0x22 h.nsid 0 h.seq [])

/-- SACK: what waited for the STATE completes. -/
def sack (s : State) (h : MsgHdr) : State :=
  match s.pair.states.find? (fun x => x.1 == h.aux64) with
  | some (_, dn) => finishState { s with pair := { s.pair with states := s.pair.states.filter (fun x => x.1 != h.aux64) } } dn
  | none => s

def execSack (sub : Nat) (h : MsgHdr) (body : List Byte) (s : State) : Res :=
  message s sub h (bodyOk h body 0 0 0) true (fun s => sack s h)

/-! ### Forwarded commands (R371, R377) -/

/-- The entry's function number of a forwarded command: none of this module's (log entry 48). -/
def remoteFn (ctrl : Nat) : Nat := 5000 + ctrl

def fwdcmd (s : State) (d : Nat) (h : MsgHdr) (q : Sqe) (data : List Byte) : State :=
  runFromPartner (modDk (openDocket s d (remoteFn h.aux32) 0 0 q) d (fun e => { e with remote := some h.aux64, data := data })) d

def execFwdcmd (sub docket : Nat) (h : MsgHdr) (sqe : Sqe) (data : List Byte) (s : State) : Res :=
  message s sub h (h.len == 64 + data.length && sqe.nsid == h.nsid) (canAdmit s docket sqe) (fun s => fwdcmd s docket h sqe data)

/-- The status a forwarded command completes with here: one that the executing module cancelled takes the
status of the party that asked (R61). -/
def forwardedStatus (s : State) (tag : Nat) (st : Status) : Status :=
  match s.pair.cancels.find? (fun c => c.1 == tag) with
  | some (_, some x) => if st = .abortRequested then x else st
  | _ => st

/-- A forwarded command cancelled by the freeze of its queue is counted in the freeze's record. -/
def countCancelled (s : State) (d : Nat) (st : Status) : State :=
  let e := getDk s d
  if st = .vendor 0x80 then modSq s e.fn e.sqid (fun q => { q with freeze := q.freeze.map (fun z => { z with cancelled := z.cancelled + 1 }) })
  else s

/-- FWDCPL: the forwarded command completes. -/
def fwdcpl (s : State) (h : MsgHdr) (st : Status) (dw0 dw1 : Nat) (data : List Byte) : State :=
  match s.pair.fwd.find? (fun x => x.1 == h.aux64) with
  | some (_, d) =>
    let st := forwardedStatus s h.aux64 st
    let s := { s with pair := { s.pair with fwd := s.pair.fwd.filter (fun x => x.1 != h.aux64), cancels := s.pair.cancels.filter (fun c => c.1 != h.aux64) } }
    flushCheck (if dkUsed s d then ioDone (countCancelled s d st) d st dw0 dw1 (bytesOr data) else s)
  | none => s

def execFwdcpl (sub : Nat) (h : MsgHdr) (status : Status) (dw0 dw1 : W32) (data : List Byte) (s : State) : Res :=
  message s sub h (h.len == 16 + data.length) true (fun s => fwdcpl s h status dw0.toNat dw1.toNat data)

/-- FWDABT: the Abort is settled at the state word here, and answered. -/
def fwdabt (s : State) (h : MsgHdr) : State :=
  match s.host.dockets.find? (fun e => e.2.remote == some h.aux64) with
  | some (d, e) =>
    if e.word = .admitted then hawSend (dkAbort s d .abortRequested) 0x33 h.nsid 0 h.aux64 []
    else hawSend s 0x33 h.nsid 1 h.aux64 []
  | none => hawSend s 0x33 h.nsid 1 h.aux64 []

def execFwdabt (sub : Nat) (h : MsgHdr) (body : List Byte) (s : State) : Res :=
  message s sub h (bodyOk h body 0 0 0) true (fun s => fwdabt s h)

/-- FWDABTR answers the oldest FWDABT of its tag: its bit 0 is a forwarded Abort's dword 0 bit 0. -/
def fwdabtr (s : State) (h : MsgHdr) : State :=
  match takeFirst (fun x => x.1 == h.aux64) s.pair.aborts with
  | some ((_, some a), rest) => abortDone { s with pair := { s.pair with aborts := rest } } a (!bitOf h.aux32 0)
  | some ((_, none), rest) => { s with pair := { s.pair with aborts := rest } }
  | none => s

def execFwdabtr (sub : Nat) (h : MsgHdr) (body : List Byte) (s : State) : Res :=
  message s sub h (bodyOk h body 0 0 0 && decide (h.aux32 < 2)) true (fun s => fwdabtr s h)

/-! ### RSCOPY and RSACK (R384) -/

/-- The tag of a landed slot of no command: each copied unit takes a write sequence of its own (log
entry 68). -/
def ownTag (s : State) (nsid unit zone total k : Nat) : Tag :=
  { nsid := nsid, unit := unit, zone := zone, ljsn := s.media.jsn, cseq := s.media.cseq, cpos := k, last := k + 1 == total
    pstart := false, pcont := false, dump := false }

def nextSeq (s : State) : State := { s with media := { s.media with cseq := (s.media.cseq + 1) % 2 ^ 32 } }

/-- A copied unit of a device-mapped namespace is landed. -/
def landCopy (s : State) (nsid u : Nat) (b : List Byte) : State :=
  let n := ceilDiv b.length 4096
  let r := landSpot s 1 n
  let s := nextSeq (putSlots r.2 r.1 nsid b (u * unitSlots (getNs s nsid).lbaf) (fun k => ownTag s nsid u 0xFFFFFFFF n k))
  journalOp s [wordRec nsid u (storedWord r.1 true false false)]

/-- A copied 4 KiB unit of a zone is landed, its zone bound to a lot of this module's. -/
def landZoned (s : State) (nsid z o : Nat) (b : List Byte) : State :=
  let v := getZone (newestMap s) nsid z
  let lot := if v.lotv then some v.lot else freeLot s (newestMap s)
  match lot with
  | none => s
  | some l =>
    let r := landSpot (draw s) 1 1
    let s := nextSeq (putSlots r.2 r.1 nsid b (z * zoneSize + o) (fun k => ownTag s nsid o z 1 k))
    journalQuiet s [zstateRec nsid z { lot := l, lotv := true, zs := if v.zs = 1 then 2 else v.zs, wp := max v.wp (o + 1) }, jrec 0x10 nsid o 1 r.1 z]

/-- A map unit from the partner. -/
def storeCopy (s : State) (nsid u : Nat) (b : List Byte) : State :=
  if (getNs s nsid).zoned then
    let k := unitSlots (getNs s nsid).lbaf
    (List.range k).foldl (fun s i => landZoned s nsid ((u * k + i) / zoneSize) ((u * k + i) % zoneSize) ((b.drop (4096 * i)).take 4096)) s
  else landCopy s nsid u b

def rscopy (s : State) (h : MsgHdr) (b : List Byte) : State :=
  let n := getNs s h.nsid
  let k := unitLbas n.lbaf
  let bytes := 4096 * unitSlots n.lbaf
  let s := (List.range ((h.aux32 + 1) / k)).foldl (fun s i => storeCopy s h.nsid (h.aux64 / k + i) ((b.drop (bytes * i)).take bytes)) s
  hawSend s 0x41 h.nsid 0 h.seq []

def rscopyFormed (s : State) (h : MsgHdr) (b : List Byte) : Bool :=
  bodyOk h b ((h.aux32 + 1) * lbaBytes (getNs s h.nsid).lbaf) 0 0

def execRscopy (sub : Nat) (h : MsgHdr) (body : List Byte) (s : State) : Res :=
  message s sub h (rscopyFormed s h body) (s.pair.state == 4 && (getNs s h.nsid).mirror) (fun s => rscopy s h body)

/-- RSACK: the unit's mark is cleared; a namespace with nothing left is done. -/
def rsack (s : State) (h : MsgHdr) : State :=
  match s.pair.copies.find? (fun x => x.1 == h.aux64) with
  | some (_, u) => settleCopies (clearMarks { s with pair := { s.pair with copies := s.pair.copies.filter (fun x => x.1 != h.aux64) } } [u])
  | none => s

def execRsack (sub : Nat) (h : MsgHdr) (body : List Byte) (s : State) : Res :=
  message s sub h (bodyOk h body 0 0 0) true (fun s => rsack s h)

end Sys2Proof.Machine
end

