-- ==== Sys2Proof/Machine/Boot.lean ====
section
/-!
DEFINITION. Stops and starts of the whole module: the power-loss dump, what a stop clears, and boot
(R34 to R36, R113, R114, R126, R391 to R393, R409, R411, R418, R422 to R432).
-/
namespace Sys2Proof.Machine

/-! ### The dump (R409, R423) -/

/-- Committed writes not yet programmed, in fetch order. -/
def dirtyWrites (s : State) : List Nat :=
  (((s.host.dockets.filter (fun e => isWriteKind e.2.sqe.kind && e.2.word == .committed && !e.2.programmed)).map (fun e => (e.2.seq, e.1))).foldr insertSeq []).map Prod.snd

/-- What a dumped unit's slots hold, and whether they hold a container. -/
def dumpForm (s : State) (e : Docket) (u : Nat) : List Byte × Bool :=
  let b := newUnit s e u
  match packedForm e b with
  | some c => (c, true)
  | none => (b, false)

/-- Slots a unit takes in the dump reserve. -/
def dumpSlots (s : State) (e : Docket) (u : Nat) : Nat := ceilDiv (dumpForm s e u).1.length 4096

/-- One unit goes to the dump reserve, its slots at position `pos` of `total` (R125). -/
def dumpUnit (s : State) (e : Docket) (ljsn total pos u : Nat) : Placement × State :=
  let f := dumpForm s e u
  let r := landSpot s 4 (dumpSlots s e u)
  let p : Placement := { nsid := e.sqe.nsid, unit := u, addr := r.1, landed := true, packed := f.2 }
  (p, putSlots r.2 r.1 e.sqe.nsid f.1 (unitTweak s e u) (fun k => { slotTag s e p (pos + k) total k with ljsn := ljsn, dump := true }))

/-- The units of a write, in order. -/
def dumpUnits (e : Docket) (ljsn total : Nat) : Nat → List Nat → State → List Placement × State
  | _, [], s => ([], s)
  | pos, u :: us, s =>
    let n := dumpSlots s e u
    let r := dumpUnit s e ljsn total pos u
    let t := dumpUnits e ljsn total (pos + n) us r.2
    (r.1 :: t.1, t.2)

/-- One dirty write is dumped; units that it zeroes whole have no slot, and their records join the
journal tail. -/
def dumpWrite (ljsn : Nat) (s : State) (d : Nat) : State :=
  let e := getDk s d
  let us := flashUnits s e
  let r := dumpUnits e ljsn ((us.map (dumpSlots s e)).sum) 0 us s
  let s := { r.2 with media := { r.2.media with cseq := (r.2.media.cseq + b2n (!us.isEmpty)) % 2 ^ 32 } }
  let s := if e.zoneAt.isNone ∧ e.sqe.kind = .writeZeroes then (writeRecs s { e with places := [] }).foldl appendOwn s else s
  setDk s d { e with programmed := true, places := r.1 }

/-- Dirty writes of a list are dumped. -/
def dumpAll (s : State) (ds : List Nat) : State := ds.foldl (dumpWrite s.media.jsn) s

/-! ### What restore will find (R126, Table 3.9) -/

/-- A record changes the unit a tag names. -/
def changesTagged (r : JRec) (t : Tag) : Bool :=
  r.nsid == t.nsid && (r.typ == 0x05 || r.typ == 0x31 ||
    (if t.zone = 0xFFFFFFFF then decide (1 ≤ r.typ) && decide (r.typ ≤ 4) && decide (r.unit ≤ t.unit) && decide (t.unit < r.unit + r.count)
     else ((r.typ == 0x11 || r.typ == 0x12) && r.unit == t.zone) ||
       (r.typ == 0x10 && r.aux == t.zone && decide (r.unit ≤ t.unit) && decide (t.unit < r.unit + r.count))))

/-- The tag of a placement's first slot. -/
def placedTag (s : State) (p : Placement) : Option Tag := (tabGet none s.media.flash p.addr).bind (·.tag)

/-- A durable record numbered above a placement's LJSN changes its unit. -/
def overtaken (s : State) (kept : List JRec) (p : Placement) : Bool :=
  match placedTag s p with
  | some t => kept.any (fun r => decide (t.ljsn < r.jsn) && changesTagged r t)
  | none => true

/-- The write's slots are complete in landing or the dump reserve, and none of its records is
durable. -/
def isFound (s : State) (kept : List JRec) (lim : Nat) (e : Docket) : Bool :=
  isWriteKind e.sqe.kind && e.programmed && !e.places.isEmpty && e.places.all (fun p => p.landed && !overtaken s kept p) &&
    (match e.waitJsn with | some j => decide (lim < j) | none => true)

/-- The commands restore applies, in CSEQ order. -/
def foundCmds (s : State) (kept : List JRec) (lim : Nat) : List Found :=
  let seqOf (e : Docket) : Nat := match e.places with | p :: _ => (match placedTag s p with | some t => t.cseq | none => 0) | [] => 0
  let ds := (((s.host.dockets.filter (fun e => isFound s kept lim e.2)).map (fun e => (seqOf e.2, e.1))).foldr insertSeq []).map Prod.snd
  ds.map (fun d => { nsid := (getDk s d).sqe.nsid, zoneAt := (getDk s d).zoneAt, places := (getDk s d).places })

/-- The media stop: the journal tail up to `lim` is programmed into the dump reserve (R409); flash stays,
everything in DRAM goes. A block that the dump was programmed into is a landing block from then on, and
missed in its channel's dump reserve. -/
def stopMedia (s : State) (lim : Nat) : State :=
  let s := programTail 4 lim (lim - s.media.programmedJsn) s
  let kept := s.media.journal.filter (fun r => decide (r.jsn ≤ lim))
  let top := max lim s.media.ckptJsn
  let used := (s.media.blocks.filter (fun e => e.2.pool == 4 && !blank s e.1)).map Prod.fst
  { s with media := { s.media with
      cur := { MapSt.empty with nss := tabMapVals Ns.empty (fun _ n => { n with ready := false }) s.media.cur.nss }
      journal := kept, jsn := top, programmedJsn := top, appliedJsn := top
      found := foundCmds s kept lim, relocs := [], folded := [], landed := [], foldQueue := [], windowHeld := false, passAt := none
      erasing := [], erased := [], gcOn := [], landHeld := 0, dumpShort := s.media.dumpShort ++ used.map (· / 2 ^ 32)
      paced := false, ready := false
      blocks := s.media.blocks.map (fun e => (e.1, if used.contains e.1 then { e.2 with pool := 1 } else e.2)) } }

/-- The whole dump: dirty writes where `writes` says so, and the journal tail. -/
def stopDumped (s : State) (writes : Bool) : State :=
  let s := if writes then dumpAll s (dirtyWrites s) else s
  stopMedia s s.media.jsn

/-- A dump cut short: which slots and how much of the tail it reached is open (R411). -/
def stopCutShort (s : State) : State :=
  let some_ := if s.power.healthy then (dirtyWrites s).zipIdx.filter (fun e => (drawn s / 2 ^ e.2) % 2 == 1) else []
  let s := dumpAll (draw s) (some_.map Prod.fst)
  let tail := s.media.jsn - s.media.programmedJsn
  stopMedia (draw s) (s.media.programmedJsn + drawn s % (tail + 1))

/-! ### What a stop clears (Table 16.3) -/

/-- The supervisor's own state ends at power-on only. -/
def clearSupervisor (s : State) : State :=
  { s with mgmt := { Mgmt.reset with health := s.mgmt.health }
           power := { s.power with vin := [], pw := [], pwN := 0, pw100 := [], measuring := none, measuredAt := none, noIsolation := false, lastC := 0, healthy := false, dumping := false, synmon := false } }

/-- The physical function keeps its allocation, which takes effect with a reset (R42). -/
def keptPf (s : State) : Fn :=
  let f := getFn s 0
  { Fn.empty with vq := f.vqNext, vi := f.viNext, vqNext := f.vqNext, viNext := f.viNext, errCount := f.errCount }

/-- March faults are repaired with spare rows at a module-wide reset (R493). -/
def repairRows (v : Service) : Service := { v with spareUsed := min Config.spareRows (v.spareUsed + v.rowFaults), rowFaults := 0 }

/-- What power-on and every module-wide reset clear. -/
def clearModule (s : State) (powerOn : Bool) : State :=
  let s := selfTestEnd s 2 0 0
  let s := if powerOn then clearSupervisor s else s
  { s with
    nowMs := s.nowMs + 1, uptime := 0, faults := [], faultSeq := 0
    dict := s.dict.filter (fun e => (dictRow (e.1 / 256) (e.1 % 256)).any (·.pers))
    host := { HostIf.empty with fns := tabSet Fn.empty [] 0 (keptPf s), perst := s.host.perst, bytesRead := s.host.bytesRead, bytesWritten := s.host.bytesWritten, bytesMedia := s.host.bytesMedia, smartWarn := s.host.smartWarn }
    prog := .empty, pool := .empty, dram := [], hm := .empty, ik := .empty, customs := .empty, tally := .empty
    eng := { Engines.empty with slots := s.eng.slots, moduleKey := s.eng.moduleKey }
    pair := { Pair.single with aliveIn := s.pair.aliveIn, aliveFault := s.pair.aliveFault, takeover := s.pair.takeover, yielded := s.pair.yielded, dieA := s.pair.dieA, heldRecs := s.pair.heldRecs, heldStates := s.pair.heldStates }
    service := { repairRows s.service with cycleAt := none, overrun := false, tasks := [], bist := [], thresh := [], hostTel := none }
    power := { s.power with vavg := 0, pilots := if powerOn then [] else s.power.pilots.filter (fun e => decide (e.1 < 3)), withheld := false, limiting := false, limitN := 0, quayPaused := false, wdtAt := none, recovery := false, fwOther := false, cfs := false, bootMs := 0, holdover := false, fwBuf := [], fwBufLen := 0, linkUp := [false, false, false, false], bootWait := 0, bootStep := 1 } }

/-! ### Boot step 2 (R34, R429, R451) -/

/-- The P entries of a section lose their values. -/
def dropSection (s : State) (sec : Nat) : State :=
  { s with dict := s.dict.filter (fun e => !((dictRow (e.1 / 256) (e.1 % 256)).any (·.pers) && dictSection (e.1 / 256) (e.1 % 256) == sec)) }

/-- The values a failed section runs on (Table 17.6). -/
def sectionDefault (s : State) (sec : Nat) : State :=
  match sec with
  | 0 => dset (dset (dset s 0x1000 4 0) 0x1000 6 0) 0x1000 8 0
  | 1 =>
    let s := dropSection s 1
    { s with media := { s.media with cur := { s.media.cur with nss := tabMapVals Ns.empty (fun _ n => { n with compressSaved := false, compress := false }) s.media.cur.nss } } }
  | 2 => { (dropSection s 2) with power := { s.power with calGeneric := true } }
  | 3 => { (dropSection s 3) with eng := { s.eng with slots := [], moduleKey := none } }
  | 4 => dropSection s 4
  | 5 => dropSection s 5
  | 6 => dropSection s 6
  | 7 => dropSection s 7
  | _ => s

/-- The sections that fail this boot: those whose check fails now, and those nothing has rewritten; all
of them where both copies of the directory fail. -/
def failedNow (s : State) (found : List Nat) : List Nat :=
  let l := (List.range 11).filter (fun k => found.contains k || s.logbook.failed.contains k)
  if l.contains 10 then List.range 11 else l

/-- Values that worn lines still hold come back (R455). -/
def wornBack (s : State) : State := s.logbook.stored.foldl (fun s e => dset s (e.1 / 256) (e.1 % 256) e.2) s

/-- BOOT_LOGBOOK_CHECK. A torn commit is repaired in its check line (R451). -/
def checkLogbook (s : State) (b : BootIn) : State :=
  let bad := failedNow s b.failed
  let s := wornBack s
  let s := { s with logbook := { s.logbook with failed := bad }, power := { s.power with calFailed := bad.contains 2, calUnstored := bad.contains 2 } }
  let s := bad.foldl sectionDefault s
  let s := { s with media := { s.media with readOnly := dget s 0x4020 4 == 1 } }
  let torn := b.torn.dedup.filter (fun k => decide (k < 11) && !bad.contains k)
  let s := bump (torn.foldl (fun s k => wearLine s (checkLine k)) s) 0x1200 7 torn.length
  let s := dset s 0x1200 1 (bitSet bad)
  if bad.isEmpty then s else emergency s 0x0101 0x1200 1 (bitSet bad)

/-- Emergency messages that waited for the end of boot step 2. -/
def sendHeldEmergencies (s : State) : State :=
  s.mgmt.emergHeld.foldl sendEmergencies { s with mgmt := { s.mgmt with emergHeld := [] } }

/-- Boot step 2: Synmon, I3C and PTNR_ALIVE_OUT start. -/
def bootTwo (s : State) (b : BootIn) : State :=
  let s := { s with power := { s.power with cause := s.power.nextCause, nextCause := 0 } }
  let s := checkLogbook s b
  let s := { s with power := { s.power with bootStep := 2, synmon := true }, pair := { s.pair with aliveOut := true } }
  let s := sendHeldEmergencies s
  if dget s 0x1100 2 = 0 then s else sendHeartbeats s

/-! ### Boot step 3 (Table 15.1, R398, R418) -/

/-- ENABLE of a loop slot. -/
def slotEnabled (s : State) (k : Nat) : Bool := dget s (0x2100 + k) 1 == 1

/-- The domains of Table 15.1: clusters only as the power state allows. -/
def bootDomains (s : State) : List Nat :=
  let q := (List.range 7).filter (fun q => bitOf (dget s 0x2300 3) q && slotEnabled s (13 + q))
  let c := ((List.range 8).filter (fun c => bitOf (dget s 0x2300 4) c && slotEnabled s (5 + c))).take (clusterLimit s.host.ps)
  let two : List Nat := if slotEnabled s 4 then [2] else []
  let quays : List Nat := q.map (· + 11)
  let clusters : List Nat := c.map (· + 3)
  [0, 1, 18, 19] ++ two ++ quays ++ clusters

/-- A pilot slot at power-up: empty histories, region 0, the duty at DMIN (R399, R402). -/
def pilotStart (s : State) (k : Nat) : Pilot :=
  let dmin := dget s (0x2100 + k) 4
  { Pilot.empty with run := decide (k < 22) && slotEnabled s k, rate := dget s (0x2100 + k) 2, duty := dmin, y1 := (dmin : Int) * 2 ^ 16 }
def pilotsStart (s : State) : Tab Pilot :=
  (List.range 24).foldl (fun t k => tabSet Pilot.empty t k (pilotStart s k)) []

/-- Boot step 3, its first try of the sequence or the second (R393). -/
def bootThree (s : State) (second rails : Bool) : State :=
  if !s.power.refclk then
    emergency { s with power := { s.power with bootWait := 2 } } 0x0301 0x3000 1 0
  else if !rails then { s with power := { s.power with bootWait := if second then 7 else 1 } }
  else
    let s := { s with power := { s.power with on := bootDomains s, pilots := pilotsStart s, bootWait := 0, bootStep := 3, measuredAt := none } }
    (List.range 8).foldl noteIdle s

/-! ### Boot step 4 (R427, R429 to R431) -/

/-- The firmware slot that boots: the active one, the other after three watchdog resets in a row or where
its image fails; none is recovery mode. -/
def preferredSlot (s : State) : Nat := if 3 ≤ s.power.wdtRow then 3 - s.power.fwNext else s.power.fwNext
def bootSlot (s : State) : Option Nat :=
  let p := preferredSlot s
  if slotOk s p then some p else if slotOk s (3 - p) then some (3 - p) else none

/-- An event waits for the physical function's driver. -/
def queueEvent (s : State) (e : Event) : State :=
  modFn s 0 (fun f => { f with events := if f.events.contains e then f.events else f.events ++ [e] })

/-- The random bit generator is seeded too (R322, log entry 67). -/
def bootFour (s : State) : State :=
  let s := match bootSlot s with
    | some k => { s with power := { s.power with fwSlot := k, fwOther := k != s.power.fwNext, recovery := false, wdtAt := some s.nowMs } }
    | none => { s with power := { s.power with fwSlot := s.power.fwNext, recovery := true } }
  let s := if 3 ≤ s.power.wdtRow then
      { (logPel s "other firmware slot after three watchdog resets" s.power.fwSlot 0) with power := { s.power with wdtRow := 0 } } else s
  let s := modFn { s with power := { s.power with bootStep := 4 } } 0 (fun f => { f with present := true })
  let s := draw { s with eng := { s.eng with rng := drbgSeed (leBytes 48 (drawn s)) } }
  let s := (List.range 4).foldl settlePort s
  let s := s.logbook.failed.foldl (fun s k => logPel s "logbook section failed" k 0) s
  let s := settleDegraded (setWarn (setWarn s 4 (!s.power.healthy)) 3 s.media.readOnly)
  if s.power.calFailed then queueEvent s { typ := 7, info := 0, log := 0xC2 } else s

/-! ### Boot step 5 (Table 3.9) -/

/-- Restore stops (R114). -/
def stopRestore (s : State) (why : Nat) : State :=
  let s := { s with power := { s.power with cfs := true, restoreCause := why } }
  let s := draw { s with service := { s.service with ctrlTel := some (collect s), ctrlTelAvail := true, telGen := s.service.telGen + 1 } }
  queueEvent { s with power := { s.power with collect := false } } { typ := 2, info := 2, log := 0x08 }

/-- A namespace as the namespace table's image holds it: what no journal record carries is as it was;
what is not saved is gone. -/
def restoredNs (old n : Ns) : Ns :=
  let n := if old.live then { n with
      lbaf := old.lbaf, nsze := old.nsze, ncap := old.ncap, mirror := old.mirror, home := old.home, shared := old.shared, keyGen := old.keyGen
      compressSaved := old.compressSaved, persist := old.persist } else n
  let n := if old.live ∧ old.persist then { n with regs := old.regs, resvType := old.resvType, resvHolder := old.resvHolder, resvGen := old.resvGen }
    else { n with regs := [], resvType := 0, resvHolder := none, resvGen := 0 }
  { n with compress := n.compressSaved, compressFn := 0, deleting := none, rekeyAt := 0, ready := true }

/-- Rows of a lot from the first to the last one with a programmed slot. -/
def rowsWritten (s : State) (x : Lot) : Nat :=
  ((s.media.flash.filter (fun e => e.2.isSome && (lotBlocks x).contains (addrBlock e.1))).map (fun e => slotRow e.1 + 1)).foldl max 0

/-- A lot as restore finds it: nothing is being moved out of it, and a pooled lot's write pointer follows its
programmed pages. -/
def restoredLot (s : State) (m : MapSt) (l : Nat) (x : Lot) : Lot :=
  { x with reloc := false, wrptr := if isPooled x then max x.wrptr (rowsWritten s (getLot m l) * rowUnits) else x.wrptr }

/-- Step 2: of every object the newest image whose pages can all be read; an object with none is empty. -/
def goodImage (bad : List Nat) (i : CkImage) : Bool := !bad.contains i.addr
def loadedMap (s : State) (bad : List Nat) : MapSt :=
  if s.media.images.all (goodImage bad) then s.media.ckpt
  else (s.media.images.filter (goodImage bad)).foldl (fun m i =>
    if s.media.images.any (fun j => goodImage bad j && j.obj == i.obj && decide (i.jsn < j.jsn)) then m else joinPart m i.part) MapSt.empty
def loadedGdl (s : State) (bad : List Nat) : List Nat :=
  if s.media.images.all (goodImage bad) then s.media.gdl
  else match ((s.media.images.filter (fun i => i.obj.kind == 4 && goodImage bad i)).reverse).head? with
    | some i => i.gdl
    | none => []

/-- Step 3: the record before the first page that cannot be read, or that does not follow the page before
it; none where all are good. -/
def journalEnd (bad : List Nat) : Option JPage → List JPage → Option Nat
  | _, [] => none
  | q, p :: ps =>
    if bad.contains p.addr || (match q with | some q => p.prev != q.jsn || p.jsn != q.jsn + q.nrec | none => false) then some (p.jsn - 1)
    else journalEnd bad (some p) ps

/-- Steps 2 to 4: images and journal give the map. -/
def loadMap (s : State) (bad : List Nat) : State :=
  let top := match journalEnd bad none s.media.pages with | some j => max s.media.ckptJsn (min j s.media.jsn) | none => s.media.jsn
  let kept := s.media.journal.filter (fun r => decide (r.jsn ≤ top))
  let m := kept.foldl applyRec (loadedMap s bad)
  { s with media := { s.media with
      cur := { m with
        nss := tabMapVals Ns.empty (fun k n => restoredNs (tabGet Ns.empty s.media.cur.nss k) n) m.nss
        lots := tabMapVals Lot.free (restoredLot s m) m.lots }
      journal := kept, jsn := top, programmedJsn := top, appliedJsn := top, pages := s.media.pages.filter (fun p => decide (p.jsn ≤ top))
      gdl := loadedGdl s bad } }

/-- Step 5: a command's slots are applied, a zoned command only from its zone's write pointer on (R126). -/
def applyFound (s : State) (f : Found) : State :=
  let e : Docket := { Docket.free with sqe := { emptySqe with kind := .write, nsid := f.nsid }, zoneAt := f.zoneAt, places := f.places }
  match f.zoneAt with
  | some (z, u, _) => if (getZone (newestMap s) f.nsid z).wp = u then journalQuiet s (writeRecs s e) else s
  | none => journalQuiet s (writeRecs s e)

/-- Lots in use that their zone no longer names: the move out of them was durable before the loss, and they
are reclaimed (R138, log entry 68). -/
def orphanLots (s : State) : List Nat :=
  let m := newestMap s
  (m.lots.filter (fun e => lotInUse e.2 && !isPooled e.2 && (let v := getZone m e.2.nsid e.2.zone; !(v.lotv && v.lot == e.1)))).map Prod.fst
/-- Zoned lots with rows programmed past their FOLDPTR: a fold was lost in step 2, and a refresh moves the lot
before it folds again (R138, log entry 68). -/
def strayLots (s : State) : List Nat :=
  (s.media.cur.lots.filter (fun e => lotInUse e.2 && !isPooled e.2 && decide (ceilDiv e.2.foldptr rowUnits < rowsWritten s (getLot s.media.cur e.1)))).map Prod.fst

/-- Units of the map that no read can return: an illegal combination, or an erased slot (R91). -/
def brokenUnits (s : State) : List UnitRef :=
  let m := s.media.cur
  let mapped := (m.map.map (fun e => (⟨e.1 / 2 ^ 48, e.1 % 2 ^ 48⟩ : UnitRef)))
  let zoned := (m.zones.map (fun e =>
    let n := e.1 / 2 ^ 24
    let k := unitSlots (getNs s n).lbaf
    (List.range (ceilDiv e.2.wp k)).map (fun u => (⟨n, e.1 % 2 ^ 24 * (zoneSize / k) + u⟩ : UnitRef)))).flatten
  (mapped ++ zoned).filter (fun u => (getNs s u.nsid).live && heldHere s u.nsid && locate s u.nsid u.unit == .broken)

/-- The namespaces that are left keep their keys, and every XTS engine with power is given them (R340). -/
def loadKeys (s : State) : State :=
  let s := { s with media := { s.media with nsKeys := s.media.nsKeys.filter (fun e => (getNs s e.1).live) } }
  (quaysOn s).foldl fillXts s

/-- Erased landing blocks complete the dump reserve before anything else takes them (R122). -/
def fillDump (s : State) : State :=
  s.media.dumpShort.foldl (fun s c =>
    match (sledBlocks.find? (fun b => b / 2 ^ 32 == c && (getBlk s b).pool == 1 && blank s b && !s.media.gdl.contains b)) with
    | some b => let s := modBlk s b (fun x => { x with pool := 4, open_ := false })
      { s with media := { s.media with dumpShort := s.media.dumpShort.erase c } }
    | none => s) s

/-- Step 6: what the lots and the entries show. The erase of every lot in STATE 3 is due by its state. -/
def checkMap (s : State) : State :=
  let os := orphanLots s
  let s := if os.isEmpty then s else journalQuiet s (os.map (fun l => lotRec (getLot (newestMap s) l) l 3))
  let s := (strayLots s).foldl (fun s l => queueRefresh s ((lotBlocks (getLot s.media.cur l)).headD 0) 8) s
  (brokenUnits s).foldl (fun s u => logPel s "illegal map entry or erased slot" u.nsid u.unit) s

/-- Restore, steps 2 to 7: the map is loaded, the dump and the tags are applied, a CKMARK is written,
namespaces are ready. The landing blocks are counted. -/
def restore (s : State) (bad : List Nat) : State :=
  let s := loadMap s bad
  let s := checkMap (s.media.found.foldl applyFound s)
  let s := { s with media := { s.media with found := [], landHeld := (sledBlocks.filter (fun b => inLanding (getBlk s b))).length } }
  let s := settleWindow (closeDue (programAll (appendOwn s (jrec 0x40 0 0 0 0 (s.media.ckptJsn + 1)))))
  let s := loadKeys (fillDump s)
  let s := if s.power.restoreCause = 0 then s else logPel { s with power := { s.power with restoreCause := 0 } } "map restore had stopped" s.power.restoreCause 0
  draw { s with media := { s.media with ready := true }, power := { s.power with bootStep := 5, bootMs := drawn s % 2 ^ 32, wdtRow := 0 } }

/-! ### Boot step 6 (R382, R386, R499) -/

/-- A module with a pair record, or with mirrored namespaces, waits for its partner. -/
def bootSix (s : State) : State :=
  let s := if pairRole s ≠ 0 ∨ !(mirroredNs s).isEmpty then
      { s with power := { s.power with bootWait := 3 }, pair := { s.pair with state := 2, stale := mirroredNs s, lastChange := s.nowMs } } else s
  let s := { s with power := { s.power with bootStep := 6 } }
  if s.power.collect then
    let s := draw { s with service := { s.service with ctrlTel := some (collect s), ctrlTelAvail := true, telGen := s.service.telGen + 1 } }
    queueEvent { s with power := { s.power with collect := false } } { typ := 2, info := 2, log := 0x08 }
  else s

/-! ### Sequences -/

/-- Boot from the end of step 3 on; recovery mode ends with step 4 (R430). -/
def bootOn (s : State) (b : BootIn) : State :=
  let s := bootFour s
  if s.power.recovery then s
  else if s.logbook.failed.contains 5 then stopRestore s 1
  else if !b.mapOk then stopRestore s 2
  else bootSix (restore s b.badPages)

/-- Boot from step 3 on. -/
def bootFromThree (s : State) (b : BootIn) (second : Bool) : State :=
  let s := bootThree s second b.rails
  if s.power.bootStep = 3 then bootOn s b else s

/-- Boot from step 2 on; an asserted reset contact holds the module at the end of step 2 (R425). -/
def bootFromTwo (s : State) (b : BootIn) : State :=
  let s := bootTwo s b
  if s.power.modRst ∨ s.power.fenceIn then { s with power := { s.power with bootWait := 4 } }
  else bootFromThree s b false

/-- Boot from step 1 on, for the triggers of a mask besides those noted. -/
def bootFromOne (s : State) (b : BootIn) (cause : Nat) : State :=
  let s := clearModule s true
  bootFromTwo { s with power := { s.power with on := [0], inputOn := true, thermal := false, powerRestart := false, wdtRow := if 3 ≤ s.power.wdtRow then s.power.wdtRow else 0, nextCause := s.power.nextCause ||| cause } } b

end Sys2Proof.Machine
end

