-- ==== Sys2Proof/Machine/Domains.lean ====
section
/-!
DEFINITION. Switched domains (Table 15.2), the governor (R412 to R414) and D2 (R172).
-/
namespace Sys2Proof.Machine

/-! ### Clusters -/

def clusterCores (c : Nat) : List Nat := (List.range 32).map (· + 32 * c)

/-- A block runs on the cluster, or a thread has been given to it. -/
def clusterBusy (s : State) (c : Nat) : Bool := (clusterCores c).any (fun k => decide ((getCore s k).phase ≠ .idle))

/-- Threads whose windows lie on the cluster's cores. -/
def windowsOnCluster (s : State) (c : Nat) : List Nat :=
  (s.hm.threads.filter (fun e => decide (e.1 < 65536) && e.2.state != 0 && decide (e.2.lastCore < 256) && clusterOf e.2.lastCore == c && decide (0 < e.2.winSize))).map Prod.fst

/-- The cluster can go off: nothing runs on it, no window on it is in transfer, and the far berths its
windows take are free. -/
def clusterCanStop (s : State) (c : Nat) : Bool :=
  clusterOn s c && !clusterBusy s c && (windowsOnCluster s c).all (fun t => !threadBusy s t) &&
    (clusterCores c).all (fun k => (getLease s k).next.isNone) && !portHeld s 19 &&
    decide (((windowsOnCluster s c).map (fun t => windowBerths (getThr s t))).sum ≤ freeCountOf s true)

/-- A domain is switched off, and on. -/
def domainOff (s : State) (d : Nat) : State := { s with power := { s.power with on := s.power.on.filter (· != d) } }
def domainAdd (s : State) (d : Nat) : State := { s with power := { s.power with on := s.power.on ++ [d] } }

/-- The cluster's windows go to far berths; its cores lose what they held. Its shared bits are kept. -/
def clusterOff (s : State) (c : Nat) : State :=
  let s := (windowsOnCluster s c).foldl saveWindow s
  domainOff ((clusterCores c).foldl zeroCore s) (3 + c)

/-- The power state the module goes towards. -/
def targetPs (s : State) : Nat := match s.host.psWait with | some w => w.target | none => s.host.ps

/-- The state forbids the cluster: its enable bit is clear, or as many clusters as the state allows are on below it,
and none above it could be switched off first (R414). -/
def clusterForbidden (s : State) (c : Nat) : Bool :=
  !bitOf (dget s 0x2300 4) c ||
    (decide (clusterLimit (targetPs s) ≤ ((List.range c).filter (clusterOn s)).length) &&
      !((List.range 8).any (fun k => decide (c < k) && clusterCanStop s k)))

/-- The cluster has been idle for a time in µs. -/
def clusterIdleFor (s : State) (c us : Nat) : Bool := decide (tabGet 0 s.hm.idleAt c * 1000 + us ≤ s.nowMs * 1000)

/-- CLUSTER_POWER_OFF (Table 15.2). -/
def execClusterPowerOff (cluster : Nat) (s : State) : Res :=
  .next (when (decide (cluster < 8) && clusterCanStop s cluster && (clusterForbidden s cluster || clusterIdleFor s cluster (dget s 0x2300 5)) && !s.power.dumping) s
    (clusterOff s cluster))

/-- Clusters that may be powered: enabled, and started at the last power-up (R398). -/
def clusterAllowed (s : State) (c : Nat) : Bool :=
  bitOf (dget s 0x2300 4) c && (tabGet Pilot.empty s.power.pilots (5 + c)).run
def clustersOn (s : State) : Nat := ((List.range 8).filter (clusterOn s)).length

/-- A ready thread waits that could run on the cluster, and on no powered one. -/
def clusterWanted (s : State) (c : Nat) : Bool :=
  s.hm.ready.any (fun r =>
    let th := getThr s r.thread
    let m (k : Nat) : Bool := bitOf th.cmask k && bitOf (clusterMask s th.space) k
    !isControl r.thread && m c && !((List.range 8).any (fun k => m k && clusterOn s k)))

/-- CLUSTER_POWER_ON (R395). -/
def execClusterPowerOn (cluster : Nat) (s : State) : Res :=
  .next (when (decide (cluster < 8) && decide (4 ≤ s.power.bootStep) && !s.power.dumping && !s.power.quayPaused && !clusterOn s cluster && clusterAllowed s cluster &&
      decide (clustersOn s < clusterLimit (targetPs s)) && clusterWanted s cluster) s
    (kickIdle (noteIdle (domainAdd s (3 + cluster)) cluster)))

/-! ### D2 (R172) -/

/-- D2_POWER_OFF: no near berth is allocated and nobody waits for one. -/
def execD2PowerOff (s : State) : Res :=
  .next (when (domainOn s 2 && allocCount s false == 0 && s.pool.nearWait.isEmpty && !s.power.dumping) s
    (let s := domainOff s 2
     { s with pool := { s.pool with nearStack := [] } }))

/-- Waiting requesters are granted near berths at once, in queue order. -/
def grantNear : Nat → State → State
  | 0, s => s
  | n + 1, s =>
    match s.pool.nearWait with
    | [] => s
    | w :: rest =>
      match poolTake s false w.tag with
      | none => s
      | some (a, s) => grantNear n (grantBerth (admitHeld (setWaitQ s false rest) false) false a w)

/-- D2_POWER_ON: the near class starts with every berth free. -/
def execD2PowerOn (s : State) : Res :=
  .next (when (decide (4 ≤ s.power.bootStep) && !s.power.dumping && !domainOn s 2 && (tabGet Pilot.empty s.power.pilots 4).run) s
    (let s := domainAdd s 2
     let s := { s with pool := { s.pool with nearStack := [] } }
     kickIdle (grantNear (s.pool.nearWait.length + s.pool.held.length) s)))

/-! ### Quays -/

/-- Reads in flight on a quay's 64 channels. -/
def quayBusy (s : State) (q : Nat) : Bool :=
  s.host.dockets.any (fun e => e.2.reads.any (fun a => addrChannel a / 64 == q))

/-- The state, or the quay's enable bit, asks for it to be off. -/
def quayForbidden (s : State) (q : Nat) : Bool := targetPs s == 4 || !bitOf (dget s 0x2300 3) q

/-- QUAY_POWER_OFF: what is in flight has completed. The die's key table goes with its power. -/
def execQuayPowerOff (quay : Nat) (s : State) : Res :=
  .next (when (decide (quay < 7) && quayOn s quay && quayForbidden s quay && !quayBusy s quay && !s.power.dumping) s (clearXts (domainOff s (11 + quay)) quay))

/-- QUAY_POWER_ON: PS4 is left, or the quay is enabled again. Its XTS engine is given every namespace's key
(R340). -/
def execQuayPowerOn (quay : Nat) (s : State) : Res :=
  .next (when (decide (quay < 7) && decide (4 ≤ s.power.bootStep) && !s.power.dumping && !quayOn s quay && !quayForbidden s quay &&
      (tabGet Pilot.empty s.power.pilots (13 + quay)).run) s
    (fillXts (domainAdd s (11 + quay)) quay))

/-! ### The governor (R413) -/

/-- Input power over the last 100 samples, mW. -/
def power100 (s : State) : Nat := meanOf s.power.pw

/-- The last 100 samples, and every 100 of them a mean for the 100 ms average. -/
def notePwr (s : State) (mw : Nat) : State :=
  let pw := (mw :: s.power.pw).take 100
  if s.power.pwN + 1 < 100 then { s with power := { s.power with pw := pw, pwN := s.power.pwN + 1 } }
  else { s with power := { s.power with pw := pw, pwN := 0, pw100 := (meanOf pw :: s.power.pw100).take 1000 } }

/-- What the average asks for: dispatch withheld from 0.95 of the cap, the current limit from 1.05, and
the pause over below 0.9. -/
def govern (s : State) : State :=
  let p := power100 s * 100
  let cap := capW s * 1000
  let lim := decide (105 * cap ≤ p)
  { s with power := { s.power with
      withheld := decide (95 * cap ≤ p), limiting := lim, limitN := if lim then s.power.limitN + 1 else 0
      quayPaused := s.power.quayPaused && !decide (p < 90 * cap) } }

/-- GOVERNOR_SAMPLE. -/
def execGovernorSample (milliwatt : Nat) (s : State) : Res :=
  .next (when (decide (3 ≤ s.power.bootStep)) s
    (let was := s.power.withheld
     let s := govern (notePwr s milliwatt)
     if was && !s.power.withheld then kickIdle s else s))

/-- GOVERNOR_PAUSE: the limit has held for 500 µs. Quay issue pauses, and clusters that run no block go
off. -/
def execGovernorPause (s : State) : Res :=
  .next (when (s.power.limiting && decide (500 ≤ s.power.limitN) && !s.power.quayPaused && !s.power.dumping) s
    (let s := { s with power := { s.power with quayPaused := true } }
     (List.range 8).foldl (fun s c => if clusterCanStop s c then clusterOff s c else s) s))

end Sys2Proof.Machine
end

