-- ==== Sys2Proof/Machine/HarbourCmds.lean ====
section
/-!
DEFINITION. The meanings of the harbour master's events: posts, spills, block ends, leases, context
switches, timers, poison, the X queue, DMA and streams (R174 to R202, R217, R257 to R261, R272 to
R276).
-/
namespace Sys2Proof.Machine

/-! ### Posts and the ring -/

/-- The port of a thread's events. -/
def threadPort (c : Nat) : Nat := if isLighterCore c then 11 + clusterOf c else 19

/-- A thread's post (R179, R185): one that is denied stops the thread with code 3, one idle channel too many with
code 4. -/
def threadPost (s : State) (c t : Nat) (pc : W64) (space ch qty : Nat) : State :=
  match postBar s space ch qty with
  | .clear => postApply s (threadPort c) space ch qty (getThr s t).poisoned
  | .dead => bump s 0x7020 0x0C qty
  | .denied => raiseFaultAt s t 3 pc ch
  | .limit => raiseFaultAt s t 4 pc ch

/-- The core of requester `index` of a thread port. -/
def portCore (port index : Nat) : Nat := if port = 19 then 256 + index else 32 * (port - 11) + index

/-- A post from a thread port: of the block that runs on the core, a lighter thread's in its own space. A control
thread posts in a tenant's space by this row alone, as no syllable names a space (DESIGN CHOICE, log entry 69). -/
def corePost (s : State) (port index space ch qty : Nat) : State :=
  let c := portCore port index
  match (getCore s c).phase with
  | .running t => if index < 32 ∧ (isControl t || (getThr s t).space == space) then threadPost s c t (getCore s c).pc space ch qty else s
  | _ => s

/-- TOKEN_POST: a post from a port of Table 6.3. Ports 7 and 8 post in the firmware space only; ports 11 to 19 for the
thread that runs on the core. -/
def execTokenPost (p : PostPort) (space ch qty : Nat) (poisoned : Bool) (s : State) : Res :=
  let port := p.port
  .next (when (decide (port ≤ 22) && decide (space ≤ 1024) && decide (ch < 2 ^ 24) && domainOn s 1 &&
      (!(port == 7 || port == 8) || space == fwSpace)) s
    (kickIdle (if 11 ≤ port ∧ port ≤ 19 then corePost s port p.index space ch qty else postToken s port space ch qty poisoned)))

/-- Posts that waited for a channel's entry to return from the ring. -/
def applyRingPosts (s : State) (k : Nat) : State :=
  let mine := waitingPosts s k
  let s := { s with hm := { s.hm with ringPosts := s.hm.ringPosts.filter (fun p => p.key != k) } }
  mine.foldl (fun s p => applyPost s k p.qty p.port p.poisoned) s

/-- SPILL_RETURN: the oldest ring entry returns while there is room (R186). A match that leaves a channel idle as one
too many is recorded with port 22 (DESIGN CHOICE, log entry 69). -/
def execSpillReturn (s : State) : Res :=
  .next (match s.hm.ring with
    | [] => s
    | e :: rest =>
      let t := { s with hm := { s.hm with ring := rest } }
      match e with
      | .req th _ => when (decide (manifestUsed s < 32768)) s
          (kickIdle (if t.hm.waits.contains th && reqsMet t th then consume t th 22 else t))
      | .chan k => when (decide (manifestUsed s < 32768)) s (kickIdle (applyRingPosts t k))
      | .ready th =>
        match s.hm.ready.find? (fun r => r.thread == th) with
        | some ⟨_, .ring d⟩ => when (decide (listLen s (clusterPlace d) < 512)) s (kickIdle (enterList (unready t th) d th true))
        | _ => t)

/-- AFFINITY_HOLD_EXPIRY: a thread leaves its last core's affinity list for its cluster list, or the
ring, keeping its place in the order; an idle eligible core takes it at once (R187, R189). -/
def execAffinityHoldExpiry (t : Nat) (s : State) : Res :=
  .next (match s.hm.ready.find? (fun r => r.thread == t) with
    | some ⟨_, .affinity c⟩ =>
      kickIdle (enterCluster (unready s t) (if isControl t then 8 else clusterOf c) t)
    | _ => s)

/-! ### The end of a block (R190, R258, R259) -/

/-- A thread that yields is ready at once. -/
def yieldThread (s : State) (t : Nat) : State :=
  let s := stampReady s t
  if isHeld s (getThr s t).space && !isControl t then modThr s t (fun th => { th with state := 4, heldReady := true, reqs := [] })
  else place (modThr s t (fun th => { th with reqs := [] })) t

/-- WAIT or YIELD takes effect. -/
def applyEnd (s : State) (c t : Nat) (e : EndEv) : State :=
  match e with
  | .wait reqs next => waitOn (modThr s t (fun th => { th with entry := next })) t reqs (threadPort c)
  | .yield next => yieldThread (modThr s t (fun th => { th with entry := next })) t
  | .exit => s

/-- How a block's end stops its thread, if it does: the code and whether it counts (R176, R258, R259). -/
def endStops (th : Thread) (f : Option CoreFault) (e : EndEv) : Option (Nat × Bool × W64 × Nat) :=
  match f with
  | some f => some (f.code, true, f.pc, f.channel)
  | none => if th.stopping then some (0, false, 0, 0) else match e with
    | .exit => some (0, true, 0, 0)
    | _ => none

/-- The core holds no block any more. -/
def idleCore (s : State) (c : Nat) : State :=
  modCore (noteIdle s (clusterOf c)) c (fun x => { x with phase := .idle, fault := none, endEv := none, fresh := false, migrated := false, poisoned := false })

/-- BLOCK_END_EVENT: the end event follows the core's last queued entry. A fault an X syllable raised stops the thread
instead (R259); so does a tenant reset (R176). A thread that goes on is placed first, while its core still counts as
busy; then the core chooses (R190). -/
def execBlockEndEvent (c : Nat) (s : State) : Res :=
  let x := getCore s c
  .next (match x.phase, x.endEv with
    | .ended t, some e =>
      if x.xq.isEmpty then
        coreFreed (match endStops (getThr s t) x.fault e with
          | some (code, counts, pc, ch) => stopThread (idleCore s c) t code counts pc ch
          | none => idleCore (applyEnd s c t e) c) c
      else s
    | _, _ => s)

/-- LEASE_QUANTUM_EXPIRY: the lease's quantum has passed; a core at a block boundary passes on
(R193). -/
def execLeaseQuantumExpiry (c : Nat) (s : State) : Res :=
  let l := getLease s c
  .next (when (isLighterCore c && l.space.isSome) s
    (coreFreed (setLease s c { l with quantum := true, minOver := true }) c))

/-- LEASE_MINIMUM_EXPIRY: 10 µs have passed since the grant (R193). -/
def execLeaseMinimumExpiry (c : Nat) (s : State) : Res :=
  let l := getLease s c
  .next (when (isLighterCore c && l.space.isSome) s
    (kickIdle (chooseFor (setLease s c { l with minOver := true }) c)))

/-! ### Context switch (R191, R208, R231, R275) -/

/-- The window comes to core `c`: copied from its last core, or restored from save berths, which are
freed. -/
def bringWindow (s : State) (c t : Nat) : State :=
  let th := getThr s t
  if isControl t ∨ th.winSize = 0 ∨ th.lastCore = c ∨ (th.lastCore = 0xFFFF ∧ th.saved = []) then s
  else
    let bytes := winRead s t 0 (th.winSize * 4096)
    let s := setThr s t { th with lastCore := c, saved := [] }
    let s := bump (winWrite s t 0 bytes) 0x7020 0x0A 1
    freeBerths (dropSaves s t) th.saved

/-- The bank a block of the thread starts with: what R231 gives a thread's first block, the firmware
context area of a control thread, the context record, or zero without a window (R208). -/
def startBank (s : State) (c t : Nat) : Bank :=
  let th := getThr s t
  match th.init with
  | some i => { Bank.empty with x := tabSet 0 (tabSet 0 (tabSet 0 [] 1 i.x1) 2 i.x2) 63 (BitVec.ofNat 64 ((th.winBase + th.winSize) * 4096)) }
  | none =>
    if isControl t then tabGet Bank.empty s.ik.ctx t
    else if th.winSize = 0 then Bank.empty
    else recordBank (memRead s.ik.spad (c * 2 ^ 20 + th.winBase * 4096) 3072)

/-- The initial data of a thread's first block lies at window offset 3,072. -/
def placeInit (s : State) (t : Nat) : State :=
  match (getThr s t).init with
  | some i => if 0 < (getThr s t).winSize then winWrite s t 3072 i.data else s
  | none => s

/-- The window is brought, the idle bank filled, the banks swapped, and the block's first bundle issues at
cycle 32. -/
def switched (s : State) (c t : Nat) : State :=
  let th := getThr s t
  let moved := th.lastCore ≠ c ∧ (th.lastCore ≠ 0xFFFF ∨ th.saved ≠ [])
  let s := bringWindow s c t
  let s := modThr s t (fun th => { th with lastCore := c })
  let bank := startBank s c t
  let s := placeInit s t
  let s := modThr s t (fun th => { th with init := none })
  let s := modCore s c (fun x =>
    let y := { x with bank := !x.bank, pc := th.entry, lastPc := th.entry, cyc := 0, base := tabGet 0 s.ik.clk (bitCluster c) + 32, first := true, newThread := th.init.isSome, endCyc := 0, bun := .empty, delay := 0, target := none, rep := none, fault := none, endEv := none, pend := [], migrated := decide moved, phase := .running t, streams := (x.streams.map (fun e => (e.1, { e.2 with sfault := false }))).filter (fun e => decide (e.2 ≠ Stream.closed)) }
    setCur y bank)
  if isLighterCore c then bump s 0x7020 8 1 else s

/-- CONTEXT_SWITCH: a dispatch reaches its core. It comes after a lease change (R194). -/
def execContextSwitch (c : Nat) (s : State) : Res :=
  .next (match (getCore s c).phase with
    | .switching t => if (getLease s c).next.isSome then s else settleAll (switched s c t)
    | _ => s)

/-- BLOCK_OVERRUN: a block still running after BLOCK_LIMIT stops its thread with code 6 (R200). -/
def execBlockOverrun (c : Nat) (s : State) : Res :=
  .next (match (getCore s c).phase with
    | .running t => settleAll (faultNow s t 6 (getCore s c).lastPc)
    | _ => s)

/-- Timers stay armed when their thread goes (R195); no later holder of its number counts them. -/
def orphanTimers (s : State) (t : Nat) : State :=
  { s with hm := { s.hm with timers := s.hm.timers.map (fun e => (e.1, e.2.map (fun tm => if tm.thread = t then { tm with thread := 69632 } else tm))) } }

/-- A stopped control thread that faulted is restarted by control firmware (R200): at its entry, with the registers
the firmware context area holds (DESIGN CHOICE, log entry 69). -/
def restartThread (s : State) (t : Nat) : State :=
  place (stampReady (modThr s t (fun th => { th with state := 2, fault := 0, poisoned := false, restart := false })) t) t

/-- DESCRIPTOR_FREE: a stopped thread's transfers and reclaims are over and nothing it issued is
undelivered: its descriptor is free (R175, R200, R260). -/
def execDescriptorFree (t : Nat) (s : State) : Res :=
  let ok := (getThr s t).state == 5 && !threadBusy s t && (ownedBy s (threadTag t)).all (fun a => !s.pool.reclaims.contains a) &&
    !(s.ik.cores.any (fun e => e.2.xq.any (fun q => q.thread == t)))
  .next (when ok s
    (let s := { s with hm := { s.hm with dying := s.hm.dying.filter (· != t) } }
     settleAll (if (getThr s t).restart then restartThread s t
       else setThr (orphanTimers { s with ik := { s.ik with ctx := tabDrop s.ik.ctx t } } t) t Thread.free)))

/-! ### Timers and poison (R195, R196) -/

/-- Timers armed in a space. -/
def armedIn (s : State) (space : Nat) : Nat :=
  (s.hm.timers.filter (fun e => e.2.any (fun t => t.space == space))).length

def getTimer (s : State) (h : Nat) : Option Timer := tabGet none s.hm.timers h

/-- A timer is no longer armed. -/
def dropTimer (s : State) (h : Nat) (tm : Timer) : State :=
  let s := { s with hm := { s.hm with timers := tabDrop s.hm.timers h } }
  if (getThr s tm.thread).state = 0 then s else modThr s tm.thread (fun th => { th with timers := th.timers - 1 })

/-- The delay, in units of 100 ns, can have run by now: the time is kept in ms. -/
def timerDue (s : State) (tm : Timer) : Bool := decide (tm.delay < (s.nowMs + 1 - tm.at_) * 10000)

/-- TIMER_EXPIRY: no earlier than the delay (R195). -/
def execTimerExpiry (h : Nat) (s : State) : Res :=
  .next (match getTimer s h with
    | some tm => when (timerDue s tm) s (kickIdle (postToken (dropTimer s h tm) 20 tm.space tm.channel tm.qty false))
    | none => s)

def execPoisonToken (t : Nat) (s : State) : Res := .next (kickIdle (poisonThread s t 10))

/-! ### The X queue (R256 to R261, R272) -/

/-- SPAWN (R175, Table 8.6). The record names no kind: a control thread makes control threads, a lighter thread
lighter ones (DESIGN CHOICE, log entry 69). -/
def doSpawn (s : State) (t : Nat) (r : List Byte) : State :=
  let th := getThr s t
  let ctl := isControl t
  let entry := recNat r 0 8
  let win := recNat r 8 4
  let fch := recNat r 16 4
  let ch := recNat r 20 4
  let prio := recNat r 12 1
  let cmask := recNat r 13 1
  let bad := decide (7 < prio) || decide (prio < th.prio) || (!ctl && cmask == 0) || recNat r 14 2 != 0 || bitsOf win 16 31 != 0 ||
    !windowOk (bitsOf win 0 7) (bitsOf win 8 15) || bitsOf fch 25 31 != 0 || bitsOf ch 25 31 != 0 || (!ctl && bitsOf entry 48 63 != 0)
  let alien := !ctl && (imageAt s th.space (BitVec.ofNat 64 entry)).isNone
  let full := !ctl && decide (dget s (0x6000 + th.space) 0x20 ≤ (threadsOf s th.space).length)
  let reply (s : State) (code n : Nat) : State :=
    let s := deliver s t (recNat r 40 8) (BitVec.ofNat 64 (code + n * 2 ^ 16))
    if bitOf ch 24 then postToken s 22 th.space (bitsOf ch 0 23) 1 false else s
  if bad then reply s 2 0
  else if alien then reply s 3 0
  else match freeThread s ctl with
    | some n =>
      if full then reply s 1 0
      else
        let s := reply s 0 (n % 65536)
        createThread s n th.space prio cmask (bitsOf win 0 7) (bitsOf win 8 15) (BitVec.ofNat 64 entry)
          (if bitOf fch 24 then some (bitsOf fch 0 23) else none) th.root { data := [], x1 := BitVec.ofNat 64 (recNat r 24 8), x2 := BitVec.ofNat 64 (recNat r 32 8) }
    | none => reply s 1 0

/-- A far range of a transfer: within the tenant's SLM lease, or within one berth the thread owns or
claims; a control thread reaches every berth (R169, R260). -/
def transferOk (s : State) (t : Nat) (slm : Bool) (a n : Nat) : Bool :=
  if slm then decide (a + n ≤ slmSize s (getThr s t).space)
  else match berthClass a with
    | some far =>
      let b := berthBase far + (a - berthBase far) / berthSize far * berthSize far
      isControl t || (decide (a + n ≤ b + berthSize far) && berthHeldBy s t b)
    | none => isControl t

/-- The berth of an address, and whether a control thread owns or claims it. -/
def inOwnBerth (s : State) (t a : Nat) : Bool :=
  match berthClass a with
  | some far => berthHeldBy s t (berthBase far + (a - berthBase far) / berthSize far * berthSize far)
  | none => false

/-- A poisoned thread's transfer that is discarded (R197): into SLM, or, of a control thread, whose transfers reach
every address, into host memory or a berth it neither owns nor claims, a namespace's write data among them. -/
def dmaDiscard (s : State) (d : Dma) : Bool :=
  let dest := if d.toFar then d.far else dmaNear d
  (getThr s d.thread).poisoned && ((d.slm && d.toFar) ||
    (isControl d.thread && !(d.slm && d.toFar) &&
      (if (berthClass dest).isSome then !inOwnBerth s d.thread dest else Config.hostMapped dest)))

/-- DMA (R260, Table 8.7): refused with code 5, or started. -/
def doDma (s : State) (c t : Nat) (pc : W64) (r : List Byte) : State :=
  let th := getThr s t
  let near := recNat r 8 4
  let n := recNat r 12 4
  let fl := recNat r 16 1
  let ch := recNat r 20 4
  let slm := bitOf fl 1
  let bad := n == 0 || decide (524288 < n) || decide (4 ≤ fl) || recNat r 17 3 != 0 || bitsOf ch 25 31 != 0 || recNat r 24 8 != 0 ||
    (!isControl t && decide (th.winSize * 4096 < near + n)) || !transferOk s t slm (recNat r 0 8) n
  if bad then raiseFaultAt s t 5 pc 0
  else
    let d : Dma := { live := true, thread := t, core := c, far := recNat r 0 8, near := near, length := n, toFar := bitOf fl 0, slm := slm, channel := bitsOf ch 0 23, notify := bitOf ch 24, discard := false, poisoned := th.poisoned }
    let d := { d with discard := dmaDiscard s d }
    { s with hm := { s.hm with dmas := tabSet Dma.empty s.hm.dmas s.hm.dmaSeq d, dmaSeq := s.hm.dmaSeq + 1 } }

/-- A stream's result word and token (R261). -/
def streamReport (s : State) (c t : Nat) (m : Stream) (code : Nat) : State :=
  let s := deliver s t m.result (BitVec.ofNat 64 (code + m.moved * 2 ^ 32))
  if m.notify then postToken s (threadPort c) (getThr s t).space m.channel 1 m.poisoned else s

/-- SOPEN (R217, R261, Table 8.8). -/
def doSopen (s : State) (c t : Nat) (r : List Byte) : State :=
  let n := recNat r 8 4
  let wc := recNat r 12 1
  let w := bitsOf wc 0 3
  let out := bitOf wc 4
  let ch := recNat r 16 4
  let old := getStream s c w
  let m : Stream := { Stream.closed with isOpen := true, outbound := out, ready0 := out, ready1 := out && decide (4096 < n), slm := bitOf wc 5, far := recNat r 0 8, length := n, thread := t, channel := bitsOf ch 0 23, notify := bitOf ch 24, result := recNat r 24 8, poisoned := (getThr s t).poisoned }
  let refuse (code : Nat) : State := streamReport (setStream s c w { old with sfault := true }) c t m code
  if n % 4096 ≠ 0 ∨ n = 0 ∨ 2 ^ 31 < n ∨ 64 ≤ wc ∨ recNat r 13 3 ≠ 0 ∨ bitsOf ch 25 31 ≠ 0 ∨ recNat r 20 4 ≠ 0 ∨
      !transferOk s t (bitOf wc 5) (recNat r 0 8) n then refuse 1
  else if old.isOpen ∨ old.draining then refuse 3
  else setStream s c w m

/-- A timer handle no armed timer has; which one the manual leaves open. -/
def freeHandle (s : State) : Nat :=
  match lowestFrom (fun k => (getTimer s ((drawn s + k) % 2 ^ 32)).isNone) (s.hm.timers.length + 1) 0 with
  | some k => (drawn s + k) % 2 ^ 32
  | none => 0

/-- TIMER arm (R195, Table 8.9): refused with CODE 2, over the limit with code 7, or armed. TIMERS counts without bound,
though its field has one byte (DESIGN CHOICE, log entry 69). -/
def doTimerArm (s : State) (t : Nat) (pc : W64) (r : List Byte) : State :=
  let space := (getThr s t).space
  let reply (s : State) (w : Nat) : State := deliver s t (recNat r 16 8) (BitVec.ofNat 64 w)
  if recNat r 0 4 = 0 ∨ recNat r 8 2 = 0 ∨ bitsOf (recNat r 4 4) 24 31 ≠ 0 ∨ recNat r 10 6 ≠ 0 then reply s 2
  else if (if space = fwSpace then 4096 else 64) ≤ armedIn s space then raiseFaultAt s t 7 pc 0
  else
    let h := freeHandle s
    let tm : Timer := { space := space, channel := recNat r 4 4, qty := recNat r 8 2, thread := t, delay := recNat r 0 4, at_ := s.nowMs }
    let s := draw { s with hm := { s.hm with timers := tabPut s.hm.timers h (some tm) } }
    reply (modThr s t (fun th => { th with timers := th.timers + 1 })) (h * 2 ^ 32)

/-- TIMER cancel: of an armed timer of the thread's space. -/
def doTimerCancel (s : State) (t h : Nat) : State :=
  match getTimer s h with
  | some tm => if tm.space = (getThr s t).space then dropTimer s h tm else s
  | none => s

/-- An entry of the X queue is resolved. A stopped thread's posts still count; its other requests
have no effect (R201). -/
def xResolve (s : State) (c : Nat) (e : XEnt) : State :=
  let t := e.thread
  let st := (getThr s t).state
  match e.req with
  | .post ch n => threadPost s c t e.pc (getThr s t).space ch n
  | r =>
    if st = 0 ∨ st = 5 then s
    else match r with
      | .post _ _ => s
      | .spawn rec => doSpawn s t rec
      | .dma rec => doDma s c t e.pc rec
      | .sopen rec => doSopen s c t rec
      | .scan rec => scanRequest s t rec
      | .timerArm rec => doTimerArm s t e.pc rec
      | .timerCancel h => doTimerCancel s t h
      | .pclr => modThr s t (fun th => { th with poisoned := false })

/-- X_QUEUE_DEPART: the head of a core's X queue leaves it and is resolved (R272). -/
def execXQueueDepart (c : Nat) (s : State) : Res :=
  .next (match (getCore s c).xq with
    | e :: rest => settleAll (xResolve (modCore s c (fun x => { x with xq := rest })) c e)
    | [] => s)

/-! ### Transfers (R215, R217, R260, R261) -/

def getDma (s : State) (i : Nat) : Dma := tabGet Dma.empty s.hm.dmas i

/-- A lighter thread has given up the berth its transfer is on (R169). One of a stopped thread runs to its end
(R260). -/
def strayTransfer (s : State) (t : Nat) (slm : Bool) (a n : Nat) : Bool :=
  !isControl t && !slm && (getThr s t).state != 0 && (getThr s t).state != 5 && !transferOk s t slm a n

/-- Such a transfer is not carried out, and is a fault of its thread. -/
def faultStray (s : State) (t : Nat) : State :=
  if (runningCore s t).isSome then raiseFault s t 5 else faultNow s t 5 0

/-- The bytes a transfer's end writes. -/
def dmaMove (s : State) (d : Dma) : State :=
  let space := (getThr s d.thread).space
  let nearA := dmaNear d
  if d.discard then s
  else if d.toFar then
    rangeWrite s space d.slm d.far (if isControl d.thread then memRead s.dram nearA d.length else winRead s d.thread d.near d.length)
  else
    let bytes := rangeRead s space d.slm d.far d.length
    if isControl d.thread then { s with dram := memWrite s.dram nearA bytes } else winWrite s d.thread d.near bytes

/-- DMA_COMPLETE: every byte is at the destination; the token is posted, and what waited for the
transfer goes on. A transfer on a berth given up meanwhile is refused instead. -/
def execDmaComplete (i : Nat) (s : State) : Res :=
  let d := getDma s i
  .next (when d.live s
    (let space := (getThr s d.thread).space
     let stray := strayTransfer s d.thread d.slm d.far d.length
     let s := if stray then s else dmaMove s d
     let s := { s with hm := { s.hm with dmas := tabDrop s.hm.dmas i } }
     settleAll (if stray then faultStray s d.thread else if d.notify then postToken s (threadPort d.core) space d.channel 1 d.poisoned else s)))

/-- Where half `h` of window `w` of a core lies. -/
def halfAddr (c w : Nat) (h : Bool) : Nat := c * 2 ^ 20 + 0x80000 + w * 0x8000 + b2n h * 4096

/-- STREAM_HALF_READY: an inbound half is filled, or a committed outbound half drained (R217). A stream on a berth given
up meanwhile moves nothing more and ends early. -/
def execStreamHalfReady (c w : Nat) (s : State) : Res :=
  let m := getStream s c w
  let space := (getThr s m.thread).space
  .next (if (m.isOpen || m.draining) && strayTransfer s m.thread m.slm m.far m.length then
      setStream s c w { m with isOpen := false, draining := true, committed := [], ready0 := false, ready1 := false }
    else if m.outbound then
      match m.committed with
      | h :: rest =>
        let bytes := memRead s.ik.spad (halfAddr c w h) 4096
        let s := if m.poisoned ∧ m.slm then s else rangeWrite s space m.slm (m.far + m.moved) bytes
        let more := m.isOpen && decide (m.moved + 4096 + 4096 * rest.length < m.length)
        setStream s c w { m with moved := m.moved + 4096, committed := rest, ready0 := m.ready0 || (more && !h), ready1 := m.ready1 || (more && h) }
      | [] => s
    else if m.isOpen ∧ m.moved < m.length ∧ (if m.half then m.ready1 else m.ready0) = false then
      let bytes := rangeRead s space m.slm (m.far + m.moved) 4096
      let s := { s with ik := { s.ik with spad := memWrite s.ik.spad (halfAddr c w m.half) bytes } }
      setStream s c w { m with moved := m.moved + 4096, half := !m.half, ready0 := m.ready0 || !m.half, ready1 := m.ready1 || m.half }
    else s)

/-- STREAM_END: the last transfer of a stream is over, or it was closed and what it had committed has
drained: the result word and token follow (R217, R261). -/
def execStreamEnd (c w : Nat) (s : State) : Res :=
  let m := getStream s c w
  let full := decide (m.length ≤ m.moved)
  .next (if m.isOpen ∧ !m.reported ∧ full then
      streamReport (setStream s c w { m with reported := true }) c m.thread m 0
    else if m.draining ∧ m.committed = [] then
      let early := !full || (!m.outbound && decide (m.taken < m.length))
      let s := setStream s c w { Stream.closed with sfault := early }
      settleAll (streamReport s c m.thread m (if early then 2 else 0))
    else s)

end Sys2Proof.Machine
end

