-- ==== Sys2Proof/Machine/IkI.lean ====
section
/-!
DEFINITION. The I units (Table 8.2): register, immediate and compare syllables.
-/
namespace Sys2Proof.Machine

/-- A TRI syllable (R241). -/
def triSyl (q : Syl) (f : TriF) (op : AluOp) (s : State) : Res :=
  let ok := decide (f.fn.toNat ≤ (if aluWideOnly op then 0 else 1)) && (!aluUnary op || f.rb == 0)
  syl s q (unitOf 2 q) 0 ok .plain
    [.wr (aluLat op) (.x f.rd.toNat (alu op f.fn.toNat (rdX s q.core f.ra.toNat) (rdX s q.core f.rb.toNat)))]

/-- An IMM syllable: `g` of x[RA] and the immediate. -/
def immSyl (q : Syl) (f : ImmF) (ok : Bool) (g : W64 → BitVec 8 → W64) (s : State) : Res :=
  syl s q (unitOf 2 q) 0 ok .plain [.wr 1 (.x f.rd.toNat (g (rdX s q.core f.ra.toNat) f.imm8))]

/-- Immediate shifts: by IMM8[5:0], with IMM8[7:6] = 0. -/
def shiftSyl (q : Syl) (f : ImmF) (op : AluOp) (s : State) : Res :=
  immSyl q f (decide (f.imm8.toNat < 64)) (fun a i => alu op 0 a (BitVec.ofNat 64 (i.toNat % 64))) s

/-- A write of one bit variable: private from the next cycle, shared from the third (R243); a status
bit is no destination. -/
def bitEff (k : Nat) (v : Bool) : List Eff :=
  if k < 1024 then [.wr 1 (.bit k v)] else if k < 2048 then [.shared k v] else []

/-- A compare into a bit. -/
def cmpSyl (q : Syl) (exts : Nat) (ok : Bool) (ra rb : BitVec 6) (k : Nat) (op : CmpOp) (s : State) : Res :=
  syl s q (unitOf 2 q) exts (ok && decide (k < 2048)) .plain
    (bitEff k (cmpHolds op (rdX s q.core ra.toNat) (rdX s q.core rb.toNat)))

/-- A short compare: destination b[BD8]. -/
def cmpShort (q : Syl) (f : CmpF) (op : CmpOp) (s : State) : Res :=
  cmpSyl q 0 true f.ra f.rb f.bd8.toNat op s

/-- A long compare: destination b[EXT[11:0]]; BD8 and EXT[30:12] reserved. -/
def cmpLong (q : Syl) (f : CmpF) (ext : BitVec 31) (op : CmpOp) (s : State) : Res :=
  cmpSyl q 1 (f.bd8 == 0 && decide (ext.toNat < 4096)) f.ra f.rb (ext.toNat % 4096) op s

/-- The 45-bit immediate of one extension, sign-extended (Table 7.10). -/
def imm45 (f : LongF) (ext : BitVec 31) : W64 := (ext ++ f.imm14).signExtend 64

def execAdd (q : Syl) (f : TriF) (s : State) : Res := triSyl q f .add s
def execSub (q : Syl) (f : TriF) (s : State) : Res := triSyl q f .sub s
def execAnd (q : Syl) (f : TriF) (s : State) : Res := triSyl q f .and s
def execOr (q : Syl) (f : TriF) (s : State) : Res := triSyl q f .or s
def execXor (q : Syl) (f : TriF) (s : State) : Res := triSyl q f .xor s
def execAndn (q : Syl) (f : TriF) (s : State) : Res := triSyl q f .andn s
def execShl (q : Syl) (f : TriF) (s : State) : Res := triSyl q f .shl s
def execShr (q : Syl) (f : TriF) (s : State) : Res := triSyl q f .shr s
def execSar (q : Syl) (f : TriF) (s : State) : Res := triSyl q f .sar s
def execRol (q : Syl) (f : TriF) (s : State) : Res := triSyl q f .rol s
def execMin (q : Syl) (f : TriF) (s : State) : Res := triSyl q f .min s
def execMax (q : Syl) (f : TriF) (s : State) : Res := triSyl q f .max s
def execMinu (q : Syl) (f : TriF) (s : State) : Res := triSyl q f .minu s
def execMaxu (q : Syl) (f : TriF) (s : State) : Res := triSyl q f .maxu s
def execMul (q : Syl) (f : TriF) (s : State) : Res := triSyl q f .mul s
def execMulh (q : Syl) (f : TriF) (s : State) : Res := triSyl q f .mulh s
def execMulhu (q : Syl) (f : TriF) (s : State) : Res := triSyl q f .mulhu s
def execDiv (q : Syl) (f : TriF) (s : State) : Res := triSyl q f .div s
def execDivu (q : Syl) (f : TriF) (s : State) : Res := triSyl q f .divu s
def execRem (q : Syl) (f : TriF) (s : State) : Res := triSyl q f .rem s
def execRemu (q : Syl) (f : TriF) (s : State) : Res := triSyl q f .remu s
def execClz (q : Syl) (f : TriF) (s : State) : Res := triSyl q f .clz s
def execCtz (q : Syl) (f : TriF) (s : State) : Res := triSyl q f .ctz s
def execPopc (q : Syl) (f : TriF) (s : State) : Res := triSyl q f .popc s
def execBswap (q : Syl) (f : TriF) (s : State) : Res := triSyl q f .bswap s

def execAddi (q : Syl) (f : ImmF) (s : State) : Res := immSyl q f true (fun a i => a + i.signExtend 64) s
def execAndi (q : Syl) (f : ImmF) (s : State) : Res := immSyl q f true (fun a i => a &&& i.signExtend 64) s
def execOri (q : Syl) (f : ImmF) (s : State) : Res := immSyl q f true (fun a i => a ||| i.signExtend 64) s
def execXori (q : Syl) (f : ImmF) (s : State) : Res := immSyl q f true (fun a i => a ^^^ i.signExtend 64) s
def execShli (q : Syl) (f : ImmF) (s : State) : Res := shiftSyl q f .shl s
def execShri (q : Syl) (f : ImmF) (s : State) : Res := shiftSyl q f .shr s
def execSari (q : Syl) (f : ImmF) (s : State) : Res := shiftSyl q f .sar s

/-- WRRC: rc = x[RA][15:0]. -/
def execWrrc (q : Syl) (f : ImmF) (s : State) : Res :=
  syl s q (unitOf 2 q) 0 (f.rd == 0 && f.imm8 == 0) .plain
    [.wr 1 (.rc ((rdX s q.core f.ra.toNat).setWidth 16))]

/-- RDRC: x[RD] = rc. -/
def execRdrc (q : Syl) (f : ImmF) (s : State) : Res :=
  syl s q (unitOf 2 q) 0 (f.ra == 0 && f.imm8 == 0) .plain
    [.wr 1 (.x f.rd.toNat ((rdRc s q.core).setWidth 64))]

/-- LI: x[RD] = sext(IMM14). -/
def execLi (q : Syl) (f : LongF) (s : State) : Res :=
  syl s q (unitOf 2 q) 0 true .plain [.wr 1 (.x f.rd.toNat (f.imm14.signExtend 64))]

/-- LI.L: the 45-bit immediate. -/
def execLiL (q : Syl) (f : LongF) (ext : BitVec 31) (s : State) : Res :=
  syl s q (unitOf 2 q) 1 true .plain [.wr 1 (.x f.rd.toNat (imm45 f ext))]

/-- LI.Q: the 64-bit immediate; EXT2[30:19] reserved. -/
def execLiQ (q : Syl) (f : LongF) (ext1 ext2 : BitVec 31) (s : State) : Res :=
  syl s q (unitOf 2 q) 2 (decide (ext2.toNat < 2 ^ 19)) .plain
    [.wr 1 (.x f.rd.toNat ((ext2.setWidth 19 ++ ext1 ++ f.imm14).setWidth 64))]

/-- LA: a code address relative to the bundle's own. -/
def execLa (q : Syl) (f : LongF) (ext : BitVec 31) (s : State) : Res :=
  let pc := (getCore s q.core).pc
  syl s q (unitOf 2 q) 1 true .plain
    [.wr 1 (.x f.rd.toNat (BitVec.ofNat 64
      (bitsOf pc.toNat 32 47 * 2 ^ 32 + ((pc + 4 * imm45 f ext).toNat % 2 ^ 32))))]

/-- GETB: x[RD] = b[IMM14[11:0]]; IMM14[13:12] reserved. -/
def execGetb (q : Syl) (f : LongF) (s : State) : Res :=
  syl s q (unitOf 2 q) 0 (decide (f.imm14.toNat < 4096)) .plain
    [.wr 1 (.x f.rd.toNat (BitVec.ofNat 64 (b2n (rdBit s q.core (f.imm14.toNat % 4096)))))]

def execCeq (q : Syl) (f : CmpF) (s : State) : Res := cmpShort q f .eq s
def execCeqL (q : Syl) (f : CmpF) (ext : BitVec 31) (s : State) : Res := cmpLong q f ext .eq s
def execCne (q : Syl) (f : CmpF) (s : State) : Res := cmpShort q f .ne s
def execCneL (q : Syl) (f : CmpF) (ext : BitVec 31) (s : State) : Res := cmpLong q f ext .ne s
def execClt (q : Syl) (f : CmpF) (s : State) : Res := cmpShort q f .lt s
def execCltL (q : Syl) (f : CmpF) (ext : BitVec 31) (s : State) : Res := cmpLong q f ext .lt s
def execCltu (q : Syl) (f : CmpF) (s : State) : Res := cmpShort q f .ltu s
def execCltuL (q : Syl) (f : CmpF) (ext : BitVec 31) (s : State) : Res := cmpLong q f ext .ltu s
def execCle (q : Syl) (f : CmpF) (s : State) : Res := cmpShort q f .le s
def execCleL (q : Syl) (f : CmpF) (ext : BitVec 31) (s : State) : Res := cmpLong q f ext .le s
def execCleu (q : Syl) (f : CmpF) (s : State) : Res := cmpShort q f .leu s
def execCleuL (q : Syl) (f : CmpF) (ext : BitVec 31) (s : State) : Res := cmpLong q f ext .leu s
def execCtst (q : Syl) (f : CmpF) (s : State) : Res := cmpShort q f .tst s
def execCtstL (q : Syl) (f : CmpF) (ext : BitVec 31) (s : State) : Res := cmpLong q f ext .tst s

end Sys2Proof.Machine
end

