-- ==== Sys2Proof/Machine/IkB.lean ====
section
/-!
DEFINITION. The B unit (Table 8.4): branches, bit operations, CALL, RET and REP.
-/
namespace Sys2Proof.Machine

def bPc (s : State) (q : Syl) : W64 := (getCore s q.core).pc

/-- PC + 4 × a signed word offset, bits [31:0]. -/
def bTarget (s : State) (q : Syl) (off : W64) : Nat := (bPc s q + 4 * off).toNat % 2 ^ 32

def execNop (q : Syl) (rsv : BitVec 20) (s : State) : Res := syl s q 6 0 (rsv == 0) .plain []

def execBr (q : Syl) (off20 : BitVec 20) (s : State) : Res :=
  syl s q 6 0 true .bOther [.branch (bTarget s q (off20.signExtend 64)) true]

def execBrr (q : Syl) (f : TriF) (s : State) : Res :=
  syl s q 6 0 (f.rd == 0 && f.rb == 0 && f.fn == 0) .bOther
    [.branch ((rdX s q.core f.ra.toNat).toNat % 2 ^ 32) true]

/-- A branch on a bit being `v`. -/
def brBit (q : Syl) (f : BitF) (v : Bool) (s : State) : Res :=
  syl s q 6 0 true .bOther
    [.branch (bTarget s q (f.off8.signExtend 64)) (rdBit s q.core f.bn.toNat == v)]

/-- The long form: a signed 31-bit word offset; OFF8 reserved. -/
def brBitLong (q : Syl) (f : BitF) (ext : BitVec 31) (v : Bool) (s : State) : Res :=
  syl s q 6 1 (f.off8 == 0) .bOther
    [.branch (bTarget s q (ext.signExtend 64)) (rdBit s q.core f.bn.toNat == v)]

def execBt (q : Syl) (f : BitF) (s : State) : Res := brBit q f true s
def execBf (q : Syl) (f : BitF) (s : State) : Res := brBit q f false s
def execBtL (q : Syl) (f : BitF) (ext : BitVec 31) (s : State) : Res := brBitLong q f ext true s
def execBfL (q : Syl) (f : BitF) (ext : BitVec 31) (s : State) : Res := brBitLong q f ext false s

/-- BSET, BCLR, BTGL: OFF8 = 0, and BN no status bit. -/
def bitSyl (q : Syl) (f : BitF) (v : Bool) (s : State) : Res :=
  syl s q 6 0 (f.off8 == 0 && decide (f.bn.toNat < 2048)) .bOther (bitEff f.bn.toNat v)

def execBset (q : Syl) (f : BitF) (s : State) : Res := bitSyl q f true s
def execBclr (q : Syl) (f : BitF) (s : State) : Res := bitSyl q f false s
def execBtgl (q : Syl) (f : BitF) (s : State) : Res := bitSyl q f (!rdBit s q.core f.bn.toNat) s

/-- TAS and TAC: b[OFF8] = b[BN], then b[BN] = `v`, as one step; on a shared bit under R211. -/
def testAnd (q : Syl) (f : BitF) (v : Bool) (s : State) : Res :=
  let k := f.bn.toNat
  syl s q 6 0 (decide (k < 2048)) .bOther
    (if k < 1024 then
      [.wr 1 (.bit f.off8.toNat (rdBit s q.core k)), .wr 1 (.bit k v)]
     else [.sharedRmw k v f.off8.toNat])

def execTas (q : Syl) (f : BitF) (s : State) : Res := testAnd q f true s
def execTac (q : Syl) (f : BitF) (s : State) : Res := testAnd q f false s

/-- BLG: b[BD] = TT[2 × b[BA] + b[BB]] (R224). -/
def execBlg (q : Syl) (f : BlgF) (ext : BitVec 31) (s : State) : Res :=
  let ba := bitsOf ext.toNat 19 30
  let bb := bitsOf ext.toNat 7 18
  syl s q 6 1 (f.rsv == 0 && bitsOf ext.toNat 0 6 == 0 && decide (f.bd.toNat < 2048)) .bOther
    (bitEff f.bd.toNat (f.tt.getLsbD (2 * b2n (rdBit s q.core ba) + b2n (rdBit s q.core bb))))

/-- A control core's frame of `size` bytes at `a` leaves the fabric's map: a control-thread fault
(R218). -/
def frameFault (c : Nat) (a : W64) (size : Nat) : Bool := accessFault c a size false

/-- The call of R226: frame, sp, lk and the branch take effect after the call's latency. -/
def callSyl (q : Syl) (ok : Bool) (target : Nat) (ext : BitVec 31) (s : State) : Res :=
  let ok := ok && bitsOf ext.toNat 24 30 == 0
  let f := frameSize (bitsOf ext.toNat 0 15) (bitsOf ext.toNat 16 23)
  if ok && frameFault q.core (callSp s q.core f) f then .next (ctrlFault s q.core)
  else syl s q 6 1 ok .bOther
    [.call target (bitsOf ext.toNat 0 15) (bitsOf ext.toNat 16 23)]

def execCall (q : Syl) (off20 : BitVec 20) (ext : BitVec 31) (s : State) : Res :=
  callSyl q true (bTarget s q (off20.signExtend 64)) ext s

def execCallr (q : Syl) (f : TriF) (ext : BitVec 31) (s : State) : Res :=
  callSyl q (f.rd == 0 && f.rb == 0 && f.fn == 0) ((rdX s q.core f.ra.toNat).toNat % 2 ^ 32) ext s

/-- A frame byte as it stands after every store issued before the RET bundle (R251). -/
def frameByte (s : State) (c a : Nat) : Byte :=
  let horizon := (getCore s c).cyc + 2 ^ 20
  if isLighterCore c then
    let n := winNorm a 1
    if 0x80000 ≤ n ∧ !(getStream s c ((n - 0x80000) / 0x8000)).isOpen then 0 else byteView s c horizon n
  else byteView s c horizon a

/-- Field `len` bytes at offset `off` of the frame at sp. -/
def frameNat (s : State) (c off len : Nat) : Nat :=
  ofLe ((List.range len).map (fun i => frameByte s c ((rdX s c 63).toNat + off + i)))

/-- The integer registers a frame restores, with their offsets in it: every saved one but x0 and
x63. -/
def frameInts (imask : Nat) : List (Nat × Nat) :=
  (((maskBits imask 16).zipIdx.map (fun e =>
    (List.range 4).map (fun j => (4 * e.1 + j, 64 + 32 * e.2 + 8 * j)))).flatten).filter
      (fun e => e.1 != 0 && e.1 != 63)

/-- The vector registers it restores, with their offsets. -/
def frameVecs (imask vmask : Nat) : List (Nat × Nat) :=
  let base := 64 + 64 * ceilDiv (32 * (maskBits imask 16).length) 64
  ((maskBits vmask 8).zipIdx.map (fun e =>
    (List.range 4).map (fun j => (4 * e.1 + j, base + 256 * e.2 + 64 * j)))).flatten

/-- FSIZE of the frame at sp, computed from the masks in its header (R227). -/
def retSize (s : State) (c : Nat) : Nat := frameSize (frameNat s c 8 2) (frameNat s c 10 1)

/-- What RET restores from the frame: rc, sp and the saved registers. -/
def retWrites (s : State) (c : Nat) : List Wr :=
  [.rc (BitVec.ofNat 16 (frameNat s c 16 2)), .x 63 (BitVec.ofNat 64 (frameNat s c 24 8))] ++
    (frameInts (frameNat s c 8 2)).map (fun e => .x e.1 (BitVec.ofNat 64 (frameNat s c e.2 8))) ++
    (frameVecs (frameNat s c 8 2) (frameNat s c 10 1)).map
      (fun e => .v e.1 (BitVec.ofNat 512 (frameNat s c e.2 64)))

/-- RET (R227). -/
def execRet (q : Syl) (rsv : BitVec 20) (s : State) : Res :=
  let c := q.core
  let f := retSize s c
  if rsv == 0 && frameFault c (rdX s c 63) f then .next (ctrlFault s c)
  else syl s q 6 0 (rsv == 0) .bOther
    (.ret (BitVec.ofNat 64 (frameNat s c 0 8)) f (63 :: (frameInts (frameNat s c 8 2)).map Prod.fst)
        ((frameVecs (frameNat s c 8 2) (frameNat s c 10 1)).map Prod.fst) ::
      (retWrites s c).map (fun w => .wr (3 + ceilDiv f 128) w))

/-- REPI: the next bundle OFF20[15:0] times; OFF20[19:16] = 0 (R253). -/
def execRepi (q : Syl) (off20 : BitVec 20) (s : State) : Res :=
  syl s q 6 0 (decide (off20.toNat < 65536)) .bOther [.rep (off20.toNat % 65536)]

/-- REPC: the next bundle rc times. -/
def execRepc (q : Syl) (rsv : BitVec 20) (s : State) : Res :=
  syl s q 6 0 (rsv == 0) .bOther [.rep (rdRc s q.core).toNat]

end Sys2Proof.Machine
end

