-- ==== Sys2Proof/Machine/IkV.lean ====
section
/-!
DEFINITION. The V units (Table 8.3).
-/
namespace Sys2Proof.Machine

/-- A vector syllable that writes v[VD] with one latency for integer and one for floating-point
elements. -/
def vecSyl (q : Syl) (f : VecF) (ok : Bool) (li lf : Nat) (r : V512) (s : State) : Res :=
  syl s q (unitOf 4 q) 0 ok .plain
    [.wr (if etFloat f.et.toNat then lf else li) (.v f.vd.toNat r)]

def vA (s : State) (q : Syl) (f : VecF) : V512 := rdV s q.core f.va.toNat
def vB (s : State) (q : Syl) (f : VecF) : V512 := rdV s q.core f.vb.toNat
def vD (s : State) (q : Syl) (f : VecF) : V512 := rdV s q.core f.vd.toNat

/-- ET is an integer code with FN at most `n`, or a floating-point code with FN 0. -/
def fnOk (f : VecF) (n : Nat) : Bool :=
  (etInt f.et.toNat && decide (f.fn.toNat ≤ n)) || (etFloat f.et.toNat && f.fn == 0)

def addSubSyl (q : Syl) (f : VecF) (sub : Bool) (s : State) : Res :=
  vecSyl q f (fnOk f 2) 2 4
    (vecMap2 f.et.toNat (laneAddSub sub f.et.toNat f.fn.toNat) (vA s q f) (vB s q f)) s

def execVadd (q : Syl) (f : VecF) (s : State) : Res := addSubSyl q f false s
def execVsub (q : Syl) (f : VecF) (s : State) : Res := addSubSyl q f true s

def execVmul (q : Syl) (f : VecF) (s : State) : Res :=
  vecSyl q f (fnOk f 2) 4 4 (vecMap2 f.et.toNat (laneMul f.et.toNat f.fn.toNat) (vA s q f) (vB s q f)) s

/-- VFMA: VD + VA × VB, or VD − VA × VB, with one rounding. -/
def execVfma (q : Syl) (f : VecF) (s : State) : Res :=
  let w := etWidth f.et.toNat
  vecSyl q f (etFloat f.et.toNat && decide (f.fn.toNat ≤ 1)) 5 5
    (mkLanes w (fun i => fFma (etFmt f.et.toNat) (f.fn == 1) (lane w (vD s q f) i) (lane w (vA s q f) i) (lane w (vB s q f) i))) s

def minMaxSyl (q : Syl) (f : VecF) (mx : Bool) (s : State) : Res :=
  vecSyl q f (fnOk f 1) 2 4
    (vecMap2 f.et.toNat (laneMinMax mx f.et.toNat f.fn.toNat) (vA s q f) (vB s q f)) s

def execVmin (q : Syl) (f : VecF) (s : State) : Res := minMaxSyl q f false s
def execVmax (q : Syl) (f : VecF) (s : State) : Res := minMaxSyl q f true s

/-- Bitwise operations: ET and FN 0. -/
def bitwiseSyl (q : Syl) (f : VecF) (r : V512) (s : State) : Res :=
  vecSyl q f (f.et == 0 && f.fn == 0) 2 2 r s

def execVand (q : Syl) (f : VecF) (s : State) : Res := bitwiseSyl q f (vA s q f &&& vB s q f) s
def execVor (q : Syl) (f : VecF) (s : State) : Res := bitwiseSyl q f (vA s q f ||| vB s q f) s
def execVxor (q : Syl) (f : VecF) (s : State) : Res := bitwiseSyl q f (vA s q f ^^^ vB s q f) s
def execVandn (q : Syl) (f : VecF) (s : State) : Res := bitwiseSyl q f (vA s q f &&& ~~~(vB s q f)) s

/-- VBSL: VD selects between VA and VB. -/
def execVbsl (q : Syl) (f : VecF) (s : State) : Res :=
  bitwiseSyl q f ((vD s q f &&& vA s q f) ||| (~~~(vD s q f) &&& vB s q f)) s

def execVshl (q : Syl) (f : VecF) (s : State) : Res :=
  vecSyl q f (etInt f.et.toNat && f.fn == 0) 2 2
    (vecMap2 f.et.toNat (laneShl (etWidth f.et.toNat)) (vA s q f) (vB s q f)) s

def execVshr (q : Syl) (f : VecF) (s : State) : Res :=
  vecSyl q f (etInt f.et.toNat && decide (f.fn.toNat ≤ 1)) 2 2
    (vecMap2 f.et.toNat (laneShr (etWidth f.et.toNat) (f.fn == 1)) (vA s q f) (vB s q f)) s

def execVcmp (q : Syl) (f : VecF) (s : State) : Res :=
  vecSyl q f (etInt f.et.toNat || (etFloat f.et.toNat && decide (f.fn.toNat ≤ 2))) 2 4
    (vecMap2 f.et.toNat (laneCmp f.et.toNat f.fn.toNat) (vA s q f) (vB s q f)) s

def execVperm (q : Syl) (f : VecF) (s : State) : Res :=
  vecSyl q f (etInt f.et.toNat && decide (f.fn.toNat ≤ 1)) 3 3
    (vecPerm f.et.toNat f.fn.toNat (vA s q f) (vB s q f)) s

/-- VCVT: from source type VB[2:0] to ET; FN selects the half, and is 0 for equal lane counts
(R246). -/
def execVcvt (q : Syl) (f : VecF) (s : State) : Res :=
  let se := f.vb.toNat % 8
  let ok := decide (f.vb.toNat < 8) && decide (se < 7) && decide (f.et.toNat < 7) && decide (f.fn.toNat ≤ 1) &&
    (f.fn == 0 || etWidth se != etWidth f.et.toNat)
  vecSyl q f ok 4 4 (vecCvt se f.et.toNat f.fn.toNat (vD s q f) (vA s q f)) s

/-- VRED: lane 0 the sum, minimum or maximum of VA, other lanes 0. -/
def execVred (q : Syl) (f : VecF) (s : State) : Res :=
  vecSyl q f (decide (f.et.toNat < 7) && decide (f.fn.toNat ≤ 2) && f.vb == 0) 6 8
    (vecRed f.et.toNat f.fn.toNat (vA s q f)) s

def execVmov (q : Syl) (f : VecF) (s : State) : Res :=
  vecSyl q f (f.et == 0 && f.fn == 0 && f.vb == 0) 1 1 (vA s q f) s

/-- A VSC syllable that writes v[VD]. -/
def vscSyl (q : Syl) (f : VscF) (ok : Bool) (lat : Nat) (r : V512) (s : State) : Res :=
  syl s q (unitOf 4 q) 0 ok .plain [.wr lat (.v f.vd.toNat r)]

def sA (s : State) (q : Syl) (f : VscF) : V512 := rdV s q.core f.va.toNat
/-- The scalar: the low bits of x[RB] at the lane width. -/
def scalar (s : State) (q : Syl) (f : VscF) : Nat := (rdX s q.core f.rb.toNat).toNat % 2 ^ etWidth f.et.toNat

/-- Every lane of VA with the scalar. -/
def scalarMap (s : State) (q : Syl) (f : VscF) (g : Nat → Nat → Nat) : V512 :=
  let w := etWidth f.et.toNat
  mkLanes w (fun i => g (lane w (sA s q f) i) (scalar s q f))

def execVbcast (q : Syl) (f : VscF) (s : State) : Res :=
  vscSyl q f (decide (f.et.toNat < 7) && f.fn == 0 && f.va == 0) 2
    (mkLanes (etWidth f.et.toNat) (fun _ => scalar s q f)) s

def execVsld (q : Syl) (f : VscF) (s : State) : Res :=
  vscSyl q f (decide (f.et.toNat < 7)) 3
    (vecSld f.et.toNat f.fn.toNat (sA s q f) (rdX s q.core f.rb.toNat).toNat) s

/-- VGET: x[RB] = lane 0 of VA, sign-extended (integer only) or zero-extended. -/
def execVget (q : Syl) (f : VscF) (s : State) : Res :=
  let w := etWidth f.et.toNat
  let v := lane w (sA s q f) 0
  syl s q (unitOf 4 q) 0 (decide (f.et.toNat < 7) && (etInt f.et.toNat || f.fn == 1) && f.vd == 0) .plain
    [.wr 3 (.x f.rb.toNat (if f.fn = 0 then BitVec.ofInt 64 (laneInt w v) else BitVec.ofNat 64 v))]

def execVadds (q : Syl) (f : VscF) (s : State) : Res :=
  vscSyl q f (etInt f.et.toNat) 2 (scalarMap s q f (laneAddSub false f.et.toNat f.fn.toNat)) s
def execVmuls (q : Syl) (f : VscF) (s : State) : Res :=
  vscSyl q f (etInt f.et.toNat) 4 (scalarMap s q f (laneMul f.et.toNat f.fn.toNat)) s
def execVshls (q : Syl) (f : VscF) (s : State) : Res :=
  vscSyl q f (etInt f.et.toNat && f.fn == 0) 2 (scalarMap s q f (laneShl (etWidth f.et.toNat))) s
def execVshrs (q : Syl) (f : VscF) (s : State) : Res :=
  vscSyl q f (etInt f.et.toNat) 2 (scalarMap s q f (laneShr (etWidth f.et.toNat) (f.fn == 1))) s

end Sys2Proof.Machine
end

