-- ==== Sys2Proof/Machine/Resets.lean ====
section
/-!
DEFINITION. Power-on, module-wide resets, the watchdog, references, and power loss (R391, R393, R396,
R408 to R411, R418, R419, R422 to R427, R498).
-/
namespace Sys2Proof.Machine

/-! ### Stops -/

/-- A trigger of Table 16.2 or R396 is noted for RESET_CAUSE: of the start that waits at the end of
step 2, or of the one to come. -/
def noteCause (s : State) (mask : Nat) : State :=
  if s.power.bootWait = 4 then { s with power := { s.power with cause := s.power.cause ||| mask } }
  else { s with power := { s.power with nextCause := s.power.nextCause ||| mask } }

/-- The supervisor's copy of the subsystem health outlives the harbour die (R481). -/
def copyHealth (s : State) : State := if s.power.bootStep < 4 then s else { s with mgmt := { s.mgmt with health := healthNow s } }

/-- MODULE_WIDE_RESET (R423): PTNR_ALIVE_OUT falls, dirty writes and the journal tail are dumped whatever
the hold-up health, D1 to D19 are released, and the module stays in reset. A reset that is no watchdog's
breaks a row of fewer than three (R427). -/
def moduleReset (s : State) (mask : Nat) : State :=
  let s := bump (noteCause (copyHealth s) mask) 0x3010 7 1
  let s := if 5 ≤ s.power.bootStep then stopDumped s true else s
  let s := clearModule s false
  { s with power := { s.power with on := [0], wdtRow := if bitOf mask 3 || decide (3 ≤ s.power.wdtRow) then s.power.wdtRow else 0 } }

/-- Every domain is released. -/
def powerOff (s : State) : State :=
  let s := clearModule s true
  { s with power := { s.power with on := [] } }

/-- The lighter clusters and the PCIe PHYs go off, ending every running block (Table 15.5a step 4). -/
def shedLoad (s : State) : State :=
  { s with power := { s.power with on := s.power.on.filter (fun d => decide (d < 3) || decide (10 < d)), linkUp := [false, false, false, false] }
           ik := { s.ik with cores := s.ik.cores.filter (fun e => decide (256 ≤ e.1)) } }

/-- Steps 1 to 4 of Table 15.5a. -/
def beginDump (s : State) : State :=
  let s := shedLoad (copyHealth s)
  { s with power := { s.power with dumping := true }, pair := { s.pair with aliveOut := false } }

/-- What a power loss does to a module whose restore has ended, and to one that is still booting, which
has admitted no write (R425). -/
def losePower (s : State) : State := if s.power.bootStep < 5 then powerOff (copyHealth s) else beginDump s

/-! ### Reset contacts -/

/-- A module held in reset, or not yet started, is at boot step 1; it waits at the end of step 2 while a
contact is asserted. -/
def heldInReset (s : State) : Bool := decide (s.power.bootStep ≤ 1) || s.power.bootWait == 4

/-- A reset contact is asserted: `mask` is its bit of RESET_CAUSE. A dump in progress ends first (R425);
MOD_RST_N alone ends the states that a thermal shutdown and a second failed power-up left (R393, R498). -/
def contactAsserted (s : State) (mask : Nat) : State :=
  if s.power.dumping then noteCause s mask
  else if s.power.on.isEmpty then
    if s.power.thermal ∧ s.power.inputOn ∧ mask = 2 then
      bump (noteCause { s with power := { s.power with thermal := false, on := [0] } } mask) 0x3010 7 1
    else s
  else if heldInReset s then noteCause s mask
  else if s.power.bootWait = 6 ∧ mask ≠ 2 then s
  else moduleReset s mask

/-- A reset contact is released: the module starts once neither is asserted. -/
def contactReleased (s : State) (b : BootIn) : State :=
  if s.power.modRst ∨ s.power.fenceIn ∨ s.power.dumping ∨ s.power.on.isEmpty then s
  else if s.power.bootWait = 4 then bootFromThree { s with power := { s.power with bootWait := 0 } } b false
  else if s.power.bootStep ≤ 1 then bootFromTwo s b
  else s

def execModRstNAssert (s : State) : Res :=
  .next (when (!s.power.modRst) s (contactAsserted { s with power := { s.power with modRst := true } } 2))
def execModRstNDeassert (b : BootIn) (s : State) : Res :=
  .next (when s.power.modRst s (contactReleased { s with power := { s.power with modRst := false } } b))
def execFenceInAssert (s : State) : Res :=
  .next (when (!s.power.fenceIn) s (contactAsserted { s with power := { s.power with fenceIn := true } } 4))
def execFenceInDeassert (b : BootIn) (s : State) : Res :=
  .next (when s.power.fenceIn s (contactReleased { s with power := { s.power with fenceIn := false } } b))

/-! ### Watchdog (R426, R427) -/

/-- WATCHDOG_RENEW. -/
def execWatchdogRenew (s : State) : Res :=
  .next (when s.power.wdtAt.isSome s { s with power := { s.power with wdtAt := some s.nowMs } })

/-- The watchdog has not been renewed within WDT_TIMEOUT; an activation and a dump suspend it. -/
def watchdogOver (s : State) : Bool :=
  s.host.activation.isNone && !s.power.dumping && s.power.wdtAt.any (fun t => decide (t + dget s 0x3010 3 ≤ s.nowMs))

/-- A watchdog reset; one before boot step 5 ends counts towards R427. -/
def watchdogReset (s : State) (b : BootIn) : State :=
  let row := if s.power.bootStep < 5 then s.power.wdtRow + 1 else 0
  let s := bump s 0x3010 4 1
  let s := moduleReset { s with power := { s.power with wdtRow := row, collect := true } } 8
  contactReleased (emergency s 0x0303 0x3010 1 s.power.nextCause) b

def execWatchdogExpiry (b : BootIn) (s : State) : Res := .next (when (watchdogOver s) s (watchdogReset s b))

/-! ### Power-on and the power-up sequence (R391, R393, R410, R411) -/

/-- A dump in progress is cut short: it is counted and logged at the next boot (R411). -/
def cutDump (s : State) : State :=
  if s.power.dumping then
    let s := logPel (bump (stopCutShort s) 0x2000 0x0A 1) "incomplete dump" 0 0
    { s with power := { s.power with dumping := false, collect := true } }
  else s

/-- POWER_ON: the input has been at or above 9.0 V for 10 ms, and the module was off, or had not reached
the end of boot step 5, or was still dumping when the input failed for good. -/
def execPowerOn (b : BootIn) (s : State) : Res :=
  .next (when (decide (s.power.bootStep < 5) || s.power.dumping || s.power.on.isEmpty) s (bootFromOne (cutDump s) b 1))

/-- POWER_RESTART: the input has been back for 100 ms after the dump; after a rail fault during boot, it
never went. -/
def execPowerRestart (b : BootIn) (s : State) : Res :=
  .next (when s.power.powerRestart s (bootFromOne s b (if s.power.inputOn then 0 else 32)))

/-- POWER_UP_RAIL_TIMEOUT: a rail is not good within its bound; after the second failure only D0 stays
powered. -/
def execPowerUpRailTimeout (slot : Nat) (s : State) : Res :=
  if s.power.bootWait = 1 then .next { s with power := { s.power with bootWait := 5, on := [0] } }
  else .next (when (s.power.bootWait == 7) s
    (emergency (logPel { s with power := { s.power with bootWait := 6, on := [0] } } "power-up failed twice" slot 0) 0x0201 (0x2100 + slot) 0 slot))

/-- POWER_UP_RETRY: 1 s later. -/
def execPowerUpRetry (b : BootIn) (s : State) : Res := .next (when (s.power.bootWait == 5) s (bootFromThree s b true))

/-! ### References (R418 to R420) -/

/-- REFCLK_LOSS. From boot step 3 on the PLLs enter holdover, and the loss is reported. -/
def execRefclkLoss (s : State) : Res :=
  .next (when s.power.refclk s
    (let s := { s with power := { s.power with refclk := false } }
     if s.power.bootStep < 3 ∨ s.power.on.isEmpty then s
     else
       let s := bump { s with power := { s.power with holdover := true } } 0x3000 2 1
       logPel (emergency s 0x0302 0x3000 1 0) "REFCLK_25M lost" 0 0))

/-- REFCLK_RETURN: holdover ends; a boot that waited goes on. -/
def execRefclkReturn (b : BootIn) (s : State) : Res :=
  .next (when (!s.power.refclk) s
    (let s := { s with power := { s.power with refclk := true, holdover := false } }
     if s.power.bootWait = 2 then bootFromThree s b false else s))

/-- The refclk of a port goes: it trains no more; a link that is up is another event's matter. -/
def execPortRefclkLoss (port : Nat) (s : State) : Res :=
  .next (when (decide (port < 4) && (s.power.portRef[port]?).getD false) s
    { s with power := { s.power with portRef := listMod (fun _ => false) s.power.portRef port } })

def execPortRefclkReturn (port : Nat) (s : State) : Res :=
  .next (when (decide (port < 4) && !(s.power.portRef[port]?).getD true) s
    (settlePort { s with power := { s.power with portRef := listMod (fun _ => true) s.power.portRef port } } port))

/-! ### Power loss (R408 to R410, R396, R498) -/

/-- INPUT_LOSS; a measurement in progress delays it (R406). A loss during a dump is that dump; a module
that is off detects and counts none. -/
def execInputLoss (s : State) : Res :=
  .next (when (s.power.inputOn && s.power.measuring.isNone) s
    (if s.power.on.isEmpty then { s with power := { s.power with inputOn := false } } else
     let s := bump { s with power := { s.power with inputOn := false } } 0x2000 9 1
     if s.power.dumping then s else losePower s))

/-- What follows a dump: with the input gone the module is off; after a thermal shutdown it stays off
unless MOD_RST_N was asserted; else it starts again, at once or when its reset contacts are released. -/
def afterDump (s : State) (b : BootIn) : State :=
  let s := powerOff s
  if !s.power.inputOn then { s with power := { s.power with powerRestart := true } }
  else if s.power.thermal ∧ !bitOf s.power.nextCause 1 then s
  else bootFromOne (if s.power.nextCause % 8 / 2 = 0 then s else bump s 0x3010 7 1) b 0

/-- DUMP_COMPLETE: steps 5 to 7 of Table 15.5a. With insufficient hold-up only the journal tail was
dumped (R32). -/
def execDumpComplete (bytes us : Nat) (b : BootIn) (s : State) : Res :=
  .next (when s.power.dumping s
    (let s := stopDumped s s.power.healthy
     afterDump { s with power := { s.power with dumpBytes := bytes, dumpUs := us } } b))

/-- The slot of a domain, and what keeps it off (R396). -/
def keepOff (s : State) (dom : Nat) : State :=
  let drop (i sub k : Nat) : State := if bitOf (dget s i sub) k then persist s i sub (dget s i sub - 2 ^ k) else s
  if dom = 2 then persist s 0x2104 1 0
  else if dom ≤ 10 then drop 0x2300 4 (dom - 3)
  else drop 0x2300 3 (dom - 11)

/-- RAIL_FAULT: a power loss with the domain kept off, or, on D0, D1, D18 and D19, a stop without a
dump. -/
def railFault (s : State) (dom : Nat) : State :=
  let s := emergency (bump s 0x2000 0x0C 1) 0x0202 (0x2102 + dom) 0 (2 + dom)
  let s := { s with power := { s.power with collect := true } }
  if dom = 0 ∨ dom = 1 ∨ dom = 18 ∨ dom = 19 then
    powerOff (if s.power.bootStep < 5 then copyHealth s else stopMedia (copyHealth s) s.media.programmedJsn)
  else
    let s := noteCause (keepOff s dom) 16
    if s.power.dumping then s
    else
      let s := losePower s
      if s.power.dumping then s else { s with power := { s.power with powerRestart := true } }

def execRailFault (dom : Nat) (s : State) : Res := .next (when (domainOn s dom && decide (dom < 20)) s (railFault s dom))

/-- Die sensors of Table 19.5. -/
def dieSensor (k : Nat) : Bool := decide (1 ≤ k) && decide (k ≤ 0x15)

/-- THERMAL_SHUTDOWN: a die at 115 °C or above for 1 ms. -/
def execThermalShutdown (sensor : Nat) (reading : Int) (s : State) : Res :=
  .next (when (dieSensor sensor && decide (1150 ≤ reading) && !s.power.on.isEmpty && !s.power.dumping) s
    (let s := settleTemp (dset s 0x3100 sensor (unsigned32 reading))
     losePower (bump { s with power := { s.power with thermal := true } } 0x3100 0x21 1)))

/-- TEMPERATURE_THRESHOLD_CROSSED: a sensor reads a new value. -/
def execTemperatureThresholdCrossed (sensor : Nat) (reading : Int) (s : State) : Res :=
  .next (when (decide (1 ≤ sensor) && decide (sensor ≤ 0x19) && !s.power.on.isEmpty) s
    (settleTemp (dset s 0x3100 sensor (unsigned32 reading))))

end Sys2Proof.Machine
end

