-- ==== Sys2Proof/Machine/DredgeOps.lean ====
section
/-!
DEFINITION. The books of the dredge test (R490, R491, R495).
-/
namespace Sys2Proof.Machine

/-- The mark of a unit of a task. -/
def unitMark (task unit : Nat) : Nat := task + 16 * (unit + 1)
def unitDone (s : State) (task unit : Nat) : Bool := tabGet 0 s.service.tasks (unitMark task unit) == 1

/-- Tasks 1 to 5 and 7 have covered their domains. -/
def cycleDone (s : State) : Bool := cycleTasks.all (fun k => decide (taskUnits s k ≤ tabGet 0 s.service.tasks k))

/-- A cycle that has covered everything ends, and is counted. -/
def settleCycle (s : State) : State :=
  if s.service.cycleAt.isSome ∧ cycleDone s then
    bump { s with service := { s.service with cycleAt := none, overrun := false, tasks := [] } } 0x9000 5 1
  else s

/-- A unit of a task is done, once a cycle. -/
def noteUnit (s : State) (task unit : Nat) : State :=
  if unitDone s task unit then s
  else
    let t := tabMod 0 (tabSet 0 s.service.tasks (unitMark task unit) 1) task (· + 1)
    settleCycle { s with service := { s.service with tasks := t } }

/-- A fault that a task or a self-test found. -/
def noteFault (s : State) (task unit detail : Nat) : State :=
  let v := s.service
  bump { s with service := { v with
    dredgeErrs := (({ time := s.nowMs, task := task, unit := unit, detail := detail } : DErr) :: v.dredgeErrs).take 8
    taskFaults := tabMod 0 v.taskFaults task (· + 1), taskLast := tabPut v.taskLast task s.nowMs } } 0x9000 7 1

/-- Dredge tasks 1 to 5 and the segments of a self-test run: a cycle runs, and no extended self-test
pauses it but to do its work; an activation suspends the self-test. -/
def testing (s : State) : Bool :=
  s.power.bootStep == 6 && !s.power.dumping &&
    ((dget s 0x9000 1 == 1 && s.service.cycleAt.isSome && s.service.stCode != 2) || (s.service.stCode != 0 && s.host.activation.isNone))

end Sys2Proof.Machine
end

