-- ==== Sys2Proof/Machine/PilotOps.lean ====
section
/-!
DEFINITION. The pilot engine's loops (R399 to R402), V_avg (R408) and the hold-up measurement (R31, R33,
R405 to R407).
-/
namespace Sys2Proof.Machine

/-! ### Loops -/

/-- An entry of a slot's record. -/
def slotVal (s : State) (k sub : Nat) : Nat := dget s (0x2100 + k) sub

/-- A number held at 64-bit signed and at 16-bit unsigned limits. -/
def sat64 (x : Int) : Int := max (-(2 ^ 63)) (min x (2 ^ 63 - 1))
def satU16 (x : Int) : Int := max 0 (min x 65535)

/-- The measurement of a slot from its ADC code. -/
def measure (s : State) (k raw : Nat) : Int :=
  satU16 (((raw % 65536 * slotVal s k 0x60 / 65536 : Nat) : Int) + signed32 (slotVal s k 0x61))

/-- The scheduling variable: the measurement, the previous duty, or the sample of another source. -/
def schedVar (s : State) (k : Nat) (m : Int) (x : Nat) : Nat :=
  match slotVal s k 6 with
  | 0 => m.toNat
  | 6 => (tabGet Pilot.empty s.power.pilots k).duty
  | _ => x % 65536

/-- The region moves up while the next threshold is reached, and down while x lies a hysteresis below its
own (R402). -/
def regionUp (s : State) (k x : Nat) : Nat → Nat → Nat
  | 0, r => r
  | n + 1, r => if r + 1 < slotVal s k 8 ∧ slotVal s k (0x10 + (r + 1)) ≤ x then regionUp s k x n (r + 1) else r
def regionDown (s : State) (k x : Nat) : Nat → Nat
  | 0 => 0
  | r + 1 => if (x : Int) < (slotVal s k (0x10 + (r + 1)) : Int) - (slotVal s k 7 : Int) then regionDown s k x r else r + 1
def regionOf (s : State) (k x r : Nat) : Nat := regionDown s k x (regionUp s k x 8 r)

/-- One term: an exact product, shifted right arithmetically. -/
def term (s : State) (k r j : Nat) (h : Int) : Int :=
  let c := slotVal s k (0x20 + 7 * r + j)
  signed32 (bitsOf c 0 31) * h / 2 ^ bitsOf c 32 36

/-- The accumulator of a slot's control law. -/
def controlAcc (s : State) (k r : Nat) (p : Pilot) (e : Int) : Int :=
  let hs : List (Nat × Int) := [(0, e), (1, p.e1), (2, p.e2), (3, p.e3), (4, p.y1), (5, p.y2), (6, p.y3)]
  hs.foldl (fun acc h => sat64 (acc + term s k r h.1 h.2)) 0

/-- One evaluation of a slot (R399). -/
def evalSlot (s : State) (k raw x : Nat) : State :=
  let p := tabGet Pilot.empty s.power.pilots k
  let m := measure s k raw
  let v := schedVar s k m x
  let r := regionOf s k v p.region
  let e := (slotVal s k 3 : Int) - m
  let acc := controlAcc s k r p e
  let y := min (max acc (slotVal s k 4 * 2 ^ 16 : Nat)) (slotVal s k 5 * 2 ^ 16 + 0xFFFF : Nat)
  let s := if acc ≠ y then bump s (0x2100 + k) 0x0B 1 else s
  let p := { p with
    region := r, schedX := v, outOfRange := decide (v < slotVal s k 0x10), lastMeas := m, duty := (y / 2 ^ 16).toNat
    e1 := e, e2 := p.e1, e3 := p.e2, y1 := y, y2 := p.y1, y3 := p.y2, satSec := p.satSec + b2n (decide (acc ≠ y)) }
  { s with power := { s.power with pilots := tabSet Pilot.empty s.power.pilots k p } }

/-- PILOT_LOOP_EVAL: a window of a slot that runs. `x` is the sample of a source of Table 15.3 other than
0 and 6. -/
def execPilotLoopEval (slot raw x : Nat) (s : State) : Res :=
  .next (when (decide (slot < 22) && (tabGet Pilot.empty s.power.pilots slot).run && !s.power.on.isEmpty) s (evalSlot s slot raw x))

/-! ### V_avg (R408) -/

/-- VAVG_UPDATE: the mean of the last 1,000 ms; a measurement freezes it (R406). -/
def execVavgUpdate (mv10 : Nat) (s : State) : Res :=
  .next (when (s.power.measuring.isNone && !s.power.on.isEmpty) s
    (let l := (mv10 :: s.power.vin).take 1000
     { s with power := { s.power with vin := l, vavg := meanOf l } }))

/-! ### Hold-up (R405 to R407) -/

/-- A measurement is due: at boot, 24 h after the last one, or in an extended self-test. -/
def holdupDue (s : State) : Bool :=
  (match s.power.measuredAt with | none => true | some t => decide (t + 86400000 ≤ s.nowMs)) || s.service.stCode == 2

/-- HOLDUP_MEASUREMENT_START: deferred during a dump, a reset or a power state entry (R491). -/
def execHoldupMeasurementStart (v1 : Nat) (s : State) : Res :=
  .next (when (decide (3 ≤ s.power.bootStep) && s.power.inputOn && !s.power.dumping && s.power.measuring.isNone && s.host.psWait.isNone && holdupDue s) s
    { s with power := { s.power with measuring := some v1 } })

/-- C in µF from V1 and V2 in 10 mV units and the energy in µJ. -/
def capacitance (v1 v2 energyUj : Nat) : Nat := 20000 * energyUj / (v1 * v1 - v2 * v2)

/-- V_det in 0.1 mV units: the larger of 0.85 V_avg and 8.8 V. -/
def vDet (s : State) : Nat := max (85 * s.power.vavg) 88000

/-- E_u in mJ. -/
def usableEnergy (s : State) (c : Nat) : Nat := c * (vDet s * vDet s - 36 * 10 ^ 8) / (2 * 10 ^ 11)

/-- HOLDUP_HEALTH_CHANGE (R33): SMART bit 4 follows; what durability waited for goes on. When it turns
insufficient, the whole journal tail is programmed before the next erase (R106). -/
def setHealth (s : State) (ok : Bool) : State :=
  let was := s.power.healthy
  let s := setWarn { s with power := { s.power with healthy := ok } } 4 (!ok)
  let s := if !ok ∧ was then { s with media := { s.media with tailDue := s.media.jsn } } else s
  if ok ∧ !was then flushCheck (settleWindow (closeDue (applyReady s))) else s

/-- HOLDUP_MEASUREMENT_END: a fall of less than 0.2 % makes the measurement invalid. Any but boot's is a
unit of dredge task 6. -/
def holdupEnd (s : State) (v1 v2 energyUj : Nat) : State :=
  let bad : Bool := decide ((v1 - v2) * 1000 < 2 * v1)
  let c := if bad then 0 else capacitance v1 v2 energyUj
  let e := if bad then 0 else usableEnergy s c
  let again := s.power.measuredAt.isSome
  let s := { s with power := { s.power with measuring := none, measuredAt := some s.nowMs, noIsolation := bad, lastC := c } }
  let s := if again then noteUnit (if e < 24000 then noteFault s 6 0 e else s) 6 0 else s
  setHealth (persist s 0x2000 5 (min e (2 ^ 32 - 1))) (decide (24000 ≤ e))

def execHoldupMeasurementEnd (v2 energyUj : Nat) (s : State) : Res :=
  match s.power.measuring with
  | some v1 => .next (holdupEnd s v1 v2 energyUj)
  | none => .next s

end Sys2Proof.Machine
end

