-- ==== Sys2Proof/Machine/Service.lean ====
section
/-!
DEFINITION. The end of a self-test and the tasks of the dredge test (R150, R487 to R494).
-/
namespace Sys2Proof.Machine

/-- The segments of a test (Table 19.1). -/
def segmentsOf (test : Nat) : List Nat := ((List.range 10).filter (fun k => k != 0 && (test == 2 || k != 9)))

/-- SELF_TEST_COMPLETE: the first failing segment gives the result. -/
def execSelfTestComplete (failed notRun : List Nat) (s : State) : Res :=
  let segs := segmentsOf s.service.stCode
  .next (when (s.service.stCode != 0 && s.host.activation.isNone && !s.power.dumping) s
    (match segs.find? (failed.contains ·) with
     | some k => selfTestEnd s 7 k (bitSet ((segs.filter (notRun.contains ·)).map (· - 1)))
     | none => selfTestEnd s 0 0 (bitSet ((segs.filter (notRun.contains ·)).map (· - 1)))))

/-- DREDGE_CYCLE_START: at the end of boot step 6, and at the end of each cycle. -/
def execDredgeCycleStart (s : State) : Res :=
  .next (when (s.power.bootStep == 6 && s.service.cycleAt.isNone && dget s 0x9000 1 == 1) s
    { s with service := { s.service with cycleAt := some s.nowMs, overrun := false, tasks := [] } })

/-- CYCLE_OVERRUN: CYCLE_H hours have passed; the cycle goes on. -/
def execCycleOverrun (s : State) : Res :=
  .next (when (!s.service.overrun && s.service.cycleAt.any (fun t => decide (t + dget s 0x9000 2 * 3600000 ≤ s.nowMs))) s
    (bump { s with service := { s.service with overrun := true } } 0x9000 6 1))

/-! ### Logic BIST (R492) -/

/-- A ready thread that the cluster could run. -/
def readyFor (s : State) (c : Nat) : Bool :=
  s.hm.ready.any (fun r => !isControl r.thread && bitOf (getThr s r.thread).cmask c && bitOf (clusterMask s (getThr s r.thread).space) c)

/-- The cluster qualifies: it has been idle for BIST_IDLE_US. -/
def bistReady (s : State) (c : Nat) : Bool :=
  testing s && clusterCanStop s c && clusterIdleFor s c (dget s 0x9000 3) && !readyFor s c && !s.service.bist.contains c

/-- Steps 1 to 3 of R194: the cores pass out of their leases. -/
def endLeases (s : State) (c : Nat) : State :=
  (clusterCores c).foldl (fun s k => if (getLease s k).space.isSome then startChange s k none else s) s

/-- CLUSTER_BIST_START. -/
def execClusterBistStart (cluster : Nat) (s : State) : Res :=
  .next (when (decide (cluster < 8) && bistReady s cluster) s
    (let s := endLeases s cluster
     { s with service := { s.service with bist := s.service.bist ++ [cluster] } }))

/-- A core is retired (R492). -/
def retireCore (s : State) (k : Nat) : State :=
  noteFault (if coreRetired s k then s else persist s 0x9000 8 (dget s 0x9000 8 + 2 ^ k)) 1 k 0

/-- CLUSTER_BIST_END: the cores are left free and zeroed; one stopped for a ready thread covers
nothing. -/
def bistEnd (s : State) (c : Nat) (failed : List Nat) : State :=
  let early := readyFor s c
  let s := (clusterCores c).foldl zeroCore { s with service := { s.service with bist := s.service.bist.filter (· != c) } }
  let s := settleDegraded (((clusterCores c).filter (failed.contains ·)).foldl retireCore s)
  kickIdle (if early then s else noteUnit s 1 c)

def execClusterBistEnd (cluster : Nat) (failed : List Nat) (s : State) : Res :=
  .next (when (s.service.bist.contains cluster) s (bistEnd s cluster failed))

/-! ### Marches (R493) -/

/-- The lowest-numbered berth whose bitmap bit is set and that this cycle has not tested. -/
def marchNext (s : State) (far : Bool) : Option Nat :=
  let task := if far then 3 else 2
  let free (i : Nat) : Bool :=
    !(getBerth s (berthAddr far i)).alloc && !(hotStack s far).contains (berthAddr far i) && !unitDone s task i
  match lowestFrom free (s.pool.berths.length + (hotStack s far).length + s.service.tasks.length + 1) 0 with
  | some i => if i < berthCount far then some i else none
  | none => none

/-- One berth is tested: it stays free, its bytes are zero, and a fault awaits a spare row. -/
def march (s : State) (far : Bool) (i : Nat) (fault : Bool) : State :=
  let a := berthAddr far i
  let task := if far then 3 else 2
  let s := { s with dram := memClear s.dram a (a + berthSize far) }
  let s := if fault then settleDegraded (noteFault { s with service := { s.service with rowFaults := s.service.rowFaults + 1 } } task i 0) else s
  noteUnit s task i

/-- BERTH_MARCH; near berths only while D2 is on. -/
def execBerthMarch (far : Bool) (berth : Nat) (fault : Bool) (s : State) : Res :=
  .next (when (testing s && (far || domainOn s 2) && decide (marchNext s far = some berth)) s (march s far berth fault))

/-! ### Tally parity (R494) -/

/-- A row that fails parity becomes invalid; the bank's tenant, or the Persistent Event Log, hears of it. -/
def parityFault (s : State) (row : Nat) : State :=
  let s := noteFault { s with tally := { s.tally with rows := tabDrop s.tally.rows row } } 5 row 0
  match bankTenant s (row / 512) with
  | some t => logFault s t 4 0 none (BitVec.ofNat 64 row) 0 0
  | none => logPel s "tally row parity" row 0

def execTallyParityScrub (row : Nat) (parityOk : Bool) (s : State) : Res :=
  .next (when (testing s && decide (row < 131072)) s
    (noteUnit (if parityOk then s else parityFault s row) 5 row))

/-! ### Patrol reads (R150) -/

/-- Programmed pages of a block. -/
def pagesIn (s : State) (b : Nat) : Nat :=
  ceilDiv ((s.media.flash.filter (fun e => addrBlock e.1 == b && e.2.isSome)).length) Config.slotsPerPage

/-- A sample of a block: a worst step of 2 or beyond reads it whole, 3 or 4 queues it for refresh at rank
5, more corrected bits than REFRESH_BITS at rank 8. A step beyond 4 recovers nothing. -/
def patrol (s : State) (b worst bits : Nat) : State :=
  let s := modBlk s b (fun x => { x with reads := x.reads + (if 2 ≤ worst then pagesIn s b else 4) })
  let s := if 3 ≤ worst then noteFault (queueRefresh s b 5) 4 (b % 2 ^ 32) worst
    else if dget s 0x4040 4 < bits then queueRefresh s b 8 else s
  let s := if worst = 3 then bump s 0x4030 4 1
    else if worst = 4 then
      modBlk (bump s 0x4030 5 1) b (fun x => { x with step4 := x.step4 + 1, retireNext := x.retireNext || decide (1 ≤ x.step4) })
    else s
  noteUnit s 4 b

/-- PATROL_READ of a programmed block, at rank 10. Step 4 is a rebuild of a lot's row; any other block's ladder
ends at step 3 (R140). -/
def execPatrolRead (block : Nat) (worstStep bits : Nat) (s : State) : Res :=
  let x := getBlk s block
  .next (when (testing s && mediaOpen s && decide (1 ≤ x.pool ∧ x.pool ≤ 6) && (worstStep != 4 || x.pool == 6) && rankOpen s [block / 2 ^ 32] 10) s
    (patrol s block worstStep bits))

/-! ### Pilot sanity (task 7) -/

/-- A slot's measurement lies outside ±5 % of REF, or it saturated more than 1,000 times. -/
def slotInsane (s : State) (k : Nat) : Bool :=
  let p := tabGet Pilot.empty s.power.pilots k
  let r : Int := dget s (0x2100 + k) 3
  decide (r < 20 * (p.lastMeas - r)) || decide (r < 20 * (r - p.lastMeas)) || decide (1000 < p.satSec)

/-- One slot's second ends. -/
def saneSlot (s : State) (k : Nat) : State :=
  let p := tabGet Pilot.empty s.power.pilots k
  if !p.run then s
  else
    let on := dget s 0x9000 1 == 1
    let s := if on ∧ slotInsane s k then logPel (noteFault s 7 k p.satSec) "pilot slot out of range" k p.satSec else s
    let s := { s with power := { s.power with pilots := tabSet Pilot.empty s.power.pilots k { p with satLast := p.satSec, satSec := 0 } } }
    if on then noteUnit s 7 k else s

/-- PILOT_SANITY: every 1 s. -/
def execPilotSanity (s : State) : Res :=
  .next (when (decide (3 ≤ s.power.bootStep) && !s.power.dumping && decide (s.service.saneAt + 1000 ≤ s.nowMs)) s
    ((List.range 22).foldl saneSlot { s with service := { s.service with saneAt := s.nowMs } }))

end Sys2Proof.Machine
end

