-- ==== Sys2Proof/Machine/Tally.lean ====
section
/-!
DEFINITION. The meanings of the tally array's commands: searches, loads, invalidates, the cascade,
and the host's Tally Load and Tally Search (R352 to R360, R472 to R475).
-/
namespace Sys2Proof.Machine

/-- A tally result word reaches its thread, then its token (R354, port 22). -/
def tallyReply (s : State) (t : Nat) (r : List Byte) (chan : Nat) (w : Nat) : State :=
  if (getThr s t).state = 0 ∨ (getThr s t).state = 5 then s
  else
    let s := deliver s t (recNat r 0 8) (BitVec.ofNat 64 w)
    if bitOf chan 24 then postToken s 22 (getThr s t).space (bitsOf chan 0 23) 1 false else s

/-- A search or next of a thread (R352 to R358). -/
def tallySearch (s : State) (t : Nat) (r : List Byte) (next : Bool) : State :=
  let space := (getThr s t).space
  let code := searchCode s space (srFirst r) (srN r) (srClean s r next)
  let s := tallyCount s 1 code
  if code ≠ 0 then tallyReply s t r (recNat r 20 4) code
  else
    let x := searchAt s space (srFirst r) (srN r) (srKey r) (if next then some (srStart r) else none) (srCascade r) t none r
    match x.2 with
    | some w => tallyReply x.1 t r (recNat r 20 4) w
    | none => x.1

/-- A load or invalidate of a thread. -/
def tallyLoad (s : State) (t : Nat) (r : List Byte) (kinds : List Nat) : State :=
  let x := ldResolve s (getThr s t).space kinds r
  tallyReply x.1 t r (recNat r 16 4) x.2

def execTallySearchOp (t : Nat) (r : List Byte) (s : State) : Res :=
  .next (xRequest s t (recNat r 0 8) 1 (tallySearch s t r false))
def execTallyNext (t : Nat) (r : List Byte) (s : State) : Res :=
  .next (xRequest s t (recNat r 0 8) 1 (tallySearch s t r true))
def execTallyLoadOp (t : Nat) (r : List Byte) (s : State) : Res :=
  .next (xRequest s t (recNat r 0 8) 1 (tallyLoad s t r [0, 1]))
def execTallyInvalidate (t : Nat) (r : List Byte) (s : State) : Res :=
  .next (xRequest s t (recNat r 0 8) 1 (tallyLoad s t r [2]))

/-! ### Host commands (R360, Table 13.6) -/

def ioDw (e : Docket) (i : Nat) : Nat := ((e.sqe.dw[i]?).getD 0).toNat
/-- SLM bytes leased to the function of a docket entry; the physical function has none. -/
def ioLease (s : State) (e : Docket) : Nat := if e.fn = 0 then 0 else slmSize s (tenantOf e.fn)
def tcSrc (e : Docket) : Nat := ioDw e 0 + ioDw e 1 * 2 ^ 32
def tcCount (e : Docket) : Nat := bitsOf (ioDw e 2) 0 15 + 1

/-- Load records are applied in order until one fails: the state, the records applied, the code. -/
def loadRecords (e : Docket) : Nat → Nat → State → State × Nat × Nat
  | 0, i, s => (s, i, 0)
  | n + 1, i, s =>
    let r := slmRead s (tenantOf e.fn) (tcSrc e + 184 * i) 184
    if recNat r 0 8 ≠ 0 ∨ recNat r 16 4 ≠ 0 then (tallyCount s 2 2, i, 2)
    else
      let x := ldResolve s (tenantOf e.fn) [0, 1, 2] r
      if x.2 = 0 then loadRecords e n (i + 1) x.1 else (x.1, i, x.2)

/-- Tally Load. -/
def hostTallyLoad (s : State) (d : Nat) : State :=
  let e := getDk s d
  if bitsOf (ioDw e 2) 16 31 ≠ 0 then ioFail s d .invalidField
  else if ioLease s e < tcSrc e + 184 * tcCount e then ioFail s d (.vendor 0x82)
  else
    let x := loadRecords e (tcCount e) 0 s
    if x.2.2 = 0 then ioOk x.1 d
    else ioDone x.1 d (if x.2.2 = 1 then .vendor 0x82 else .invalidField) x.2.1 0 .none

def tsFirst (e : Docket) : Nat := bitsOf (ioDw e 4) 0 7
def tsN (e : Docket) : Nat := bitsOf (ioDw e 4) 8 16
def tsRes (e : Docket) : Nat := ioDw e 3 * 8
def tsKeyBytes (s : State) (e : Docket) : Nat := 20 * rowsPer (bankWidth s (tsFirst e))

/-- Keys from number `i` on are searched in order until one waits for the partner; the result words
go to SLM. At the end the command completes. -/
def searchKeys (d : Nat) : Nat → Nat → State → State
  | 0, _, s => ioOk s d
  | n + 1, i, s =>
    let e := getDk s d
    let space := tenantOf e.fn
    let kb := tsKeyBytes s e
    let key := recNat (slmRead s space (tcSrc e + kb * i) kb) 0 kb
    let code := searchCode s space (tsFirst e) (tsN e) true
    let s := tallyCount s 1 code
    if code ≠ 0 then searchKeys d n (i + 1) (slmWrite s space (tsRes e + 8 * i) (leBytes 8 code))
    else
      let x := searchAt s space (tsFirst e) (tsN e) key none (bitOf (ioDw e 4) 17) 0 (some d) []
      match x.2 with
      | some w => searchKeys d n (i + 1) (slmWrite x.1 space (tsRes e + 8 * i) (leBytes 8 w))
      | none => modDk x.1 d (fun e => { e with aux := i })

/-- The keys go through a far berth of the command's own (R360); the manual leaves open how many it takes, the model
takes one (DESIGN CHOICE, log entry 72). -/
def stageKeys (s : State) (e : Docket) (n : Nat) : State :=
  e.berths.foldl (fun s a => { s with dram := memWrite s.dram a ((slmRead s (tenantOf e.fn) (tcSrc e) n).take 65536) }) s

/-- Tally Search. With no far berth free its request waits in the class's queue (R165), and the command's row goes on
once it has its berth; under NOWAIT it ends with 0x81. -/
def hostTallySearch (s : State) (d : Nat) : State :=
  let e := getDk s d
  if bitsOf (ioDw e 2) 16 31 ≠ 0 ∨ bitsOf (ioDw e 4) 19 31 ≠ 0 ∨ tsN e = 0 ∨ 256 < tsN e then ioFail s d .invalidField
  else if ioLease s e < tcSrc e + tsKeyBytes s e * tcCount e ∨ ioLease s e < tsRes e + 8 * tcCount e then
    ioFail s d (.vendor 0x82)
  else if e.berths.isEmpty ∧ bitOf (ioDw e 4) 18 ∧ freeCountOf s true = 0 then ioFail (countCode s 1) d (.vendor 0x81)
  else
    let s := if e.berths.isEmpty ∧ ownAsked s (dkReq e d) = 0 then dkAsk s d else s
    if (getDk s d).berths.isEmpty then s
    else searchKeys d (tcCount e) 0 (modDk (stageKeys s (getDk s d) (tsKeyBytes s e * tcCount e)) d
      (fun e => { e with started := true, word := .committed }))

def execTallyLoad (d : Nat) (s : State) : Res := io s d .tallyLoad (hostTallyLoad s d)
def execTallySearch (d : Nat) (s : State) : Res := io s d .tallySearch (settleAll (hostTallySearch s d))

/-! ### The cascade -/

/-- A cascaded search ends with a result word: the thread's result is written, or the host command's
key is stored and its next keys are searched. -/
def cascadeDone (s : State) (c : Cascade) (w : Nat) : State :=
  let s := { s with tally := { s.tally with waiting := s.tally.waiting.filter (fun x => x.tag != c.tag) } }
  match c.docket with
  | none => tallyReply s c.thread c.record (recNat c.record 20 4) w
  | some d =>
    let e := getDk s d
    if dkUsed s d && e.sqe.kind == .tallySearch && e.started then
      searchKeys d (tcCount e - (e.aux + 1)) (e.aux + 1) (slmWrite s (tenantOf e.fn) (tsRes e + 8 * e.aux) (leBytes 8 w))
    else s

/-- A cascaded search ends without an answer: PARTIAL (R358). -/
def cascadePartial (s : State) (c : Cascade) : State :=
  cascadeDone (bump s 0x7070 4 1) c (c.local_ + 64)

/-- CASCADE_REQUEST: a request frame of the partner is resolved on port 20 and answered
(R473, R474). -/
def execCascadeRequest (ws : List W64) (s : State) : Res :=
  let h := ((ws[0]?).getD 0).toNat
  let w := bitsOf h 4 5
  let first := bitsOf h 8 15
  let n := bitsOf h 16 24
  let space := bitsOf h 25 35
  let start := ((ws[1]?).getD 0).toNat
  let key := recNat (wordBytes ((ws.drop 2).dropLast)) 0 (8 * keyWordsOf w)
  let ok := frameOk ws && decide (w < 3) && ws.length == keyWordsOf w + 3 && (bitsOf h 0 3 == 1 || bitsOf h 0 3 == 2) &&
    bitsOf h 6 7 == 0 && bitsOf h 48 63 == 0 && decide (1 ≤ n) && decide (n ≤ 256) && decide (space ≤ 1024) &&
    (if bitsOf h 0 3 = 2 then decide (start < 2 ^ 18) else start == 0) && decide (key < 2 ^ keyBits w)
  .next (when (s.tally.miUp && domainOn s 1) s
    (if !ok then bump s 0x7070 8 1
     else
      let code := searchCode s space first n (bankWidth s first == w)
      let s := bump (tallyCount s 1 code) 0x7070 3 1
      let word := if code ≠ 0 then code else searchWord (matchesOf s first n key (if bitsOf h 0 3 = 2 then some start else none)) false
      let s := if code = 0 then notePower s first n key else s
      emit s (.cascade (cascadeFrame [cascadeHeader 3 0 0 0 0 (bitsOf h 36 47), BitVec.ofNat 64 word]))))

/-- CASCADE_RESULT: an answer is merged; a bad one is discarded and counted (R474). -/
def execCascadeResult (ws : List W64) (s : State) : Res :=
  let h := ((ws[0]?).getD 0).toNat
  let w := ((ws[1]?).getD 0).toNat
  let ok := frameOk ws && ws.length == 3 && h == 3 + bitsOf h 36 47 * 2 ^ 36 && bitsOf w 0 3 == 0 && bitsOf w 6 7 == 0 &&
    bitsOf w 16 31 == 0 && bitsOf w 50 63 == 0
  .next (when (s.tally.miUp && domainOn s 1) s
    (match s.tally.waiting.find? (fun c => c.tag == bitsOf h 36 47) with
     | some c => if ok then settleAll (cascadeDone s c (mergeWords c.local_ w)) else bump s 0x7070 8 1
     | none => bump s 0x7070 8 1))

/-- CASCADE_TIMEOUT: no answer within 100 ns. -/
def execCascadeTimeout (tag : Nat) (s : State) : Res :=
  .next (match s.tally.waiting.find? (fun c => c.tag == tag) with
    | some c => settleAll (cascadePartial s c)
    | none => s)

def setMi (s : State) (up : Bool) : State :=
  dset { s with tally := { s.tally with miUp := up } } 0x7070 7 (b2n up)

/-- 64 valid sync headers in a row (R472). -/
def execTallyMiUp (s : State) : Res := .next (when (domainOn s 1) s (setMi s true))
/-- 16 bad blocks of 64: outstanding searches then end by their timeouts. -/
def execTallyMiDown (s : State) : Res := .next (setMi s false)

end Sys2Proof.Machine
end

