-- ==== Sys2Proof/Machine/Dispatch.lean ====
section
/-!
DEFINITION. One arm for each command: its meaning, or its refusal by name.
-/
namespace Sys2Proof.Machine

def exec (i : Instr) (s : State) : Host.Outcome State Fault Refusal :=
  match i with
  | .powerOn b => Sys2Proof.Machine.execPowerOn b s
  | .powerUpRailTimeout slot => Sys2Proof.Machine.execPowerUpRailTimeout slot s
  | .powerUpRetry b => Sys2Proof.Machine.execPowerUpRetry b s
  | .loneStart => Sys2Proof.Machine.execLoneStart s
  | .refclkLoss => Sys2Proof.Machine.execRefclkLoss s
  | .refclkReturn b => Sys2Proof.Machine.execRefclkReturn b s
  | .modRstNAssert => Sys2Proof.Machine.execModRstNAssert s
  | .modRstNDeassert b => Sys2Proof.Machine.execModRstNDeassert b s
  | .fenceInAssert => Sys2Proof.Machine.execFenceInAssert s
  | .fenceInDeassert b => Sys2Proof.Machine.execFenceInDeassert b s
  | .watchdogRenew => Sys2Proof.Machine.execWatchdogRenew s
  | .watchdogExpiry b => Sys2Proof.Machine.execWatchdogExpiry b s
  | .perstNAssert port => Sys2Proof.Machine.execPerstNAssert port s
  | .perstNDeassert port => Sys2Proof.Machine.execPerstNDeassert port s
  | .inputLoss => Sys2Proof.Machine.execInputLoss s
  | .dumpComplete bytes us b => Sys2Proof.Machine.execDumpComplete bytes us b s
  | .powerRestart b => Sys2Proof.Machine.execPowerRestart b s
  | .vavgUpdate mv10 => Sys2Proof.Machine.execVavgUpdate mv10 s
  | .railFault dom => Sys2Proof.Machine.execRailFault dom s
  | .pilotLoopEval slot raw x => Sys2Proof.Machine.execPilotLoopEval slot raw x s
  | .governorSample milliwatt => Sys2Proof.Machine.execGovernorSample milliwatt s
  | .governorPause => Sys2Proof.Machine.execGovernorPause s
  | .clusterPowerOff cluster => Sys2Proof.Machine.execClusterPowerOff cluster s
  | .clusterPowerOn cluster => Sys2Proof.Machine.execClusterPowerOn cluster s
  | .d2PowerOff => Sys2Proof.Machine.execD2PowerOff s
  | .d2PowerOn => Sys2Proof.Machine.execD2PowerOn s
  | .quayPowerOff quay => Sys2Proof.Machine.execQuayPowerOff quay s
  | .quayPowerOn quay => Sys2Proof.Machine.execQuayPowerOn quay s
  | .holdupMeasurementStart v1 => Sys2Proof.Machine.execHoldupMeasurementStart v1 s
  | .holdupMeasurementEnd v2 energyUj => Sys2Proof.Machine.execHoldupMeasurementEnd v2 energyUj s
  | .thermalShutdown sensor reading => Sys2Proof.Machine.execThermalShutdown sensor reading s
  | .temperatureThresholdCrossed sensor reading => Sys2Proof.Machine.execTemperatureThresholdCrossed sensor reading s
  | .sqTailDoorbell fn qid tail => Sys2Proof.Machine.execSqTailDoorbell fn qid tail s
  | .cqHeadDoorbell fn qid head => Sys2Proof.Machine.execCqHeadDoorbell fn qid head s
  | .commandFetch fn sqid docket sqe => Sys2Proof.Machine.execCommandFetch fn sqid docket sqe s
  | .globalFetchResume => Sys2Proof.Machine.execGlobalFetchResume s
  | .lockStallRelease docket => Sys2Proof.Machine.execLockStallRelease docket s
  | .writeCommit docket => Sys2Proof.Machine.execWriteCommit docket s
  | .ackLapse docket => Sys2Proof.Machine.execAckLapse docket s
  | .flashProgramComplete docket res => Sys2Proof.Machine.execFlashProgramComplete docket res s
  | .flashReadComplete docket pages => Sys2Proof.Machine.execFlashReadComplete docket pages s
  | .flashEraseComplete block ok replacement => Sys2Proof.Machine.execFlashEraseComplete block ok replacement s
  | .channelFailure channel => Sys2Proof.Machine.execChannelFailure channel s
  | .journalPageProgram => Sys2Proof.Machine.execJournalPageProgram s
  | .checkpointPass => Sys2Proof.Machine.execCheckpointPass s
  | .foldStart units zoneFold => Sys2Proof.Machine.execFoldStart units zoneFold s
  | .foldMaxage unit => Sys2Proof.Machine.execFoldMaxage unit s
  | .gcStart group => Sys2Proof.Machine.execGcStart group s
  | .relocationCopyDone reloc copy => Sys2Proof.Machine.execRelocationCopyDone reloc copy s
  | .sourceErase reloc => Sys2Proof.Machine.execSourceErase reloc s
  | .refreshStart block => Sys2Proof.Machine.execRefreshStart block s
  | .readDisturbThreshold block => Sys2Proof.Machine.execReadDisturbThreshold block s
  | .lotRebuild lot mem block => Sys2Proof.Machine.execLotRebuild lot mem block s
  | .wearSwap channel src dst => Sys2Proof.Machine.execWearSwap channel src dst s
  | .secondaryResourcesReturn fn => Sys2Proof.Machine.execSecondaryResourcesReturn fn s
  | .nsDeleteDone nsid => Sys2Proof.Machine.execNsDeleteDone nsid s
  | .powerStateReached => Sys2Proof.Machine.execPowerStateReached s
  | .ps4IdleEntry => Sys2Proof.Machine.execPs4IdleEntry s
  | .fwDrainComplete => Sys2Proof.Machine.execFwDrainComplete s
  | .fwActivationTimeout => Sys2Proof.Machine.execFwActivationTimeout s
  | .controllerEnable fn => Sys2Proof.Machine.execControllerEnable fn s
  | .controllerReset fn => Sys2Proof.Machine.execControllerReset fn s
  | .functionLevelReset fn => Sys2Proof.Machine.execFunctionLevelReset fn s
  | .controllerShutdown fn => Sys2Proof.Machine.execControllerShutdown fn s
  | .createIoSubmissionQueue a qid size cqid pc => Sys2Proof.Machine.execCreateIoSubmissionQueue a qid size cqid pc s
  | .deleteIoSubmissionQueue a qid => Sys2Proof.Machine.execDeleteIoSubmissionQueue a qid s
  | .createIoCompletionQueue a qid size vector pc ien => Sys2Proof.Machine.execCreateIoCompletionQueue a qid size vector pc ien s
  | .deleteIoCompletionQueue a qid => Sys2Proof.Machine.execDeleteIoCompletionQueue a qid s
  | .getLogPage a lid nsid => Sys2Proof.Machine.execGetLogPage a lid nsid s
  | .logFreezeRecord a off len => Sys2Proof.Machine.execLogFreezeRecord a off len s
  | .logPilotAndPower a off len => Sys2Proof.Machine.execLogPilotAndPower a off len s
  | .logDredgeResults a off len => Sys2Proof.Machine.execLogDredgeResults a off len s
  | .logPairState a off len => Sys2Proof.Machine.execLogPairState a off len s
  | .logTenantFaultRecords a lsi off len => Sys2Proof.Machine.execLogTenantFaultRecords a lsi off len s
  | .logTelemetry a controllerInitiated create area => Sys2Proof.Machine.execLogTelemetry a controllerInitiated create area s
  | .identify a cns nsid cntid => Sys2Proof.Machine.execIdentify a cns nsid cntid s
  | .abort a sqid cid => Sys2Proof.Machine.execAbort a sqid cid s
  | .getFeatures a fid nsid dw11 => Sys2Proof.Machine.execGetFeatures a fid nsid dw11 s
  | .setFeatures a fid nsid save dw11 data => Sys2Proof.Machine.execSetFeatures a fid nsid save dw11 data s
  | .setPowerManagement a save ps => Sys2Proof.Machine.execSetPowerManagement a save ps s
  | .setOrderedQueueMode a save dw11 => Sys2Proof.Machine.execSetOrderedQueueMode a save dw11 s
  | .setLandingPolicy a save dw11 => Sys2Proof.Machine.execSetLandingPolicy a save dw11 s
  | .setWritePathCompression a save nsid dw11 => Sys2Proof.Machine.execSetWritePathCompression a save nsid dw11 s
  | .setNumberOfQueues a save nsq ncq => Sys2Proof.Machine.execSetNumberOfQueues a save nsq ncq s
  | .setTimestamp a save ms => Sys2Proof.Machine.execSetTimestamp a save ms s
  | .asynchronousEventRequest a => Sys2Proof.Machine.execAsynchronousEventRequest a s
  | .namespaceCreate a req => Sys2Proof.Machine.execNamespaceCreate a req s
  | .namespaceDelete a nsid => Sys2Proof.Machine.execNamespaceDelete a nsid s
  | .namespaceAttach a nsid ctrls => Sys2Proof.Machine.execNamespaceAttach a nsid ctrls s
  | .namespaceDetach a nsid ctrls => Sys2Proof.Machine.execNamespaceDetach a nsid ctrls s
  | .firmwareImageDownload a off data => Sys2Proof.Machine.execFirmwareImageDownload a off data s
  | .firmwareCommitStore a slot => Sys2Proof.Machine.execFirmwareCommitStore a slot s
  | .firmwareCommitReplaceActivate a slot => Sys2Proof.Machine.execFirmwareCommitReplaceActivate a slot s
  | .firmwareCommitActivate a slot => Sys2Proof.Machine.execFirmwareCommitActivate a slot s
  | .firmwareCommitActivateNow a slot => Sys2Proof.Machine.execFirmwareCommitActivateNow a slot s
  | .selfTestShort a nsid => Sys2Proof.Machine.execSelfTestShort a nsid s
  | .selfTestExtended a nsid => Sys2Proof.Machine.execSelfTestExtended a nsid s
  | .selfTestAbort a => Sys2Proof.Machine.execSelfTestAbort a s
  | .selfTestComplete failed notRun => Sys2Proof.Machine.execSelfTestComplete failed notRun s
  | .formatNvm a nsid lbaf ses pi => Sys2Proof.Machine.execFormatNvm a nsid lbaf ses pi s
  | .sanitizeBlockErase a => Sys2Proof.Machine.execSanitizeBlockErase a s
  | .sanitizeCryptoErase a => Sys2Proof.Machine.execSanitizeCryptoErase a s
  | .primaryFlexibleAllocation a vi count => Sys2Proof.Machine.execPrimaryFlexibleAllocation a vi count s
  | .secondaryOffline a cntlid => Sys2Proof.Machine.execSecondaryOffline a cntlid s
  | .secondaryAssign a cntlid vi count => Sys2Proof.Machine.execSecondaryAssign a cntlid vi count s
  | .secondaryOnline a cntlid => Sys2Proof.Machine.execSecondaryOnline a cntlid s
  | .loadProgramLoad a ptype pindex image => Sys2Proof.Machine.execLoadProgramLoad a ptype pindex image s
  | .loadProgramUnload a pindex => Sys2Proof.Machine.execLoadProgramUnload a pindex s
  | .programActivate a pindex => Sys2Proof.Machine.execProgramActivate a pindex s
  | .programDeactivate a pindex => Sys2Proof.Machine.execProgramDeactivate a pindex s
  | .memoryRangeSetManagement a create rsid ranges => Sys2Proof.Machine.execMemoryRangeSetManagement a create rsid ranges s
  | .synmonTunnelRead a dw10 dw11 => Sys2Proof.Machine.execSynmonTunnelRead a dw10 dw11 s
  | .synmonTunnelWrite a dw10 dw11 data => Sys2Proof.Machine.execSynmonTunnelWrite a dw10 dw11 data s
  | .synmonTunnelBlockRead a dw10 dw11 => Sys2Proof.Machine.execSynmonTunnelBlockRead a dw10 dw11 s
  | .tenantLeaseCores a dw10 dw11 => Sys2Proof.Machine.execTenantLeaseCores a dw10 dw11 s
  | .tenantLeaseSlm a dw10 dw11 => Sys2Proof.Machine.execTenantLeaseSlm a dw10 dw11 s
  | .tenantLeaseDocketCeiling a dw10 dw11 => Sys2Proof.Machine.execTenantLeaseDocketCeiling a dw10 dw11 s
  | .tenantLeaseFetchWeight a dw10 dw11 => Sys2Proof.Machine.execTenantLeaseFetchWeight a dw10 dw11 s
  | .tenantLeaseTallyRows a dw10 dw11 => Sys2Proof.Machine.execTenantLeaseTallyRows a dw10 dw11 s
  | .tenantLeaseReadBack a dw10 dw11 => Sys2Proof.Machine.execTenantLeaseReadBack a dw10 dw11 s
  | .thawQueue a dw10 dw11 => Sys2Proof.Machine.execThawQueue a dw10 dw11 s
  | .keySlotLoad a dw10 dw11 dw12 data => Sys2Proof.Machine.execKeySlotLoad a dw10 dw11 dw12 data s
  | .keySlotClear a dw10 dw11 dw12 data => Sys2Proof.Machine.execKeySlotClear a dw10 dw11 dw12 data s
  | .keySlotAssign a dw10 dw11 dw12 data => Sys2Proof.Machine.execKeySlotAssign a dw10 dw11 dw12 data s
  | .moduleKeyInstall a dw10 dw11 dw12 data => Sys2Proof.Machine.execModuleKeyInstall a dw10 dw11 dw12 data s
  | .keyZeroize a dw10 dw11 dw12 data => Sys2Proof.Machine.execKeyZeroize a dw10 dw11 dw12 data s
  | .pairForm a dw10 dw11to15 partner => Sys2Proof.Machine.execPairForm a dw10 dw11to15 partner s
  | .pairDissolve a dw10 dw11to15 => Sys2Proof.Machine.execPairDissolve a dw10 dw11to15 s
  | .pairFence a dw10 dw11to15 => Sys2Proof.Machine.execPairFence a dw10 dw11to15 s
  | .pairRelease a dw10 dw11to15 => Sys2Proof.Machine.execPairRelease a dw10 dw11to15 s
  | .pairTakeover a dw10 dw11to15 => Sys2Proof.Machine.execPairTakeover a dw10 dw11to15 s
  | .pairYield a dw10 dw11to15 => Sys2Proof.Machine.execPairYield a dw10 dw11to15 s
  | .flush docket => Sys2Proof.Machine.execFlush docket s
  | .write docket data => Sys2Proof.Machine.execWrite docket data s
  | .read docket => Sys2Proof.Machine.execRead docket s
  | .compare docket data => Sys2Proof.Machine.execCompare docket data s
  | .verify docket => Sys2Proof.Machine.execVerify docket s
  | .writeZeroes docket => Sys2Proof.Machine.execWriteZeroes docket s
  | .writeUncorrectable docket => Sys2Proof.Machine.execWriteUncorrectable docket s
  | .datasetManagement docket => Sys2Proof.Machine.execDatasetManagement docket s
  | .copy docket => Sys2Proof.Machine.execCopy docket s
  | .reservationRegister docket action => Sys2Proof.Machine.execReservationRegister docket action s
  | .reservationReport docket => Sys2Proof.Machine.execReservationReport docket s
  | .reservationAcquire docket action => Sys2Proof.Machine.execReservationAcquire docket action s
  | .reservationRelease docket action => Sys2Proof.Machine.execReservationRelease docket action s
  | .zoneOpen docket => Sys2Proof.Machine.execZoneOpen docket s
  | .zoneClose docket => Sys2Proof.Machine.execZoneClose docket s
  | .zoneFinish docket => Sys2Proof.Machine.execZoneFinish docket s
  | .zoneReset docket => Sys2Proof.Machine.execZoneReset docket s
  | .zoneOffline docket => Sys2Proof.Machine.execZoneOffline docket s
  | .zoneManagementReceive docket => Sys2Proof.Machine.execZoneManagementReceive docket s
  | .zoneAppend docket data => Sys2Proof.Machine.execZoneAppend docket data s
  | .executeProgram docket params => Sys2Proof.Machine.execExecuteProgram docket params s
  | .memoryRead docket => Sys2Proof.Machine.execMemoryRead docket s
  | .memoryWrite docket data => Sys2Proof.Machine.execMemoryWrite docket data s
  | .customsScan docket descriptor => Sys2Proof.Machine.execCustomsScan docket descriptor s
  | .tallyLoad docket => Sys2Proof.Machine.execTallyLoad docket s
  | .tallySearch docket => Sys2Proof.Machine.execTallySearch docket s
  | .scanSlotGrant scan => Sys2Proof.Machine.execScanSlotGrant scan s
  | .customsPage scan granule reads => Sys2Proof.Machine.execCustomsPage scan granule reads s
  | .scanNotice scan => Sys2Proof.Machine.execScanNotice scan s
  | .scanRingPoll scan => Sys2Proof.Machine.execScanRingPoll scan s
  | .scanEnd scan => Sys2Proof.Machine.execScanEnd scan s
  | .compressionJob thread record => Sys2Proof.Machine.execCompressionJob thread record s
  | .compressionLock thread record => Sys2Proof.Machine.execCompressionLock thread record s
  | .compressionUnlock thread record => Sys2Proof.Machine.execCompressionUnlock thread record s
  | .compressionJobEnd engine => Sys2Proof.Machine.execCompressionJobEnd engine s
  | .cipherJob thread record => Sys2Proof.Machine.execCipherJob thread record s
  | .cipherLock thread record => Sys2Proof.Machine.execCipherLock thread record s
  | .cipherUnlock thread record => Sys2Proof.Machine.execCipherUnlock thread record s
  | .cipherJobEnd engine => Sys2Proof.Machine.execCipherJobEnd engine s
  | .tallySearchOp thread record => Sys2Proof.Machine.execTallySearchOp thread record s
  | .tallyNext thread record => Sys2Proof.Machine.execTallyNext thread record s
  | .tallyLoadOp thread record => Sys2Proof.Machine.execTallyLoadOp thread record s
  | .tallyInvalidate thread record => Sys2Proof.Machine.execTallyInvalidate thread record s
  | .cascadeRequest words => Sys2Proof.Machine.execCascadeRequest words s
  | .cascadeResult words => Sys2Proof.Machine.execCascadeResult words s
  | .cascadeTimeout tag => Sys2Proof.Machine.execCascadeTimeout tag s
  | .tallyMiUp => Sys2Proof.Machine.execTallyMiUp s
  | .tallyMiDown => Sys2Proof.Machine.execTallyMiDown s
  | .alloc who rec => Sys2Proof.Machine.execAlloc who rec s
  | .free who rec => Sys2Proof.Machine.execFree who rec s
  | .share who rec => Sys2Proof.Machine.execShare who rec s
  | .berthRelease who rec => Sys2Proof.Machine.execBerthRelease who rec s
  | .reclaim who rec => Sys2Proof.Machine.execReclaim who rec s
  | .clearLow path data => Sys2Proof.Machine.execClearLow path data s
  | .tokenPost port space channel qty poisoned => Sys2Proof.Machine.execTokenPost port space channel qty poisoned s
  | .spillReturn => Sys2Proof.Machine.execSpillReturn s
  | .affinityHoldExpiry thread => Sys2Proof.Machine.execAffinityHoldExpiry thread s
  | .blockEndEvent core => Sys2Proof.Machine.execBlockEndEvent core s
  | .leaseQuantumExpiry core => Sys2Proof.Machine.execLeaseQuantumExpiry core s
  | .contextSwitch core => Sys2Proof.Machine.execContextSwitch core s
  | .blockOverrun core => Sys2Proof.Machine.execBlockOverrun core s
  | .descriptorFree thread => Sys2Proof.Machine.execDescriptorFree thread s
  | .timerExpiry handle => Sys2Proof.Machine.execTimerExpiry handle s
  | .poisonToken thread => Sys2Proof.Machine.execPoisonToken thread s
  | .xQueueDepart core => Sys2Proof.Machine.execXQueueDepart core s
  | .dmaComplete dma => Sys2Proof.Machine.execDmaComplete dma s
  | .streamHalfReady core window => Sys2Proof.Machine.execStreamHalfReady core window s
  | .streamEnd core window => Sys2Proof.Machine.execStreamEnd core window s
  | .ldb q f => Sys2Proof.Machine.execLdb q f s
  | .ldbu q f => Sys2Proof.Machine.execLdbu q f s
  | .ldh q f => Sys2Proof.Machine.execLdh q f s
  | .ldhu q f => Sys2Proof.Machine.execLdhu q f s
  | .ldw q f => Sys2Proof.Machine.execLdw q f s
  | .ldwu q f => Sys2Proof.Machine.execLdwu q f s
  | .ldd q f => Sys2Proof.Machine.execLdd q f s
  | .ldv q f => Sys2Proof.Machine.execLdv q f s
  | .stb q f => Sys2Proof.Machine.execStb q f s
  | .sth q f => Sys2Proof.Machine.execSth q f s
  | .stw q f => Sys2Proof.Machine.execStw q f s
  | .std q f => Sys2Proof.Machine.execStd q f s
  | .stv q f => Sys2Proof.Machine.execStv q f s
  | .swpd q f => Sys2Proof.Machine.execSwpd q f s
  | .aaddd q f => Sys2Proof.Machine.execAaddd q f s
  | .fence q f => Sys2Proof.Machine.execFence q f s
  | .ldbL q f ext => Sys2Proof.Machine.execLdbL q f ext s
  | .ldbuL q f ext => Sys2Proof.Machine.execLdbuL q f ext s
  | .ldhL q f ext => Sys2Proof.Machine.execLdhL q f ext s
  | .ldhuL q f ext => Sys2Proof.Machine.execLdhuL q f ext s
  | .ldwL q f ext => Sys2Proof.Machine.execLdwL q f ext s
  | .ldwuL q f ext => Sys2Proof.Machine.execLdwuL q f ext s
  | .lddL q f ext => Sys2Proof.Machine.execLddL q f ext s
  | .ldvL q f ext => Sys2Proof.Machine.execLdvL q f ext s
  | .stbL q f ext => Sys2Proof.Machine.execStbL q f ext s
  | .sthL q f ext => Sys2Proof.Machine.execSthL q f ext s
  | .stwL q f ext => Sys2Proof.Machine.execStwL q f ext s
  | .stdL q f ext => Sys2Proof.Machine.execStdL q f ext s
  | .stvL q f ext => Sys2Proof.Machine.execStvL q f ext s
  | .add q f => Sys2Proof.Machine.execAdd q f s
  | .sub q f => Sys2Proof.Machine.execSub q f s
  | .and q f => Sys2Proof.Machine.execAnd q f s
  | .or q f => Sys2Proof.Machine.execOr q f s
  | .xor q f => Sys2Proof.Machine.execXor q f s
  | .andn q f => Sys2Proof.Machine.execAndn q f s
  | .shl q f => Sys2Proof.Machine.execShl q f s
  | .shr q f => Sys2Proof.Machine.execShr q f s
  | .sar q f => Sys2Proof.Machine.execSar q f s
  | .rol q f => Sys2Proof.Machine.execRol q f s
  | .min q f => Sys2Proof.Machine.execMin q f s
  | .max q f => Sys2Proof.Machine.execMax q f s
  | .minu q f => Sys2Proof.Machine.execMinu q f s
  | .maxu q f => Sys2Proof.Machine.execMaxu q f s
  | .mul q f => Sys2Proof.Machine.execMul q f s
  | .mulh q f => Sys2Proof.Machine.execMulh q f s
  | .mulhu q f => Sys2Proof.Machine.execMulhu q f s
  | .div q f => Sys2Proof.Machine.execDiv q f s
  | .divu q f => Sys2Proof.Machine.execDivu q f s
  | .rem q f => Sys2Proof.Machine.execRem q f s
  | .remu q f => Sys2Proof.Machine.execRemu q f s
  | .clz q f => Sys2Proof.Machine.execClz q f s
  | .ctz q f => Sys2Proof.Machine.execCtz q f s
  | .popc q f => Sys2Proof.Machine.execPopc q f s
  | .bswap q f => Sys2Proof.Machine.execBswap q f s
  | .addi q f => Sys2Proof.Machine.execAddi q f s
  | .andi q f => Sys2Proof.Machine.execAndi q f s
  | .ori q f => Sys2Proof.Machine.execOri q f s
  | .xori q f => Sys2Proof.Machine.execXori q f s
  | .shli q f => Sys2Proof.Machine.execShli q f s
  | .shri q f => Sys2Proof.Machine.execShri q f s
  | .sari q f => Sys2Proof.Machine.execSari q f s
  | .wrrc q f => Sys2Proof.Machine.execWrrc q f s
  | .rdrc q f => Sys2Proof.Machine.execRdrc q f s
  | .li q f => Sys2Proof.Machine.execLi q f s
  | .liL q f ext => Sys2Proof.Machine.execLiL q f ext s
  | .liQ q f ext1 ext2 => Sys2Proof.Machine.execLiQ q f ext1 ext2 s
  | .la q f ext => Sys2Proof.Machine.execLa q f ext s
  | .getb q f => Sys2Proof.Machine.execGetb q f s
  | .ceq q f => Sys2Proof.Machine.execCeq q f s
  | .cne q f => Sys2Proof.Machine.execCne q f s
  | .clt q f => Sys2Proof.Machine.execClt q f s
  | .cltu q f => Sys2Proof.Machine.execCltu q f s
  | .cle q f => Sys2Proof.Machine.execCle q f s
  | .cleu q f => Sys2Proof.Machine.execCleu q f s
  | .ctst q f => Sys2Proof.Machine.execCtst q f s
  | .ceqL q f ext => Sys2Proof.Machine.execCeqL q f ext s
  | .cneL q f ext => Sys2Proof.Machine.execCneL q f ext s
  | .cltL q f ext => Sys2Proof.Machine.execCltL q f ext s
  | .cltuL q f ext => Sys2Proof.Machine.execCltuL q f ext s
  | .cleL q f ext => Sys2Proof.Machine.execCleL q f ext s
  | .cleuL q f ext => Sys2Proof.Machine.execCleuL q f ext s
  | .ctstL q f ext => Sys2Proof.Machine.execCtstL q f ext s
  | .vadd q f => Sys2Proof.Machine.execVadd q f s
  | .vsub q f => Sys2Proof.Machine.execVsub q f s
  | .vmul q f => Sys2Proof.Machine.execVmul q f s
  | .vfma q f => Sys2Proof.Machine.execVfma q f s
  | .vmin q f => Sys2Proof.Machine.execVmin q f s
  | .vmax q f => Sys2Proof.Machine.execVmax q f s
  | .vand q f => Sys2Proof.Machine.execVand q f s
  | .vor q f => Sys2Proof.Machine.execVor q f s
  | .vxor q f => Sys2Proof.Machine.execVxor q f s
  | .vandn q f => Sys2Proof.Machine.execVandn q f s
  | .vshl q f => Sys2Proof.Machine.execVshl q f s
  | .vshr q f => Sys2Proof.Machine.execVshr q f s
  | .vcmp q f => Sys2Proof.Machine.execVcmp q f s
  | .vbsl q f => Sys2Proof.Machine.execVbsl q f s
  | .vperm q f => Sys2Proof.Machine.execVperm q f s
  | .vcvt q f => Sys2Proof.Machine.execVcvt q f s
  | .vred q f => Sys2Proof.Machine.execVred q f s
  | .vmov q f => Sys2Proof.Machine.execVmov q f s
  | .vbcast q f => Sys2Proof.Machine.execVbcast q f s
  | .vsld q f => Sys2Proof.Machine.execVsld q f s
  | .vget q f => Sys2Proof.Machine.execVget q f s
  | .vadds q f => Sys2Proof.Machine.execVadds q f s
  | .vmuls q f => Sys2Proof.Machine.execVmuls q f s
  | .vshls q f => Sys2Proof.Machine.execVshls q f s
  | .vshrs q f => Sys2Proof.Machine.execVshrs q f s
  | .nop q rsv => Sys2Proof.Machine.execNop q rsv s
  | .br q off20 => Sys2Proof.Machine.execBr q off20 s
  | .brr q f => Sys2Proof.Machine.execBrr q f s
  | .bt q f => Sys2Proof.Machine.execBt q f s
  | .bf q f => Sys2Proof.Machine.execBf q f s
  | .btL q f ext => Sys2Proof.Machine.execBtL q f ext s
  | .bfL q f ext => Sys2Proof.Machine.execBfL q f ext s
  | .bset q f => Sys2Proof.Machine.execBset q f s
  | .bclr q f => Sys2Proof.Machine.execBclr q f s
  | .btgl q f => Sys2Proof.Machine.execBtgl q f s
  | .tas q f => Sys2Proof.Machine.execTas q f s
  | .tac q f => Sys2Proof.Machine.execTac q f s
  | .blg q f ext => Sys2Proof.Machine.execBlg q f ext s
  | .call q off20 ext => Sys2Proof.Machine.execCall q off20 ext s
  | .callr q f ext => Sys2Proof.Machine.execCallr q f ext s
  | .ret q rsv => Sys2Proof.Machine.execRet q rsv s
  | .repi q off20 => Sys2Proof.Machine.execRepi q off20 s
  | .repc q rsv => Sys2Proof.Machine.execRepc q rsv s
  | .block q f => Sys2Proof.Machine.execBlock q f s
  | .wait q f => Sys2Proof.Machine.execWait q f s
  | .yield q f => Sys2Proof.Machine.execYield q f s
  | .exit q f => Sys2Proof.Machine.execExit q f s
  | .post q f => Sys2Proof.Machine.execPost q f s
  | .spawn q f => Sys2Proof.Machine.execSpawn q f s
  | .dma q f => Sys2Proof.Machine.execDma q f s
  | .sopen q f => Sys2Proof.Machine.execSopen q f s
  | .sadv q f => Sys2Proof.Machine.execSadv q f s
  | .sclose q f => Sys2Proof.Machine.execSclose q f s
  | .scan q f => Sys2Proof.Machine.execScan q f s
  | .timerArm q f => Sys2Proof.Machine.execTimerArm q f s
  | .timerCancel q f => Sys2Proof.Machine.execTimerCancel q f s
  | .pclr q f => Sys2Proof.Machine.execPclr q f s
  | .rdfeat q f => Sys2Proof.Machine.execRdfeat q f s
  | .flitReceive sub flit => Sys2Proof.Machine.execFlitReceive sub flit s
  | .flitReplay sub => Sys2Proof.Machine.execFlitReplay sub s
  | .sublinkLoss sub => Sys2Proof.Machine.execSublinkLoss sub s
  | .sublinkTrainRetry sub trained => Sys2Proof.Machine.execSublinkTrainRetry sub trained s
  | .beatSend => Sys2Proof.Machine.execBeatSend s
  | .beat sub h body => Sys2Proof.Machine.execBeat sub h body s
  | .hello sub h body => Sys2Proof.Machine.execHello sub h body s
  | .mwrite sub docket h body => Sys2Proof.Machine.execMwrite sub docket h body s
  | .mack sub h body => Sys2Proof.Machine.execMack sub h body s
  | .jrec sub h body => Sys2Proof.Machine.execJrec sub h body s
  | .state sub h body => Sys2Proof.Machine.execState sub h body s
  | .sack sub h body => Sys2Proof.Machine.execSack sub h body s
  | .fwdcmd sub docket h sqe data => Sys2Proof.Machine.execFwdcmd sub docket h sqe data s
  | .fwdcpl sub h status dw0 dw1 data => Sys2Proof.Machine.execFwdcpl sub h status dw0 dw1 data s
  | .fwdabt sub h body => Sys2Proof.Machine.execFwdabt sub h body s
  | .fwdabtr sub h body => Sys2Proof.Machine.execFwdabtr sub h body s
  | .rscopy sub h body => Sys2Proof.Machine.execRscopy sub h body s
  | .rsack sub h body => Sys2Proof.Machine.execRsack sub h body s
  | .aliveInLow => Sys2Proof.Machine.execAliveInLow s
  | .aliveFault => Sys2Proof.Machine.execAliveFault s
  | .aliveInHigh => Sys2Proof.Machine.execAliveInHigh s
  | .fenceDelayExpiry => Sys2Proof.Machine.execFenceDelayExpiry s
  | .autoFence => Sys2Proof.Machine.execAutoFence s
  | .synmonRead port f => Sys2Proof.Machine.execSynmonRead port f s
  | .synmonWrite port f => Sys2Proof.Machine.execSynmonWrite port f s
  | .synmonBlockRead port f => Sys2Proof.Machine.execSynmonBlockRead port f s
  | .nodeIdQuery port f => Sys2Proof.Machine.execNodeIdQuery port f s
  | .nodeIdAssign port f => Sys2Proof.Machine.execNodeIdAssign port f s
  | .heartbeat => Sys2Proof.Machine.execHeartbeat s
  | .miSynmonRead port nmd0 nmd1 data => Sys2Proof.Machine.execMiSynmonRead port nmd0 nmd1 data s
  | .miSynmonWrite port nmd0 nmd1 data => Sys2Proof.Machine.execMiSynmonWrite port nmd0 nmd1 data s
  | .miSynmonBlockRead port nmd0 nmd1 data => Sys2Proof.Machine.execMiSynmonBlockRead port nmd0 nmd1 data s
  | .miReadDataStructure port dtyp portid cntlid => Sys2Proof.Machine.execMiReadDataStructure port dtyp portid cntlid s
  | .miSubsystemHealthPoll port clear => Sys2Proof.Machine.execMiSubsystemHealthPoll port clear s
  | .miControllerHealthPoll port cntlid => Sys2Proof.Machine.execMiControllerHealthPoll port cntlid s
  | .miConfigurationSet port cfg value => Sys2Proof.Machine.execMiConfigurationSet port cfg value s
  | .miConfigurationGet port cfg => Sys2Proof.Machine.execMiConfigurationGet port cfg s
  | .miVpdRead port off len => Sys2Proof.Machine.execMiVpdRead port off len s
  | .miAdminCommand port cntlid cmd => Sys2Proof.Machine.execMiAdminCommand port cntlid cmd s
  | .mctpSetEndpointId port eid => Sys2Proof.Machine.execMctpSetEndpointId port eid s
  | .mctpGetEndpointId port => Sys2Proof.Machine.execMctpGetEndpointId port s
  | .mctpGetEndpointUuid port => Sys2Proof.Machine.execMctpGetEndpointUuid port s
  | .mctpGetVersionSupport port mtype => Sys2Proof.Machine.execMctpGetVersionSupport port mtype s
  | .mctpGetMessageTypeSupport port => Sys2Proof.Machine.execMctpGetMessageTypeSupport port s
  | .i3cEntdaa port addr => Sys2Proof.Machine.execI3cEntdaa port addr s
  | .i3cSetdasa port static addr => Sys2Proof.Machine.execI3cSetdasa port static addr s
  | .dictionaryWrite path index sub data => Sys2Proof.Machine.execDictionaryWrite path index sub data s
  | .logbookLineRemap line => Sys2Proof.Machine.execLogbookLineRemap line s
  | .calReseed path data => Sys2Proof.Machine.execCalReseed path data s
  | .calibrationWrite path index sub data => Sys2Proof.Machine.execCalibrationWrite path index sub data s
  | .pilotParameterWrite path slot sub data => Sys2Proof.Machine.execPilotParameterWrite path slot sub data s
  | .rate path slot data => Sys2Proof.Machine.execRate path slot data s
  | .enable path slot data => Sys2Proof.Machine.execEnable path slot data s
  | .pathWrite path data => Sys2Proof.Machine.execPathWrite path data s
  | .hbPeriodMs path data => Sys2Proof.Machine.execHbPeriodMs path data s
  | .nsidHalf path data => Sys2Proof.Machine.execNsidHalf path data s
  | .port path tenant data => Sys2Proof.Machine.execPort path tenant data s
  | .leaseEntryWrite path tenant sub data => Sys2Proof.Machine.execLeaseEntryWrite path tenant sub data s
  | .landingPolicy path sub data => Sys2Proof.Machine.execLandingPolicy path sub data s
  | .wpEngines path data => Sys2Proof.Machine.execWpEngines path data s
  | .fwEngines path data => Sys2Proof.Machine.execFwEngines path data s
  | .opCap path data => Sys2Proof.Machine.execOpCap path data s
  | .quayEnable path data => Sys2Proof.Machine.execQuayEnable path data s
  | .clusterEnable path data => Sys2Proof.Machine.execClusterEnable path data s
  | .refclkMode path data => Sys2Proof.Machine.execRefclkMode path data s
  | .plcaWrite path port sub data => Sys2Proof.Machine.execPlcaWrite path port sub data s
  | .dredgeEnable path data => Sys2Proof.Machine.execDredgeEnable path data s
  | .dredgeCycleStart => Sys2Proof.Machine.execDredgeCycleStart s
  | .cycleOverrun => Sys2Proof.Machine.execCycleOverrun s
  | .clusterBistStart cluster => Sys2Proof.Machine.execClusterBistStart cluster s
  | .clusterBistEnd cluster failed => Sys2Proof.Machine.execClusterBistEnd cluster failed s
  | .berthMarch far berth fault => Sys2Proof.Machine.execBerthMarch far berth fault s
  | .tallyParityScrub row parityOk => Sys2Proof.Machine.execTallyParityScrub row parityOk s
  | .patrolRead block worstStep bits => Sys2Proof.Machine.execPatrolRead block worstStep bits s
  | .pilotSanity => Sys2Proof.Machine.execPilotSanity s
  | .leaseMinimumExpiry core => Sys2Proof.Machine.execLeaseMinimumExpiry core s
  | .lotDegraded24h lot => Sys2Proof.Machine.execLotDegraded24h lot s
  | .sublinkTrained sub => Sys2Proof.Machine.execSublinkTrained sub s
  | .sriovVfEnable port => Sys2Proof.Machine.execSriovVfEnable port s
  | .portRefclkLoss port => Sys2Proof.Machine.execPortRefclkLoss port s
  | .portRefclkReturn port => Sys2Proof.Machine.execPortRefclkReturn port s
  | .aggregationTimeExpiry fn vector => Sys2Proof.Machine.execAggregationTimeExpiry fn vector s
  | .invalidCommandOpcode io fn sqid cid => Sys2Proof.Machine.execInvalidCommandOpcode io fn sqid cid s

end Sys2Proof.Machine
end

