-- ==== Sys2Proof/Safety.lean ====
section
/-!
DEFINITION. The terms claims use: the invariants of the module, where a syllable or a command can
complete, and what a completed one has changed.
-/
namespace Sys2Proof.Machine

/-! ### Invariants -/

/-- The three byte memories are in canonical form: berths and firmware DRAM, subsystem local memory,
and the scratchpads with the stream buffers. -/
def State.memWf (s : State) : Bool :=
  tabWf 0 s.dram && tabWf 0 s.prog.slm && tabWf 0 s.ik.spad

/-- The event clock never runs ahead of the whole run (R520). -/
def State.clockWf (s : State) : Bool := decide (s.uptime ≤ s.nowMs)

/-- What every step keeps. -/
def State.inv (s : State) : Bool := s.memWf && s.clockWf

/-- Command `i` completes in state `s`, in a state that satisfies `P`. -/
def completes (i : Instr) (s : State) (P : State → Prop) : Prop := ∃ t, exec i s = .next t ∧ P t

/-! ### Ikixa -/

/-- The core runs a thread and is about to issue a bundle of `words` words that is not its block's
first and stands in no delay slot and no repeat, with no register write in flight. -/
def atBundle (s : State) (c words : Nat) : Bool :=
  let x := getCore s c
  (match x.phase with | .running _ => true | _ => false) && x.bun == .empty && !x.first &&
    x.delay == 0 && x.rep.isNone && x.target.isNone && x.pend.isEmpty && codeHolds s c words

/-- Nothing outside core `c` and the time of its cluster has changed: no other core, no scratchpad
byte, and nothing outside the cores. -/
def onlyCore (s t : State) (c : Nat) : Prop :=
  (∀ d, d ≠ c → getCore t d = getCore s d) ∧ t.ik.spad = s.ik.spad ∧ { t with ik := s.ik } = s

/-- The bundle address after a bundle of `words` words. -/
def nextPc (s : State) (c words : Nat) : W64 :=
  pcTo (getCore s c).pc ((getCore s c).pc.toNat + 4 * words)

/-- A bundle of `words` words has issued with the one write `w` of latency `lat` (R206, R233, R234):
the bank holds it from the next cycle where the latency is 1 or the core a control core, and it is in
flight otherwise; the other bank, the block and everything outside the core are as they were. -/
structure OneWrite (s t : State) (c lat words : Nat) (w : Wr) : Prop where
  next : (getCore t c).pc = nextPc s c words
  cycle : (getCore t c).cyc = (getCore s c).cyc + 1
  phase : (getCore t c).phase = (getCore s c).phase
  landed : (lat ≤ 1 ∨ isLighterCore c = false) →
    curBank (getCore t c) = bankWr (curBank (getCore s c)) w ∧ (getCore t c).pend = []
  flying : 1 < lat → isLighterCore c = true → curBank (getCore t c) = curBank (getCore s c) ∧
    (getCore t c).pend = [⟨(getCore s c).cyc + lat, w⟩]
  bank : (getCore t c).bank = (getCore s c).bank
  others : onlyCore s t c

/-- A bundle of `words` words has issued on a lighter core with the writes `ws`, each with its latency
above 1: all are in flight, and neither bank nor anything outside the core has changed yet. -/
structure InFlight (s t : State) (c words : Nat) (ws : List (Nat × Wr)) : Prop where
  next : (getCore t c).pc = nextPc s c words
  cycle : (getCore t c).cyc = (getCore s c).cyc + 1
  phase : (getCore t c).phase = (getCore s c).phase
  pend : (getCore t c).pend = ws.map (fun e => ⟨(getCore s c).cyc + e.1, e.2⟩)
  bank : (getCore t c).bank = (getCore s c).bank ∧ (getCore t c).bank0 = (getCore s c).bank0 ∧
    (getCore t c).bank1 = (getCore s c).bank1
  others : onlyCore s t c

/-- The state once the writes have taken effect in their order. -/
def afterWrites (s : State) (c : Nat) (ws : List (Nat × Wr)) : State :=
  ws.foldl (fun s e => applyWr s c e.2) s

/-- The bundle has issued and the core stands at bundle address `pc`, `adv` cycles on; its writes `ws`
have all taken effect in the core's bank and in memory, in their order, and nothing else has
changed. -/
structure LandedAt (s t : State) (c : Nat) (pc : W64) (adv : Nat) (ws : List (Nat × Wr)) : Prop where
  next : (getCore t c).pc = pc
  cycle : (getCore t c).cyc = (getCore s c).cyc + adv
  phase : (getCore t c).phase = (getCore s c).phase
  pend : (getCore t c).pend = []
  bank : curBank (getCore t c) = curBank (getCore (afterWrites s c ws) c)
  spad : t.ik.spad = (afterWrites s c ws).ik.spad
  others : (∀ d, d ≠ c → getCore t d = getCore s d) ∧
    { t with ik := s.ik } = { s with dram := (afterWrites s c ws).dram }

/-- A bundle of `words` words has issued with the writes `ws`, all seen by the next bundle (their
latency is 1, or the core a control core, R234). -/
def Landed (s t : State) (c words : Nat) (ws : List (Nat × Wr)) : Prop :=
  LandedAt s t c (nextPc s c words) 1 ws

/-- A bundle of `words` words has issued and written no register, bit or byte. -/
structure Quiet (s t : State) (c words : Nat) : Prop where
  next : (getCore t c).pc = nextPc s c words
  cycle : (getCore t c).cyc = (getCore s c).cyc + 1
  phase : (getCore t c).phase = (getCore s c).phase
  bank : (getCore t c).bank = (getCore s c).bank ∧ (getCore t c).bank0 = (getCore s c).bank0 ∧
    (getCore t c).bank1 = (getCore s c).bank1
  pend : (getCore t c).pend = []
  others : onlyCore s t c

/-- The address of a short memory syllable outside a repeat (Table 7.7). -/
def tableAddr (s : State) (c : Nat) (f : MemF) (size : Nat) : W64 :=
  let off := f.off6.signExtend 64 * BitVec.ofNat 64 size
  let base := rdX s c f.ra.toNat
  if f.mode = 0 then base + off
  else if f.mode = 1 then base
  else if f.mode = 2 then base - off
  else base + rdX s c f.off6.toNat * BitVec.ofNat 64 (2 ^ f.sc.toNat)

/-- The update of the base register that goes with it, with the latency of the opcode. -/
def tableBase (s : State) (c : Nat) (f : MemF) (size lat : Nat) : List (Nat × Wr) :=
  let off := f.off6.signExtend 64 * BitVec.ofNat 64 size
  let base := rdX s c f.ra.toNat
  if f.mode = 1 then [(lat, .x f.ra.toNat (base + off))]
  else if f.mode = 2 then [(lat, .x f.ra.toNat (base - off))]
  else []

/-- The fields of a short memory syllable are none that R237 and R238 reserve. -/
def shortOk (f : MemF) (vec : Bool) : Bool :=
  (if f.mode = 3 then f.sc != 7 else f.sc == 0) && !(vec && decide (32 ≤ f.rt.toNat))

/-- The fields of a long memory syllable are none reserved. -/
def longOk (f : MemF) (vec : Bool) : Bool :=
  f.mode == 0 && f.sc == 0 && f.off6 == 0 && !(vec && decide (32 ≤ f.rt.toNat))

/-- A control core may make an access of `size` bytes at `a`; a lighter core's wraps in its window. -/
def reachable (c : Nat) (a : W64) (size : Nat) : Bool := isLighterCore c || fabricOk a.toNat size

/-- The `n` bytes a core finds at an address with no store in flight: in its window, whose address wraps
at 1 MiB and is rounded down to the size, zeros in a stream window that is not open (R213, R216); on a
control core at the fabric address. -/
def coreBytes (s : State) (c : Nat) (a : W64) (n : Nat) : List Byte :=
  if isLighterCore c then
    let w := winNorm a.toNat n
    if 0x80000 ≤ w ∧ (getStream s c ((w - 0x80000) / 0x8000)).isOpen = false then List.replicate n 0
    else memRead s.ik.spad (c * 2 ^ 20 + w) n
  else memRead s.dram a.toNat n

/-- The value a load of `n` bytes gives. -/
def loaded (s : State) (c : Nat) (a : W64) (n : Nat) (signed : Bool) : W64 :=
  let v := ofLe (coreBytes s c a n)
  if signed then (BitVec.ofNat (8 * n) v).signExtend 64 else BitVec.ofNat 64 v

/-- A bundle has issued whose writes all have a latency above 1: in flight on a lighter core, seen by
the next bundle on a control core. -/
def Issued (s t : State) (c words : Nat) (ws : List (Nat × Wr)) : Prop :=
  if isLighterCore c then InFlight s t c words ws else Landed s t c words ws

/-- A branch has issued: two delay bundles follow, then `target`, or the bundle after them. -/
structure Branched (s t : State) (c words : Nat) (target : Option Nat) : Prop where
  quiet : Quiet s t c words
  delay : (getCore t c).delay = 2
  target : (getCore t c).target = target

/-- A shared bit has been written by a bundle of `words` words (R211): once every write on its way is
applied it reads `v`, and every other shared bit of the set as before; no register has changed. -/
structure SharedWritten (s t : State) (c words k : Nat) (v : Bool) : Prop where
  next : (getCore t c).pc = nextPc s c words
  bank : curBank (getCore t c) = curBank (getCore s c)
  bit : sharedView t c k (fun _ => true) = v
  rest : ∀ j, 1024 ≤ j → j < 2048 → j ≠ k →
    sharedView t c j (fun _ => true) = sharedView s c j (fun _ => true)
  others : onlyCore s t c

/-- Nothing is on its way to the shared bits of the core's set. -/
def sharedQuiet (s : State) (c : Nat) : Bool := (tabGet [] s.ik.shPend (sharedSet s c)).isEmpty

/-- A queued syllable has joined the core's X queue (R272). -/
structure Queued (s t : State) (c : Nat) (r : XReq) : Prop where
  quiet : Quiet s t c 1
  queue : (getCore t c).xq = (getCore s c).xq ++ [⟨(getCore s c).pc, coreThread s c, r⟩]

/-- The block has ended with event `e`, which waits behind the X queue (R258, R274). -/
structure BlockEnded (s t : State) (c : Nat) (e : EndEv) : Prop where
  phase : (getCore t c).phase = .ended (coreThread s c)
  event : (getCore t c).endEv = some e
  queue : (getCore t c).xq = (getCore s c).xq
  pend : (getCore t c).pend = []
  cores : ∀ d, d ≠ c → getCore t d = getCore s d

/-- The core is about to issue the first bundle of a block, of one word. -/
def atBlockStart (s : State) (c : Nat) : Bool :=
  let x := getCore s c
  (match x.phase with | .running _ => true | _ => false) && x.bun == .empty && x.first &&
    x.delay == 0 && x.rep.isNone && x.target.isNone && x.pend.isEmpty && codeHolds s c 1

/-! ### The berth pool and the harbour master -/

/-- Nothing is held, waits for a transfer's end, is passing on, is ready, or is held at step 3 of a write. -/
def nothingWaits (s : State) : Bool :=
  s.pool.held.isEmpty && s.pool.reclaims.isEmpty && s.hm.ready.isEmpty &&
    s.hm.leases.all (fun e => e.2.next.isNone && !e.2.taking) && s.hm.threads.all (fun e => e.2.state != 4) &&
    s.host.dockets.all (fun e => !e.2.heldAt3)

/-! ### I/O commands -/

/-- Nothing refuses or forwards the command of a docket entry: this module executes it. -/
def runsHere (s : State) (d : Nat) : Bool :=
  let e := getDk s d
  !heldByTakeover s e.sqe.nsid && !rekeying s e.sqe.nsid && (nsRefusal s e).isNone &&
    !(forwards s e.sqe.nsid && e.remote.isNone) && (hereRefusal s e).isNone

/-- The docket entry once its command has begun. -/
def begun (s : State) (d : Nat) : State := modDk s d (fun e => { e with started := true })

end Sys2Proof.Machine
end

