-- ==== Sys2Proof/Certificates/Slice0/Obligations.lean ====
section
/-!
DEFINITION. The statements for the provers.
-/
open Sys2Proof Sys2Proof.Machine

/-- Table 8.2, R241, R267: a TRI syllable in a bundle of its own writes its result to x[RD] with the latency of
its row, at both widths, and changes nothing else; x0 takes no write. Table 8.2: the values of the logic,
arithmetic and shift operations at 64 bits, and R241: the 32-bit form works on the low halves and sign-
extends. Table 8.2: minimum, maximum, products, quotients and remainders. -/
def Obligations.TriSyllablesWriteTheirResult : Prop :=
  (∀ (s : State) (q : Syl) (f : TriF), q.stop = true → atBundle s q.core 1 = true → f.fn.toNat ≤ 1 →
      let P (op : AluOp) (lat : Nat) (t : State) : Prop := OneWrite s t q.core lat 1
        (.x f.rd.toNat (alu op f.fn.toNat (rdX s q.core f.ra.toNat) (rdX s q.core f.rb.toNat)))
      completes (.add q f) s (P .add 1) ∧ completes (.sub q f) s (P .sub 1) ∧
      completes (.and q f) s (P .and 1) ∧ completes (.or q f) s (P .or 1) ∧
      completes (.xor q f) s (P .xor 1) ∧ completes (.andn q f) s (P .andn 1) ∧
      completes (.shl q f) s (P .shl 1) ∧ completes (.shr q f) s (P .shr 1) ∧
      completes (.sar q f) s (P .sar 1) ∧ completes (.rol q f) s (P .rol 1) ∧
      completes (.min q f) s (P .min 1) ∧ completes (.max q f) s (P .max 1) ∧
      completes (.minu q f) s (P .minu 1) ∧ completes (.maxu q f) s (P .maxu 1) ∧
      completes (.mul q f) s (P .mul 3) ∧
      (f.fn = 0 → completes (.mulh q f) s (P .mulh 3) ∧ completes (.mulhu q f) s (P .mulhu 3)) ∧
      completes (.div q f) s (P .div 20) ∧ completes (.divu q f) s (P .divu 20) ∧
      completes (.rem q f) s (P .rem 20) ∧ completes (.remu q f) s (P .remu 20) ∧
      (f.rb = 0 → completes (.clz q f) s (P .clz 2) ∧ completes (.ctz q f) s (P .ctz 2) ∧
        completes (.popc q f) s (P .popc 2) ∧ completes (.bswap q f) s (P .bswap 2))) ∧
  (∀ a b : W64,
      let lo (x : W64) : W32 := x.setWidth 32
      let wide (x : W32) : W64 := x.signExtend 64
      alu .add 0 a b = a + b ∧ alu .add 1 a b = wide (lo a + lo b) ∧
      alu .sub 0 a b = a - b ∧ alu .sub 1 a b = wide (lo a - lo b) ∧
      alu .and 0 a b = a &&& b ∧ alu .and 1 a b = wide (lo a &&& lo b) ∧
      alu .or 0 a b = a ||| b ∧ alu .or 1 a b = wide (lo a ||| lo b) ∧
      alu .xor 0 a b = a ^^^ b ∧ alu .xor 1 a b = wide (lo a ^^^ lo b) ∧
      alu .andn 0 a b = a &&& ~~~b ∧ alu .andn 1 a b = wide (lo a &&& ~~~(lo b)) ∧
      alu .shl 0 a b = a <<< (b.toNat % 64) ∧ alu .shl 1 a b = wide (lo a <<< (b.toNat % 32)) ∧
      alu .shr 0 a b = a >>> (b.toNat % 64) ∧ alu .shr 1 a b = wide (lo a >>> (b.toNat % 32)) ∧
      alu .sar 0 a b = a.sshiftRight (b.toNat % 64) ∧
      alu .sar 1 a b = wide ((lo a).sshiftRight (b.toNat % 32)) ∧
      alu .rol 0 a b = a.rotateLeft b.toNat ∧ alu .rol 1 a b = wide ((lo a).rotateLeft b.toNat)) ∧
  (∀ a b : W64,
      let lo (x : W64) : W32 := x.setWidth 32
      let wide (x : W32) : W64 := x.signExtend 64
      alu .min 0 a b = (if a.slt b then a else b) ∧ alu .max 0 a b = (if a.slt b then b else a) ∧
      alu .minu 0 a b = (if a.ult b then a else b) ∧ alu .maxu 0 a b = (if a.ult b then b else a) ∧
      alu .mul 0 a b = a * b ∧ alu .mul 1 a b = wide (lo a * lo b) ∧
      alu .mulh 0 a b = ((a.signExtend 128 * b.signExtend 128) >>> 64).setWidth 64 ∧
      alu .mulhu 0 a b = ((a.setWidth 128 * b.setWidth 128) >>> 64).setWidth 64 ∧
      (b ≠ 0 → alu .div 0 a b = a.sdiv b ∧ alu .rem 0 a b = a.srem b ∧
        alu .divu 0 a b = a / b ∧ alu .remu 0 a b = a % b) ∧
      (lo b ≠ 0 → alu .div 1 a b = wide ((lo a).sdiv (lo b)) ∧ alu .rem 1 a b = wide ((lo a).srem (lo b)) ∧
        alu .divu 1 a b = wide (lo a / lo b) ∧ alu .remu 1 a b = wide (lo a % lo b)))

/-- R242: a quotient with divisor 0 is all ones at width w and the remainder is RA; the most negative value by
−1 gives itself and remainder 0; and none of these cases faults: the syllable completes. -/
def Obligations.DivisionCornersComplete : Prop :=
  (∀ a b : W64,
    alu .div 0 a 0 = -1 ∧ alu .divu 0 a 0 = -1 ∧ alu .rem 0 a 0 = a ∧ alu .remu 0 a 0 = a ∧
    (b.setWidth 32 = (0 : W32) →
      alu .div 1 a b = -1 ∧ alu .divu 1 a b = -1 ∧
      alu .rem 1 a b = (a.setWidth 32 : W32).signExtend 64 ∧
      alu .remu 1 a b = (a.setWidth 32 : W32).signExtend 64)) ∧
  alu .div 0 (BitVec.intMin 64) (-1) = BitVec.intMin 64 ∧ alu .rem 0 (BitVec.intMin 64) (-1) = 0 ∧
  (∀ a b : W64, a.setWidth 32 = BitVec.intMin 32 → b.setWidth 32 = (-1 : W32) →
    alu .div 1 a b = (BitVec.intMin 32).signExtend 64 ∧ alu .rem 1 a b = 0) ∧
  (∀ (s : State) (q : Syl) (f : TriF), q.stop = true → atBundle s q.core 1 = true → f.fn.toNat ≤ 1 →
    let runs (i : Instr) : Prop := completes i s (fun t => (getCore t q.core).phase = (getCore s q.core).phase)
    runs (.div q f) ∧ runs (.divu q f) ∧ runs (.rem q f) ∧ runs (.remu q f))

/-- Table 8.2: the syllables with an immediate, the repeat counter and GETB, each with its value. Table 8.2,
R243: a compare writes its bit from the next cycle where it is private (b0 to b1023), in the short and the
long form. -/
def Obligations.ImmediateAndCompareSyllables : Prop :=
  (∀ (s : State) (q : Syl) (f : ImmF) (l : LongF) (e e2 : BitVec 31), q.stop = true →
      let a := rdX s q.core f.ra.toNat
      let i : W64 := f.imm8.signExtend 64
      let k := f.imm8.toNat
      let P (rd : BitVec 6) (words : Nat) (v : W64) (t : State) : Prop :=
        OneWrite s t q.core 1 words (.x rd.toNat v)
      (atBundle s q.core 1 = true →
        completes (.addi q f) s (P f.rd 1 (a + i)) ∧ completes (.andi q f) s (P f.rd 1 (a &&& i)) ∧
        completes (.ori q f) s (P f.rd 1 (a ||| i)) ∧ completes (.xori q f) s (P f.rd 1 (a ^^^ i)) ∧
        (k < 64 → completes (.shli q f) s (P f.rd 1 (a <<< k)) ∧
          completes (.shri q f) s (P f.rd 1 (a >>> k)) ∧
          completes (.sari q f) s (P f.rd 1 (a.sshiftRight k))) ∧
        (f.rd = 0 → f.imm8 = 0 → completes (.wrrc q f) s
          (fun t => OneWrite s t q.core 1 1 (.rc (a.setWidth 16)))) ∧
        (f.ra = 0 → f.imm8 = 0 → completes (.rdrc q f) s (P f.rd 1 ((rdRc s q.core).setWidth 64))) ∧
        completes (.li q l) s (P l.rd 1 (l.imm14.signExtend 64)) ∧
        (l.imm14.toNat < 4096 → completes (.getb q l) s
          (P l.rd 1 (if rdBit s q.core l.imm14.toNat then 1 else 0)))) ∧
      (atBundle s q.core 2 = true →
        completes (.liL q l e) s (P l.rd 2 ((e ++ l.imm14).signExtend 64)) ∧
        completes (.la q l e) s (P l.rd 2 (BitVec.ofNat 64
          ((getCore s q.core).pc.toNat / 2 ^ 32 % 2 ^ 16 * 2 ^ 32 +
            ((getCore s q.core).pc + 4 * (e ++ l.imm14).signExtend 64).toNat % 2 ^ 32)))) ∧
      (atBundle s q.core 3 = true → e2.toNat < 2 ^ 19 →
        completes (.liQ q l e e2) s (P l.rd 3 ((e2 ++ e ++ l.imm14).setWidth 64)))) ∧
  (∀ (s : State) (q : Syl) (f : CmpF) (e : BitVec 31), q.stop = true →
      let a := rdX s q.core f.ra.toNat
      let b := rdX s q.core f.rb.toNat
      let P (k words : Nat) (v : Bool) (t : State) : Prop := OneWrite s t q.core 1 words (.bit k v)
      (atBundle s q.core 1 = true →
        completes (.ceq q f) s (P f.bd8.toNat 1 (a == b)) ∧ completes (.cne q f) s (P f.bd8.toNat 1 (a != b)) ∧
        completes (.clt q f) s (P f.bd8.toNat 1 (a.slt b)) ∧ completes (.cltu q f) s (P f.bd8.toNat 1 (a.ult b)) ∧
        completes (.cle q f) s (P f.bd8.toNat 1 (a.sle b)) ∧ completes (.cleu q f) s (P f.bd8.toNat 1 (a.ule b)) ∧
        completes (.ctst q f) s (P f.bd8.toNat 1 ((a &&& b) != 0))) ∧
      (atBundle s q.core 2 = true → f.bd8 = 0 → e.toNat < 1024 →
        completes (.ceqL q f e) s (P e.toNat 2 (a == b)) ∧ completes (.cneL q f e) s (P e.toNat 2 (a != b)) ∧
        completes (.cltL q f e) s (P e.toNat 2 (a.slt b)) ∧ completes (.cltuL q f e) s (P e.toNat 2 (a.ult b)) ∧
        completes (.cleL q f e) s (P e.toNat 2 (a.sle b)) ∧ completes (.cleuL q f e) s (P e.toNat 2 (a.ule b)) ∧
        completes (.ctstL q f e) s (P e.toNat 2 ((a &&& b) != 0))))

/-- Table 8.4: the bit syllables on private bits; TAS and TAC put the tested value in b[OFF8] and then set or
clear b[BN], as one step. R211, R243: a write to a shared bit, by a compare or a bit syllable, reaches the
cluster's set and no other bit; TAS and TAC return the value they found. -/
def Obligations.BitSyllablesWriteTheirBit : Prop :=
  (∀ (s : State) (q : Syl) (f : BitF) (g : BlgF) (e : BitVec 31), q.stop = true →
      let c := q.core
      let k := f.bn.toNat
      let W (words n : Nat) (v : Bool) (t : State) : Prop := OneWrite s t c 1 words (.bit n v)
      (atBundle s c 1 = true → k < 1024 →
        (f.off8 = 0 → completes (.bset q f) s (W 1 k true) ∧ completes (.bclr q f) s (W 1 k false) ∧
          completes (.btgl q f) s (W 1 k (!rdBit s c k))) ∧
        completes (.tas q f) s (fun t => Landed s t c 1 [(1, .bit f.off8.toNat (rdBit s c k)), (1, .bit k true)]) ∧
        completes (.tac q f) s (fun t => Landed s t c 1 [(1, .bit f.off8.toNat (rdBit s c k)), (1, .bit k false)])) ∧
      (atBundle s c 2 = true → g.rsv = 0 → e.toNat % 128 = 0 → g.bd.toNat < 1024 →
        let ba := rdBit s c (e.toNat / 2 ^ 19)
        let bb := rdBit s c (e.toNat / 2 ^ 7 % 4096)
        completes (.blg q g e) s (W 2 g.bd.toNat
          (g.tt.getLsbD ((if ba then 2 else 0) + (if bb then 1 else 0)))))) ∧
  (∀ (s : State) (q : Syl) (f : BitF) (g : BlgF) (m : CmpF) (e : BitVec 31), q.stop = true →
      let c := q.core
      let k := f.bn.toNat
      let a := rdX s c m.ra.toNat
      let b := rdX s c m.rb.toNat
      let W (words n : Nat) (v : Bool) (t : State) : Prop := SharedWritten s t c words n v
      sharedQuiet s c = true →
      (atBundle s c 1 = true → 1024 ≤ k → k < 2048 → f.off8 = 0 →
        completes (.bset q f) s (W 1 k true) ∧ completes (.bclr q f) s (W 1 k false) ∧
        completes (.btgl q f) s (W 1 k (!rdBit s c k))) ∧
      (atBundle s c 2 = true → g.rsv = 0 → e.toNat % 128 = 0 → 1024 ≤ g.bd.toNat → g.bd.toNat < 2048 →
        completes (.blg q g e) s (W 2 g.bd.toNat (g.tt.getLsbD
          ((if rdBit s c (e.toNat / 2 ^ 19) then 2 else 0) +
            (if rdBit s c (e.toNat / 2 ^ 7 % 4096) then 1 else 0))))) ∧
      (atBundle s c 2 = true → m.bd8 = 0 → 1024 ≤ e.toNat → e.toNat < 2048 →
        completes (.ceqL q m e) s (W 2 e.toNat (a == b)) ∧ completes (.cneL q m e) s (W 2 e.toNat (a != b)) ∧
        completes (.cltL q m e) s (W 2 e.toNat (a.slt b)) ∧ completes (.cltuL q m e) s (W 2 e.toNat (a.ult b)) ∧
        completes (.cleL q m e) s (W 2 e.toNat (a.sle b)) ∧ completes (.cleuL q m e) s (W 2 e.toNat (a.ule b)) ∧
        completes (.ctstL q m e) s (W 2 e.toNat ((a &&& b) != 0))) ∧
      (atBundle s c 1 = true → 1024 ≤ k → k < 2048 →
        let R (v : Bool) (t : State) : Prop :=
          sharedView t c k (fun _ => true) = v ∧ (getCore t c).pc = nextPc s c 1 ∧
          (isLighterCore c = true → (getCore t c).pend =
            [⟨(getCore s c).cyc + 3, .bit f.off8.toNat (tabGet false s.ik.shared (sharedKey s c k))⟩])
        completes (.tas q f) s (R true) ∧ completes (.tac q f) s (R false)))

/-- R233: the syllables of one bundle read their operands before any write of the bundle takes effect: an ADD
and a SUB in one bundle both see the registers as the bundle found them. -/
def Obligations.BundleReadsBeforeItsWrites : Prop :=
  ∀ (s : State) (c : Nat) (f g : TriF), isLighterCore c = true → atBundle s c 2 = true → f.fn = 0 → g.fn = 0 →
    completes (.add ⟨c, false, false⟩ f) s (fun t =>
      completes (.sub ⟨c, true, true⟩ g) t (fun u =>
        curBank (getCore u c) =
          bankWr (bankWr (curBank (getCore s c))
            (.x f.rd.toNat (rdX s c f.ra.toNat + rdX s c f.rb.toNat)))
            (.x g.rd.toNat (rdX s c g.ra.toNat - rdX s c g.rb.toNat)) ∧
        (getCore u c).pc = nextPc s c 2 ∧ (getCore u c).cyc = (getCore s c).cyc + 1))

/-- Tables 7.7, 8.1, R236 to R238: a load in a bundle of its own, at any addressing mode, writes the bytes found
at its address, sign- or zero-extended, to x[RT] or v[RT] four cycles later, and the base register with it;
its long form adds a signed 31-bit byte offset. Nothing in memory changes. -/
def Obligations.LoadsWriteWhatMemoryHolds : Prop :=
  ∀ (s : State) (q : Syl) (f : MemF) (e : BitVec 31), q.stop = true →
    let c := q.core
    let a (n : Nat) := tableAddr s c f n
    let l : W64 := rdX s c f.ra.toNat + e.signExtend 64
    let X (n : Nat) (sg : Bool) (t : State) : Prop :=
      Issued s t c 1 ((4, .x f.rt.toNat (loaded s c (a n) n sg)) :: tableBase s c f n 4)
    let L (n : Nat) (sg : Bool) (t : State) : Prop :=
      Issued s t c 2 [(4, .x f.rt.toNat (loaded s c l n sg))]
    (atBundle s c 1 = true → shortOk f false = true →
      (reachable c (a 1) 1 = true → completes (.ldb q f) s (X 1 true) ∧ completes (.ldbu q f) s (X 1 false)) ∧
      (reachable c (a 2) 2 = true → completes (.ldh q f) s (X 2 true) ∧ completes (.ldhu q f) s (X 2 false)) ∧
      (reachable c (a 4) 4 = true → completes (.ldw q f) s (X 4 true) ∧ completes (.ldwu q f) s (X 4 false)) ∧
      (reachable c (a 8) 8 = true → completes (.ldd q f) s (X 8 false))) ∧
    (atBundle s c 1 = true → shortOk f true = true → reachable c (a 64) 64 = true →
      completes (.ldv q f) s (fun t => Issued s t c 1
        ((4, .v f.rt.toNat (BitVec.ofNat 512 (ofLe (coreBytes s c (a 64) 64)))) :: tableBase s c f 64 4))) ∧
    (atBundle s c 2 = true → longOk f false = true →
      (reachable c l 1 = true → completes (.ldbL q f e) s (L 1 true) ∧ completes (.ldbuL q f e) s (L 1 false)) ∧
      (reachable c l 2 = true → completes (.ldhL q f e) s (L 2 true) ∧ completes (.ldhuL q f e) s (L 2 false)) ∧
      (reachable c l 4 = true → completes (.ldwL q f e) s (L 4 true) ∧ completes (.ldwuL q f e) s (L 4 false)) ∧
      (reachable c l 8 = true → completes (.lddL q f e) s (L 8 false))) ∧
    (atBundle s c 2 = true → longOk f true = true → reachable c l 64 = true →
      completes (.ldvL q f e) s (fun t => Issued s t c 2
        [(4, .v f.rt.toNat (BitVec.ofNat 512 (ofLe (coreBytes s c l 64))))]))

/-- Tables 7.7, 8.1: a store in a bundle of its own sends the low bytes of x[RT] or v[RT], least significant
first, to the bytes at its address and to no other, two cycles later; SWPD and AADDD also return what the
location held. R206, R233: a store of a lighter core to its scratchpad is there two cycles after it issued,
byte for byte at its address, rounded down to the size; every other byte of every scratchpad is as it was. -/
def Obligations.StoresSendTheirBytes : Prop :=
  (∀ (s : State) (q : Syl) (f : MemF) (e : BitVec 31), q.stop = true →
      let c := q.core
      let a (n : Nat) := tableAddr s c f n
      let l : W64 := rdX s c f.ra.toNat + e.signExtend 64
      let x (n : Nat) := leBytes n (rdX s c f.rt.toNat).toNat
      let v := leBytes 64 (rdV s c f.rt.toNat).toNat
      let at2 (p : W64) (bs : List Byte) : List (Nat × Wr) := (storeAt s c p.toNat bs).map (fun w => (2, w))
      let S (n : Nat) (t : State) : Prop := Issued s t c 1 (at2 (a n) (x n) ++ tableBase s c f n 2)
      let L (n : Nat) (t : State) : Prop := Issued s t c 2 (at2 l (x n))
      (atBundle s c 1 = true → shortOk f false = true →
        (reachable c (a 1) 1 = true → completes (.stb q f) s (S 1)) ∧
        (reachable c (a 2) 2 = true → completes (.sth q f) s (S 2)) ∧
        (reachable c (a 4) 4 = true → completes (.stw q f) s (S 4)) ∧
        (reachable c (a 8) 8 = true → completes (.std q f) s (S 8))) ∧
      (atBundle s c 1 = true → shortOk f true = true → reachable c (a 64) 64 = true →
        completes (.stv q f) s (fun t => Issued s t c 1 (at2 (a 64) v ++ tableBase s c f 64 2))) ∧
      (atBundle s c 2 = true → longOk f false = true →
        (reachable c l 1 = true → completes (.stbL q f e) s (L 1)) ∧
        (reachable c l 2 = true → completes (.sthL q f e) s (L 2)) ∧
        (reachable c l 4 = true → completes (.stwL q f e) s (L 4)) ∧
        (reachable c l 8 = true → completes (.stdL q f e) s (L 8))) ∧
      (atBundle s c 2 = true → longOk f true = true → reachable c l 64 = true →
        completes (.stvL q f e) s (fun t => Issued s t c 2 (at2 l v))) ∧
      (atBundle s c 1 = true → f.mode = 0 → f.sc = 0 → reachable c (a 8) 8 = true →
        (isLighterCore c = false → (a 8).toNat % 8 = 0) →
        let old := loaded s c (a 8) 8 false
        let R (new : W64) (t : State) : Prop := Issued s t c 1
          ((storeAt s c (a 8).toNat (leBytes 8 new.toNat)).map (fun w => (4, w)) ++ [(4, .x f.rt.toNat old)])
        completes (.swpd q f) s (R (rdX s c f.rt.toNat)) ∧
        completes (.aaddd q f) s (R (old + rdX s c f.rt.toNat))) ∧
      (atBundle s c 1 = true → f = ⟨0, 0, 0, 0, 0⟩ → completes (.fence q f) s (fun t => Quiet s t c 1))) ∧
  (∀ (s : State) (q p : Syl) (f : MemF), q.stop = true → p = ⟨q.core, false, true⟩ →
      isLighterCore q.core = true → atBundle s q.core 2 = true → shortOk f false = true → f.mode = 0 →
      let a := (tableAddr s q.core f 8).toNat % 2 ^ 20 / 8 * 8
      a < 0x80000 →
      completes (.std q f) s (fun t => completes (.nop p 0) t (fun u =>
        memRead u.ik.spad (q.core * 2 ^ 20 + a) 8 = leBytes 8 (rdX s q.core f.rt.toNat).toNat ∧
        ∀ j, (j < q.core * 2 ^ 20 + a ∨ q.core * 2 ^ 20 + a + 8 ≤ j) →
          tabGet 0 u.ik.spad j = tabGet 0 s.ik.spad j)))

/-- Table 8.3, R244: the vector syllables, each with its lane operation and the latency of its row. Table 8.3:
the vector syllables with a scalar operand. -/
def Obligations.VectorSyllablesWriteTheirResult : Prop :=
  (∀ (s : State) (q : Syl) (f : VecF), q.stop = true → atBundle s q.core 1 = true →
      let et := f.et.toNat
      let fn := f.fn.toNat
      let a := rdV s q.core f.va.toNat
      let b := rdV s q.core f.vb.toNat
      let d := rdV s q.core f.vd.toNat
      let P (lat : Nat) (r : V512) (t : State) : Prop := OneWrite s t q.core lat 1 (.v f.vd.toNat r)
      let lat2 := if et < 4 then 2 else 4
      (((et < 4 ∧ fn ≤ 2) ∨ (4 ≤ et ∧ et < 7 ∧ fn = 0)) →
        completes (.vadd q f) s (P lat2 (vecMap2 et (laneAddSub false et fn) a b)) ∧
        completes (.vsub q f) s (P lat2 (vecMap2 et (laneAddSub true et fn) a b)) ∧
        completes (.vmul q f) s (P 4 (vecMap2 et (laneMul et fn) a b))) ∧
      (4 ≤ et → et < 7 → fn ≤ 1 → completes (.vfma q f) s (P 5
        (mkLanes (etWidth et) (fun i => fFma (etFmt et) (f.fn == 1) (lane (etWidth et) d i)
          (lane (etWidth et) a i) (lane (etWidth et) b i))))) ∧
      (((et < 4 ∧ fn ≤ 1) ∨ (4 ≤ et ∧ et < 7 ∧ fn = 0)) →
        completes (.vmin q f) s (P lat2 (vecMap2 et (laneMinMax false et fn) a b)) ∧
        completes (.vmax q f) s (P lat2 (vecMap2 et (laneMinMax true et fn) a b))) ∧
      (et = 0 → fn = 0 →
        completes (.vand q f) s (P 2 (a &&& b)) ∧ completes (.vor q f) s (P 2 (a ||| b)) ∧
        completes (.vxor q f) s (P 2 (a ^^^ b)) ∧ completes (.vandn q f) s (P 2 (a &&& ~~~b)) ∧
        completes (.vbsl q f) s (P 2 ((d &&& a) ||| (~~~d &&& b)))) ∧
      (et < 4 → fn = 0 → completes (.vshl q f) s (P 2 (vecMap2 et (laneShl (etWidth et)) a b))) ∧
      (et < 4 → fn ≤ 1 → completes (.vshr q f) s (P 2 (vecMap2 et (laneShr (etWidth et) (f.fn == 1)) a b)) ∧
        completes (.vperm q f) s (P 3 (vecPerm et fn a b))) ∧
      ((et < 4 ∨ (et < 7 ∧ fn ≤ 2)) → completes (.vcmp q f) s (P lat2 (vecMap2 et (laneCmp et fn) a b))) ∧
      (et < 7 → f.vb.toNat < 7 → fn ≤ 1 → (fn = 0 ∨ etWidth f.vb.toNat ≠ etWidth et) →
        completes (.vcvt q f) s (P 4 (vecCvt f.vb.toNat et fn d a))) ∧
      (et < 7 → fn ≤ 2 → f.vb = 0 → completes (.vred q f) s (P (if et < 4 then 6 else 8) (vecRed et fn a))) ∧
      (et = 0 → fn = 0 → f.vb = 0 → completes (.vmov q f) s (P 1 a))) ∧
  (∀ (s : State) (q : Syl) (f : VscF), q.stop = true → atBundle s q.core 1 = true →
      let et := f.et.toNat
      let fn := f.fn.toNat
      let w := etWidth et
      let a := rdV s q.core f.va.toNat
      let k := (rdX s q.core f.rb.toNat).toNat
      let P (lat : Nat) (r : V512) (t : State) : Prop := OneWrite s t q.core lat 1 (.v f.vd.toNat r)
      let each (g : Nat → Nat → Nat) : V512 := mkLanes w (fun i => g (lane w a i) (k % 2 ^ w))
      (et < 7 → f.fn = 0 → f.va = 0 → completes (.vbcast q f) s (P 2 (mkLanes w (fun _ => k % 2 ^ w)))) ∧
      (et < 7 → completes (.vsld q f) s (P 3 (vecSld et fn a k))) ∧
      (et < 7 → (et < 4 ∨ fn = 1) → f.vd = 0 → completes (.vget q f) s (fun t => OneWrite s t q.core 3 1
        (.x f.rb.toNat (if fn = 0 then BitVec.ofInt 64 (laneInt w (lane w a 0)) else BitVec.ofNat 64 (lane w a 0))))) ∧
      (et < 4 → completes (.vadds q f) s (P 2 (each (laneAddSub false et fn))) ∧
        completes (.vmuls q f) s (P 4 (each (laneMul et fn))) ∧
        (f.fn = 0 → completes (.vshls q f) s (P 2 (each (laneShl w)))) ∧
        completes (.vshrs q f) s (P 2 (each (laneShr w (f.fn == 1))))))

/-- R205, Table 7.11: a register built lane by lane reads back lane by lane, at every element type. R245: every
NaN result is the default quiet NaN of its format, minimum and maximum return it if either operand is one
and order −0 below +0, and comparisons with a NaN are false while −0 and +0 compare equal. -/
def Obligations.LanesAndNansAreAsStated : Prop :=
  (∀ (et : Nat) (g : Nat → Nat) (i : Nat), et < 7 → i < 512 / etWidth et →
      lane (etWidth et) (mkLanes (etWidth et) g) i = g i % 2 ^ etWidth et) ∧
  ((∀ a b d : Nat, ∀ sub : Bool,
      ((fDecode fF32 a = .nan ∨ fDecode fF32 b = .nan) →
        fAdd fF32 a b = 0x7FC00000 ∧ fSub fF32 a b = 0x7FC00000 ∧ fMul fF32 a b = 0x7FC00000 ∧
        fFma fF32 sub d a b = 0x7FC00000 ∧ fMin fF32 a b = 0x7FC00000 ∧ fMax fF32 a b = 0x7FC00000 ∧
        fEq fF32 a b = false ∧ fLt fF32 a b = false ∧ fLe fF32 a b = false) ∧
      ((fDecode fF64 a = .nan ∨ fDecode fF64 b = .nan) →
        fAdd fF64 a b = 0x7FF8000000000000 ∧ fSub fF64 a b = 0x7FF8000000000000 ∧
        fMul fF64 a b = 0x7FF8000000000000 ∧ fFma fF64 sub d a b = 0x7FF8000000000000 ∧
        fMin fF64 a b = 0x7FF8000000000000 ∧ fMax fF64 a b = 0x7FF8000000000000 ∧
        fEq fF64 a b = false ∧ fLt fF64 a b = false ∧ fLe fF64 a b = false) ∧
      ((fDecode fBf16 a = .nan ∨ fDecode fBf16 b = .nan) →
        fAdd fBf16 a b = 0x7FC0 ∧ fSub fBf16 a b = 0x7FC0 ∧ fMul fBf16 a b = 0x7FC0 ∧
        fFma fBf16 sub d a b = 0x7FC0 ∧ fMin fBf16 a b = 0x7FC0 ∧ fMax fBf16 a b = 0x7FC0 ∧
        fEq fBf16 a b = false ∧ fLt fBf16 a b = false ∧ fLe fBf16 a b = false)) ∧
    fMin fF32 0 0x80000000 = 0x80000000 ∧ fMin fF32 0x80000000 0 = 0x80000000 ∧
    fMax fF32 0 0x80000000 = 0 ∧ fMax fF32 0x80000000 0 = 0 ∧
    fEq fF32 0 0x80000000 = true ∧ fLt fF32 0x80000000 0 = false)

/-- Table 8.4, R248: NOP does nothing; a branch reads its condition as it issues, and the two bundles after it
still issue before its target does. R226, R227, R250 to R252: CALL and CALLR store the frame, set sp and lk
and go to their target; RET restores rc, sp and every saved register from the frame and goes to the return
address, each 3 + ceil(FSIZE / 128) cycles on. A control core's frame lies in the fabric's map (R218). -/
def Obligations.BranchesCallsAndReturns : Prop :=
  (∀ (s : State) (q : Syl) (o : BitVec 20) (f : BitF) (r : TriF) (e : BitVec 31), q.stop = true →
      let c := q.core
      let pc := (getCore s c).pc
      let rel (off : W64) : Nat := (pc + 4 * off).toNat % 2 ^ 32
      let P (words : Nat) (target : Option Nat) (t : State) : Prop := Branched s t c words target
      let on (v : Bool) (n : Nat) : Option Nat := if rdBit s c f.bn.toNat = v then some n else none
      (atBundle s c 1 = true →
        completes (.nop q 0) s (fun t => Quiet s t c 1) ∧
        completes (.br q o) s (P 1 (some (rel (o.signExtend 64)))) ∧
        (r.rd = 0 → r.rb = 0 → r.fn = 0 →
          completes (.brr q r) s (P 1 (some ((rdX s c r.ra.toNat).toNat % 2 ^ 32)))) ∧
        completes (.bt q f) s (P 1 (on true (rel (f.off8.signExtend 64)))) ∧
        completes (.bf q f) s (P 1 (on false (rel (f.off8.signExtend 64))))) ∧
      (atBundle s c 2 = true → f.off8 = 0 →
        completes (.btL q f e) s (P 2 (on true (rel (e.signExtend 64)))) ∧
        completes (.bfL q f e) s (P 2 (on false (rel (e.signExtend 64)))))) ∧
  (∀ (s : State) (q : Syl) (o : BitVec 20) (r : TriF) (e : BitVec 31), q.stop = true →
      let c := q.core
      let pc := (getCore s c).pc
      let im := e.toNat % 2 ^ 16
      let vm := e.toNat / 2 ^ 16 % 2 ^ 8
      let n := frameSize im vm
      let lat := 3 + ceilDiv n 128
      let sp := BitVec.ofNat 64 ((rdX s c 63).toNat / 64 * 64) - BitVec.ofNat 64 n
      let ws := [(lat, Wr.x 63 sp), (lat, Wr.x 62 (nextPc s c 2))] ++
        (storeChunks s c sp.toNat (frameBytes s c (nextPc s c 2) im vm)).map (fun w => (lat, w))
      (atBundle s c 2 = true → e.toNat < 2 ^ 24 → reachable c sp n = true →
        completes (.call q o e) s (fun t =>
          LandedAt s t c (pcTo pc ((pc + 4 * o.signExtend 64).toNat % 2 ^ 32)) lat ws) ∧
        (r.rd = 0 → r.rb = 0 → r.fn = 0 → completes (.callr q r e) s (fun t =>
          LandedAt s t c (pcTo pc ((rdX s c r.ra.toNat).toNat % 2 ^ 32)) lat ws))) ∧
      (atBundle s c 1 = true → reachable c (rdX s c 63) (retSize s c) = true →
        let back := 3 + ceilDiv (retSize s c) 128
        completes (.ret q 0) s (fun t => LandedAt s t c (pcTo pc (frameNat s c 0 8)) back
          ((retWrites s c).map (fun w => (back, w))))))

/-- R253: REPI and REPC make the next bundle repeat, with rc and the running bases as they stand; with count 0
the next bundle does not issue, and the one after it issues two cycles on. R257, R258: BLOCK opens its
block; WAIT, YIELD and EXIT end theirs, with an event that waits behind the X queue; a WAIT carries its
requirements and both name the next block. -/
def Obligations.RepeatsAndBlocks : Prop :=
  (∀ (s : State) (q : Syl) (o : BitVec 20), q.stop = true → atBundle s q.core 1 = true →
      let c := q.core
      let rc := (curBank (getCore s c)).rc
      let P (n : Nat) (t : State) : Prop := Quiet s t c 1 ∧
        (getCore t c).rep = some ⟨n, 0, rc, none, (curBank (getCore s c)).x⟩
      let Z (t : State) : Prop := ∀ len, bundleLen s c (nextPc s c 1) = some len →
        (getCore t c).pc = pcTo (nextPc s c 1) ((nextPc s c 1).toNat + 4 * len) ∧
        (getCore t c).cyc = (getCore s c).cyc + 2 ∧ (getCore t c).rep = none
      (0 < o.toNat → o.toNat < 65536 → completes (.repi q o) s (P o.toNat)) ∧
      (rc ≠ 0 → completes (.repc q 0) s (P rc.toNat)) ∧
      (o = 0 → completes (.repi q o) s Z) ∧ (rc = 0 → completes (.repc q 0) s Z)) ∧
  (∀ (s : State) (q : Syl) (f : XopF), q.stop = true →
      let c := q.core
      let n := f.sub.toNat
      let next := rdX s c f.rb.toNat
      let ws := waitList (recordAt s c f.ra.toNat (8 * n)) n
      (atBlockStart s c = true → f.ra = 0 → f.rb = 0 → n ≤ 4 → ((getCore s c).newThread = false ∨ n = 0) →
        completes (.block q f) s (fun t => Quiet s t c 1 ∧ (getCore t c).first = false)) ∧
      (atBundle s c 1 = true →
        (1 ≤ n → n ≤ 4 → waitOk s c ws next = true → reachable c (rdX s c f.ra.toNat) (8 * n) = true →
          completes (.wait q f) s (fun t => BlockEnded s t c (.wait (ws.map reqOf) next))) ∧
        (f.ra = 0 → f.sub = 0 → (∀ k, blockNreq s c next = some k → k = 0) →
          completes (.yield q f) s (fun t => BlockEnded s t c (.yield next))) ∧
        (f.ra = 0 → f.rb = 0 → f.sub = 0 →
          completes (.exit q f) s (fun t => BlockEnded s t c .exit))))

/-- R255, R256, R259, R272: the queued X syllables join their core's X queue with what they read as they issue;
RDFEAT gives its feature register two cycles on. R217, R261: SADV hands back or commits the half it names,
whose READY bit falls; SCLOSE closes its window: nothing more can be committed, and it drains. -/
def Obligations.QueuedSyllablesAndStreams : Prop :=
  (∀ (s : State) (q : Syl) (f : XopF), q.stop = true → atBundle s q.core 1 = true →
      let c := q.core
      let n := (rdX s c f.rb.toNat).toNat
      let rec_ (len : Nat) := recordAt s c f.ra.toNat len
      let inMap (len : Nat) : Prop := reachable c (rdX s c f.ra.toNat) len = true
      let okAt (len off : Nat) : Prop := inMap len ∧ resultOk s (coreThread s c) (recNat (rec_ len) off 8) = true
      let P (r : XReq) (t : State) : Prop := Queued s t c r
      ((getCore s c).xq.length < 64 →
        (f.sub = 0 → 0 < n → n ≤ 65535 →
          completes (.post q f) s (P (.post ((rdX s c f.ra.toNat).toNat % 2 ^ 24) n))) ∧
        (f.rb = 0 → f.sub = 0 →
          (okAt 48 40 → completes (.spawn q f) s (P (.spawn (rec_ 48)))) ∧
          (inMap 32 → completes (.dma q f) s (P (.dma (rec_ 32)))) ∧
          (isLighterCore c = true → okAt 32 24 → completes (.sopen q f) s (P (.sopen (rec_ 32)))) ∧
          (okAt 80 72 → completes (.scan q f) s (P (.scan (rec_ 80)))) ∧
          (okAt 24 16 → completes (.timerArm q f) s (P (.timerArm (rec_ 24))))) ∧
        (f.ra = 0 → f.sub = 1 → completes (.timerCancel q f) s (P (.timerCancel (n % 2 ^ 32)))) ∧
        (f.ra = 0 → f.rb = 0 → f.sub = 0 → completes (.pclr q f) s (P .pclr))) ∧
      (f.rb = 0 → f.sub.toNat < 8 → completes (.rdfeat q f) s
        (fun t => OneWrite s t c 2 1 (.x f.ra.toNat (feature s c f.sub.toNat))))) ∧
  (∀ (s : State) (q : Syl) (f : XopF), q.stop = true → atBundle s q.core 1 = true →
      isLighterCore q.core = true → f.ra = 0 → f.rb = 0 →
      let c := q.core
      let w := f.sub.toNat % 16
      let m := getStream s c w
      (f.sub.toNat < 32 → m.isOpen = true →
        (f.sub.toNat < 16 → m.ready0 = true → completes (.sadv q f) s (fun t => Quiet s t c 1 ∧
          getStream t c w = (if m.outbound then { m with ready0 := false, committed := m.committed ++ [false] }
            else { m with ready0 := false, taken := m.taken + 4096 }))) ∧
        (16 ≤ f.sub.toNat → m.ready1 = true → completes (.sadv q f) s (fun t => Quiet s t c 1 ∧
          getStream t c w = (if m.outbound then { m with ready1 := false, committed := m.committed ++ [true] }
            else { m with ready1 := false, taken := m.taken + 4096 })))) ∧
      (f.sub.toNat < 16 → m.isOpen = true → m.reported = false → completes (.sclose q f) s (fun t =>
        Quiet s t c 1 ∧
        getStream t c w = { m with isOpen := false, draining := true, ready0 := false, ready1 := false })))

/-- R178: a tail doorbell moves its queue's tail and posts one token to the channel of the queue; a head
doorbell frees the entries the host consumed; a doorbell of no queue, or a value out of range, changes
neither and raises the error event (log entry 5). A held interrupt is sent when its time is over. R53, R54,
R57: an I/O command is fetched into a free docket entry, Admitted, at the slot its queue's head pointed at;
it stalls behind every earlier command that holds a conflicting lock entry, and PS4 ends. R55, R57: fetching
resumes, with a new round of the functions' fetch weights, once 1,024 entries are free; a stalled entry runs
on once no earlier command holds a conflicting lock entry. -/
def Obligations.CommandsAreFetchedFromQueues : Prop :=
  (∀ (s : State) (fn qid v : Nat),
      let q := getSq s fn qid
      let c := getCq s fn qid
      ((getFn s fn).rdy = true →
        (q.live = true → v < q.size → exec (.sqTailDoorbell fn qid v) s = .next (kickIdle (postToken
          (modSq s fn qid (fun q => { q with tail := v })) 7 fwSpace (doorbellChannel q fn qid) 1 false))) ∧
        (q.live = false → exec (.sqTailDoorbell fn qid v) s = .next (postEvent s fn ⟨0, 0, 1⟩)) ∧
        (q.live = true → q.size ≤ v → exec (.sqTailDoorbell fn qid v) s = .next (postEvent s fn ⟨0, 1, 1⟩)) ∧
        (c.live = true → v < c.size → (v + c.size - c.head) % c.size ≤ c.used → c.waiting = [] →
          exec (.cqHeadDoorbell fn qid v) s = .next (modCq s fn qid (fun c =>
            { c with head := v, used := c.used - (v + c.size - c.head) % c.size }))) ∧
        (c.live = false → exec (.cqHeadDoorbell fn qid v) s = .next (postEvent s fn ⟨0, 0, 1⟩))) ∧
      (0 < tabGet 0 (getFn s fn).coal v → completes (.aggregationTimeExpiry fn v) s (fun t =>
        t.out = .msi fn v :: s.out ∧ tabGet 0 (getFn t fn).coal v = 0 ∧
        { t with out := s.out, host := { t.host with fns := s.host.fns } } = s))) ∧
  (∀ (s : State) (fn sqid d : Nat) (q : Sqe), fetchOpen s fn sqid = true → d < 524288 →
      dkUsed s d = false → locksUsed s + (locksOf s q).length ≤ 16384 →
      completes (.commandFetch fn sqid d q) s (fun t =>
        let e := getDk t d
        e.word = .admitted ∧ e.fn = fn ∧ e.sqid = sqid ∧ e.sqe = q ∧ e.slot = (getSq s fn sqid).head ∧
        e.locks = locksOf s q ∧ e.seq = s.host.seq ∧ t.host.seq = s.host.seq + 1 ∧
        e.healthy = s.power.healthy ∧ e.stalled = lockBlocked s e ∧
        (getSq t fn sqid).head = ((getSq s fn sqid).head + 1) % (getSq s fn sqid).size ∧
        t.host.ps = (if s.host.ps = 4 then s.host.psLastOp else s.host.ps) ∧
        (∀ c, c ≠ d → getDk t c = getDk s c) ∧
        (docketUsed s + 1 < 262144 → t.host.globalStop = s.host.globalStop) ∧
        (262144 ≤ docketUsed s + 1 → t.host.globalStop = true) ∧
        { t with host := s.host, dict := s.dict } = s)) ∧
  (∀ (s : State) (d : Nat),
      (s.host.globalStop = true → docketUsed s + 1024 ≤ 262144 →
        exec .globalFetchResume s = .next { s with host := { s.host with globalStop := false, round := some [] } }) ∧
      (dkUsed s d = true → (getDk s d).stalled = true → lockBlocked s (getDk s d) = false →
        (getDk s d).mirrorOf = none → (getDk s d).remote = none →
        completes (.lockStallRelease d) s (fun t => getDk t d = { getDk s d with stalled := false } ∧
          (∀ c, c ≠ d → getDk t c = getDk s c) ∧
          { t with host := { t.host with dockets := s.host.dockets } } = s)) ∧
      (dkUsed s d = true → (getDk s d).stalled = true → lockBlocked s (getDk s d) = true →
        exec (.lockStallRelease d) s = .next s))

/-- R519: a completion entry goes to a completion queue with room and an interrupt follows where the queue
enables it; a full queue makes it wait; an admin command that fails is counted and entered in the error log
of its controller. -/
def Obligations.CompletionsReachTheirQueue : Prop :=
  ∀ (s : State) (cqid : Nat) (c : Cpl) (a : Adm) (st : Status) (dw0 : Nat) (p : Payload),
    let q := getCq s c.fn cqid
    (q.live = true → s.power.dumping = false →
      (q.used + 1 < q.size → q.ien = false → (postCpl s cqid c).out = .cpl cqid c :: s.out ∧
        getCq (postCpl s cqid c) c.fn cqid = { q with used := q.used + 1 }) ∧
      (q.used + 1 < q.size → q.ien = true → q.vector = 0 →
        (postCpl s cqid c).out = .msi c.fn 0 :: .cpl cqid c :: s.out) ∧
      (q.size ≤ q.used + 1 → (postCpl s cqid c).out = s.out ∧
        getCq (postCpl s cqid c) c.fn cqid = { q with waiting := q.waiting ++ [c] })) ∧
    (q.live = false ∨ s.power.dumping = true → postCpl s cqid c = s) ∧
    (st ≠ .success → (getFn (adminDone s a st dw0 p) a.fn).errCount = (getFn s a.fn).errCount + 1) ∧
    (adminDone s a .success dw0 p = postCpl s 0 ⟨a.fn, 0, a.cid, .success, false, dw0, 0, p⟩)

/-- R41, R43: I/O queues are created and deleted, with the checks of their identifier, size, placement,
completion queue and vector (log entry 5 names the statuses). -/
def Obligations.QueuesAreCreatedAndDeleted : Prop :=
  ∀ (s : State) (a : Adm) (qid size x : Nat) (ien : Bool), adminOpen s a.fn = true →
    s.power.recovery = false →
    let f := getFn s a.fn
    let sq := getSq s a.fn qid
    let cq := getCq s a.fn qid
    let idOk (sub : Bool) : Prop := 1 ≤ qid ∧ qid ≤ queueLimit f a.fn sub
    let sizeOk : Prop := 2 ≤ size ∧ size ≤ 65536
    let fails (i : Instr) (st : Status) : Prop := exec i s = .next (adminFail s a st)
    (idOk true → sq.live = false → sizeOk → x ≠ 0 → (getCq s a.fn x).live = true →
      exec (.createIoSubmissionQueue a qid size x true) s = .next (adminOk (modSq s a.fn qid
        (fun _ => { Sq.empty with live := true, size := size, cqid := x, pool := freePoolIndex s })) a)) ∧
    (idOk false → cq.live = false → sizeOk → x ≤ f.vi → x < msixEntries a.fn →
      exec (.createIoCompletionQueue a qid size x true ien) s = .next (adminOk (modCq s a.fn qid
        (fun _ => { Cq.empty with live := true, size := size, vector := x, ien := ien })) a)) ∧
    (qid ≠ 0 → sq.live = true → s.host.dockets = [] →
      exec (.deleteIoSubmissionQueue a qid) s = .next (adminOk
        (modSq (modSq s a.fn qid (fun q => { q with ordered := false })) a.fn qid (fun _ => Sq.empty)) a)) ∧
    (qid ≠ 0 → cq.live = true → (∀ e ∈ f.sqs, e.2.live = true → e.1 ≠ 0 → e.2.cqid ≠ qid) →
      exec (.deleteIoCompletionQueue a qid) s = .next (adminOk (modCq s a.fn qid (fun _ => Cq.empty)) a)) ∧
    (qid = 0 ∨ sq.live = true → fails (.createIoSubmissionQueue a qid size x true) .invalidQueueIdentifier) ∧
    (idOk true → sq.live = false → ¬ sizeOk → fails (.createIoSubmissionQueue a qid size x true) .invalidQueueSize) ∧
    (idOk false → cq.live = false → sizeOk → (f.vi < x ∨ msixEntries a.fn ≤ x) →
      fails (.createIoCompletionQueue a qid size x true ien) .invalidInterruptVector) ∧
    (qid = 0 ∨ sq.live = false → fails (.deleteIoSubmissionQueue a qid) .invalidQueueIdentifier)

/-- R431, R69, R112, R40: a controller becomes ready with its admin queues (log entry 32); its reset, a
function-level reset and PERST_N discard what it holds; a shutdown with nothing to wait for is complete;
virtual functions appear with SR-IOV. R69: a controller reset leaves the controller disabled with no queue,
feature, event or outstanding request, with its tenant's threads, timers and engine locks gone, and the
physical function's resources at what was last set (R42). R42 to R45: Virtualization Management assigns the
pool of 16,384 resources to the physical function, from its next reset on, and to offline secondary
controllers, at most 128 each; a controller goes online with both kinds and goes offline with a reset; its
resources return once no command that was discarded is left. -/
def Obligations.ControllersStartAndReset : Prop :=
  (∀ (s : State) (fn p : Nat),
      (canEnable s fn = true → completes (.controllerEnable fn) s (fun t =>
        (getFn t fn).en = true ∧ (getFn t fn).rdy = true ∧ (getSq t fn 0).live = true ∧
        (getCq t fn 0).live = true ∧ (getSq t fn 0).size = 4096 ∧ (getCq t fn 0).size = 4096 ∧
        (∀ g, g ≠ fn → getFn t g = getFn s g) ∧ { t with host := { t.host with fns := s.host.fns } } = s)) ∧
      ((getFn s fn).en = true →
        exec (.controllerReset fn) s = .next (settleAll (resetFn s fn false))) ∧
      ((getFn s fn).present = true → 4 ≤ s.power.bootStep →
        exec (.functionLevelReset fn) s = .next (settleAll (resetFn s fn true))) ∧
      ((getFn s fn).rdy = true → (getFn s fn).shst = 0 → fn ≠ 0 → s.host.dockets = [] →
        (∀ g, g ≠ fn → (getFn s g).shst ≠ 1) → completes (.controllerShutdown fn) s (fun t =>
          (getFn t fn).shst = 2 ∧ (∀ g, g ≠ fn → getFn t g = getFn s g) ∧
          { t with host := { t.host with fns := s.host.fns } } = s)) ∧
      (p < 4 → s.host.perst.contains p = false → completes (.perstNAssert p) s (fun t =>
        t = settleAll (perstAssert s p))) ∧
      (p < 4 → s.host.perst.contains p = true → 4 ≤ s.power.bootStep → s.power.portRef[p]? = some true →
        completes (.perstNDeassert p) s (fun t => t.host.perst.contains p = false ∧
          (p < s.power.linkUp.length → t.power.linkUp[p]? = some true) ∧
          { t with host := s.host, power := { t.power with linkUp := s.power.linkUp } } = s)) ∧
      (p < 4 → s.power.linkUp[p]? = some true → s.power.recovery = false → tabFind s.host.vfEnabled p = none →
        (∀ g, 1 ≤ g → g ≤ 1024 → portOf s g ≠ p) → completes (.sriovVfEnable p) s (fun t =>
          tabFind t.host.vfEnabled p = some [] ∧
          { t with host := { t.host with vfEnabled := s.host.vfEnabled } } = s)) ∧
      (p < 4 → s.power.linkUp[p]? = some true → s.power.recovery = false → tabFind s.host.vfEnabled p = none →
        ∀ g, 1 ≤ g → g ≤ 1024 → completes (.sriovVfEnable p) s (fun t =>
          (getFn t g).present = ((getFn s g).present || portOf s g == p)))) ∧
  (∀ (s : State) (fn : Nat) (flr : Bool),
      let f := getFn (resetController s fn flr) fn
      f.en = false ∧ f.rdy = false ∧ f.shst = 0 ∧ f.sqs = [] ∧ f.cqs = [] ∧ f.features = [] ∧
      f.aers = [] ∧ f.events = [] ∧ f.freezeGen = 0 ∧ f.tsSet = false ∧ f.coal = [] ∧
      f.vq = (if fn = 0 then (getFn s fn).vqNext else (getFn s fn).vq) ∧
      f.vi = (if fn = 0 then (getFn s fn).viNext else (getFn s fn).vi) ∧
      f.errors = (getFn s fn).errors ∧ f.present = (getFn s fn).present ∧
      (∀ g, g ≠ fn → getFn (resetController s fn flr) g = getFn s g)) ∧
  (∀ (s : State) (a : Adm) (c n : Nat) (vi : Bool),
      let fails (i : Instr) (st : Status) : Prop := exec i s = .next (adminFail s a st)
      (adminOpen s a.fn = true → s.power.recovery = false → a.fn = 0 →
        (poolHeld s vi 0 + n ≤ 16384 → exec (.primaryFlexibleAllocation a vi n) s = .next (adminDone
          (modFn s 0 (fun f => if vi then { f with viNext := n } else { f with vqNext := n })) a .success n .none)) ∧
        (16384 < poolHeld s vi 0 + n → fails (.primaryFlexibleAllocation a vi n) .invalidControllerResources) ∧
        (1 ≤ c → c ≤ 1024 →
          (completes (.secondaryOffline a c) s (fun t => t = adminOk (modFn (resetFn s c false) c (fun f =>
            { f with online := false, vqNext := f.vqNext + f.vq, viNext := f.viNext + f.vi, vq := 0, vi := 0 })) a)) ∧
          ((getFn s c).online = false → n ≤ 128 → poolHeld s vi c + n ≤ 16384 →
            exec (.secondaryAssign a c vi n) s = .next (adminDone
              (modFn s c (fun f => if vi then { f with vi := n } else { f with vq := n })) a .success n .none)) ∧
          ((getFn s c).online = false → 128 < n → fails (.secondaryAssign a c vi n) .invalidControllerResources) ∧
          ((getFn s c).online = true → fails (.secondaryAssign a c vi n) .invalidSecondaryState) ∧
          ((getFn s c).vq ≠ 0 → (getFn s c).vi ≠ 0 → exec (.secondaryOnline a c) s =
            .next (adminOk (modFn s c (fun f => { f with online := true })) a)) ∧
          ((getFn s c).vq = 0 ∨ (getFn s c).vi = 0 → fails (.secondaryOnline a c) .invalidControllerResources)) ∧
        (c = 0 ∨ 1024 < c → fails (.secondaryOnline a c) .invalidControllerIdentifier)) ∧
      (1 ≤ c → c ≤ 1024 → discardedLeft s c = false →
        exec (.secondaryResourcesReturn c) s =
          .next (modFn s c (fun f => { f with vqNext := 0, viNext := 0 }))))

/-- The answer to a command with an opcode the function does not execute: an admin command fails at once, an I/O
command passes through a docket entry. R62, R64, R66, R67, Table 2.8: Abort answers 0 in bit 0 of dword 0
only if the command was aborted; an event request takes the oldest waiting event or waits for one, at most
8; Thaw Queue ends a freeze at the head it names. -/
def Obligations.UnknownAbortedAndEventCommands : Prop :=
  (∀ (s : State) (fn sqid cid d : Nat),
      (adminOpen s fn = true →
        exec (.invalidCommandOpcode false fn sqid cid) s = .next (adminFail s ⟨fn, cid⟩ .invalidOpcode)) ∧
      (fetchOpen s fn sqid = true → s.host.dockets = [] → s.host.ps = 0 → s.host.psWait = none →
        (getSq s fn sqid).ordered = false →
        completes (.invalidCommandOpcode true fn sqid cid) s (fun t =>
          (getSq t fn sqid).head = ((getSq s fn sqid).head + 1) % (getSq s fn sqid).size ∧
          getDk t d = Docket.free ∧ (getFn t fn).errCount = (getFn s fn).errCount + 1))) ∧
  (∀ (s : State) (a : Adm) (sqid cid : Nat) (h : BitVec 16) (w : BitVec 16), adminOpen s a.fn = true →
      s.power.recovery = false →
      let f := getFn s a.fn
      let q := getSq s a.fn w.toNat
      let thaw : Instr := .thawQueue a (w.setWidth 32) (h.setWidth 32)
      (s.pair.aborts = [] → s.host.dockets = [] → s.host.psWait = none →
        exec (.abort a sqid cid) s = .next (adminDone s a .success 1 .none)) ∧
      (s.pair.aborts = [] → s.pair.fwd = [] → sqid ≠ 0 → (∀ d e, s.host.dockets = [(d, e)] → e.fn = a.fn →
        e.sqid = sqid → e.sqe.cid = cid → e.remote = none → e.mirrorOf = none → e.posted = false →
        (e.word = .admitted → exec (.abort a sqid cid) s =
          .next (adminDone (dkAbort s d .abortRequested) a .success 0 .none)) ∧
        (e.word = .committed → exec (.abort a sqid cid) s = .next (adminDone s a .success 1 .none)))) ∧
      (∀ e es, f.events = e :: es → exec (.asynchronousEventRequest a) s = .next (adminDone
        (modFn s a.fn (fun f => { f with events := es })) a .success (e.typ + 256 * e.info + 65536 * e.log) .none)) ∧
      (f.events = [] → f.aers.length < 8 → exec (.asynchronousEventRequest a) s =
        .next (modFn s a.fn (fun f => { f with aers := f.aers ++ [a.cid] }))) ∧
      (f.events = [] → 8 ≤ f.aers.length → exec (.asynchronousEventRequest a) s =
        .next (adminFail s a .asyncEventLimitExceeded)) ∧
      (w ≠ 0 → q.live = true → (∀ z, q.freeze = some z → thawHeadOk q z h.toNat = true →
        exec thaw s = .next (adminOk (modSq s a.fn w.toNat
          (fun q => { q with freeze := none, head := h.toNat })) a))) ∧
      (w ≠ 0 → q.live = true → q.freeze = none → exec thaw s = .next (adminFail s a .commandSequenceError)) ∧
      (w = 0 ∨ q.live = false → exec thaw s = .next (adminFail s a .invalidQueueIdentifier)))

/-- R155, R156, R161, R162, R165, R168: what the berth commands do to the pool where nothing waits, and the word
they answer with; what the change lets go on then does (`settleAll`). R163, R164, R170: a berth command that
fails a check changes no berth, is counted by its code and answered with it; RECLAIM of a control thread
takes a berth whatever claims it holds. Where nothing waits, a change lets nothing else go on. -/
def Obligations.BerthsMoveBetweenPoolAndOwners : Prop :=
  (∀ (s : State) (who : Requester) (r : BerthReq) (far : Bool), requesterOk s who = true →
      domainOn s 1 = true → who.port ≤ 10 → s.pool.held = [] →
      let a := brAddr r
      let tag := tagOf who
      let b := getBerth s a
      let t := berthRequest s ⟨who, tag, r⟩
      let good : Prop := berthCheck s who.port tag r = 0 ∧ berthClass a = some far
      let answered (op addr : Nat) : Prop :=
        t.out = .berthResult who.port who.index (berthWord 0 op addr) :: s.out
      let rest (k : Nat) : Prop := (∀ x, x ≠ k → getBerth t x = getBerth s x) ∧
        { t with pool := s.pool, out := s.out } = s
      (brOp r = 0 → brFormed r = true → brFar r = far → (far = true ∨ domainOn s 2 = true) →
        exec (.alloc who r) s = .next (settleAll t) ∧
        (∀ k ks, hotStack s far = k :: ks →
          getBerth t k = ⟨true, tag, [], none⟩ ∧ hotStack t far = ks ∧ answered 0 k ∧ rest k) ∧
        (∀ k, hotStack s far = [] → bitmapFree s far = some k →
          getBerth t k = ⟨true, tag, [], none⟩ ∧ hotStack t far = [] ∧ answered 0 k ∧ rest k) ∧
        (hotStack s far = [] → bitmapFree s far = none → brWait r = true → waitPlace s far who.port = true →
          t = setWaitQ s far (waitQ s far ++ [⟨who, tag, r⟩]))) ∧
      (brOp r = 1 → good → waitQ s far = [] → exec (.free who r) s = .next (settleAll t) ∧
        getBerth t a = Berth.free ∧ answered 1 a ∧ rest a ∧
        hotStack t far = (if (hotStack s far).length < 64 then a :: hotStack s far else hotStack s far)) ∧
      (brOp r = 2 → good → exec (.share who r) s = .next (settleAll t) ∧
        let names := (brOwners r).take (brNsh r + 1)
        getBerth t a = { b with owner := names.getLastD b.owner, claims := b.claims ++ names.dropLast, done := if brDoneV r then some (ownerSpace s tag a names, brDone r) else b.done } ∧
        answered 2 a ∧ rest a) ∧
      (brOp r = 3 → good → (b.claims.erase tag ≠ [] ∨ b.done = none) →
        exec (.berthRelease who r) s = .next (settleAll t) ∧
        getBerth t a = { b with claims := b.claims.erase tag } ∧ answered 3 a ∧ rest a)) ∧
  ((∀ s : State, nothingWaits s = true → settleAll s = s) ∧
    ∀ (s : State) (who : Requester) (r : BerthReq), requesterOk s who = true → domainOn s 1 = true →
      s.pool.held = [] →
      let a := brAddr r
      let tag := tagOf who
      let code := berthCheck s who.port tag r
      let t := berthRequest s ⟨who, tag, r⟩
      let refused (i : Instr) (c op : Nat) : Prop := exec i s = .next (settleAll (emit (bump s 0x7010 (0x10 + c) 1)
        (.berthResult who.port who.index (berthWord c op a))))
      (who.port ≤ 10 → code ≠ 0 →
        (brOp r = 1 → refused (.free who r) code 1) ∧ (brOp r = 2 → refused (.share who r) code 2) ∧
        (brOp r = 3 → refused (.berthRelease who r) code 3) ∧ (brOp r = 4 → refused (.reclaim who r) code 4)) ∧
      (who.port ≤ 10 → brOp r = 4 → code ≠ 0) ∧
      (who.port = 19 → brOp r = 4 → code = 0 → berthBusy s a = false → brNotify r = false → s.pool.reclaims = [] →
        (∀ far, berthClass a = some far → waitQ s far = [] → exec (.reclaim who r) s = .next (settleAll t) ∧
          getBerth t a = Berth.free ∧ memRead t.dram r.w2.toNat 8 = leBytes 8 (4 * 256 + a * 65536) ∧
          (∀ x, x ≠ a → getBerth t x = getBerth s x) ∧
          (∀ m, m < r.w2.toNat ∨ r.w2.toNat + 8 ≤ m → tabGet 0 t.dram m = tabGet 0 s.dram m) ∧
          { t with pool := s.pool, dram := s.dram } = s)))

/-- R179, R182, R184, R185: a token post adds to its channel's count, up to 2^32 - 1, and to no other; a waiting
thread whose one requirement the count then meets takes it and waits no longer. A running thread's post that
is denied is its fault with code 3, one that leaves one idle channel too many its fault with code 4. R186,
R187, R189: what stands in the spill ring or in an affinity list moves on in its order: to a core that takes
it at once, to its cluster's list, or, with a list that is full or a ring that is not empty, to the ring. -/
def Obligations.TokensAndHeldWorkMoveOn : Prop :=
  (∀ (s : State) (port index space ch qty : Nat) (m : Bool), port ≤ 22 → space ≤ 1024 → ch < 2 ^ 24 →
      domainOn s 1 = true → ((port ≠ 7 ∧ port ≠ 8) ∨ space = fwSpace) →
      let k := chanKey space ch
      let c := getChan s k
      let core := portCore port index
      ((port < 11 ∨ 19 < port) → exec (.tokenPost ⟨port, index⟩ space ch qty m) s =
        .next (kickIdle (postToken s port space ch qty m))) ∧
      (11 ≤ port → port ≤ 19 → index < 32 → ∀ t, (getCore s core).phase = .running t →
        (isControl t = true ∨ (getThr s t).space = space) →
        let u := threadPost s core t (getCore s core).pc space ch qty
        exec (.tokenPost ⟨port, index⟩ space ch qty m) s = .next (kickIdle u) ∧
        (postBar s space ch qty = .clear → u = postApply s (threadPort core) space ch qty (getThr s t).poisoned) ∧
        (postBar s space ch qty = .denied → u = raiseFaultAt s t 3 (getCore s core).pc ch) ∧
        (postBar s space ch qty = .limit → u = raiseFaultAt s t 4 (getCore s core).pc ch)) ∧
      (1 ≤ qty → qty ≤ 65535 → chanThread space ch = none → s.hm.ring = [] → manifestUsed s < 32768 →
        idleChans s space < idleLimit space →
        (s.hm.waits = [] → c.count + qty < 2 ^ 32 → getChan (postToken s port space ch qty m) k = ⟨c.count + qty, c.marked || m⟩ ∧
          ∀ j, j ≠ k → getChan (postToken s port space ch qty m) j = getChan s j) ∧
        (s.hm.waits = [] → 2 ^ 32 ≤ c.count + qty →
          (getChan (postToken s port space ch qty m) k).count = 2 ^ 32 - 1) ∧
        (∀ t, s.hm.waits = [t] → (getThr s t).space = space → (getThr s t).reqs = [⟨ch, c.count + qty⟩] →
          c.count + qty < 2 ^ 32 → (postToken s port space ch qty m).hm.waits = [] ∧
          getChan (postToken s port space ch qty m) k = ⟨0, false⟩)) ∧
      (qty = 0 ∨ 65535 < qty → postToken s port space ch qty m =
        logFault (bump s 0x7020 0x0C qty) space 2 0 none 0 ch port)) ∧
  (∀ (s : State) (t c k d : Nat) (r : Req) (rest : List RingEnt),
      let back : State := { s with hm := { s.hm with ring := rest } }
      (s.hm.ring = .ready t :: rest → s.hm.ready.find? (fun r => r.thread == t) = some ⟨t, .ring c⟩ →
        listLen s (clusterPlace c) < 512 → exec .spillReturn s = .next (kickIdle (enterList (unready back t) c t true))) ∧
      (s.hm.ring = .chan k :: rest → manifestUsed s < 32768 → exec .spillReturn s = .next (kickIdle (applyRingPosts back k))) ∧
      (s.hm.ring = .req t r :: rest → manifestUsed s < 32768 → s.hm.waits.contains t = false →
        exec .spillReturn s = .next (kickIdle back)) ∧
      (s.hm.ready.find? (fun r => r.thread == t) = some ⟨t, .affinity c⟩ → exec (.affinityHoldExpiry t) s =
        .next (kickIdle (enterCluster (unready s t) (if isControl t then 8 else clusterOf c) t))) ∧
      (let u := modThr s t (fun th => { th with state := 2 })
       (∀ b, takenBy u d t = some (b, false) → enterCluster s d t = dispatch u b t) ∧
       (takenBy u d t = none → s.hm.ring = [] → listLen u (clusterPlace d) < 512 →
         enterCluster s d t = pushReady u t (clusterPlace d)) ∧
       (takenBy u d t = none → (s.hm.ring ≠ [] ∨ 512 ≤ listLen u (clusterPlace d)) →
         enterCluster s d t = pushRing (pushReady u t (.ring d)) (.ready t))))

/-- R191, R208, R231: a context switch swaps the banks, loads the bank of the thread's next block, and starts it
at the thread's entry; the first block of a thread finds X1, X2 and its stack pointer. R176, R190, R200,
R258, R259: a block's end event takes effect once its X queue is empty: a fault it raised stops the thread
with its code, a tenant reset and an EXIT with code 0, a WAIT or YIELD takes effect; the core then chooses.
A block that overruns stops its thread with code 6; a stopped thread's descriptor is free, or a faulted
control thread restarted, once nothing it started is left. R193: the minimum of a lease lets its core pass
on, and so does its quantum at a block boundary. -/
def Obligations.ThreadsRunAndStop : Prop :=
  (∀ (s : State) (c t : Nat), c < 288 → (getCore s c).phase = .switching t → (getLease s c).next = none →
      let th := getThr s t
      let u := switched s c t
      let first (i : ThreadInit) : Bank := { Bank.empty with x := tabSet 0 (tabSet 0 (tabSet 0 [] 1 i.x1) 2 i.x2) 63 (BitVec.ofNat 64 ((th.winBase + th.winSize) * 4096)) }
      exec (.contextSwitch c) s = .next (settleAll u) ∧
      (th.lastCore = c →
        let y := getCore u c
        y.phase = .running t ∧ y.pc = th.entry ∧ y.cyc = 0 ∧ y.first = true ∧ y.bank = !(getCore s c).bank ∧
        y.pend = [] ∧ y.migrated = false ∧ y.poisoned = (getCore s c).poisoned ∧ y.xq = (getCore s c).xq ∧
        (∀ i, th.init = some i → curBank y = first i ∧
          (th.winSize ≠ 0 → t < 65536 → memRead u.ik.spad (winAddr th 3072) i.data.length = i.data)) ∧
        (th.init = none → th.winSize ≠ 0 → t < 65536 → u.ik.spad = s.ik.spad ∧
          curBank y = recordBank (memRead s.ik.spad (c * 2 ^ 20 + th.winBase * 4096) 3072)) ∧
        (th.init = none → th.winSize = 0 → t < 65536 → curBank y = Bank.empty) ∧
        (th.init = none → 65536 ≤ t → curBank y = tabGet Bank.empty s.ik.ctx t) ∧
        getThr u t = { th with init := none } ∧ (∀ v, v ≠ t → getThr u v = getThr s v) ∧
        (∀ d, d ≠ c → getCore u d = getCore s d))) ∧
  (∀ (s : State) (c t : Nat) (e : EndEv) (f : CoreFault),
      let x := getCore s c
      (x.phase = .ended t → x.endEv = some e → x.xq = [] →
        (x.fault = none → (getThr s t).stopping = false → e ≠ .exit →
          exec (.blockEndEvent c) s = .next (coreFreed (idleCore (applyEnd s c t e) c) c)) ∧
        (x.fault = none → (getThr s t).stopping = false → e = .exit →
          exec (.blockEndEvent c) s = .next (coreFreed (stopThread (idleCore s c) t 0 true 0 0) c)) ∧
        (x.fault = none → (getThr s t).stopping = true →
          exec (.blockEndEvent c) s = .next (coreFreed (stopThread (idleCore s c) t 0 false 0 0) c)) ∧
        (x.fault = some f →
          exec (.blockEndEvent c) s = .next (coreFreed (stopThread (idleCore s c) t f.code true f.pc f.channel) c))) ∧
      (x.phase = .ended t → x.endEv = some e → x.xq ≠ [] → exec (.blockEndEvent c) s = .next s) ∧
      (x.phase = .running t → exec (.blockOverrun c) s = .next (settleAll (faultNow s t 6 x.lastPc))) ∧
      ((getThr s t).state = 5 → threadBusy s t = false → s.pool.reclaims = [] →
        (∀ e ∈ s.ik.cores, e.2.xq = []) →
          let u : State := { s with hm := { s.hm with dying := s.hm.dying.filter (· != t) } }
          ((getThr s t).restart = false → exec (.descriptorFree t) s = .next (settleAll (setThr
            (orphanTimers { u with ik := { u.ik with ctx := tabDrop u.ik.ctx t } } t) t Thread.free))) ∧
          ((getThr s t).restart = true → exec (.descriptorFree t) s = .next (settleAll (restartThread u t))))) ∧
  (∀ (s : State) (c sp : Nat), c < 256 → (getLease s c).space = some sp →
      exec (.leaseMinimumExpiry c) s =
        .next (kickIdle (chooseFor (setLease s c { getLease s c with minOver := true }) c)) ∧
      exec (.leaseQuantumExpiry c) s =
        .next (coreFreed (setLease s c { getLease s c with quantum := true, minOver := true }) c))

/-- R201, R256, R259, R272, R195: the head of an X queue leaves it and is resolved; a POST that is denied stops
its thread with code 3 at the block's end and one idle channel too many with code 4; a TIMER is armed with
its fields, or refused. R195, R196, R199: a timer expires no earlier than its delay, is armed no longer and
posts its tokens; a poison token sets the flag of a thread and frees a waiting one. R215, R217, R260, R261:
a transfer's end moves its bytes and posts its token; half a stream window is filled from, or drained to,
the far side; the end of a stream is reported. A transfer on a berth its thread has given up is not carried
out, and is a fault of the thread (R169). -/
def Obligations.RequestsTimersAndTransfers : Prop :=
  (∀ (s : State) (c t ch qty : Nat) (pc : W64) (r : List Byte) (e : XEnt) (rest : List XEnt),
      let space := (getThr s t).space
      let delay := recNat r 0 4
      let cw := recNat r 4 4
      let word (n : Nat) : W64 := BitVec.ofNat 64 n
      ((getCore s c).xq = e :: rest → exec (.xQueueDepart c) s =
        .next (settleAll (xResolve (modCore s c (fun x => { x with xq := rest })) c e))) ∧
      (e = ⟨pc, t, .post ch qty⟩ →
        (postBar s space ch qty = .denied → xResolve s c e = raiseFaultAt s t 3 pc ch) ∧
        (postBar s space ch qty = .limit → xResolve s c e = raiseFaultAt s t 4 pc ch)) ∧
      (e.thread = t → (getThr s t).state = 5 → (∀ a n, e.req ≠ .post a n) → xResolve s c e = s) ∧
      (delay ≠ 0 → cw < 2 ^ 24 → recNat r 8 2 ≠ 0 → recNat r 10 6 = 0 →
        (armedIn s space < (if space = fwSpace then 4096 else 64) →
          getTimer (doTimerArm s t pc r) (freeHandle s) = some ⟨space, cw, recNat r 8 2, t, delay, s.nowMs⟩) ∧
        ((if space = fwSpace then 4096 else 64) ≤ armedIn s space →
          doTimerArm s t pc r = raiseFaultAt s t 7 pc 0)) ∧
      (delay = 0 → doTimerArm s t pc r = deliver s t (recNat r 16 8) (word 2))) ∧
  (∀ (s : State) (h t : Nat) (tm : Timer),
      (getTimer s h = some tm → getTimer (dropTimer s h tm) h = none ∧
        (timerDue s tm = true → exec (.timerExpiry h) s =
          .next (kickIdle (postToken (dropTimer s h tm) 20 tm.space tm.channel tm.qty false))) ∧
        (timerDue s tm = false → exec (.timerExpiry h) s = .next s)) ∧
      ((getThr s t).state = 2 ∨ (getThr s t).state = 3 → exec (.poisonToken t) s =
        .next (kickIdle (modThr s t (fun th => { th with poisoned := true })))) ∧
      ((getThr s t).state = 1 → exec (.poisonToken t) s = .next (kickIdle (makeReady
        (withdraw (modThr s t (fun th => { th with poisoned := true })) t 10) t))) ∧
      ((getThr s t).state = 0 ∨ (getThr s t).state = 5 → exec (.poisonToken t) s = .next (kickIdle s))) ∧
  (∀ (s : State) (i c w : Nat),
      let d := getDma s i
      let m := getStream s c w
      let sp := (getThr s d.thread).space
      (d.live = true → strayTransfer s d.thread d.slm d.far d.length = false → exec (.dmaComplete i) s = .next (settleAll
        (let u := dmaMove s d
         let u := { u with hm := { u.hm with dmas := tabDrop u.hm.dmas i } }
         if d.notify then postToken u (threadPort d.core) sp d.channel 1 d.poisoned else u))) ∧
      (d.live = true → strayTransfer s d.thread d.slm d.far d.length = true → exec (.dmaComplete i) s = .next (settleAll
        (faultStray { s with hm := { s.hm with dmas := tabDrop s.hm.dmas i } } d.thread))) ∧
      (d.discard = false → d.slm = false → d.thread < 65536 → (getThr s d.thread).lastCore ≠ 0xFFFF →
        let near := winAddr (getThr s d.thread) d.near
        (d.toFar = true → memRead (dmaMove s d).dram d.far d.length = memRead s.ik.spad near d.length ∧
          (∀ x, x < d.far ∨ d.far + d.length ≤ x → tabGet 0 (dmaMove s d).dram x = tabGet 0 s.dram x) ∧
          { dmaMove s d with dram := s.dram } = s) ∧
        (d.toFar = false → memRead (dmaMove s d).ik.spad near d.length = memRead s.dram d.far d.length ∧
          (∀ x, x < near ∨ near + d.length ≤ x → tabGet 0 (dmaMove s d).ik.spad x = tabGet 0 s.ik.spad x) ∧
          { dmaMove s d with ik := s.ik } = s)) ∧
      (m.outbound = false → m.isOpen = true → m.moved < m.length → m.slm = false →
        strayTransfer s m.thread m.slm m.far m.length = false → (if m.half then m.ready1 else m.ready0) = false → completes (.streamHalfReady c w) s (fun t =>
          memRead t.ik.spad (halfAddr c w m.half) 4096 = memRead s.dram (m.far + m.moved) 4096 ∧
          getStream t c w = { m with moved := m.moved + 4096, half := !m.half, ready0 := m.ready0 || !m.half, ready1 := m.ready1 || m.half } ∧
          { t with ik := s.ik } = s)) ∧
      (m.isOpen = true → m.reported = false → m.length ≤ m.moved → exec (.streamEnd c w) s =
        .next (streamReport (setStream s c w { m with reported := true }) c m.thread m 0)) ∧
      (m.isOpen = false → m.draining = true → m.committed = [] →
        let early := decide (m.moved < m.length) || (!m.outbound && decide (m.taken < m.length))
        exec (.streamEnd c w) s = .next (settleAll (streamReport
          (setStream s c w { Stream.closed with sfault := early }) c m.thread m (if early then 2 else 0)))))

/-- R48: which Set Features are refused, and how; Save is taken for 0xC1 and 0xC2 only, and a feature of the
physical function's scope cannot be changed from a virtual one. R48, R63, R123, R315, R520: a feature that
is set keeps its value, and Get Features then returns it; what the number of queues grants, and the offset a
Timestamp fixes. -/
def Obligations.FeaturesKeepWhatIsSet : Prop :=
  (∀ (s : State) (a : Adm) (fid nsid n m : Nat) (v : W32) (d : List Byte), adminOpen s a.fn = true →
      s.power.recovery = false →
      let fails (i : Instr) (st : Status) : Prop := exec i s = .next (adminFail s a st)
      (plainFeature fid = false → ownFeature fid = false → ∀ save,
        fails (.setFeatures a fid nsid save v d) .invalidField ∧ fails (.getFeatures a fid nsid v) .invalidField) ∧
      (plainFeature fid = true → fails (.setFeatures a fid nsid true v d) .featureNotSaveable) ∧
      (a.fn ≠ 0 → fails (.setFeatures a 0x04 nsid false v d) .featureNotChangeable) ∧
      fails (.setPowerManagement a true n) .featureNotSaveable ∧
      fails (.setNumberOfQueues a true n m) .featureNotSaveable ∧
      fails (.setTimestamp a true n) .featureNotSaveable ∧
      fails (.setOrderedQueueMode a true v) .featureNotSaveable ∧
      (a.fn ≠ 0 → fails (.setPowerManagement a false n) .featureNotChangeable ∧
        ∀ save, fails (.setLandingPolicy a save v) .featureNotChangeable)) ∧
  (∀ (s : State) (a : Adm) (nsid n m : Nat) (v : W32) (d : List Byte), adminOpen s a.fn = true →
      s.power.recovery = false →
      let f := getFn s a.fn
      let all := if a.fn = 0 then min f.vq 1024 else f.vq
      let g := min n (all - 1) + min m (all - 1) * 65536
      let q := bitsOf v.toNat 0 15
      let sets (i : Instr) (k x : Nat) : Prop :=
        exec i s = .next (adminOk (modFn s a.fn (fun f => featSet f k x)) a) ∧
        featGet (getFn (modFn s a.fn (fun f => featSet f k x)) a.fn) k = x
      sets (.setFeatures a 0x01 nsid false v d) 0x01 v.toNat ∧
      sets (.setFeatures a 0x0B nsid false v d) 0x0B v.toNat ∧
      sets (.setFeatures a 0x08 nsid false v d) 0x08 (v.toNat % 65536) ∧
      exec (.getFeatures a 0x01 nsid v) s = .next (adminDone s a .success (featGet f 0x01) .none) ∧
      exec (.getFeatures a 0x02 nsid v) s = .next (adminDone s a .success s.host.ps .none) ∧
      (n < 65535 → m < 65535 → (∀ e ∈ f.sqs, e.1 = 0) → (∀ e ∈ f.cqs, e.1 = 0) →
        exec (.setNumberOfQueues a false n m) s = .next (adminDone
          (modFn s a.fn (fun f => featSet { f with nqSet := true } 0x07 g)) a .success g .none)) ∧
      (n < 65535 → m < 65535 → (∃ e ∈ f.sqs, e.1 ≠ 0) →
        exec (.setNumberOfQueues a false n m) s = .next (adminFail s a .commandSequenceError)) ∧
      (∃ t, exec (.setTimestamp a false n) s = .next (adminOk t a) ∧ timestamp t a.fn = n % 2 ^ 48 ∧
        (getFn t a.fn).tsSet = true ∧ { t with host := { t.host with fns := s.host.fns } } = s) ∧
      (ioSq s a.fn q = true → exec (.setOrderedQueueMode a false v) s =
        .next (adminOk (modSq s a.fn q (fun q => { q with ordered := v.getLsbD 16 })) a)) ∧
      (ioSq s a.fn q = false → exec (.setOrderedQueueMode a false v) s =
        .next (adminFail s a .invalidField)) ∧
      (a.fn = 0 → landingOk s v.toNat = true → (∃ t, exec (.setLandingPolicy a false v) s = .next (adminOk t a) ∧
        landNow t = v.toNat ∧ t.media.cur = s.media.cur ∧ s.media.landHeld ≤ t.media.landHeld)) ∧
      (a.fn = 0 → landingOk s v.toNat = false → ∀ save,
        exec (.setLandingPolicy a save v) s = .next (adminFail s a .invalidField)) ∧
      (v.toNat ≤ 1 → nsid ≠ 0 → nsid ≠ 0xFFFFFFFF → (getNs s nsid).live = true → (getNs s nsid).zoned = false →
        unitSlots (getNs s nsid).lbaf = 4 → (getNs s nsid).mirror = false → a.fn = 0 →
        exec (.setWritePathCompression a false nsid v) s = .next (adminOk (modNs s nsid (fun n =>
          { n with compress := v.toNat == 1, compressFn := 1 })) a)))

/-- R73 to R75, R414: a power state is asked for, waits, and is reached once the domain limits and the cap of
the state are met; then its Set Features completes and the next begins. R486, R489: a self-test starts, is
refused while one runs, and ends with the result of what failed or of its abort. R487 to R490, R495: a self-
test ends with the first failing segment, and the dredge cycle starts, overruns once, and ends when its
tasks have covered everything. -/
def Obligations.PowerStatesTestsAndCyclesEnd : Prop :=
  (∀ (s : State) (a : Adm) (ps : Nat) (w : PsWait),
      (adminOpen s a.fn = true → s.power.recovery = false → a.fn = 0 → ps ≤ 4 →
        let mine : PsWait := ⟨a, ps, s.host.ps, false⟩
        (s.host.psWait = none → exec (.setPowerManagement a false ps) s =
          .next { s with host := { s.host with psWait := some mine } }) ∧
        (s.host.psWait = some w → exec (.setPowerManagement a false ps) s =
          .next { s with host := { s.host with psQueue := s.host.psQueue ++ [mine] } })) ∧
      (s.host.psWait = some w → s.host.psQueue = [] → s.power.dumping = false →
        (w.target < 4 → limitsMet s w.target = true → underCap s w.target = true → exec .powerStateReached s = .next (adminOk
          { s with host := { s.host with ps := w.target, psLastOp := w.target, psWait := none } } w.adm)) ∧
        (w.target = 4 → limitsMet s 4 = true → w.idle = true → s.host.dockets = [] → s.host.ps < 4 →
          exec .powerStateReached s = .next (adminOk
            { s with host := { s.host with ps := 4, psLastOp := s.host.ps, psWait := none } } w.adm)) ∧
        (limitsMet s w.target = false ∨ underCap s w.target = false → exec .powerStateReached s = .next s)) ∧
      (s.host.psWait = some w → w.target = 4 → s.host.dockets = [] → s.host.busyAt < s.nowMs → exec .ps4IdleEntry s =
        .next { s with host := { s.host with psWait := some { w with idle := true } } })) ∧
  (∀ (s : State) (a : Adm) (nsid : Nat), adminOpen s a.fn = true → s.power.recovery = false → a.fn = 0 →
      let v := s.service
      let started (code : Nat) : State := adminOk { s with service := { v with stCode := code, stNsid := nsid } } a
      (v.stCode = 0 → nsid = 0 ∨ nsid = 0xFFFFFFFF ∨ (getNs s nsid).live = true →
        exec (.selfTestShort a nsid) s = .next (started 1) ∧ exec (.selfTestExtended a nsid) s = .next (started 2)) ∧
      (v.stCode ≠ 0 → nsid = 0 → exec (.selfTestShort a nsid) s = .next (adminFail s a .selfTestInProgress) ∧
        exec (.selfTestExtended a nsid) s = .next (adminFail s a .selfTestInProgress)) ∧
      (v.stCode ≠ 0 → completes (.selfTestAbort a) s (fun t =>
        t = adminOk (selfTestEnd s 1 0 0) a ∧ (selfTestEnd s 1 0 0).service.stCode = 0 ∧
        (selfTestEnd s 1 0 0).service.stResults.head? = some ⟨v.stCode, 1, 0, 0, v.stNsid, s.nowMs⟩)) ∧
      (v.stCode = 0 → exec (.selfTestAbort a) s = .next (adminOk s a))) ∧
  (∀ (s : State) (failed notRun : List Nat),
      let v := s.service
      let skipped := bitSet (((segmentsOf v.stCode).filter (notRun.contains ·)).map (· - 1))
      let result (r seg : Nat) : StResult := { test := v.stCode, result := r, segment := seg, notRun := skipped, nsid := v.stNsid, time := s.nowMs }
      let ended (r seg : Nat) : Prop := exec (.selfTestComplete failed notRun) s = .next { s with service :=
        { v with stCode := 0, stNsid := 0, stResults := (result r seg :: v.stResults).take 20 } }
      (v.stCode ≠ 0 → s.host.activation = none → s.power.dumping = false →
        ((∀ k ∈ segmentsOf v.stCode, k ∉ failed) → ended 0 0) ∧
        (∀ k, k ∈ segmentsOf v.stCode → k ∈ failed → (∀ j ∈ segmentsOf v.stCode, j < k → j ∉ failed) → ended 7 k)) ∧
      (v.stCode = 0 → exec (.selfTestComplete failed notRun) s = .next s) ∧
      (s.power.bootStep = 6 → v.cycleAt = none → dget s 0x9000 1 = 1 → exec .dredgeCycleStart s =
        .next { s with service := { v with cycleAt := some s.nowMs, overrun := false, tasks := [] } }) ∧
      (∀ at_, v.cycleAt = some at_ → v.overrun = false →
        (at_ + dget s 0x9000 2 * 3600000 ≤ s.nowMs → completes .cycleOverrun s (fun t => t.service = { v with overrun := true } ∧
          dget t 0x9000 6 = (dget s 0x9000 6 + 1) % counterMax 0x9000 6)) ∧
        (s.nowMs < at_ + dget s 0x9000 2 * 3600000 → exec .cycleOverrun s = .next s)) ∧
      (v.cycleAt ≠ none → ((settleCycle s).service.cycleAt = none ↔ cycleDone s = true)) ∧
      (∀ task unit, unitDone s task unit = true → noteUnit s task unit = s))

/-- Table 2.9, R66: the Freeze Records log holds its header and one record of 32 bytes a freeze. R49, R66, R387,
R415, R495, R499, R500, R46: the log pages answer with the bytes or fields of their page, from the offset
asked for; an unknown page, a page outside the function's scope and an offset beyond the page are refused;
Identify answers with its structure. -/
def Obligations.LogsAndIdentifyAnswer : Prop :=
  (∀ (s : State) (fn sq : Nat) (q : Sq) (z : Freeze), (getFn s fn).sqs = [(sq, q)] → q.freeze = some z →
      sq < 65536 → z.cid < 65536 → z.slot < 65536 → z.status < 2 ^ 15 → z.next < 65536 →
      z.cancelled < 2 ^ 32 → z.finished < 2 ^ 32 →
      let l := freezeLog s fn
      let at_ (off n : Nat) : Nat := recNat l off n
      l.length = 48 ∧ at_ 0 2 = 1 ∧ at_ 4 4 = (getFn s fn).freezeGen % 2 ^ 32 ∧ at_ 16 2 = sq ∧ at_ 18 2 = z.cid ∧
      at_ 20 2 = z.slot ∧ at_ 22 2 = z.status ∧ at_ 24 2 = z.next ∧ at_ 28 4 = z.cancelled ∧
      at_ 32 4 = z.finished ∧ at_ 40 8 = readTime s fn z.time % 2 ^ 64) ∧
  (∀ (s : State) (a : Adm) (lid nsid lsi off len : Nat), adminOpen s a.fn = true → s.power.recovery = false →
      let answers (i : Instr) (p : Payload) : Prop := exec i s = .next (adminDone s a .success 0 p)
      let fails (i : Instr) (st : Status) : Prop := exec i s = .next (adminFail s a st)
      let part (l : List Byte) : Payload := .bytes ((l.drop off).take len)
      (off ≤ (freezeLog s a.fn).length → answers (.logFreezeRecord a off len) (part (freezeLog s a.fn))) ∧
      (off ≤ (pairLog s a.fn).length → answers (.logPairState a off len) (part (pairLog s a.fn))) ∧
      ((freezeLog s a.fn).length < off → fails (.logFreezeRecord a off len) .invalidField) ∧
      (a.fn = 0 → off ≤ (dredgeLog s 0).length → answers (.logDredgeResults a off len) (part (dredgeLog s 0))) ∧
      (a.fn = 0 → off ≤ (pilotLog s 0).length → answers (.logPilotAndPower a off len) (part (pilotLog s 0))) ∧
      (a.fn ≠ 0 → fails (.logDredgeResults a off len) .invalidLogPage ∧
        fails (.logPilotAndPower a off len) .invalidLogPage ∧
        ∀ b c n, fails (.logTelemetry a b c n) .invalidLogPage) ∧
      (∀ sel, faultSel a.fn lsi = some sel → off ≤ (faultLog s a.fn sel).length →
        answers (.logTenantFaultRecords a lsi off len) (part (faultLog s a.fn sel))) ∧
      (faultSel a.fn lsi = none → fails (.logTenantFaultRecords a lsi off len) .invalidField) ∧
      (logForAll lid = false → logForPf lid = false → fails (.getLogPage a lid nsid) .invalidLogPage) ∧
      answers (.getLogPage a 0x02 0xFFFFFFFF) (.fields (healthFields s a.fn)) ∧
      exec (.getLogPage a 0x04 nsid) s = .next (adminDone (modFn s a.fn (fun f => { f with changedNs := [] })) a
        .success 0 (.fields (named "NSID" (getFn s a.fn).changedNs))) ∧
      (a.fn = 0 → 1 ≤ len → len ≤ 3 →
        answers (.logTelemetry a false false len) (.fields (telAreas s.service.hostTel len)) ∧
        exec (.logTelemetry a false true len) s = .next (adminDone
          (draw { s with service := { s.service with hostTel := some (collect s) } }) a .success 0
          (.fields (telAreas (some (collect s)) len)))) ∧
      answers (.identify a 1 nsid lsi) (.fields (identController s a.fn)) ∧
      (attachedTo s a.fn nsid = true → (getNs s nsid).live = true → nsid ≠ 0xFFFFFFFF →
        answers (.identify a 0 nsid lsi) (.fields (identNs s nsid))) ∧
      (a.fn ≠ 0 → fails (.identify a 0x14 nsid lsi) .invalidField))

/-- Table 3.3, R82, R117, R362, R363: a namespace that nothing refuses takes the lowest free NSID, is created by
an NSCREATE record and answered with its NSID once the record is durable; what is refused, and how, in the
order of the table. -/
def Obligations.NamespacesAreCreated : Prop :=
  ∀ (s : State) (a : Adm) (q : NsCreate) (nsid : Nat), adminOpen s a.fn = true → s.power.recovery = false →
    a.fn = 0 →
    let fails (st : Status) : Prop := exec (.namespaceCreate a q) s = .next (adminFail (askPartner s (wanted q)) a st)
    let clean : Prop := (∀ b ∈ q.rsv, b = 0) ∧ q.mirror.toNat ≤ 1 ∧ q.home.toNat ≤ 1
    let format : Prop := q.flbas ≤ 2 ∧ ¬ (q.flbas = 1 ∧ q.zoned = true)
    let u := keyNs (journalOp s [createRec nsid (wanted q)]) nsid
    (createRefusal s q = none → freeNsid s = some nsid → s.pair.state = 0 →
      exec (.namespaceCreate a q) s = .next (adminAfter u u.media.jsn a nsid)) ∧
    (¬ clean → fails .invalidField) ∧
    (clean → ¬ format → fails .invalidFormat) ∧
    (clean → format → s.pair.state = 0 → q.mirror = 1 ∨ q.home = 1 → fails .invalidField) ∧
    (clean → format → 2 ≤ s.pair.state → q.mirror = 1 → fails .commandSequenceError) ∧
    (clean → format → q.mirror = 0 → q.home = 0 →
      (q.ncap = 0 ∨ q.nsze < q.ncap → fails .invalidField) ∧
      (0 < q.ncap → q.ncap ≤ q.nsze → q.zoned = false → poolsShort s (wanted q) = true →
        fails .nsInsufficientCapacity) ∧
      (0 < q.ncap → q.ncap ≤ q.nsze → q.zoned = false → poolsShort s (wanted q) = false → freeNsid s = none →
        fails .nsIdUnavailable))

/-- R85, R81, R115: attachment and detachment are recorded, noticed by the controllers concerned, and answered
once their records are durable; what is refused, and how. R87, R88, R117: a deletion begins with the
detachment and the cancelling of what is Admitted, and ends, once no docket entry names the namespace, with
its delete record. R338, R120: Format NVM drops what its namespaces hold, with a new key for a cryptographic
erase, and Sanitize does so for every namespace and counts (log entry 33); each is answered. -/
def Obligations.NamespacesAttachDeleteAndClear : Prop :=
  (∀ (s : State) (a : Adm) (nsid : Nat) (l : List Nat), adminOpen s a.fn = true → s.power.recovery = false →
      a.fn = 0 →
      let n := tabGet Ns.empty (newestMap s).nss nsid
      let fails (i : Instr) (st : Status) : Prop := exec i s = .next (adminFail s a st)
      let good : Prop := l ≠ [] ∧ (∀ c ∈ l, c ≤ 1024) ∧ l.Nodup
      let done (d : Bool) : State := attachChange s nsid l d
      (n.live = true → n.deleting = none → good →
        ((∀ c ∈ l, c ∉ n.attached) → (n.shared = true ∨ n.attached.length + l.length ≤ 1) →
          exec (.namespaceAttach a nsid l) s = .next (adminAfter (done false) (done false).media.jsn a 0)) ∧
        ((∃ c ∈ l, c ∈ n.attached) → fails (.namespaceAttach a nsid l) .nsAlreadyAttached) ∧
        ((∀ c ∈ l, c ∉ n.attached) → n.shared = false → 1 < n.attached.length + l.length →
          fails (.namespaceAttach a nsid l) .nsIsPrivate) ∧
        ((∀ c ∈ l, c ∈ n.attached) →
          exec (.namespaceDetach a nsid l) s = .next (adminAfter (done true) (done true).media.jsn a 0)) ∧
        ((∃ c ∈ l, c ∉ n.attached) → fails (.namespaceDetach a nsid l) .nsNotAttached)) ∧
      (n.live = true → n.deleting = none → ¬ good → fails (.namespaceAttach a nsid l) .invalidControllerList ∧
        fails (.namespaceDetach a nsid l) .invalidControllerList) ∧
      (n.live = false → fails (.namespaceAttach a nsid l) .invalidNamespaceOrFormat ∧
        fails (.namespaceDetach a nsid l) .invalidNamespaceOrFormat)) ∧
  (∀ (s : State) (a : Adm) (nsid : Nat), adminOpen s a.fn = true → s.power.recovery = false → a.fn = 0 →
      (nsid ≠ 0xFFFFFFFF → (getNs s nsid).live = true → (getNs s nsid).deleting = none →
        (s.pair.state ≤ 1 → exec (.namespaceDelete a nsid) s = .next (startDelete s a nsid)) ∧
        (s.pair.state = 2 → (getNs s nsid).mirror = true →
          exec (.namespaceDelete a nsid) s = .next (adminFail s a .commandSequenceError))) ∧
      (nsid ≠ 0xFFFFFFFF → (getNs s nsid).live = false →
        exec (.namespaceDelete a nsid) s = .next (adminFail s a .invalidNamespaceOrFormat)) ∧
      ((getNs s nsid).deleting = some a → nsDockets s nsid (fun _ => true) = [] →
        (∀ e ∈ s.media.cur.nss, e.1 ≠ nsid → e.2.deleting ≠ some a) →
        tabGet Ns.empty (newestMap s).nss nsid ≠ Ns.empty →
        let f := forgetNs s nsid
        let u := dropKey (journalOp f (jrec 0x31 nsid 0 0 0 0 :: nsLotRecs (newestMap f) nsid)) nsid
        exec (.nsDeleteDone nsid) s = .next (adminAfter u (s.media.jsn + 1) a 0)) ∧
      (nsDockets s nsid (fun _ => true) ≠ [] → exec (.nsDeleteDone nsid) s = .next s)) ∧
  (∀ (s : State) (a : Adm) (nsid lbaf ses : Nat), adminOpen s a.fn = true → s.power.recovery = false → a.fn = 0 →
      let fails (i : Instr) (st : Status) : Prop := exec i s = .next (adminFail s a st)
      let u := setFormat (clearNs (selfTestEnd s 4 0 0) nsid (ses == 2)) nsid lbaf
      let live : Prop := (getNs s nsid).live = true ∧ (getNs s nsid).deleting = none
      let ended (crypto : Bool) (t : State) : Prop := t = sanitize s a crypto
      (nsid ≠ 0xFFFFFFFF → ses ≤ 2 →
        (live → lbaf ≤ 2 → ¬ ((getNs s nsid).zoned = true ∧ lbaf = 1) →
          exec (.formatNvm a nsid lbaf ses false) s = .next (adminAfter u u.media.jsn a 0)) ∧
        (live → 3 ≤ lbaf → fails (.formatNvm a nsid lbaf ses false) .invalidFormat) ∧
        (live → fails (.formatNvm a nsid lbaf ses true) .invalidFormat) ∧
        (¬ live → fails (.formatNvm a nsid lbaf ses false) .invalidNamespaceOrFormat)) ∧
      (2 < ses → fails (.formatNvm a nsid lbaf ses false) .invalidField) ∧
      completes (.sanitizeBlockErase a) s (ended false) ∧ completes (.sanitizeCryptoErase a) s (ended true) ∧
      ((s.media.cur.nss = []) → ∀ c, (sanitize s a c).service.sanCount = s.service.sanCount + 1 ∧
        (sanitize s a c).service.sanitize = if c then 4 else 2))

/-- R108, Table 3.7: what each record changes in the mapping state. R106, R107, R115: an appended record takes
the next number; it takes effect at once where hold-up is healthy and the DRAM tail has room, and otherwise
waits until its page is programmed. R107, R110 to R112: a journal page holds up to 127 records behind a
header and makes them durable; a checkpoint pass keeps an image of every object that changed and marks it
with a record and the map root. -/
def Obligations.JournalRecordsAndPages : Prop :=
  (∀ (m : MapSt) (r : JRec) (n u : Nat), u < 2 ^ 48 → r.unit + r.count ≤ 2 ^ 48 →
      let t := applyRec m r
      let mine : Prop := n = r.nsid ∧ r.unit ≤ u ∧ u < r.unit + r.count
      let ns := tabGet Ns.empty m.nss r.nsid
      let word (w : Nat) : Prop := (mine → mapWord t n u = w) ∧ (¬ mine → mapWord t n u = mapWord m n u)
      (r.typ = 0x01 → mMapped r.entry = true → word (r.entry + (u - r.unit) * unitSlots ns.lbaf)) ∧
      (r.typ = 0x01 → mMapped r.entry = false → word r.entry) ∧
      (r.typ = 0x02 → word 0) ∧ (r.typ = 0x03 → word zeroWord) ∧ (r.typ = 0x04 → word uncorrWord) ∧
      (r.typ = 0x05 → mapWord t n u = if n = r.nsid then 0 else mapWord m n u) ∧
      (r.typ = 0x12 → getZone t r.nsid r.unit = { lot := bitsOf r.aux 4 24, lotv := bitOf r.aux 25, zs := bitsOf r.aux 0 3, wp := bitsOf r.entry 0 31 }) ∧
      (r.typ = 0x30 → let x := tabGet Ns.empty t.nss r.nsid
        x.live = true ∧ x.nsze = r.unit ∧ x.ncap = r.aux ∧ x.mirror = (bitsOf r.entry 16 23 == 1) ∧
        x.home = bitsOf r.entry 24 31 ∧ x.shared = bitOf r.entry 32 ∧ x.attached = [] ∧
        (n ≠ r.nsid → tabGet Ns.empty t.nss n = tabGet Ns.empty m.nss n)) ∧
      (r.typ = 0x31 → tabGet Ns.empty t.nss r.nsid = Ns.empty ∧ (n = r.nsid → mapWord t n u = 0)) ∧
      (r.typ = 0x32 → r.aux = 0 → tabGet Ns.empty t.nss r.nsid =
        { ns with attached := if ns.attached.contains r.unit then ns.attached else ns.attached ++ [r.unit] }) ∧
      (r.typ = 0x32 → r.aux ≠ 0 →
        tabGet Ns.empty t.nss r.nsid = { ns with attached := ns.attached.filter (· != r.unit) })) ∧
  (∀ (s : State) (r : JRec), s.pair.state = 0 →
      let t := append s [r]
      let x := numbered s r
      t.media.jsn = s.media.jsn + 1 ∧ x.jsn = s.media.jsn + 1 ∧ t.media.journal = s.media.journal ++ [x] ∧
      (s.power.healthy = true → s.media.appliedJsn = s.media.jsn → (∀ e ∈ s.media.journal, e.jsn ≤ s.media.jsn) →
        s.media.jsn < s.media.programmedJsn + tailRecs →
        t.media.appliedJsn = s.media.jsn + 1 ∧ t.media.cur = applyRec s.media.cur x) ∧
      (s.power.healthy = false → s.media.programmedJsn = s.media.appliedJsn → t.media.cur = s.media.cur ∧
        t.media.appliedJsn = s.media.appliedJsn) ∧
      { t with media := s.media } = s) ∧
  (∀ (s : State),
      let m := s.media
      let n := min m.jsn (m.programmedJsn + 127)
      let first := m.programmedJsn + 1
      let rs := m.journal.filter (fun r => decide (first ≤ r.jsn) && decide (r.jsn ≤ n))
      let prev := match m.pages.getLast? with | some p => p.jsn | none => 0
      let a := (landSpot s 2 1).1
      let u := programPage s 2 m.jsn
      let c := checkpoint s false
      let k := applyReady s
      (m.programmedJsn < m.jsn → exec .journalPageProgram s =
          .next (resumeHeld (settlePacing (settleWindow (closeDue (applyReady u))))) ∧
        u.media.programmedJsn = n ∧ u.media.journal = m.journal ∧ u.media.jsn = m.jsn ∧ u.media.cur = m.cur ∧
        u.media.pages = m.pages ++ [⟨a, first, rs.length, prev⟩] ∧
        (rs.length ≤ 127 → u.host.bytesMedia = s.host.bytesMedia + 4096 ∧
          tabGet none u.media.flash a = some { data := pageBytes first prev rs, key := 0, tag := none, time := s.nowMs } ∧
          ∀ b, b ≠ a → tabGet none u.media.flash b = tabGet none m.flash b) ∧
        (applyReady u).media.appliedJsn = max (durableTo u) m.appliedJsn ∧
        (s.power.healthy = false → durableTo u = n)) ∧
      (m.jsn ≤ m.programmedJsn → exec .journalPageProgram s = .next s) ∧
      (m.ready = true → (∀ t, m.passAt = some t → t + 8000 ≤ s.nowMs) →
        (commitWorn s 5 rootLine = false → s.pair.state = 0 →
          exec .checkpointPass s = .next (resumeHeld (settleWindow (closeDue c))) ∧
          c.media.ckpt = k.media.cur ∧ c.media.ckptJsn = k.media.appliedJsn ∧ c.media.passAt = some s.nowMs ∧
          c.media.cleanStop = false ∧ c.media.jsn = m.jsn + 1 ∧ c.media.root.start = k.media.appliedJsn + 1 ∧
          (∃ r ∈ c.media.journal, r.typ = 0x40 ∧ r.jsn = m.jsn + 1 ∧ r.aux = k.media.appliedJsn + 1 ∧
            r.unit = (dirtyObjects k).length) ∧
          (∀ o ∈ dirtyObjects k, ∃ i ∈ c.media.images, i.obj = o ∧ i.jsn = k.media.appliedJsn ∧
            i.part = partOf k.media.cur o)) ∧
        (commitWorn s 5 rootLine = true →
          exec .checkpointPass s = .next (logPel s "map root line worn" rootLine 0))) ∧
      (∀ t, m.passAt = some t → s.nowMs < t + 8000 → exec .checkpointPass s = .next s))

/-- R70, R71, R501, R502, Table 2.11a: images are downloaded, stored and chosen; an activation without reset
drains, ends with the new image within 200 ms, or falls back then. -/
def Obligations.FirmwareIsStoredAndActivated : Prop :=
  ∀ (s : State) (a : Adm) (slot off : Nat) (d : List Byte) (x : Activation), adminOpen s a.fn = true → a.fn = 0 →
    let fails (i : Instr) (st : Status) : Prop := exec i s = .next (adminFail s a st)
    let p := s.power
    let b := memRead p.fwBuf 0 p.fwBufLen
    (off % 4096 = 0 → d.length % 4096 = 0 → 0 < d.length → off + d.length ≤ 3 * 2 ^ 20 →
      exec (.firmwareImageDownload a off d) s = .next (adminOk { s with power := { p with fwBuf := memWrite p.fwBuf off d, fwBufLen := max p.fwBufLen (off + d.length) } } a)) ∧
    (off % 4096 ≠ 0 ∨ d.length % 4096 ≠ 0 ∨ 3 * 2 ^ 20 < off + d.length →
      fails (.firmwareImageDownload a off d) .invalidField) ∧
    (1 ≤ slot → slot ≤ 2 → b ≠ [] → Config.fwSigned b = true →
      (∀ l ∈ checkLine (7 + slot) :: slotLines slot b.length, lineWorn s l = false) →
      exec (.firmwareCommitStore a slot) s = .next (adminOk (storeImage s slot b) a) ∧
      (s.pair.state ≠ 1 → exec (.firmwareCommitReplaceActivate a slot) s = .next (adminOk
        { storeImage s slot b with power := { (storeImage s slot b).power with fwNext := slot } } a)) ∧
      (if slot = 1 then (storeImage s slot b).power.fw1 else (storeImage s slot b).power.fw2) = some b) ∧
    (1 ≤ slot → slot ≤ 2 → b ≠ [] → Config.fwSigned b = false →
      fails (.firmwareCommitStore a slot) .invalidFirmwareImage) ∧
    (2 < slot → fails (.firmwareCommitStore a slot) .invalidFirmwareSlot) ∧
    (p.recovery = false → 1 ≤ slot → slot ≤ 2 → slotOk s slot = true →
      (s.pair.state ≠ 1 → exec (.firmwareCommitActivate a slot) s = .next (adminOk
        { s with power := { p with fwNext := slot } } a)) ∧
      (s.pair.state = 1 → fails (.firmwareCommitActivate a slot) .firmwareActivationProhibited) ∧
      (∃ u, u = settleSpaces { s with host := { s.host with activation := some ⟨a, slot, s.nowMs⟩ } } ∧
        exec (.firmwareCommitActivateNow a slot) s = .next (postEvents u (fnList u) ⟨2, 1, 3⟩))) ∧
    (∀ u : State, u.host.activation = some x →
      let wdt := u.power.wdtAt.map (fun _ => u.nowMs)
      (drained u = true → u.nowMs < x.start + 200 → exec .fwDrainComplete u = .next (adminOk (settleSpaces { u with host := { u.host with activation := none }, power := { u.power with fwSlot := x.slot, fwNext := x.slot, wdtAt := wdt } }) x.adm)) ∧
      (drained u = false → exec .fwDrainComplete u = .next u) ∧
      (u.nowMs < x.start + 200 → exec .fwActivationTimeout u = .next u) ∧
      (x.start + 200 ≤ u.nowMs → exec .fwDrainComplete u = .next u ∧ exec .fwActivationTimeout u = .next (adminFail (settleSpaces { u with host := { u.host with activation := none }, power := { u.power with wdtAt := wdt } }) x.adm .firmwareActivationProhibited)))

/-- R323 to R327, Table 12.3: a key is loaded unwrapped into its slot, a slot is cleared or assigned, the module
key installed, and zeroize empties it and every slot; what is refused, and how. R50 to R52, R349, R350: each
kind of Tenant Lease takes effect on its entries of the tenant's record, and is answered with the lease in
force; read back answers the docket ceiling. -/
def Obligations.KeySlotsAndTenantLeases : Prop :=
  (∀ (s : State) (a : Adm) (w0 w1 w2 : W32) (d : List Byte), adminOpen s a.fn = true →
      s.power.recovery = false → s.pair.state = 0 → kClean s a.fn w0 w1 w2 d = true →
      let i := kSlot w0
      let k := getSlot s i
      let u := commitAt s 3 (slotLine i)
      let free : Prop := slotBusy s i = false ∧ commitWorn s 3 (slotLine i) = false
      let t := kTenant w1
      let who : Option Nat := if t = 0x7FF then none else some t
      let fails (j : Instr) (st : Status) : Prop := exec j s = .next (adminFail s a st)
      (kOp w0 = 0 → s.eng.moduleKey = none → fails (.keySlotLoad a w0 w1 w2 d) .commandSequenceError) ∧
      (kOp w0 = 0 → ∀ mk key, s.eng.moduleKey = some mk → free →
        (keyUnwrap mk d = some key → exec (.keySlotLoad a w0 w1 w2 d) s = .next (adminOk (slotOp u i 0 (kKind w0) 0 key) a) ∧
          getSlot (slotOp u i 0 (kKind w0) 0 key) i = { k with kind := kKind w0, key := key }) ∧
        (keyUnwrap mk d = none → exec (.keySlotLoad a w0 w1 w2 d) s =
          .next (adminDone (bump s 0x7050 5 1) a .invalidField 1 .none))) ∧
      (kOp w0 = 1 → free → exec (.keySlotClear a w0 w1 w2 d) s = .next (adminOk (slotOp u i 1 0 0 []) a) ∧
        getSlot (slotOp u i 1 0 0 []) i = { k with kind := 0, key := [] }) ∧
      (kOp w0 = 2 → free → exec (.keySlotAssign a w0 w1 w2 d) s = .next (adminOk (slotOp u i 2 0 t []) a) ∧
        getSlot (slotOp u i 2 0 t []) i = ⟨0, [], who⟩) ∧
      (kOp w0 = 1 → slotBusy s i = true → fails (.keySlotClear a w0 w1 w2 d) .commandSequenceError) ∧
      (kOp w0 = 3 → commitWorn s 3 modKeyLine = false →
        (s.eng.moduleKey = none → exec (.moduleKeyInstall a w0 w1 w2 d) s =
          .next (adminOk (setModuleKey (commitAt s 3 modKeyLine) (some d)) a)) ∧
        (s.eng.moduleKey ≠ none → fails (.moduleKeyInstall a w0 w1 w2 d) .commandSequenceError)) ∧
      (kOp w0 = 4 → commitWorn s 3 modKeyLine = false → anyCipherJob s = false →
        ∃ v, exec (.keyZeroize a w0 w1 w2 d) s = .next (adminOk v a) ∧ v.eng.moduleKey = none ∧
          ∀ j, (getSlot v j).kind = 0 ∧ (getSlot v j).key = [] ∧ (getSlot v j).tenant = (getSlot s j).tenant) ∧
      (kOp w0 = 4 → anyCipherJob s = true → fails (.keyZeroize a w0 w1 w2 d) .commandSequenceError)) ∧
  (∀ (s : State) (a : Adm) (w0 w1 : W32), adminOpen s a.fn = true → s.power.recovery = false → a.fn = 0 →
      s.pair.state = 0 → bitsOf w0.toNat 10 15 = 0 → bitsOf w0.toNat 19 31 = 0 →
      let t := bitsOf w0.toNat 0 9
      let v := w1.toNat
      let kind := bitsOf w0.toNat 16 18
      let takes (i : Instr) (k : Nat) : Prop := kind = k →
        (leaseRefusal s t k v = none → leaseWorn s t k v = none → exec i s = .next (adminDone
          (leaseApply s t k v) a .success (leaseNow (leaseApply s t k v) t k) .none)) ∧
        (∀ st, leaseRefusal s t k v = some st → exec i s = .next (adminFail s a st))
      takes (.tenantLeaseCores a w0 w1) 0 ∧ takes (.tenantLeaseSlm a w0 w1) 1 ∧
      takes (.tenantLeaseDocketCeiling a w0 w1) 2 ∧ takes (.tenantLeaseFetchWeight a w0 w1) 3 ∧
      takes (.tenantLeaseTallyRows a w0 w1) 4 ∧
      (kind = 5 → exec (.tenantLeaseReadBack a w0 w1) s =
        .next (adminDone s a .success (dget s (0x6000 + t) 5) .none)) ∧
      (kind = 6 → exec (.tenantLeaseReadBack a w0 w1) s = .next (adminFail s a .invalidField)) ∧
      (1 ≤ v → v ≤ 65536 → dget (leaseApply s t 2 v) (0x6000 + t) 5 = v) ∧
      (1 ≤ v → v ≤ 255 → dget (leaseApply s t 3 v) (0x6000 + t) 6 = v))

/-- R220, R228 to R230, R277: an image is loaded where it first fits if it is admitted, and refused with the
failure's word if it is not; it is activated, deactivated and unloaded by its index. R517, R518: memory
range sets are created and deleted within the tenant's SLM lease; Memory Write puts its bytes there and
Memory Read returns what is there; Execute Program creates the first thread at the image's entry, with its
parameters. -/
def Obligations.ProgramsAndSubsystemMemory : Prop :=
  (∀ (s : State) (a : Adm) (ix base h : Nat) (b : List Byte) (i : Image), adminOpen s a.fn = true →
      s.power.recovery = false → s.pair.state = 0 →
      let own := progOwner a.fn
      let rest := s.prog.images.filter (fun i => !(i.owner == own && i.index == ix))
      let code := (b.drop 64).take (recNat b 8 4)
      let fails (j : Instr) (st : Status) : Prop := exec j s = .next (adminFail s a st)
      let set_ (on : Bool) : State := { s with prog := { s.prog with images := s.prog.images.map (fun i => if i.owner = own ∧ i.index = ix then { i with active := on } else i) } }
      (ix ≤ 255 → headerOk b = true → imageBy s own ix = none →
        firstFit rest (recNat b 8 4) = some base → freeImageHandle s rest = some h →
        (admission code (recNat b 12 4) = none → exec (.loadProgramLoad a 0xF0 ix b) s =
          .next (adminOk (placeImage s rest (imageOf b h own ix base)) a)) ∧
        (∀ w, admission code (recNat b 12 4) = some w → exec (.loadProgramLoad a 0xF0 ix b) s =
          .next (adminDone s a .invalidProgramData w .none))) ∧
      (ix ≤ 255 → headerOk b = false → fails (.loadProgramLoad a 0xF0 ix b) .invalidProgramData) ∧
      (255 < ix → fails (.loadProgramLoad a 0xF0 ix b) .invalidField) ∧
      (imageBy s own ix = some i → ix ≤ 255 →
        (imageBusy s i = false → exec (.loadProgramUnload a ix) s = .next (adminOk
          { s with prog := { s.prog with images := rest } } a)) ∧
        (imageBusy s i = true → fails (.loadProgramUnload a ix) .commandSequenceError) ∧
        exec (.programActivate a ix) s = .next (adminOk (set_ true) a) ∧
        exec (.programDeactivate a ix) s = .next (adminOk (set_ false) a)) ∧
      (imageBy s own ix = none → ix ≤ 255 → fails (.programActivate a ix) .noProgram ∧
        fails (.loadProgramUnload a ix) .invalidField) ∧
      (ix ≤ 255 → ∀ ptype, ptype ≠ 0xF0 → fails (.loadProgramLoad a ptype ix b) .invalidProgramType)) ∧
  (∀ (s : State) (a : Adm) (r d : Nat) (l : List (Nat × Nat)) (p : List Byte) (i : Image) (t : Nat),
      let e := getDk s d
      let sp := tenantOf e.fn
      let m := slmAt s sp
      (adminOpen s a.fn = true → s.power.recovery = false →
        (rangeRefusal s a.fn l = none →
          exec (.memoryRangeSetManagement a true r l) s = .next (adminDone { s with prog := { s.prog with ranges := s.prog.ranges ++ [⟨a.fn, s.prog.nextRsid, l⟩], nextRsid := s.prog.nextRsid + 1 } } a .success s.prog.nextRsid .none)) ∧
        ((l = [] ∨ ∃ x ∈ l, x.2 = 0 ∨ slmOf s a.fn < x.1 + x.2) →
          exec (.memoryRangeSetManagement a true r l) s = .next (adminFail s a .invalidMemoryRangeSet)) ∧
        ((∀ x ∈ s.prog.ranges, ¬ (x.fn = a.fn ∧ x.rsid = r)) →
          exec (.memoryRangeSetManagement a false r l) s = .next (adminFail s a .invalidRangeSetId)) ∧
        (hasRangeSet s a.fn r = true → rangeInUse s a.fn r = true →
          exec (.memoryRangeSetManagement a false r l) s = .next (adminFail s a .rangeSetInUse)) ∧
        (hasRangeSet s a.fn r = true → rangeInUse s a.fn r = false →
          exec (.memoryRangeSetManagement a false r l) s = .next (adminOk { s with prog := { s.prog with
            ranges := s.prog.ranges.filter (fun x => !(x.fn == a.fn && x.rsid == r)) } } a))) ∧
      (notMemory s e.sqe = true → (dkStart s d .memoryRead = true → exec (.memoryRead d) s = .next (ioFail s d .invalidOpcode)) ∧
        (dkStart s d .memoryWrite = true → exec (.memoryWrite d p) s = .next (ioFail s d .invalidOpcode))) ∧
      (dkStart s d .memoryRead = true → notMemory s e.sqe = false →
        (e.sqe.slba + e.sqe.nlb ≤ slmOf s e.fn → exec (.memoryRead d) s =
          .next (ioDone s d .success 0 0 (.bytes (memRead s.prog.slm (m + e.sqe.slba) e.sqe.nlb)))) ∧
        (slmOf s e.fn < e.sqe.slba + e.sqe.nlb → exec (.memoryRead d) s = .next (ioFail s d (.vendor 0x82)))) ∧
      (dkStart s d .memoryWrite = true → notMemory s e.sqe = false → e.sqe.slba + e.sqe.nlb ≤ slmOf s e.fn →
        (p.length = e.sqe.nlb → exec (.memoryWrite d p) s = .next (ioOk
          { s with prog := { s.prog with slm := memWrite s.prog.slm (m + e.sqe.slba) p } } d)) ∧
        (p.length ≠ e.sqe.nlb → exec (.memoryWrite d p) s = .next (ioFail s d .dataTransferError))) ∧
      (dkStart s d .executeProgram = true →
        let u := modDk s d (fun e => { e with started := true })
        let ix := execIndex e.sqe
        (e.fn = 0 → exec (.executeProgram d p) s = .next (ioFail u d (.vendor 0x82))) ∧
        (e.fn ≠ 0 → dget s (0x6000 + sp) 2 ≠ 0 → ix ≤ 255 → p.length ≤ 4096 → imageBy s sp ix = some i →
          (i.active = false → exec (.executeProgram d p) s = .next (ioFail u d .programNotActivated)) ∧
          (i.active = true → (execRange e.sqe = 0 ∨ hasRangeSet s e.fn (execRange e.sqe) = true) → i.reqfeat &&& featHigh s = i.reqfeat →
            (threadsOf s sp).length < dget s (0x6000 + sp) 0x20 → freeThread s false = some t →
            exec (.executeProgram d p) s = .next (createThread u t sp i.prio i.cmask i.wbase i.wsize
              (BitVec.ofNat 64 (i.handle * 2 ^ 32 + i.entry)) none (some d)
              ⟨i.data ++ p, BitVec.ofNat 64 (i.wbase * 4096 + 3072 + i.data.length), BitVec.ofNat 64 p.length⟩)))))

/-- R37, R84, R377, Table 2.13: the refusals every command on a namespace meets before it runs: the namespace is
not attached or not ready, its command set lacks the command, its partner owns it, an LBA is out of range,
the medium is read-only, a reservation conflicts; each completes the command with its status; a namespace of
the partner's takes it there. -/
def Obligations.IoCommandsAreRefusedOrForwarded : Prop :=
  ∀ (s : State) (d : Nat) (b : List Byte) (st : Status),
    let e := getDk s d
    let n := getNs s e.sqe.nsid
    let w := isWriteLock e.sqe.kind
    let ends (t : State) : Prop :=
      (dkStart s d .write = true → exec (.write d b) s = .next t) ∧
      (dkStart s d .compare = true → exec (.compare d b) s = .next t) ∧
      (dkStart s d .zoneAppend = true → exec (.zoneAppend d b) s = .next t)
    let plain (t : State) : Prop :=
      (dkStart s d .read = true → exec (.read d) s = .next t) ∧
      (dkStart s d .verify = true → exec (.verify d) s = .next t) ∧
      (dkStart s d .writeZeroes = true → exec (.writeZeroes d) s = .next t) ∧
      (dkStart s d .writeUncorrectable = true → exec (.writeUncorrectable d) s = .next t) ∧
      (dkStart s d .datasetManagement = true → exec (.datasetManagement d) s = .next t) ∧
      (dkStart s d .copy = true → exec (.copy d) s = .next t) ∧
      (dkStart s d .zoneReset = true → exec (.zoneReset d) s = .next t)
    (heldByTakeover s e.sqe.nsid = false → rekeying s e.sqe.nsid = false →
      (nsRefusal s e = some st → ends (ioFail s d st) ∧ plain (ioFail s d st)) ∧
      (nsRefusal s e = none → forwards s e.sqe.nsid = true → e.remote = none →
        ends (forward s d b) ∧ plain (forward s d [])) ∧
      (nsRefusal s e = none → forwards s e.sqe.nsid = false → hereRefusal s e = some st →
        ends (ioFail s d st) ∧ plain (ioFail s d st))) ∧
    (n.live = false → nsRefusal s e = some .invalidNamespaceOrFormat) ∧
    (e.remote = none → e.fn ∉ n.attached → nsRefusal s e = some .invalidNamespaceOrFormat) ∧
    (n.live = true → e.fn ∈ n.attached → n.ready = false → nsRefusal s e = some .namespaceNotReady) ∧
    (n.live = true → e.fn ∈ n.attached → n.ready = true → s.media.ready = true →
      (n.zoned = false → zonedOnly e.sqe.kind = true → nsRefusal s e = some .invalidOpcode) ∧
      ((if n.zoned then mappedOnly e.sqe.kind else zonedOnly e.sqe.kind) = false →
        (s.pair.state = 0 → nsRefusal s e = none) ∧
        (s.pair.state ≠ 0 → n.mirror = true → e.sqe.nsid ∈ s.pair.stale →
          nsRefusal s e = some (if w then .vendor 0x85 else .anaInaccessible)))) ∧
    (n.nsze < e.sqe.slba + e.sqe.nlb → hereRefusal s e = some .lbaOutOfRange) ∧
    (lbasOk n e.sqe = true → w = true → s.media.readOnly = true → hereRefusal s e = some .namespaceWriteProtected) ∧
    (lbasOk n e.sqe = true → s.media.readOnly = false → resvConflict s n e.fn w = true →
      hereRefusal s e = some .reservationConflict) ∧
    (lbasOk n e.sqe = true → s.media.readOnly = false → n.resvType = 0 → hereRefusal s e = none)

/-- R60, R140, R93: a command that reads issues the page reads of its LBAs; once its pages are read without an
error it answers: Read with the bytes of its LBAs, Compare by comparing, Verify with success; a unit that
cannot be read fails it. A Read commits when the first of its pages goes to the host. -/
def Obligations.ReadsAnswerWithTheirUnits : Prop :=
  ∀ (s : State) (d : Nat) (b : List Byte) (ps : List PageRead), runsHere s d = true →
    let e := getDk s d
    let done (u : State) (st : Status) (p : Payload) (t : State) : Prop := t = ioDone u d st 0 0 p ∧
      u.host.dockets = s.host.dockets ∧ u.media.cur = s.media.cur ∧ u.media.flash = s.media.flash ∧ u.out = s.out
    let issued (b : List Byte) : State := modDk (begun s d) d (fun e => { e with data := b, reads := pagesFor s e.sqe })
    (pagesFor s e.sqe ≠ [] →
      (dkStart s d .read = true → exec (.read d) s = .next (issued [])) ∧
      (dkStart s d .verify = true → exec (.verify d) s = .next (issued [])) ∧
      (dkStart s d .compare = true → exec (.compare d b) s = .next (issued b)) ∧
      (dkStart s d .copy = true → e.sqe.format = 0 → e.sqe.ranges.length ≤ 128 →
        (e.sqe.ranges.map Prod.snd).sum = e.sqe.nlb → exec (.copy d) s = .next (issued []))) ∧
    (dkStart s d .copy = true → e.sqe.format ≠ 0 → exec (.copy d) s = .next (ioFail (begun s d) d .invalidField)) ∧
    (dkStart s d .copy = true → e.sqe.format = 0 → 128 < e.sqe.ranges.length →
      exec (.copy d) s = .next (ioFail (begun s d) d .commandSizeLimitExceeded)) ∧
    (readDue s d ps = true → e.partRead = false → (∃ a ∈ e.reads, ∀ p ∈ ps, p.addr ≠ a) →
      completes (.flashReadComplete d ps) s (fun t => (∀ c, c ≠ d → getDk t c = getDk s c) ∧
        (getDk t d).reads = e.reads.filter (fun a => !(ps.any (fun p => p.addr == a))) ∧
        (getDk t d).word = (if e.sqe.kind = .read ∧ ∃ p ∈ ps, p.step.isSome = true then .committed else e.word))) ∧
    (readDue s d ps = true → e.partRead = false → e.failed = [] → ps.map (·.addr) = e.reads →
      (∀ p ∈ ps, p.step = some 1 ∧ p.bits ≤ dget s 0x4040 4) → badUnits s e.sqe [] = 0 →
      (e.sqe.kind = .read → completes (.flashReadComplete d ps) s (fun t => ∃ u,
        done u .success (.bytes (lbaData s e.sqe.nsid e.sqe.slba e.sqe.nlb)) t ∧
        u.host.bytesRead = s.host.bytesRead + e.sqe.nlb * lbaBytes (getNs s e.sqe.nsid).lbaf)) ∧
      (e.sqe.kind = .compare → completes (.flashReadComplete d ps) s (fun t => ∃ u,
        done u (if lbaData s e.sqe.nsid e.sqe.slba e.sqe.nlb = e.data then .success else .compareFailure) .none t)) ∧
      (e.sqe.kind = .verify → completes (.flashReadComplete d ps) s (fun t => ∃ u,
        done u .success .none t))) ∧
    (readDue s d ps = true → e.partRead = false → ps.map (·.addr) = e.reads → e.sqe.kind = .read → (∃ p ∈ ps, p.step = none ∧ ∃ u ∈ rangeUnits s e.sqe.nsid e.sqe.slba e.sqe.nlb,
        p.addr ∈ (unitSlotList s e.sqe.nsid u).map pageOf) →
      completes (.flashReadComplete d ps) s (fun t => ∃ u, t = ioDone u d .unrecoveredReadError 0 0 .none))

/-- R18 to R20, Table 1.5: a write's data moves into far berths that its docket entry owns; Write Zeroes and
Write Uncorrectable bring none; a write in part of a unit first reads the rest; past the journal window a
write is held; data of another length, and a write past the capacity, are refused. -/
def Obligations.WritesMoveIntoFarBerths : Prop :=
  ∀ (s : State) (d a : Nat) (b : List Byte), runsHere s d = true → s.pair.state = 0 →
    tabWf Docket.free s.host.dockets = true → (getDk s d).zoneAt = none →
    let e := getDk s d
    let n := getNs s e.sqe.nsid
    let u := begun s d
    let idle : Prop := s.media.windowHeld = false ∧ s.media.paced = false ∧ e.berths = [] ∧ e.mirrorOf = none ∧
      ownAsked s (dkReq e d) = 0 ∧ s.pool.held = []
    let whole : Prop := ∀ k ∈ cmdUnits s e.sqe, fullUnit s e.sqe k = true
    let but (t : State) : State := { t with media := { t.media with landed := s.media.landed } }
    (dkStart s d .write = true → n.zoned = false →
      (b.length = e.sqe.nlb * lbaBytes n.lbaf → overCapacity u e.sqe = false → whole →
        (0 < b.length → b.length ≤ 65536 → e.sqe.nlb ≠ 0 → idle → writeBerths s + 1 ≤ 65536 →
          s.pool.farStack.head? = some a →
          completes (.write d b) s (fun t => (getDk t d).berths = [a] ∧ (getDk t d).dataIn = true ∧
            (getDk t d).data = b ∧ (getDk t d).acked = true ∧ (getDk t d).heldAt3 = false ∧
            (getDk t d).word = .admitted ∧ (getBerth t a) = ⟨true, dkTag e d, [], none⟩ ∧
            memRead t.dram a b.length = b ∧ { but t with host := s.host, pool := s.pool, dram := s.dram } = s)) ∧
        (s.media.windowHeld = true → exec (.write d b) s =
          .next (modDk u d (fun e => { e with data := b, heldAt3 := true, reads := [], failed := [], partRead := false })))) ∧
      (b.length = e.sqe.nlb * lbaBytes n.lbaf → overCapacity u e.sqe = false → partPages s e ≠ [] →
        exec (.write d b) s = .next (modDk u d (fun e =>
          { e with data := b, reads := partPages s e, failed := [], partRead := true }))) ∧
      (b.length ≠ e.sqe.nlb * lbaBytes n.lbaf → exec (.write d b) s = .next (ioFail u d .dataTransferError)) ∧
      (b.length = e.sqe.nlb * lbaBytes n.lbaf → overCapacity u e.sqe = true →
        exec (.write d b) s = .next (ioFail u d .capacityExceeded))) ∧
    (dkStart s d .writeUncorrectable = true → n.zoned = false → overCapacity u e.sqe = false →
      idle → writeBerths s ≤ 65536 → completes (.writeUncorrectable d) s (fun t =>
        (getDk t d).programmed = true ∧ (getDk t d).dataIn = true ∧ (getDk t d).berths = [] ∧
        { but t with host := s.host } = s)) ∧
    (dkStart s d .writeZeroes = true → n.zoned = false → e.sqe.flag = true → whole →
      idle → writeBerths s ≤ 65536 → completes (.writeZeroes d) s (fun t =>
        (getDk t d).programmed = true ∧ (getDk t d).dataIn = true ∧ (getDk t d).berths = [] ∧
        { but t with host := s.host } = s)) ∧
    (dkStart s d .zoneAppend = true → n.zoned = true → e.sqe.slba * lbaSlots n.lbaf % zoneSize ≠ 0 →
      b.length = e.sqe.nlb * lbaBytes n.lbaf → exec (.zoneAppend d b) s = .next (ioFail u d .invalidField)) ∧
    (dkStart s d .zoneAppend = true → n.zoned = true → b.length = e.sqe.nlb * lbaBytes n.lbaf →
      ∀ z w k, zonedPlace u (getDk u d).sqe = .ok (u, (z, w, k)) → s.media.windowHeld = true →
        exec (.zoneAppend d b) s = .next (modDk u d (fun e => { e with data := b, zoneAt := some (z, w, k), aux := (z * zoneSize + w) / lbaSlots n.lbaf, heldAt3 := true })))

/-- R19, R20, R96, R125, R141, R376: a write commits when its data is in and its partner has acknowledged it or
need not; its completion is posted then; its pages are programmed after that; a program that fails moves the
block; a lapsed acknowledgement degrades the write. R125, R316, R339, R340, Table 4.3: programming a unit
writes its bytes in its slots, sealed by the engine of its channel under its namespace's key and each slot's
tweak, and tags a landed one; no other slot changes. R68, R32: a Flush completes once no earlier write of
its function on its namespace is waiting, and waits otherwise; one on a namespace that is not attached is
refused. Dataset Management deallocates the units its ranges cover whole and commits with its records. -/
def Obligations.WritesCommitAndAreProgrammed : Prop :=
  (∀ (s : State) (d bad : Nat) (l : List Placement), dkUsed s d = true →
      let e := getDk s d
      (commitReady s d = true → e.programmed = false → e.mirrorOf = none →
        let lba := if e.sqe.kind = .zoneAppend then e.aux else 0
        let u := dkCommitPost { s with host := { s.host with bytesWritten := s.host.bytesWritten + e.data.length } } d (lba % 2 ^ 32) (lba / 2 ^ 32)
        exec (.writeCommit d) s = .next (flushCheck u) ∧ (getDk u d).word = .committed ∧ (getDk u d).posted = true) ∧
      (commitReady s d = false → exec (.writeCommit d) s = .next s) ∧
      (isWriteKind e.sqe.kind = true → e.dataIn = true → e.programmed = false →
        (e.word = .committed ∨ (e.word = .admitted ∧ e.healthy = false)) →
        (placesOk s e l = true → exec (.flashProgramComplete d (.ok l)) s = .next (programmed s d l)) ∧
        (s.media.gdl.contains bad = false → (getBlk s bad).pool = 1 ∨ (getBlk s bad).pool = 6 →
          exec (.flashProgramComplete d (.failed bad)) s = .next (programFailed s bad))) ∧
      (∀ seq, s.pair.awaiting = [(seq, d)] → s.pair.takeover = none → completes (.ackLapse d) s (fun t =>
        ∃ v, t = takeoverEnd v ∧ (getDk v d).lapsed = true ∧ (getDk v d).degraded = true ∧ v.pair.awaiting = [] ∧
          v.pair.lapsed = s.pair.lapsed ++ [(seq, (cmdUnits s e.sqe).map (fun u => ⟨e.sqe.nsid, u⟩))] ∧
          dget v 0x8010 5 = (dget s 0x8010 5 + 1) % counterMax 0x8010 5))) ∧
  (∀ (s : State) (e : Docket) (total pos k : Nat) (p : Placement), k < ceilDiv (placeForm s e p).length 4096 →
      let t := programSlots s e total pos [p]
      tabGet none t.media.flash (p.addr + k) = some { data := ((placeForm s e p).drop (k * 4096)).take 4096, key := (getNs s e.sqe.nsid).keyGen, tag := if p.landed then some (slotTag s e p (pos + k) total k) else none, sealKey := xtsKey s p.addr e.sqe.nsid, tweak := unitTweak s e p.unit + k, time := s.nowMs } ∧
      (∀ a, a ∉ placeSlots s e p → tabGet none t.media.flash a = tabGet none s.media.flash a) ∧
      t.media.cur = s.media.cur ∧ t.media.journal = s.media.journal ∧ t.host.dockets = s.host.dockets) ∧
  (∀ (s : State) (d : Nat),
      let e := getDk s d
      (dkStart s d .flush = true → rekeying s e.sqe.nsid = false → e.sqe.nsid = 0xFFFFFFFF ∨ attachedTo s e.fn e.sqe.nsid = true →
        exec (.flush d) s = .next (flushCheck (begun s d)) ∧
        ((∀ w ∈ s.host.dockets, flushWaits e w.2 = false) → d ∈ flushesDue (begun s d)) ∧
        ((∃ w ∈ s.host.dockets, w.1 ≠ d ∧ flushWaits e w.2 = true) → tabWf Docket.free s.host.dockets = true →
          d ∉ flushesDue (begun s d))) ∧
      (dkStart s d .flush = true → rekeying s e.sqe.nsid = false → e.sqe.nsid ≠ 0xFFFFFFFF → attachedTo s e.fn e.sqe.nsid = false →
        exec (.flush d) s = .next (ioFail s d .invalidNamespaceOrFormat)) ∧
      (dkStart s d .datasetManagement = true → runsHere s d = true → e.sqe.ranges.length ≤ 256 →
        (e.sqe.flag = false → exec (.datasetManagement d) s = .next (ioOk (begun s d) d)) ∧
        (e.sqe.flag = true → (getNs s e.sqe.nsid).zoned = false → writesDegraded s e.sqe.nsid = false →
          exec (.datasetManagement d) s = .next (recordCommand (begun s d) d
            (((e.sqe.ranges.map (wholeUnits s e.sqe.nsid)).flatten).map (fun u => jrec 0x02 e.sqe.nsid u 1 0 0))))))

/-- R100 to R104: what each Zone Management Send action does in each zone state. R100 to R104, R132: a Zone
Management Send on one zone commits with the records of its action; Reset, Finish and Offline wait for a
fold row in flight; an action the zone's state forbids fails, and Report Zones answers with the zones'
descriptors. -/
def Obligations.ZonesFollowTheirStates : Prop :=
  (∀ (s : State) (nsid z : Nat),
      let v := getZone (newestMap s) nsid z
      let into (zs : Nat) : Except Status (List JRec) := .ok [zstateRec nsid z { v with zs := zs }]
      let bad : Except Status (List JRec) := .error .invalidZoneTransition
      (v.zs = 2 ∨ v.zs = 3 → zoneRecs s .zoneClose nsid z = into 4 ∧ zoneRecs s .zoneFinish nsid z = into 0xE ∧
        zoneRecs s .zoneReset nsid z = .ok (zstateRec nsid z Zone.empty :: unbindRecs (newestMap s) v) ∧
        zoneRecs s .zoneOffline nsid z = bad) ∧
      (v.zs = 4 → zoneRecs s .zoneClose nsid z = .ok [] ∧ zoneRecs s .zoneFinish nsid z = into 0xE ∧
        zoneRecs s .zoneReset nsid z = .ok (zstateRec nsid z Zone.empty :: unbindRecs (newestMap s) v)) ∧
      (v.zs = 1 → zoneRecs s .zoneReset nsid z = .ok [] ∧ zoneRecs s .zoneFinish nsid z = into 0xE ∧
        zoneRecs s .zoneClose nsid z = bad) ∧
      (v.zs = 0xE → zoneRecs s .zoneFinish nsid z = .ok [] ∧ zoneRecs s .zoneClose nsid z = bad ∧
        zoneRecs s .zoneReset nsid z = .ok (zstateRec nsid z Zone.empty :: unbindRecs (newestMap s) v)) ∧
      (v.zs = 0xD → zoneRecs s .zoneOffline nsid z =
          .ok (zstateRec nsid z { Zone.empty with zs := 0xF } :: unbindRecs (newestMap s) v) ∧
        zoneRecs s .zoneReset nsid z = bad ∧ zoneRecs s .zoneFinish nsid z = bad) ∧
      (v.zs = 0xF → zoneRecs s .zoneOffline nsid z = .ok [] ∧ zoneRecs s .zoneReset nsid z = bad ∧
        zoneRecs s .zoneClose nsid z = bad)) ∧
  (∀ (s : State) (d : Nat) (rs : List JRec) (st : Status), runsHere s d = true →
      let e := getDk s d
      let q := e.sqe
      let k := lbaSlots (getNs s q.nsid).lbaf
      let z := q.slba / (zoneSize / k)
      let u := begun s d
      let v := getZone (newestMap s) q.nsid z
      (q.flag = false → q.slba % (zoneSize / k) = 0 → q.slba < (getNs s q.nsid).nsze →
        let ends (i : Instr) (kind : IoKind) : Prop := dkStart s d kind = true →
          (zoneRecs s kind q.nsid z = .ok rs → exec i s = .next (recordCommand u d rs)) ∧
          (zoneRecs s kind q.nsid z = .error st → exec i s = .next (ioFail (begun s d) d st))
        let waits (i : Instr) (kind : IoKind) : Prop := dkStart s d kind = true →
          exec i s = .next (modDk u d (fun e => { e with foldWait := true }))
        ends (.zoneClose d) .zoneClose ∧
        (zoneFolding s q.nsid z = false →
          ends (.zoneFinish d) .zoneFinish ∧ ends (.zoneReset d) .zoneReset ∧ ends (.zoneOffline d) .zoneOffline) ∧
        (zoneFolding s q.nsid z = true →
          waits (.zoneFinish d) .zoneFinish ∧ waits (.zoneReset d) .zoneReset ∧ waits (.zoneOffline d) .zoneOffline) ∧
        (dkStart s d .zoneOpen = true →
          (v.zs = 3 → exec (.zoneOpen d) s = .next (recordCommand u d [])) ∧
          (v.zs = 2 → exec (.zoneOpen d) s =
            .next (recordCommand (append u [zstateRec q.nsid z { v with zs := 3 }]) d [])) ∧
          (v.zs = 0xE ∨ v.zs = 0xD ∨ v.zs = 0xF →
            exec (.zoneOpen d) s = .next (ioFail u d .invalidZoneTransition)))) ∧
      (q.flag = false → q.slba % (zoneSize / k) ≠ 0 → dkStart s d .zoneReset = true →
        exec (.zoneReset d) s = .next (ioFail u d .invalidField)) ∧
      (dkStart s d .zoneReport = true → sqeDw q 13 = 0 →
        let zs := (List.range (nsZones (getNs s q.nsid) - z)).map (· + z)
        exec (.zoneManagementReceive d) s = .next (ioDone u d .success 0 0 (.fields (("NZONES", zs.length) ::
          ((zs.take (((sqeDw q 12 + 1) * 4 - 64) / 64)).map (zoneFields s q.nsid)).flatten)))) ∧
      (dkStart s d .zoneReport = true → sqeDw q 13 % 256 ≠ 0 →
        exec (.zoneManagementReceive d) s = .next (ioFail u d .invalidField)))

/-- The reservation commands of NVMe 2.1 (log entry 5): who registers, acquires, preempts and releases, what
each type forbids whom, and that a command completes with what it changed. -/
def Obligations.ReservationsGuardTheirNamespace : Prop :=
  ∀ (s : State) (d : Nat) (act : ResvAction) (key : W64) (t : Nat),
    let e := getDk s d
    let fn := e.fn
    let n := getNs s e.sqe.nsid
    let me := hostKey s fn
    let known : Prop := (registrant s n fn).isSome = true
    let clear : Prop := heldByTakeover s e.sqe.nsid = false ∧ rekeying s e.sqe.nsid = false ∧ nsRefusal s e = none ∧
      forwards s e.sqe.nsid = false ∧ n.mirror = false ∧ e.sqe.dw ≠ []
    (¬ known → resvStep s n fn (.register key) = some { n with regs := n.regs ++ [⟨fn, me, key⟩], resvGen := n.resvGen + 1 } ∧
      resvStep s n fn (.acquire t) = none ∧ resvStep s n fn (.release t) = none ∧ resvStep s n fn .clear = none ∧
      resvStep s n fn .unregister = none) ∧
    (known → n.resvType = 0 → resvStep s n fn (.acquire t) = some { n with resvType := t, resvHolder := some me }) ∧
    (known → n.resvType ≠ 0 → holdsResv s n fn = false → resvStep s n fn (.acquire t) = none ∧
      resvStep s n fn (.release t) = some n) ∧
    (known → holdsResv s n fn = true → n.resvType ≠ 0 →
      resvStep s n fn (.release n.resvType) = some { n with resvType := 0, resvHolder := none }) ∧
    (known → resvStep s n fn .clear = some { n with regs := [], resvType := 0, resvHolder := none, resvGen := n.resvGen + 1 }) ∧
    (resvConflict s n fn false = true ↔ (n.resvType = 2 ∧ holdsResv s n fn = false) ∨
      ((n.resvType = 4 ∨ n.resvType = 6) ∧ ¬ known)) ∧
    (resvConflict s n fn true = true ↔ ((n.resvType = 1 ∨ n.resvType = 2) ∧ holdsResv s n fn = false) ∨
      (3 ≤ n.resvType ∧ n.resvType ≤ 6 ∧ ¬ known)) ∧
    (clear → ∀ m, resvStep s n fn act = some m → notice n m act = 0 → (∀ k j, act ≠ .preemptAbort k j) →
      resvTypeOk act = true →
      let u := setNs (begun s d) e.sqe.nsid m
      (isRegister act = true → dkStart s d .resvRegister = true → exec (.reservationRegister d act) s = .next (ioOk u d)) ∧
      (isAcquire act = true → dkStart s d .resvAcquire = true → exec (.reservationAcquire d act) s = .next (ioOk u d)) ∧
      (isRegister act = false → isAcquire act = false → dkStart s d .resvRelease = true →
        exec (.reservationRelease d act) s = .next (ioOk u d))) ∧
    (clear → resvStep s n fn act = none → resvTypeOk act = true → isAcquire act = true →
      dkStart s d .resvAcquire = true →
      exec (.reservationAcquire d act) s = .next (ioFail (begun s d) d .reservationConflict)) ∧
    (clear → dkStart s d .resvReport = true → exec (.reservationReport d) s =
      .next (ioDone (begun s d) d .success 0 0 (.bytes (resvStatus n))))

/-- R97, R130 to R134, R139, R150, R151: which relocation each kind of background work starts at its rank, with
the units and the words they hold now; a unit past MAXAGE is queued and folded with the rows that hold it; a
block read past its limit is queued for refresh at rank 8. R136, R137, Table 4.4: a copied unit lies at its
destination with its bytes and its seal, the records follow and the relocation waits for its erase, and zone
commands that waited for it go on; the source is erased once the records are durable and no read of it is
under way. -/
def Obligations.RelocationsCopyAndErase : Prop :=
  (∀ (s : State) (us : List UnitRef) (r : UnitRef) (g l b : Nat), mediaOpen s = true →
      let m := newestMap s
      let w := unitWord s m r
      let ws := withWords s us
      (s.media.readOnly = false →
        (foldMappedOk s us = true → rankOpen s (unitChannels ws) (foldRank s) = true → exec (.foldStart us false) s =
          .next (startReloc s { Reloc.empty with units := ws })) ∧
        (foldZoneOk s us = true → rankOpen s (unitChannels ws) (foldRank s) = true → exec (.foldStart us true) s =
          .next (startReloc s { Reloc.empty with kind := 1, units := ws })) ∧
        (rankOpen s (unitChannels ws) (foldRank s) = false → exec (.foldStart us false) s = .next s) ∧
        (mMapped w = true → mLanded w = true → beingMoved s r = false →
          (landedTime s w + landMaxAge s * 3600000 < s.nowMs → r ∉ s.media.foldQueue →
            let q : State := { s with media := { s.media with foldQueue := s.media.foldQueue ++ [r] } }
            (ageFold q r = none → exec (.foldMaxage r) s = .next q) ∧
            (∀ vs, ageFold q r = some vs → rankOpen q (unitChannels (withWords q vs)) 6 = true →
              exec (.foldMaxage r) s = .next (startReloc q
                { Reloc.empty with kind := b2n (getNs s r.nsid).zoned, units := withWords q vs }))) ∧
          (s.nowMs ≤ landedTime s w + landMaxAge s * 3600000 → exec (.foldMaxage r) s = .next s)) ∧
        (g < 14 → gcDue s g = true → rankOpen s ((List.range 32).map (· + 32 * g)) (gcRank s g) = true →
          gcVictim s g = some l → isPooled (getLot m l) = true → s.media.gcOn = [] →
          exec (.gcStart g) s = .next (startReloc { s with media := { s.media with gcOn := [g] } }
            { Reloc.empty with kind := 2, units := withWords s (lotContents m l), lot := some l })) ∧
        (gcDue s g = false → exec (.gcStart g) s = .next s)) ∧
      (s.media.readOnly = true → exec (.foldStart us false) s = .next s ∧ exec (.gcStart g) s = .next s) ∧
      ((getBlk s b).refresh ≠ 0 → s.media.relocs = [] → rankOpen s [b / 2 ^ 32] (getBlk s b).refresh = true →
        ((getBlk s b).pool ≠ 1 → lotWith m b = some l → lotInUse (getLot m l) = true → isPooled (getLot m l) = true →
          exec (.refreshStart b) s = .next (startReloc s
            { Reloc.empty with kind := 3, units := withWords s (lotContents m l), lot := some l, block := some b })) ∧
        ((getBlk s b).pool = 1 → completes (.refreshStart b) s (fun t => ∃ x, tabFind t.media.relocs 0 = some x ∧
          x.kind = 3 ∧ x.block = some b ∧ x.step = 1 ∧ ∀ u ∈ x.units, u.2 = unitWord s m u.1))) ∧
      ((getBlk s b).pool = 6 → dget s 0x4040 5 ≤ (getBlk s b).reads →
        completes (.readDisturbThreshold b) s (fun t =>
          (getBlk t b).refresh = (if (getBlk s b).refresh = 5 then 5 else 8) ∧ ∀ c, c ≠ b → getBlk t c = getBlk s c))) ∧
  (∀ (s : State) (k i j : Nat) (u : UnitRef × Nat) (p : Placement) (x : Slot) (ps : List Placement) (rd : List PageRead),
      let r := tabGet Reloc.empty s.media.relocs k
      let src := wordSlots s u.1 u.2
      let bs := relocBlocks s r
      let slots : List Nat := ((r.units.zip ps).map (fun x =>
        (List.range (wordSlots s x.1.1 x.1.2).length).map (· + x.2.addr))).flatten
      let c := relocCopied s k r ps rd
      (r.step = 1 → ps.length = r.units.length → (∀ x ∈ r.units.zip ps, destOk s r x.1 x.2 = true) → slots.Nodup →
        (r.dest.isSome = true ∨ r.kind = 1 ∨ rowsOk (newestMap s) ps = true) → rd.map (·.addr) = relocPages s r →
        (∀ x ∈ rd, pageOk s rd x = true) →
        exec (.relocationCopyDone k ⟨ps, rd⟩) s = .next (resumeHeld (settlePacing (resumeZones c))) ∧
        tabGet Reloc.empty c.media.relocs k = { r with step := 2, jsn := c.media.jsn }) ∧
      (i < src.length → tabGet none s.media.flash ((src[i]?).getD 0) = some x →
        tabGet none (copyUnit j s u p).media.flash (p.addr + i) =
          some { x with tag := if p.landed then x.tag.map (fun t => { t with ljsn := j }) else none }) ∧
      (∀ a, a < p.addr ∨ p.addr + src.length ≤ a →
        tabGet none (copyUnit j s u p).media.flash a = tabGet none s.media.flash a) ∧
      (r.step = 2 → r.jsn ≤ s.media.appliedJsn → r.lot = none → tailDone s = true → (∀ b ∈ bs, noReads s b = true) →
        (r.kind ≠ 5 ∨ bs ≠ []) → s.media.erasing = [] → exec (.sourceErase k) s = .next
          { s with media := { s.media with relocs := tabDrop s.media.relocs k, erasing := bs } }) ∧
      (r.step = 2 → s.media.appliedJsn < r.jsn ∨ tailDone s = false → exec (.sourceErase k) s = .next s))

/-- R118, R122, R124, R143 to R145: a block of landing that holds nothing is erased: its slots are empty, its
reads restart, its cycles count, and it stands in the pool that needs it; an erase that fails retires it.
R97, R139, R144, R147, R152: a failed channel is noted and warned of; a lost member is rebuilt in an erased
block of its channel, its lot degraded meanwhile, or its lot moves; the coldest block moves onto the most
worn free one and awaits its erase; a lot degraded for a day is warned of. -/
def Obligations.ErasesAndFailuresRetireBlocks : Prop :=
  (∀ (s : State) (b n : Nat),
      let x := getBlk s b
      let e : State := { s with media := { s.media with erasing := s.media.erasing.filter (· != b) } }
      let u := eraseBlock e b
      let v := retireBlock (bump e 0x4030 2 1) b
      let qlc := x.pool == 6 || x.pool == 8
      (eraseDue s b = true → reclaimLot s b = none →
        (retiresNow u b = false → exec (.flashEraseComplete b true n) s =
          .next (resumeHeld (settlePacing (spareWarnings (journalOp u []))))) ∧
        exec (.flashEraseComplete b false n) s = .next (resumeHeld (settlePacing (spareWarnings (journalOp v []))))) ∧
      (eraseDue s b = false → exec (.flashEraseComplete b true n) s = .next s ∧
        exec (.flashEraseComplete b false n) s = .next s) ∧
      getBlk u b = { x with pool := erasedPool e b, reads := 0, refresh := 0, open_ := false, eq := x.eq + b2n qlc, es := x.es + b2n (!qlc) } ∧
      (∀ a, addrBlock a = b → tabGet none u.media.flash a = none) ∧
      (∀ a, addrBlock a ≠ b → tabGet none u.media.flash a = tabGet none s.media.flash a) ∧
      (∀ c, c ≠ b → getBlk u c = getBlk s c) ∧ u.media.gdl = s.media.gdl ∧ b ∉ u.media.erasing ∧
      (s.media.gdl.contains b = false → (getBlk v b).pool = 7 ∧ v.media.gdl = s.media.gdl ++ [b])) ∧
  (∀ (s : State) (c l i b d : Nat) (m : Member),
      let x := getLot (newestMap s) l
      let ch := 32 * x.chgrp + i
      let old := memberBlock x i m
      let whole := (List.range 32).all (fun k => k == i || !memberGone s x k)
      (c < 448 → c ∉ s.media.failedCh → s.host.dockets = [] → s.host.admWait = [] →
        completes (.channelFailure c) s (fun t => t.media.failedCh = s.media.failedCh ++ [c] ∧
          bitOf t.host.smartWarn 2 = true)) ∧
      (c ∈ s.media.failedCh → exec (.channelFailure c) s = .next s) ∧
      (x.members[i]? = some m → lotInUse x = true → m.mstate = 2 → lotMoved s l = false → rankOpen s [ch] 8 = true →
        (b / 2 ^ 32 = ch → spare s b = true → whole = true →
          exec (.lotRebuild l i b) s = .next (settleLot (moveBlock (degradeLot s l i old) old b 6) l)) ∧
        (whole = false ∨ (sparesOn s ch = [] ∧ spare s b = false) →
          exec (.lotRebuild l i b) s = .next (moveLot s 4 l none))) ∧
      (let wear := (channelBlocks s c inService).map (wearFrac s)
       let movable := channelBlocks s c (fun x => x.pool == 1 || x.pool == 6)
       s.media.ready = true → dget s 0x4020 0xA < wear.foldl max 0 - wear.foldl min (wear.headD 0) →
       b ∈ movable → d / 2 ^ 32 = c → spare s d = true → (∀ y ∈ movable, wearFrac s b ≤ wearFrac s y) →
       (∀ y ∈ channelBlocks s c (fun x => x.pool == 0), spare s y = true → wearFrac s y ≤ wearFrac s d) →
       rankOpen s [c] 9 = true →
       completes (.wearSwap c b d) s (fun t => let u := moveBlock s b d (getBlk s b).pool
         { t with media := { t.media with relocs := u.media.relocs } } = u ∧
         ∃ k, tabFind u.media.relocs k = none ∧
           tabFind t.media.relocs k = some { Reloc.empty with kind := 5, block := some b, step := 2, jsn := u.media.jsn })) ∧
      (let at_ := tabGet 0 s.media.degradedAt l
       (getLot s.media.cur l).state = 4 → at_ ≠ 0 → at_ + 86400000 ≤ s.nowMs → l ∉ s.media.degraded24 →
       completes (.lotDegraded24h l) s (fun t => t.media.degraded24 = s.media.degraded24 ++ [l] ∧
         bitOf t.host.smartWarn 2 = true)))

/-- R281, R282, R288, R298, R300: a host's scan is accepted with the fields of its command and waits; the oldest
waiting scan takes the lowest free slot, clears its ring's header, or is refused for its descriptor with
code and offset; an LBA range outside the namespace is refused. R22, R60, R281, R290, R292, R295 to R297,
R301: what becomes of each granule of a running scan (its first page read commits a host's scan; a die with
records held back is not read), of a closed berth, of the host's CONSUMED, and of a scan that has handled
everything. -/
def Obligations.ScansRunToTheirEnd : Prop :=
  (∀ (s : State) (d i k : Nat) (b : List Byte),
      let e := getDk s d
      let q := e.sqe
      let dw (i : Nat) : Nat := ((q.dw[i]?).getD 0).toNat
      let slba := dw 0 + dw 1 * 2 ^ 32
      let n := getNs s q.nsid
      let u := unitLbas n.lbaf
      let ring := bitsOf (dw 4) 0 21 * 4096
      let len := (bitsOf (dw 5) 0 11 + 1) * 4096
      let out := q.dw2.toNat * 65536
      let lease := slmSize s (tenantOf e.fn)
      let clean : Prop := dw 3 ≤ 1 ∧ dw 4 < 2 ^ 22 ∧ dw 5 < 2 ^ 12 ∧ q.dw3 ≠ 0
      let x := getScan s i
      (dkStart s d .customsScan = true → clean → attachedTo s e.fn q.nsid = true → heldHere s q.nsid = true →
        (rekeying s q.nsid = true → exec (.customsScan d b) s = .next s) ∧
        (rekeying s q.nsid = false → slba + (dw 2 + 1) ≤ n.nsze → slba % u = 0 → (dw 2 + 1) % u = 0 → (dw 2 + 1) / u ≤ 2 ^ 32 → e.fn ≠ 0 →
          ring + len ≤ lease → out + q.dw3.toNat * 65536 ≤ lease →
          completes (.customsScan d b) s (fun t =>
            let y := getScan t s.customs.nextScan
            y.state = 1 ∧ y.fromHost = true ∧ y.owner = d ∧ y.space = tenantOf e.fn ∧ y.nsid = q.nsid ∧
            y.first = slba / u ∧ y.count = (dw 2 + 1) / u ∧ y.desc = b ∧ y.slmMode = true ∧
            y.nowait = bitOf (dw 3) 0 ∧ y.ringOff = ring ∧ y.ringLen = len ∧ y.outOff = out ∧
            y.outSlots = q.dw3.toNat ∧ t.customs.nextScan = s.customs.nextScan + 1 ∧
            (getDk t d).started = true ∧ (getDk t d).word = .admitted)) ∧
        (rekeying s q.nsid = false → n.nsze < slba + (dw 2 + 1) →
          exec (.customsScan d b) s = .next (ioFail s d .lbaOutOfRange))) ∧
      (dkStart s d .customsScan = true → rekeying s q.nsid = false → ¬ clean → exec (.customsScan d b) s = .next (ioFail s d .invalidField)) ∧
      ((s.customs.scans.find? (fun e => e.2.state == 1)).map Prod.fst = some i → s.host.activation = none →
        lowestFrom (fun k => !(slotsUsed s).contains k) 16 0 = some k →
        let bytes := 4096 * unitSlots (getNs s x.nsid).lbaf
        (descCheck x.desc bytes = none → completes (.scanSlotGrant i) s (fun t =>
          getScan t i = { x with state := 2, slot := k } ∧
          memRead t.prog.slm (slmAt s x.space + x.ringOff) 256 = List.replicate 256 0)) ∧
        (∀ off code, descCheck x.desc bytes = some (off, code) → exec (.scanSlotGrant i) s = .next (scanReport
          (setScan (bump s 0x7030 0x07 1) i Scan.empty) x 2 code (.vendor 0x86) (code + off * 65536) 0)))) ∧
  (∀ (s : State) (i g k : Nat) (ps : List PageRead) (r : ScanRest) (b : CBerth) (rest : List CBerth),
      let x := getScan s i
      let unit := x.first + g
      let lba := unit * unitLbas (getNs s x.nsid).lbaf
      let u := customsPage s i g ps
      let n := ps.foldl notePage (scanCommits s x)
      let handled (f : Scan → Scan) : Prop := u = modScan s i (fun y => { f y with done := g :: y.done })
      let bad (v : State) : Prop := u = modScan v i (fun y =>
        { y with unreadable := y.unreadable + 1, firstBad := min y.firstBad lba, done := g :: y.done })
      (x.state = 2 →
        (g < x.count → g ∉ x.done → s.host.activation = none →
          (restOf x g = some (k, r) → exec (.customsPage i g []) s = .next (settleAll (unitRun s i k r))) ∧
          (restOf x g = none → (pagesCome s x g ps = true → exec (.customsPage i g ps) s = .next (settleAll u)) ∧
            (pagesCome s x g ps = false → exec (.customsPage i g ps) s = .next s) ∧
            (∀ c, locate s x.nsid unit = .zeroes c → ps = [] → pagesCome s x g ps = !ringFull x ∧
              handled (fun y => { y with skipped := y.skipped + 1 })) ∧
            (∀ a, locate s x.nsid unit = .packed a → ps = [] → pagesCome s x g ps = !ringFull x ∧
              handled (fun y => { y with packed := y.packed + 1 })) ∧
            (locate s x.nsid unit = .uncorr → bad s) ∧
            (locate s x.nsid unit = .broken → bad (noteUnits s x.nsid [unit])) ∧
            (∀ a, locate s x.nsid unit = .stored a →
              (ringFull x = true ∨ quayOn s (addrQuay a) = false ∨ scanPaused x (addrQuay a) = true →
                exec (.customsPage i g ps) s = .next s) ∧
              ((∃ p ∈ ps, p.step = none) → bad n) ∧
              ((∀ p ∈ ps, p.step ≠ none) → dNoOut x.desc = true →
                let rs := (granuleRecords x.desc (unitData n x.nsid unit)).1
                (getScan u i).granules = x.granules + 1 ∧ (getScan u i).records = x.records + rs.length ∧
                (getScan u i).matched = x.matched + (rs.filter (recMatches x.desc)).length ∧
                (getScan u i).done = g :: x.done ∧
                (x.fromHost = true → (getDk s x.owner).word = .admitted → (getDk u x.owner).word = .committed))))) ∧
        (x.closed = b :: rest → ringFull x = false →
          let t := scanNotice s i b rest
          let place := if x.slmMode then x.outOff + x.produced % x.outSlots * 65536 else b.addr
          exec (.scanNotice i) s = .next (settleAll t) ∧
          getScan t i = { x with produced := x.produced + 1, closed := rest } ∧
          memRead t.prog.slm (slmAt s x.space + x.ringOff) 8 = leBytes 8 (x.produced + 1) ∧
          memRead t.prog.slm (slmAt s x.space + (x.ringOff + 256 + x.produced % ringEntries x * 8)) 8 =
            leBytes 8 (b.records + place * 65536) ∧
          (x.slmMode = false → (getBerth t b.addr).owner = x.owners.getLastD 0)) ∧
        exec (.scanRingPoll i) s = .next (setScan s i
          { x with consumed := recNat (memRead s.prog.slm (slmAt s x.space + (x.ringOff + 8)) 8) 0 8 }) ∧
        (granulesLeft x = [] → x.open_ = [] → x.closed = [] →
          exec (.scanEnd i) s = .next (settleAll (scanFinish s i 0 false))) ∧
        (granulesLeft x = [] → x.open_ ≠ [] → exec (.scanEnd i) s = .next (setScan s i
          { x with open_ := [], closed := x.closed ++ x.open_.map (fun e => { e.2 with last := true }) }))) ∧
      (x.state ≠ 2 → exec (.customsPage i g ps) s = .next s ∧ exec (.scanNotice i) s = .next s ∧
        exec (.scanRingPoll i) s = .next s ∧ exec (.scanEnd i) s = .next s))

/-- R309 to R311, R331: a lock request takes a free engine, is answered busy or joins the engine's FIFO; a
reserved engine is for control threads; an unlock of the holder gives the engine on; a request with an
invalid field is answered with code 2. R312 to R314, R328 to R336: a job of the lock's holder joins its
engine's queue, and is refused with the code of its table otherwise; the end of a job writes what it
produced to its destination, counts it and reports it. -/
def Obligations.EngineLocksAndJobs : Prop :=
  (∀ (s : State) (t : Nat) (r : List Byte) (f : Nat),
      let at_ := recNat r 8 8
      let e := recNat r 0 1
      let j : EJob := ⟨t, r⟩
      let able : Prop := (getThr s t).state ≠ 0 ∧ (getThr s t).state ≠ 5 ∧ domainOn s 1 = true ∧
        (65536 ≤ t ∨ (at_ % 8 = 0 ∧ at_ + 8 ≤ (getThr s t).winSize * 4096))
      let rules (lock unlock : Instr) (cip : Bool) : Prop :=
        let g := getEng s cip e
        let held (k : Nat) : State := setEng s cip k { (getEng s cip k) with holder := threadTag t }
        let answers (i : Instr) (u : State) (code k : Nat) : Prop := exec i s = .next (lockReply u cip j code k)
        (lockRecOk r false = true → e < 32 → mayLock s cip e t = true →
          (g.holder = 0 → answers lock (held e) 0 e) ∧
          (g.holder ≠ 0 → bitOf (recNat r 1 1) 0 = false → answers lock s 1 e) ∧
          (g.holder ≠ 0 → bitOf (recNat r 1 1) 0 = true → g.fifo.length < 256 →
            exec lock s = .next (setEng s cip e { g with fifo := g.fifo ++ [j] }))) ∧
        (lockRecOk r false = true → e < 32 → mayLock s cip e t = false → answers lock s 3 e) ∧
        (lockRecOk r false = true → e = 0xFF → freeEngine s cip = some f → answers lock (held f) 0 f) ∧
        (lockRecOk r false = false → answers lock s 2 e) ∧
        (lockRecOk r true = true → g.holder = threadTag t → g.jobs = [] → g.unlocks = [] →
          exec unlock s = .next (settleHarbour
            (engRelease (lockReply (setEng s cip e { g with unlocks := [j] }) cip j 0 e) cip e))) ∧
        (lockRecOk r true = true → g.holder ≠ threadTag t → answers unlock s 3 e) ∧
        (lockRecOk r true = false → answers unlock s 2 e);
      able → rules (.compressionLock t r) (.compressionUnlock t r) false ∧
        rules (.cipherLock t r) (.cipherUnlock t r) true) ∧
  (∀ (s : State) (t e : Nat) (r : List Byte) (j : EJob) (rest : List EJob),
      let able (at_ : Nat) : Prop := (getThr s t).state ≠ 0 ∧ (getThr s t).state ≠ 5 ∧ domainOn s 1 = true ∧
        (65536 ≤ t ∨ (at_ % 8 = 0 ∧ at_ + 16 ≤ (getThr s t).winSize * 4096))
      let c := getEng s false (cjEngine r)
      let k := getEng s true (ciEngine r)
      let none_ (code : Nat) : CProg := ⟨code, 0, 0, [], 0, 0⟩
      (let refuses (code : Nat) : Prop :=
          exec (.compressionJob t r) s = .next (compressionReply s ⟨t, r⟩ (none_ code));
        able (recNat r 32 8) → (cjInvalid s t r = true → refuses 2) ∧
        (cjInvalid s t r = false → c.holder ≠ threadTag t → refuses 3) ∧
        (cjInvalid s t r = false → c.holder = threadTag t → 4 ≤ c.jobs.length → refuses 6) ∧
        (cjInvalid s t r = false → c.holder = threadTag t → c.jobs.length < 4 → exec (.compressionJob t r) s =
          .next (setEng s false (cjEngine r) { c with jobs := c.jobs ++ [⟨t, r⟩] }))) ∧
      (let refuses (code : Nat) : Prop :=
          exec (.cipherJob t r) s = .next (cipherReply s ⟨t, r⟩ code 0 0 0);
        able (recNat r 56 8) → (ciInvalid s t r = true → refuses 2) ∧
        (ciInvalid s t r = false → k.holder ≠ threadTag t → refuses 3) ∧
        (ciInvalid s t r = false → k.holder = threadTag t → 4 ≤ k.jobs.length → refuses 6) ∧
        (ciInvalid s t r = false → k.holder = threadTag t → k.jobs.length < 4 → ciNoSlot s t r = true → refuses 7) ∧
        (ciInvalid s t r = false → k.holder = threadTag t → k.jobs.length < 4 → ciNoSlot s t r = false →
          exec (.cipherJob t r) s = .next (setEng s true (ciEngine r) { k with jobs := k.jobs ++ [⟨t, r⟩] }))) ∧
      ((getEng s false e).jobs = j :: rest → (getEng s false e).unlocks = [] →
        let sp := (getThr s j.thread).space
        let p := if cjInvalid s j.thread j.record then none_ 2 else
          compressionRun j.record (rangeRead s sp (cjSslm j.record) (cjSrc j.record) (cjSrcLen j.record))
        completes (.compressionJobEnd e) s (fun u => ∃ v, u = settleUnlock (compressionReply v j p) false e ∧
          rangeRead v sp (cjDslm j.record) (cjDst j.record) p.out.length = p.out ∧
          (getEng v false e).jobs = rest ∧ v.hm = s.hm ∧ v.ik = s.ik)) ∧
      ((getEng s true e).jobs = j :: rest → (getEng s true e).unlocks = [] →
        let u := setEng s true e { (getEng s true e) with jobs := rest }
        let size := (if ciCont j.record then ((getMsg s e).map (·.total)).getD 0 else 0) + ciPayload j.record
        let fresh := newMsg u (getThr s j.thread).space j.record
        let ends (v : State) : Prop := exec (.cipherJobEnd e) s = .next (settleUnlock v true e)
        (ciInvalid u j.thread j.record = true → ends (cipherReply u j 2 0 0 0)) ∧
        (ciInvalid u j.thread j.record = false → (cipherLimit < size → ends (cipherReply u j 4 0 0 0)) ∧
          (size ≤ cipherLimit → ciSequence (getMsg s e) j.record = true → ends (cipherReply u j 8 0 0 0)) ∧
          (size ≤ cipherLimit → ciSequence (getMsg s e) j.record = false →
            (∀ m, getMsg s e = some m → ends (cipherRun u e j m)) ∧
            (getMsg s e = none → ends (cipherRun u e j fresh))))))

/-- R305 to R308: the container of a block, at every block size, unpacks to the block it was made from. R329,
R335: what one AEAD kind of Table 12.4 enciphers under a key, nonce and position, it deciphers under the
same; the output is as long as the input. -/
def Obligations.ContainersAndCiphersRoundTrip : Prop :=
  (∀ (bsize : Nat) (l rest : List Byte), 12 ≤ bsize → bsize ≤ 20 → l ≠ [] → l.length ≤ 2 ^ bsize →
      unpack ((container bsize l).1 ++ rest) = .ok l (container bsize l).1.length (container bsize l).2) ∧
  (∀ (kind total : Nat) (key nonce text : List Byte), 1 ≤ kind → kind ≤ 3 →
      key.length = (if kind = 1 then 16 else 32) → nonce.length = 12 →
      aeadCrypt kind key nonce total (aeadCrypt kind key nonce total text) = text ∧
      (aeadCrypt kind key nonce total text).length = text.length)

/-- R306: a block is stored packed only where that is smaller, header and all, and otherwise raw; a job's output
is at most its source and 16 bytes a block. -/
def Obligations.BlocksArePackedOnlyWhenSmaller : Prop :=
  (∀ (bsize : Nat) (l : List Byte), l.length ≤ 2 ^ 20 →
    let c := container bsize l
    let stored := recNat c.1 8 4
    c.1.length = 16 + stored ∧
    (16 + (lz4Encode l).length < l.length → c.2 = false ∧ c.1.drop 16 = lz4Encode l ∧ recNat c.1 2 1 = 0) ∧
    (¬ 16 + (lz4Encode l).length < l.length → c.2 = true ∧ c.1.drop 16 = l ∧ recNat c.1 2 1 = 1 ∧ stored = l.length)) ∧
  (∀ r src : List Byte, cjOp r = 0 →
    (compressionRun r src).out.length ≤ src.length + 16 * (compressionRun r src).blocks)

/-- R345: a row holds a VALUE and a CARE bit for each of its key bits and a valid bit; an entry matches a key
when its rows are valid and every bit matches; a VALUE bit whose CARE bit is 0 is stored as 0. -/
def Obligations.TallyEntriesMatchByCareAndValue : Prop :=
  ∀ (s : State) (r : List Byte) (key k b : Nat), ldKind r = 0 →
    let i := ldIndex r
    let w := bankWidth s (i / 512)
    let row := getRow (ldApply s r) (i + k)
    let care (k b : Nat) : Bool := bitOf (part160 (ldCare r) k) b
    let value (k b : Nat) : Bool := bitOf (part160 (ldValue r) k) b
    (k < rowsPer w → row.valid = true ∧ (b < 160 → bitOf row.care b = care k b ∧
      bitOf row.value b = (care k b && value k b))) ∧
    (entryMatches (ldApply s r) w key i = true ↔
      ∀ k, k < rowsPer w → ∀ b, b < 160 → care k b = false ∨ bitOf (part160 key k) b = value k b) ∧
    (k < rowsPer w → (getRow s (i + k)).valid = false → entryMatches s w key i = false)

/-- R350, R352 to R355: a load changes the rows of its entry alone; a search of valid fields answers with the
word of the matches of its banks, a load with its code; each is counted, and a bank of another tenant is
refused with code 1. -/
def Obligations.TallyLoadsAndSearches : Prop :=
  ∀ (s : State) (t : Nat) (r : List Byte) (i : Nat),
    let th := getThr s t
    let at_ := recNat r 0 8
    let able : Prop := th.state ≠ 0 ∧ th.state ≠ 5 ∧ domainOn s 1 = true ∧
      (65536 ≤ t ∨ (at_ % 8 = 0 ∧ at_ + 8 ≤ th.winSize * 4096))
    let code (next : Bool) : Nat := searchCode s th.space (srFirst r) (srN r) (srClean s r next)
    let found (a : Option Nat) : Nat := searchWord (matchesOf s (srFirst r) (srN r) (srKey r) a) false
    let counted (c : Nat) : State := tallyCount s 1 c
    let powered := notePower (counted 0) (srFirst r) (srN r) (srKey r)
    let chan := recNat r 20 4
    (able →
      (srCascade r = false →
        (code false = 0 → exec (.tallySearchOp t r) s = .next (tallyReply powered t r chan (found none))) ∧
        (code true = 0 → exec (.tallyNext t r) s = .next (tallyReply powered t r chan (found (some (srStart r)))))) ∧
      (code false ≠ 0 → exec (.tallySearchOp t r) s = .next (tallyReply (counted (code false)) t r chan (code false))) ∧
      (code true ≠ 0 → exec (.tallyNext t r) s = .next (tallyReply (counted (code true)) t r chan (code true))) ∧
      (let c := ldCode s th.space [0, 1] r
       (c = 0 → exec (.tallyLoadOp t r) s = .next (tallyReply (ldApply (tallyCount s 2 0) r) t r (recNat r 16 4) 0)) ∧
       (c ≠ 0 → exec (.tallyLoadOp t r) s = .next (tallyReply (tallyCount s 2 c) t r (recNat r 16 4) c))) ∧
      (let c := ldCode s th.space [2] r
       (c = 0 → exec (.tallyInvalidate t r) s = .next (tallyReply (ldApply (tallyCount s 2 0) r) t r (recNat r 16 4) 0)) ∧
       (c ≠ 0 → exec (.tallyInvalidate t r) s = .next (tallyReply (tallyCount s 2 c) t r (recNat r 16 4) c)))) ∧
    (ldKind r = 0 → (i < ldIndex r ∨ ldIndex r + rowsPer (bankWidth s (ldIndex r / 512)) ≤ i →
      getRow (ldApply s r) i = getRow s i)) ∧
    (ldKind r = 2 → (ldIndex r ≤ i → i < ldIndex r + ldRows r → getRow (ldApply s r) i = Row.empty) ∧
      (i < ldIndex r ∨ ldIndex r + ldRows r ≤ i → getRow (ldApply s r) i = getRow s i)) ∧
    (bankOk s th.space (srFirst r) = false → srN r ≠ 0 → ∀ next, code next = 1)

/-- R356 to R360, R472 to R475: the host's Tally Load and Tally Search within its lease, the frames of the
cascade, and the state of its lines. R473, R474: a request frame made for a search of these fields is taken,
resolved against the banks it names, and answered under its tag with the word of the matches. -/
def Obligations.TallyHostCommandsAndCascade : Prop :=
  (∀ (s : State) (d tag : Nat) (ws : List W64) (c : Cascade),
      let e := getDk s d
      let n := tcCount e
      let h := ((ws[0]?).getD 0).toNat
      let w := ((ws[1]?).getD 0).toNat
      (dkStart s d .tallyLoad = true → bitsOf (ioDw e 2) 16 31 = 0 →
        (ioLease s e < tcSrc e + 184 * n → exec (.tallyLoad d) s = .next (ioFail s d (.vendor 0x82))) ∧
        (tcSrc e + 184 * n ≤ ioLease s e →
          ((loadRecords e n 0 s).2.2 = 0 → exec (.tallyLoad d) s = .next (ioOk (loadRecords e n 0 s).1 d)) ∧
          ((loadRecords e n 0 s).2.2 = 2 → exec (.tallyLoad d) s =
            .next (ioDone (loadRecords e n 0 s).1 d .invalidField (loadRecords e n 0 s).2.1 0 .none)))) ∧
      (dkStart s d .tallySearch = true → bitsOf (ioDw e 2) 16 31 = 0 → ioDw e 4 < 2 ^ 19 → 1 ≤ tsN e → tsN e ≤ 256 →
        let kb := tsKeyBytes s e * n
        let ends (u : State) : Prop := exec (.tallySearch d) s = .next (settleAll u)
        let go (u : State) : State := searchKeys d n 0 (modDk (stageKeys u (getDk u d) kb) d
          (fun e => { e with started := true, word := .committed }))
        let none_ : Bool := bitOf (ioDw e 4) 18 && decide (freeCountOf s true = 0)
        (tcSrc e + kb ≤ ioLease s e → tsRes e + 8 * n ≤ ioLease s e →
          (e.berths ≠ [] → ends (go s)) ∧
          (e.berths = [] → none_ = true → ends (ioFail (countCode s 1) d (.vendor 0x81))) ∧
          (e.berths = [] → none_ = false → ownAsked s (dkReq e d) ≠ 0 → ends s) ∧
          (e.berths = [] → none_ = false → ownAsked s (dkReq e d) = 0 →
            ((getDk (dkAsk s d) d).berths = [] → ends (dkAsk s d)) ∧
            ((getDk (dkAsk s d) d).berths ≠ [] → ends (go (dkAsk s d))))) ∧
        (ioLease s e < tsRes e + 8 * n → ends (ioFail s d (.vendor 0x82)))) ∧
      (domainOn s 1 = true → completes .tallyMiUp s (fun t => t.tally.miUp = true ∧ dget t 0x7070 7 = 1)) ∧
      (completes .tallyMiDown s (fun t => t.tally.miUp = false ∧ dget t 0x7070 7 = 0)) ∧
      (s.tally.miUp = true → domainOn s 1 = true →
        (frameOk ws = false → exec (.cascadeRequest ws) s = .next (bump s 0x7070 8 1) ∧
          exec (.cascadeResult ws) s = .next (bump s 0x7070 8 1)) ∧
        (frameOk ws = true → ws.length = 3 → h = 3 + bitsOf h 36 47 * 2 ^ 36 → w % 2 ^ 4 = 0 → w / 2 ^ 6 % 4 = 0 →
          w / 2 ^ 16 % 2 ^ 16 = 0 → w < 2 ^ 50 → s.tally.waiting.find? (fun c => c.tag == bitsOf h 36 47) = some c →
          exec (.cascadeResult ws) s = .next (settleAll (cascadeDone s c (mergeWords c.local_ w))))) ∧
      (s.tally.waiting.find? (fun c => c.tag == tag) = some c →
        exec (.cascadeTimeout tag) s = .next (settleAll (cascadeDone (bump s 0x7070 4 1) c (c.local_ + 64))))) ∧
  (∀ (s : State) (space tag first n key : Nat), s.tally.miUp = true → domainOn s 1 = true → space ≤ 1024 →
      tag < 4096 → first < 256 → 1 ≤ n → n ≤ 256 → bankWidth s first < 3 → key < 2 ^ keyBits (bankWidth s first) →
      searchCode s space first n true = 0 →
      completes (.cascadeRequest (requestFrame space tag (bankWidth s first) first n key none)) s (fun t =>
        t.out = .cascade (cascadeFrame [BitVec.ofNat 64 (3 + tag * 2 ^ 36),
          BitVec.ofNat 64 (searchWord (matchesOf s first n key none) false)]) :: s.out))

/-- R364 to R366, Table 14.2, R381, R383: each Pair Control operation has its effect on the pair record, or is
refused with its reason. -/
def Obligations.PairControlOperations : Prop :=
  ∀ (s : State) (a : Adm) (rest : List W32) (p : PartnerInfo), adminOpen s a.fn = true → s.power.recovery = false →
    a.fn = 0 → (∀ w ∈ rest, w = 0) →
    let refuses (i : Instr) (reason : Nat) : Prop := exec i s = .next (adminDone s a .commandSequenceError reason .none)
    let record (t : State) (state role epoch setter : Nat) : Prop := t.pair.state = state ∧ pairRole t = role ∧
      pairEpoch t = epoch ∧ pairSetter t = setter
    (s.pair.state ≠ 0 ∨ p.single = false → refuses (.pairForm a 1 rest p) 1) ∧
    (s.pair.state = 0 → p.single = true → linkUp s = false ∨ s.pair.aliveIn = false ∨ p.accept = false →
      refuses (.pairForm a 1 rest p) 2) ∧
    (s.pair.state = 0 → p.single = true → linkUp s = true → s.pair.aliveIn = true → p.accept = true →
      s.eng.moduleKey = none ∨ p.kcv ≠ some (dget s 0x7050 3) → refuses (.pairForm a 1 rest p) 3) ∧
    (∀ r, formRefusal s p = some r → refuses (.pairForm a 1 rest p) r) ∧
    (formRefusal s p = none → completes (.pairForm a 1 rest p) s (fun t => record t 1 1 1 1 ∧ t.pair.stale = [] ∧
      t.pair.split = false ∧ ∀ e ∈ t.media.cur.nss, e.2.mirror = false ∧ e.2.home = 0)) ∧
    (s.pair.state ≠ 1 → refuses (.pairDissolve a 2 rest) 1) ∧
    (s.pair.state = 1 → (∃ n ∈ nsids s, (getNs s n).mirror = true) → refuses (.pairDissolve a 2 rest) 7) ∧
    (s.pair.state = 1 → (∀ n ∈ nsids s, (getNs s n).mirror = false) →
      completes (.pairDissolve a 2 rest) s (fun t => record t 0 0 0 0)) ∧
    (s.pair.state = 0 → refuses (.pairFence a 3 rest) 1) ∧
    (s.pair.state ≠ 0 → completes (.pairFence a 3 rest) s (fun t => t.pair.fenceOut = true)) ∧
    (s.pair.fenceOut = false → refuses (.pairRelease a 4 rest) 1) ∧
    (s.pair.fenceOut = true → exec (.pairRelease a 4 rest) s =
      .next (adminOk { s with pair := { s.pair with fenceOut := false } } a)) ∧
    (s.pair.state ≠ 2 ∨ s.pair.taking ≠ none → refuses (.pairTakeover a 5 rest) 1) ∧
    (s.pair.state = 2 → s.pair.taking = none → s.pair.aliveIn = true → refuses (.pairTakeover a 5 rest) 8) ∧
    (s.pair.state = 2 → s.pair.taking = none → s.pair.aliveIn = false → s.pair.awaiting = [] → pairRole s = 1 →
      completes (.pairTakeover a 5 rest) s (fun t => record t 3 1 (pairEpoch s + 1) 1 ∧ t.pair.stale = [] ∧
        t.pair.fenceOut = true ∧ t.pair.taking = none)) ∧
    (s.pair.split = false → s.pair.stale = [] → refuses (.pairYield a 6 rest) 8) ∧
    (s.pair.split = true ∨ s.pair.stale ≠ [] → completes (.pairYield a 6 rest) s (fun t =>
      t.pair.yielded = true ∧ t.pair.split = false ∧ pairEpoch t = 0 ∧ pairSetter t = 0 ∧ t.pair.stale = mirroredNs s)) ∧
    (∀ op : W32, op = 0 ∨ op = 7 → exec (.pairForm a op rest p) s = .next (adminFail s a .invalidField))

/-- R367 to R369, R372, R471: a flit the sender built is taken in its order and joins its message, any other is
discarded and counted; acknowledged flits are let go and the others resent in order; the messages of a lost
sub-link go whole on the other; sub-links train, and BEATs go out and arrive. -/
def Obligations.FlitsAreSequencedAndResent : Prop :=
  ∀ (s : State) (k ack : Nat) (b : List Byte) (f : HFlit) (pre post : List HFlit) (h : MsgHdr),
    let l := getSub s k
    let drops (b : List Byte) : Prop := exec (.flitReceive k b) s = .next (bump s 0x8010 4 1)
    let trained := setSub s k { SubLink.down with up := true }
    (subUp s k = true →
      (flitFormed b = false → drops b) ∧
      (recNat b 0 1 = 1 → recNat b 4 4 ≠ (l.recvSeq + 1) % 2 ^ 32 → drops b) ∧
      (ack < 2 ^ 32 → (∀ x ∈ l.held, x.fseq ≠ ack) → f.payload ≠ [] → f.payload.length ≤ 240 → f.eom = false →
        f.fseq = (l.recvSeq + 1) % 2 ^ 32 → completes (.flitReceive k (flitBytes ack f)) s (fun t =>
          t = setSub (noteValid s) k { l with recvSeq := f.fseq, inbox := (if f.som then [] else l.inbox) ++ f.payload })) ∧
      (flitFormed b = true → recNat b 0 1 = 0 → l.held = pre ++ f :: post → l.queue = [] → f.fseq = recNat b 248 4 →
        (∀ x ∈ pre, x.fseq ≠ f.fseq) → completes (.flitReceive k b) s (fun t =>
          (getSub t k).held = post ∧ (getSub t k).recvSeq = l.recvSeq ∧ (getSub t k).inbox = l.inbox ∧ t.out = s.out)) ∧
      (l.held ≠ [] → completes (.flitReplay k) s (fun t =>
        t.out = (l.held.map (fun f => Out.flit k (flitBytes l.recvSeq f))).reverse ++ s.out ∧ getSub t k = l)) ∧
      ((getSub s (1 - k)).up = true → completes (.sublinkLoss k) s (fun t => (getSub t k).up = false ∧
        (getSub t k).held = [] ∧ (getSub t (1 - k)).msgs = (getSub s (1 - k)).msgs ++ l.msgs ∧
        t.pair.state = s.pair.state)) ∧
      (bodyOk h b 8 5 8 = true → fresh s h = true → completes (.beat k h b) s (fun t =>
        t.media.partnerAck = max s.media.partnerAck h.aux64 ∧ t.pair.mseqIn = h.seq :: s.pair.mseqIn ∧
        t.pair.lastFlit = s.nowMs))) ∧
    (canTrain s k = true →
      (linkUp s = true → exec (.sublinkTrained k) s = .next trained ∧ exec (.sublinkTrainRetry k true) s = .next trained) ∧
      (linkUp s = false → let u := { trained with pair := { trained.pair with mseqIn := [] } }
        (pairRole s = 0 → exec (.sublinkTrained k) s = .next u) ∧
        (pairRole s ≠ 0 → exec (.sublinkTrained k) s = .next (sendHello u)))) ∧
    exec (.sublinkTrainRetry k false) s = .next s ∧
    (linkUp s = true → s.pair.state ≠ 4 → exec .beatSend s = .next (sendBeat s)) ∧
    (sendBeat s).media.peerBeat = s.media.peerJsn

/-- R369, R371, R375 to R377, R384: a message of the partner with a wrong length or reserved bytes is discarded
and counted, one applied before is discarded, and any other has the effect of its type. -/
def Obligations.PartnerMessagesAreHandled : Prop :=
  ∀ (s : State) (k d d2 : Nat) (h : MsgHdr) (b data : List Byte) (q : Sqe) (st : Status) (w0 w1 : W32) (a : Adm)
    (dn : StateDone) (us : UnitRef),
    let v := seen (noteValid s) h
    let empty : Prop := h.len = 0 ∧ b = []
    let late (i : Instr) : Prop := fresh s h = false → exec i s = .next (noteValid s)
    let bad (i : Instr) : Prop := exec i s = .next (badFlit (noteValid s))
    subUp s k = true →
      (¬ empty → bad (.mack k h b) ∧ bad (.sack k h b) ∧ bad (.fwdabt k h b) ∧ bad (.rsack k h b)) ∧
      (mwriteFormed s h b = false → bad (.mwrite k d h b)) ∧
      (h.len ≠ b.length → bad (.jrec k h b) ∧ bad (.rscopy k h b)) ∧ (stateFormed h b = false → bad (.state k h b)) ∧
      (h.len ≠ 64 + data.length → bad (.fwdcmd k d h q data)) ∧
      (h.len ≠ 16 + data.length → bad (.fwdcpl k h st w0 w1 data)) ∧ (2 ≤ h.aux32 → bad (.fwdabtr k h b)) ∧
      (empty → late (.mack k h b) ∧ late (.sack k h b) ∧ late (.fwdabt k h b) ∧ late (.rsack k h b)) ∧
      (mwriteFormed s h b = true → late (.mwrite k d h b)) ∧ (stateFormed h b = true → late (.state k h b)) ∧
      (fresh s h = true →
        (mwriteFormed s h b = true → mwriteSqe h b = some q → canAdmit s d q = true → (getNs s h.nsid).mirror = true →
          exec (.mwrite k d h b) s = .next (runFromPartner (modDk (openDocket v d 4500 0 0 q) d
            (fun e => { e with mirrorOf := some h.seq, data := b.drop 32 })) d)) ∧
        (empty → s.pair.awaiting.find? (fun x => x.1 == h.aux64) = some (h.aux64, d) →
          let u := modDk { v with pair := { v.pair with awaiting := s.pair.awaiting.filter (fun x => x.1 != h.aux64) } } d
            (fun e => { e with acked := true })
          exec (.mack k h b) s = .next (takeoverEnd (if commitReady u d then writeCommit u d else u))) ∧
        (bodyOk h b (16 + 32 * h.aux32) 8 16 = true → s.pair.state ≠ 0 → (∀ r ∈ jrecs h b, 1 ≤ r.typ ∧ r.typ ≤ 4) →
          s.media.peerLog.length ≤ peerRecs →
          completes (.jrec k h b) s (fun t =>
            (let l := s.media.peerLog ++ jrecs h b
             t.media.peerLog = l.drop (l.length - peerRecs)) ∧
            (s.media.peerLog.length + (jrecs h b).length ≤ peerRecs → t.media.peerLost = s.media.peerLost) ∧
            t.media.peerJsn = (jrecs h b).foldl (fun m r => max m r.jsn) s.media.peerJsn ∧ t.media.cur = s.media.cur)) ∧
        (stateFormed h b = true → s.pair.state ≠ 0 → (getNs s h.nsid).live = true → h.aux32 = 6 ∨ h.aux32 = 2 →
          completes (.state k h b) s (fun t =>
            (h.aux32 = 6 → (getNs t h.nsid).compress = bitOf (recNat b 0 4) 0) ∧
            (h.aux32 = 2 → ∀ mk key, s.eng.moduleKey = some mk → keyUnwrap mk (b.drop 8) = some key →
              (getNs t h.nsid).keyGen = recNat b 0 8 ∧ tabGet [] t.media.nsKeys h.nsid = key) ∧
            t.pair.mseq = s.pair.mseq + 1)) ∧
        (empty → s.pair.states.find? (fun x => x.1 == h.aux64) = some (h.aux64, dn) →
          exec (.sack k h b) s = .next (finishState
            { v with pair := { v.pair with states := s.pair.states.filter (fun x => x.1 != h.aux64) } } dn)) ∧
        (h.len = 64 + data.length → q.nsid = h.nsid → canAdmit s d q = true →
          exec (.fwdcmd k d h q data) s = .next (runFromPartner (modDk (openDocket v d (5000 + h.aux32) 0 0 q) d
            (fun e => { e with remote := some h.aux64, data := data })) d)) ∧
        (h.len = 16 + data.length → s.pair.fwd.find? (fun x => x.1 == h.aux64) = some (h.aux64, d) → dkUsed s d = true →
          let u := { v with pair := { v.pair with
            fwd := s.pair.fwd.filter (fun x => x.1 != h.aux64), cancels := s.pair.cancels.filter (fun c => c.1 != h.aux64) } }
          let asked := forwardedStatus s h.aux64 st
          exec (.fwdcpl k h st w0 w1 data) s =
            .next (flushCheck (ioDone (countCancelled u d asked) d asked w0.toNat w1.toNat (bytesOr data)))) ∧
        (∀ x, s.pair.cancels.find? (fun c => c.1 == h.aux64) = some (h.aux64, some x) →
          forwardedStatus s h.aux64 .abortRequested = x) ∧
        (empty → s.host.dockets.find? (fun e => e.2.remote == some h.aux64) = some (d2, getDk s d2) →
          ((getDk s d2).word = .admitted →
            exec (.fwdabt k h b) s = .next (hawSend (dkAbort v d2 .abortRequested) 0x33 h.nsid 0 h.aux64 [])) ∧
          ((getDk s d2).word ≠ .admitted → exec (.fwdabt k h b) s = .next (hawSend v 0x33 h.nsid 1 h.aux64 []))) ∧
        (empty → h.aux32 < 2 → ∀ left, let u := { v with pair := { v.pair with aborts := left } }
          (takeFirst (fun x => x.1 == h.aux64) s.pair.aborts = some ((h.aux64, some a), left) →
            exec (.fwdabtr k h b) s = .next (adminDone u a .success h.aux32 .none)) ∧
          (takeFirst (fun x => x.1 == h.aux64) s.pair.aborts = some ((h.aux64, none), left) →
            exec (.fwdabtr k h b) s = .next u)) ∧
        (rscopyFormed s h b = true → s.pair.state = 4 → (getNs s h.nsid).mirror = true → (getNs s h.nsid).zoned = false →
          h.aux32 + 1 = unitLbas (getNs s h.nsid).lbaf → exec (.rscopy k h b) s =
            .next (hawSend (landCopy v h.nsid (h.aux64 / (h.aux32 + 1)) b) 0x41 h.nsid 0 h.seq [])) ∧
        (empty → s.pair.copies.find? (fun x => x.1 == h.aux64) = some (h.aux64, us) →
          exec (.rsack k h b) s = .next (settleCopies (clearMarks
            { v with pair := { v.pair with copies := s.pair.copies.filter (fun x => x.1 != h.aux64) } } [us]))))

/-- R365, R382, R384, Table 14.8: what the HELLO of the partner decides: a formation, a dissolution, a refusal
to rejoin, which module is current for which namespaces, a split, or the end of the copies (log entry 47).
R373, R374, R378 to R381, R386: the alive line and its fault, the fence after its delay, the automatic
fence, and a lone start with the stale marks of the state before. -/
def Obligations.RejoinAliveAndFence : Prop :=
  (∀ (s : State) (k : Nat) (h : MsgHdr) (b : List Byte), subUp s k = true → helloFormed h b = true →
      fresh s h = true →
      let v := seen (noteValid s) h
      let does (t : State) : Prop := exec (.hello k h b) s = .next t
      let epoch := recNat b 36 4
      let setter := recNat b 40 1
      let mine := recNat b 0 16 = dget s 0x8000 0xA
      let they := bitOf (recNat b 42 1) 1
      let ms := mirroredNs s
      (s.pair.state = 0 → h.aux32 = 1 → epoch = 1 → dget s 0x8000 3 = 1 → s.eng.moduleKey ≠ none →
        helloMatches s h b = true → cleanForB s = true → does (formPair v 2 (recNat b 0 16) (recNat b 16 8))) ∧
      (s.pair.state = 1 → h.aux32 = 0 → epoch = 0 → mine → does (dissolvePair v)) ∧
      (s.pair.state = 4 → recNat b 41 1 ≠ 4 → does v) ∧
      (s.pair.state = 4 → recNat b 41 1 = 4 →
        let u := reAna v (fun t => { t with pair := { t.pair with stale := [], peerEpoch := epoch, peerSetter := setter } })
        does (if s.pair.copying = [] then inStep u else u)) ∧
      (s.pair.state = 2 ∨ s.pair.state = 3 →
        (¬ mine ∨ helloMatches s h b = false → does { v with pair := { v.pair with refused := true } }) ∧
        (mine → helloMatches s h b = true →
          (epoch < pairEpoch s → does (rejoin v ms epoch setter they)) ∧
          (pairEpoch s < epoch → does (rejoin v [] epoch setter they)) ∧
          (epoch = pairEpoch s → setter = pairSetter s →
            does (rejoin v (ms.filter (fun n => (getNs s n).home = 0)) epoch setter they)) ∧
          (epoch = pairEpoch s → setter ≠ pairSetter s → completes (.hello k h b) s (fun t =>
            t.pair.split = true ∧ t.pair.state = s.pair.state ∧
            t.pair.stale = if pairRole s = 2 then ms else s.pair.stale))))) ∧
  (∀ s : State,
      let p := s.pair
      let last := dget s 0x8000 9
      (p.aliveIn = true → p.aliveFault = false → exec .aliveInLow s = .next (partnerLost { s with pair := { p with aliveIn := false } }) ∧
        (linkUp s = true ∨ p.state = 0 ∨ p.state = 3 →
          exec .aliveInLow s = .next { s with pair := { p with aliveIn := false } }) ∧
        (linkUp s = false → p.state = 1 → s.power.bootWait ≠ 3 → dget s 0x8000 4 ≠ 1 →
          completes .aliveInLow s (fun t => t.pair.state = 2 ∧ t.pair.fwd = [] ∧ t.pair.fenceOut = p.fenceOut))) ∧
      (p.aliveIn = false → p.aliveFault = false → linkUp s = true → completes .aliveFault s (fun t =>
        t.pair = { p with aliveFault := true } ∧ dget t 0x8010 7 = (dget s 0x8010 7 + 1) % counterMax 0x8010 7)) ∧
      (p.aliveIn = false ∨ p.aliveFault = true →
        exec .aliveInHigh s = .next { s with pair := { p with aliveIn := true, aliveFault := false, aliveAt := s.nowMs } }) ∧
      (∀ r, p.taking = some r → s.nowMs < r.time + 5 → exec .fenceDelayExpiry s = .next s) ∧
      (∀ r, p.taking = some r → r.time + 5 ≤ s.nowMs → pairRole s = 2 → p.fenceOut = false → p.awaiting = [] → completes .fenceDelayExpiry s (fun t =>
        t.pair.fenceOut = true ∧ t.pair.taking = none ∧ pairEpoch t = pairEpoch s + 1 ∧ pairSetter t = 2 ∧
        t.pair.state = if p.stale = [] ∨ p.takeAdm ≠ none then 3 else 2)) ∧
      (let due := max p.lastChange p.aliveAt + dget s 0x8000 5 + (if pairRole s = 2 then 5 else 0)
       p.state = 2 → p.aliveIn = true → dget s 0x8000 5 ≠ 0 → p.fenceOut = false → s.power.bootWait = 0 →
        (due ≤ s.nowMs → exec .autoFence s = .next { s with pair := { p with fenceOut := true } }) ∧
        (s.nowMs < due → exec .autoFence s = .next s)) ∧
      (s.power.bootWait = 3 → linkUp s = false → p.aliveIn = false → p.lastChange + 10000 ≤ s.nowMs → last ≠ 3 →
        completes .loneStart s (fun t =>
        t.pair.state = 2 ∧ t.power.bootWait = 0 ∧ t.pair.stale =
          if last = 1 ∨ last = 2 then (mirroredNs s).filter (fun n => (getNs s n).home ≠ 0) else mirroredNs s)))

/-- R436 to R440, R447, R448, R454, Table 17.4: a write of a dictionary entry aborts with the first code it
meets and changes nothing, or the entry holds the value and the access answers; the entries that are
commands do what they say; a line within 1,024 writes of its rating passes to a spare line, which has no
wear (log entry 34). -/
def Obligations.DictionaryEntriesTakeWhatIsWritten : Prop :=
  ∀ (s : State) (p : Path) (i sub k t : Nat) (data : List Byte), pathUp s p = true →
    let v := ofLe data
    let abort (i sub : Nat) : Option Nat := writeAbort s p i sub data
    let worn (i sub : Nat) := wornEntry s i sub v ((dictRow i sub).any (·.pers))
    let said (u : State) (i sub : Nat) : Prop := ∃ l, u.out = .access p i sub 0 [] :: l
    let refused (x : Instr) (i sub : Nat) : Prop :=
      ∀ c, abort i sub = some c → exec x s = .next (emit s (.access p i sub c []))
    let does (x : Instr) (i sub : Nat) (P : State → Prop) : Prop := refused x i sub ∧
      (abort i sub = none → worn i sub = none → completes x s (fun u => P u ∧ said u i sub))
    let sets (x : Instr) (i sub : Nat) : Prop := does x i sub (fun u => dget u i sub = v)
    (¬ (i = 0x1100 ∧ sub = 4) → ¬ (i = 0x2000 ∧ sub = 8) → ¬ (i = 0x7010 ∧ sub = 7) → ¬ (0x6000 ≤ i ∧ i < 0x6400) →
      sets (.dictionaryWrite p i sub data) i sub ∧ sets (.calibrationWrite p i sub data) i sub) ∧
    (k < 24 → sets (.pilotParameterWrite p k sub data) (0x2100 + k) sub ∧ sets (.rate p k data) (0x2100 + k) 2 ∧
      sets (.enable p k data) (0x2100 + k) 1) ∧
    sets (.hbPeriodMs p data) 0x1100 2 ∧ sets (.nsidHalf p data) 0x8000 0x0B ∧
    (t < 1024 → sets (.port p t data) (0x6000 + t) 1) ∧ sets (.landingPolicy p 1 data) 0x4010 1 ∧
    sets (.landingPolicy p 2 data) 0x4010 2 ∧ sets (.landingPolicy p 3 data) 0x4010 3 ∧
    sets (.landingPolicy p 4 data) 0x4010 4 ∧ sets (.wpEngines p data) 0x7040 1 ∧ sets (.fwEngines p data) 0x7050 1 ∧
    sets (.opCap p data) 0x2300 1 ∧ sets (.quayEnable p data) 0x2300 3 ∧ sets (.clusterEnable p data) 0x2300 4 ∧
    sets (.refclkMode p data) 0x3000 3 ∧ (k < 2 → sets (.plcaWrite p k sub data) (0x1110 + k) sub) ∧
    sets (.dredgeEnable p data) 0x9000 1 ∧
    does (.pathWrite p data) 0x1100 4 (fun u => dget u 0x1100 4 = v % 8 + 8) ∧
    does (.calReseed p data) 0x2000 8 (fun u => v = 1 →
      u.power.calGeneric = true ∧ u.power.calUnstored = false ∧ dget u 0x2000 7 = 2) ∧
    does (.clearLow p data) 0x7010 7 (fun u => v = 1 →
      u.pool.nearLow = (if domainOn s 2 then dictValue s 0x7010 1 else s.pool.nearLow) ∧ u.pool.farLow = dictValue s 0x7010 2) ∧
    (t < 1024 → sub ∈ [2, 3, 4, 5, 6, 0xC, 0xD] → s.pair.state ≠ 1 → s.pair.state ≠ 4 →
      let e (j : Nat) := dget s (0x6000 + t) j
      e 2 ≤ 256 → e 3 ≤ 255 → e 0xC ≤ 255 → e 0xD ≤ 256 → refused (.leaseEntryWrite p t sub data) (0x6000 + t) sub ∧
      (∀ kind, leaseKind sub = some kind → leaseWorn s t kind (leaseWith s t sub v) = none → abort (0x6000 + t) sub = none →
        completes (.leaseEntryWrite p t sub data) s (fun u => dget u (0x6000 + t) sub = v ∧ said u (0x6000 + t) sub))) ∧
    (∀ line, 200000000 - 1024 ≤ tabGet 0 s.logbook.wear line → 0 < s.logbook.spares →
      completes (.logbookLineRemap line) s (fun u => u.logbook.spares = s.logbook.spares - 1 ∧
        tabGet 0 u.logbook.remap line = 4097 - s.logbook.spares ∧ tabGet 0 u.logbook.wear line = 0 ∧
        (∀ l, l ≠ line → tabGet 0 u.logbook.wear l = tabGet 0 s.logbook.wear l)))

/-- R78, R79, R440, R442 to R445: reads, writes and block reads over the tunnel, over a field port and over
NVMe-MI, the node ID service, and the heartbeat. R479 to R481: the management endpoints answer health polls,
data structures, configuration, vital product data and admin commands, MCTP control messages, and take
dynamic addresses (identifiers: log entry 45). -/
def Obligations.CarriersAndEndpointsAnswer : Prop :=
  (∀ (s : State) (a : Adm) (w0 w1 : W32) (port : Nat) (f : Frame) (data b : List Byte) (n c : Nat),
      let i := tIndex w0
      let sub := tSub w0
      let room := tLen w1
      (adminOpen s a.fn = true → s.power.recovery = false → a.fn = 0 →
        let done (x : Instr) (st : Status) (dw0 : Nat) (p : Payload) : Prop := exec x s = .next (adminDone s a st dw0 p)
        (tClean w0 w1 = true → tService w0 = 0 →
          (dictRead s i sub (some room) = .ok b → done (.synmonTunnelRead a w0 w1) .success (b.length * 65536) (bytesOr (padTo room b))) ∧
          (dictRead s i sub (some room) = .error c → c ≠ 6 → done (.synmonTunnelRead a w0 w1) .success c .none)) ∧
        (tClean w0 w1 = true → tService w0 = 1 →
          exec (.synmonTunnelWrite a w0 w1 data) s = .next (dictWrite s .tunnel i sub ((padTo room data).take room) (.tunnel a))) ∧
        (tClean w0 w1 = true → tService w0 = 2 →
          (dictBlockRead s i sub room = .ok (n, b) → done (.synmonTunnelBlockRead a w0 w1) .success (n * 65536) (bytesOr (padTo room b))) ∧
          (dictBlockRead s i sub room = .error c → c ≠ 6 → done (.synmonTunnelBlockRead a w0 w1) .success c .none)) ∧
        (tService w0 = 3 → done (.synmonTunnelRead a w0 w1) .invalidField 0 .none ∧
          done (.synmonTunnelWrite a w0 w1 data) .invalidField 0 .none ∧ done (.synmonTunnelBlockRead a w0 w1) .invalidField 0 .none)) ∧
      (pathUp s (.mi port) = true →
        let tells (x : Instr) (st : MiStatus) (r : Nat) (p : Payload) : Prop := exec x s = .next (emit s (.mi port st r p))
        (tClean w0 w1 = true → tService w0 = 0 →
          (dictRead s i sub (some room) = .ok b → tells (.miSynmonRead port w0 w1 []) .success 0 (bytesOr b)) ∧
          (dictRead s i sub (some room) = .error c → c ≠ 6 → tells (.miSynmonRead port w0 w1 []) .success c .none)) ∧
        (tClean w0 w1 = true → tService w0 = 1 → data.length = room →
          exec (.miSynmonWrite port w0 w1 data) s = .next (dictWrite s (.mi port) i sub data (.mi port))) ∧
        (tClean w0 w1 = true → tService w0 = 1 → data.length ≠ room → tells (.miSynmonWrite port w0 w1 data) .invalidParameter 0 .none) ∧
        (tClean w0 w1 = true → tService w0 = 2 →
          (dictBlockRead s i sub room = .ok (n, b) → tells (.miSynmonBlockRead port w0 w1 []) .success (n * 65536) (bytesOr b)))) ∧
      (pathUp s (.synmon port) = true →
        let u := bump s (0x1110 + port) 8 1
        let svc := fService f
        let index := fField f 6 2
        let esub := fField f 8 1
        let r : Reply := .frame port (fSrc f) svc (fField f 4 2) index esub
        let die := leBytes 8 (dget u 0x1000 5)
        let asked : Prop := fDest f = macOf u port ∧ (fField f 2 1 = 0 ∨ fField f 2 1 = dget u 0x1100 1) ∧ bitOf (fField f 3 1) 0 = false
        let toAll : Prop := fDest f = broadcast ∧ fField f 2 1 = 0 ∧ bitOf (fField f 3 1) 0 = false
        (frameHere s port f = false → exec (.synmonRead port f) s = .next s ∧ exec (.synmonWrite port f) s = .next s) ∧
        (frameHere s port f = true → frameBad f = true → exec (.synmonRead port f) s = .next (bump u (0x1110 + port) 0x0A 1) ∧
          exec (.synmonBlockRead port f) s = .next (bump u (0x1110 + port) 0x0A 1)) ∧
        (frameHere s port f = true → frameBad f = false →
          (svc = 1 → asked → dictRead u index esub none = .ok b → fLen f = 0 →
            exec (.synmonRead port f) s = .next (answer u r (.value b.length b))) ∧
          (svc = 1 → asked → dictRead u index esub none = .error c → exec (.synmonRead port f) s = .next (answerAbort u r c)) ∧
          (svc = 2 → asked → exec (.synmonWrite port f) s = .next (dictWrite u (.synmon port) index esub (fData f) r)) ∧
          (svc = 3 → asked → dictBlockRead u index esub (min (fLen f) 1488) = .ok (n, b) →
            exec (.synmonBlockRead port f) s = .next (answer u r (.items n b))) ∧
          (svc = 0x12 → toAll → fLen f = 0 →
            exec (.nodeIdQuery port f) s = .next (answer u r (.value 9 (leBytes 1 (dget u 0x1100 1) ++ die)))) ∧
          (svc = 0x12 → toAll → fLen f = 9 → (fData f).drop 1 = die →
            exec (.nodeIdAssign port f) s = .next (dictWrite u (.synmon port) 0x1100 1 ((fData f).take 1) r)) ∧
          (svc = 0x12 → toAll → fLen f = 9 → (fData f).drop 1 ≠ die → exec (.nodeIdAssign port f) s = .next u))) ∧
      (let period := dget s 0x1100 2
       (s.power.synmon = true → period ≠ 0 → s.mgmt.hbLast + period ≤ s.nowMs → completes .heartbeat s (fun t =>
          t.mgmt.hbLast = s.nowMs ∧ t.out.length = s.out.length + b2n (portEnabled s 0) + b2n (portEnabled s 1))) ∧
       (s.nowMs < s.mgmt.hbLast + period → exec .heartbeat s = .next s))) ∧
  (∀ (s : State) (port x y off len : Nat) (c : MiAdmin), pathUp s (.mi port) = true →
      let ok (i : Instr) (p : Payload) : Prop := exec i s = .next (emit s (.mi port .success 0 p))
      let bad (i : Instr) : Prop := exec i s = .next (emit s (.mi port .invalidParameter 0 .none))
      let mctp (i : Instr) (b : List Byte) : Prop := exec i s = .next (emit s (.mctp port b))
      let addressed := emit { s with mgmt := { s.mgmt with i3cDyn := listMod (fun _ => x) s.mgmt.i3cDyn port } }
        (.i3c port (i3cPid s port) 0x06 Config.i3cDcr)
      ok (.miSubsystemHealthPoll port false) (.fields (healthCopy s ++ [("changes", healthChanges s port)])) ∧
      completes (.miSubsystemHealthPoll port true) s (fun t => ((healthCopy s).length ≤ 6 → healthChanges t port = 0) ∧
        t.out = .mi port .success 0 (.fields (healthCopy s ++ [("changes", healthChanges s port)])) :: s.out) ∧
      (4 ≤ s.power.bootStep → (getFn s x).present = true →
        ok (.miControllerHealthPoll port x) (.fields ([("CNTLID", x), ("ready", b2n (getFn s x).rdy),
          ("fatal", b2n s.power.cfs), ("shutdown", (getFn s x).shst)] ++ healthNow s))) ∧
      (4 ≤ s.power.bootStep → (getFn s x).present = false → bad (.miControllerHealthPoll port x)) ∧
      (s.power.bootStep < 4 → exec (.miControllerHealthPoll port x) s = .next (emit s (.mi port .pcieInaccessible 0 .none))) ∧
      ok (.miReadDataStructure port 0 x y) (.fields [("ports", 6)]) ∧
      (x < 4 → ok (.miReadDataStructure port 1 x y) (.fields [("type", 1), ("max payload", 512)])) ∧
      (6 ≤ x → bad (.miReadDataStructure port 1 x y)) ∧
      (64 ≤ x → x ≤ 256 → port < s.mgmt.mctpMtu.length → completes (.miConfigurationSet port 3 x) s (fun t =>
        exec (.miConfigurationGet port 3) t = .next (emit t (.mi port .success 0 (.fields [("MCTP unit", x)]))))) ∧
      (x < 64 ∨ 256 < x → bad (.miConfigurationSet port 3 x)) ∧
      (off + len ≤ (vpd s).length → ok (.miVpdRead port off len) (.bytes (((vpd s).drop off).take len))) ∧
      ((vpd s).length < off + len → bad (.miVpdRead port off len)) ∧
      (4 ≤ s.power.bootStep → (getFn s x).present = true →
        (c.opcode = 0x06 → ∀ l, identify s x (bitsOf c.dw10.toNat 0 7) c.nsid (bitsOf c.dw10.toNat 16 31) = .ok l →
          exec (.miAdminCommand port x c) s = .next (emit s (.miAdmin port .success false 0 (.fields l)))) ∧
        (c.opcode = 0x06 → ∀ st, identify s x (bitsOf c.dw10.toNat 0 7) c.nsid (bitsOf c.dw10.toNat 16 31) = .error st →
          exec (.miAdminCommand port x c) s = .next (emit s (.miAdmin port st (dnrOf st) 0 .none))) ∧
        (c.opcode = 0x0A → ∀ v p, featureValue s x (bitsOf c.dw10.toNat 0 7) c.nsid c.dw11 = .ok (v, p) →
          exec (.miAdminCommand port x c) s = .next (emit s (.miAdmin port .success false v p))) ∧
        (c.opcode ∉ [0x02, 0x06, 0x0A] → exec (.miAdminCommand port x c) s = .next (emit s (.mi port .invalidOpcode 0 .none)))) ∧
      (8 ≤ x → x ≤ 254 → port < s.mgmt.mctpEid.length → completes (.mctpSetEndpointId port x) s (fun t =>
        exec (.mctpGetEndpointId port) t = .next (emit t (.mctp port [0, BitVec.ofNat 8 x, 0, 0])))) ∧
      (x < 8 ∨ 254 < x → mctp (.mctpSetEndpointId port x) [2]) ∧
      mctp (.mctpGetEndpointId port) [0, BitVec.ofNat 8 (eidOf s port), 0, 0] ∧
      mctp (.mctpGetEndpointUuid port) (0 :: leBytes 16 Config.mctpUuid) ∧
      mctp (.mctpGetVersionSupport port 4) ([0, 1] ++ leBytes 4 (Config.mctpVersion 4)) ∧
      mctp (.mctpGetMessageTypeSupport port) [0, 2, 0, 4] ∧
      (8 ≤ x → x ≤ 0x7D → noAddress s port = true → exec (.i3cEntdaa port x) s = .next addressed ∧
        (dget s 0x1300 (1 + port) = y → exec (.i3cSetdasa port y x) s = .next addressed)) ∧
      (noAddress s port = false → exec (.i3cEntdaa port x) s = .next s))

/-- Table 16.1, R391 to R393, R410, R425, R430: power on, a restart and the retry run the boot sequence as far
as its inputs allow, and a boot whose restore can read the map ends in service; rails that fail are tried
again once. R418 to R420, R422 to R427, Table 16.2: a reset contact stops a running module and holds it
until it is released, with its bit in RESET_CAUSE; the watchdog does so by itself; references are lost and
return. -/
def Obligations.BootAndResets : Prop :=
  (∀ (s : State) (b : BootIn) (slot : Nat),
      let p := s.power
      let boots (i : Instr) : Prop :=
        (p.modRst = true ∨ p.fenceIn = true → completes i s (fun t => t.power.bootStep = 2 ∧ t.power.bootWait = 4 ∧ t.power.on = [0])) ∧
        (p.modRst = false → p.fenceIn = false →
          (p.refclk = false → completes i s (fun t => t.power.bootStep = 2 ∧ t.power.bootWait = 2)) ∧
          (p.refclk = true → b.rails = false → completes i s (fun t => t.power.bootStep = 2 ∧ t.power.bootWait = 1)) ∧
          (p.refclk = true → b.rails = true → completes i s (fun t => 4 ≤ t.power.bootStep ∧
            (∀ d ∈ [0, 1, 18, 19], d ∈ t.power.on) ∧ t.uptime = 0 ∧ t.host.dockets = [] ∧ t.power.synmon = true ∧
            (t.power.recovery = true → t.power.bootStep = 4 ∧ t.power.wdtAt = none) ∧
            (t.power.recovery = false → 5 ∉ t.logbook.failed → b.mapOk = true →
              t.power.bootStep = 6 ∧ t.media.ready = true ∧ t.media.found = []) ∧
            (t.power.recovery = false → b.mapOk = false → t.power.cfs = true ∧ t.media.ready = s.media.ready))))
      (p.dumping = false → p.bootStep < 5 ∨ p.on = [] → boots (.powerOn b)) ∧
      (p.powerRestart = true → boots (.powerRestart b)) ∧
      (p.bootWait = 1 → exec (.powerUpRailTimeout slot) s = .next { s with power := { p with bootWait := 5, on := [0] } }) ∧
      (p.bootWait = 7 → completes (.powerUpRailTimeout slot) s (fun t => t.power.bootWait = 6 ∧ t.power.on = [0] ∧
        t.power.bootStep = p.bootStep)) ∧
      (p.bootWait = 5 → p.refclk = true → p.bootStep ≠ 3 →
        (b.rails = false → exec (.powerUpRetry b) s = .next { s with power := { p with bootWait := 7 } }) ∧
        (b.rails = true → completes (.powerUpRetry b) s (fun t => 4 ≤ t.power.bootStep ∧ t.power.bootWait ≠ 5)))) ∧
  (∀ (s : State) (b : BootIn) (port : Nat),
      let p := s.power
      let stopped (t : State) (bit : Nat) : Prop := t.power.on = [0] ∧ t.power.bootStep = 1 ∧ t.uptime = 0 ∧
        t.power.nextCause = p.nextCause ||| bit ∧ t.host.dockets = [] ∧ t.dram = [] ∧ t.ik = .empty ∧ t.media.relocs =
          (if 5 ≤ p.bootStep then [] else s.media.relocs)
      (p.dumping = false → p.on ≠ [] → heldInReset s = false →
        (p.modRst = false → completes .modRstNAssert s (fun t => t.power.modRst = true ∧ stopped t 2)) ∧
        (p.fenceIn = false → p.bootWait ≠ 6 → completes .fenceInAssert s (fun t => t.power.fenceIn = true ∧ stopped t 4)) ∧
        (p.fenceIn = false → p.bootWait = 6 → exec .fenceInAssert s = .next { s with power := { p with fenceIn := true } }) ∧
        (watchdogOver s = true → p.modRst = true → completes (.watchdogExpiry b) s (fun t => stopped t 8 ∧
          t.power.wdtRow = if p.bootStep < 5 then p.wdtRow + 1 else 0)) ∧
        (watchdogOver s = true → p.modRst = false → p.fenceIn = false → p.refclk = true → b.rails = true →
          completes (.watchdogExpiry b) s (fun t => 4 ≤ t.power.bootStep ∧ bitOf t.power.cause 3 = true))) ∧
      (p.dumping = false → p.on ≠ [] → p.bootWait = 4 →
        (p.modRst = true → p.fenceIn = true → exec (.modRstNDeassert b) s = .next { s with power := { p with modRst := false } } ∧
          exec (.fenceInDeassert b) s = .next { s with power := { p with fenceIn := false } }) ∧
        (p.refclk = true → b.rails = true →
          (p.modRst = true → p.fenceIn = false → completes (.modRstNDeassert b) s (fun t => 4 ≤ t.power.bootStep)) ∧
          (p.fenceIn = true → p.modRst = false → completes (.fenceInDeassert b) s (fun t => 4 ≤ t.power.bootStep)))) ∧
      (p.wdtAt ≠ none → exec .watchdogRenew s = .next { s with power := { p with wdtAt := some s.nowMs } }) ∧
      (watchdogOver s = false → exec (.watchdogExpiry b) s = .next s) ∧
      (p.refclk = true →
        (3 ≤ p.bootStep → p.on ≠ [] → completes .refclkLoss s (fun t => t.power = { p with refclk := false, holdover := true } ∧
          dget t 0x3000 2 = (dget s 0x3000 2 + 1) % counterMax 0x3000 2)) ∧
        (p.bootStep < 3 → exec .refclkLoss s = .next { s with power := { p with refclk := false } })) ∧
      (p.refclk = false →
        (p.bootWait ≠ 2 → exec (.refclkReturn b) s = .next { s with power := { p with refclk := true, holdover := false } }) ∧
        (p.bootWait = 2 → b.rails = true → completes (.refclkReturn b) s (fun t => 4 ≤ t.power.bootStep ∧ t.power.refclk = true))) ∧
      (port < 4 → p.portRef[port]? = some true →
        exec (.portRefclkLoss port) s = .next { s with power := { p with portRef := listMod (fun _ => false) p.portRef port } }) ∧
      (port < 4 → p.portRef[port]? = some false → completes (.portRefclkReturn port) s (fun t =>
        t.power.portRef = listMod (fun _ => true) p.portRef port)))

/-- R396, R408 to R411, R423, R498, Table 15.5a: a power loss, a thermal shutdown or a rail fault of a module in
service begins the dump, of one that is not turns it off; the end of the dump decides what follows. -/
def Obligations.PowerLossDumpsAndStops : Prop :=
  ∀ (s : State) (b : BootIn) (bytes us dom sensor : Nat) (reading : Int),
    let p := s.power
    let dumps (t : State) : Prop := t.power.dumping = true ∧ t.pair.aliveOut = false ∧
      (∀ c, c < 256 → getCore t c = Core.empty) ∧ (∀ d, 3 ≤ d → d ≤ 10 → d ∉ t.power.on) ∧
      t.host.dockets = s.host.dockets ∧ t.media = s.media
    (p.on ≠ [] → p.dumping = false →
      (p.inputOn = true → p.measuring = none →
        let u := bump { s with power := { p with inputOn := false } } 0x2000 9 1
        dget u 0x2000 9 = (dget s 0x2000 9 + 1) % counterMax 0x2000 9 ∧
        (5 ≤ p.bootStep → exec .inputLoss s = .next (beginDump u) ∧ dumps (beginDump u)) ∧
        (p.bootStep < 5 → exec .inputLoss s = .next (powerOff (copyHealth u)) ∧
          (powerOff (copyHealth u)).power.on = [] ∧ (powerOff (copyHealth u)).power.inputOn = false)) ∧
      (dieSensor sensor = true → 1150 ≤ reading →
        let hot := settleTemp (dset s 0x3100 sensor (unsigned32 reading))
        let u := bump { hot with power := { hot.power with thermal := true } } 0x3100 0x21 1
        u.power.thermal = true ∧ dget u 0x3100 sensor = unsigned32 reading ∧
        (5 ≤ p.bootStep → exec (.thermalShutdown sensor reading) s = .next (beginDump u) ∧ dumps (beginDump u)) ∧
        (p.bootStep < 5 → exec (.thermalShutdown sensor reading) s = .next (powerOff (copyHealth u)) ∧
          (powerOff (copyHealth u)).power.on = [])) ∧
      (dieSensor sensor = true → reading < 1150 → exec (.thermalShutdown sensor reading) s = .next s) ∧
      (domainOn s dom = true → dom < 20 →
        let out := emergency (bump s 0x2000 0x0C 1) 0x0202 (0x2102 + dom) 0 (2 + dom)
        let u := { out with power := { out.power with collect := true } }
        let k := noteCause (keepOff u dom) 16
        (dom ∈ [0, 1, 18, 19] → 5 ≤ p.bootStep →
          exec (.railFault dom) s = .next (powerOff (stopMedia (copyHealth u) s.media.programmedJsn))) ∧
        (dom ∈ [0, 1, 18, 19] → p.bootStep < 5 → exec (.railFault dom) s = .next (powerOff (copyHealth u))) ∧
        (∀ v, (powerOff v).power.on = [] ∧ (powerOff v).power.dumping = false) ∧
        (dom ∉ [0, 1, 18, 19] → 5 ≤ p.bootStep → exec (.railFault dom) s = .next (beginDump k) ∧ dumps (beginDump k) ∧
          k.power.collect = true ∧ (dom = 2 → dget k 0x2104 1 = 0) ∧
          (3 ≤ dom → dom ≤ 10 → bitOf (dget k 0x2300 4) (dom - 3) = false) ∧
          (11 ≤ dom → bitOf (dget k 0x2300 3) (dom - 11) = false)))) ∧
    (p.dumping = true →
      (p.inputOn = false → completes (.dumpComplete bytes us b) s (fun t => t.power.on = [] ∧ t.power.dumping = false ∧
        t.power.powerRestart = true ∧ t.power.dumpBytes = bytes ∧ t.power.dumpUs = us ∧ t.media.programmedJsn = t.media.jsn)) ∧
      (p.inputOn = true → p.thermal = true → bitOf p.nextCause 1 = false → completes (.dumpComplete bytes us b) s (fun t =>
        t.power.on = [] ∧ t.power.dumping = false ∧ t.power.thermal = true)) ∧
      (p.inputOn = true → p.thermal = false → p.modRst = false → p.fenceIn = false → p.refclk = true → b.rails = true →
        completes (.dumpComplete bytes us b) s (fun t => 4 ≤ t.power.bootStep)) ∧
      exec (.dumpComplete bytes us b) s = .next (afterDump (let d := stopDumped s p.healthy
        { d with power := { d.power with dumpBytes := bytes, dumpUs := us } }) b))

/-- R31, R33, R405 to R408, R497: V_avg is the mean of the input of the last second, the hold-up measurement
gives capacitance, usable energy and health, and a sensor's reading drives the temperature warning. R399 to
R402: an evaluation of a running slot measures, moves its region by thresholds and hysteresis, holds the
control law's result within DMIN and DMAX, and shifts the histories. -/
def Obligations.HoldupTemperatureAndPilotLoops : Prop :=
  (∀ (s : State) (mv10 v1 v2 uj sensor : Nat) (reading : Int),
      let p := s.power
      let energy (v1 : Nat) : Nat :=
        if (v1 - v2) * 1000 < 2 * v1 then 0
        else 20000 * uj / (v1 * v1 - v2 * v2) * (max (85 * p.vavg) 88000 * max (85 * p.vavg) 88000 - 36 * 10 ^ 8) / (2 * 10 ^ 11)
      (p.measuring = none → p.on ≠ [] → exec (.vavgUpdate mv10) s = .next { s with power :=
        { p with vin := (mv10 :: p.vin).take 1000, vavg := meanOf ((mv10 :: p.vin).take 1000) } }) ∧
      (3 ≤ p.bootStep → p.inputOn = true → p.dumping = false → p.measuring = none → s.host.psWait = none →
        (holdupDue s = true → exec (.holdupMeasurementStart v1) s = .next { s with power := { p with measuring := some v1 } }) ∧
        (holdupDue s = false → exec (.holdupMeasurementStart v1) s = .next s)) ∧
      (p.measuring = some v1 → completes (.holdupMeasurementEnd v2 uj) s (fun t => t.power.measuring = none ∧
        t.power.measuredAt = some s.nowMs ∧ t.power.healthy = decide (24000 ≤ energy v1) ∧
        dget t 0x2000 5 = min (energy v1) (2 ^ 32 - 1) ∧ bitOf t.host.smartWarn 4 = decide (energy v1 < 24000) ∧
        (p.healthy = true → energy v1 < 24000 → t.media.tailDue = s.media.jsn))) ∧
      (1 ≤ sensor → sensor ≤ 0x19 → p.on ≠ [] → completes (.temperatureThresholdCrossed sensor reading) s (fun t =>
        dget t 0x3100 sensor = unsigned32 reading ∧ bitOf t.host.smartWarn 1 = (List.range 6).any (beyond t) ∧
        (∀ k, k ≠ sensor → k < 0x20 → dget t 0x3100 k = dget s 0x3100 k)))) ∧
  (∀ (s : State) (k raw x : Nat),
      let p := tabGet Pilot.empty s.power.pilots k
      let th (r : Nat) := slotVal s k (0x10 + r)
      let m := measure s k raw
      let v := schedVar s k m x
      k < 22 → p.run = true → s.power.on ≠ [] → slotVal s k 4 ≤ slotVal s k 5 → slotVal s k 8 ≤ 8 →
      completes (.pilotLoopEval k raw x) s (fun t =>
        let q := tabGet Pilot.empty t.power.pilots k
        let acc := controlAcc s k q.region p ((slotVal s k 3 : Int) - m)
        slotVal s k 4 ≤ q.duty ∧ q.duty ≤ slotVal s k 5 ∧ q.lastMeas = m ∧ q.schedX = v ∧
        q.e1 = (slotVal s k 3 : Int) - m ∧ q.e2 = p.e1 ∧ q.e3 = p.e2 ∧ q.y2 = p.y1 ∧ q.y3 = p.y2 ∧
        ((slotVal s k 4 * 2 ^ 16 : Nat) ≤ acc → acc ≤ (slotVal s k 5 * 2 ^ 16 + 0xFFFF : Nat) → q.y1 = acc ∧ q.satSec = p.satSec) ∧
        (q.region + 1 < slotVal s k 8 → v < th (q.region + 1)) ∧
        (0 < q.region → (th q.region : Int) - (slotVal s k 7 : Int) ≤ v) ∧
        (∀ j, j ≠ k → tabGet Pilot.empty t.power.pilots j = tabGet Pilot.empty s.power.pilots j) ∧ t.host = s.host))

/-- R172, R395, R398, R412 to R414: clusters, D2 and quays go off when nothing needs them and come back (a quay
die's key table goes and comes with its power, R340), and the governor withholds, limits and pauses by the
average of the last samples. -/
def Obligations.DomainsSwitchAndTheGovernorActs : Prop :=
  ∀ (s : State) (c q mw : Nat),
    let p := s.power
    let avg := meanOf ((mw :: p.pw).take 100) * 100
    let cap := capW s * 1000
    let runs (k : Nat) : Bool := (tabGet Pilot.empty p.pilots k).run
    (c < 8 → p.dumping = false →
      (clusterCanStop s c = true → clusterForbidden s c = true ∨ clusterIdleFor s c (dget s 0x2300 5) = true →
        let t := clusterOff s c
        exec (.clusterPowerOff c) s = .next t ∧ t.power.on = p.on.filter (· != 3 + c) ∧
        (∀ k, k / 32 = c → (getCore t k).bank0 = .empty ∧ (getCore t k).bank1 = .empty ∧ (getCore t k).phase = .idle) ∧
        (∀ j, c * 2 ^ 25 ≤ j → j < (c + 1) * 2 ^ 25 → tabGet 0 t.ik.spad j = 0) ∧
        (∀ h a v, windowsOnCluster s c = [h] → windowBerths (getThr s h) = 1 → (getThr s h).saved = [] →
          poolTake s true (threadTag h) = some (a, v) → (getThr t h).lastCore = 0xFFFF ∧ (getThr t h).saved = [a])) ∧
      (clusterCanStop s c = false ∨ (clusterForbidden s c = false ∧ clusterIdleFor s c (dget s 0x2300 5) = false) → exec (.clusterPowerOff c) s = .next s) ∧
      (4 ≤ p.bootStep → p.quayPaused = false → clusterOn s c = false → clusterAllowed s c = true →
        clustersOn s < clusterLimit (targetPs s) → clusterWanted s c = true →
        exec (.clusterPowerOn c) s = .next (kickIdle (noteIdle { s with power := { p with on := p.on ++ [3 + c] } } c)))) ∧
    (p.dumping = false →
      (domainOn s 2 = true → allocCount s false = 0 → s.pool.nearWait = [] → completes .d2PowerOff s (fun t =>
        domainOn t 2 = false ∧ t.pool.nearStack = [] ∧ t.host = s.host)) ∧
      (4 ≤ p.bootStep → domainOn s 2 = false → runs 4 = true → s.pool.nearWait = [] →
        exec .d2PowerOn s = .next (kickIdle { s with power := { p with on := p.on ++ [2] }, pool := { s.pool with nearStack := [] } })) ∧
      (q < 7 → quayOn s q = true → quayForbidden s q = true → quayBusy s q = false →
        exec (.quayPowerOff q) s = .next (clearXts { s with power := { p with on := p.on.filter (· != 11 + q) } } q) ∧
        ∀ n, n < 2 ^ 16 → tabGet [] (clearXts s q).eng.xts (q * 2 ^ 16 + n) = []) ∧
      (q < 7 → 4 ≤ p.bootStep → quayOn s q = false → quayForbidden s q = false → runs (13 + q) = true →
        exec (.quayPowerOn q) s = .next (fillXts { s with power := { p with on := p.on ++ [11 + q] } } q) ∧
        ∀ n key, s.media.nsKeys = [(n, key)] → tabGet [] (fillXts s q).eng.xts (q * 2 ^ 16 + n) = key)) ∧
    (3 ≤ p.bootStep → completes (.governorSample mw) s (fun t => t.power.pw = (mw :: p.pw).take 100 ∧
      t.power.withheld = decide (95 * cap ≤ avg) ∧ t.power.limiting = decide (105 * cap ≤ avg) ∧
      t.power.limitN = (if 105 * cap ≤ avg then p.limitN + 1 else 0) ∧
      t.power.quayPaused = (p.quayPaused && decide (90 * cap ≤ avg)))) ∧
    (p.limiting = true → 500 ≤ p.limitN → p.quayPaused = false → p.dumping = false →
      (∀ k, k < 8 → clusterCanStop s k = false) →
        exec .governorPause s = .next { s with power := { p with quayPaused := true } })

/-- R150, R492 to R494: logic BIST takes an idle cluster's cores out of their leases and retires those that
fail; a march leaves its berth zeroed, a parity fault its row invalid; patrol reads queue refreshes; the
pilot check starts a new second. -/
def Obligations.DredgeTasksDoTheirWork : Prop :=
  ∀ (s : State) (c row blk step bits i : Nat) (failed : List Nat) (far fault : Bool),
    let v := s.service
    let a := berthAddr far i
    let faults (t : State) : Prop := dget t 0x9000 7 = (dget s 0x9000 7 + 1) % counterMax 0x9000 7
    (c < 8 → bistReady s c = true → completes (.clusterBistStart c) s (fun t => t.service = { v with bist := v.bist ++ [c] } ∧
      ∀ k, k / 32 = c → (getLease t k).space = none ∨ (getLease t k).next = some none)) ∧
    (bistReady s c = false → exec (.clusterBistStart c) s = .next s) ∧
    (v.bist.contains c = true → c < 8 → completes (.clusterBistEnd c failed) s (fun t => c ∉ t.service.bist ∧
      ∀ k, k ∈ failed → k / 32 = c → coreRetired t k = true)) ∧
    (testing s = true →
      (far = true ∨ domainOn s 2 = true → marchNext s far = some i → completes (.berthMarch far i fault) s (fun t =>
        (∀ j, a ≤ j → j < a + berthSize far → tabGet 0 t.dram j = 0) ∧
        (∀ j, j < a ∨ a + berthSize far ≤ j → tabGet 0 t.dram j = tabGet 0 s.dram j) ∧
        t.service.rowFaults = v.rowFaults + b2n fault ∧ (getBerth t a).alloc = false ∧ (fault = false → dget t 0x9000 7 = dget s 0x9000 7))) ∧
      (row < 131072 →
        completes (.tallyParityScrub row true) s (fun t => t.tally = s.tally ∧ t.faults = s.faults) ∧
        completes (.tallyParityScrub row false) s (fun t => getRow t row = Row.empty ∧
          (∀ j, j ≠ row → getRow t j = getRow s j) ∧ faults t)) ∧
      (mediaOpen s = true → 1 ≤ (getBlk s blk).pool → (getBlk s blk).pool ≤ 6 → step ≠ 4 ∨ (getBlk s blk).pool = 6 →
        rankOpen s [blk / 2 ^ 32] 10 = true → completes (.patrolRead blk step bits) s (fun t =>
        (getBlk t blk).reads = (getBlk s blk).reads + (if 2 ≤ step then pagesIn s blk else 4) ∧
        (getBlk t blk).refresh = (let old := (getBlk s blk).refresh
          if 3 ≤ step ∨ old = 5 then (if 3 ≤ step ∨ dget s 0x4040 4 < bits then 5 else old)
          else if dget s 0x4040 4 < bits then 8 else old)))) ∧
    (s.nowMs < v.saneAt + 1000 → exec .pilotSanity s = .next s) ∧
    (3 ≤ s.power.bootStep → s.power.dumping = false → v.saneAt + 1000 ≤ s.nowMs → completes .pilotSanity s (fun t => ∀ k, k < 22 →
      (tabGet Pilot.empty s.power.pilots k).run = true →
      (tabGet Pilot.empty t.power.pilots k).satSec = 0 ∧
      (tabGet Pilot.empty t.power.pilots k).satLast = (tabGet Pilot.empty s.power.pilots k).satSec))

/-- A step with command `c` in front of the queue runs `c` with the queue's rest. -/
def Obligations.StepRunsTheFrontCommand : Prop :=
  ∀ (s : State) (c : Instr) (rest : List Instr),
    step { s with pending := c :: rest } = exec c { s with pending := rest }

/-- Log entry 2: with nothing waiting a step is one millisecond of the event clock (R520). At reset, the queue
is empty, only D0 is on, no memory holds a byte that is not zero, and the invariant holds (R391, R423). -/
def Obligations.IdleStepsAndReset : Prop :=
  (∀ s : State, s.pending = [] → ∃ t, step s = .next t ∧ t.nowMs = s.nowMs + 1 ∧ t.uptime = s.uptime + 1 ∧ t.media = s.media ∧
    t.host.dockets = s.host.dockets ∧ dget t 0x7070 5 = s.tally.powSum * 65536 / s.tally.powCnt ∧ t.pending = []) ∧
  State.reset.pending = [] ∧ State.reset.inv = true ∧ State.reset.power.on = [0] ∧ State.reset.host.dockets = [] ∧
  State.reset.dram = [] ∧ State.reset.prog.slm = [] ∧ State.reset.ik.spad = [] ∧ State.reset.pair.state = 0

/-- Every command has a next state, and leaves the queue alone. -/
def Obligations.CommandsCompleteAndLeaveTheQueue : Prop :=
  ∀ (s : State) (c : Instr), ∃ t, exec c s = .next t ∧ t.pending = s.pending

/-- The memories stay in canonical form and the event clock never runs ahead of the whole run (R520). -/
def Obligations.StepsKeepTheInvariant : Prop :=
  ∀ s t : State, s.inv = true → step s = .next t → t.inv = true
end

