-- ==== Sys2Proof/Laws/Tab.lean ====
section
/-!
SUPPORT. Sparse tables: what a read finds after a write, and that every operation keeps the
canonical form.
-/
namespace Sys2Proof.Machine

variable {α : Type}

@[simp] theorem tabGet_nil (d : α) (k : Nat) : tabGet d [] k = d := rfl

theorem tabGet_put_same (d : α) (t : Tab α) (k : Nat) (v : α) : tabGet d (tabPut t k v) k = v := by
  induction t with
  | nil => simp [tabPut, tabGet]
  | cons e t ih =>
    simp only [tabPut]
    split
    · simp [tabGet]
    · split
      · simp [tabGet]
      · rename_i h1 h2
        simp [tabGet, ih, Ne.symm h2]

theorem tabGet_put_other (d : α) (t : Tab α) (k j : Nat) (v : α) (h : j ≠ k) :
    tabGet d (tabPut t k v) j = tabGet d t j := by
  induction t with
  | nil => simp [tabPut, tabGet, Ne.symm h]
  | cons e t ih =>
    simp only [tabPut]
    split
    · simp [tabGet, Ne.symm h]
    · split
      · rename_i h1 h2
        subst h2
        simp [tabGet, Ne.symm h]
      · simp [tabGet, ih]

theorem tabGet_drop_other (d : α) (t : Tab α) (k j : Nat) (h : j ≠ k) :
    tabGet d (tabDrop t k) j = tabGet d t j := by
  induction t with
  | nil => rfl
  | cons e t ih =>
    simp only [tabDrop]
    split
    · rename_i h1
      subst h1
      simp [tabGet, Ne.symm h, ih]
    · simp [tabGet, ih]

variable [DecidableEq α]

/-- Lower bound of the first key of a canonical table. -/
theorem tabWfFrom_weaken (d : Nat → α) (lo hi : Nat) (h : lo ≤ hi) (t : Tab α) :
    tabWfFrom d (some hi) t = true → tabWfFrom d (some lo) t = true := by
  cases t with
  | nil => simp [tabWfFrom]
  | cons e t =>
    simp only [tabWfFrom, Bool.and_eq_true, decide_eq_true_eq]
    rintro ⟨⟨h1, h2⟩, h3⟩
    exact ⟨⟨by omega, h2⟩, h3⟩

theorem tabWfFrom_none (d : Nat → α) (lo : Nat) (t : Tab α) :
    tabWfFrom d (some lo) t = true → tabWfFrom d none t = true := by
  cases t with
  | nil => simp [tabWfFrom]
  | cons e t =>
    simp only [tabWfFrom, Bool.and_eq_true, decide_eq_true_eq]
    rintro ⟨⟨_, h2⟩, h3⟩
    exact ⟨⟨trivial, h2⟩, h3⟩

theorem tabPut_wfFrom (d : Nat → α) (k : Nat) (v : α) (hv : v ≠ d k) (t : Tab α) (lo : Option Nat)
    (hlo : ∀ l, lo = some l → l < k) (h : tabWfFrom d lo t = true) :
    tabWfFrom d lo (tabPut t k v) = true := by
  induction t generalizing lo with
  | nil => cases lo <;> simp_all [tabPut, tabWfFrom]
  | cons e t ih =>
    simp only [tabPut]
    simp only [tabWfFrom, Bool.and_eq_true, decide_eq_true_eq] at h
    obtain ⟨⟨h1, h2⟩, h3⟩ := h
    split
    · rename_i hlt
      simp only [tabWfFrom, Bool.and_eq_true, decide_eq_true_eq]
      exact ⟨⟨by cases lo with | none => rfl | some l => simpa using hlo l rfl, hv⟩, ⟨hlt, h2⟩, h3⟩
    · split
      · rename_i heq
        subst heq
        simp only [tabWfFrom, Bool.and_eq_true, decide_eq_true_eq]
        exact ⟨⟨by cases lo with | none => rfl | some l => simpa using hlo l rfl, hv⟩, h3⟩
      · rename_i h4 h5
        simp only [tabWfFrom, Bool.and_eq_true, decide_eq_true_eq]
        exact ⟨⟨h1, h2⟩, ih (some e.1) (by intro l hl; cases hl; omega) h3⟩

theorem tabDrop_wfFrom (d : Nat → α) (k : Nat) (t : Tab α) (lo : Option Nat)
    (h : tabWfFrom d lo t = true) : tabWfFrom d lo (tabDrop t k) = true := by
  induction t generalizing lo with
  | nil => exact h
  | cons e t ih =>
    simp only [tabWfFrom, Bool.and_eq_true, decide_eq_true_eq] at h
    obtain ⟨⟨h1, h2⟩, h3⟩ := h
    simp only [tabDrop]
    split
    · apply ih
      cases lo with
      | none => exact tabWfFrom_none d _ t h3
      | some l => exact tabWfFrom_weaken d l e.1 (by simp at h1; omega) t h3
    · simp only [tabWfFrom, Bool.and_eq_true, decide_eq_true_eq]
      exact ⟨⟨h1, h2⟩, ih _ h3⟩

theorem tabFilter_wfFrom (d : Nat → α) (p : Nat × α → Bool) (t : Tab α) (lo : Option Nat)
    (h : tabWfFrom d lo t = true) : tabWfFrom d lo (t.filter p) = true := by
  induction t generalizing lo with
  | nil => exact h
  | cons e t ih =>
    simp only [tabWfFrom, Bool.and_eq_true, decide_eq_true_eq] at h
    obtain ⟨⟨h1, h2⟩, h3⟩ := h
    simp only [List.filter_cons]
    split
    · simp only [tabWfFrom, Bool.and_eq_true, decide_eq_true_eq]
      exact ⟨⟨h1, h2⟩, ih _ h3⟩
    · apply ih
      cases lo with
      | none => exact tabWfFrom_none d _ t h3
      | some l => exact tabWfFrom_weaken d l e.1 (by simp at h1; omega) t h3

/-- Every write keeps the canonical form. -/
theorem tabSet_wf (d : α) (t : Tab α) (k : Nat) (v : α) (h : tabWf d t = true) :
    tabWf d (tabSet d t k v) = true := by
  unfold tabSet tabWf at *
  split
  · exact tabDrop_wfFrom _ _ _ _ h
  · exact tabPut_wfFrom _ _ _ (by assumption) _ _ (by simp) h

theorem tabFilter_wf (d : α) (p : Nat × α → Bool) (t : Tab α) (h : tabWf d t = true) :
    tabWf d (t.filter p) = true := tabFilter_wfFrom _ _ _ _ h

omit [DecidableEq α] in
theorem tabDrop_get_same (d : α) (t : Tab α) (k : Nat) : tabGet d (tabDrop t k) k = d := by
  induction t with
  | nil => rfl
  | cons e t ih =>
    simp only [tabDrop]
    split
    · exact ih
    · rename_i hne
      simp only [tabGet]
      rw [if_neg hne]
      exact ih

/-- A write is read back. -/
@[simp] theorem tabGet_set_same (d : α) (t : Tab α) (k : Nat) (v : α) :
    tabGet d (tabSet d t k v) k = v := by
  unfold tabSet
  split
  · rename_i hv
    rw [hv]
    exact tabDrop_get_same d t k
  · exact tabGet_put_same d t k v

/-- A write leaves every other key as it read. -/
theorem tabGet_set_other (d : α) (t : Tab α) (k j : Nat) (v : α) (h : j ≠ k) :
    tabGet d (tabSet d t k v) j = tabGet d t j := by
  unfold tabSet
  split
  · exact tabGet_drop_other d t k j h
  · exact tabGet_put_other d t k j v h

omit [DecidableEq α] in
theorem tabGet_filter_other (d : α) (p : Nat × α → Bool) (t : Tab α) (k : Nat)
    (h : ∀ v, p (k, v) = true) : tabGet d (t.filter p) k = tabGet d t k := by
  induction t with
  | nil => rfl
  | cons e t ih =>
    obtain ⟨j, w⟩ := e
    simp only [List.filter_cons]
    split
    · simp only [tabGet, ih]
    · rename_i hp
      simp only [tabGet, ih]
      by_cases hj : j = k
      · subst hj; simp [h] at hp
      · simp [hj]

/-! ### Memories -/

theorem memWrite_wf (m : Tab Byte) (a : Nat) (bs : List Byte) (h : tabWf 0 m = true) :
    tabWf 0 (memWrite m a bs) = true := by
  induction bs generalizing m a with
  | nil => exact h
  | cons b bs ih => exact ih _ _ (tabSet_wf _ _ _ _ h)

theorem memClear_wf (m : Tab Byte) (lo hi : Nat) (h : tabWf 0 m = true) :
    tabWf 0 (memClear m lo hi) = true := tabFilter_wf _ _ _ h

/-- A store leaves every byte outside it as it read. -/
theorem memWrite_other (m : Tab Byte) (a j : Nat) (bs : List Byte) (h : j < a ∨ a + bs.length ≤ j) :
    tabGet 0 (memWrite m a bs) j = tabGet 0 m j := by
  induction bs generalizing m a with
  | nil => rfl
  | cons b bs ih =>
    simp only [List.length_cons] at h
    simp only [memWrite]
    rw [ih _ _ (by omega), tabGet_set_other _ _ _ _ _ (by omega)]

/-- A store is read back byte for byte. -/
theorem memRead_write (m : Tab Byte) (a : Nat) (bs : List Byte) :
    memRead (memWrite m a bs) a bs.length = bs := by
  induction bs generalizing m a with
  | nil => rfl
  | cons b bs ih =>
    simp only [memWrite, List.length_cons, memRead]
    rw [memWrite_other _ _ _ _ (by omega), tabGet_set_same, ih]

/-- What a clear leaves outside its range. -/
theorem memClear_other (m : Tab Byte) (lo hi j : Nat) (h : j < lo ∨ hi ≤ j) :
    tabGet 0 (memClear m lo hi) j = tabGet 0 m j :=
  tabGet_filter_other _ _ _ _ (by intro v; simpa using h)

/-- A cleared byte reads as 0. -/
theorem memClear_inside (m : Tab Byte) (lo hi j : Nat) (h : lo ≤ j) (h2 : j < hi) :
    tabGet 0 (memClear m lo hi) j = 0 := by
  unfold memClear
  induction m with
  | nil => rfl
  | cons e t ih =>
    obtain ⟨k, v⟩ := e
    simp only [List.filter_cons]
    split
    · rename_i hp
      simp only [tabGet]
      rw [if_neg, ih]
      rintro rfl
      simp at hp
      omega
    · exact ih

end Sys2Proof.Machine
end

