-- ==== Sys2Proof/Laws/State.lean ====
section
/-!
SUPPORT. What reads find after updates: one lemma per field of the state per named update, and what a
table's reader finds after its writer.
-/
namespace Sys2Proof.Machine

/-! ### dset -/

@[simp] theorem dset_pending (s : State) (i sub v : Nat) : (dset s i sub v).pending = s.pending := rfl
@[simp] theorem dset_out (s : State) (i sub v : Nat) : (dset s i sub v).out = s.out := rfl
@[simp] theorem dset_nowMs (s : State) (i sub v : Nat) : (dset s i sub v).nowMs = s.nowMs := rfl
@[simp] theorem dset_uptime (s : State) (i sub v : Nat) : (dset s i sub v).uptime = s.uptime := rfl
@[simp] theorem dset_freeCount (s : State) (i sub v : Nat) : (dset s i sub v).freeCount = s.freeCount := rfl
@[simp] theorem dset_faults (s : State) (i sub v : Nat) : (dset s i sub v).faults = s.faults := rfl
@[simp] theorem dset_faultSeq (s : State) (i sub v : Nat) : (dset s i sub v).faultSeq = s.faultSeq := rfl
@[simp] theorem dset_pel (s : State) (i sub v : Nat) : (dset s i sub v).pel = s.pel := rfl
@[simp] theorem dset_host (s : State) (i sub v : Nat) : (dset s i sub v).host = s.host := rfl
@[simp] theorem dset_prog (s : State) (i sub v : Nat) : (dset s i sub v).prog = s.prog := rfl
@[simp] theorem dset_media (s : State) (i sub v : Nat) : (dset s i sub v).media = s.media := rfl
@[simp] theorem dset_pool (s : State) (i sub v : Nat) : (dset s i sub v).pool = s.pool := rfl
@[simp] theorem dset_dram (s : State) (i sub v : Nat) : (dset s i sub v).dram = s.dram := rfl
@[simp] theorem dset_hm (s : State) (i sub v : Nat) : (dset s i sub v).hm = s.hm := rfl
@[simp] theorem dset_ik (s : State) (i sub v : Nat) : (dset s i sub v).ik = s.ik := rfl
@[simp] theorem dset_customs (s : State) (i sub v : Nat) : (dset s i sub v).customs = s.customs := rfl
@[simp] theorem dset_eng (s : State) (i sub v : Nat) : (dset s i sub v).eng = s.eng := rfl
@[simp] theorem dset_tally (s : State) (i sub v : Nat) : (dset s i sub v).tally = s.tally := rfl
@[simp] theorem dset_power (s : State) (i sub v : Nat) : (dset s i sub v).power = s.power := rfl
@[simp] theorem dset_pair (s : State) (i sub v : Nat) : (dset s i sub v).pair = s.pair := rfl
@[simp] theorem dset_logbook (s : State) (i sub v : Nat) : (dset s i sub v).logbook = s.logbook := rfl
@[simp] theorem dset_mgmt (s : State) (i sub v : Nat) : (dset s i sub v).mgmt = s.mgmt := rfl
@[simp] theorem dset_service (s : State) (i sub v : Nat) : (dset s i sub v).service = s.service := rfl

/-! ### bump -/

@[simp] theorem bump_pending (s : State) (i sub n : Nat) : (bump s i sub n).pending = s.pending := rfl
@[simp] theorem bump_out (s : State) (i sub n : Nat) : (bump s i sub n).out = s.out := rfl
@[simp] theorem bump_nowMs (s : State) (i sub n : Nat) : (bump s i sub n).nowMs = s.nowMs := rfl
@[simp] theorem bump_uptime (s : State) (i sub n : Nat) : (bump s i sub n).uptime = s.uptime := rfl
@[simp] theorem bump_freeCount (s : State) (i sub n : Nat) : (bump s i sub n).freeCount = s.freeCount := rfl
@[simp] theorem bump_faults (s : State) (i sub n : Nat) : (bump s i sub n).faults = s.faults := rfl
@[simp] theorem bump_faultSeq (s : State) (i sub n : Nat) : (bump s i sub n).faultSeq = s.faultSeq := rfl
@[simp] theorem bump_pel (s : State) (i sub n : Nat) : (bump s i sub n).pel = s.pel := rfl
@[simp] theorem bump_host (s : State) (i sub n : Nat) : (bump s i sub n).host = s.host := rfl
@[simp] theorem bump_prog (s : State) (i sub n : Nat) : (bump s i sub n).prog = s.prog := rfl
@[simp] theorem bump_media (s : State) (i sub n : Nat) : (bump s i sub n).media = s.media := rfl
@[simp] theorem bump_pool (s : State) (i sub n : Nat) : (bump s i sub n).pool = s.pool := rfl
@[simp] theorem bump_dram (s : State) (i sub n : Nat) : (bump s i sub n).dram = s.dram := rfl
@[simp] theorem bump_hm (s : State) (i sub n : Nat) : (bump s i sub n).hm = s.hm := rfl
@[simp] theorem bump_ik (s : State) (i sub n : Nat) : (bump s i sub n).ik = s.ik := rfl
@[simp] theorem bump_customs (s : State) (i sub n : Nat) : (bump s i sub n).customs = s.customs := rfl
@[simp] theorem bump_eng (s : State) (i sub n : Nat) : (bump s i sub n).eng = s.eng := rfl
@[simp] theorem bump_tally (s : State) (i sub n : Nat) : (bump s i sub n).tally = s.tally := rfl
@[simp] theorem bump_power (s : State) (i sub n : Nat) : (bump s i sub n).power = s.power := rfl
@[simp] theorem bump_pair (s : State) (i sub n : Nat) : (bump s i sub n).pair = s.pair := rfl
@[simp] theorem bump_logbook (s : State) (i sub n : Nat) : (bump s i sub n).logbook = s.logbook := rfl
@[simp] theorem bump_mgmt (s : State) (i sub n : Nat) : (bump s i sub n).mgmt = s.mgmt := rfl
@[simp] theorem bump_service (s : State) (i sub n : Nat) : (bump s i sub n).service = s.service := rfl

/-! ### emit -/

@[simp] theorem emit_pending (s : State) (o : Out) : (emit s o).pending = s.pending := rfl
@[simp] theorem emit_nowMs (s : State) (o : Out) : (emit s o).nowMs = s.nowMs := rfl
@[simp] theorem emit_uptime (s : State) (o : Out) : (emit s o).uptime = s.uptime := rfl
@[simp] theorem emit_freeCount (s : State) (o : Out) : (emit s o).freeCount = s.freeCount := rfl
@[simp] theorem emit_dict (s : State) (o : Out) : (emit s o).dict = s.dict := rfl
@[simp] theorem emit_faults (s : State) (o : Out) : (emit s o).faults = s.faults := rfl
@[simp] theorem emit_faultSeq (s : State) (o : Out) : (emit s o).faultSeq = s.faultSeq := rfl
@[simp] theorem emit_pel (s : State) (o : Out) : (emit s o).pel = s.pel := rfl
@[simp] theorem emit_host (s : State) (o : Out) : (emit s o).host = s.host := rfl
@[simp] theorem emit_prog (s : State) (o : Out) : (emit s o).prog = s.prog := rfl
@[simp] theorem emit_media (s : State) (o : Out) : (emit s o).media = s.media := rfl
@[simp] theorem emit_pool (s : State) (o : Out) : (emit s o).pool = s.pool := rfl
@[simp] theorem emit_dram (s : State) (o : Out) : (emit s o).dram = s.dram := rfl
@[simp] theorem emit_hm (s : State) (o : Out) : (emit s o).hm = s.hm := rfl
@[simp] theorem emit_ik (s : State) (o : Out) : (emit s o).ik = s.ik := rfl
@[simp] theorem emit_customs (s : State) (o : Out) : (emit s o).customs = s.customs := rfl
@[simp] theorem emit_eng (s : State) (o : Out) : (emit s o).eng = s.eng := rfl
@[simp] theorem emit_tally (s : State) (o : Out) : (emit s o).tally = s.tally := rfl
@[simp] theorem emit_power (s : State) (o : Out) : (emit s o).power = s.power := rfl
@[simp] theorem emit_pair (s : State) (o : Out) : (emit s o).pair = s.pair := rfl
@[simp] theorem emit_logbook (s : State) (o : Out) : (emit s o).logbook = s.logbook := rfl
@[simp] theorem emit_mgmt (s : State) (o : Out) : (emit s o).mgmt = s.mgmt := rfl
@[simp] theorem emit_service (s : State) (o : Out) : (emit s o).service = s.service := rfl

/-! ### draw -/

@[simp] theorem draw_pending (s : State) : (draw s).pending = s.pending := rfl
@[simp] theorem draw_out (s : State) : (draw s).out = s.out := rfl
@[simp] theorem draw_nowMs (s : State) : (draw s).nowMs = s.nowMs := rfl
@[simp] theorem draw_uptime (s : State) : (draw s).uptime = s.uptime := rfl
@[simp] theorem draw_dict (s : State) : (draw s).dict = s.dict := rfl
@[simp] theorem draw_faults (s : State) : (draw s).faults = s.faults := rfl
@[simp] theorem draw_faultSeq (s : State) : (draw s).faultSeq = s.faultSeq := rfl
@[simp] theorem draw_pel (s : State) : (draw s).pel = s.pel := rfl
@[simp] theorem draw_host (s : State) : (draw s).host = s.host := rfl
@[simp] theorem draw_prog (s : State) : (draw s).prog = s.prog := rfl
@[simp] theorem draw_media (s : State) : (draw s).media = s.media := rfl
@[simp] theorem draw_pool (s : State) : (draw s).pool = s.pool := rfl
@[simp] theorem draw_dram (s : State) : (draw s).dram = s.dram := rfl
@[simp] theorem draw_hm (s : State) : (draw s).hm = s.hm := rfl
@[simp] theorem draw_ik (s : State) : (draw s).ik = s.ik := rfl
@[simp] theorem draw_customs (s : State) : (draw s).customs = s.customs := rfl
@[simp] theorem draw_eng (s : State) : (draw s).eng = s.eng := rfl
@[simp] theorem draw_tally (s : State) : (draw s).tally = s.tally := rfl
@[simp] theorem draw_power (s : State) : (draw s).power = s.power := rfl
@[simp] theorem draw_pair (s : State) : (draw s).pair = s.pair := rfl
@[simp] theorem draw_logbook (s : State) : (draw s).logbook = s.logbook := rfl
@[simp] theorem draw_mgmt (s : State) : (draw s).mgmt = s.mgmt := rfl
@[simp] theorem draw_service (s : State) : (draw s).service = s.service := rfl

/-! ### logPel -/

@[simp] theorem logPel_pending (s : State) (what : String) (a b : Nat) : (logPel s what a b).pending = s.pending := rfl
@[simp] theorem logPel_out (s : State) (what : String) (a b : Nat) : (logPel s what a b).out = s.out := rfl
@[simp] theorem logPel_nowMs (s : State) (what : String) (a b : Nat) : (logPel s what a b).nowMs = s.nowMs := rfl
@[simp] theorem logPel_uptime (s : State) (what : String) (a b : Nat) : (logPel s what a b).uptime = s.uptime := rfl
@[simp] theorem logPel_freeCount (s : State) (what : String) (a b : Nat) : (logPel s what a b).freeCount = s.freeCount := rfl
@[simp] theorem logPel_dict (s : State) (what : String) (a b : Nat) : (logPel s what a b).dict = s.dict := rfl
@[simp] theorem logPel_faults (s : State) (what : String) (a b : Nat) : (logPel s what a b).faults = s.faults := rfl
@[simp] theorem logPel_faultSeq (s : State) (what : String) (a b : Nat) : (logPel s what a b).faultSeq = s.faultSeq := rfl
@[simp] theorem logPel_host (s : State) (what : String) (a b : Nat) : (logPel s what a b).host = s.host := rfl
@[simp] theorem logPel_prog (s : State) (what : String) (a b : Nat) : (logPel s what a b).prog = s.prog := rfl
@[simp] theorem logPel_media (s : State) (what : String) (a b : Nat) : (logPel s what a b).media = s.media := rfl
@[simp] theorem logPel_pool (s : State) (what : String) (a b : Nat) : (logPel s what a b).pool = s.pool := rfl
@[simp] theorem logPel_dram (s : State) (what : String) (a b : Nat) : (logPel s what a b).dram = s.dram := rfl
@[simp] theorem logPel_hm (s : State) (what : String) (a b : Nat) : (logPel s what a b).hm = s.hm := rfl
@[simp] theorem logPel_ik (s : State) (what : String) (a b : Nat) : (logPel s what a b).ik = s.ik := rfl
@[simp] theorem logPel_customs (s : State) (what : String) (a b : Nat) : (logPel s what a b).customs = s.customs := rfl
@[simp] theorem logPel_eng (s : State) (what : String) (a b : Nat) : (logPel s what a b).eng = s.eng := rfl
@[simp] theorem logPel_tally (s : State) (what : String) (a b : Nat) : (logPel s what a b).tally = s.tally := rfl
@[simp] theorem logPel_power (s : State) (what : String) (a b : Nat) : (logPel s what a b).power = s.power := rfl
@[simp] theorem logPel_pair (s : State) (what : String) (a b : Nat) : (logPel s what a b).pair = s.pair := rfl
@[simp] theorem logPel_logbook (s : State) (what : String) (a b : Nat) : (logPel s what a b).logbook = s.logbook := rfl
@[simp] theorem logPel_mgmt (s : State) (what : String) (a b : Nat) : (logPel s what a b).mgmt = s.mgmt := rfl
@[simp] theorem logPel_service (s : State) (what : String) (a b : Nat) : (logPel s what a b).service = s.service := rfl

/-! ### setFn -/

@[simp] theorem setFn_pending (s : State) (fn : Nat) (f : Fn) : (setFn s fn f).pending = s.pending := rfl
@[simp] theorem setFn_out (s : State) (fn : Nat) (f : Fn) : (setFn s fn f).out = s.out := rfl
@[simp] theorem setFn_nowMs (s : State) (fn : Nat) (f : Fn) : (setFn s fn f).nowMs = s.nowMs := rfl
@[simp] theorem setFn_uptime (s : State) (fn : Nat) (f : Fn) : (setFn s fn f).uptime = s.uptime := rfl
@[simp] theorem setFn_freeCount (s : State) (fn : Nat) (f : Fn) : (setFn s fn f).freeCount = s.freeCount := rfl
@[simp] theorem setFn_dict (s : State) (fn : Nat) (f : Fn) : (setFn s fn f).dict = s.dict := rfl
@[simp] theorem setFn_faults (s : State) (fn : Nat) (f : Fn) : (setFn s fn f).faults = s.faults := rfl
@[simp] theorem setFn_faultSeq (s : State) (fn : Nat) (f : Fn) : (setFn s fn f).faultSeq = s.faultSeq := rfl
@[simp] theorem setFn_pel (s : State) (fn : Nat) (f : Fn) : (setFn s fn f).pel = s.pel := rfl
@[simp] theorem setFn_prog (s : State) (fn : Nat) (f : Fn) : (setFn s fn f).prog = s.prog := rfl
@[simp] theorem setFn_media (s : State) (fn : Nat) (f : Fn) : (setFn s fn f).media = s.media := rfl
@[simp] theorem setFn_pool (s : State) (fn : Nat) (f : Fn) : (setFn s fn f).pool = s.pool := rfl
@[simp] theorem setFn_dram (s : State) (fn : Nat) (f : Fn) : (setFn s fn f).dram = s.dram := rfl
@[simp] theorem setFn_hm (s : State) (fn : Nat) (f : Fn) : (setFn s fn f).hm = s.hm := rfl
@[simp] theorem setFn_ik (s : State) (fn : Nat) (f : Fn) : (setFn s fn f).ik = s.ik := rfl
@[simp] theorem setFn_customs (s : State) (fn : Nat) (f : Fn) : (setFn s fn f).customs = s.customs := rfl
@[simp] theorem setFn_eng (s : State) (fn : Nat) (f : Fn) : (setFn s fn f).eng = s.eng := rfl
@[simp] theorem setFn_tally (s : State) (fn : Nat) (f : Fn) : (setFn s fn f).tally = s.tally := rfl
@[simp] theorem setFn_power (s : State) (fn : Nat) (f : Fn) : (setFn s fn f).power = s.power := rfl
@[simp] theorem setFn_pair (s : State) (fn : Nat) (f : Fn) : (setFn s fn f).pair = s.pair := rfl
@[simp] theorem setFn_logbook (s : State) (fn : Nat) (f : Fn) : (setFn s fn f).logbook = s.logbook := rfl
@[simp] theorem setFn_mgmt (s : State) (fn : Nat) (f : Fn) : (setFn s fn f).mgmt = s.mgmt := rfl
@[simp] theorem setFn_service (s : State) (fn : Nat) (f : Fn) : (setFn s fn f).service = s.service := rfl

/-! ### setDk -/

@[simp] theorem setDk_pending (s : State) (d : Nat) (e : Docket) : (setDk s d e).pending = s.pending := rfl
@[simp] theorem setDk_out (s : State) (d : Nat) (e : Docket) : (setDk s d e).out = s.out := rfl
@[simp] theorem setDk_nowMs (s : State) (d : Nat) (e : Docket) : (setDk s d e).nowMs = s.nowMs := rfl
@[simp] theorem setDk_uptime (s : State) (d : Nat) (e : Docket) : (setDk s d e).uptime = s.uptime := rfl
@[simp] theorem setDk_freeCount (s : State) (d : Nat) (e : Docket) : (setDk s d e).freeCount = s.freeCount := rfl
@[simp] theorem setDk_dict (s : State) (d : Nat) (e : Docket) : (setDk s d e).dict = s.dict := rfl
@[simp] theorem setDk_faults (s : State) (d : Nat) (e : Docket) : (setDk s d e).faults = s.faults := rfl
@[simp] theorem setDk_faultSeq (s : State) (d : Nat) (e : Docket) : (setDk s d e).faultSeq = s.faultSeq := rfl
@[simp] theorem setDk_pel (s : State) (d : Nat) (e : Docket) : (setDk s d e).pel = s.pel := rfl
@[simp] theorem setDk_prog (s : State) (d : Nat) (e : Docket) : (setDk s d e).prog = s.prog := rfl
@[simp] theorem setDk_media (s : State) (d : Nat) (e : Docket) : (setDk s d e).media = s.media := rfl
@[simp] theorem setDk_pool (s : State) (d : Nat) (e : Docket) : (setDk s d e).pool = s.pool := rfl
@[simp] theorem setDk_dram (s : State) (d : Nat) (e : Docket) : (setDk s d e).dram = s.dram := rfl
@[simp] theorem setDk_hm (s : State) (d : Nat) (e : Docket) : (setDk s d e).hm = s.hm := rfl
@[simp] theorem setDk_ik (s : State) (d : Nat) (e : Docket) : (setDk s d e).ik = s.ik := rfl
@[simp] theorem setDk_customs (s : State) (d : Nat) (e : Docket) : (setDk s d e).customs = s.customs := rfl
@[simp] theorem setDk_eng (s : State) (d : Nat) (e : Docket) : (setDk s d e).eng = s.eng := rfl
@[simp] theorem setDk_tally (s : State) (d : Nat) (e : Docket) : (setDk s d e).tally = s.tally := rfl
@[simp] theorem setDk_power (s : State) (d : Nat) (e : Docket) : (setDk s d e).power = s.power := rfl
@[simp] theorem setDk_pair (s : State) (d : Nat) (e : Docket) : (setDk s d e).pair = s.pair := rfl
@[simp] theorem setDk_logbook (s : State) (d : Nat) (e : Docket) : (setDk s d e).logbook = s.logbook := rfl
@[simp] theorem setDk_mgmt (s : State) (d : Nat) (e : Docket) : (setDk s d e).mgmt = s.mgmt := rfl
@[simp] theorem setDk_service (s : State) (d : Nat) (e : Docket) : (setDk s d e).service = s.service := rfl

/-! ### setThr -/

@[simp] theorem setThr_pending (s : State) (t : Nat) (th : Thread) : (setThr s t th).pending = s.pending := rfl
@[simp] theorem setThr_out (s : State) (t : Nat) (th : Thread) : (setThr s t th).out = s.out := rfl
@[simp] theorem setThr_nowMs (s : State) (t : Nat) (th : Thread) : (setThr s t th).nowMs = s.nowMs := rfl
@[simp] theorem setThr_uptime (s : State) (t : Nat) (th : Thread) : (setThr s t th).uptime = s.uptime := rfl
@[simp] theorem setThr_freeCount (s : State) (t : Nat) (th : Thread) : (setThr s t th).freeCount = s.freeCount := rfl
@[simp] theorem setThr_dict (s : State) (t : Nat) (th : Thread) : (setThr s t th).dict = s.dict := rfl
@[simp] theorem setThr_faults (s : State) (t : Nat) (th : Thread) : (setThr s t th).faults = s.faults := rfl
@[simp] theorem setThr_faultSeq (s : State) (t : Nat) (th : Thread) : (setThr s t th).faultSeq = s.faultSeq := rfl
@[simp] theorem setThr_pel (s : State) (t : Nat) (th : Thread) : (setThr s t th).pel = s.pel := rfl
@[simp] theorem setThr_host (s : State) (t : Nat) (th : Thread) : (setThr s t th).host = s.host := rfl
@[simp] theorem setThr_prog (s : State) (t : Nat) (th : Thread) : (setThr s t th).prog = s.prog := rfl
@[simp] theorem setThr_media (s : State) (t : Nat) (th : Thread) : (setThr s t th).media = s.media := rfl
@[simp] theorem setThr_pool (s : State) (t : Nat) (th : Thread) : (setThr s t th).pool = s.pool := rfl
@[simp] theorem setThr_dram (s : State) (t : Nat) (th : Thread) : (setThr s t th).dram = s.dram := rfl
@[simp] theorem setThr_ik (s : State) (t : Nat) (th : Thread) : (setThr s t th).ik = s.ik := rfl
@[simp] theorem setThr_customs (s : State) (t : Nat) (th : Thread) : (setThr s t th).customs = s.customs := rfl
@[simp] theorem setThr_eng (s : State) (t : Nat) (th : Thread) : (setThr s t th).eng = s.eng := rfl
@[simp] theorem setThr_tally (s : State) (t : Nat) (th : Thread) : (setThr s t th).tally = s.tally := rfl
@[simp] theorem setThr_power (s : State) (t : Nat) (th : Thread) : (setThr s t th).power = s.power := rfl
@[simp] theorem setThr_pair (s : State) (t : Nat) (th : Thread) : (setThr s t th).pair = s.pair := rfl
@[simp] theorem setThr_logbook (s : State) (t : Nat) (th : Thread) : (setThr s t th).logbook = s.logbook := rfl
@[simp] theorem setThr_mgmt (s : State) (t : Nat) (th : Thread) : (setThr s t th).mgmt = s.mgmt := rfl
@[simp] theorem setThr_service (s : State) (t : Nat) (th : Thread) : (setThr s t th).service = s.service := rfl

/-! ### setCore -/

@[simp] theorem setCore_pending (s : State) (c : Nat) (x : Core) : (setCore s c x).pending = s.pending := rfl
@[simp] theorem setCore_out (s : State) (c : Nat) (x : Core) : (setCore s c x).out = s.out := rfl
@[simp] theorem setCore_nowMs (s : State) (c : Nat) (x : Core) : (setCore s c x).nowMs = s.nowMs := rfl
@[simp] theorem setCore_uptime (s : State) (c : Nat) (x : Core) : (setCore s c x).uptime = s.uptime := rfl
@[simp] theorem setCore_freeCount (s : State) (c : Nat) (x : Core) : (setCore s c x).freeCount = s.freeCount := rfl
@[simp] theorem setCore_dict (s : State) (c : Nat) (x : Core) : (setCore s c x).dict = s.dict := rfl
@[simp] theorem setCore_faults (s : State) (c : Nat) (x : Core) : (setCore s c x).faults = s.faults := rfl
@[simp] theorem setCore_faultSeq (s : State) (c : Nat) (x : Core) : (setCore s c x).faultSeq = s.faultSeq := rfl
@[simp] theorem setCore_pel (s : State) (c : Nat) (x : Core) : (setCore s c x).pel = s.pel := rfl
@[simp] theorem setCore_host (s : State) (c : Nat) (x : Core) : (setCore s c x).host = s.host := rfl
@[simp] theorem setCore_prog (s : State) (c : Nat) (x : Core) : (setCore s c x).prog = s.prog := rfl
@[simp] theorem setCore_media (s : State) (c : Nat) (x : Core) : (setCore s c x).media = s.media := rfl
@[simp] theorem setCore_pool (s : State) (c : Nat) (x : Core) : (setCore s c x).pool = s.pool := rfl
@[simp] theorem setCore_dram (s : State) (c : Nat) (x : Core) : (setCore s c x).dram = s.dram := rfl
@[simp] theorem setCore_hm (s : State) (c : Nat) (x : Core) : (setCore s c x).hm = s.hm := rfl
@[simp] theorem setCore_customs (s : State) (c : Nat) (x : Core) : (setCore s c x).customs = s.customs := rfl
@[simp] theorem setCore_eng (s : State) (c : Nat) (x : Core) : (setCore s c x).eng = s.eng := rfl
@[simp] theorem setCore_tally (s : State) (c : Nat) (x : Core) : (setCore s c x).tally = s.tally := rfl
@[simp] theorem setCore_power (s : State) (c : Nat) (x : Core) : (setCore s c x).power = s.power := rfl
@[simp] theorem setCore_pair (s : State) (c : Nat) (x : Core) : (setCore s c x).pair = s.pair := rfl
@[simp] theorem setCore_logbook (s : State) (c : Nat) (x : Core) : (setCore s c x).logbook = s.logbook := rfl
@[simp] theorem setCore_mgmt (s : State) (c : Nat) (x : Core) : (setCore s c x).mgmt = s.mgmt := rfl
@[simp] theorem setCore_service (s : State) (c : Nat) (x : Core) : (setCore s c x).service = s.service := rfl

/-! ### setChan -/

@[simp] theorem setChan_pending (s : State) (k : Nat) (c : Chan) : (setChan s k c).pending = s.pending := rfl
@[simp] theorem setChan_out (s : State) (k : Nat) (c : Chan) : (setChan s k c).out = s.out := rfl
@[simp] theorem setChan_nowMs (s : State) (k : Nat) (c : Chan) : (setChan s k c).nowMs = s.nowMs := rfl
@[simp] theorem setChan_uptime (s : State) (k : Nat) (c : Chan) : (setChan s k c).uptime = s.uptime := rfl
@[simp] theorem setChan_freeCount (s : State) (k : Nat) (c : Chan) : (setChan s k c).freeCount = s.freeCount := rfl
@[simp] theorem setChan_dict (s : State) (k : Nat) (c : Chan) : (setChan s k c).dict = s.dict := rfl
@[simp] theorem setChan_faults (s : State) (k : Nat) (c : Chan) : (setChan s k c).faults = s.faults := rfl
@[simp] theorem setChan_faultSeq (s : State) (k : Nat) (c : Chan) : (setChan s k c).faultSeq = s.faultSeq := rfl
@[simp] theorem setChan_pel (s : State) (k : Nat) (c : Chan) : (setChan s k c).pel = s.pel := rfl
@[simp] theorem setChan_host (s : State) (k : Nat) (c : Chan) : (setChan s k c).host = s.host := rfl
@[simp] theorem setChan_prog (s : State) (k : Nat) (c : Chan) : (setChan s k c).prog = s.prog := rfl
@[simp] theorem setChan_media (s : State) (k : Nat) (c : Chan) : (setChan s k c).media = s.media := rfl
@[simp] theorem setChan_pool (s : State) (k : Nat) (c : Chan) : (setChan s k c).pool = s.pool := rfl
@[simp] theorem setChan_dram (s : State) (k : Nat) (c : Chan) : (setChan s k c).dram = s.dram := rfl
@[simp] theorem setChan_ik (s : State) (k : Nat) (c : Chan) : (setChan s k c).ik = s.ik := rfl
@[simp] theorem setChan_customs (s : State) (k : Nat) (c : Chan) : (setChan s k c).customs = s.customs := rfl
@[simp] theorem setChan_eng (s : State) (k : Nat) (c : Chan) : (setChan s k c).eng = s.eng := rfl
@[simp] theorem setChan_tally (s : State) (k : Nat) (c : Chan) : (setChan s k c).tally = s.tally := rfl
@[simp] theorem setChan_power (s : State) (k : Nat) (c : Chan) : (setChan s k c).power = s.power := rfl
@[simp] theorem setChan_pair (s : State) (k : Nat) (c : Chan) : (setChan s k c).pair = s.pair := rfl
@[simp] theorem setChan_logbook (s : State) (k : Nat) (c : Chan) : (setChan s k c).logbook = s.logbook := rfl
@[simp] theorem setChan_mgmt (s : State) (k : Nat) (c : Chan) : (setChan s k c).mgmt = s.mgmt := rfl
@[simp] theorem setChan_service (s : State) (k : Nat) (c : Chan) : (setChan s k c).service = s.service := rfl

/-! ### setLease -/

@[simp] theorem setLease_pending (s : State) (c : Nat) (l : CoreLease) : (setLease s c l).pending = s.pending := rfl
@[simp] theorem setLease_out (s : State) (c : Nat) (l : CoreLease) : (setLease s c l).out = s.out := rfl
@[simp] theorem setLease_nowMs (s : State) (c : Nat) (l : CoreLease) : (setLease s c l).nowMs = s.nowMs := rfl
@[simp] theorem setLease_uptime (s : State) (c : Nat) (l : CoreLease) : (setLease s c l).uptime = s.uptime := rfl
@[simp] theorem setLease_freeCount (s : State) (c : Nat) (l : CoreLease) : (setLease s c l).freeCount = s.freeCount := rfl
@[simp] theorem setLease_dict (s : State) (c : Nat) (l : CoreLease) : (setLease s c l).dict = s.dict := rfl
@[simp] theorem setLease_faults (s : State) (c : Nat) (l : CoreLease) : (setLease s c l).faults = s.faults := rfl
@[simp] theorem setLease_faultSeq (s : State) (c : Nat) (l : CoreLease) : (setLease s c l).faultSeq = s.faultSeq := rfl
@[simp] theorem setLease_pel (s : State) (c : Nat) (l : CoreLease) : (setLease s c l).pel = s.pel := rfl
@[simp] theorem setLease_host (s : State) (c : Nat) (l : CoreLease) : (setLease s c l).host = s.host := rfl
@[simp] theorem setLease_prog (s : State) (c : Nat) (l : CoreLease) : (setLease s c l).prog = s.prog := rfl
@[simp] theorem setLease_media (s : State) (c : Nat) (l : CoreLease) : (setLease s c l).media = s.media := rfl
@[simp] theorem setLease_pool (s : State) (c : Nat) (l : CoreLease) : (setLease s c l).pool = s.pool := rfl
@[simp] theorem setLease_dram (s : State) (c : Nat) (l : CoreLease) : (setLease s c l).dram = s.dram := rfl
@[simp] theorem setLease_ik (s : State) (c : Nat) (l : CoreLease) : (setLease s c l).ik = s.ik := rfl
@[simp] theorem setLease_customs (s : State) (c : Nat) (l : CoreLease) : (setLease s c l).customs = s.customs := rfl
@[simp] theorem setLease_eng (s : State) (c : Nat) (l : CoreLease) : (setLease s c l).eng = s.eng := rfl
@[simp] theorem setLease_tally (s : State) (c : Nat) (l : CoreLease) : (setLease s c l).tally = s.tally := rfl
@[simp] theorem setLease_power (s : State) (c : Nat) (l : CoreLease) : (setLease s c l).power = s.power := rfl
@[simp] theorem setLease_pair (s : State) (c : Nat) (l : CoreLease) : (setLease s c l).pair = s.pair := rfl
@[simp] theorem setLease_logbook (s : State) (c : Nat) (l : CoreLease) : (setLease s c l).logbook = s.logbook := rfl
@[simp] theorem setLease_mgmt (s : State) (c : Nat) (l : CoreLease) : (setLease s c l).mgmt = s.mgmt := rfl
@[simp] theorem setLease_service (s : State) (c : Nat) (l : CoreLease) : (setLease s c l).service = s.service := rfl

/-! ### setNs -/

@[simp] theorem setNs_pending (s : State) (n : Nat) (v : Ns) : (setNs s n v).pending = s.pending := rfl
@[simp] theorem setNs_out (s : State) (n : Nat) (v : Ns) : (setNs s n v).out = s.out := rfl
@[simp] theorem setNs_nowMs (s : State) (n : Nat) (v : Ns) : (setNs s n v).nowMs = s.nowMs := rfl
@[simp] theorem setNs_uptime (s : State) (n : Nat) (v : Ns) : (setNs s n v).uptime = s.uptime := rfl
@[simp] theorem setNs_freeCount (s : State) (n : Nat) (v : Ns) : (setNs s n v).freeCount = s.freeCount := rfl
@[simp] theorem setNs_dict (s : State) (n : Nat) (v : Ns) : (setNs s n v).dict = s.dict := rfl
@[simp] theorem setNs_faults (s : State) (n : Nat) (v : Ns) : (setNs s n v).faults = s.faults := rfl
@[simp] theorem setNs_faultSeq (s : State) (n : Nat) (v : Ns) : (setNs s n v).faultSeq = s.faultSeq := rfl
@[simp] theorem setNs_pel (s : State) (n : Nat) (v : Ns) : (setNs s n v).pel = s.pel := rfl
@[simp] theorem setNs_host (s : State) (n : Nat) (v : Ns) : (setNs s n v).host = s.host := rfl
@[simp] theorem setNs_prog (s : State) (n : Nat) (v : Ns) : (setNs s n v).prog = s.prog := rfl
@[simp] theorem setNs_pool (s : State) (n : Nat) (v : Ns) : (setNs s n v).pool = s.pool := rfl
@[simp] theorem setNs_dram (s : State) (n : Nat) (v : Ns) : (setNs s n v).dram = s.dram := rfl
@[simp] theorem setNs_hm (s : State) (n : Nat) (v : Ns) : (setNs s n v).hm = s.hm := rfl
@[simp] theorem setNs_ik (s : State) (n : Nat) (v : Ns) : (setNs s n v).ik = s.ik := rfl
@[simp] theorem setNs_customs (s : State) (n : Nat) (v : Ns) : (setNs s n v).customs = s.customs := rfl
@[simp] theorem setNs_eng (s : State) (n : Nat) (v : Ns) : (setNs s n v).eng = s.eng := rfl
@[simp] theorem setNs_tally (s : State) (n : Nat) (v : Ns) : (setNs s n v).tally = s.tally := rfl
@[simp] theorem setNs_power (s : State) (n : Nat) (v : Ns) : (setNs s n v).power = s.power := rfl
@[simp] theorem setNs_pair (s : State) (n : Nat) (v : Ns) : (setNs s n v).pair = s.pair := rfl
@[simp] theorem setNs_logbook (s : State) (n : Nat) (v : Ns) : (setNs s n v).logbook = s.logbook := rfl
@[simp] theorem setNs_mgmt (s : State) (n : Nat) (v : Ns) : (setNs s n v).mgmt = s.mgmt := rfl
@[simp] theorem setNs_service (s : State) (n : Nat) (v : Ns) : (setNs s n v).service = s.service := rfl

/-! ### setBlk -/

@[simp] theorem setBlk_pending (s : State) (b : Nat) (v : Block) : (setBlk s b v).pending = s.pending := rfl
@[simp] theorem setBlk_out (s : State) (b : Nat) (v : Block) : (setBlk s b v).out = s.out := rfl
@[simp] theorem setBlk_nowMs (s : State) (b : Nat) (v : Block) : (setBlk s b v).nowMs = s.nowMs := rfl
@[simp] theorem setBlk_uptime (s : State) (b : Nat) (v : Block) : (setBlk s b v).uptime = s.uptime := rfl
@[simp] theorem setBlk_freeCount (s : State) (b : Nat) (v : Block) : (setBlk s b v).freeCount = s.freeCount := rfl
@[simp] theorem setBlk_dict (s : State) (b : Nat) (v : Block) : (setBlk s b v).dict = s.dict := rfl
@[simp] theorem setBlk_faults (s : State) (b : Nat) (v : Block) : (setBlk s b v).faults = s.faults := rfl
@[simp] theorem setBlk_faultSeq (s : State) (b : Nat) (v : Block) : (setBlk s b v).faultSeq = s.faultSeq := rfl
@[simp] theorem setBlk_pel (s : State) (b : Nat) (v : Block) : (setBlk s b v).pel = s.pel := rfl
@[simp] theorem setBlk_host (s : State) (b : Nat) (v : Block) : (setBlk s b v).host = s.host := rfl
@[simp] theorem setBlk_prog (s : State) (b : Nat) (v : Block) : (setBlk s b v).prog = s.prog := rfl
@[simp] theorem setBlk_pool (s : State) (b : Nat) (v : Block) : (setBlk s b v).pool = s.pool := rfl
@[simp] theorem setBlk_dram (s : State) (b : Nat) (v : Block) : (setBlk s b v).dram = s.dram := rfl
@[simp] theorem setBlk_hm (s : State) (b : Nat) (v : Block) : (setBlk s b v).hm = s.hm := rfl
@[simp] theorem setBlk_ik (s : State) (b : Nat) (v : Block) : (setBlk s b v).ik = s.ik := rfl
@[simp] theorem setBlk_customs (s : State) (b : Nat) (v : Block) : (setBlk s b v).customs = s.customs := rfl
@[simp] theorem setBlk_eng (s : State) (b : Nat) (v : Block) : (setBlk s b v).eng = s.eng := rfl
@[simp] theorem setBlk_tally (s : State) (b : Nat) (v : Block) : (setBlk s b v).tally = s.tally := rfl
@[simp] theorem setBlk_power (s : State) (b : Nat) (v : Block) : (setBlk s b v).power = s.power := rfl
@[simp] theorem setBlk_pair (s : State) (b : Nat) (v : Block) : (setBlk s b v).pair = s.pair := rfl
@[simp] theorem setBlk_logbook (s : State) (b : Nat) (v : Block) : (setBlk s b v).logbook = s.logbook := rfl
@[simp] theorem setBlk_mgmt (s : State) (b : Nat) (v : Block) : (setBlk s b v).mgmt = s.mgmt := rfl
@[simp] theorem setBlk_service (s : State) (b : Nat) (v : Block) : (setBlk s b v).service = s.service := rfl

/-! ### setBerth -/

@[simp] theorem setBerth_pending (s : State) (a : Nat) (b : Berth) : (setBerth s a b).pending = s.pending := rfl
@[simp] theorem setBerth_out (s : State) (a : Nat) (b : Berth) : (setBerth s a b).out = s.out := rfl
@[simp] theorem setBerth_nowMs (s : State) (a : Nat) (b : Berth) : (setBerth s a b).nowMs = s.nowMs := rfl
@[simp] theorem setBerth_uptime (s : State) (a : Nat) (b : Berth) : (setBerth s a b).uptime = s.uptime := rfl
@[simp] theorem setBerth_freeCount (s : State) (a : Nat) (b : Berth) : (setBerth s a b).freeCount = s.freeCount := rfl
@[simp] theorem setBerth_dict (s : State) (a : Nat) (b : Berth) : (setBerth s a b).dict = s.dict := rfl
@[simp] theorem setBerth_faults (s : State) (a : Nat) (b : Berth) : (setBerth s a b).faults = s.faults := rfl
@[simp] theorem setBerth_faultSeq (s : State) (a : Nat) (b : Berth) : (setBerth s a b).faultSeq = s.faultSeq := rfl
@[simp] theorem setBerth_pel (s : State) (a : Nat) (b : Berth) : (setBerth s a b).pel = s.pel := rfl
@[simp] theorem setBerth_host (s : State) (a : Nat) (b : Berth) : (setBerth s a b).host = s.host := rfl
@[simp] theorem setBerth_prog (s : State) (a : Nat) (b : Berth) : (setBerth s a b).prog = s.prog := rfl
@[simp] theorem setBerth_media (s : State) (a : Nat) (b : Berth) : (setBerth s a b).media = s.media := rfl
@[simp] theorem setBerth_dram (s : State) (a : Nat) (b : Berth) : (setBerth s a b).dram = s.dram := rfl
@[simp] theorem setBerth_hm (s : State) (a : Nat) (b : Berth) : (setBerth s a b).hm = s.hm := rfl
@[simp] theorem setBerth_ik (s : State) (a : Nat) (b : Berth) : (setBerth s a b).ik = s.ik := rfl
@[simp] theorem setBerth_customs (s : State) (a : Nat) (b : Berth) : (setBerth s a b).customs = s.customs := rfl
@[simp] theorem setBerth_eng (s : State) (a : Nat) (b : Berth) : (setBerth s a b).eng = s.eng := rfl
@[simp] theorem setBerth_tally (s : State) (a : Nat) (b : Berth) : (setBerth s a b).tally = s.tally := rfl
@[simp] theorem setBerth_power (s : State) (a : Nat) (b : Berth) : (setBerth s a b).power = s.power := rfl
@[simp] theorem setBerth_pair (s : State) (a : Nat) (b : Berth) : (setBerth s a b).pair = s.pair := rfl
@[simp] theorem setBerth_logbook (s : State) (a : Nat) (b : Berth) : (setBerth s a b).logbook = s.logbook := rfl
@[simp] theorem setBerth_mgmt (s : State) (a : Nat) (b : Berth) : (setBerth s a b).mgmt = s.mgmt := rfl
@[simp] theorem setBerth_service (s : State) (a : Nat) (b : Berth) : (setBerth s a b).service = s.service := rfl

/-! ### setScan -/

@[simp] theorem setScan_pending (s : State) (i : Nat) (v : Scan) : (setScan s i v).pending = s.pending := rfl
@[simp] theorem setScan_out (s : State) (i : Nat) (v : Scan) : (setScan s i v).out = s.out := rfl
@[simp] theorem setScan_nowMs (s : State) (i : Nat) (v : Scan) : (setScan s i v).nowMs = s.nowMs := rfl
@[simp] theorem setScan_uptime (s : State) (i : Nat) (v : Scan) : (setScan s i v).uptime = s.uptime := rfl
@[simp] theorem setScan_freeCount (s : State) (i : Nat) (v : Scan) : (setScan s i v).freeCount = s.freeCount := rfl
@[simp] theorem setScan_dict (s : State) (i : Nat) (v : Scan) : (setScan s i v).dict = s.dict := rfl
@[simp] theorem setScan_faults (s : State) (i : Nat) (v : Scan) : (setScan s i v).faults = s.faults := rfl
@[simp] theorem setScan_faultSeq (s : State) (i : Nat) (v : Scan) : (setScan s i v).faultSeq = s.faultSeq := rfl
@[simp] theorem setScan_pel (s : State) (i : Nat) (v : Scan) : (setScan s i v).pel = s.pel := rfl
@[simp] theorem setScan_host (s : State) (i : Nat) (v : Scan) : (setScan s i v).host = s.host := rfl
@[simp] theorem setScan_prog (s : State) (i : Nat) (v : Scan) : (setScan s i v).prog = s.prog := rfl
@[simp] theorem setScan_media (s : State) (i : Nat) (v : Scan) : (setScan s i v).media = s.media := rfl
@[simp] theorem setScan_pool (s : State) (i : Nat) (v : Scan) : (setScan s i v).pool = s.pool := rfl
@[simp] theorem setScan_dram (s : State) (i : Nat) (v : Scan) : (setScan s i v).dram = s.dram := rfl
@[simp] theorem setScan_hm (s : State) (i : Nat) (v : Scan) : (setScan s i v).hm = s.hm := rfl
@[simp] theorem setScan_ik (s : State) (i : Nat) (v : Scan) : (setScan s i v).ik = s.ik := rfl
@[simp] theorem setScan_eng (s : State) (i : Nat) (v : Scan) : (setScan s i v).eng = s.eng := rfl
@[simp] theorem setScan_tally (s : State) (i : Nat) (v : Scan) : (setScan s i v).tally = s.tally := rfl
@[simp] theorem setScan_power (s : State) (i : Nat) (v : Scan) : (setScan s i v).power = s.power := rfl
@[simp] theorem setScan_pair (s : State) (i : Nat) (v : Scan) : (setScan s i v).pair = s.pair := rfl
@[simp] theorem setScan_logbook (s : State) (i : Nat) (v : Scan) : (setScan s i v).logbook = s.logbook := rfl
@[simp] theorem setScan_mgmt (s : State) (i : Nat) (v : Scan) : (setScan s i v).mgmt = s.mgmt := rfl
@[simp] theorem setScan_service (s : State) (i : Nat) (v : Scan) : (setScan s i v).service = s.service := rfl

/-! ### setSlot -/

@[simp] theorem setSlot_pending (s : State) (i : Nat) (v : KeySlot) : (setSlot s i v).pending = s.pending := rfl
@[simp] theorem setSlot_out (s : State) (i : Nat) (v : KeySlot) : (setSlot s i v).out = s.out := rfl
@[simp] theorem setSlot_nowMs (s : State) (i : Nat) (v : KeySlot) : (setSlot s i v).nowMs = s.nowMs := rfl
@[simp] theorem setSlot_uptime (s : State) (i : Nat) (v : KeySlot) : (setSlot s i v).uptime = s.uptime := rfl
@[simp] theorem setSlot_freeCount (s : State) (i : Nat) (v : KeySlot) : (setSlot s i v).freeCount = s.freeCount := rfl
@[simp] theorem setSlot_dict (s : State) (i : Nat) (v : KeySlot) : (setSlot s i v).dict = s.dict := rfl
@[simp] theorem setSlot_faults (s : State) (i : Nat) (v : KeySlot) : (setSlot s i v).faults = s.faults := rfl
@[simp] theorem setSlot_faultSeq (s : State) (i : Nat) (v : KeySlot) : (setSlot s i v).faultSeq = s.faultSeq := rfl
@[simp] theorem setSlot_pel (s : State) (i : Nat) (v : KeySlot) : (setSlot s i v).pel = s.pel := rfl
@[simp] theorem setSlot_host (s : State) (i : Nat) (v : KeySlot) : (setSlot s i v).host = s.host := rfl
@[simp] theorem setSlot_prog (s : State) (i : Nat) (v : KeySlot) : (setSlot s i v).prog = s.prog := rfl
@[simp] theorem setSlot_media (s : State) (i : Nat) (v : KeySlot) : (setSlot s i v).media = s.media := rfl
@[simp] theorem setSlot_pool (s : State) (i : Nat) (v : KeySlot) : (setSlot s i v).pool = s.pool := rfl
@[simp] theorem setSlot_dram (s : State) (i : Nat) (v : KeySlot) : (setSlot s i v).dram = s.dram := rfl
@[simp] theorem setSlot_hm (s : State) (i : Nat) (v : KeySlot) : (setSlot s i v).hm = s.hm := rfl
@[simp] theorem setSlot_ik (s : State) (i : Nat) (v : KeySlot) : (setSlot s i v).ik = s.ik := rfl
@[simp] theorem setSlot_customs (s : State) (i : Nat) (v : KeySlot) : (setSlot s i v).customs = s.customs := rfl
@[simp] theorem setSlot_tally (s : State) (i : Nat) (v : KeySlot) : (setSlot s i v).tally = s.tally := rfl
@[simp] theorem setSlot_power (s : State) (i : Nat) (v : KeySlot) : (setSlot s i v).power = s.power := rfl
@[simp] theorem setSlot_pair (s : State) (i : Nat) (v : KeySlot) : (setSlot s i v).pair = s.pair := rfl
@[simp] theorem setSlot_logbook (s : State) (i : Nat) (v : KeySlot) : (setSlot s i v).logbook = s.logbook := rfl
@[simp] theorem setSlot_mgmt (s : State) (i : Nat) (v : KeySlot) : (setSlot s i v).mgmt = s.mgmt := rfl
@[simp] theorem setSlot_service (s : State) (i : Nat) (v : KeySlot) : (setSlot s i v).service = s.service := rfl

/-! ### setMsg -/

@[simp] theorem setMsg_pending (s : State) (e : Nat) (m : Option CMsg) : (setMsg s e m).pending = s.pending := rfl
@[simp] theorem setMsg_out (s : State) (e : Nat) (m : Option CMsg) : (setMsg s e m).out = s.out := rfl
@[simp] theorem setMsg_nowMs (s : State) (e : Nat) (m : Option CMsg) : (setMsg s e m).nowMs = s.nowMs := rfl
@[simp] theorem setMsg_uptime (s : State) (e : Nat) (m : Option CMsg) : (setMsg s e m).uptime = s.uptime := rfl
@[simp] theorem setMsg_freeCount (s : State) (e : Nat) (m : Option CMsg) : (setMsg s e m).freeCount = s.freeCount := rfl
@[simp] theorem setMsg_dict (s : State) (e : Nat) (m : Option CMsg) : (setMsg s e m).dict = s.dict := rfl
@[simp] theorem setMsg_faults (s : State) (e : Nat) (m : Option CMsg) : (setMsg s e m).faults = s.faults := rfl
@[simp] theorem setMsg_faultSeq (s : State) (e : Nat) (m : Option CMsg) : (setMsg s e m).faultSeq = s.faultSeq := rfl
@[simp] theorem setMsg_pel (s : State) (e : Nat) (m : Option CMsg) : (setMsg s e m).pel = s.pel := rfl
@[simp] theorem setMsg_host (s : State) (e : Nat) (m : Option CMsg) : (setMsg s e m).host = s.host := rfl
@[simp] theorem setMsg_prog (s : State) (e : Nat) (m : Option CMsg) : (setMsg s e m).prog = s.prog := rfl
@[simp] theorem setMsg_media (s : State) (e : Nat) (m : Option CMsg) : (setMsg s e m).media = s.media := rfl
@[simp] theorem setMsg_pool (s : State) (e : Nat) (m : Option CMsg) : (setMsg s e m).pool = s.pool := rfl
@[simp] theorem setMsg_dram (s : State) (e : Nat) (m : Option CMsg) : (setMsg s e m).dram = s.dram := rfl
@[simp] theorem setMsg_hm (s : State) (e : Nat) (m : Option CMsg) : (setMsg s e m).hm = s.hm := rfl
@[simp] theorem setMsg_ik (s : State) (e : Nat) (m : Option CMsg) : (setMsg s e m).ik = s.ik := rfl
@[simp] theorem setMsg_customs (s : State) (e : Nat) (m : Option CMsg) : (setMsg s e m).customs = s.customs := rfl
@[simp] theorem setMsg_tally (s : State) (e : Nat) (m : Option CMsg) : (setMsg s e m).tally = s.tally := rfl
@[simp] theorem setMsg_power (s : State) (e : Nat) (m : Option CMsg) : (setMsg s e m).power = s.power := rfl
@[simp] theorem setMsg_pair (s : State) (e : Nat) (m : Option CMsg) : (setMsg s e m).pair = s.pair := rfl
@[simp] theorem setMsg_logbook (s : State) (e : Nat) (m : Option CMsg) : (setMsg s e m).logbook = s.logbook := rfl
@[simp] theorem setMsg_mgmt (s : State) (e : Nat) (m : Option CMsg) : (setMsg s e m).mgmt = s.mgmt := rfl
@[simp] theorem setMsg_service (s : State) (e : Nat) (m : Option CMsg) : (setMsg s e m).service = s.service := rfl

/-! ### setEng -/

@[simp] theorem setEng_pending (s : State) (k : Bool) (e : Nat) (v : Engine) : (setEng s k e v).pending = s.pending := by cases k <;> rfl
@[simp] theorem setEng_out (s : State) (k : Bool) (e : Nat) (v : Engine) : (setEng s k e v).out = s.out := by cases k <;> rfl
@[simp] theorem setEng_nowMs (s : State) (k : Bool) (e : Nat) (v : Engine) : (setEng s k e v).nowMs = s.nowMs := by cases k <;> rfl
@[simp] theorem setEng_uptime (s : State) (k : Bool) (e : Nat) (v : Engine) : (setEng s k e v).uptime = s.uptime := by cases k <;> rfl
@[simp] theorem setEng_freeCount (s : State) (k : Bool) (e : Nat) (v : Engine) : (setEng s k e v).freeCount = s.freeCount := by cases k <;> rfl
@[simp] theorem setEng_dict (s : State) (k : Bool) (e : Nat) (v : Engine) : (setEng s k e v).dict = s.dict := by cases k <;> rfl
@[simp] theorem setEng_faults (s : State) (k : Bool) (e : Nat) (v : Engine) : (setEng s k e v).faults = s.faults := by cases k <;> rfl
@[simp] theorem setEng_faultSeq (s : State) (k : Bool) (e : Nat) (v : Engine) : (setEng s k e v).faultSeq = s.faultSeq := by cases k <;> rfl
@[simp] theorem setEng_pel (s : State) (k : Bool) (e : Nat) (v : Engine) : (setEng s k e v).pel = s.pel := by cases k <;> rfl
@[simp] theorem setEng_host (s : State) (k : Bool) (e : Nat) (v : Engine) : (setEng s k e v).host = s.host := by cases k <;> rfl
@[simp] theorem setEng_prog (s : State) (k : Bool) (e : Nat) (v : Engine) : (setEng s k e v).prog = s.prog := by cases k <;> rfl
@[simp] theorem setEng_media (s : State) (k : Bool) (e : Nat) (v : Engine) : (setEng s k e v).media = s.media := by cases k <;> rfl
@[simp] theorem setEng_pool (s : State) (k : Bool) (e : Nat) (v : Engine) : (setEng s k e v).pool = s.pool := by cases k <;> rfl
@[simp] theorem setEng_dram (s : State) (k : Bool) (e : Nat) (v : Engine) : (setEng s k e v).dram = s.dram := by cases k <;> rfl
@[simp] theorem setEng_hm (s : State) (k : Bool) (e : Nat) (v : Engine) : (setEng s k e v).hm = s.hm := by cases k <;> rfl
@[simp] theorem setEng_ik (s : State) (k : Bool) (e : Nat) (v : Engine) : (setEng s k e v).ik = s.ik := by cases k <;> rfl
@[simp] theorem setEng_customs (s : State) (k : Bool) (e : Nat) (v : Engine) : (setEng s k e v).customs = s.customs := by cases k <;> rfl
@[simp] theorem setEng_tally (s : State) (k : Bool) (e : Nat) (v : Engine) : (setEng s k e v).tally = s.tally := by cases k <;> rfl
@[simp] theorem setEng_power (s : State) (k : Bool) (e : Nat) (v : Engine) : (setEng s k e v).power = s.power := by cases k <;> rfl
@[simp] theorem setEng_pair (s : State) (k : Bool) (e : Nat) (v : Engine) : (setEng s k e v).pair = s.pair := by cases k <;> rfl
@[simp] theorem setEng_logbook (s : State) (k : Bool) (e : Nat) (v : Engine) : (setEng s k e v).logbook = s.logbook := by cases k <;> rfl
@[simp] theorem setEng_mgmt (s : State) (k : Bool) (e : Nat) (v : Engine) : (setEng s k e v).mgmt = s.mgmt := by cases k <;> rfl
@[simp] theorem setEng_service (s : State) (k : Bool) (e : Nat) (v : Engine) : (setEng s k e v).service = s.service := by cases k <;> rfl

/-! ### setCommon -/

@[simp] theorem setCommon_pending (s : State) (k : Bool) (l : List EJob) : (setCommon s k l).pending = s.pending := by cases k <;> rfl
@[simp] theorem setCommon_out (s : State) (k : Bool) (l : List EJob) : (setCommon s k l).out = s.out := by cases k <;> rfl
@[simp] theorem setCommon_nowMs (s : State) (k : Bool) (l : List EJob) : (setCommon s k l).nowMs = s.nowMs := by cases k <;> rfl
@[simp] theorem setCommon_uptime (s : State) (k : Bool) (l : List EJob) : (setCommon s k l).uptime = s.uptime := by cases k <;> rfl
@[simp] theorem setCommon_freeCount (s : State) (k : Bool) (l : List EJob) : (setCommon s k l).freeCount = s.freeCount := by cases k <;> rfl
@[simp] theorem setCommon_dict (s : State) (k : Bool) (l : List EJob) : (setCommon s k l).dict = s.dict := by cases k <;> rfl
@[simp] theorem setCommon_faults (s : State) (k : Bool) (l : List EJob) : (setCommon s k l).faults = s.faults := by cases k <;> rfl
@[simp] theorem setCommon_faultSeq (s : State) (k : Bool) (l : List EJob) : (setCommon s k l).faultSeq = s.faultSeq := by cases k <;> rfl
@[simp] theorem setCommon_pel (s : State) (k : Bool) (l : List EJob) : (setCommon s k l).pel = s.pel := by cases k <;> rfl
@[simp] theorem setCommon_host (s : State) (k : Bool) (l : List EJob) : (setCommon s k l).host = s.host := by cases k <;> rfl
@[simp] theorem setCommon_prog (s : State) (k : Bool) (l : List EJob) : (setCommon s k l).prog = s.prog := by cases k <;> rfl
@[simp] theorem setCommon_media (s : State) (k : Bool) (l : List EJob) : (setCommon s k l).media = s.media := by cases k <;> rfl
@[simp] theorem setCommon_pool (s : State) (k : Bool) (l : List EJob) : (setCommon s k l).pool = s.pool := by cases k <;> rfl
@[simp] theorem setCommon_dram (s : State) (k : Bool) (l : List EJob) : (setCommon s k l).dram = s.dram := by cases k <;> rfl
@[simp] theorem setCommon_hm (s : State) (k : Bool) (l : List EJob) : (setCommon s k l).hm = s.hm := by cases k <;> rfl
@[simp] theorem setCommon_ik (s : State) (k : Bool) (l : List EJob) : (setCommon s k l).ik = s.ik := by cases k <;> rfl
@[simp] theorem setCommon_customs (s : State) (k : Bool) (l : List EJob) : (setCommon s k l).customs = s.customs := by cases k <;> rfl
@[simp] theorem setCommon_tally (s : State) (k : Bool) (l : List EJob) : (setCommon s k l).tally = s.tally := by cases k <;> rfl
@[simp] theorem setCommon_power (s : State) (k : Bool) (l : List EJob) : (setCommon s k l).power = s.power := by cases k <;> rfl
@[simp] theorem setCommon_pair (s : State) (k : Bool) (l : List EJob) : (setCommon s k l).pair = s.pair := by cases k <;> rfl
@[simp] theorem setCommon_logbook (s : State) (k : Bool) (l : List EJob) : (setCommon s k l).logbook = s.logbook := by cases k <;> rfl
@[simp] theorem setCommon_mgmt (s : State) (k : Bool) (l : List EJob) : (setCommon s k l).mgmt = s.mgmt := by cases k <;> rfl
@[simp] theorem setCommon_service (s : State) (k : Bool) (l : List EJob) : (setCommon s k l).service = s.service := by cases k <;> rfl

/-! ### setStack -/

@[simp] theorem setStack_pending (s : State) (far : Bool) (l : List Nat) : (setStack s far l).pending = s.pending := by cases far <;> rfl
@[simp] theorem setStack_out (s : State) (far : Bool) (l : List Nat) : (setStack s far l).out = s.out := by cases far <;> rfl
@[simp] theorem setStack_nowMs (s : State) (far : Bool) (l : List Nat) : (setStack s far l).nowMs = s.nowMs := by cases far <;> rfl
@[simp] theorem setStack_uptime (s : State) (far : Bool) (l : List Nat) : (setStack s far l).uptime = s.uptime := by cases far <;> rfl
@[simp] theorem setStack_freeCount (s : State) (far : Bool) (l : List Nat) : (setStack s far l).freeCount = s.freeCount := by cases far <;> rfl
@[simp] theorem setStack_dict (s : State) (far : Bool) (l : List Nat) : (setStack s far l).dict = s.dict := by cases far <;> rfl
@[simp] theorem setStack_faults (s : State) (far : Bool) (l : List Nat) : (setStack s far l).faults = s.faults := by cases far <;> rfl
@[simp] theorem setStack_faultSeq (s : State) (far : Bool) (l : List Nat) : (setStack s far l).faultSeq = s.faultSeq := by cases far <;> rfl
@[simp] theorem setStack_pel (s : State) (far : Bool) (l : List Nat) : (setStack s far l).pel = s.pel := by cases far <;> rfl
@[simp] theorem setStack_host (s : State) (far : Bool) (l : List Nat) : (setStack s far l).host = s.host := by cases far <;> rfl
@[simp] theorem setStack_prog (s : State) (far : Bool) (l : List Nat) : (setStack s far l).prog = s.prog := by cases far <;> rfl
@[simp] theorem setStack_media (s : State) (far : Bool) (l : List Nat) : (setStack s far l).media = s.media := by cases far <;> rfl
@[simp] theorem setStack_dram (s : State) (far : Bool) (l : List Nat) : (setStack s far l).dram = s.dram := by cases far <;> rfl
@[simp] theorem setStack_hm (s : State) (far : Bool) (l : List Nat) : (setStack s far l).hm = s.hm := by cases far <;> rfl
@[simp] theorem setStack_ik (s : State) (far : Bool) (l : List Nat) : (setStack s far l).ik = s.ik := by cases far <;> rfl
@[simp] theorem setStack_customs (s : State) (far : Bool) (l : List Nat) : (setStack s far l).customs = s.customs := by cases far <;> rfl
@[simp] theorem setStack_eng (s : State) (far : Bool) (l : List Nat) : (setStack s far l).eng = s.eng := by cases far <;> rfl
@[simp] theorem setStack_tally (s : State) (far : Bool) (l : List Nat) : (setStack s far l).tally = s.tally := by cases far <;> rfl
@[simp] theorem setStack_power (s : State) (far : Bool) (l : List Nat) : (setStack s far l).power = s.power := by cases far <;> rfl
@[simp] theorem setStack_pair (s : State) (far : Bool) (l : List Nat) : (setStack s far l).pair = s.pair := by cases far <;> rfl
@[simp] theorem setStack_logbook (s : State) (far : Bool) (l : List Nat) : (setStack s far l).logbook = s.logbook := by cases far <;> rfl
@[simp] theorem setStack_mgmt (s : State) (far : Bool) (l : List Nat) : (setStack s far l).mgmt = s.mgmt := by cases far <;> rfl
@[simp] theorem setStack_service (s : State) (far : Bool) (l : List Nat) : (setStack s far l).service = s.service := by cases far <;> rfl

/-! ### setWaitQ -/

@[simp] theorem setWaitQ_pending (s : State) (far : Bool) (l : List Waiter) : (setWaitQ s far l).pending = s.pending := by cases far <;> rfl
@[simp] theorem setWaitQ_out (s : State) (far : Bool) (l : List Waiter) : (setWaitQ s far l).out = s.out := by cases far <;> rfl
@[simp] theorem setWaitQ_nowMs (s : State) (far : Bool) (l : List Waiter) : (setWaitQ s far l).nowMs = s.nowMs := by cases far <;> rfl
@[simp] theorem setWaitQ_uptime (s : State) (far : Bool) (l : List Waiter) : (setWaitQ s far l).uptime = s.uptime := by cases far <;> rfl
@[simp] theorem setWaitQ_freeCount (s : State) (far : Bool) (l : List Waiter) : (setWaitQ s far l).freeCount = s.freeCount := by cases far <;> rfl
@[simp] theorem setWaitQ_dict (s : State) (far : Bool) (l : List Waiter) : (setWaitQ s far l).dict = s.dict := by cases far <;> rfl
@[simp] theorem setWaitQ_faults (s : State) (far : Bool) (l : List Waiter) : (setWaitQ s far l).faults = s.faults := by cases far <;> rfl
@[simp] theorem setWaitQ_faultSeq (s : State) (far : Bool) (l : List Waiter) : (setWaitQ s far l).faultSeq = s.faultSeq := by cases far <;> rfl
@[simp] theorem setWaitQ_pel (s : State) (far : Bool) (l : List Waiter) : (setWaitQ s far l).pel = s.pel := by cases far <;> rfl
@[simp] theorem setWaitQ_host (s : State) (far : Bool) (l : List Waiter) : (setWaitQ s far l).host = s.host := by cases far <;> rfl
@[simp] theorem setWaitQ_prog (s : State) (far : Bool) (l : List Waiter) : (setWaitQ s far l).prog = s.prog := by cases far <;> rfl
@[simp] theorem setWaitQ_media (s : State) (far : Bool) (l : List Waiter) : (setWaitQ s far l).media = s.media := by cases far <;> rfl
@[simp] theorem setWaitQ_dram (s : State) (far : Bool) (l : List Waiter) : (setWaitQ s far l).dram = s.dram := by cases far <;> rfl
@[simp] theorem setWaitQ_hm (s : State) (far : Bool) (l : List Waiter) : (setWaitQ s far l).hm = s.hm := by cases far <;> rfl
@[simp] theorem setWaitQ_ik (s : State) (far : Bool) (l : List Waiter) : (setWaitQ s far l).ik = s.ik := by cases far <;> rfl
@[simp] theorem setWaitQ_customs (s : State) (far : Bool) (l : List Waiter) : (setWaitQ s far l).customs = s.customs := by cases far <;> rfl
@[simp] theorem setWaitQ_eng (s : State) (far : Bool) (l : List Waiter) : (setWaitQ s far l).eng = s.eng := by cases far <;> rfl
@[simp] theorem setWaitQ_tally (s : State) (far : Bool) (l : List Waiter) : (setWaitQ s far l).tally = s.tally := by cases far <;> rfl
@[simp] theorem setWaitQ_power (s : State) (far : Bool) (l : List Waiter) : (setWaitQ s far l).power = s.power := by cases far <;> rfl
@[simp] theorem setWaitQ_pair (s : State) (far : Bool) (l : List Waiter) : (setWaitQ s far l).pair = s.pair := by cases far <;> rfl
@[simp] theorem setWaitQ_logbook (s : State) (far : Bool) (l : List Waiter) : (setWaitQ s far l).logbook = s.logbook := by cases far <;> rfl
@[simp] theorem setWaitQ_mgmt (s : State) (far : Bool) (l : List Waiter) : (setWaitQ s far l).mgmt = s.mgmt := by cases far <;> rfl
@[simp] theorem setWaitQ_service (s : State) (far : Bool) (l : List Waiter) : (setWaitQ s far l).service = s.service := by cases far <;> rfl

/-! ### setRow -/

@[simp] theorem setRow_pending (s : State) (r : Nat) (v : Row) : (setRow s r v).pending = s.pending := rfl
@[simp] theorem setRow_out (s : State) (r : Nat) (v : Row) : (setRow s r v).out = s.out := rfl
@[simp] theorem setRow_nowMs (s : State) (r : Nat) (v : Row) : (setRow s r v).nowMs = s.nowMs := rfl
@[simp] theorem setRow_uptime (s : State) (r : Nat) (v : Row) : (setRow s r v).uptime = s.uptime := rfl
@[simp] theorem setRow_freeCount (s : State) (r : Nat) (v : Row) : (setRow s r v).freeCount = s.freeCount := rfl
@[simp] theorem setRow_dict (s : State) (r : Nat) (v : Row) : (setRow s r v).dict = s.dict := rfl
@[simp] theorem setRow_faults (s : State) (r : Nat) (v : Row) : (setRow s r v).faults = s.faults := rfl
@[simp] theorem setRow_faultSeq (s : State) (r : Nat) (v : Row) : (setRow s r v).faultSeq = s.faultSeq := rfl
@[simp] theorem setRow_pel (s : State) (r : Nat) (v : Row) : (setRow s r v).pel = s.pel := rfl
@[simp] theorem setRow_host (s : State) (r : Nat) (v : Row) : (setRow s r v).host = s.host := rfl
@[simp] theorem setRow_prog (s : State) (r : Nat) (v : Row) : (setRow s r v).prog = s.prog := rfl
@[simp] theorem setRow_media (s : State) (r : Nat) (v : Row) : (setRow s r v).media = s.media := rfl
@[simp] theorem setRow_pool (s : State) (r : Nat) (v : Row) : (setRow s r v).pool = s.pool := rfl
@[simp] theorem setRow_dram (s : State) (r : Nat) (v : Row) : (setRow s r v).dram = s.dram := rfl
@[simp] theorem setRow_hm (s : State) (r : Nat) (v : Row) : (setRow s r v).hm = s.hm := rfl
@[simp] theorem setRow_ik (s : State) (r : Nat) (v : Row) : (setRow s r v).ik = s.ik := rfl
@[simp] theorem setRow_customs (s : State) (r : Nat) (v : Row) : (setRow s r v).customs = s.customs := rfl
@[simp] theorem setRow_eng (s : State) (r : Nat) (v : Row) : (setRow s r v).eng = s.eng := rfl
@[simp] theorem setRow_power (s : State) (r : Nat) (v : Row) : (setRow s r v).power = s.power := rfl
@[simp] theorem setRow_pair (s : State) (r : Nat) (v : Row) : (setRow s r v).pair = s.pair := rfl
@[simp] theorem setRow_logbook (s : State) (r : Nat) (v : Row) : (setRow s r v).logbook = s.logbook := rfl
@[simp] theorem setRow_mgmt (s : State) (r : Nat) (v : Row) : (setRow s r v).mgmt = s.mgmt := rfl
@[simp] theorem setRow_service (s : State) (r : Nat) (v : Row) : (setRow s r v).service = s.service := rfl

/-! ### setSub -/

@[simp] theorem setSub_pending (s : State) (k : Nat) (l : SubLink) : (setSub s k l).pending = s.pending := by unfold setSub; split <;> rfl
@[simp] theorem setSub_out (s : State) (k : Nat) (l : SubLink) : (setSub s k l).out = s.out := by unfold setSub; split <;> rfl
@[simp] theorem setSub_nowMs (s : State) (k : Nat) (l : SubLink) : (setSub s k l).nowMs = s.nowMs := by unfold setSub; split <;> rfl
@[simp] theorem setSub_uptime (s : State) (k : Nat) (l : SubLink) : (setSub s k l).uptime = s.uptime := by unfold setSub; split <;> rfl
@[simp] theorem setSub_freeCount (s : State) (k : Nat) (l : SubLink) : (setSub s k l).freeCount = s.freeCount := by unfold setSub; split <;> rfl
@[simp] theorem setSub_dict (s : State) (k : Nat) (l : SubLink) : (setSub s k l).dict = s.dict := by unfold setSub; split <;> rfl
@[simp] theorem setSub_faults (s : State) (k : Nat) (l : SubLink) : (setSub s k l).faults = s.faults := by unfold setSub; split <;> rfl
@[simp] theorem setSub_faultSeq (s : State) (k : Nat) (l : SubLink) : (setSub s k l).faultSeq = s.faultSeq := by unfold setSub; split <;> rfl
@[simp] theorem setSub_pel (s : State) (k : Nat) (l : SubLink) : (setSub s k l).pel = s.pel := by unfold setSub; split <;> rfl
@[simp] theorem setSub_host (s : State) (k : Nat) (l : SubLink) : (setSub s k l).host = s.host := by unfold setSub; split <;> rfl
@[simp] theorem setSub_prog (s : State) (k : Nat) (l : SubLink) : (setSub s k l).prog = s.prog := by unfold setSub; split <;> rfl
@[simp] theorem setSub_media (s : State) (k : Nat) (l : SubLink) : (setSub s k l).media = s.media := by unfold setSub; split <;> rfl
@[simp] theorem setSub_pool (s : State) (k : Nat) (l : SubLink) : (setSub s k l).pool = s.pool := by unfold setSub; split <;> rfl
@[simp] theorem setSub_dram (s : State) (k : Nat) (l : SubLink) : (setSub s k l).dram = s.dram := by unfold setSub; split <;> rfl
@[simp] theorem setSub_hm (s : State) (k : Nat) (l : SubLink) : (setSub s k l).hm = s.hm := by unfold setSub; split <;> rfl
@[simp] theorem setSub_ik (s : State) (k : Nat) (l : SubLink) : (setSub s k l).ik = s.ik := by unfold setSub; split <;> rfl
@[simp] theorem setSub_customs (s : State) (k : Nat) (l : SubLink) : (setSub s k l).customs = s.customs := by unfold setSub; split <;> rfl
@[simp] theorem setSub_eng (s : State) (k : Nat) (l : SubLink) : (setSub s k l).eng = s.eng := by unfold setSub; split <;> rfl
@[simp] theorem setSub_tally (s : State) (k : Nat) (l : SubLink) : (setSub s k l).tally = s.tally := by unfold setSub; split <;> rfl
@[simp] theorem setSub_power (s : State) (k : Nat) (l : SubLink) : (setSub s k l).power = s.power := by unfold setSub; split <;> rfl
@[simp] theorem setSub_logbook (s : State) (k : Nat) (l : SubLink) : (setSub s k l).logbook = s.logbook := by unfold setSub; split <;> rfl
@[simp] theorem setSub_mgmt (s : State) (k : Nat) (l : SubLink) : (setSub s k l).mgmt = s.mgmt := by unfold setSub; split <;> rfl
@[simp] theorem setSub_service (s : State) (k : Nat) (l : SubLink) : (setSub s k l).service = s.service := by unfold setSub; split <;> rfl

/-! ### setStream -/

@[simp] theorem setStream_pending (s : State) (c w : Nat) (m : Stream) : (setStream s c w m).pending = s.pending := rfl
@[simp] theorem setStream_out (s : State) (c w : Nat) (m : Stream) : (setStream s c w m).out = s.out := rfl
@[simp] theorem setStream_nowMs (s : State) (c w : Nat) (m : Stream) : (setStream s c w m).nowMs = s.nowMs := rfl
@[simp] theorem setStream_uptime (s : State) (c w : Nat) (m : Stream) : (setStream s c w m).uptime = s.uptime := rfl
@[simp] theorem setStream_freeCount (s : State) (c w : Nat) (m : Stream) : (setStream s c w m).freeCount = s.freeCount := rfl
@[simp] theorem setStream_dict (s : State) (c w : Nat) (m : Stream) : (setStream s c w m).dict = s.dict := rfl
@[simp] theorem setStream_faults (s : State) (c w : Nat) (m : Stream) : (setStream s c w m).faults = s.faults := rfl
@[simp] theorem setStream_faultSeq (s : State) (c w : Nat) (m : Stream) : (setStream s c w m).faultSeq = s.faultSeq := rfl
@[simp] theorem setStream_pel (s : State) (c w : Nat) (m : Stream) : (setStream s c w m).pel = s.pel := rfl
@[simp] theorem setStream_host (s : State) (c w : Nat) (m : Stream) : (setStream s c w m).host = s.host := rfl
@[simp] theorem setStream_prog (s : State) (c w : Nat) (m : Stream) : (setStream s c w m).prog = s.prog := rfl
@[simp] theorem setStream_media (s : State) (c w : Nat) (m : Stream) : (setStream s c w m).media = s.media := rfl
@[simp] theorem setStream_pool (s : State) (c w : Nat) (m : Stream) : (setStream s c w m).pool = s.pool := rfl
@[simp] theorem setStream_dram (s : State) (c w : Nat) (m : Stream) : (setStream s c w m).dram = s.dram := rfl
@[simp] theorem setStream_hm (s : State) (c w : Nat) (m : Stream) : (setStream s c w m).hm = s.hm := rfl
@[simp] theorem setStream_customs (s : State) (c w : Nat) (m : Stream) : (setStream s c w m).customs = s.customs := rfl
@[simp] theorem setStream_eng (s : State) (c w : Nat) (m : Stream) : (setStream s c w m).eng = s.eng := rfl
@[simp] theorem setStream_tally (s : State) (c w : Nat) (m : Stream) : (setStream s c w m).tally = s.tally := rfl
@[simp] theorem setStream_power (s : State) (c w : Nat) (m : Stream) : (setStream s c w m).power = s.power := rfl
@[simp] theorem setStream_pair (s : State) (c w : Nat) (m : Stream) : (setStream s c w m).pair = s.pair := rfl
@[simp] theorem setStream_logbook (s : State) (c w : Nat) (m : Stream) : (setStream s c w m).logbook = s.logbook := rfl
@[simp] theorem setStream_mgmt (s : State) (c w : Nat) (m : Stream) : (setStream s c w m).mgmt = s.mgmt := rfl
@[simp] theorem setStream_service (s : State) (c w : Nat) (m : Stream) : (setStream s c w m).service = s.service := rfl

/-! ### Readers after writers -/

@[simp] theorem getFn_setFn (s : State) (fn : Nat) (f : Fn) : getFn (setFn s fn f) fn = f := by
  simp [getFn, setFn]
theorem getFn_setFn_other (s : State) (fn j : Nat) (f : Fn) (h : j ≠ fn) : getFn (setFn s fn f) j = getFn s j := by
  simp [getFn, setFn, tabGet_set_other _ _ _ _ _ h]
@[simp] theorem getDk_setDk (s : State) (d : Nat) (e : Docket) : getDk (setDk s d e) d = e := by
  simp [getDk, setDk]
theorem getDk_setDk_other (s : State) (d j : Nat) (e : Docket) (h : j ≠ d) : getDk (setDk s d e) j = getDk s j := by
  simp [getDk, setDk, tabGet_set_other _ _ _ _ _ h]
@[simp] theorem getThr_setThr (s : State) (t : Nat) (th : Thread) : getThr (setThr s t th) t = th := by
  simp [getThr, setThr]
theorem getThr_setThr_other (s : State) (t j : Nat) (th : Thread) (h : j ≠ t) : getThr (setThr s t th) j = getThr s j := by
  simp [getThr, setThr, tabGet_set_other _ _ _ _ _ h]
@[simp] theorem getLease_setLease (s : State) (c : Nat) (l : CoreLease) : getLease (setLease s c l) c = l := by
  simp [getLease, setLease]
theorem getLease_setLease_other (s : State) (c j : Nat) (l : CoreLease) (h : j ≠ c) : getLease (setLease s c l) j = getLease s j := by
  simp [getLease, setLease, tabGet_set_other _ _ _ _ _ h]
@[simp] theorem getNs_setNs (s : State) (n : Nat) (v : Ns) : getNs (setNs s n v) n = v := by
  simp [getNs, setNs]
theorem getNs_setNs_other (s : State) (n j : Nat) (v : Ns) (h : j ≠ n) : getNs (setNs s n v) j = getNs s j := by
  simp [getNs, setNs, tabGet_set_other _ _ _ _ _ h]
@[simp] theorem getBlk_setBlk (s : State) (b : Nat) (v : Block) : getBlk (setBlk s b v) b = v := by
  simp [getBlk, setBlk, tabGet_put_same]
theorem getBlk_setBlk_other (s : State) (b j : Nat) (v : Block) (h : j ≠ b) : getBlk (setBlk s b v) j = getBlk s j := by
  simp [getBlk, setBlk, tabGet_put_other _ _ _ _ _ h]
@[simp] theorem getBerth_setBerth (s : State) (a : Nat) (b : Berth) : getBerth (setBerth s a b) a = b := by
  simp [getBerth, setBerth]
theorem getBerth_setBerth_other (s : State) (a j : Nat) (b : Berth) (h : j ≠ a) : getBerth (setBerth s a b) j = getBerth s j := by
  simp [getBerth, setBerth, tabGet_set_other _ _ _ _ _ h]
@[simp] theorem getScan_setScan (s : State) (i : Nat) (v : Scan) : getScan (setScan s i v) i = v := by
  simp [getScan, setScan]
theorem getScan_setScan_other (s : State) (i j : Nat) (v : Scan) (h : j ≠ i) : getScan (setScan s i v) j = getScan s j := by
  simp [getScan, setScan, tabGet_set_other _ _ _ _ _ h]
@[simp] theorem getSlot_setSlot (s : State) (i : Nat) (v : KeySlot) : getSlot (setSlot s i v) i = v := by
  simp [getSlot, setSlot]
theorem getSlot_setSlot_other (s : State) (i j : Nat) (v : KeySlot) (h : j ≠ i) : getSlot (setSlot s i v) j = getSlot s j := by
  simp [getSlot, setSlot, tabGet_set_other _ _ _ _ _ h]
@[simp] theorem getMsg_setMsg (s : State) (e : Nat) (m : Option CMsg) : getMsg (setMsg s e m) e = m := by
  simp [getMsg, setMsg]
theorem getMsg_setMsg_other (s : State) (e j : Nat) (m : Option CMsg) (h : j ≠ e) : getMsg (setMsg s e m) j = getMsg s j := by
  simp [getMsg, setMsg, tabGet_set_other _ _ _ _ _ h]
@[simp] theorem getRow_setRow (s : State) (r : Nat) (v : Row) : getRow (setRow s r v) r = v := by
  simp [getRow, setRow]
theorem getRow_setRow_other (s : State) (r j : Nat) (v : Row) (h : j ≠ r) : getRow (setRow s r v) j = getRow s j := by
  simp [getRow, setRow, tabGet_set_other _ _ _ _ _ h]
/-- A channel whose count is 0 keeps no mark. -/
theorem getChan_setChan (s : State) (k : Nat) (c : Chan) (h : c.count ≠ 0) : getChan (setChan s k c) k = c := by
  simp [getChan, setChan, h]
theorem getChan_setChan_other (s : State) (k j : Nat) (c : Chan) (h : j ≠ k) : getChan (setChan s k c) j = getChan s j := by
  simp [getChan, setChan, tabGet_set_other _ _ _ _ _ h]

end Sys2Proof.Machine
end

