-- ==== Sys2Proof/Laws/Dict.lean ====
section
/-!
SUPPORT. Dictionary entries: what an entry holds after it, or another, was written, counted or saved.
-/
namespace Sys2Proof.Machine

theorem tabFind_put_same {α : Type} (t : Tab α) (k : Nat) (v : α) : tabFind (tabPut t k v) k = some v := by
  induction t with
  | nil => simp [tabPut, tabFind]
  | cons e t ih =>
    obtain ⟨j, w⟩ := e
    simp only [tabPut]
    split
    · simp [tabFind]
    · split
      · simp [tabFind]
      · have : j ≠ k := by omega
        simp [tabFind, this, ih]

theorem tabFind_put_other {α : Type} (t : Tab α) (k j : Nat) (v : α) (h : j ≠ k) :
    tabFind (tabPut t k v) j = tabFind t j := by
  induction t with
  | nil => simp [tabPut, tabFind, Ne.symm h]
  | cons e t ih =>
    obtain ⟨i, w⟩ := e
    simp only [tabPut]
    split
    · simp [tabFind, Ne.symm h]
    · split
      · rename_i hk
        subst hk
        simp [tabFind, Ne.symm h]
      · simp only [tabFind, ih]

theorem tabFind_drop_same {α : Type} (t : Tab α) (k : Nat) : tabFind (tabDrop t k) k = none := by
  induction t with
  | nil => rfl
  | cons e t ih =>
    obtain ⟨j, w⟩ := e
    simp only [tabDrop]
    split
    · exact ih
    · rename_i h
      simp [tabFind, h, ih]

theorem tabFind_drop_other {α : Type} (t : Tab α) (k j : Nat) (h : j ≠ k) :
    tabFind (tabDrop t k) j = tabFind t j := by
  induction t with
  | nil => rfl
  | cons e t ih =>
    obtain ⟨i, w⟩ := e
    simp only [tabDrop]
    split
    · rename_i hk
      subst hk
      simp [tabFind, Ne.symm h, ih]
    · simp only [tabFind, ih]

/-- An entry's default depends on the calibration section alone. -/
theorem entryDefault_dset (s : State) (i sub v a b : Nat) :
    entryDefault (dset s i sub v) a b = entryDefault s a b := rfl

@[simp] theorem dget_dset_same (s : State) (i sub v : Nat) : dget (dset s i sub v) i sub = v := by
  simp only [dget, entryDefault_dset]
  by_cases h : v = entryDefault s i sub
  · simp [dset, h, tabFind_drop_same]
  · simp [dset, h, tabFind_put_same]

theorem dget_dset_other (s : State) (i sub v j k : Nat) (h : dk j k ≠ dk i sub) :
    dget (dset s i sub v) j k = dget s j k := by
  simp only [dget, entryDefault_dset]
  by_cases hv : v = entryDefault s i sub
  · simp [dset, hv, tabFind_drop_other _ _ _ h]
  · simp [dset, hv, tabFind_put_other _ _ _ _ h]

/-- Keys of entries differ where index or subindex does. -/
theorem dk_ne (i sub j k : Nat) (hs : sub < 256) (hk : k < 256) (h : j ≠ i ∨ k ≠ sub) : dk j k ≠ dk i sub := by
  unfold dk
  omega

/-- A counter wraps at its width. -/
theorem dget_bump_same (s : State) (i sub n : Nat) :
    dget (bump s i sub n) i sub = (dget s i sub + n) % counterMax i sub := dget_dset_same _ _ _ _

theorem dget_bump_other (s : State) (i sub n j k : Nat) (h : dk j k ≠ dk i sub) :
    dget (bump s i sub n) j k = dget s j k := dget_dset_other _ _ _ _ _ _ h

/-- What an entry reads as depends on the dictionary and the calibration section alone. -/
theorem dget_congr (s t : State) (i sub : Nat) (hd : t.dict = s.dict) (hp : t.power.calGeneric = s.power.calGeneric) :
    dget t i sub = dget s i sub := by
  simp only [dget, entryDefault, hd, hp]

end Sys2Proof.Machine
end

