-- ==== Sys2Proof/Laws/Ikixa.lean ====
section
/-!
SUPPORT. Cores: what reads find after updates, and a bundle of one syllable that makes one write.
-/
namespace Sys2Proof.Machine

@[simp] theorem getCore_setCore (s : State) (c : Nat) (x : Core) : getCore (setCore s c x) c = x := by
  simp [getCore, setCore]

theorem getCore_setCore_other (s : State) (c d : Nat) (x : Core) (h : d ≠ c) :
    getCore (setCore s c x) d = getCore s d := by
  simp [getCore, setCore, tabGet_set_other _ _ _ _ _ h]

@[simp] theorem setCore_onlyIk (s : State) (c : Nat) (x : Core) :
    { setCore s c x with ik := s.ik } = s := rfl

theorem onlyCore_refl (s : State) (c : Nat) : onlyCore s s c := ⟨fun _ _ => rfl, rfl, rfl⟩

theorem onlyCore_trans {s t u : State} {c : Nat} (h : onlyCore s t c) (h2 : onlyCore t u c) :
    onlyCore s u c := by
  obtain ⟨a, b, d⟩ := h
  obtain ⟨a2, b2, d2⟩ := h2
  refine ⟨fun d hd => (a2 d hd).trans (a d hd), b2.trans b, ?_⟩
  have : { u with ik := s.ik } = { ({ u with ik := t.ik } : State) with ik := s.ik } := rfl
  rw [this, d2, d]

theorem onlyCore_setCore (s : State) (c : Nat) (x : Core) : onlyCore s (setCore s c x) c :=
  ⟨fun d hd => getCore_setCore_other s c d x hd, rfl, rfl⟩

theorem onlyCore_settleShared (s : State) (c : Nat) : onlyCore s (settleShared s c) c :=
  ⟨fun _ _ => rfl, rfl, rfl⟩

@[simp] theorem getCore_settleShared (s : State) (c d : Nat) :
    getCore (settleShared s c) d = getCore s d := rfl

/-- A register write in flight that lands changes the current bank of its core alone. -/
theorem applyWr_reg (s : State) (c : Nat) (w : Wr) (h : ∀ a bs, w ≠ .mem a bs) :
    applyWr s c w = setCore s c (setCur (getCore s c) (bankWr (curBank (getCore s c)) w)) := by
  cases w <;> first | rfl | exact absurd rfl (h _ _)

theorem coreSpace_setCore (s : State) (c : Nat) (x : Core) (h : x.phase = (getCore s c).phase) :
    coreSpace (setCore s c x) c = coreSpace s c := by
  simp only [coreSpace, coreThread, getCore_setCore, h]; rfl

@[simp] theorem imageAt_setCore (s : State) (c sp : Nat) (x : Core) (pc : W64) :
    imageAt (setCore s c x) sp pc = imageAt s sp pc := rfl

@[simp] theorem setCore_setCore_get (s : State) (c : Nat) (x y : Core) :
    getCore (setCore (setCore s c x) c y) c = y := by simp

theorem settle_nil (s : State) (c t : Nat) (h : (getCore s c).pend = []) :
   getCore (settle s c t) c = getCore s c ∧ onlyCore s (settle s c t) c := by
  simp only [settle, h, List.filter_nil, sortPend, List.foldl_nil, getCore_setCore]
  refine ⟨?_, onlyCore_setCore _ _ _⟩
  rw [← h]

theorem settle_one (s : State) (c t : Nat) (p : Pend) (h : (getCore s c).pend = [p])
    (hm : ∀ a bs, p.wr ≠ .mem a bs) :
   getCore (settle s c t) c =
     (if p.due ≤ t then setCur { getCore s c with pend := [] } (bankWr (curBank (getCore s c)) p.wr) else getCore s c)
   ∧ onlyCore s (settle s c t) c := by
  by_cases hd : p.due ≤ t
  · have hd2 : ¬ t < p.due := by omega
    simp only [settle, h, sortPend, List.filter_cons, List.filter_nil, hd, hd2, decide_true, decide_false, if_true, List.foldl_cons, List.foldl_nil, insertPend, Bool.false_eq_true, if_false]
    rw [applyWr_reg _ _ _ hm]
    refine ⟨?_, onlyCore_trans (onlyCore_setCore _ _ _) (onlyCore_setCore _ _ _)⟩
    simp only [getCore_setCore, curBank]
  · have hd2 : t < p.due := by omega
    simp only [settle, h, sortPend, List.filter_cons, List.filter_nil, hd, hd2, decide_true, decide_false, if_true, List.foldl_nil, Bool.false_eq_true, if_false]
    refine ⟨?_, onlyCore_setCore _ _ _⟩
    simp [← h]

theorem onlyCore_ik (s : State) (c : Nat) (k : Ikixa) (hc : k.cores = s.ik.cores) (hs : k.spad = s.ik.spad) :
    onlyCore s { s with ik := k } c := ⟨fun d _ => by simp [getCore, hc], hs, rfl⟩

@[simp] theorem getCore_withIk (s : State) (k : Ikixa) (c : Nat) (h : k.cores = s.ik.cores) :
    getCore { s with ik := k } c = getCore s c := by simp [getCore, h]

/-- A core goes on as `settle` leaves it. -/
theorem goTo_settle (s : State) (c : Nat) (pc : W64) (adv : Nat) (u : State)
    (hu : settle (setCore s c { getCore s c with pc := pc, cyc := (getCore s c).cyc + adv, bun := .empty, first := false }) c
      ((getCore s c).cyc + adv) = u) :
    getCore (goTo s c pc adv) c = getCore u c ∧ onlyCore u (goTo s c pc adv) c := by
  unfold goTo
  simp only [hu, getCore_settleShared]
  constructor
  · rw [getCore_withIk]; rfl
  · refine onlyCore_trans ?_ (onlyCore_settleShared _ _)
    exact onlyCore_ik u c _ rfl rfl

theorem goTo_one (s : State) (c : Nat) (pc : W64) (adv : Nat) (p : Pend)
    (h : (getCore s c).pend = [p]) (hm : ∀ a bs, p.wr ≠ .mem a bs) :
    getCore (goTo s c pc adv) c =
      (let x := getCore s c
       let y : Core := { x with pc := pc, cyc := x.cyc + adv, bun := .empty, first := false }
       if p.due ≤ x.cyc + adv then setCur { y with pend := [] } (bankWr (curBank x) p.wr) else y) ∧
    onlyCore s (goTo s c pc adv) c := by
  obtain ⟨k1, k2⟩ := settle_one (setCore s c { getCore s c with pc := pc, cyc := (getCore s c).cyc + adv, bun := .empty, first := false })
    c ((getCore s c).cyc + adv) p (by simpa using h) hm
  obtain ⟨g1, g2⟩ := goTo_settle s c pc adv _ rfl
  refine ⟨?_, onlyCore_trans (onlyCore_setCore _ _ _) (onlyCore_trans k2 g2)⟩
  rw [g1, k1, getCore_setCore]
  rfl

@[simp] theorem setCore_setCore (s : State) (c : Nat) (x y : Core) :
    tabGet Core.empty (setCore (setCore s c x) c y).ik.cores c = y := getCore_setCore _ _ _

/-- The writes of a bundle, with the cycles they are due in. -/
def dueAt (c cyc : Nat) (ws : List (Nat × Wr)) : List Pend :=
  ws.map (fun e => ⟨cyc + (if isLighterCore c then e.1 else 1), e.2⟩)

/-- Writes of syllables outside a repeat join those in flight. -/
theorem putWrs (c : Nat) (ws : List (Nat × Wr)) (s : State) (h : (getCore s c).rep = none) :
    ∃ e, getCore ((ws.map (fun e => Eff.wr e.1 e.2)).foldl (fun s e => doEff s c e) s) c =
      { getCore s c with pend := (getCore s c).pend ++ dueAt c (getCore s c).cyc ws, endCyc := e } ∧
    onlyCore s ((ws.map (fun e => Eff.wr e.1 e.2)).foldl (fun s e => doEff s c e) s) c := by
  induction ws generalizing s with
  | nil => exact ⟨(getCore s c).endCyc, by simp [dueAt], onlyCore_refl _ _⟩
  | cons w ws ih =>
    simp only [List.map_cons, List.foldl_cons]
    have h1 : getCore (doEff s c (.wr w.1 w.2)) c = { getCore s c with pend := (getCore s c).pend ++ dueAt c (getCore s c).cyc [w], endCyc := max (getCore s c).endCyc ((getCore s c).cyc + w.1) } := by
      simp [doEff, putWr, h, dueAt]
    have h2 : onlyCore s (doEff s c (.wr w.1 w.2)) c := by
      simp only [doEff, putWr, h]
      exact onlyCore_setCore _ _ _
    obtain ⟨e, k1, k2⟩ := ih (doEff s c (.wr w.1 w.2)) (by rw [h1]; exact h)
    refine ⟨e, ?_, onlyCore_trans h2 k2⟩
    rw [k1, h1]
    simp [dueAt]

theorem find_wr {β : Type} (ws : List (Nat × Wr)) (g : Eff → Option β) (h : ∀ l w, g (.wr l w) = none) :
    (ws.map (fun e => Eff.wr e.1 e.2)).findSome? g = none := by
  induction ws with
  | nil => rfl
  | cons w ws ih => simp [h, ih]

/-- A bundle of one plain syllable that makes writes: the core goes to the next bundle with them in
flight. -/
theorem syl_writes (s : State) (q : Syl) (unit exts : Nat) (ws : List (Nat × Wr))
    (hs : q.stop = true) (hb : atBundle s q.core (1 + exts) = true) (hu : unit < 8) (he : exts ≤ 3) :
    ∃ u x', syl s q unit exts true .plain (ws.map (fun e => .wr e.1 e.2)) =
        .next (goTo u q.core (pcTo (getCore s q.core).pc ((getCore s q.core).pc.toNat + 4 * (1 + exts))) 1) ∧
      getCore u q.core = x' ∧ x'.pend = dueAt q.core (getCore s q.core).cyc ws ∧
      x'.cyc = (getCore s q.core).cyc ∧ x'.phase = (getCore s q.core).phase ∧
      x'.bank = (getCore s q.core).bank ∧ x'.bank0 = (getCore s q.core).bank0 ∧
      x'.bank1 = (getCore s q.core).bank1 ∧ onlyCore s u q.core := by
  unfold atBundle at hb
  simp only [Bool.and_eq_true, beq_iff_eq, Bool.not_eq_true', Option.isNone_iff_eq_none, List.isEmpty_iff] at hb
  obtain ⟨⟨⟨⟨⟨⟨⟨h1, h2⟩, h3⟩, h4⟩, h5⟩, h6⟩, h7⟩, h8⟩ := hb
  have hrun : ∃ th, (getCore s q.core).phase = .running th := by
    revert h1; split <;> simp_all
  obtain ⟨th, hth⟩ := hrun
  generalize hc : q.core = c at *
  generalize hx : getCore s c = x at *
  have hleg : bundleLegal (modCore (gather s q unit exts true .plain (ws.map (fun e => .wr e.1 e.2))) c fun x => { x with lastPc := x.pc }) c = true := by
    have hcode : bundleInCode (modCore (gather s q unit exts true .plain (ws.map (fun e => .wr e.1 e.2))) c fun x => { x with lastPc := x.pc }) c = true := by
      simp only [bundleInCode, codeHolds, gather, modCore, hc, getCore_setCore, hx, imageAt_setCore] at h8 ⊢
      rw [coreSpace_setCore _ _ _ (by simp), coreSpace_setCore _ _ _ (by simp [hx]), h2]
      simpa [Bundle.empty] using h8
    simp only [bundleLegal, hcode]
    simp [gather, modCore, hc, hx, h2, h3, h4, h5, Bundle.empty]
    omega
  have hrest : effRestores (ws.map (fun e => Eff.wr e.1 e.2)) = none :=
    find_wr _ _ (fun _ _ => rfl)
  have hcall : callLat (ws.map (fun e => Eff.wr e.1 e.2)) = none := find_wr _ _ (fun _ _ => rfl)
  have hrep : effRep (ws.map (fun e => Eff.wr e.1 e.2)) = none := find_wr _ _ (fun _ _ => rfl)
  obtain ⟨e, k1, k2⟩ := putWrs c ws (modCore (gather s q unit exts true .plain (ws.map (fun e => .wr e.1 e.2))) c fun x => { x with lastPc := x.pc })
    (by simp [gather, modCore, hc, hx, h5])
  have hnreq : effNreq (ws.map (fun e => Eff.wr e.1 e.2)) = 0 := by
    simp only [effNreq]; rw [find_wr _ _ (fun _ _ => rfl)]; rfl
  simp only [syl, hc, hx, hth, hs, if_true, commit, hleg, dropRestored]
  have hbun : (getCore (modCore (gather s q unit exts true SylKind.plain (ws.map (fun e => .wr e.1 e.2))) c fun x => { x with lastPc := x.pc }) c).bun.effs = ws.map (fun e => .wr e.1 e.2) ∧ (getCore (gather s q unit exts true SylKind.plain (ws.map (fun e => .wr e.1 e.2))) c).bun.effs = ws.map (fun e => .wr e.1 e.2) := by
    simp [modCore, gather, hc, hx, h2, Bundle.empty]
  have hcore : ∃ b, getCore (modCore (gather s q unit exts true SylKind.plain (ws.map (fun e => .wr e.1 e.2))) c fun x => { x with lastPc := x.pc }) c = { x with lastPc := x.pc, bun := b } ∧ b.words = 1 + exts ∧ b.hasEnd = false := by
    refine ⟨(getCore (gather s q unit exts true SylKind.plain (ws.map (fun e => .wr e.1 e.2))) c).bun, ?_, ?_, ?_⟩ <;> simp [modCore, gather, hc, hx, h2, Bundle.empty]
  have hg : getCore (gather s q unit exts true SylKind.plain (ws.map (fun e => .wr e.1 e.2))) c = { x with bun := (getCore (gather s q unit exts true SylKind.plain (ws.map (fun e => .wr e.1 e.2))) c).bun } ∧ (getCore (gather s q unit exts true SylKind.plain (ws.map (fun e => .wr e.1 e.2))) c).bun.hasEnd = false ∧ (getCore (gather s q unit exts true SylKind.plain (ws.map (fun e => .wr e.1 e.2))) c).bun.words = 1 + exts := by
    simp [modCore, gather, hc, hx, h2, Bundle.empty]
  obtain ⟨b, hb1, hb2, hb3⟩ := hcore
  have honly : onlyCore s (modCore (gather s q unit exts true SylKind.plain (ws.map (fun e => .wr e.1 e.2))) c fun x => { x with lastPc := x.pc }) c := by
    simp only [modCore, gather, hc]
    exact onlyCore_trans (onlyCore_setCore _ _ _) (onlyCore_setCore _ _ _)
  generalize modCore (gather s q unit exts true SylKind.plain (ws.map (fun e => .wr e.1 e.2))) c (fun x => { x with lastPc := x.pc }) = s1 at *
  generalize gather s q unit exts true SylKind.plain (ws.map (fun e => .wr e.1 e.2)) = g at *
  rw [hbun.2, hrest, hnreq, hg.2.1, hg.2.2]
  simp only [Nat.lt_irrefl, and_false, if_false, Bool.not_true, Bool.false_eq_true, advance, hcall, hrep]
  generalize (ws.map (fun e => Eff.wr e.1 e.2)).foldl (fun s e => doEff s c e) s1 = u at *
  refine ⟨setCore u c { getCore u c with delay := 0 }, _, ?_, rfl, ?_⟩
  · simp [k1, hb1, h4, h5, modCore]
  · simp [k1, hb1, h7]
    exact ⟨hth, onlyCore_trans honly (onlyCore_trans k2 (onlyCore_setCore _ _ _))⟩
/-- The bundle after one write: it lands with the next bundle where its latency is 1 or the core a
control core, and is in flight otherwise. -/
theorem syl_oneWrite (s : State) (q : Syl) (unit exts lat : Nat) (w : Wr)
    (hs : q.stop = true) (hb : atBundle s q.core (1 + exts) = true) (hu : unit < 8)
    (he : exts ≤ 3) (hm : ∀ a bs, w ≠ .mem a bs) :
    ∃ t, syl s q unit exts true .plain [.wr lat w] = .next t ∧ OneWrite s t q.core lat (1 + exts) w := by
  obtain ⟨u, x, k1, k2, k3, k4, k5, k6, k7, k8, k9⟩ := syl_writes s q unit exts [(lat, w)] hs hb hu he
  refine ⟨_, k1, ?_⟩
  obtain ⟨g1, g2⟩ := goTo_one u q.core (pcTo (getCore s q.core).pc ((getCore s q.core).pc.toNat + 4 * (1 + exts))) 1
    ⟨(getCore s q.core).cyc + (if isLighterCore q.core then lat else 1), w⟩ (by rw [k2, k3]; rfl) hm
  have hcur : curBank x = curBank (getCore s q.core) := by simp [curBank, k6, k7, k8]
  have hset : ∀ (y : Core) (b : Bank), curBank (setCur y b) = b ∧ (setCur y b).pend = y.pend ∧ (setCur y b).pc = y.pc ∧
      (setCur y b).cyc = y.cyc ∧ (setCur y b).phase = y.phase ∧ (setCur y b).bank = y.bank := by
    intro y b; simp only [curBank, setCur]; split <;> simp_all
  simp only [k2, k4] at g1
  have hdue : (getCore s q.core).cyc + (if isLighterCore q.core then lat else 1) ≤ (getCore s q.core).cyc + 1 ↔
      (lat ≤ 1 ∨ isLighterCore q.core = false) := by
    cases isLighterCore q.core <;> simp
  by_cases hd : lat ≤ 1 ∨ isLighterCore q.core = false
  · rw [if_pos (hdue.mpr hd)] at g1
    refine ⟨?_, ?_, ?_, fun _ => ?_, fun h h2 => ?_, ?_, onlyCore_trans k9 g2⟩
    · rw [g1, (hset _ _).2.2.1]; rfl
    · rw [g1, (hset _ _).2.2.2.1]
    · rw [g1, (hset _ _).2.2.2.2.1]; exact k5
    · rw [g1, (hset _ _).1, (hset _ _).2.1, hcur]; exact ⟨rfl, rfl⟩
    · rcases hd with hd | hd
      · omega
      · simp [h2] at hd
    · rw [g1, (hset _ _).2.2.2.2.2]; exact k6
  · rw [if_neg (fun h => hd (hdue.mp h))] at g1
    refine ⟨?_, ?_, ?_, fun h => absurd h hd, fun h h2 => ?_, ?_, onlyCore_trans k9 g2⟩
    · rw [g1]; rfl
    · rw [g1]
    · rw [g1]; exact k5
    · rw [g1]
      exact ⟨hcur, by simp [k3, dueAt, h2]⟩
    · rw [g1]; exact k6

/-- Writes that are all due later stay in flight. -/
theorem settle_later (s : State) (c t : Nat) (h : ∀ p ∈ (getCore s c).pend, t < p.due) :
    settle s c t = setCore s c (getCore s c) := by
  have h1 : (getCore s c).pend.filter (fun p => decide (p.due ≤ t)) = [] := by
    simp only [List.filter_eq_nil_iff, decide_eq_true_eq]
    intro p hp; have := h p hp; omega
  have h2 : (getCore s c).pend.filter (fun p => decide (t < p.due)) = (getCore s c).pend := by
    simp only [List.filter_eq_self, decide_eq_true_eq]; exact h
  simp [settle, h1, h2, sortPend]

/-- The bundle of a lighter core after writes of latencies above 1. -/
theorem syl_flying (s : State) (q : Syl) (unit exts : Nat) (ws : List (Nat × Wr))
    (hs : q.stop = true) (hb : atBundle s q.core (1 + exts) = true) (hu : unit < 8) (he : exts ≤ 3)
    (hl : isLighterCore q.core = true) (hw : ∀ e ∈ ws, 1 < e.1) :
    ∃ t, syl s q unit exts true .plain (ws.map (fun e => .wr e.1 e.2)) = .next t ∧
      InFlight s t q.core (1 + exts) ws := by
  obtain ⟨u, x, k1, k2, k3, k4, k5, k6, k7, k8, k9⟩ := syl_writes s q unit exts ws hs hb hu he
  refine ⟨_, k1, ?_⟩
  have hd : dueAt q.core (getCore s q.core).cyc ws = ws.map (fun e => ⟨(getCore s q.core).cyc + e.1, e.2⟩) := by
    simp [dueAt, hl]
  obtain ⟨g1, g2⟩ := goTo_settle u q.core (pcTo (getCore s q.core).pc ((getCore s q.core).pc.toNat + 4 * (1 + exts))) 1 _ rfl
  have hp : ∀ p ∈ (getCore (setCore u q.core { getCore u q.core with pc := pcTo (getCore s q.core).pc ((getCore s q.core).pc.toNat + 4 * (1 + exts)), cyc := (getCore u q.core).cyc + 1, bun := .empty, first := false }) q.core).pend,
      (getCore u q.core).cyc + 1 < p.due := by
    intro p hp
    simp only [getCore_setCore, k2, k3, hd, List.mem_map] at hp
    obtain ⟨e, he, rfl⟩ := hp
    have := hw e he
    rw [k2, k4]
    show _ < _ + e.1
    omega
  rw [settle_later _ _ _ hp] at g1 g2
  simp only [getCore_setCore, k2] at g1
  have g3 := onlyCore_trans (onlyCore_trans (onlyCore_setCore _ _ _) (onlyCore_setCore _ _ _)) g2
  exact ⟨by rw [g1]; rfl, by rw [g1, ← k4], by rw [g1]; exact k5, by rw [g1, ← hd]; exact k3, by rw [g1]; exact ⟨k6, k7, k8⟩,
    onlyCore_trans k9 g3⟩

/-- What a run of writes of one core reads and changes: its current bank and the memories. -/
theorem afterWrites_congr (c : Nat) (ws : List (Nat × Wr)) (s t : State)
    (hb : curBank (getCore s c) = curBank (getCore t c)) (hm : s.dram = t.dram) (hp : s.ik.spad = t.ik.spad) :
    curBank (getCore (afterWrites s c ws) c) = curBank (getCore (afterWrites t c ws) c) ∧
      (afterWrites s c ws).dram = (afterWrites t c ws).dram ∧
      (afterWrites s c ws).ik.spad = (afterWrites t c ws).ik.spad := by
  have hcs : ∀ (x : Core) (b : Bank), curBank (setCur x b) = b := by
    intro x b; unfold curBank setCur; cases x.bank <;> simp
  induction ws generalizing s t with
  | nil => exact ⟨hb, hm, hp⟩
  | cons w ws ih =>
    simp only [afterWrites, List.foldl_cons]
    cases hl : isLighterCore c
    · apply ih
      · cases h : w.2 <;> simp [applyWr, modCore, hl, hcs, hb]
        exact hb
      · cases h : w.2 <;> simp [applyWr, modCore, hl, setCore, hm]
      · cases h : w.2 <;> simp [applyWr, modCore, hl, setCore, hp]
    · apply ih
      · cases h : w.2 <;> simp [applyWr, modCore, hl, hcs, hb]
      · cases h : w.2 <;> simp [applyWr, modCore, hl, setCore, hm]
      · cases h : w.2 <;> simp [applyWr, modCore, hl, setCore, hp]

/-- The rest of a core, and the rest of the module, through a run of writes. -/
theorem afterWrites_frame (c : Nat) (ws : List (Nat × Wr)) (s : State) :
    let x := getCore s c
    let y := getCore (afterWrites s c ws) c
    y.pc = x.pc ∧ y.cyc = x.cyc ∧ y.phase = x.phase ∧ y.pend = x.pend ∧
    (∀ d, d ≠ c → getCore (afterWrites s c ws) d = getCore s d) ∧
    { afterWrites s c ws with ik := s.ik } = { s with dram := (afterWrites s c ws).dram } := by
  induction ws generalizing s with
  | nil => exact ⟨rfl, rfl, rfl, rfl, fun _ _ => rfl, rfl⟩
  | cons w ws ih =>
    obtain ⟨a1, a2, a3, a4, a5, a6⟩ := ih (applyWr s c w.2)
    have h1 : (getCore (applyWr s c w.2) c).pc = (getCore s c).pc ∧ (getCore (applyWr s c w.2) c).cyc = (getCore s c).cyc ∧
        (getCore (applyWr s c w.2) c).phase = (getCore s c).phase ∧ (getCore (applyWr s c w.2) c).pend = (getCore s c).pend := by
      cases h : w.2 <;> cases hl : isLighterCore c <;> simp [applyWr, hl, modCore, setCur] <;> first | exact ⟨rfl, rfl, rfl, rfl⟩ | (split <;> simp)
    have h2 : ∀ d, d ≠ c → getCore (applyWr s c w.2) d = getCore s d := by
      intro d hd
      cases h : w.2 <;> cases hl : isLighterCore c <;> simp [applyWr, hl, modCore, getCore_setCore_other _ _ _ _ hd]
      rfl
    have h3 : { applyWr s c w.2 with ik := s.ik } = { s with dram := (applyWr s c w.2).dram } := by
      cases h : w.2 <;> cases hl : isLighterCore c <;> simp [applyWr, hl, modCore, setCore]
    simp only [afterWrites, List.foldl_cons]
    refine ⟨a1.trans h1.1, a2.trans h1.2.1, a3.trans h1.2.2.1, a4.trans h1.2.2.2, fun d hd => (a5 d hd).trans (h2 d hd), ?_⟩
    have e1 : ({ afterWrites (applyWr s c w.2) c ws with ik := s.ik } : State) =
      { ({ afterWrites (applyWr s c w.2) c ws with ik := (applyWr s c w.2).ik } : State) with ik := s.ik } := rfl
    have e2 : ({ applyWr s c w.2 with dram := (afterWrites (applyWr s c w.2) c ws).dram, ik := s.ik } : State) =
      { ({ applyWr s c w.2 with ik := s.ik } : State) with dram := (afterWrites (applyWr s c w.2) c ws).dram } := rfl
    show ({ afterWrites (applyWr s c w.2) c ws with ik := s.ik } : State) = { s with dram := (afterWrites (applyWr s c w.2) c ws).dram }
    rw [e1, a6, e2, h3]

theorem insertPend_last (p : Pend) (l : List Pend) (h : ∀ q ∈ l, q.due = p.due) : insertPend p l = l ++ [p] := by
  induction l with
  | nil => rfl
  | cons q l ih =>
    have := h q (by simp)
    simp only [insertPend]
    rw [if_neg (by omega), ih (fun r hr => h r (by simp [hr]))]
    rfl

/-- Writes due in one cycle keep their order. -/
theorem sortPend_same (n : Nat) (l : List Pend) (h : ∀ q ∈ l, q.due = n) : sortPend l = l := by
  have key : ∀ (l acc : List Pend), (∀ q ∈ l, q.due = n) → (∀ q ∈ acc, q.due = n) →
      l.foldl (fun acc p => insertPend p acc) acc = acc ++ l := by
    intro l
    induction l with
    | nil => intro acc _ _; simp
    | cons p l ih =>
      intro acc h1 h2
      have hp := h1 p (by simp)
      simp only [List.foldl_cons]
      rw [insertPend_last p acc (fun q hq => by rw [h2 q hq, hp]),
        ih _ (fun q hq => h1 q (by simp [hq])) (by intro q hq; simp at hq; rcases hq with hq | rfl; exacts [h2 q hq, hp])]
      simp
  simpa [sortPend] using key l [] h (by simp)

/-- A core that goes on past the cycle all its writes in flight are due in. -/
theorem goTo_landed (s u : State) (c n adv : Nat) (pc : W64) (ws : List (Nat × Wr))
    (hp : (getCore u c).pend = ws.map (fun e => ⟨n, e.2⟩)) (hn : n ≤ (getCore s c).cyc + adv)
    (hc : (getCore u c).cyc = (getCore s c).cyc) (hph : (getCore u c).phase = (getCore s c).phase)
    (hb : curBank (getCore u c) = curBank (getCore s c)) (ho : onlyCore s u c) :
    LandedAt s (goTo u c pc adv) c pc adv ws := by
  obtain ⟨g1, g2⟩ := goTo_settle u c pc adv _ rfl
  have hd : ∀ p ∈ ws.map (fun e => (⟨n, e.2⟩ : Pend)), p.due = n := by
    intro p hp
    simp only [List.mem_map] at hp
    obtain ⟨e, _, rfl⟩ := hp
    rfl
  have hset : ∀ y : Core, y.pend = (getCore u c).pend →
      settle (setCore u c y) c ((getCore s c).cyc + adv) =
        afterWrites (setCore (setCore u c y) c { y with pend := [] }) c ws := by
    intro y hy
    have f1 : y.pend.filter (fun p => decide (p.due ≤ (getCore s c).cyc + adv)) = y.pend := by
      simp only [List.filter_eq_self, decide_eq_true_eq]
      intro p hp2; rw [hy, hp] at hp2; have := hd p hp2; omega
    have f2 : y.pend.filter (fun p => decide ((getCore s c).cyc + adv < p.due)) = [] := by
      simp only [List.filter_eq_nil_iff, decide_eq_true_eq]
      intro p hp2; rw [hy, hp] at hp2; have := hd p hp2; omega
    simp only [settle, getCore_setCore, f1, f2]
    rw [sortPend_same n _ (by rw [hy, hp]; exact hd), hy, hp]
    simp [afterWrites, List.foldl_map]
  rw [hc] at g1 g2
  rw [hset _ (by rfl)] at g1 g2
  generalize hz : setCore (setCore u c _) c _ = z at g1 g2
  obtain ⟨a1, a2, a3, a4, a5, a6⟩ := afterWrites_frame c ws z
  have hzc : getCore z c = { getCore u c with pend := [], pc := pc, cyc := (getCore s c).cyc + adv, bun := .empty, first := false } := by
    rw [← hz]; simp
  have hzo : onlyCore s z c := by
    rw [← hz]; exact onlyCore_trans ho (onlyCore_trans (onlyCore_setCore _ _ _) (onlyCore_setCore _ _ _))
  have hcong := afterWrites_congr c ws z s (by rw [hzc]; exact hb)
    (by have := congrArg State.dram hzo.2.2; exact this) hzo.2.1
  obtain ⟨o1, o2, o3⟩ := hzo
  obtain ⟨p1, p2, p3⟩ := g2
  refine ⟨by rw [g1, a1, hzc], by rw [g1, a2, hzc], by rw [g1, a3, hzc]; exact hph, by rw [g1, a4, hzc], by rw [g1]; exact hcong.1, p2.trans hcong.2.2,
    fun d hd => (p1 d hd).trans ((a5 d hd).trans (o1 d hd)), ?_⟩
  generalize goTo u c _ _ = t at *
  have e1 : ({ t with ik := s.ik } : State) = { ({ t with ik := (afterWrites z c ws).ik } : State) with ik := s.ik } := rfl
  have e2 : ({ afterWrites z c ws with ik := s.ik } : State) =
      { ({ afterWrites z c ws with ik := z.ik } : State) with ik := s.ik } := rfl
  have e3 : ({ z with dram := (afterWrites z c ws).dram, ik := s.ik } : State) =
      { ({ z with ik := s.ik } : State) with dram := (afterWrites z c ws).dram } := rfl
  rw [e1, p3, e2, a6, e3, o3, hcong.2.1]

/-- The bundle after writes that the next bundle sees. -/
theorem syl_landed (s : State) (q : Syl) (unit exts : Nat) (ws : List (Nat × Wr))
    (hs : q.stop = true) (hb : atBundle s q.core (1 + exts) = true) (hu : unit < 8) (he : exts ≤ 3)
    (hl : isLighterCore q.core = false ∨ ∀ e ∈ ws, e.1 = 1) :
    ∃ t, syl s q unit exts true .plain (ws.map (fun e => .wr e.1 e.2)) = .next t ∧
      Landed s t q.core (1 + exts) ws := by
  obtain ⟨u, x, k1, k2, k3, k4, k5, k6, k7, k8, k9⟩ := syl_writes s q unit exts ws hs hb hu he
  refine ⟨_, k1, goTo_landed s u q.core ((getCore s q.core).cyc + 1) 1 _ ws ?_ (by omega) (by rw [k2, k4]) (by rw [k2, k5])
    (by rw [k2]; simp [curBank, k6, k7, k8]) k9⟩
  rw [k2, k3, dueAt]
  apply List.map_congr_left
  intro e he2
  rcases hl with hl | hl
  · simp [hl]
  · simp [hl e he2]

/-- A legal bundle of one syllable, up to where its effects begin: `b` is the gathered bundle. -/
theorem syl_commit (s : State) (q : Syl) (unit exts : Nat) (k : SylKind) (effs : List Eff)
    (hs : q.stop = true) (hb : atBundle s q.core (1 + exts) = true) (hu : unit < 8) (he : exts ≤ 3)
    (hk : k ≠ .block) :
    ∃ b : Bundle, b.words = 1 + exts ∧ b.effs = effs ∧
      syl s q unit exts true k effs = .next
        (let c := q.core
         let x := getCore s c
         let s1 := setCore (setCore s c { x with bun := b }) c { x with bun := b, lastPc := x.pc }
         let s2 := effs.foldl (fun s e => doEff s c e) (dropRestored s1 c effs)
         if k = .finish then endBlock s2 c else advance s2 c effs (1 + exts)) := by
  unfold atBundle at hb
  simp only [Bool.and_eq_true, beq_iff_eq, Bool.not_eq_true', Option.isNone_iff_eq_none, List.isEmpty_iff] at hb
  obtain ⟨⟨⟨⟨⟨⟨⟨h1, h2⟩, h3⟩, h4⟩, h5⟩, h6⟩, h7⟩, h8⟩ := hb
  have hrun : ∃ th, (getCore s q.core).phase = .running th := by
    revert h1; split <;> simp_all
  obtain ⟨th, hth⟩ := hrun
  generalize hc : q.core = c at *
  generalize hx : getCore s c = x at *
  have hg : ∃ b : Bundle, gather s q unit exts true k effs = setCore s c { x with bun := b } ∧ b.words = 1 + exts ∧
      b.effs = effs ∧ b.illegal = false ∧ b.hasB = (k == .bOther) ∧ b.hasBlock = false ∧ b.hasEnd = (k == .finish) := by
    simp only [gather, modCore, hc, hx]
    refine ⟨_, rfl, ?_⟩
    simp only [h2, Bundle.empty]
    refine ⟨by simp, by simp, by simp; omega, by simp, ?_, by simp⟩
    cases k <;> simp_all
  obtain ⟨b, g1, g2, g3, g4, g5, g6, g7⟩ := hg
  refine ⟨b, g2, g3, ?_⟩
  have hmod : (modCore (setCore s c { x with bun := b }) c fun x => { x with lastPc := x.pc }) =
      setCore (setCore s c { x with bun := b }) c { x with bun := b, lastPc := x.pc } := by
    simp only [modCore, getCore_setCore]
  have hcode : bundleInCode (modCore (setCore s c { x with bun := b }) c fun x => { x with lastPc := x.pc }) c = true := by
    simp only [bundleInCode, codeHolds, modCore, getCore_setCore, hx, imageAt_setCore] at h8 ⊢
    rw [coreSpace_setCore _ _ _ (by simp), coreSpace_setCore _ _ _ (by simp [hx]), g2]
    exact h8
  have hleg : bundleLegal (modCore (setCore s c { x with bun := b }) c fun x => { x with lastPc := x.pc }) c = true := by
    simp only [bundleLegal, hcode]
    simp only [modCore, getCore_setCore, g4, g5, g6, g7, h3, h4, h5]
    cases k <;> simp_all
  rw [hmod] at hleg
  have hsyl : syl s q unit exts true k effs = .next (commit (setCore s c { x with bun := b }) c) := by
    unfold syl
    rw [hc, hx]
    simp only [g1, hs, if_true]
    split
    · rfl
    · rename_i h; exact absurd hth (h th)
  rw [hsyl]
  unfold commit
  simp only [hmod, getCore_setCore]
  rw [if_neg (by rw [hleg]; simp), if_neg (by rw [h3]; simp)]
  simp only [g3, g7, g2, hx]
  by_cases hf : k = .finish
  · rw [if_pos hf, if_pos (by simp [hf])]
  · rw [if_neg hf, if_neg (by simp [hf])]

/-- A core with nothing in flight that goes on. -/
theorem goTo_quiet (u : State) (c adv : Nat) (pc : W64) (hp : (getCore u c).pend = []) :
    getCore (goTo u c pc adv) c =
      { getCore u c with pc := pc, cyc := (getCore u c).cyc + adv, bun := .empty, first := false } ∧
    onlyCore u (goTo u c pc adv) c := by
  obtain ⟨g1, g2⟩ := goTo_settle u c pc adv _ rfl
  have k := settle_nil (setCore u c { getCore u c with pc := pc, cyc := (getCore u c).cyc + adv, bun := .empty, first := false }) c ((getCore u c).cyc + adv) (by simpa using hp)
  refine ⟨by rw [g1, k.1, getCore_setCore], ?_⟩
  exact onlyCore_trans (onlyCore_setCore _ _ _) (onlyCore_trans k.2 g2)

end Sys2Proof.Machine
end

