-- ==== Sys2Proof/Machine/Contacts.lean ====
section
/-!
DEFINITION. What the module drives on its flash and sideband contacts (R394, R432, Table 16.5), read off the state.
-/
namespace Sys2Proof.Machine

/-- What stands on a contact. -/
inductive Contact where
  /-- the carrier's pull, to this level -/
  | pull (high : Bool)
  /-- held by the module at this level -/
  | held (high : Bool)
  /-- driven as the interface's traffic needs -/
  | driven
  /-- at the interface's idle level, or in electrical idle -/
  | idle
  | notDriven
  deriving DecidableEq, Repr

/-- Boot steps 4 to 6 and service: the rails are good. -/
def railsGood (s : State) : Bool := decide (3 ≤ s.power.bootStep)

/-- CE_n of a quay's channels. -/
def contactCe (s : State) (quay : Nat) : Contact :=
  if !quayOn s quay then .pull true
  else if s.power.dumping ∨ 4 ≤ s.power.bootStep then .driven
  else .held true

/-- WP_n of a quay's channels. -/
def contactWp (s : State) (quay : Nat) : Contact :=
  if !quayOn s quay then .pull false
  else .held (s.power.dumping || decide (4 ≤ s.power.bootStep))

/-- The other channel signals of a quay. -/
def contactChannel (s : State) (quay : Nat) : Contact :=
  if quayOn s quay ∧ 4 ≤ s.power.bootStep then .driven else .notDriven

/-- The lanes of a PCIe port. -/
def contactPcie (s : State) (port : Nat) : Contact :=
  if s.power.on.isEmpty ∨ s.power.dumping then .notDriven
  else if (s.power.linkUp[port]?).getD false then .driven
  else .idle

/-- The lanes of a hawser sub-link. -/
def contactHawser (s : State) (sub : Nat) : Contact :=
  if s.power.on.isEmpty then .notDriven
  else if (getSub s sub).up ∧ !s.power.dumping then .driven
  else .idle

/-- PTNR_ALIVE_OUT. -/
def contactAlive (s : State) : Contact := if s.power.on.isEmpty then .pull false else .held s.pair.aliveOut

/-- FENCE_OUT and HU_TEST_N are asserted; unpowered, the carrier's pull deasserts them. -/
def fenceAsserted (s : State) : Bool := !s.power.on.isEmpty && s.pair.fenceOut
def huTestAsserted (s : State) : Bool := !s.power.on.isEmpty && s.power.measuring.isSome

/-- TALLY_MO carries traffic only In step. -/
def contactTally (s : State) : Contact :=
  if s.power.on.isEmpty then .notDriven
  else if railsGood s ∧ !s.power.dumping ∧ s.pair.state = 1 then .driven
  else .idle

/-- The 10BASE-T1S and I3C ports: silent up to the end of boot step 2. -/
def sidebandActive (s : State) : Bool := s.power.synmon

end Sys2Proof.Machine
end

