-- ==== Sys2Proof/WellFormed.lean ====
section
/-!
DEFINITION. Well-formed commands: every unit, function, queue or entry that an operand numbers is one
the module has. `exec` gives every command a meaning, well formed or not; a command that is not well
formed names something outside the module.
-/
namespace Sys2Proof

/-- Cores 0 to 255 are lighter, 256 to 287 control cores (R16, R204). -/
def coreNo (n : Nat) : Bool := decide (n < 288)
/-- Lighter threads 0 to 65,535, control threads from 65,536 on (R174). -/
def threadNo (n : Nat) : Bool := decide (n < 69632)
def clusterNo (n : Nat) : Bool := decide (n < 8)
def quayNo (n : Nat) : Bool := decide (n < 7)
def engineNo (n : Nat) : Bool := decide (n < 32)
/-- The physical function and 1,024 virtual ones (R40). -/
def functionNo (n : Nat) : Bool := decide (n < 1025)
def tenantNo (n : Nat) : Bool := decide (n < 1024)
/-- The 262,144 entries of the docket table (R53), and those of forwarded and mirrored commands. -/
def docketNo (n : Nat) : Bool := decide (n < 2 ^ 19)
def pilotSlot (n : Nat) : Bool := decide (n < 24)
/-- Loop slot 2 + d regulates domain d. -/
def domainNo (n : Nat) : Bool := decide (n < 22)
def windowNo (n : Nat) : Bool := decide (n < 16)
/-- A number that a 16-bit field carries. -/
def half (n : Nat) : Bool := decide (n < 65536)
def pciePort (n : Nat) : Bool := decide (n < 4)
/-- Synmon and I3C ports. -/
def busPort (n : Nat) : Bool := decide (n < 2)
def subLink (n : Nat) : Bool := decide (n < 2)
/-- Harbour master ports (Table 6.3). -/
def hmPort (n : Nat) : Bool := decide (n < 23)
def entryIndex (n : Nat) : Bool := decide (n < 65536)
def entrySub (n : Nat) : Bool := decide (n < 256)
/-- A line in service of the logbook's eleven sections (Table 17.6). -/
def logLine (n : Nat) : Bool := decide (n < 122051)

def Syl.wf (q : Syl) : Bool := coreNo q.core
def Adm.wf (a : Adm) : Bool := functionNo a.fn && half a.cid
def Requester.wf (r : Requester) : Bool := hmPort r.port
def Path.wf : Path → Bool
  | .tunnel | .firmware => true
  | .synmon p | .mi p => busPort p

/-- Every operand that numbers something numbers something the module has. -/
def Instr.wf : Instr → Bool
  | .powerOn _ | .powerUpRetry _ | .loneStart | .refclkLoss | .refclkReturn _ | .modRstNAssert
  | .modRstNDeassert _ | .fenceInAssert | .fenceInDeassert _ | .watchdogRenew | .watchdogExpiry _
  | .inputLoss | .dumpComplete _ _ _ | .powerRestart _ | .vavgUpdate _ | .governorSample _
  | .governorPause | .d2PowerOff | .d2PowerOn | .holdupMeasurementStart _
  | .holdupMeasurementEnd _ _ | .thermalShutdown _ _ | .temperatureThresholdCrossed _ _
  | .globalFetchResume | .flashEraseComplete _ _ _ | .channelFailure _ | .journalPageProgram
  | .checkpointPass | .foldStart _ _ | .foldMaxage _ | .gcStart _ | .relocationCopyDone _ _
  | .sourceErase _ | .refreshStart _ | .readDisturbThreshold _ | .lotRebuild _ _ _
  | .wearSwap _ _ _ | .nsDeleteDone _ | .powerStateReached | .ps4IdleEntry | .fwDrainComplete
  | .fwActivationTimeout | .selfTestComplete _ _ | .scanSlotGrant _ | .customsPage _ _ _
  | .scanNotice _ | .scanRingPoll _ | .scanEnd _ | .cascadeRequest _ | .cascadeResult _
  | .cascadeTimeout _ | .tallyMiUp | .tallyMiDown | .spillReturn | .timerExpiry _ | .dmaComplete _
  | .beatSend | .aliveInLow | .aliveFault | .aliveInHigh | .fenceDelayExpiry | .autoFence
  | .heartbeat | .dredgeCycleStart | .cycleOverrun | .berthMarch _ _ _ | .tallyParityScrub _ _
  | .patrolRead _ _ _ | .pilotSanity | .lotDegraded24h _ => true
  | .powerUpRailTimeout slot | .pilotLoopEval slot _ _ => pilotSlot slot
  | .perstNAssert p | .perstNDeassert p | .sriovVfEnable p | .portRefclkLoss p
  | .portRefclkReturn p => pciePort p
  | .railFault dom => domainNo dom
  | .clusterPowerOff cluster | .clusterPowerOn cluster | .clusterBistStart cluster
  | .clusterBistEnd cluster _ => clusterNo cluster
  | .quayPowerOff quay | .quayPowerOn quay => quayNo quay
  | .sqTailDoorbell fn qid _ | .cqHeadDoorbell fn qid _ => functionNo fn && half qid
  | .commandFetch fn sqid docket _ => functionNo fn && half sqid && docketNo docket
  | .lockStallRelease docket | .writeCommit docket | .ackLapse docket
  | .flashProgramComplete docket _ | .flashReadComplete docket _ | .flush docket | .write docket _
  | .read docket | .compare docket _ | .verify docket | .writeZeroes docket
  | .writeUncorrectable docket | .datasetManagement docket | .copy docket
  | .reservationRegister docket _ | .reservationReport docket | .reservationAcquire docket _
  | .reservationRelease docket _ | .zoneOpen docket | .zoneClose docket | .zoneFinish docket
  | .zoneReset docket | .zoneOffline docket | .zoneManagementReceive docket | .zoneAppend docket _
  | .executeProgram docket _ | .memoryRead docket | .memoryWrite docket _ | .customsScan docket _
  | .tallyLoad docket | .tallySearch docket => docketNo docket
  | .secondaryResourcesReturn fn | .controllerEnable fn | .controllerReset fn
  | .functionLevelReset fn | .controllerShutdown fn | .aggregationTimeExpiry fn _ => functionNo fn
  | .createIoSubmissionQueue a qid _ cqid _ => a.wf && half qid && half cqid
  | .deleteIoSubmissionQueue a qid | .createIoCompletionQueue a qid _ _ _ _
  | .deleteIoCompletionQueue a qid => a.wf && half qid
  | .getLogPage a _ _ | .logFreezeRecord a _ _ | .logPilotAndPower a _ _ | .logDredgeResults a _ _
  | .logPairState a _ _ | .logTenantFaultRecords a _ _ _ | .logTelemetry a _ _ _
  | .identify a _ _ _ | .getFeatures a _ _ _ | .setFeatures a _ _ _ _ _ | .setPowerManagement a _ _
  | .setOrderedQueueMode a _ _ | .setLandingPolicy a _ _ | .setWritePathCompression a _ _ _
  | .setNumberOfQueues a _ _ _ | .setTimestamp a _ _ | .asynchronousEventRequest a
  | .namespaceCreate a _ | .namespaceDelete a _ | .namespaceAttach a _ _ | .namespaceDetach a _ _
  | .firmwareImageDownload a _ _ | .firmwareCommitStore a _ | .firmwareCommitReplaceActivate a _
  | .firmwareCommitActivate a _ | .firmwareCommitActivateNow a _ | .selfTestShort a _
  | .selfTestExtended a _ | .selfTestAbort a | .formatNvm a _ _ _ _ | .sanitizeBlockErase a
  | .sanitizeCryptoErase a | .primaryFlexibleAllocation a _ _ | .loadProgramLoad a _ _ _
  | .loadProgramUnload a _ | .programActivate a _ | .programDeactivate a _
  | .memoryRangeSetManagement a _ _ _ | .synmonTunnelRead a _ _ | .synmonTunnelWrite a _ _ _
  | .synmonTunnelBlockRead a _ _ | .tenantLeaseCores a _ _ | .tenantLeaseSlm a _ _
  | .tenantLeaseDocketCeiling a _ _ | .tenantLeaseFetchWeight a _ _ | .tenantLeaseTallyRows a _ _
  | .tenantLeaseReadBack a _ _ | .thawQueue a _ _ | .keySlotLoad a _ _ _ _
  | .keySlotClear a _ _ _ _ | .keySlotAssign a _ _ _ _ | .moduleKeyInstall a _ _ _ _
  | .keyZeroize a _ _ _ _ | .pairForm a _ _ _ | .pairDissolve a _ _ | .pairFence a _ _
  | .pairRelease a _ _ | .pairTakeover a _ _ | .pairYield a _ _ => a.wf
  | .abort a sqid cid => a.wf && half sqid && half cid
  | .secondaryOffline a cntlid | .secondaryAssign a cntlid _ _ | .secondaryOnline a cntlid => a.wf && half cntlid
  | .compressionJob thread _ | .compressionLock thread _ | .compressionUnlock thread _
  | .cipherJob thread _ | .cipherLock thread _ | .cipherUnlock thread _ | .tallySearchOp thread _
  | .tallyNext thread _ | .tallyLoadOp thread _ | .tallyInvalidate thread _
  | .affinityHoldExpiry thread | .descriptorFree thread | .poisonToken thread => threadNo thread
  | .compressionJobEnd engine | .cipherJobEnd engine => engineNo engine
  | .alloc who _ | .free who _ | .share who _ | .berthRelease who _ | .reclaim who _ => who.wf
  | .clearLow path _ | .calReseed path _ | .pathWrite path _ | .hbPeriodMs path _
  | .nsidHalf path _ | .wpEngines path _ | .fwEngines path _ | .opCap path _ | .quayEnable path _
  | .clusterEnable path _ | .refclkMode path _ | .dredgeEnable path _ => path.wf
  | .tokenPost p _ _ _ _ => decide (p.index < 32) && hmPort p.port
  | .blockEndEvent core | .leaseQuantumExpiry core | .contextSwitch core | .blockOverrun core
  | .xQueueDepart core | .leaseMinimumExpiry core => coreNo core
  | .streamHalfReady core window | .streamEnd core window => coreNo core && windowNo window
  | .ldb q _ | .ldbu q _ | .ldh q _ | .ldhu q _ | .ldw q _ | .ldwu q _ | .ldd q _ | .ldv q _
  | .stb q _ | .sth q _ | .stw q _ | .std q _ | .stv q _ | .swpd q _ | .aaddd q _ | .fence q _
  | .ldbL q _ _ | .ldbuL q _ _ | .ldhL q _ _ | .ldhuL q _ _ | .ldwL q _ _ | .ldwuL q _ _
  | .lddL q _ _ | .ldvL q _ _ | .stbL q _ _ | .sthL q _ _ | .stwL q _ _ | .stdL q _ _ | .stvL q _ _
  | .add q _ | .sub q _ | .and q _ | .or q _ | .xor q _ | .andn q _ | .shl q _ | .shr q _
  | .sar q _ | .rol q _ | .min q _ | .max q _ | .minu q _ | .maxu q _ | .mul q _ | .mulh q _
  | .mulhu q _ | .div q _ | .divu q _ | .rem q _ | .remu q _ | .clz q _ | .ctz q _ | .popc q _
  | .bswap q _ | .addi q _ | .andi q _ | .ori q _ | .xori q _ | .shli q _ | .shri q _ | .sari q _
  | .wrrc q _ | .rdrc q _ | .li q _ | .liL q _ _ | .liQ q _ _ _ | .la q _ _ | .getb q _ | .ceq q _
  | .cne q _ | .clt q _ | .cltu q _ | .cle q _ | .cleu q _ | .ctst q _ | .ceqL q _ _ | .cneL q _ _
  | .cltL q _ _ | .cltuL q _ _ | .cleL q _ _ | .cleuL q _ _ | .ctstL q _ _ | .vadd q _ | .vsub q _
  | .vmul q _ | .vfma q _ | .vmin q _ | .vmax q _ | .vand q _ | .vor q _ | .vxor q _ | .vandn q _
  | .vshl q _ | .vshr q _ | .vcmp q _ | .vbsl q _ | .vperm q _ | .vcvt q _ | .vred q _ | .vmov q _
  | .vbcast q _ | .vsld q _ | .vget q _ | .vadds q _ | .vmuls q _ | .vshls q _ | .vshrs q _
  | .nop q _ | .br q _ | .brr q _ | .bt q _ | .bf q _ | .btL q _ _ | .bfL q _ _ | .bset q _
  | .bclr q _ | .btgl q _ | .tas q _ | .tac q _ | .blg q _ _ | .call q _ _ | .callr q _ _
  | .ret q _ | .repi q _ | .repc q _ | .block q _ | .wait q _ | .yield q _ | .exit q _ | .post q _
  | .spawn q _ | .dma q _ | .sopen q _ | .sadv q _ | .sclose q _ | .scan q _ | .timerArm q _
  | .timerCancel q _ | .pclr q _ | .rdfeat q _ => q.wf
  | .flitReceive l _ | .flitReplay l | .sublinkLoss l | .sublinkTrainRetry l _ | .beat l _ _
  | .hello l _ _ | .mack l _ _ | .jrec l _ _ | .state l _ _ | .sack l _ _ | .fwdcpl l _ _ _ _ _
  | .fwdabt l _ _ | .fwdabtr l _ _ | .rscopy l _ _ | .rsack l _ _ | .sublinkTrained l => subLink l
  | .mwrite l docket _ _ | .fwdcmd l docket _ _ _ => subLink l && docketNo docket
  | .synmonRead p _ | .synmonWrite p _ | .synmonBlockRead p _ | .nodeIdQuery p _
  | .nodeIdAssign p _ | .miSynmonRead p _ _ _ | .miSynmonWrite p _ _ _ | .miSynmonBlockRead p _ _ _
  | .miSubsystemHealthPoll p _ | .miConfigurationSet p _ _ | .miConfigurationGet p _
  | .miVpdRead p _ _ | .mctpSetEndpointId p _ | .mctpGetEndpointId p | .mctpGetEndpointUuid p
  | .mctpGetVersionSupport p _ | .mctpGetMessageTypeSupport p | .i3cEntdaa p _ | .i3cSetdasa p _ _ => busPort p
  | .miReadDataStructure p _ _ cntlid | .miControllerHealthPoll p cntlid
  | .miAdminCommand p cntlid _ => busPort p && half cntlid
  | .dictionaryWrite path index l _ | .calibrationWrite path index l _ => path.wf && entryIndex index && entrySub l
  | .logbookLineRemap line => logLine line
  | .pilotParameterWrite path slot l _ => path.wf && pilotSlot slot && entrySub l
  | .rate path slot _ | .enable path slot _ => path.wf && pilotSlot slot
  | .port path tenant _ => path.wf && tenantNo tenant
  | .leaseEntryWrite path tenant l _ => path.wf && tenantNo tenant && entrySub l
  | .landingPolicy path l _ => path.wf && entrySub l
  | .plcaWrite path p l _ => path.wf && busPort p && entrySub l
  | .invalidCommandOpcode _ fn sqid cid => functionNo fn && half sqid && half cid

end Sys2Proof
end

