-- ==== Sys2Proof/Tests/Slice0.lean ====
section
/-!
SUPPORT. Tests of the model: an ill-formed command for every check of `WellFormed`, a state and
operands that meet the hypotheses of each statement, and single steps whose results the spec gives.
-/
namespace Sys2Proof.Tests
set_option Elab.async false
open Sys2Proof.Machine

/-! ### Ill-formed commands -/

def who0 : Requester := ⟨0, 0, 0⟩
def adm0 : Adm := ⟨0, 1⟩
def req0 : BerthReq := ⟨0, 0, 0, 0, 0⟩
def hdr0 : MsgHdr := ⟨0, 0, 0, 0, 0⟩
def tri0 : TriF := ⟨0, 0, 0, 0⟩

theorem test_illformed_core : (Instr.add ⟨288, true, true⟩ tri0).wf = false := by decide
theorem test_illformed_thread : (Instr.poisonToken 69632).wf = false := by decide
theorem test_illformed_cluster : (Instr.clusterPowerOff 8).wf = false := by decide
theorem test_illformed_quay : (Instr.quayPowerOn 7).wf = false := by decide
theorem test_illformed_engine : (Instr.cipherJobEnd 32).wf = false := by decide
theorem test_illformed_function : (Instr.functionLevelReset 1025).wf = false := by decide
theorem test_illformed_tenant : (Instr.port .tunnel 1024 []).wf = false := by decide
theorem test_illformed_docket : (Instr.read (2 ^ 19)).wf = false := by decide
theorem test_illformed_slot : (Instr.rate .tunnel 24 []).wf = false := by decide
theorem test_illformed_domain : (Instr.railFault 22).wf = false := by decide
theorem test_illformed_window : (Instr.streamEnd 0 16).wf = false := by decide
theorem test_illformed_queue : (Instr.sqTailDoorbell 0 65536 0).wf = false := by decide
theorem test_illformed_pcie : (Instr.perstNAssert 4).wf = false := by decide
theorem test_illformed_bus : (Instr.mctpGetEndpointId 2).wf = false := by decide
theorem test_illformed_sublink : (Instr.flitReplay 2).wf = false := by decide
theorem test_illformed_master : (Instr.tokenPost ⟨64, 0⟩ 0 0 1 false).wf = false := by decide
theorem test_illformed_requester : (Instr.free ⟨64, 0, 0⟩ req0).wf = false := by decide
theorem test_illformed_index : (Instr.dictionaryWrite .tunnel 65536 0 []).wf = false := by decide
theorem test_illformed_sub : (Instr.dictionaryWrite .tunnel 0 256 []).wf = false := by decide
theorem test_illformed_line : (Instr.logbookLineRemap 122051).wf = false := by decide
theorem test_illformed_admin : (Instr.selfTestAbort ⟨0, 65536⟩).wf = false := by decide
theorem test_illformed_path : (Instr.opCap (.synmon 2) []).wf = false := by decide

/-! ### States for the statements -/

/-- Booted and in service: every domain on, the physical function and virtual function 1 enabled, with an I/O
queue each. -/
def ioQueue : Sq := ⟨true, 4, 1, 0, 2, false, none, 1, []⟩
def cplQueue : Cq := ⟨true, 4, 0, false, 0, 0, []⟩
def oneFn : Fn := { Fn.empty with
  present := true, en := true, rdy := true, online := true, vq := 3, vi := 3, sqs := [(1, ioQueue)], cqs := [(1, cplQueue)] }
def lit : State := { State.reset with
  nowMs := 100000, uptime := 100000
  host := { HostIf.empty with fns := [(0, oneFn), (1, oneFn)] }
  media := { Media.empty with ready := true }
  power := { Power.reset with
    bootStep := 6, on := List.range 22, synmon := true, healthy := true, linkUp := [true, true, true, true] } }

/-- Thread 5 of tenant 0 runs a block of 16 NOPs on core 0, between two of its bundles. -/
def codeImage : Image :=
  { handle := 1, owner := 0, index := 0, base := 0, code := (List.replicate 16 [0, 0, 0, 0xE0]).flatten, data := [], entry := 0, wbase := 0,
    wsize := 2, prio := 0, cmask := 255, reqfeat := 0, active := true }
def ranThread : Thread := { Thread.free with state := 3, winSize := 2, lastCore := 0, cmask := 255 }
def runCore : Core := { Core.empty with phase := .running 5, first := false, pc := 0x100000000, cyc := 10 }
def ranWith (x : Core) (c : Nat) : State := { lit with
  prog := { Programs.empty with images := [codeImage], nextHandle := 2 }
  hm := { Harbour.empty with threads := [(5, ranThread)] }
  ik := { Ikixa.empty with cores := [(c, x)] } }
def ran : State := ranWith runCore 0
def q0 : Syl := ⟨0, false, true⟩

/-! ### Hypotheses that states meet -/

theorem witness_TriSyllablesWriteTheirResult : q0.stop = true ∧ atBundle ran q0.core 1 = true ∧
    (⟨1, 2, 0, 1⟩ : TriF).fn.toNat ≤ 1 ∧ tri0.fn = 0 ∧ tri0.rb = 0 ∧ (3 : W64) ≠ 0 ∧
    BitVec.setWidth 32 (3 : W64) ≠ 0 := by decide +kernel
theorem witness_DivisionCornersComplete : BitVec.setWidth 32 (0x100000000 : W64) = (0 : W32) ∧
    BitVec.setWidth 32 (0x180000000 : W64) = BitVec.intMin 32 ∧ BitVec.setWidth 32 (0xFFFFFFFF : W64) = (-1 : W32) ∧
    q0.stop = true ∧ atBundle ran q0.core 1 = true ∧ (⟨1, 2, 0, 1⟩ : TriF).fn.toNat ≤ 1 := by decide +kernel
theorem witness_ImmediateAndCompareSyllables : q0.stop = true ∧ atBundle ran 0 1 = true ∧ atBundle ran 0 2 = true ∧
    atBundle ran 0 3 = true ∧ (63 : BitVec 8).toNat < 64 ∧ (4095 : BitVec 14).toNat < 4096 ∧
    (0x7FFFF : BitVec 31).toNat < 2 ^ 19 ∧ (1023 : BitVec 31).toNat < 1024 := by decide +kernel
theorem witness_BitSyllablesWriteTheirBit : q0.stop = true ∧ atBundle ran 0 1 = true ∧ atBundle ran 0 2 = true ∧
    sharedQuiet ran 0 = true ∧ (1023 : BitVec 12).toNat < 1024 ∧ 1024 ≤ (2047 : BitVec 12).toNat ∧
    (2047 : BitVec 12).toNat < 2048 ∧ (128 : BitVec 31).toNat % 128 = 0 ∧ 1024 ≤ (1024 : BitVec 31).toNat := by decide +kernel
theorem witness_BundleReadsBeforeItsWrites : isLighterCore 0 = true ∧ atBundle ran 0 2 = true ∧ tri0.fn = 0 := by decide +kernel
def memIndexed : MemF := ⟨0, 1, 2, 3, 4⟩
def memVector : MemF := ⟨0, 31, 2, 0, 0⟩
theorem witness_LoadsWriteWhatMemoryHolds : q0.stop = true ∧ atBundle ran 0 1 = true ∧ atBundle ran 0 2 = true ∧
    shortOk memIndexed false = true ∧ shortOk memVector true = true ∧ longOk memVector true = true ∧
    longOk ⟨0, 63, 2, 0, 0⟩ false = true ∧ reachable 0 0xFFFFFFFFFFFFFFFF 64 = true ∧
    reachable 256 (BitVec.ofNat 64 nearBase) 64 = true := by decide +kernel
theorem witness_StoresSendTheirBytes : q0.stop = true ∧ atBundle ran 0 2 = true ∧ shortOk memVector false = true ∧
    memVector.mode = 0 ∧ memVector.sc = 0 ∧ reachable 0 (tableAddr ran 0 memVector 8) 8 = true ∧
    (tableAddr ran 0 memVector 8).toNat % 2 ^ 20 / 8 * 8 < 0x80000 ∧ isLighterCore 256 = false := by decide +kernel
theorem witness_VectorSyllablesWriteTheirResult : q0.stop = true ∧ atBundle ran 0 1 = true ∧
    (⟨1, 2, 3, 6, 0⟩ : VecF).et.toNat < 7 ∧ (⟨1, 2, 3, 3, 1⟩ : VecF).et.toNat < 4 ∧
    (etWidth (⟨1, 2, 0, 6, 1⟩ : VecF).vb.toNat ≠ etWidth 6) ∧ (⟨0, 2, 3, 3, 1⟩ : VscF).et.toNat < 4 := by decide +kernel
theorem witness_LanesAndNansAreAsStated : 0 < 512 / etWidth 6 ∧ fDecode fF32 0x7F800001 = .nan ∧
    fDecode fF64 0x7FF0000000000001 = .nan ∧ fDecode fBf16 0xFF81 = .nan := by decide +kernel
theorem witness_BranchesCallsAndReturns : q0.stop = true ∧ atBundle ran 0 1 = true ∧ atBundle ran 0 2 = true ∧
    (0xFFFFFF : BitVec 31).toNat < 2 ^ 24 ∧ reachable 0 (rdX ran 0 63) (retSize ran 0) = true ∧
    reachable 0 (callSp ran 0 2048) 2048 = true ∧ reachable 256 (BitVec.ofNat 64 nearBase) 2048 = true := by decide +kernel
def startCore : Core := { runCore with first := true }
def counted : Core := { runCore with bank0 := { Bank.empty with rc := 3 } }
theorem witness_RepeatsAndBlocks : q0.stop = true ∧ atBundle ran 0 1 = true ∧ (65535 : BitVec 20).toNat < 65536 ∧
    (curBank (getCore (ranWith counted 0) 0)).rc ≠ 0 ∧ atBundle (ranWith counted 0) 0 1 = true ∧
    (curBank (getCore ran 0)).rc = 0 ∧ atBlockStart (ranWith startCore 0) 0 = true ∧
    (getCore (ranWith startCore 0) 0).newThread = false ∧ bundleLen ran 0 (nextPc ran 0 1) = some 1 := by decide +kernel

def sqe1 (k : IoKind) : Sqe := { emptySqe with kind := k, cid := 7, nsid := 1, slba := 8, nlb := 8, flag := true }
def ns1 : Ns := { Ns.empty with
  live := true, nsze := 4096, ncap := 4096, attached := [0, 1], keyGen := 1, ready := true }
def docket1 (k : IoKind) : Docket := { Docket.free with
  word := .admitted, fn := 1, sqid := 1, sqe := sqe1 k, healthy := true, acked := true, seq := 1 }
/-- Docket entry 9 holds a fetched command of virtual function 1 on namespace 1. -/
def fetchedAs (e : Docket) (n : Ns) : State := { lit with
  host := { lit.host with dockets := [(9, e)], seq := 2 }
  media := { lit.media with cur := { MapSt.empty with nss := [(1, n)] } } }
def fetched (k : IoKind) : State := fetchedAs (docket1 k) ns1
def stalledDocket : Docket := { docket1 .write with stalled := true }
def frozen (z : Freeze) : State := { lit with host := { lit.host with
  fns := [(0, { oneFn with sqs := [(1, { ioQueue with freeze := some z, ordered := true })] })] } }
def freeze1 : Freeze := ⟨3, 0, 0x4281, 1, 2, 1, 500, 1, 9⟩

theorem witness_CommandsAreFetchedFromQueues : (getFn lit 0).rdy = true ∧ (getSq lit 0 1).live = true ∧
    (getSq lit 0 2).live = false ∧ (3 : Nat) < (getSq lit 0 1).size ∧ (getSq lit 0 1).size ≤ 4 ∧
    (getCq lit 0 1).live = true ∧ (0 + (getCq lit 0 1).size - (getCq lit 0 1).head) % (getCq lit 0 1).size ≤ (getCq lit 0 1).used ∧
    (getCq lit 0 1).waiting = [] ∧ fetchOpen lit 0 1 = true ∧ dkUsed lit 262143 = false ∧
    locksUsed lit + (locksOf lit (sqe1 .write)).length ≤ 16384 ∧ dkUsed (fetchedAs stalledDocket ns1) 9 = true ∧
    lockBlocked (fetchedAs stalledDocket ns1) stalledDocket = false := by decide +kernel
def coalesced : State := { lit with host := { lit.host with globalStop := true, fns := [(0, { oneFn with coal := [(0, 2)] })] } }
theorem witness_FetchesAndInterruptsGoOn : 0 < tabGet 0 (getFn coalesced 0).coal 0 ∧ coalesced.host.globalStop = true ∧
    coalesced.host.dockets.length + 1024 ≤ 262144 := by decide +kernel
def ringing : State := { lit with host := { lit.host with fns := [(0, { oneFn with cqs := [(1, { cplQueue with ien := true, used := 2 }), (2, { cplQueue with used := 3 })] })] } }
theorem witness_CompletionsReachTheirQueue : (getCq ringing 0 1).live = true ∧ ringing.power.dumping = false ∧
    (getCq ringing 0 1).used + 1 < (getCq ringing 0 1).size ∧ (getCq ringing 0 1).ien = true ∧
    (getCq ringing 0 2).size ≤ (getCq ringing 0 2).used + 1 ∧ (getCq ringing 0 3).live = false ∧
    Status.invalidField ≠ .success := by decide +kernel
theorem witness_QueuesAreCreatedAndDeleted : adminOpen lit adm0.fn = true ∧ lit.power.recovery = false ∧
    2 ≤ queueLimit (getFn lit 0) 0 true ∧ (getSq lit 0 2).live = false ∧ (getCq lit 0 1).live = true ∧
    2 ≤ queueLimit (getFn lit 0) 0 false ∧ (getCq lit 0 2).live = false ∧ 3 ≤ (getFn lit 0).vi ∧ 3 < msixEntries 0 ∧ msixEntries 1 ≤ 129 ∧ (getFn lit 0).vi < 4 ∧
    (getSq lit 0 1).live = true ∧ lit.host.dockets = [] ∧
    (∀ e ∈ (getFn { lit with host := { lit.host with fns := [(0, { oneFn with sqs := [] })] } } 0).sqs, e.2.live = true → e.1 ≠ 0 → e.2.cqid ≠ 1) := by decide +kernel
def offFn : Fn := { Fn.empty with present := true, online := true, vq := 2, vi := 2 }
def offState : State := { lit with host := { lit.host with fns := [(0, oneFn), (1, offFn), (2, { Fn.empty with present := true })], perst := [2] } }
theorem witness_ControllersStartAndReset : canEnable offState 1 = true ∧ (getFn offState 0).en = true ∧ (getFn offState 1).present = true ∧
    4 ≤ offState.power.bootStep ∧ (getFn lit 1).rdy = true ∧ (getFn lit 1).shst = 0 ∧ lit.host.dockets = [] ∧
    offState.host.perst.contains 3 = false ∧ offState.host.perst.contains 2 = true ∧ offState.power.portRef[2]? = some true ∧
    offState.power.linkUp[3]? = some true ∧ tabFind offState.host.vfEnabled 3 = none ∧ adminOpen offState 0 = true ∧
    offState.power.recovery = false ∧ poolHeld offState false 0 + 16380 ≤ 16384 ∧ 16384 < poolHeld offState false 0 + 16383 ∧
    (getFn offState 2).online = false ∧ poolHeld offState true 2 + 128 ≤ 16384 ∧ (getFn offState 1).online = true ∧
    (getFn offState 1).vq ≠ 0 ∧ (getFn offState 2).vq = 0 ∧ inFlight offState 2 = 0 ∧ discardedLeft offState 2 = false := by decide +kernel
theorem witness_UnknownAbortedAndEventCommands : adminOpen lit 0 = true ∧ fetchOpen lit 0 1 = true ∧ lit.host.dockets = [] ∧
    lit.host.ps = 0 ∧ lit.host.psWait = none ∧ (getSq lit 0 1).ordered = false ∧ lit.pair.aborts = [] ∧ lit.pair.fwd = [] ∧
    (fetched .write).host.dockets = [(9, docket1 .write)] ∧ (docket1 .write).word = .admitted ∧ (getFn lit 0).events = [] ∧
    (getFn lit 0).aers.length < 8 ∧ (getSq (frozen freeze1) 0 1).freeze = some freeze1 ∧
    thawHeadOk (getSq (frozen freeze1) 0 1) freeze1 2 = true ∧ (getSq lit 0 1).freeze = none := by decide +kernel
theorem witness_FreezeRecords : (getFn (frozen freeze1) 0).sqs = [(1, { ioQueue with freeze := some freeze1, ordered := true })] ∧
    freeze1.cid < 65536 ∧ freeze1.slot < 65536 ∧ freeze1.status < 2 ^ 15 ∧ freeze1.next < 65536 ∧ freeze1.cancelled < 2 ^ 32 := by decide +kernel

/-! Berths, tokens, threads -/

def berthReq (op addr : Nat) : BerthReq := ⟨BitVec.ofNat 64 (op + addr * 65536), 0, 0, 0, 0⟩
def nearFirst : Nat := berthAddr false 0
def ctrlCore : Core := { Core.empty with phase := .running 65541 }
def berthed : State := { lit with
  ik := { Ikixa.empty with cores := [(256, ctrlCore)] }
  pool := { Pool.empty with berths := [(nearFirst, ⟨true, tagOf ⟨9, 3, 0⟩, [], none⟩)], nearStack := [berthAddr false 1] } }
def who9 : Requester := ⟨9, 3, 0⟩
def who19 : Requester := ⟨19, 0, 5⟩
theorem witness_BerthsMoveBetweenPoolAndOwners : requesterOk berthed who9 = true ∧ domainOn berthed 1 = true ∧ who9.port ≤ 10 ∧
    berthed.pool.held = [] ∧ brOp (berthReq 0 0) = 0 ∧ brFormed (berthReq 0 0) = true ∧ domainOn berthed 2 = true ∧
    hotStack berthed false = [berthAddr false 1] ∧ bitmapFree { berthed with pool := { berthed.pool with nearStack := [] } } false = some (berthAddr false 1) ∧
    brOp (berthReq 1 nearFirst) = 1 ∧ berthCheck berthed 9 (tagOf who9) (berthReq 1 nearFirst) = 0 ∧ berthClass nearFirst = some false ∧
    waitQ berthed false = [] ∧ berthCheck berthed 9 (tagOf ⟨9, 4, 0⟩) (berthReq 1 nearFirst) = 5 ∧
    berthCheck berthed 9 (tagOf who9) (berthReq 3 nearFirst) = 5 ∧ requesterOk berthed who19 = true ∧
    berthCheck berthed 19 (tagOf who19) (berthReq 4 nearFirst) = 0 ∧ berthBusy berthed nearFirst = false ∧ brNotify (berthReq 4 nearFirst) = false ∧
    waitPlace berthed false 9 = true ∧ brWait (berthReq 32 0) = true ∧ brOp (berthReq 32 0) = 0 ∧ berthed.pool.reclaims = [] ∧ nothingWaits lit = true ∧ berthCheck berthed 9 (tagOf who9) (berthReq 4 nearFirst) ≠ 0 ∧
    ([] : List Nat).erase (tagOf ⟨9, 3, 0⟩) = [] ∧ (getBerth berthed nearFirst).done = none := by decide +kernel
def tokened : State := { lit with hm := { Harbour.empty with
  threads := [(5, { ranThread with state := 1, reqs := [⟨0x300, 4⟩] })], waits := [5], chans := [(chanKey 0 0x300, ⟨2, false⟩)] } }
def ringed (l : List RingEnt) (r : List Ready) : State := { lit with hm := { Harbour.empty with ring := l, ready := r } }
theorem witness_TokensAndHeldWorkMoveOn : domainOn tokened 1 = true ∧ chanThread 0 0x300 = none ∧ tokened.hm.ring = [] ∧
    (getCore ran 0).phase = .running 5 ∧ portCore 11 0 = 0 ∧ (getThr ran 5).space = 0 ∧ portCore 19 0 = 256 ∧ (getCore berthed 256).phase = .running 65541 ∧
    isControl 65541 = true ∧ postBar lit fwSpace 0x300 1 = .clear ∧ (ringed [.req 5 ⟨0x300, 1⟩] []).hm.waits.contains 5 = false ∧
    manifestUsed tokened < 32768 ∧ idleChans tokened 0 < idleLimit 0 ∧ (getThr tokened 5).space = 0 ∧
    (getThr tokened 5).reqs = [⟨0x300, (getChan tokened (chanKey 0 0x300)).count + 2⟩] ∧
    ((ringed [.ready 5] [⟨5, .ring 2⟩]).hm.ready.find? (fun r => r.thread == 5) = some ⟨5, .ring 2⟩) ∧
    listLen (ringed [.ready 5] [⟨5, .ring 2⟩]) (clusterPlace 2) < 512 ∧
    ((ringed [] [⟨5, .affinity 70⟩]).hm.ready.find? (fun r => r.thread == 5) = some ⟨5, .affinity 70⟩) := by decide +kernel
def switching : State := ranWith { runCore with phase := .switching 5 } 0
def ending : State := ranWith { runCore with phase := .ended 5, endEv := some .exit } 0
def leased : State := { ran with hm := { ran.hm with
  threads := [(5, { ranThread with state := 5 })], leases := [(0, { CoreLease.free with space := some 0 })] } }
theorem witness_ThreadsRunAndStop : (getCore switching 0).phase = .switching 5 ∧ (getThr switching 5).lastCore = 0 ∧
    (getCore ending 0).phase = .ended 5 ∧ (getCore ending 0).endEv = some .exit ∧ (getCore ending 0).xq = [] ∧
    (getCore ending 0).fault = none ∧ (getThr ending 5).stopping = false ∧ (getCore ran 0).phase = .running 5 ∧
    (getThr leased 5).state = 5 ∧ threadBusy leased 5 = false ∧ leased.pool.reclaims = [] ∧ (∀ e ∈ leased.ik.cores, e.2.xq = []) ∧
    (getLease leased 0).space = some 0 ∧ (getLease switching 0).next = none ∧ (getThr leased 5).restart = false ∧
    (getThr { leased with hm := { leased.hm with threads := [(5, { ranThread with state := 5, restart := true })] } } 5).restart = true := by decide +kernel
def timerRec : List Byte := leBytes 4 1000 ++ leBytes 4 0x300 ++ leBytes 2 1 ++ List.replicate 6 0 ++ leBytes 8 0
def dma1 : Dma := { Dma.empty with live := true, thread := 5, far := nearFirst, near := 64, length := 64, toFar := true }
def stream1 : Stream := { Stream.closed with isOpen := true, far := nearFirst, length := 4096, thread := 5 }
def moving : State := { ran with
  pool := { Pool.empty with berths := [(nearFirst, ⟨true, tagOf ⟨11, 0, 5⟩, [], none⟩)] }
  hm := { ran.hm with dmas := [(1, dma1)], timers := [(3, some ⟨0, 0x300, 1, 5, 10, 0⟩)] }
  ik := { ran.ik with cores := [(0, { runCore with xq := [⟨0, 5, .pclr⟩], streams := [(2, stream1)] })] } }
theorem witness_RequestsTimersAndTransfers : (getCore moving 0).xq = [⟨0, 5, .pclr⟩] ∧ postBar moving 0 0x300 0 = .denied ∧
    recNat timerRec 0 4 ≠ 0 ∧ recNat timerRec 4 4 < 2 ^ 24 ∧ recNat timerRec 8 2 ≠ 0 ∧ recNat timerRec 10 6 = 0 ∧ armedIn moving 0 < 64 ∧
    getTimer moving 3 = some ⟨0, 0x300, 1, 5, 10, 0⟩ ∧ timerDue moving ⟨0, 0x300, 1, 5, 10, 0⟩ = true ∧ timerDue moving ⟨0, 0x300, 1, 5, 10000, moving.nowMs⟩ = false ∧ (getThr moving 5).state = 3 ∧ (getDma moving 1).live = true ∧ (getDma moving 1).discard = false ∧
    (getDma moving 1).slm = false ∧ (getThr moving 5).lastCore ≠ 0xFFFF ∧ (getStream moving 0 2).outbound = false ∧ (getStream moving 0 2).isOpen = true ∧
    (getStream moving 0 2).moved < (getStream moving 0 2).length ∧ (getStream moving 0 2).ready0 = false ∧
    strayTransfer moving 5 false nearFirst 64 = false ∧ strayTransfer moving 5 false nearFirst 4096 = false ∧ strayTransfer { moving with pool := Pool.empty } 5 false nearFirst 64 = true ∧
    (getStream moving 0 2).slm = false ∧ (getStream moving 0 2).reported = false := by decide +kernel

/-! Administration -/

def withNs (n : Ns) : State := { lit with media := { lit.media with cur := { MapSt.empty with nss := [(1, n)] } } }
theorem witness_FeaturesKeepWhatIsSet : adminOpen lit 0 = true ∧ lit.power.recovery = false ∧ plainFeature 0x02 = false ∧
    ownFeature 0x03 = false ∧ plainFeature 0x03 = false ∧ plainFeature 0x83 = true ∧ ioSq lit 0 1 = true ∧ ioSq lit 0 0 = false ∧ landingOk lit 0 = false ∧ (∃ e ∈ (getFn lit 0).sqs, e.1 ≠ 0) ∧
    (∀ e ∈ (getFn offState 1).sqs, e.1 = 0) ∧ (getNs (withNs { ns1 with lbaf := 1 }) 1).live = true ∧
    unitSlots (getNs (withNs { ns1 with lbaf := 1 }) 1).lbaf = 4 ∧ (getNs (withNs { ns1 with lbaf := 1 }) 1).mirror = false := by decide +kernel
def psWaiting (t : Nat) (idle : Bool) : State := { lit with host := { lit.host with psWait := some ⟨adm0, t, 0, idle⟩ }, power := { lit.power with on := [0, 1, 2, 18, 19] } }
def tested : State := { lit with service := { Service.reset with stCode := 1, cycleAt := some 0 } }
theorem witness_PowerStatesTestsAndCyclesEnd : adminOpen lit 0 = true ∧ lit.host.psWait = none ∧ (psWaiting 4 true).host.psQueue = [] ∧
    underCap (psWaiting 3 true) 3 = true ∧ (psWaiting 4 true).host.busyAt < (psWaiting 4 true).nowMs ∧ (psWaiting 4 true).host.dockets = [] ∧ limitsMet (psWaiting 4 true) 4 = true ∧ limitsMet (psWaiting 3 true) 3 = true ∧ (psWaiting 4 true).host.ps < 4 ∧
    limitsMet { psWaiting 4 true with power := lit.power } 4 = false ∧ lit.service.stCode = 0 ∧ tested.service.stCode ≠ 0 ∧
    (segmentsOf 1).contains 1 = true ∧ tested.host.activation = none ∧ lit.power.bootStep = 6 ∧ lit.service.cycleAt = none ∧
    tested.service.cycleAt = some 0 ∧ tested.service.overrun = false ∧ tested.nowMs < 0 + dget tested 0x9000 2 * 3600000 ∧
    cycleDone tested = false ∧ unitDone tested 1 0 = false := by decide +kernel
theorem witness_LogsAndIdentifyAnswer : adminOpen lit 0 = true ∧ 0 ≤ (freezeLog lit 0).length ∧ (freezeLog lit 0).length < 17 ∧
    faultSel 0 0xFFFF = some none ∧ faultSel 0 1024 = none ∧ faultSel 1 0 = some (some 0) ∧ logForAll 0xC1 = false ∧ logForPf 0x99 = false ∧
    logForAll 0x99 = false ∧ attachedTo (withNs ns1) 0 1 = true ∧ (getNs (withNs ns1) 1).live = true := by decide +kernel
def create1 : NsCreate := ⟨4096, 4096, 0, true, false, 0, 0, []⟩
theorem witness_NamespacesAreCreated : adminOpen lit 0 = true ∧ lit.pair.state = 0 ∧ freeNsid lit = some 1 ∧ freeNsid (withNs ns1) = some 2 ∧
    (∀ b ∈ create1.rsv, b = 0) ∧ create1.mirror.toNat ≤ 1 ∧ create1.flbas ≤ 2 ∧ (2 : Byte).toNat > 1 ∧
    ({ create1 with ncap := 0 } : NsCreate).ncap = 0 := by decide +kernel
def deletingNs : State := withNs { ns1 with deleting := some adm0, attached := [] }
theorem witness_NamespacesAttachDeleteAndClear : adminOpen lit 0 = true ∧ (tabGet Ns.empty (newestMap (withNs ns1)).nss 1).live = true ∧
    [2, 1024].Nodup ∧ (∀ c ∈ [2, 1024], c ≤ 1024) ∧ (∀ c ∈ [2, 1024], c ∉ ns1.attached) ∧ (∃ c ∈ [1, 2], c ∈ ns1.attached) ∧
    ns1.shared = false ∧ 1 < ns1.attached.length + 1 ∧ (∀ c ∈ [0, 1], c ∈ ns1.attached) ∧ (getNs (withNs ns1) 1).deleting = none ∧
    (getNs deletingNs 1).deleting = some adm0 ∧ nsDockets deletingNs 1 (fun _ => true) = [] ∧
    (∀ e ∈ deletingNs.media.cur.nss, e.1 ≠ 1 → e.2.deleting ≠ some adm0) ∧ tabGet Ns.empty (newestMap deletingNs).nss 1 ≠ Ns.empty ∧
    nsDockets (fetched .write) 1 (fun _ => true) ≠ [] ∧ lit.media.cur.nss = [] := by decide +kernel
def rec1 (t : Nat) : JRec := { jrec t 1 8 4 0 0 with jsn := 1 }
def journaled : State := { lit with media := { lit.media with journal := [rec1 1], jsn := 200, programmedJsn := 72, appliedJsn := 200, passAt := some 92000 } }
theorem witness_JournalRecordsAndPages : (11 : Nat) < 2 ^ 48 ∧ (rec1 1).unit + (rec1 1).count ≤ 2 ^ 48 ∧ (rec1 1).typ = 1 ∧ mMapped (rec1 1).entry = false ∧
    mMapped (2 ^ 41) = true ∧ lit.pair.state = 0 ∧ lit.power.healthy = true ∧ lit.media.appliedJsn = lit.media.jsn ∧ lit.media.jsn < lit.media.programmedJsn + tailRecs ∧
    (∀ e ∈ lit.media.journal, e.jsn ≤ lit.media.jsn) ∧
    journaled.media.programmedJsn < journaled.media.jsn ∧ lit.media.jsn ≤ lit.media.programmedJsn ∧ journaled.host.dockets = [] ∧ journaled.media.ready = true ∧
    (∀ t, journaled.media.passAt = some t → t + 8000 ≤ journaled.nowMs) ∧ commitWorn journaled 5 rootLine = false := by
  refine ⟨by decide, by decide, by decide, by decide +kernel, by decide +kernel, by decide, by decide, by decide, by decide, by decide, by decide,
    by decide, by decide +kernel, by decide, ?_, by decide +kernel⟩
  intro t h; cases h; decide
def activating : State := { lit with host := { lit.host with activation := some ⟨adm0, 2, 99900⟩ } }
theorem witness_FirmwareIsStoredAndActivated : adminOpen lit 0 = true ∧ (3 * 2 ^ 20 - 4096) % 4096 = 0 ∧ 3 * 2 ^ 20 - 4096 + 4096 ≤ 3 * 2 ^ 20 ∧
    lit.pair.state ≠ 1 ∧ activating.host.activation = some ⟨adm0, 2, 99900⟩ ∧ activating.nowMs < 99900 + 200 ∧ (99800 : Nat) + 200 ≤ activating.nowMs ∧ drained activating = true ∧
    drained { activating with host := { activating.host with dockets := [(9, docket1 .write)] } } = false := by decide +kernel
def mk1 : List Byte := List.replicate 32 7
def wrapped1 : List Byte := List.replicate 24 0
def keyed : State := { lit with eng := { Engines.empty with moduleKey := some mk1 } }
def kwLoad : W32 := 0x10000
theorem witness_KeySlotsAndTenantLeases : adminOpen lit 0 = true ∧ kClean keyed 0 kwLoad 0 24 wrapped1 = true ∧ kOp kwLoad = 0 ∧ kKind kwLoad = 1 ∧
    keyed.eng.moduleKey = some mk1 ∧ slotBusy keyed 0 = false ∧ commitWorn keyed 3 (slotLine 0) = false ∧
    kClean lit 0 0x1000 0 0 [] = true ∧ kOp 0x1000 = 1 ∧ kClean lit 0 0x2FFF 0x7FF 0 [] = true ∧ kOp 0x2FFF = 2 ∧ kTenant 0x7FF = 0x7FF ∧
    kClean lit 0 0x3000 0 32 mk1 = true ∧ kOp 0x3000 = 3 ∧ kClean lit 0 0x4000 0 0 [] = true ∧ kOp 0x4000 = 4 ∧
    commitWorn lit 3 modKeyLine = false ∧ anyCipherJob lit = false ∧ bitsOf (0x203FF : W32).toNat 10 15 = 0 ∧ bitsOf (0x203FF : W32).toNat 16 18 = 2 ∧
    leaseRefusal lit 1023 2 65536 = none ∧ leaseWorn lit 1023 2 65536 = none ∧ leaseRefusal lit 1023 2 0 = some .invalidField := by decide +kernel
def bareHeader : List Byte := [0x49, 0x4B, 0x58, 0x50, 1, 0, 0, 0] ++ leBytes 4 4 ++ leBytes 4 0 ++ [0, 2, 0, 1] ++ leBytes 4 0 ++ leBytes 8 (2 ^ 48) ++ List.replicate 28 0
def exitWord : List Byte := leBytes 4 0xF0300000
def image1 : List Byte := bareHeader ++ leBytes 4 (crc32c (bareHeader ++ exitWord)) ++ exitWord
def withImage : State := { lit with prog := { Programs.empty with images := [codeImage], nextHandle := 2 } }
theorem witness_ProgramsAndSubsystemMemory : adminOpen lit 0 = true ∧ headerOk image1 = true ∧ imageBy lit (progOwner 0) 0 = none ∧
    firstFit lit.prog.images (recNat image1 8 4) = some 0 ∧ freeImageHandle lit lit.prog.images = some 1 ∧ headerOk [] = false ∧
    imageBy withImage 0 0 = some codeImage ∧ progOwner 1 = 0 ∧ imageBusy withImage { codeImage with active := false } = false ∧
    (∀ x ∈ lit.prog.ranges, ¬ (x.fn = 0 ∧ x.rsid = 1)) ∧ dkStart (fetched .memoryRead) 9 .memoryRead = true ∧
    slmOf (fetched .memoryRead) 1 < (sqe1 .memoryRead).slba + (sqe1 .memoryRead).nlb ∧ dkStart (fetched .memoryWrite) 9 .memoryWrite = true ∧
    dkStart (fetched .executeProgram) 9 .executeProgram = true ∧ codeImage.active = true ∧ freeThread withImage false = some 0 := by decide +kernel

/-! I/O -/

def resvNs : Ns := { ns1 with regs := [⟨1, 2, 77⟩], resvType := 1, resvHolder := some 9 }
theorem witness_IoCommandsAreRefusedOrForwarded : dkStart (fetched .write) 9 .write = true ∧ heldByTakeover (fetched .write) 1 = false ∧
    nsRefusal (fetchedAs (docket1 .write) Ns.empty) (docket1 .write) = some .invalidNamespaceOrFormat ∧
    nsRefusal (fetched .write) (docket1 .write) = none ∧ forwards (fetched .write) 1 = false ∧ (docket1 .write).remote = none ∧
    hereRefusal (fetchedAs (docket1 .write) { ns1 with nsze := 15 }) (docket1 .write) = some .lbaOutOfRange ∧
    lbasOk { ns1 with nsze := 16 } (sqe1 .write) = true ∧ isWriteLock .write = true ∧
    resvConflict (fetchedAs (docket1 .write) resvNs) resvNs 1 true = true ∧ ns1.resvType = 0 ∧ zonedOnly .zoneReset = true ∧
    mappedOnly .compare = false ∧ (1 : Nat) ∈ ns1.attached ∧ ({ ns1 with ready := false } : Ns).ready = false := by decide +kernel
def slot1 : Slot := { data := List.replicate 4096 0, key := 1, tag := none }
def mappedAt (w : Nat) (e : Docket) : State := { fetchedAs e ns1 with media := { (fetchedAs e ns1).media with
  cur := { (fetchedAs e ns1).media.cur with map := (List.range 8).map (fun i => (2 ^ 48 + 8 + i, w + i)) }
  flash := (List.range 8).map (fun i => (64 + i, some slot1)) } }
def mapped (e : Docket) : State := mappedAt (2 ^ 41 + 64) e
def readDocket : Docket := { docket1 .read with started := true, reads := [0] }
/-- The units at the first page of a block of the landing, and a Read that waits for that page. -/
def atFirst (e : Docket) : State := { mappedAt (2 ^ 41) e with media := { (mappedAt (2 ^ 41) e).media with
  flash := (List.range 8).map (fun i => (i, some slot1)), blocks := [(0, { Block.fresh with pool := 1 })] } }
theorem witness_first_page : pageOf 0 = 0 ∧ addrBlock 0 = 0 := by simp [pageOf, addrBlock]
theorem witness_page_of_a_unit : 0 ∈ (unitSlotList (atFirst readDocket) 1 8).map pageOf :=
  List.mem_map.mpr ⟨0, by decide +kernel, witness_first_page.1⟩
theorem witness_page_read : readDue (atFirst readDocket) 9 [⟨0, some 1, 0⟩] = true ∧ readDue (atFirst readDocket) 9 [⟨0, none, 0⟩] = true ∧
    readDue (atFirst { readDocket with reads := [0, 8] }) 9 [⟨0, some 1, 0⟩] = true := by
  simp only [readDue, List.all_cons, List.all_nil, pageOk, pageRow, witness_first_page.2]; decide +kernel
theorem witness_ReadsAnswerWithTheirUnits : runsHere (mapped (docket1 .read)) 9 = true ∧
    dkStart (mapped (docket1 .read)) 9 .read = true ∧ dkStart (mapped (docket1 .compare)) 9 .compare = true ∧
    (List.replicate 129 ((0 : Nat), (1 : Nat))).length > 128 ∧ dkUsed (atFirst readDocket) 9 = true ∧ readDocket.word = .admitted ∧
    readDocket.reads ≠ [] ∧ [(⟨0, some 1, 0⟩ : PageRead)].map (·.addr) = readDocket.reads ∧
    badUnits (atFirst readDocket) (sqe1 .read) [] = 0 ∧ 
    readDocket.partRead = false ∧ readDocket.failed = [] ∧
    (8 : Nat) ∈ rangeUnits (atFirst readDocket) 1 8 8 := by decide +kernel
def partly : State := mappedAt (2 ^ 41 + 64) (docket1 .write)
  |> fun s => setNs s 1 { ns1 with lbaf := 1 } |> fun s => { s with media := { s.media with cur := { s.media.cur with map := [(2 ^ 48 + 2, 2 ^ 41 + 64)] } } }
  |> fun s => modDk s 9 (fun e => { e with sqe := { e.sqe with nlb := 1, slba := 9 } })
def farReady : State := { fetched .write with pool := { Pool.empty with farStack := [berthAddr true 0] } }
theorem witness_part_of_a_unit : partPages partly (getDk partly 9) ≠ [] := fun h =>
  List.ne_nil_of_mem (List.mem_dedup.mpr (List.mem_map.mpr ⟨64, by decide +kernel, rfl⟩)) h
theorem witness_WritesMoveIntoFarBerths : runsHere (fetched .write) 9 = true ∧ (fetched .write).pair.state = 0 ∧
    tabWf Docket.free (fetched .write).host.dockets = true ∧ (getDk (fetched .write) 9).zoneAt = none ∧ dkStart (fetched .write) 9 .write = true ∧
    (8 * lbaBytes ns1.lbaf = 8 * 4096) ∧ (fetched .write).media.windowHeld = false ∧ writeBerths (fetched .write) + 1 ≤ 65536 ∧
    1 ≤ freeCountOf (fetched .write) true ∧ dkStart (fetched .writeZeroes) 9 .writeZeroes = true ∧ (sqe1 .writeZeroes).flag = true ∧
    (∀ k ∈ cmdUnits (fetched .writeZeroes) (sqe1 .writeZeroes), fullUnit (fetched .writeZeroes) (sqe1 .writeZeroes) k = true) ∧
    (docket1 .write).mirrorOf = none ∧ (docket1 .write).berths = [] ∧ ownAsked (fetched .write) (dkReq (docket1 .write) 9) = 0 ∧ (fetched .write).pool.held = [] ∧
    (fetched .write).media.paced = false ∧ overCapacity (begun (fetched .write) 9) (sqe1 .write) = false ∧
    runsHere partly 9 = true ∧ dkStart partly 9 .write = true ∧ (fetched .write).pool.farStack.head? = none ∧ farReady.pool.farStack.head? = some (berthAddr true 0) ∧
    runsHere farReady 9 = true ∧ dkStart (fetched .writeUncorrectable) 9 .writeUncorrectable = true ∧
    dkStart (fetchedAs (docket1 .zoneAppend) { ns1 with zoned := true }) 9 .zoneAppend = true := by decide +kernel
def inDocket : Docket := { docket1 .write with started := true, dataIn := true, berths := [berthAddr true 0] }
def lapsing : State := { fetchedAs { inDocket with acked := false } ns1 with pair := { Pair.single with awaiting := [(5, 9)] } }
/-- One unit put in the first slot of a data landing block. -/
def oneUnit : Docket := { inDocket with word := .committed, sqe := { inDocket.sqe with nlb := 1 }, data := List.replicate 4096 7 }
def landable : State := { fetchedAs oneUnit ns1 with media := { (fetchedAs oneUnit ns1).media with blocks := [(0, { Block.fresh with pool := 1 })] } }
theorem witness_room_in_a_block : 1 ≤ slcSlots := by
  unfold slcSlots Config.pagesPerBlock Config.slotsPerPage; split <;> omega
theorem witness_places : placesOk landable oneUnit [⟨1, 8, 0, true, false⟩] = true := by
  have n : (placeSlots landable oneUnit ⟨1, 8, 0, true, false⟩).length = 1 := by decide +kernel
  have b : addrBlock 0 = 0 := by simp [addrBlock]
  have l : landOk landable oneUnit [⟨1, 8, 0, true, false⟩] = true := by
    have m : mayLand landable 0 = true := by decide +kernel
    have o : openOn landable 0 + 1 ≤ 2 := by decide +kernel
    have q : (getBlk landable 0).open_ = false := by decide +kernel
    have r : landable.media.dumpShort = [] := by decide +kernel
    simp [landOk, b, m, q, r, n]; exact ⟨by simpa using o, witness_room_in_a_block⟩
  simp only [placesOk, l]
  decide +kernel
theorem witness_WritesCommitAndAreProgrammed : dkUsed (fetchedAs inDocket ns1) 9 = true ∧ commitReady (fetchedAs inDocket ns1) 9 = true ∧
    inDocket.programmed = false ∧ inDocket.mirrorOf = none ∧ commitReady (fetched .write) 9 = false ∧ isWriteKind inDocket.sqe.kind = true ∧
    ({ inDocket with healthy := false } : Docket).healthy = false ∧ (fetchedAs inDocket ns1).media.gdl.contains 3 = false ∧
    lapsing.pair.awaiting = [(5, 9)] ∧ lapsing.pair.takeover = none ∧ dkStart (fetched .flush) 9 .flush = true ∧ attachedTo (fetched .flush) 1 1 = true ∧
    attachedTo (fetchedAs (docket1 .flush) Ns.empty) 1 1 = false ∧ (∀ w ∈ (fetched .flush).host.dockets, flushWaits (docket1 .flush) w.2 = false) ∧
    dkStart (fetched .datasetManagement) 9 .datasetManagement = true ∧ runsHere (fetched .datasetManagement) 9 = true ∧
    writesDegraded (fetched .datasetManagement) 1 = false ∧ rekeying (fetched .flush) 1 = false ∧
    inDocket.sqe.ranges.length ≤ 256 := by decide +kernel
def znDocket (k : IoKind) : Docket := { docket1 k with sqe := { sqe1 k with flag := false, slba := 0 } }
def znNs : Ns := { ns1 with zoned := true, nsze := 4096, ncap := 4096 }
def zoned (k : IoKind) (zs : Nat) : State := { fetchedAs (znDocket k) znNs with media := { (fetchedAs (znDocket k) znNs).media with
  cur := { (fetchedAs (znDocket k) znNs).media.cur with zones := [(2 ^ 24, { Zone.empty with zs := zs, wp := 1 })] } } }
theorem witness_ZonesFollowTheirStates : (getZone (newestMap (zoned .zoneClose 2)) 1 0).zs = 2 ∧ (getZone (newestMap (zoned .zoneClose 4)) 1 0).zs = 4 ∧
    (getZone (newestMap (zoned .zoneReset 0xF)) 1 0).zs = 0xF ∧ (getZone (newestMap (zoned .zoneReset 0xD)) 1 0).zs = 0xD ∧
    (getZone (newestMap (zoned .zoneReset 0xE)) 1 0).zs = 0xE ∧ (getZone (newestMap (zoned .zoneReset 3)) 1 1).zs = 1 ∧
    runsHere (zoned .zoneClose 2) 9 = true ∧ dkStart (zoned .zoneClose 2) 9 .zoneClose = true ∧ (znDocket .zoneClose).sqe.flag = false ∧
    dkStart (zoned .zoneReport 1) 9 .zoneReport = true ∧
    sqeDw (znDocket .zoneReport).sqe 13 = 0 ∧ sqeDw { (znDocket .zoneReport).sqe with dw := [0, 0, 0, 1] } 13 % 256 ≠ 0 := by decide +kernel
def heldResv : Ns := { ns1 with regs := [⟨1, hostKey lit 1, 77⟩], resvType := 2, resvHolder := some (hostKey lit 1) }
def resvState (n : Ns) : State := fetchedAs { docket1 .resvAcquire with sqe := { sqe1 .resvAcquire with dw := [0] } } n
theorem witness_ReservationsGuardTheirNamespace : (registrant (resvState ns1) ns1 1).isSome = false ∧ (registrant (resvState heldResv) heldResv 1).isSome = true ∧
    holdsResv (resvState heldResv) heldResv 1 = true ∧ heldResv.resvType ≠ 0 ∧ holdsResv (resvState resvNs) { resvNs with regs := heldResv.regs } 1 = false ∧
    heldByTakeover (resvState heldResv) 1 = false ∧ nsRefusal (resvState heldResv) (getDk (resvState heldResv) 9) = none ∧
    forwards (resvState heldResv) 1 = false ∧ (getDk (resvState heldResv) 9).sqe.dw ≠ [] ∧
    resvStep (resvState { heldResv with resvType := 0, resvHolder := none }) { heldResv with resvType := 0, resvHolder := none } 1 (.acquire 6) =
      some { heldResv with resvType := 6 } ∧ notice { heldResv with resvType := 0 } heldResv (.acquire 2) = 0 ∧ resvTypeOk (.acquire 6) = true ∧
    isAcquire (.acquire 6) = true ∧ dkStart (resvState heldResv) 9 .resvAcquire = true ∧ resvStep (resvState ns1) ns1 1 (.acquire 1) = none := by decide +kernel

/-! Media -/

def landBlock : Block := { Block.fresh with pool := 1, refresh := 8 }
def relocating : State := { mapped (docket1 .read) with
  host := lit.host
  media := { (mapped (docket1 .read)).media with
    relocs := [(1, { Reloc.empty with kind := 1, step := 1 }), (2, { Reloc.empty with step := 2, jsn := 0 }), (3, { Reloc.empty with step := 2, jsn := 9 })]
    blocks := [(0, landBlock)] } }
theorem witness_RelocationsCopyAndErase : (tabGet Reloc.empty relocating.media.relocs 1).step = 1 ∧ relocPages relocating { Reloc.empty with kind := 1, step := 1 } = [] ∧
    (tabGet Reloc.empty relocating.media.relocs 1).units = [] ∧ (tabGet Reloc.empty relocating.media.relocs 1).kind = 1 ∧ (tabGet Reloc.empty relocating.media.relocs 2).step = 2 ∧
    (tabGet Reloc.empty relocating.media.relocs 2).jsn ≤ relocating.media.appliedJsn ∧ (tabGet Reloc.empty relocating.media.relocs 2).lot = none ∧
    relocating.media.appliedJsn < (tabGet Reloc.empty relocating.media.relocs 3).jsn ∧ tailDone relocating = true ∧ (tabGet Reloc.empty relocating.media.relocs 2).kind ≠ 5 ∧
    relocBlocks relocating { Reloc.empty with step := 2 } = [] ∧ relocating.media.erasing = [] ∧ wordSlots relocating ⟨1, 8⟩ (2 ^ 41 + 64) = [64] ∧
    (tabGet none relocating.media.flash 64).isSome = true := by decide +kernel
/-- A landed unit past MAXAGE, and a lot whose member is due for a refresh. -/
def agedWord : Nat := 2 ^ 41 + 2 ^ 42 + 64
def aged : State := { mappedAt agedWord (docket1 .read) with nowMs := 10 ^ 10 }
def lot3 : Lot := { Lot.free with state := 4, zone := 0xFFFFFFFF, nsid := 1, members := [⟨7, 0, 0⟩] }
def refreshing : State := { lit with media := { lit.media with
  blocks := [(5, landBlock), (7, { Block.fresh with pool := 6, refresh := 5, reads := 10 ^ 9 })]
  cur := { MapSt.empty with lots := [(3, lot3)] } } }
def worn : State := { lit with media := { lit.media with readOnly := true } }
theorem witness_RelocationsStart : mediaOpen aged = true ∧ aged.media.readOnly = false ∧ unitWord aged (newestMap aged) ⟨1, 9⟩ = agedWord + 1 ∧ mMapped (agedWord + 1) = true ∧
    mLanded (agedWord + 1) = true ∧ beingMoved aged ⟨1, 9⟩ = false ∧ landedTime aged (agedWord + 1) + landMaxAge aged * 3600000 < aged.nowMs ∧ aged.media.foldQueue = [] ∧
    lit.nowMs ≤ landedTime lit (agedWord + 1) + landMaxAge lit * 3600000 ∧
    mediaOpen worn = true ∧ worn.media.readOnly = true ∧ mediaOpen refreshing = true ∧ (getBlk refreshing 5).refresh ≠ 0 ∧ (getBlk refreshing 5).pool = 1 ∧
    rankOpen refreshing [0] 5 = true ∧ rankOpen refreshing [0] 8 = false ∧ (getBlk refreshing 7).refresh = 5 ∧ (getBlk refreshing 7).pool ≠ 1 ∧ lotWith (newestMap refreshing) 7 = some 3 ∧
    lotInUse (getLot (newestMap refreshing) 3) = true ∧ isPooled (getLot (newestMap refreshing) 3) = true ∧ refreshing.media.relocs = [] ∧
    (getBlk refreshing 7).pool = 6 ∧ dget refreshing 0x4040 5 ≤ (getBlk refreshing 7).reads ∧ refreshing.media.gcOn = [] := by decide +kernel
def spent : State := { lit with media := { lit.media with blocks := [(7, { Block.fresh with pool := 1 })], erasing := [7], failedCh := [45] } }
def degradedLot : State := { lit with nowMs := 86400001, media := { lit.media with
  degradedAt := [(3, 1)], cur := { MapSt.empty with lots := [(3, { Lot.free with state := 4, members := [⟨0, 0, 2⟩] })] }
  blocks := [(9, Block.fresh)] } }
def twoLost : State := { degradedLot with media := { degradedLot.media with
  cur := { MapSt.empty with lots := [(3, { Lot.free with state := 4, members := [⟨0, 0, 2⟩, ⟨0, 0, 2⟩] })] } } }
def swappable : State := { lit with media := { lit.media with
  blocks := [(5, { Block.fresh with pool := 1 }), (6, { Block.fresh with pool := 1, es := 10 ^ 6 }), (7, Block.fresh)] } }
theorem witness_ErasesAndFailuresRetireBlocks : spent.host.dockets = [] ∧ spent.host.admWait = [] ∧ (getBlk spent 7).pool = 1 ∧ reclaimLot spent 7 = none ∧
    eraseDue spent 7 = true ∧ eraseDue lit 7 = false ∧ retiresNow spent 7 = false ∧
    spent.media.gdl.contains 7 = false ∧ 447 ∉ spent.media.failedCh ∧ 45 ∈ spent.media.failedCh ∧ (getLot (newestMap degradedLot) 3).members[0]? = some ⟨0, 0, 2⟩ ∧
    lotInUse (getLot (newestMap degradedLot) 3) = true ∧ lotMoved degradedLot 3 = false ∧ rankOpen degradedLot [0] 8 = true ∧ spare degradedLot 9 = true ∧
    ((List.range 32).all (fun k => k == 0 || !memberGone degradedLot (getLot (newestMap degradedLot) 3) k) = true) ∧
    ((List.range 32).all (fun k => k == 0 || !memberGone twoLost (getLot (newestMap twoLost) 3) k) = false) ∧ (9 : Nat) / 2 ^ 32 = 0 ∧ degradedLot.media.ready = true ∧
    (getLot degradedLot.media.cur 3).state = 4 ∧ tabGet 0 degradedLot.media.degradedAt 3 + 86400000 ≤ degradedLot.nowMs ∧ 3 ∉ degradedLot.media.degraded24 ∧
    channelBlocks swappable 0 (fun x => x.pool == 1 || x.pool == 6) = [5, 6] ∧ channelBlocks swappable 0 (fun x => x.pool == 0) = [7] ∧ spare swappable 7 = true ∧ rankOpen swappable [0] 9 = true := by decide +kernel

/-! Customs, engines, tally -/

def scanDocket : Docket := { docket1 .customsScan with sqe := { sqe1 .customsScan with dw3 := 1, dw := [0, 0, 7, 0, 0, 0] } }
def scan1 : Scan := { Scan.empty with state := 2, space := 0, nsid := 1, first := 1, count := 2, ringLen := 4096, outSlots := 1 }
def scanning (x : Scan) : State := { fetchedAs scanDocket ns1 with customs := { Customs.empty with scans := [(1, x)], nextScan := 2 } }
theorem witness_ScansRunToTheirEnd : dkStart (scanning scan1) 9 .customsScan = true ∧ (sqe1 .customsScan).dw3 = 0 ∧ scanDocket.sqe.dw3 ≠ 0 ∧
    attachedTo (scanning scan1) 1 1 = true ∧ heldHere (scanning scan1) 1 = true ∧ 0 + (7 + 1) ≤ ns1.nsze ∧ ns1.nsze < 4089 + (7 + 1) ∧ 8 % unitLbas ns1.lbaf = 0 ∧
    ((scanning { scan1 with state := 1 }).customs.scans.find? (fun e => e.2.state == 1)).map Prod.fst = some 1 ∧
    lowestFrom (fun k => !(slotsUsed (scanning { scan1 with state := 1 })).contains k) 16 0 = some 0 ∧ (descCheck [] 4096).isSome = true ∧
    (getScan (scanning scan1) 1).state = 2 ∧ 1 < scan1.count ∧ 1 ∉ scan1.done ∧ ringFull scan1 = false ∧ (scanning scan1).host.activation = none ∧
    locate (scanning scan1) 1 2 = .zeroes false ∧ granulesLeft { scan1 with done := [1, 0] } = [] ∧ scan1.open_ = [] ∧ scan1.closed = [] ∧ granulesLeft scan1 ≠ [] ∧
    rekeying (scanning scan1) 1 = false ∧ rekeying (fetchedAs scanDocket { ns1 with rekeyAt := 5 }) 1 = true ∧ restOf scan1 0 = none ∧ pagesCome (scanning scan1) scan1 0 [] = true ∧
    pagesCome (scanning scan1) scan1 0 [⟨0, some 1, 0⟩] = false ∧ (getScan (scanning { scan1 with state := 1 }) 1).state ≠ 2 := by decide +kernel
def lockRec (e flags : Nat) : List Byte := [BitVec.ofNat 8 e, BitVec.ofNat 8 flags] ++ List.replicate 14 0
def berthOf5 : Pool := { Pool.empty with berths := [(berthAddr true 0, ⟨true, threadTag 5, [], none⟩)] }
def engined (h : Nat) : State := { ran with pool := berthOf5, eng := { Engines.empty with comp := [(3, { Engine.free with holder := h })], cip := [(3, { Engine.free with holder := h })] } }
def cjRec : List Byte := leBytes 8 (berthAddr true 0) ++ leBytes 8 (berthAddr true 0 + 1024) ++ leBytes 4 16 ++ leBytes 4 64 ++ [0, 12, 0, 3] ++ List.replicate 52 0
def queued : State := { ran with pool := berthOf5, eng := { Engines.empty with comp := [(3, { Engine.free with holder := threadTag 5, jobs := [⟨5, cjRec⟩] })], cip := [(3, { Engine.free with holder := threadTag 5, jobs := [⟨5, List.replicate 64 0xFF⟩] })] } }
theorem witness_EngineLocksAndJobs : lockRecOk (lockRec 3 0) false = true ∧ mayLock (engined 0) false 3 5 = true ∧ (getEng (engined 0) false 3).holder = 0 ∧
    (getEng (engined (threadTag 5)) true 3).holder = threadTag 5 ∧ bitOf (recNat (lockRec 3 1) 1 1) 0 = true ∧ lockRecOk (lockRec 3 1) false = true ∧
    lockRecOk (lockRec 32 0) false = false ∧ lockRecOk (lockRec 0xFF 0) false = true ∧ lockRecOk (lockRec 3 0) true = true ∧ lockRecOk (lockRec 0xFF 0) true = false ∧
    (getThr (engined 0) 5).state ≠ 0 ∧ (getThr (engined 0) 5).state ≠ 5 ∧ domainOn (engined 0) 1 = true ∧ recNat (lockRec 3 0) 8 8 % 8 = 0 ∧
    recNat (lockRec 3 0) 8 8 + 8 ≤ (getThr (engined 0) 5).winSize * 4096 ∧ cjInvalid (engined 0) 5 [] = true ∧ ciInvalid (engined 0) 5 (List.replicate 64 0xFF) = true ∧
    cjInvalid (engined 0) 5 cjRec = false ∧ (getEng (engined 0) false (cjEngine cjRec)).holder ≠ threadTag 5 ∧ recNat cjRec 32 8 = 0 ∧
    (getEng queued false 3).jobs = [⟨5, cjRec⟩] ∧ (getEng queued false 3).unlocks = [] ∧ (getEng queued true 3).jobs = [⟨5, List.replicate 64 0xFF⟩] ∧ cjInvalid queued 5 cjRec = false ∧ ciInvalid queued 5 (List.replicate 64 0xFF) = true ∧ ciInvalid queued 5 [] = false ∧
    freeEngine (engined 0) false = some 0 := by decide +kernel
theorem witness_ContainersAndCiphersRoundTrip : [(1 : Byte)] ≠ [] ∧ [(1 : Byte)].length ≤ 2 ^ 12 ∧ (List.replicate 16 (0 : Byte)).length = 16 ∧
    (List.replicate 12 (0 : Byte)).length = 12 := by decide
theorem witness_BlocksArePackedOnlyWhenSmaller : (List.replicate 64 (0 : Byte)).length ≤ 2 ^ 20 ∧ 16 + (lz4Encode (List.replicate 64 0)).length < 64 ∧
    ¬ 16 + (lz4Encode [1, 2, 3]).length < 3 ∧ cjOp cjRec = 0 := by decide +kernel
def loadRec (kind index : Nat) : List Byte := leBytes 8 0 ++ leBytes 4 index ++ [BitVec.ofNat 8 kind] ++ List.replicate 200 0
def tallied : State := { engined 0 with dict := [(0x6000 * 256 + 0x0D, 4)], hm := { Harbour.empty with threads := [(5, ranThread)] } }
def searchRec : List Byte := List.replicate 10 0 ++ leBytes 2 4 ++ List.replicate 190 0
theorem witness_TallyEntriesMatchByCareAndValue : ldKind (loadRec 0 511) = 0 ∧ 0 < rowsPer (bankWidth tallied 0) ∧ (getRow tallied 511).valid = false := by decide +kernel
theorem witness_TallyLoadsAndSearches : (getThr tallied 5).state ≠ 0 ∧ bankOk tallied 0 0 = true ∧ bankOk tallied 0 4 = false ∧ bankOk tallied 0 3 = true ∧
    ldKind (loadRec 2 0) = 2 ∧ searchCode tallied 0 0 4 true = 0 ∧ searchCode tallied 0 0 5 true = 1 ∧ searchCode tallied 0 0 0 true = 2 := by decide +kernel
def miState : State := { tallied with tally := { Tally.empty with miUp := true, waiting := [⟨4095, 5, none, [], 64⟩] } }
def searchDocket : Docket := { docket1 .tallySearch with sqe := { sqe1 .tallySearch with dw := [0, 0, 0, 0, 256, 0] } }
theorem witness_TallyHostCommandsAndCascade : dkStart (fetched .tallyLoad) 9 .tallyLoad = true ∧ dkStart (fetched .tallySearch) 9 .tallySearch = true ∧
    miState.tally.miUp = true ∧ domainOn miState 1 = true ∧ frameOk [1] = false ∧ frameOk (cascadeFrame [3 + 4095 * 2 ^ 36, 64]) = true ∧
    (cascadeFrame [3 + 4095 * 2 ^ 36, 64]).length = 3 ∧ miState.tally.waiting.find? (fun c => c.tag == 4095) = some ⟨4095, 5, none, [], 64⟩ ∧
    bankWidth miState 0 < 3 ∧ searchCode miState 0 0 4 true = 0 ∧ 2 ^ 160 - 1 < 2 ^ keyBits (bankWidth miState 0) ∧
    bitsOf (ioDw searchDocket 2) 16 31 = 0 ∧ ioDw searchDocket 4 < 2 ^ 19 ∧ 1 ≤ tsN searchDocket ∧ tsN searchDocket ≤ 256 ∧ searchDocket.berths = [] ∧
    ownAsked (fetchedAs searchDocket ns1) (dkReq searchDocket 9) = 0 := by decide +kernel

/-! Pair, management, power, service -/

def upLink : SubLink := { SubLink.down with up := true, held := [⟨1, 1, true, true, [1]⟩], msgs := [⟨1, hdr0, []⟩] }
def paired (st : Nat) : State := { lit with
  dict := [(0x7010 * 256 + 7, 0)]
  pair := { Pair.single with state := st, sub0 := upLink, sub1 := upLink, aliveIn := true, awaiting := [(9, 4)], states := [(9, .none)], fwd := [(9, 4)], aborts := [(9, some adm0)], copies := [(9, ⟨1, 0⟩)] } }
def partner1 : PartnerInfo := ⟨true, true, none, 0, 0, 0, 0, [], true, []⟩
def alone : State := { paired 2 with
  dict := [(0x8000 * 256 + 2, 1)]
  pair := { (paired 2).pair with aliveIn := false, awaiting := [], stale := [1] } }
def mirroredNss : State := { paired 1 with media := { lit.media with cur := { MapSt.empty with nss := [(1, { ns1 with mirror := true })] } } }
def fencing : State := { alone with
  dict := [(0x8000 * 256 + 2, 2)]
  pair := { alone.pair with taking := some ⟨true, 99995, 0, 0⟩ } }
theorem witness_PairControlOperations : adminOpen lit 0 = true ∧ lit.pair.state = 0 ∧ (paired 1).pair.state = 1 ∧ partner1.single = true ∧
    linkUp lit = false ∧ formRefusal lit partner1 = some 2 ∧ linkUp (paired 0) = true ∧ (paired 0).pair.aliveIn = true ∧ partner1.accept = true ∧
    (paired 0).eng.moduleKey = none ∧ nsids (paired 1) = [] ∧ (paired 1).pair.fenceOut = false ∧ (paired 2).pair.state = 2 ∧ (paired 2).pair.taking = none ∧
    (paired 2).pair.split = false ∧ (paired 2).pair.stale = [] ∧
    (alone.pair.state = 2 ∧ alone.pair.aliveIn = false ∧ alone.pair.awaiting = [] ∧ pairRole alone = 1 ∧ alone.pair.stale ≠ []) ∧ nsids mirroredNss ≠ [] ∧ (getNs mirroredNss 1).mirror = true ∧
    (fencing.pair.taking ≠ none ∧ fencing.pair.fenceOut = false ∧ (5 : W32) ≠ 0) := by decide +kernel
def flit1 : HFlit := ⟨1, 1, true, false, [1, 2, 3]⟩
theorem witness_FlitsAreSequencedAndResent : subUp (paired 1) 1 = true ∧ flitFormed [] = false ∧ (2 : Nat) ^ 32 - 1 < 2 ^ 32 ∧
    (∀ x ∈ (getSub (paired 1) 1).held, x.fseq ≠ 0) ∧ flit1.payload ≠ [] ∧ flit1.payload.length ≤ 240 ∧ flit1.eom = false ∧
    flit1.fseq = ((getSub (paired 1) 1).recvSeq + 1) % 2 ^ 32 ∧ (getSub (paired 1) 1).held ≠ [] ∧ (getSub (paired 1) 0).up = true ∧
    bodyOk ⟨8, 1, 0, 0, 0⟩ (List.replicate 8 0) 8 5 8 = true ∧ fresh (paired 1) hdr0 = true ∧ canTrain lit 0 = true ∧ linkUp lit = false ∧ linkUp (paired 1) = true := by decide +kernel
def mirrored : State := { paired 1 with media := { lit.media with cur := { MapSt.empty with nss := [(1, { ns1 with mirror := true })] } } }
theorem witness_PartnerMessagesAreHandled : subUp mirrored 0 = true ∧ hdr0.len = 0 ∧ fresh mirrored hdr0 = true ∧ stateFormed ⟨8, 1, 1, 6, 0⟩ (List.replicate 8 0) = true ∧
    stateFormed ⟨0, 1, 1, 9, 0⟩ [] = false ∧ mwriteFormed mirrored hdr0 [] = false ∧ mwriteFormed mirrored ⟨32, 1, 1, 7, 8⟩ (8 :: List.replicate 31 0) = true ∧
    canAdmit mirrored 9 (sqe1 .write) = true ∧ (getNs mirrored 1).mirror = true ∧ mirrored.pair.awaiting.find? (fun x => x.1 == 9) = some (9, 4) ∧
    bodyOk ⟨16, 1, 0, 0, 0⟩ (List.replicate 16 0) (16 + 32 * 0) 8 16 = true ∧ mirrored.pair.state ≠ 0 ∧ (getNs mirrored 1).live = true ∧
    mirrored.pair.states.find? (fun x => x.1 == 9) = some (9, .none) ∧ mirrored.pair.fwd.find? (fun x => x.1 == 9) = some (9, 4) ∧
    mirrored.pair.aborts.find? (fun x => x.1 == 9) = some (9, some adm0) ∧ mirrored.pair.copies.find? (fun x => x.1 == 9) = some (9, ⟨1, 0⟩) ∧
    rscopyFormed mirrored ⟨4096, 1, 1, 0, 0⟩ (List.replicate 4096 0) = true ∧ 0 + 1 = unitLbas (getNs mirrored 1).lbaf := by decide +kernel
theorem witness_PartnerMessagesAreHandled_answers : takeFirst (fun x => x.1 == 9) mirrored.pair.aborts = some ((9, some adm0), []) ∧ takeFirst (fun x => x.1 == 8) [((8 : Nat), (none : Option Adm))] = some ((8, none), []) ∧
    mirrored.media.peerLog.length ≤ peerRecs ∧ (fetchedAs { docket1 .write with remote := some 9 } ns1).host.dockets.find? (fun e => e.2.remote == some 9) = some (9, { docket1 .write with remote := some 9 }) ∧
    ([(9, some Status.abortRequested)] : List (Nat × Option Status)).find? (fun c => c.1 == 9) = some (9, some .abortRequested) := by decide +kernel
def losing (st : Nat) : State := { lit with dict := [(0x8000 * 256 + 4, 0)], pair := { Pair.single with state := st, aliveIn := true } }
def fenceSoon : State := { losing 2 with dict := [(0x8000 * 256 + 5, 2)] }
def starting : State := { lit with power := { lit.power with bootWait := 3 } }
theorem witness_RejoinAliveAndFence : subUp (paired 2) 0 = true ∧ helloFormed ⟨64, 1, 0, 0, 0⟩ (List.replicate 64 0) = true ∧ fresh (paired 2) ⟨64, 1, 0, 0, 0⟩ = true ∧
    (losing 1).pair.aliveIn = true ∧ (losing 1).pair.aliveFault = false ∧ linkUp (losing 1) = false ∧ (losing 1).power.bootWait ≠ 3 ∧ dget (losing 1) 0x8000 4 ≠ 1 ∧
    lit.pair.aliveIn = false ∧ lit.pair.aliveFault = false ∧ (losing 2).pair.state = 2 ∧ (losing 2).pair.fenceOut = false ∧ (losing 2).power.bootWait = 0 ∧
    recNat (List.replicate 64 0) 41 1 ≠ 4 ∧ recNat (padTo 64 (List.replicate 41 0 ++ [4])) 41 1 = 4 ∧ recNat (padTo 64 (List.replicate 36 0 ++ [5])) 36 4 = 5 ∧
    pairEpoch (paired 2) = 0 ∧ (paired 4).pair.state = 4 ∧ (paired 4).pair.copying = [] ∧ fencing.pair.taking = some ⟨true, 99995, 0, 0⟩ ∧ 99995 + 5 ≤ fencing.nowMs ∧
    pairRole fencing = 2 ∧ fencing.pair.awaiting = [] ∧ (99996 : Nat) + 5 > fencing.nowMs ∧ dget fenceSoon 0x8000 5 ≠ 0 ∧ fenceSoon.pair.aliveIn = true ∧ pairRole fenceSoon = 0 ∧
    max fenceSoon.pair.lastChange fenceSoon.pair.aliveAt + dget fenceSoon 0x8000 5 ≤ fenceSoon.nowMs ∧
    (fenceSoon.nowMs < max 99999 fenceSoon.pair.aliveAt + dget fenceSoon 0x8000 5) ∧ starting.power.bootWait = 3 ∧ linkUp starting = false ∧ starting.pair.aliveIn = false ∧
    starting.pair.lastChange + 10000 ≤ starting.nowMs ∧ dget starting 0x8000 9 ≠ 3 := by decide +kernel
def wornLines : State := { lit with logbook := { Logbook.fresh with wear := [(122050, 199998976)] } }
theorem witness_DictionaryEntriesTakeWhatIsWritten : pathUp lit .tunnel = true ∧ writeAbort lit .tunnel 0x2300 1 (leBytes 2 400) = none ∧
    wornEntry lit 0x2300 1 400 true = none ∧ (writeAbort lit .tunnel 0x2300 1 []).isSome = true ∧ leaseKind 5 = some 2 ∧
    dget lit 0x63FF 2 ≤ 256 ∧ writeAbort lit .tunnel 0x63FF 5 (leBytes 4 65536) = none ∧ leaseWorn lit 1023 2 (leaseWith lit 1023 5 65536) = none ∧
    lit.pair.state ≠ 1 ∧ 200000000 - 1024 ≤ tabGet 0 wornLines.logbook.wear 122050 ∧ 0 < wornLines.logbook.spares := by decide +kernel
def synTo (dest : List Byte) (svc : Byte) : Frame := ⟨dest ++ List.replicate 6 0 ++ [0x88, 0xB5, 1, svc] ++ List.replicate 44 0⟩
def readFrame : Frame := synTo (macOf lit 0) 1
def nodeFrame : Frame := synTo broadcast 0x12
theorem witness_frame_to_a_port : fDest readFrame = macOf lit 0 ∧ frameHere lit 0 readFrame = true := by
  have d : fDest readFrame = macOf lit 0 := by simp [fDest, readFrame, synTo, macOf, bigEnd, leBytes]
  have e : (readFrame.bytes.drop 12).take 2 = [0x88, 0xB5] := by simp [readFrame, synTo, macOf, bigEnd, leBytes]
  simp [frameHere, d, e]
theorem witness_frame_to_all : frameHere lit 0 nodeFrame = true := by
  have d : fDest nodeFrame = broadcast := by decide +kernel
  have e : (nodeFrame.bytes.drop 12).take 2 = [0x88, 0xB5] := by decide +kernel
  simp [frameHere, d, e]
theorem witness_CarriersAndEndpointsAnswer : adminOpen lit 0 = true ∧ tClean 0x00012300 4096 = true ∧ tService 0x00012300 = 0 ∧ tClean 0 0 = false ∧
    pathUp lit (.mi 1) = true ∧ pathUp lit (.synmon 0) = portEnabled lit 0 ∧ (getFn lit 1).present = true ∧ (getFn lit 9).present = false ∧
    1 < lit.mgmt.mctpMtu.length ∧ 1 < lit.mgmt.mctpEid.length ∧ noAddress lit 1 = true ∧ lit.power.synmon = true ∧
    frameBad readFrame = false ∧ fService readFrame = 1 ∧ fLen readFrame = 0 ∧ fField readFrame 2 1 = 0 ∧ bitOf (fField readFrame 3 1) 0 = false ∧ frameHere lit 0 ⟨[]⟩ = false ∧
    frameBad nodeFrame = false ∧ fService nodeFrame = 0x12 ∧ fDest nodeFrame = broadcast ∧ fField nodeFrame 2 1 = 0 ∧ bitOf (fField nodeFrame 3 1) 0 = false ∧
    dget lit 0x1100 2 ≠ 0 ∧ lit.mgmt.hbLast + dget lit 0x1100 2 ≤ lit.nowMs ∧ 4 ≤ lit.power.bootStep := by decide +kernel
def offModule : State := { State.reset with power := { Power.reset with on := [] } }
def heldModule : State := { lit with power := { lit.power with modRst := true, bootWait := 4 } }
def watched : State := { lit with power := { lit.power with wdtAt := some 0 } }
def bootWaiting (k : Nat) : State := { State.reset with power := { Power.reset with bootWait := k } }
theorem witness_BootAndResets : offModule.power.on = [] ∧ offModule.power.dumping = false ∧ offModule.power.refclk = true ∧ offModule.power.modRst = false ∧
    (5 : Nat) ∉ offModule.logbook.failed ∧ lit.power.on ≠ [] ∧ heldInReset lit = false ∧ heldModule.power.modRst = true ∧ heldModule.power.bootWait = 4 ∧
    watchdogOver watched = true ∧ watchdogOver lit = false ∧ lit.power.portRef[3]? = some true ∧ watched.power.wdtAt ≠ none ∧ watched.power.modRst = false ∧ watched.power.fenceIn = false ∧ watched.power.refclk = true ∧
    (bootWaiting 1).power.bootWait = 1 ∧ (bootWaiting 5).power.refclk = true ∧ (bootWaiting 5).power.bootStep ≠ 3 ∧ heldModule.power.fenceIn = false ∧ 5 ∉ offModule.logbook.failed := by decide +kernel
def dumpingNow (i : Bool) : State := { lit with power := { lit.power with dumping := true, inputOn := i, thermal := i } }
theorem witness_PowerLossDumpsAndStops : lit.power.on ≠ [] ∧ lit.power.dumping = false ∧ lit.power.inputOn = true ∧ lit.power.measuring = none ∧
    5 ≤ lit.power.bootStep ∧ State.reset.power.bootStep < 5 ∧ dieSensor 0x15 = true ∧ dieSensor 0x16 = false ∧ (1150 : Int) ≤ 1150 ∧ domainOn lit 19 = true ∧
    domainOn lit 17 = true ∧ bitOf lit.power.nextCause 1 = false ∧ dieSensor 0x15 = true ∧ domainOn lit 0 = true ∧ (dumpingNow false).power.dumping = true ∧
    (dumpingNow false).power.inputOn = false ∧ (dumpingNow true).power.inputOn = true ∧ (dumpingNow true).power.thermal = true ∧ heldInReset lit = false := by decide +kernel
def measuring : State := { lit with power := { lit.power with measuring := some 10 } }
def piloted : State := { lit with power := { lit.power with pilots := [(21, { Pilot.empty with run := true })] } }
theorem witness_HoldupTemperatureAndPilotLoops : lit.power.measuring = none ∧ lit.host.psWait = none ∧ holdupDue lit = true ∧
    holdupDue { lit with power := { lit.power with measuredAt := some 99999 } } = false ∧ measuring.power.measuring = some 10 ∧
    (tabGet Pilot.empty piloted.power.pilots 21).run = true := by decide +kernel
def idleCluster : State := { lit with power := { lit.power with limiting := true, limitN := 500, on := [0, 1, 2, 18, 19], pilots := [(4, { Pilot.empty with run := true }), (13, { Pilot.empty with run := true })] } }
def busyCluster : State := { lit with hm := { lit.hm with idleAt := [(7, 100000)] } }
def wanting : State := { idleCluster with
  power := { idleCluster.power with pilots := [(8, { Pilot.empty with run := true })] }
  hm := { Harbour.empty with threads := [(5, { ranThread with state := 2, cmask := 8 })], ready := [⟨5, clusterPlace 3⟩] } }
theorem witness_DomainsSwitchAndTheGovernorActs : clusterCanStop lit 7 = true ∧ clusterCanStop idleCluster 7 = false ∧ clusterOn idleCluster 3 = false ∧
    domainOn lit 2 = true ∧ allocCount lit false = 0 ∧ lit.pool.nearWait = [] ∧ quayOn lit 6 = true ∧ quayBusy lit 6 = false ∧ quayOn idleCluster 0 = false ∧
    quayForbidden { lit with host := { lit.host with psWait := some ⟨adm0, 4, 0, false⟩ } } 6 = true ∧ (tabGet Pilot.empty idleCluster.power.pilots 13).run = true ∧
    clusterForbidden { lit with dict := [(0x2300 * 256 + 4, 0x7F)] } 7 = true ∧ clusterForbidden lit 7 = false ∧ clusterIdleFor lit 7 (dget lit 0x2300 5) = true ∧
    clusterIdleFor busyCluster 7 (dget busyCluster 0x2300 5) = false ∧ windowsOnCluster lit 7 = [] ∧ clusterAllowed wanting 3 = true ∧ clustersOn wanting < clusterLimit (targetPs wanting) ∧
    clusterWanted wanting 3 = true ∧ clusterOn wanting 3 = false ∧ quayForbidden idleCluster 0 = false ∧ quayForbidden lit 6 = false ∧ idleCluster.power.quayPaused = false ∧
    idleCluster.power.limiting = true ∧ 500 ≤ idleCluster.power.limitN ∧ (∀ k, k < 8 → clusterCanStop idleCluster k = false) := by decide +kernel
def tested2 : State := { lit with service := { Service.reset with stCode := 2, bist := [7] }, media := { lit.media with blocks := [(5, { Block.fresh with pool := 1 })] } }
theorem witness_DredgeTasksDoTheirWork : bistReady tested2 6 = true ∧ bistReady lit 6 = false ∧ tested2.service.bist.contains 7 = true ∧ testing tested2 = true ∧
    marchNext tested2 true = some 0 ∧ domainOn tested2 2 = true ∧ mediaOpen tested2 = true ∧ (getBlk tested2 5).pool ≠ 0 ∧ (getBlk tested2 5).pool ≠ 7 ∧ (getBlk tested2 5).pool ≤ 6 ∧ rankOpen tested2 [0] 10 = true ∧ tested2.service.saneAt + 1000 ≤ tested2.nowMs ∧ 3 ≤ lit.power.bootStep ∧
   
    (tabGet Pilot.empty piloted.power.pilots 21).run = true := by decide +kernel
theorem witness_IdleStepsAndReset : State.reset.pending = [] := by decide
theorem witness_StepsKeepTheInvariant : lit.inv = true ∧ (match step lit with | .next t => t.inv | _ => false) = true := by decide +kernel

/-! ### Values the spec works out -/

/-- The example after R227: the frame of a CALL. -/
theorem test_call_frame_size : frameSize 0x8003 0x05 = 704 ∧ 3 + ceilDiv (frameSize 0x8003 0x05) 128 = 9 := by decide +kernel
/-- The example after R117: segments of a namespace of 40 TiB at LBAF 0 and of 80 TiB at LBAF 1. -/
theorem test_segments : nsSegments { Ns.empty with nsze := 40 * 2 ^ 28, lbaf := 0 } = 2621440 ∧
    nsSegments { Ns.empty with nsze := 80 * 2 ^ 28, lbaf := 1 } = 1310720 ∧
    nsSegments { Ns.empty with nsze := 5 * 2 ^ 28, lbaf := 0 } = 327680 := by decide +kernel
/-- The examples after R167 and R169: owner tags of customs units 3 and 17, a far berth's address. -/
theorem test_berth_names : tagOf ⟨4, 3, 0⟩ = 0x00500023 ∧ tagOf ⟨2, 1, 0⟩ = 0x00500011 ∧ berthAddr true 207383 = 0x00132A170000 := by decide +kernel
/-- The example after R402: one evaluation of a rail loop. -/
def railDict : Tab Nat := [(0x2102 * 256 + 0x20, 0xD56FC5048), (0x2102 * 256 + 0x21, 0xDAB2A3055), (0x2102 * 256 + 0x22, 0),
  (0x2102 * 256 + 0x23, 0), (0x2102 * 256 + 0x24, 0x1E40000000), (0x2102 * 256 + 0x25, 0), (0x2102 * 256 + 0x26, 0)]
theorem test_control_law : controlAcc { State.reset with dict := railDict } 2 0 { Pilot.empty with e1 := 10, y1 := 18000 * 65536 } 12 = 1180048333 := by decide +kernel
/-- The example after R360: the result words of a search that finds 16,900 and 17,500 here and 17,000 on the partner. -/
theorem test_tally_result : mergeWords (searchWord [16900, 17500] false) (searchWord [17000] false) = 16 + 32 + 3 * 256 + 16900 * 2 ^ 32 ∧
    mergeWords (searchWord [] false) (searchWord [17000] false) = 16 + 256 + 148072 * 2 ^ 32 := by decide +kernel
/-- The example after R303: a filter descriptor, a record that matches and what it puts out. -/
def zerosTo (n : Nat) (l : List Byte) : List Byte := padTo n l
def orderDesc : List Byte :=
  let a := zerosTo 32 ([0x43, 0x55, 0x53, 0x54, 1, 0, 0, 5, 0x40, 0, 4, 2, 2, 0] : List Byte)
  let b := zerosTo 96 (a ++ [0, 0, 8, 0, 0x0C, 0, 4, 0, 0x10, 0, 8, 2, 0x18, 0, 1, 0, 0x1C, 0, 4, 1])
  let c := zerosTo 160 (b ++ leBytes 4 0x1021 ++ leBytes 4 0x203 ++ leBytes 4 0x312 ++ leBytes 4 0x20434)
  let d := zerosTo 416 (c ++ leBytes 16 19000 ++ leBytes 16 19364 ++ leBytes 16 2 ++ leBytes 16 100000 ++ [0x4E, 0x4F])
  let e := zerosTo 480 (d ++ leBytes 4 0x40003 ++ leBytes 4 8)
  zerosTo 512 (zerosTo 496 (e ++ [0, 2]) ++ leBytes 4 0x802 ++ leBytes 4 0x111)
def orderRec (date : Nat) (region : List Byte) : List Byte :=
  zerosTo 64 (leBytes 8 42 ++ leBytes 4 0 ++ leBytes 4 date ++ leBytes 8 250000 ++ [2, 0, 0, 0] ++ region)
theorem test_filter : recMatches orderDesc (orderRec 19100 [0x44, 0x45]) = true ∧ recMatches orderDesc (orderRec 19365 [0x44, 0x45]) = false ∧
    recMatches orderDesc (orderRec 1 [0x4E, 0x4F]) = true ∧ cntAdd orderDesc (orderRec 19100 [0x44, 0x45]) 0 = 250000 ∧
    cntAdd orderDesc (orderRec 19100 [0x44, 0x45]) 1 = 0 := by decide +kernel
theorem test_filter_output : (outRecord orderDesc (orderRec 19100 [0x44, 0x45]) 0 0).take 4 = [28, 0, 3, 0] ∧
    (outRecord orderDesc (orderRec 19100 [0x44, 0x45]) 0 0).length = 28 := by decide +kernel
/-- The example after R442: CAP_W is 312 W where the calibration section failed. -/
theorem test_cap_failed : dictRead { lit with power := { lit.power with calFailed := true } } 0x2000 3 none = .ok [0x38, 0x01] := by decide +kernel
/-- The example after R454: a Settings commit writes the entry's line and the check line of the section. -/
theorem test_commit_wear : (commitAt lit 1 100).logbook.wear = [(100, 1), (checkLine 1, 1)] := by decide +kernel
/-- The example after R183: thread A takes 3 tokens of 4 and B, short by one, waits on. -/
def twoWait : State := { lit with hm := { Harbour.empty with
  threads := [(5, { ranThread with state := 1, reqs := [⟨0x300, 3⟩] }), (6, { ranThread with state := 1, reqs := [⟨0x300, 2⟩, ⟨0x301, 1⟩] })]
  waits := [5, 6], chans := [(chanKey 0 0x300, ⟨2, false⟩)] } }
theorem test_tokens_in_order : (match exec (.tokenPost ⟨20, 0⟩ 0 0x300 2 false) twoWait with
    | .next t => (t.hm.waits, (getChan t (chanKey 0 0x300)).count) | _ => ([], 0)) = ([6], 1) := by decide +kernel
/-- The example after R169, steps 1 to 3: a customs unit shares its berth to two threads and is no longer its owner. -/
def far1 : Nat := 0x00132A170000
def unitBerth : State := { lit with
  hm := { Harbour.empty with threads := [(0x1234, ranThread), (0x4321, ranThread)] }
  pool := { Pool.empty with berths := [(far1, ⟨true, 0x00500011, [], none⟩)] } }
def shareReq : BerthReq := ⟨BitVec.ofNat 64 (2 + 64 + far1 * 65536), 0, 0, BitVec.ofNat 64 (0x00101234 + 0x00104321 * 2 ^ 32), 0⟩
theorem test_share : (match exec (.share ⟨2, 1, 0⟩ shareReq) unitBerth with
    | .next t => (getBerth t far1, berthCheck t 2 0x00500011 (berthReq 1 far1), berthCheck t 12 0x00104321 (berthReq 1 far1)) | _ => (Berth.free, 0, 0)) =
    (⟨true, 0x00104321, [0x00101234], none⟩, 5, 6) := by decide +kernel
/-- R242: a division by zero does not fault; Table 8.2: an addition wraps. -/
def regCore (a b : W64) : Core := { runCore with bank0 := { Bank.empty with x := [(1, a), (2, b)] } }
theorem test_div_by_zero : (match exec (.div q0 ⟨3, 1, 0, 0⟩) (ranWith (regCore 7 0) 0) with
    | .next t => ((getCore t 0).pend, (getCore t 0).cyc) | _ => ([], 0)) = ([⟨30, .x 3 (-1)⟩], 11) := by decide +kernel
theorem test_add_wraps : (match exec (.add q0 ⟨3, 1, 2, 0⟩) (ranWith (regCore (-1) 2) 0) with
    | .next t => rdX t 0 3 | _ => 0) = 1 := by decide +kernel
theorem test_store_bytes : (match exec (.stw q0 ⟨0, 1, 2, 0, 0⟩) (ranWith (regCore 0x1122334455667788 64) 0) with
    | .next t => (getCore t 0).pend | _ => []) = [⟨12, .mem 64 [0x88, 0x77, 0x66, 0x55]⟩] := by decide +kernel
/-- R41: a submission queue of one entry is refused, one of two is created. -/
theorem test_create_queue : (match exec (.createIoSubmissionQueue adm0 2 2 1 true) lit, exec (.createIoSubmissionQueue adm0 2 1 1 true) lit with
    | .next t, .next u => ((getSq t 0 2).live, (getSq u 0 2).live) | _, _ => (false, true)) = (true, false) := by decide +kernel
/-- R420: a reset contact stops a module in service. -/
theorem test_mod_rst : (match exec .modRstNAssert lit with
    | .next t => (t.power.on, t.power.bootStep, t.power.nextCause) | _ => ([], 0, 0)) = ([0], 1, 2) := by decide +kernel
/-- R373: ALIVE_IN falling with the link down takes a module out of In step. -/
theorem test_alive_low : (match exec .aliveInLow (losing 1) with | .next t => t.pair.state | _ => 0) = 2 := by decide +kernel
/-- R306: 64 equal bytes are stored packed, three different ones raw. -/
theorem test_container : (container 12 (List.replicate 64 7)).2 = false ∧ (container 12 [1, 2, 3]).2 = true ∧
    (container 12 [1, 2, 3]).1.length = 19 := by decide +kernel
/-- The check value of CRC-32C (Castagnoli), which R449 and R228 name. -/
theorem test_crc32c : crc32c [0x31, 0x32, 0x33, 0x34, 0x35, 0x36, 0x37, 0x38, 0x39] = 0xE3069283 := by decide +kernel
/-- R193: a tenant's lease falls from two cores to one; the core granted last is taken back at once. -/
def twoCores : State := dset (dset { lit with hm := { lit.hm with leases := [(0, { CoreLease.free with space := some 5, seq := 3 }), (1, { CoreLease.free with space := some 5, seq := 1 })] } } 0x6005 2 1) 0x6005 3 0xFF
theorem test_lease_reduction_takes_newest_core : coresOf (takeBack twoCores 5) 5 = [1] ∧ isHeld twoCores 5 = true ∧
    isHeld (takeBack twoCores 5) 5 = false := by decide +kernel
/-- A running module may meet the fence contact while its failed power-up still waits for MOD_RST_N (R393, R425). -/
theorem witness_fence_while_rails_failed :
    let s : State := { lit with power := { lit.power with bootWait := 6 } }
    s.power.dumping = false ∧ s.power.on ≠ [] ∧ heldInReset s = false ∧ s.power.fenceIn = false ∧ s.power.bootWait = 6 := by decide +kernel
end Sys2Proof.Tests
end

section
/-!
SUPPORT. How an I/O command meets the checks that come before it runs (R37, R84, R377, Table 2.13).
-/
namespace Sys2Proof.Machine

/-! ### The rows of I/O commands -/

theorem exec_write (d : Nat) (b : List Byte) (s : State) : exec (.write d b) s = execWrite d b s := rfl
theorem exec_compare (d : Nat) (b : List Byte) (s : State) : exec (.compare d b) s = execCompare d b s := rfl
theorem exec_zoneAppend (d : Nat) (b : List Byte) (s : State) : exec (.zoneAppend d b) s = execZoneAppend d b s := rfl
theorem exec_read (d : Nat) (s : State) : exec (.read d) s = execRead d s := rfl
theorem exec_verify (d : Nat) (s : State) : exec (.verify d) s = execVerify d s := rfl
theorem exec_writeZeroes (d : Nat) (s : State) : exec (.writeZeroes d) s = execWriteZeroes d s := rfl
theorem exec_writeUncorrectable (d : Nat) (s : State) :
    exec (.writeUncorrectable d) s = execWriteUncorrectable d s := rfl
theorem exec_datasetManagement (d : Nat) (s : State) :
    exec (.datasetManagement d) s = execDatasetManagement d s := rfl
theorem exec_copy (d : Nat) (s : State) : exec (.copy d) s = execCopy d s := rfl
theorem exec_zoneReset (d : Nat) (s : State) : exec (.zoneReset d) s = execZoneReset d s := rfl

/-- An event whose condition holds has its effect. -/
@[simp] theorem when_true (s t : State) : when true s t = t := rfl
/-- An event whose condition does not hold changes nothing. -/
@[simp] theorem when_false (s t : State) : when false s t = s := rfl

theorem io_started {s : State} {d : Nat} {k : IoKind} (h : dkStart s d k = true) (t : State) :
    io s d k t = .next t := by
  simp only [io, h, when_true]

/-! ### The checks before a command runs -/

theorem onNs_refused {s : State} {d : Nat} {st : Status} (hk : heldByTakeover s (getDk s d).sqe.nsid = false)
    (hr : rekeying s (getDk s d).sqe.nsid = false) (h : nsRefusal s (getDk s d) = some st)
    (data : List Byte) (run : State → State) : onNs s d data run = ioFail s d st := by
  simp [onNs, hk, hr, h]

theorem onNs_forwarded {s : State} {d : Nat} (hk : heldByTakeover s (getDk s d).sqe.nsid = false)
    (hr : rekeying s (getDk s d).sqe.nsid = false) (h : nsRefusal s (getDk s d) = none)
    (hf : forwards s (getDk s d).sqe.nsid = true) (hm : (getDk s d).remote = none)
    (data : List Byte) (run : State → State) : onNs s d data run = forward s d data := by
  simp [onNs, hk, hr, h, hf, hm]

theorem onNs_refusedHere {s : State} {d : Nat} {st : Status} (hk : heldByTakeover s (getDk s d).sqe.nsid = false)
    (hr : rekeying s (getDk s d).sqe.nsid = false) (h : nsRefusal s (getDk s d) = none)
    (hf : forwards s (getDk s d).sqe.nsid = false) (hh : hereRefusal s (getDk s d) = some st)
    (data : List Byte) (run : State → State) : onNs s d data run = ioFail s d st := by
  simp [onNs, hk, hr, h, hf, hh]

/-- A command that nothing refuses or forwards runs here, begun. -/
theorem onNs_runs {s : State} {d : Nat} (h : runsHere s d = true) (data : List Byte) (run : State → State) :
    onNs s d data run = run (begun s d) := by
  simp only [runsHere, Bool.and_eq_true, Bool.not_eq_true', Option.isNone_iff_eq_none] at h
  obtain ⟨⟨⟨⟨hk, hr⟩, hn⟩, hf⟩, hh⟩ := h
  simp [onNs, hk, hr, hn, hf, hh, begun]

/-! ### What the commands of a refused or forwarded entry answer -/

/-- The commands that bring data end in `t`. -/
def dataEnds (s : State) (d : Nat) (b : List Byte) (t : State) : Prop :=
  (dkStart s d .write = true → exec (.write d b) s = .next t) ∧
  (dkStart s d .compare = true → exec (.compare d b) s = .next t) ∧
  (dkStart s d .zoneAppend = true → exec (.zoneAppend d b) s = .next t)

/-- The commands that bring none end in `t`. -/
def plainEnds (s : State) (d : Nat) (t : State) : Prop :=
  (dkStart s d .read = true → exec (.read d) s = .next t) ∧
  (dkStart s d .verify = true → exec (.verify d) s = .next t) ∧
  (dkStart s d .writeZeroes = true → exec (.writeZeroes d) s = .next t) ∧
  (dkStart s d .writeUncorrectable = true → exec (.writeUncorrectable d) s = .next t) ∧
  (dkStart s d .datasetManagement = true → exec (.datasetManagement d) s = .next t) ∧
  (dkStart s d .copy = true → exec (.copy d) s = .next t) ∧
  (dkStart s d .zoneReset = true → exec (.zoneReset d) s = .next t)

/-- A row whose command's checks end in `t`, whatever it would run, ends in `t`. -/
theorem io_onNs {s t : State} {d : Nat} {data : List Byte} (h : ∀ run, onNs s d data run = t) (k : IoKind)
    (run : State → State) (hs : dkStart s d k = true) : io s d k (onNs s d data run) = .next t := by
  rw [io_started hs, h run]

theorem dataEnds_of_onNs {s t : State} {d : Nat} {b : List Byte} (h : ∀ run, onNs s d b run = t) :
    dataEnds s d b t := by
  unfold dataEnds
  simp only [exec_write, exec_compare, exec_zoneAppend, execWrite, execCompare, execZoneAppend]
  exact ⟨io_onNs h _ _, io_onNs h _ _, io_onNs h _ _⟩

theorem plainEnds_of_onNs {s t : State} {d : Nat} (h : ∀ run, onNs s d [] run = t) : plainEnds s d t := by
  unfold plainEnds
  simp only [exec_read, exec_verify, exec_writeZeroes, exec_writeUncorrectable, exec_datasetManagement, exec_copy,
    exec_zoneReset, execRead, execVerify, execWriteZeroes, execWriteUncorrectable, execDatasetManagement, execCopy,
    execZoneReset]
  exact ⟨io_onNs h _ _, io_onNs h _ _, io_onNs h _ _, io_onNs h _ _, io_onNs h _ _, io_onNs h _ _, io_onNs h _ _⟩

/-! ### Which refusal is the first -/

/-- A single module reports every namespace Optimized (R37). -/
theorem anaOf_single {s : State} (n : Nat) (h : s.pair.state = 0) : anaOf s n = .optimized := by
  simp [anaOf, h]

/-- A stale mirrored namespace is Inaccessible. -/
theorem anaOf_stale {s : State} {n : Nat} (h : s.pair.state ≠ 0) (hm : (getNs s n).mirror = true)
    (hs : n ∈ s.pair.stale) : anaOf s n = .inaccessible := by
  simp [anaOf, h, hm, hs]

/-- Without a reservation nothing conflicts. -/
theorem resvConflict_none (s : State) {n : Ns} (fn : Nat) (w : Bool) (h : n.resvType = 0) :
    resvConflict s n fn w = false := by
  simp [resvConflict, h]

/-- The namespace's command set lacks the command (Table 2.3). -/
def otherSet (n : Ns) (k : IoKind) : Bool := if n.zoned then mappedOnly k else zonedOnly k

section Refusals
variable {s : State} {e : Docket}

theorem nsRefusal_notLive (h : (getNs s e.sqe.nsid).live = false) :
    nsRefusal s e = some .invalidNamespaceOrFormat := by
  simp [nsRefusal, h]

theorem nsRefusal_notAttached (hr : e.remote = none) (ha : e.fn ∉ (getNs s e.sqe.nsid).attached) :
    nsRefusal s e = some .invalidNamespaceOrFormat := by
  simp [nsRefusal, attachedTo, hr, ha]

/-- A live namespace that is attached passes the first check, that of R37. -/
theorem nsRefusal_attached (hl : (getNs s e.sqe.nsid).live = true) (ha : e.fn ∈ (getNs s e.sqe.nsid).attached) :
    nsRefusal s e =
      if !(getNs s e.sqe.nsid).ready || !s.media.ready then some .namespaceNotReady
      else if otherSet (getNs s e.sqe.nsid) e.sqe.kind then some .invalidOpcode
      else if anaOf s e.sqe.nsid = .inaccessible then some (if isWriteLock e.sqe.kind then .vendor 0x85 else .anaInaccessible)
      else none := by
  simp [nsRefusal, attachedTo, otherSet, hl, ha]

theorem nsRefusal_notReady (hl : (getNs s e.sqe.nsid).live = true) (ha : e.fn ∈ (getNs s e.sqe.nsid).attached)
    (hr : (getNs s e.sqe.nsid).ready = false) : nsRefusal s e = some .namespaceNotReady := by
  simp [nsRefusal_attached hl ha, hr]

section Ready
variable (hl : (getNs s e.sqe.nsid).live = true) (ha : e.fn ∈ (getNs s e.sqe.nsid).attached)
  (hr : (getNs s e.sqe.nsid).ready = true) (hm : s.media.ready = true)
include hl ha hr hm

theorem nsRefusal_otherSet (h : otherSet (getNs s e.sqe.nsid) e.sqe.kind = true) :
    nsRefusal s e = some .invalidOpcode := by
  simp [nsRefusal_attached hl ha, hr, hm, h]

theorem nsRefusal_single (h : otherSet (getNs s e.sqe.nsid) e.sqe.kind = false) (hp : s.pair.state = 0) :
    nsRefusal s e = none := by
  simp [nsRefusal_attached hl ha, hr, hm, h, anaOf_single _ hp]

theorem nsRefusal_stale (h : otherSet (getNs s e.sqe.nsid) e.sqe.kind = false) (hp : s.pair.state ≠ 0)
    (hi : (getNs s e.sqe.nsid).mirror = true) (hs : e.sqe.nsid ∈ s.pair.stale) :
    nsRefusal s e = some (if isWriteLock e.sqe.kind then .vendor 0x85 else .anaInaccessible) := by
  simp [nsRefusal_attached hl ha, hr, hm, h, anaOf_stale hp hi hs]

end Ready

theorem hereRefusal_outOfRange (h : (getNs s e.sqe.nsid).nsze < e.sqe.slba + e.sqe.nlb) :
    hereRefusal s e = some .lbaOutOfRange := by
  have hbad : lbasOk (getNs s e.sqe.nsid) e.sqe = false := by
    simp only [lbasOk, Bool.and_eq_false_iff, decide_eq_false_iff_not]
    exact .inl (by omega)
  simp [hereRefusal, hbad]

section InRange
variable (h : lbasOk (getNs s e.sqe.nsid) e.sqe = true)
include h

theorem hereRefusal_readOnly (hw : isWriteLock e.sqe.kind = true) (hr : s.media.readOnly = true) :
    hereRefusal s e = some .namespaceWriteProtected := by
  simp [hereRefusal, h, hw, hr]

theorem hereRefusal_conflict (hr : s.media.readOnly = false)
    (hc : resvConflict s (getNs s e.sqe.nsid) e.fn (isWriteLock e.sqe.kind) = true) :
    hereRefusal s e = some .reservationConflict := by
  simp [hereRefusal, h, hr, hc]

theorem hereRefusal_unreserved (hr : s.media.readOnly = false) (ht : (getNs s e.sqe.nsid).resvType = 0) :
    hereRefusal s e = none := by
  simp [hereRefusal, h, hr, resvConflict_none _ _ _ ht]

end InRange
end Refusals

/-- Settles O31: each refusal is the first check that fails, and `onNs` answers with it before the command runs. -/
theorem ioCommandsAreRefusedOrForwarded : Obligations.IoCommandsAreRefusedOrForwarded := by
  unfold Obligations.IoCommandsAreRefusedOrForwarded
  intro s d b st e n w ends plain
  refine ⟨fun hk hr => ⟨fun h => ?_, fun h hf hm => ?_, fun h hf hh => ?_⟩, nsRefusal_notLive, nsRefusal_notAttached,
    nsRefusal_notReady, fun hl ha hr hm => ⟨fun hz ho => ?_, fun ho =>
      ⟨nsRefusal_single hl ha hr hm ho, nsRefusal_stale hl ha hr hm ho⟩⟩,
    hereRefusal_outOfRange, hereRefusal_readOnly, hereRefusal_conflict, hereRefusal_unreserved⟩
  case refine_1 => exact ⟨dataEnds_of_onNs (onNs_refused hk hr h b), plainEnds_of_onNs (onNs_refused hk hr h [])⟩
  case refine_2 =>
    exact ⟨dataEnds_of_onNs (onNs_forwarded hk hr h hf hm b), plainEnds_of_onNs (onNs_forwarded hk hr h hf hm [])⟩
  case refine_3 =>
    exact ⟨dataEnds_of_onNs (onNs_refusedHere hk hr h hf hh b), plainEnds_of_onNs (onNs_refusedHere hk hr h hf hh [])⟩
  case refine_4 =>
    have hset : otherSet n e.sqe.kind = true := by simp [otherSet, hz, ho]
    exact nsRefusal_otherSet hl ha hr hm hset

end Sys2Proof.Machine
end

section
/-!
SUPPORT. What the module's own machinery leaves alone: the power side of the state, through completions, the journal,
the berth pool and the harbour master.
-/
namespace Sys2Proof.Machine

/-! ### The power side -/

/-- What an entry of a dictionary holds, given whether the calibration is the generic one. -/
def entryIn (dict : Tab Nat) (generic : Bool) (i sub : Nat) : Nat :=
  match tabFind dict (dk i sub) with
  | some v => v
  | none => if generic && isCal i sub then Config.genericCal (dk i sub) else dictDefault (dk i sub)

/-- What chapter 15 keeps: the power state, the dictionary entries 0x2000 to 0x2FFF, and the SMART critical warnings
from some bit on. -/
structure PowerView where
  power   : Power
  entries : Fin 0x1000 → Fin 256 → Nat
  warn    : Nat

/-- The power side of a state, with the warnings from bit `lo` on. -/
def powerView (lo : Nat) (s : State) : PowerView :=
  ⟨s.power, fun i sub => entryIn s.dict s.power.calGeneric (0x2000 + i) sub, s.host.smartWarn / 2 ^ lo⟩

section PowerView
variable {lo : Nat}

/-- The power side of a state given field by field. -/
@[simp] theorem powerView_mk (pending : List Instr) (out : List Out) (nowMs uptime freeCount : Nat) (dict : Tab Nat)
    (faults : List FaultRec) (faultSeq : Nat) (pel : List PelEnt) (host : HostIf) (prog : Programs) (media : Media)
    (pool : Pool) (dram : Tab Byte) (hm : Harbour) (ik : Ikixa) (customs : Customs) (eng : Engines) (tally : Tally)
    (power : Power) (pair : Pair) (logbook : Logbook) (mgmt : Mgmt) (service : Service) :
    powerView lo ⟨pending, out, nowMs, uptime, freeCount, dict, faults, faultSeq, pel, host, prog, media, pool, dram, hm,
      ik, customs, eng, tally, power, pair, logbook, mgmt, service⟩ =
    ⟨power, fun i sub => entryIn dict power.calGeneric (0x2000 + i) sub, host.smartWarn / 2 ^ lo⟩ := by simp only [powerView]

/-- Read back from the fields of one state, they are its power side. -/
@[simp] theorem powerView_eta (s : State) :
    (⟨s.power, fun i sub => entryIn s.dict s.power.calGeneric (0x2000 + i) sub, s.host.smartWarn / 2 ^ lo⟩ : PowerView) =
      powerView lo s := by simp only [powerView]

theorem dget_eq_entryIn (s : State) (i sub : Nat) : dget s i sub = entryIn s.dict s.power.calGeneric i sub := rfl

section Read
variable {s t : State} (h : powerView lo t = powerView lo s)
include h

theorem power_of_powerView : t.power = s.power := congrArg PowerView.power h

theorem warn_of_powerView {k : Nat} (hk : lo ≤ k) : bitOf t.host.smartWarn k = bitOf s.host.smartWarn k := by
  have hw : t.host.smartWarn / 2 ^ lo = s.host.smartWarn / 2 ^ lo := congrArg PowerView.warn h
  rw [bitOf, bitOf, ← Nat.add_sub_cancel' hk, Nat.pow_add, ← Nat.div_div_eq_div_mul, ← Nat.div_div_eq_div_mul, hw]

theorem entry_of_powerView {i sub : Nat} (hi : 0x2000 ≤ i) (hi2 : i < 0x3000) (hs : sub < 256) :
    dget t i sub = dget s i sub := by
  have he := congrFun (congrFun (congrArg PowerView.entries h) ⟨i - 0x2000, by omega⟩) ⟨sub, hs⟩
  change dget t (0x2000 + (i - 0x2000)) sub = dget s (0x2000 + (i - 0x2000)) sub at he
  rwa [Nat.add_sub_cancel' hi] at he

end Read

@[simp] theorem powerView_ite (c : Prop) [Decidable c] (a b : State) :
    powerView lo (if c then a else b) = if c then powerView lo a else powerView lo b := apply_ite (powerView lo) c a b

/-- Steps that each leave the power side alone leave it alone together. -/
@[simp] theorem powerView_foldl {α : Type} {f : State → α → State} (h : ∀ s x, powerView lo (f s x) = powerView lo s)
    (l : List α) (s : State) : powerView lo (l.foldl f s) = powerView lo s := by
  induction l generalizing s with
  | nil => rfl
  | cons x l ih => rw [List.foldl_cons, ih, h]

/-! ### Updates of the state's tables -/

@[simp] theorem powerView_emit (s : State) (o : Out) : powerView lo (emit s o) = powerView lo s := by simp [emit]
@[simp] theorem powerView_draw (s : State) : powerView lo (draw s) = powerView lo s := by simp [draw]
@[simp] theorem powerView_logPel (s : State) (w : String) (a b : Nat) : powerView lo (logPel s w a b) = powerView lo s := by simp [logPel]
@[simp] theorem powerView_setFn (s : State) (k : Nat) (f : Fn) : powerView lo (setFn s k f) = powerView lo s := by simp [setFn]
@[simp] theorem powerView_modFn (s : State) (k : Nat) (g : Fn → Fn) : powerView lo (modFn s k g) = powerView lo s := by simp [modFn]
@[simp] theorem powerView_modSq (s : State) (k q : Nat) (g : Sq → Sq) : powerView lo (modSq s k q g) = powerView lo s := by simp [modSq]
@[simp] theorem powerView_modCq (s : State) (k q : Nat) (g : Cq → Cq) : powerView lo (modCq s k q g) = powerView lo s := by simp [modCq]
@[simp] theorem powerView_setDk (s : State) (d : Nat) (e : Docket) : powerView lo (setDk s d e) = powerView lo s := by simp [setDk]
@[simp] theorem powerView_modDk (s : State) (d : Nat) (g : Docket → Docket) : powerView lo (modDk s d g) = powerView lo s := by simp [modDk]
@[simp] theorem powerView_setThr (s : State) (t : Nat) (x : Thread) : powerView lo (setThr s t x) = powerView lo s := by simp [setThr]
@[simp] theorem powerView_modThr (s : State) (t : Nat) (g : Thread → Thread) : powerView lo (modThr s t g) = powerView lo s := by simp [modThr]
@[simp] theorem powerView_setCore (s : State) (c : Nat) (x : Core) : powerView lo (setCore s c x) = powerView lo s := by simp [setCore]
@[simp] theorem powerView_modCore (s : State) (c : Nat) (g : Core → Core) : powerView lo (modCore s c g) = powerView lo s := by simp [modCore]
@[simp] theorem powerView_setLease (s : State) (c : Nat) (l : CoreLease) : powerView lo (setLease s c l) = powerView lo s := by simp [setLease]
@[simp] theorem powerView_setChan (s : State) (k : Nat) (c : Chan) : powerView lo (setChan s k c) = powerView lo s := by simp [setChan]
@[simp] theorem powerView_setBerth (s : State) (a : Nat) (b : Berth) : powerView lo (setBerth s a b) = powerView lo s := by simp [setBerth]
@[simp] theorem powerView_setBlk (s : State) (b : Nat) (v : Block) : powerView lo (setBlk s b v) = powerView lo s := by simp [setBlk]
@[simp] theorem powerView_setStack (s : State) (far : Bool) (l : List Nat) :
    powerView lo (setStack s far l) = powerView lo s := by cases far <;> rfl
@[simp] theorem powerView_setWaitQ (s : State) (far : Bool) (l : List Waiter) :
    powerView lo (setWaitQ s far l) = powerView lo s := by cases far <;> rfl
@[simp] theorem powerView_setSub (s : State) (k : Nat) (l : SubLink) : powerView lo (setSub s k l) = powerView lo s := by
  unfold setSub; split <;> rfl

/-- An entry outside 0x2000 to 0x2FFF takes a value. -/
@[simp] theorem powerView_dset (s : State) (i sub v : Nat) (hs : sub < 256) (hi : i < 0x2000 ∨ 0x3000 ≤ i) :
    powerView lo (dset s i sub v) = powerView lo s := by
  have hentries : (fun (j : Fin 0x1000) (k : Fin 256) => dget (dset s i sub v) (0x2000 + j) k) =
      fun (j : Fin 0x1000) (k : Fin 256) => dget s (0x2000 + j) k := by
    funext j k
    exact dget_dset_other _ _ _ _ _ _ (dk_ne _ _ _ _ hs k.isLt (.inl (by omega)))
  exact congrArg (fun en => (⟨s.power, en, s.host.smartWarn / 2 ^ lo⟩ : PowerView)) hentries

@[simp] theorem powerView_bump (s : State) (i sub n : Nat) (hs : sub < 256) (hi : i < 0x2000 ∨ 0x3000 ≤ i) :
    powerView lo (bump s i sub n) = powerView lo s := powerView_dset _ _ _ _ hs hi

/-! ### Logs, completions and events -/

@[simp] theorem powerView_logFault (s : State) (space kind code : Nat) (th : Option Nat) (a : W64) (ch port : Nat) :
    powerView lo (logFault s space kind code th a ch port) = powerView lo s := by
  unfold logFault
  split
  · simp [powerView_bump _ _ _ _ (show 0x0B < 256 by omega) (show 0x6000 + space < 0x2000 ∨ 0x3000 ≤ 0x6000 + space by omega)]
  · rfl

@[simp] theorem powerView_raiseVector (s : State) (fn v : Nat) : powerView lo (raiseVector s fn v) = powerView lo s := by
  simp [raiseVector]

@[simp] theorem powerView_postCpl (s : State) (q : Nat) (c : Cpl) : powerView lo (postCpl s q c) = powerView lo s := by
  simp [postCpl]

@[simp] theorem powerView_adminDone (s : State) (a : Adm) (st : Status) (n : Nat) (p : Payload) :
    powerView lo (adminDone s a st n p) = powerView lo s := by
  simp [adminDone]

@[simp] theorem powerView_postEvent (s : State) (fn : Nat) (e : Event) : powerView lo (postEvent s fn e) = powerView lo s := by
  unfold postEvent
  dsimp only
  split
  · split <;> simp
  · rfl

@[simp] theorem powerView_postEvents (s : State) (l : List Nat) (e : Event) :
    powerView lo (postEvents s l e) = powerView lo s := by
  simp [postEvents]

/-! ### The hawser link and the journal -/

@[simp] theorem powerView_pushFlit (s : State) (k : Nat) (f : HFlit) : powerView lo (pushFlit s k f) = powerView lo s := by
  simp [pushFlit]

@[simp] theorem powerView_sendOn (s : State) (k : Nat) (m : HawMsg) : powerView lo (sendOn s k m) = powerView lo s := by
  simp [sendOn]

@[simp] theorem powerView_hawSend (s : State) (typ nsid a b : Nat) (body : List Byte) :
    powerView lo (hawSend s typ nsid a b body) = powerView lo s := by
  unfold hawSend
  split
  · rfl
  · split <;> simp

@[simp] theorem powerView_applyReady (s : State) : powerView lo (applyReady s) = powerView lo s := by simp [applyReady]
@[simp] theorem powerView_appendOwn (s : State) (r : JRec) : powerView lo (appendOwn s r) = powerView lo s := by simp [appendOwn]

@[simp] theorem powerView_appendRec (s : State) (r : JRec) : powerView lo (appendRec s r) = powerView lo s := by
  simp [appendRec]

@[simp] theorem powerView_append (s : State) (rs : List JRec) : powerView lo (append s rs) = powerView lo s := by
  simp [append]

@[simp] theorem powerView_formLots (s : State) : powerView lo (formLots s) = powerView lo s := by
  simp [formLots]

@[simp] theorem powerView_settleWindow (s : State) : powerView lo (settleWindow s) = powerView lo s := by simp [settleWindow]
@[simp] theorem powerView_openBlk (s : State) (o : Option Nat) : powerView lo (openBlk s o) = powerView lo s := by simp [openBlk]

@[simp] theorem powerView_landSpot (s : State) (pool n : Nat) : powerView lo (landSpot s pool n).2 = powerView lo s := by
  unfold landSpot
  split <;> simp

@[simp] theorem powerView_putRaw (s : State) (a : Nat) (b : List Byte) : powerView lo (putRaw s a b) = powerView lo s := by
  simp [putRaw]

@[simp] theorem powerView_writeImage (m : MapSt) (jsn : Nat) (s : State) (o : CkObj) :
    powerView lo (writeImage m jsn s o) = powerView lo s := by
  simp [writeImage]

@[simp] theorem powerView_programPage (s : State) (pool lim : Nat) :
    powerView lo (programPage s pool lim) = powerView lo s := by
  simp [programPage]

@[simp] theorem powerView_programTail (pool lim n : Nat) (s : State) :
    powerView lo (programTail pool lim n s) = powerView lo s := by
  induction n generalizing s with
  | zero => rfl
  | succ n ih => simp [programTail, ih]

@[simp] theorem powerView_programAll (s : State) : powerView lo (programAll s) = powerView lo s := by
  simp [programAll]

@[simp] theorem powerView_wearLine (s : State) (line : Nat) : powerView lo (wearLine s line) = powerView lo s := by
  simp [wearLine]

@[simp] theorem powerView_rewriteSection (s : State) (sec : Nat) :
    powerView lo (rewriteSection s sec) = powerView lo s := by
  simp [rewriteSection]

@[simp] theorem powerView_commitAt (s : State) (sec line : Nat) : powerView lo (commitAt s sec line) = powerView lo s := by
  simp [commitAt]

@[simp] theorem powerView_checkpoint (s : State) (clean : Bool) : powerView lo (checkpoint s clean) = powerView lo s := by
  simp [checkpoint]

/-! ### The berth pool and the harbour master -/

@[simp] theorem powerView_noteLow (s : State) (far : Bool) : powerView lo (noteLow s far) = powerView lo s := by
  simp [noteLow]

/-- A berth that is taken changes the pool alone. -/
theorem powerView_poolTake {s u : State} {far : Bool} {tag a : Nat} (h : poolTake s far tag = some (a, u)) :
    powerView lo u = powerView lo s := by
  unfold poolTake at h
  split at h
  · cases h
  · dsimp only at h
    split at h
    · cases h; simp
    · split at h
      · cases h; simp
      · cases h

@[simp] theorem powerView_poolStore (s : State) (far : Bool) (a : Nat) : powerView lo (poolStore s far a) = powerView lo s := by
  simp [poolStore]

@[simp] theorem powerView_pushHeld (s : State) (w : Waiter) : powerView lo (pushHeld s w) = powerView lo s := by simp [pushHeld]
@[simp] theorem powerView_dropHeld (s : State) (w : Waiter) : powerView lo (dropHeld s w) = powerView lo s := by simp [dropHeld]
@[simp] theorem powerView_pushWait (s : State) (far : Bool) (w : Waiter) : powerView lo (pushWait s far w) = powerView lo s := by
  simp [pushWait]

@[simp] theorem powerView_winWrite (s : State) (t off : Nat) (b : List Byte) :
    powerView lo (winWrite s t off b) = powerView lo s := by
  simp [winWrite]

@[simp] theorem powerView_deliver (s : State) (t r : Nat) (w : W64) : powerView lo (deliver s t r w) = powerView lo s := by
  simp [deliver]

@[simp] theorem powerView_saveGot (s : State) (t a : Nat) : powerView lo (saveGot s t a) = powerView lo s := by
  simp [saveGot]

@[simp] theorem powerView_saveAsk (s : State) (t : Nat) : powerView lo (saveAsk s t) = powerView lo s := by
  unfold saveAsk
  dsimp only
  split
  · simp
  · split
    · rename_i h
      simp [powerView_poolTake h]
    · simp

@[simp] theorem powerView_saveAsks (s : State) (t : Nat) : powerView lo (saveAsks s t) = powerView lo s := by
  simp [saveAsks]

@[simp] theorem powerView_zeroCore (s : State) (c : Nat) : powerView lo (zeroCore s c) = powerView lo s := by
  simp [zeroCore]

@[simp] theorem powerView_finishChange (s : State) (c : Nat) (sp : Option Nat) :
    powerView lo (finishChange s c sp) = powerView lo s := by
  simp [finishChange]

@[simp] theorem powerView_settleChange (s : State) (c : Nat) : powerView lo (settleChange s c) = powerView lo s := by
  unfold settleChange
  dsimp only
  split
  · rfl
  · simp

@[simp] theorem powerView_startChange (s : State) (c : Nat) (sp : Option Nat) :
    powerView lo (startChange s c sp) = powerView lo s := by
  simp [startChange]

@[simp] theorem powerView_dispatch (s : State) (c t : Nat) : powerView lo (dispatch s c t) = powerView lo s := by
  unfold dispatch
  dsimp only
  split <;> simp

@[simp] theorem powerView_pushReady (s : State) (t : Nat) (p : Place) : powerView lo (pushReady s t p) = powerView lo s := by simp [pushReady]
@[simp] theorem powerView_pushRing (s : State) (e : RingEnt) : powerView lo (pushRing s e) = powerView lo s := by simp [pushRing]
@[simp] theorem powerView_stampReady (s : State) (t : Nat) : powerView lo (stampReady s t) = powerView lo s := by simp [stampReady]
@[simp] theorem powerView_unready (s : State) (t : Nat) : powerView lo (unready s t) = powerView lo s := by simp [unready]
@[simp] theorem powerView_noteConsumers (s : State) (l : List Nat) (t : Nat) :
    powerView lo (noteConsumers s l t) = powerView lo s := by simp [noteConsumers]

@[simp] theorem powerView_enterList (s : State) (d t : Nat) (r : Bool) : powerView lo (enterList s d t r) = powerView lo s := by
  unfold enterList
  dsimp only
  split <;> simp

@[simp] theorem powerView_enterCluster (s : State) (d t : Nat) : powerView lo (enterCluster s d t) = powerView lo s := by
  simp [enterCluster]

@[simp] theorem powerView_place (s : State) (t : Nat) : powerView lo (place s t) = powerView lo s := by
  simp [place]

@[simp] theorem powerView_makeReady (s : State) (t : Nat) : powerView lo (makeReady s t) = powerView lo s := by
  simp [makeReady]

@[simp] theorem powerView_trimIdle (s : State) (k port : Nat) : powerView lo (trimIdle s k port) = powerView lo s := by
  simp [trimIdle]

@[simp] theorem powerView_consume (s : State) (t port : Nat) : powerView lo (consume s t port) = powerView lo s := by
  simp [consume]

@[simp] theorem powerView_matchChan (s : State) (k port : Nat) : powerView lo (matchChan s k port) = powerView lo s := by
  simp [matchChan]

@[simp] theorem powerView_applyPost (s : State) (k q port : Nat) (m : Bool) :
    powerView lo (applyPost s k q port m) = powerView lo s := by
  simp [applyPost]

@[simp] theorem powerView_postApply (s : State) (port sp ch q : Nat) (m : Bool) :
    powerView lo (postApply s port sp ch q m) = powerView lo s := by
  simp [postApply]

@[simp] theorem powerView_postToken (s : State) (port sp ch q : Nat) (m : Bool) :
    powerView lo (postToken s port sp ch q m) = powerView lo s := by
  unfold postToken
  split <;> simp

@[simp] theorem powerView_berthReply (s : State) (who : Requester) (tag : Nat) (r : BerthReq) (w : W64) :
    powerView lo (berthReply s who tag r w) = powerView lo s := by
  simp [berthReply]

@[simp] theorem powerView_allocGot (s : State) (far : Bool) (a : Nat) (w : Waiter) :
    powerView lo (allocGot s far a w) = powerView lo s := by
  simp [allocGot]

@[simp] theorem powerView_grantBerth (s : State) (far : Bool) (a : Nat) (w : Waiter) :
    powerView lo (grantBerth s far a w) = powerView lo s := by
  simp [grantBerth]

@[simp] theorem powerView_admitHeld (s : State) (far : Bool) : powerView lo (admitHeld s far) = powerView lo s := by
  unfold admitHeld
  split <;> simp

@[simp] theorem powerView_berthFreed (s : State) (a : Nat) : powerView lo (berthFreed s a) = powerView lo s := by
  unfold berthFreed
  dsimp only
  split
  · simp
  · split <;> simp

@[simp] theorem powerView_dropClaim (s : State) (a tag : Nat) : powerView lo (dropClaim s a tag) = powerView lo s := by
  unfold dropClaim
  dsimp only
  split <;> simp

@[simp] theorem powerView_reclaimBerth (s : State) (a : Nat) : powerView lo (reclaimBerth s a) = powerView lo s := by
  simp [reclaimBerth]

@[simp] theorem powerView_releaseOwner (s : State) (tag : Nat) : powerView lo (releaseOwner s tag) = powerView lo s := by
  simp [releaseOwner]

@[simp] theorem powerView_freeBerths (s : State) (l : List Nat) : powerView lo (freeBerths s l) = powerView lo s := by
  simp [freeBerths]

/-! ### Docket entries that end -/

@[simp] theorem powerView_dkPost (s : State) (d : Nat) (st : Status) (a b : Nat) (p : Payload) :
    powerView lo (dkPost s d st a b p) = powerView lo s := by
  unfold dkPost
  dsimp only
  split <;> simp

@[simp] theorem powerView_dkBerths (s : State) (d : Nat) (e : Docket) : powerView lo (dkBerths s d e) = powerView lo s := by
  simp [dkBerths]

@[simp] theorem powerView_orphanCascades (s : State) (p : Cascade → Bool) :
    powerView lo (orphanCascades s p) = powerView lo s := by simp [orphanCascades]

@[simp] theorem powerView_dkFree (s : State) (d : Nat) : powerView lo (dkFree s d) = powerView lo s := by
  simp [dkFree]

@[simp] theorem powerView_countFinished (s : State) (e : Docket) : powerView lo (countFinished s e) = powerView lo s := by
  unfold countFinished
  dsimp only
  split <;> simp

@[simp] theorem powerView_dropWork (s : State) (d : Nat) : powerView lo (dropWork s d) = powerView lo s := by
  simp [dropWork]

@[simp] theorem powerView_cancelForward (s : State) (d tag : Nat) (st : Option Status) :
    powerView lo (cancelForward s d tag st) = powerView lo s := by
  simp [cancelForward]

@[simp] theorem powerView_dkCancel (s : State) (d : Nat) (st : Option Status) :
    powerView lo (dkCancel s d st) = powerView lo s := by
  unfold dkCancel
  dsimp only
  split
  · rfl
  · split
    · simp
    · split
      · split
        · simp
        · cases st <;> simp
      · cases st <;> simp

@[simp] theorem powerView_freezeQueue (s : State) (e : Docket) (st : Status) :
    powerView lo (freezeQueue s e st) = powerView lo s := by
  simp [freezeQueue]

@[simp] theorem powerView_ioDone (s : State) (d : Nat) (st : Status) (a b : Nat) (p : Payload) :
    powerView lo (ioDone s d st a b p) = powerView lo s := by
  simp [ioDone]

@[simp] theorem powerView_ioOk (s : State) (d : Nat) : powerView lo (ioOk s d) = powerView lo s := by
  simp [ioOk]

@[simp] theorem powerView_settleShutdown (s : State) : powerView lo (settleShutdown s) = powerView lo s := by
  simp [settleShutdown]

@[simp] theorem powerView_flushCheck (s : State) : powerView lo (flushCheck s) = powerView lo s := by
  simp [flushCheck]

@[simp] theorem powerView_dkClose (s : State) (d : Nat) : powerView lo (dkClose s d) = powerView lo s := by
  unfold dkClose
  dsimp only
  split
  · split <;> simp
  · simp

/-! ### SMART critical warnings -/

/-- Setting a bit that is clear adds its weight and leaves the bits above it. -/
theorem add_two_pow_of_clear {x b : Nat} (h : bitOf x b = false) :
    bitOf (x + 2 ^ b) b = true ∧ (x + 2 ^ b) / 2 ^ (b + 1) = x / 2 ^ (b + 1) := by
  have hq : x / 2 ^ b % 2 = 0 := by simpa [bitOf] using h
  have hadd : (x + 2 ^ b) / 2 ^ b = x / 2 ^ b + 1 := Nat.add_div_right x (Nat.two_pow_pos b)
  rw [Nat.pow_succ, ← Nat.div_div_eq_div_mul, ← Nat.div_div_eq_div_mul, hadd]
  simp only [bitOf, hadd, beq_iff_eq]
  generalize x / 2 ^ b = q at hq ⊢
  omega

/-- Clearing a bit that is set takes its weight and leaves the bits above it. -/
theorem sub_two_pow_of_set {x b : Nat} (h : bitOf x b = true) :
    bitOf (x - 2 ^ b) b = false ∧ (x - 2 ^ b) / 2 ^ (b + 1) = x / 2 ^ (b + 1) := by
  have hq : x / 2 ^ b % 2 = 1 := by simpa [bitOf] using h
  have hsub : (x - 2 ^ b) / 2 ^ b = x / 2 ^ b - 1 := by simpa using Nat.sub_mul_div x (2 ^ b) 1
  rw [Nat.pow_succ, ← Nat.div_div_eq_div_mul, ← Nat.div_div_eq_div_mul, hsub]
  simp only [bitOf, hsub, beq_eq_false_iff_ne]
  generalize x / 2 ^ b = q at hq ⊢
  omega

theorem postEvents_smartWarn (s : State) (l : List Nat) (e : Event) :
    (postEvents s l e).host.smartWarn = s.host.smartWarn := by
  simpa [powerView] using congrArg PowerView.warn (powerView_postEvents (lo := 0) s l e)

/-- A warning bit reads as it was set. -/
@[simp] theorem bitOf_setWarn (s : State) (bit : Nat) (on : Bool) :
    bitOf (setWarn s bit on).host.smartWarn bit = on := by
  unfold setWarn
  split
  next h => exact h
  next h =>
    cases on
    · exact (sub_two_pow_of_set (by simpa using h)).1
    · rw [if_pos rfl, postEvents_smartWarn]
      exact (add_two_pow_of_clear (by simpa using h)).1

/-- A warning bit below `lo` is none of the power side. -/
theorem powerView_setWarn (s : State) {bit : Nat} (on : Bool) (h : bit < lo) :
    powerView lo (setWarn s bit on) = powerView lo s := by
  have habove (x y : Nat) (hxy : x / 2 ^ (bit + 1) = y / 2 ^ (bit + 1)) : x / 2 ^ lo = y / 2 ^ lo := by
    rw [← Nat.add_sub_cancel' h, Nat.pow_add, ← Nat.div_div_eq_div_mul, ← Nat.div_div_eq_div_mul, hxy]
  unfold setWarn
  split
  next => rfl
  next hbit =>
    cases on
    · rw [if_neg Bool.false_ne_true]
      simp only [powerView, habove _ _ (sub_two_pow_of_set (by simpa using hbit)).2]
    · rw [if_pos rfl, powerView_postEvents]
      simp only [powerView, habove _ _ (add_two_pow_of_clear (by simpa using hbit)).2]

@[simp] theorem powerView_settleAdm (s : State) (h : 0 < lo) : powerView lo (settleAdm s) = powerView lo s := by
  simp [settleAdm, powerView_setWarn _ _ h]

@[simp] theorem powerView_closeFull (s : State) : powerView lo (closeFull s) = powerView lo s := by simp [closeFull]

/-- What closes with the journal may change the spares' warning, bit 0. -/
@[simp] theorem powerView_closeDue (s : State) (h : 0 < lo) : powerView lo (closeDue s) = powerView lo s := by
  simp [closeDue, h]

end PowerView
end Sys2Proof.Machine
end

section
/-!
SUPPORT. V_avg, hold-up, temperature (R31, R33, R405 to R408, R497) and the pilot loops (R399 to R402).
-/
namespace Sys2Proof.Machine

/-! ### Completions and events change the host interface alone -/

/-- The state but for the host interface and what was sent outside. -/
def hostless (s : State) : State := { s with host := HostIf.empty, out := [] }

@[simp] theorem hostless_emit (s : State) (o : Out) : hostless (emit s o) = hostless s := rfl
@[simp] theorem hostless_setFn (s : State) (k : Nat) (f : Fn) : hostless (setFn s k f) = hostless s := rfl
@[simp] theorem hostless_modFn (s : State) (k : Nat) (g : Fn → Fn) : hostless (modFn s k g) = hostless s := rfl
@[simp] theorem hostless_modCq (s : State) (k q : Nat) (g : Cq → Cq) : hostless (modCq s k q g) = hostless s := rfl

@[simp] theorem hostless_ite (c : Prop) [Decidable c] (a b : State) :
    hostless (if c then a else b) = if c then hostless a else hostless b := apply_ite hostless c a b

@[simp] theorem hostless_foldl {α : Type} {f : State → α → State} (h : ∀ s x, hostless (f s x) = hostless s)
    (l : List α) (s : State) : hostless (l.foldl f s) = hostless s := by
  induction l generalizing s with
  | nil => rfl
  | cons x l ih => rw [List.foldl_cons, ih, h]

@[simp] theorem hostless_raiseVector (s : State) (fn v : Nat) : hostless (raiseVector s fn v) = hostless s := by
  simp [raiseVector]

@[simp] theorem hostless_postCpl (s : State) (q : Nat) (c : Cpl) : hostless (postCpl s q c) = hostless s := by
  simp [postCpl]

@[simp] theorem hostless_adminDone (s : State) (a : Adm) (st : Status) (n : Nat) (p : Payload) :
    hostless (adminDone s a st n p) = hostless s := by
  simp [adminDone]

@[simp] theorem hostless_postEvent (s : State) (fn : Nat) (e : Event) : hostless (postEvent s fn e) = hostless s := by
  unfold postEvent
  dsimp only
  split
  · split <;> simp
  · rfl

@[simp] theorem hostless_setWarn (s : State) (bit : Nat) (on : Bool) : hostless (setWarn s bit on) = hostless s := by
  unfold setWarn postEvents
  split
  · rfl
  · split
    · rw [hostless_foldl (fun s fn => hostless_postEvent s fn _)]
      rfl
    · rfl

/-- States that agree but for the host interface differ in it alone. -/
theorem eq_of_hostless {s t : State} (h : hostless t = hostless s) : t = { s with host := t.host, out := t.out } :=
  calc t = { hostless t with host := t.host, out := t.out } := rfl
    _ = { hostless s with host := t.host, out := t.out } := by rw [h]

/-! ### Entries that are saved -/

theorem wearLine_logbook (s : State) (line : Nat) : ∃ lb, wearLine s line = { s with logbook := lb } := by
  unfold wearLine
  dsimp only
  split <;> exact ⟨_, rfl⟩

theorem wearLines_logbook (base : Nat) (l : List Nat) (s : State) :
    ∃ lb, l.foldl (fun s k => wearLine s (base + k)) s = { s with logbook := lb } := by
  induction l generalizing s with
  | nil => exact ⟨s.logbook, rfl⟩
  | cons k l ih =>
    obtain ⟨lb, h⟩ := wearLine_logbook s (base + k)
    rw [List.foldl_cons, h]
    exact ih _

theorem rewriteSection_logbook (s : State) (sec : Nat) : ∃ lb, rewriteSection s sec = { s with logbook := lb } := by
  unfold rewriteSection
  split
  · obtain ⟨lb, h⟩ := wearLines_logbook (sectionBase sec) (List.range (sectionSize sec - 1)) s
    rw [h]
    exact ⟨_, rfl⟩
  · exact ⟨s.logbook, rfl⟩

/-- A commit wears lines and counts itself (R451). -/
theorem commitAt_logbook (s : State) (sec line : Nat) :
    ∃ lb, commitAt s sec line = bump { s with logbook := lb } 0x1200 6 1 := by
  unfold commitAt
  obtain ⟨lb1, h1⟩ := rewriteSection_logbook s sec
  obtain ⟨lb2, h2⟩ := wearLine_logbook { s with logbook := lb1 } (checkLine sec)
  obtain ⟨lb3, h3⟩ := wearLine_logbook { s with logbook := lb2 } line
  exact ⟨lb3, by rw [h1, h2, h3]⟩

/-- An entry that takes a new value changes in the dictionary, and is committed. -/
theorem persist_changed (s : State) (i sub v : Nat) (h : dget s i sub ≠ v) :
    ∃ lb, persist s i sub v = bump { dset s i sub v with logbook := lb } 0x1200 6 1 := by
  rw [persist, if_neg h]
  exact commitAt_logbook _ _ _

/-- A save changes the dictionary and the logbook alone. -/
theorem persist_frame (s : State) (i sub v : Nat) :
    ∃ dict lb, persist s i sub v = { s with dict := dict, logbook := lb } := by
  by_cases h : dget s i sub = v
  · exact ⟨s.dict, s.logbook, by rw [persist, if_pos h]⟩
  · obtain ⟨lb, hp⟩ := persist_changed s i sub v h
    exact ⟨_, lb, hp⟩

theorem dget_persist_same (s : State) (i sub v : Nat) (hk : dk i sub ≠ dk 0x1200 6) :
    dget (persist s i sub v) i sub = v := by
  by_cases h : dget s i sub = v
  · rwa [persist, if_pos h]
  · obtain ⟨lb, hp⟩ := persist_changed s i sub v h
    rw [hp, dget_bump_other _ _ _ _ _ _ hk, dget_congr (dset s i sub v) { dset s i sub v with logbook := lb } _ _ rfl rfl, dget_dset_same]

theorem dget_persist_other (s : State) (i sub v j k : Nat) (hne : dk j k ≠ dk i sub) (hk : dk j k ≠ dk 0x1200 6) :
    dget (persist s i sub v) j k = dget s j k := by
  by_cases h : dget s i sub = v
  · rw [persist, if_pos h]
  · obtain ⟨lb, hp⟩ := persist_changed s i sub v h
    rw [hp, dget_bump_other _ _ _ _ _ _ hk, dget_congr (dset s i sub v) { dset s i sub v with logbook := lb } _ _ rfl rfl, dget_dset_other _ _ _ _ _ _ hne]

/-! ### Temperature (R497) -/

/-- Whether a sensor reads beyond a threshold depends on the entries and the thresholds alone. -/
theorem beyond_of_hostless {s t : State} (h : hostless t = hostless s) (i : Nat) : beyond t i = beyond s i := by
  rw [eq_of_hostless h]
  rfl

/-- The state in which `settleTemp` compares the readings with their thresholds. -/
def tempsNoted (s : State) : State :=
  let s := dset s 0x3100 0x20 ((smartTemp s 0).toNat % 65536)
  let top := hottest s (1 :: 2 :: quaySensors ++ dramSensors)
  if signed32 (dget s 0x3100 0x22) < top then persist s 0x3100 0x22 (unsigned32 top) else s

theorem settleTemp_eq (s : State) :
    settleTemp s = setWarn (tempsNoted s) 1 ((List.range 6).any (beyond (tempsNoted s))) := rfl

/-- The composite and the highest reading have entries of their own. -/
theorem dget_tempsNoted (s : State) (k : Nat) (h : k < 0x20) : dget (tempsNoted s) 0x3100 k = dget s 0x3100 k := by
  have hcomposite : dk 0x3100 k ≠ dk 0x3100 0x20 := dk_ne _ _ _ _ (by omega) (by omega) (.inr (by omega))
  have hhighest : dk 0x3100 k ≠ dk 0x3100 0x22 := dk_ne _ _ _ _ (by omega) (by omega) (.inr (by omega))
  have hcount : dk 0x3100 k ≠ dk 0x1200 6 := dk_ne _ _ _ _ (by omega) (by omega) (.inl (by omega))
  unfold tempsNoted
  dsimp only
  split
  · rw [dget_persist_other _ _ _ _ _ _ hhighest hcount, dget_dset_other _ _ _ _ _ _ hcomposite]
  · rw [dget_dset_other _ _ _ _ _ _ hcomposite]

theorem dget_of_hostless {s t : State} (h : hostless t = hostless s) (i sub : Nat) : dget t i sub = dget s i sub := by
  rw [eq_of_hostless h]
  rfl

/-- The sensors' own entries stay (R497). -/
theorem dget_settleTemp (s : State) (k : Nat) (h : k < 0x20) : dget (settleTemp s) 0x3100 k = dget s 0x3100 k := by
  rw [settleTemp_eq, dget_of_hostless (hostless_setWarn _ _ _), dget_tempsNoted s k h]

/-- SMART critical warning bit 1 says whether a sensor reads beyond a threshold (R497). -/
theorem warn_settleTemp (s : State) :
    bitOf (settleTemp s).host.smartWarn 1 = (List.range 6).any (beyond (settleTemp s)) := by
  have hbeyond : beyond (settleTemp s) = beyond (tempsNoted s) :=
    funext (beyond_of_hostless (hostless_setWarn _ _ _))
  rw [hbeyond, settleTemp_eq, bitOf_setWarn]

/-! ### Hold-up health (R33) -/

/-- The state once hold-up health is set, before what waited for durability goes on. -/
def healthSet (s : State) (ok : Bool) : State :=
  let t := setWarn { s with power := { s.power with healthy := ok } } 4 (!ok)
  if !ok ∧ s.power.healthy then { t with media := { t.media with tailDue := t.media.jsn } } else t

theorem setHealth_eq (s : State) (ok : Bool) : setHealth s ok =
    if ok ∧ !s.power.healthy then flushCheck (settleWindow (closeDue (applyReady (healthSet s ok)))) else healthSet s ok :=
  rfl

theorem powerView_healthSet {lo : Nat} (s : State) (ok : Bool) : powerView lo (healthSet s ok) =
    powerView lo (setWarn { s with power := { s.power with healthy := ok } } 4 (!ok)) := by
  unfold healthSet
  dsimp only
  split <;> rfl

/-- What goes on when hold-up turns healthy leaves the power side alone. -/
theorem powerView_setHealth (s : State) (ok : Bool) :
    powerView 1 (setHealth s ok) = powerView 1 (setWarn { s with power := { s.power with healthy := ok } } 4 (!ok)) := by
  rw [setHealth_eq, ← powerView_healthSet]
  split
  · simp
  · rfl

theorem setHealth_power (s : State) (ok : Bool) : (setHealth s ok).power = { s.power with healthy := ok } :=
  (power_of_powerView (powerView_setHealth s ok)).trans
    (power_of_powerView (powerView_setWarn (lo := 5) _ _ (by omega)))

theorem dget_setHealth (s : State) (ok : Bool) {i sub : Nat} (hi : 0x2000 ≤ i) (hi2 : i < 0x3000) (hs : sub < 256) :
    dget (setHealth s ok) i sub = dget s i sub :=
  (entry_of_powerView (powerView_setHealth s ok) hi hi2 hs).trans
    (dget_of_hostless (hostless_setWarn _ _ _) _ _)

/-- SMART critical warning bit 4 says that hold-up is insufficient (R33). -/
theorem warn_setHealth (s : State) (ok : Bool) : bitOf (setHealth s ok).host.smartWarn 4 = !ok :=
  (warn_of_powerView (powerView_setHealth s ok) (by omega)).trans (bitOf_setWarn _ _ _)

/-- Hold-up turns insufficient: the whole tail is due before the next erase (R106). -/
theorem tailDue_setHealth (s : State) (h : s.power.healthy = true) :
    (setHealth s false).media.tailDue = s.media.jsn := by
  have hmedia := congrArg State.media
    (eq_of_hostless (hostless_setWarn { s with power := { s.power with healthy := false } } 4 true))
  simp only [setHealth_eq, healthSet, h, Bool.not_false, Bool.false_eq_true, false_and, if_false, and_self, if_true,
    hmedia]

/-! ### The hold-up measurement (R405 to R407) -/

theorem settleCycle_frame (s : State) : ∃ dict sv, settleCycle s = { s with dict := dict, service := sv } := by
  unfold settleCycle
  split <;> exact ⟨_, _, rfl⟩

theorem noteUnit_frame (s : State) (task unit : Nat) :
    ∃ dict sv, noteUnit s task unit = { s with dict := dict, service := sv } := by
  unfold noteUnit
  split
  · exact ⟨_, _, rfl⟩
  · exact settleCycle_frame _

/-- The usable energy that a measurement finds, in mJ; none where it is invalid. -/
def measuredEnergy (s : State) (v1 v2 uj : Nat) : Nat :=
  if (v1 - v2) * 1000 < 2 * v1 then 0 else usableEnergy s (capacitance v1 v2 uj)

/-- The power state has taken the measurement. -/
def ended (s : State) (v1 v2 uj : Nat) : State :=
  let bad : Bool := decide ((v1 - v2) * 1000 < 2 * v1)
  { s with power := { s.power with
    measuring := none, measuredAt := some s.nowMs, noIsolation := bad, lastC := if bad then 0 else capacitance v1 v2 uj } }

/-- Any measurement but boot's has been entered in the books of the dredge test, too. -/
def measured (s : State) (v1 v2 uj : Nat) : State :=
  let e := measuredEnergy s v1 v2 uj
  let t := ended s v1 v2 uj
  if s.power.measuredAt.isSome then noteUnit (if e < 24000 then noteFault t 6 0 e else t) 6 0 else t

theorem holdupEnd_eq (s : State) (v1 v2 uj : Nat) : holdupEnd s v1 v2 uj =
    setHealth (persist (measured s v1 v2 uj) 0x2000 5 (min (measuredEnergy s v1 v2 uj) (2 ^ 32 - 1)))
      (decide (24000 ≤ measuredEnergy s v1 v2 uj)) := by
  by_cases h : (v1 - v2) * 1000 < 2 * v1 <;> simp [holdupEnd, measured, ended, measuredEnergy, h]

theorem measured_frame (s : State) (v1 v2 uj : Nat) :
    ∃ dict sv, measured s v1 v2 uj = { ended s v1 v2 uj with dict := dict, service := sv } := by
  unfold measured
  dsimp only
  split
  · obtain ⟨_, _, hu⟩ := noteUnit_frame (if measuredEnergy s v1 v2 uj < 24000 then
      noteFault (ended s v1 v2 uj) 6 0 (measuredEnergy s v1 v2 uj) else ended s v1 v2 uj) 6 0
    rw [hu]
    split <;> exact ⟨_, _, rfl⟩
  · exact ⟨_, _, rfl⟩

/-- A saved measurement has changed the power state, the dictionary, the logbook and the books alone. -/
theorem saved_frame (s : State) (v1 v2 uj v : Nat) : ∃ dict sv lb,
    persist (measured s v1 v2 uj) 0x2000 5 v = { ended s v1 v2 uj with dict := dict, service := sv, logbook := lb } := by
  obtain ⟨_, sv, hm⟩ := measured_frame s v1 v2 uj
  obtain ⟨dict, lb, hp⟩ := persist_frame (measured s v1 v2 uj) 0x2000 5 v
  exact ⟨dict, sv, lb, by rw [hp, hm]⟩

/-- What the end of a measurement leaves: its time, the energy in [2000.5], and the health that follows (R405 to
R407, R33). -/
theorem holdupEnd_spec (s : State) (v1 v2 uj : Nat) :
    let t := holdupEnd s v1 v2 uj
    let e := measuredEnergy s v1 v2 uj
    t.power.measuring = none ∧ t.power.measuredAt = some s.nowMs ∧ t.power.healthy = decide (24000 ≤ e) ∧
      dget t 0x2000 5 = min e (2 ^ 32 - 1) ∧ bitOf t.host.smartWarn 4 = decide (e < 24000) ∧
      (s.power.healthy = true → e < 24000 → t.media.tailDue = s.media.jsn) := by
  intro t e
  obtain ⟨dict, sv, lb, hsaved⟩ := saved_frame s v1 v2 uj (min e (2 ^ 32 - 1))
  have ht : t = setHealth (persist (measured s v1 v2 uj) 0x2000 5 (min e (2 ^ 32 - 1))) (decide (24000 ≤ e)) :=
    holdupEnd_eq s v1 v2 uj
  have hpower : t.power = { (ended s v1 v2 uj).power with healthy := decide (24000 ≤ e) } := by
    rw [ht, setHealth_power, hsaved]
  refine ⟨by rw [hpower]; rfl, by rw [hpower]; rfl, by rw [hpower], ?_, ?_, fun hh he => ?_⟩
  · rw [ht, dget_setHealth _ _ (by omega) (by omega) (by omega), dget_persist_same _ _ _ _ (by decide)]
  · rw [ht, warn_setHealth]
    simp only [← decide_not, Nat.not_le]
  · have hlow : decide (24000 ≤ e) = false := decide_eq_false (by omega)
    rw [ht, hlow, hsaved, tailDue_setHealth]
    · rfl
    · exact hh

/-! ### The pilot loops (R399 to R402) -/

section Region
variable (s : State) (k x : Nat)

/-- Going up stops where the next threshold is not reached, if the fuel lasts to the last region. -/
theorem regionUp_next {n r : Nat} (hn : slotVal s k 8 ≤ n + r + 1)
    (h : regionUp s k x n r + 1 < slotVal s k 8) : x < slotVal s k (0x10 + (regionUp s k x n r + 1)) := by
  induction n generalizing r with
  | zero => simp only [regionUp] at h; omega
  | succ n ih =>
    simp only [regionUp] at h ⊢
    split at h
    next hup => rw [if_pos hup]; exact ih (by omega) h
    next hup => rw [if_neg hup]; exact Nat.lt_of_not_le fun hle => hup ⟨h, hle⟩

/-- Going down stops where x is not a hysteresis below the region's own threshold. -/
theorem regionDown_own {r : Nat} (h : 0 < regionDown s k x r) :
    (slotVal s k (0x10 + regionDown s k x r) : Int) - (slotVal s k 7 : Int) ≤ x := by
  induction r with
  | zero => simp [regionDown] at h
  | succ r ih =>
    simp only [regionDown] at h ⊢
    split at h
    next hdown => rw [if_pos hdown]; exact ih h
    next hdown => rw [if_neg hdown]; omega

/-- Where going down leaves a region, x lies below that region's threshold. -/
theorem regionDown_next (r : Nat) :
    regionDown s k x r = r ∨ x < slotVal s k (0x10 + (regionDown s k x r + 1)) := by
  induction r with
  | zero => exact .inl rfl
  | succ r ih =>
    simp only [regionDown]
    split
    next hdown =>
      refine .inr ?_
      rcases ih with heq | hlt
      · rw [heq]; omega
      · exact hlt
    next => exact .inl rfl

/-- A region's next threshold is not reached (R402). -/
theorem regionOf_next {r : Nat} (hn : slotVal s k 8 ≤ 8) (h : regionOf s k x r + 1 < slotVal s k 8) :
    x < slotVal s k (0x10 + (regionOf s k x r + 1)) := by
  unfold regionOf at h ⊢
  rcases regionDown_next s k x (regionUp s k x 8 r) with heq | hlt
  · rw [heq] at h ⊢
    exact regionUp_next s k x (by omega) h
  · exact hlt

/-- A region's own threshold is left by a hysteresis at most (R402). -/
theorem regionOf_own {r : Nat} (h : 0 < regionOf s k x r) :
    (slotVal s k (0x10 + regionOf s k x r) : Int) - (slotVal s k 7 : Int) ≤ x := regionDown_own s k x h

end Region

/-- The control law's result held within a slot's DMIN and DMAX (R401). -/
def heldAcc (s : State) (k : Nat) (acc : Int) : Int :=
  min (max acc (slotVal s k 4 * 2 ^ 16 : Nat)) (slotVal s k 5 * 2 ^ 16 + 0xFFFF : Nat)

/-- What the control law gives in an evaluation, before it is held. -/
def lawAcc (s : State) (k raw x : Nat) : Int :=
  let p := tabGet Pilot.empty s.power.pilots k
  let m := measure s k raw
  controlAcc s k (regionOf s k (schedVar s k m x) p.region) p ((slotVal s k 3 : Int) - m)

/-- The slot's pilot after an evaluation. -/
def pilotAfter (s : State) (k raw x : Nat) : Pilot :=
  let p := tabGet Pilot.empty s.power.pilots k
  let m := measure s k raw
  let v := schedVar s k m x
  let y := heldAcc s k (lawAcc s k raw x)
  { p with
    region := regionOf s k v p.region, schedX := v, outOfRange := decide (v < slotVal s k 0x10), lastMeas := m
    duty := (y / 2 ^ 16).toNat, e1 := (slotVal s k 3 : Int) - m, e2 := p.e1, e3 := p.e2, y1 := y, y2 := p.y1, y3 := p.y2
    satSec := p.satSec + b2n (decide (lawAcc s k raw x ≠ y)) }

/-- An evaluation gives the slot its new pilot, and leaves the host interface alone. -/
theorem evalSlot_pilots (s : State) (k raw x : Nat) :
    (evalSlot s k raw x).power.pilots = tabSet Pilot.empty s.power.pilots k (pilotAfter s k raw x) ∧
      (evalSlot s k raw x).host = s.host := by
  have hfirst : slotVal (bump s (0x2100 + k) 0x0B 1) k 0x10 = slotVal s k 0x10 :=
    dget_bump_other _ _ _ _ _ _ (dk_ne _ _ _ _ (by omega) (by omega) (.inr (by omega)))
  unfold evalSlot
  dsimp only
  split
  · rw [hfirst]
    exact ⟨rfl, rfl⟩
  · exact ⟨rfl, rfl⟩

/-- The duty lies within DMIN and DMAX. -/
theorem duty_bounds {s : State} {k : Nat} (h : slotVal s k 4 ≤ slotVal s k 5) (acc : Int) :
    slotVal s k 4 ≤ (heldAcc s k acc / 2 ^ 16).toNat ∧ (heldAcc s k acc / 2 ^ 16).toNat ≤ slotVal s k 5 := by
  unfold heldAcc
  generalize slotVal s k 4 = lo at h ⊢
  generalize slotVal s k 5 = hi at h ⊢
  omega

/-- A result within the bounds is held as it is. -/
theorem heldAcc_inside {s : State} {k : Nat} {acc : Int} (h : (slotVal s k 4 * 2 ^ 16 : Nat) ≤ acc)
    (h2 : acc ≤ (slotVal s k 5 * 2 ^ 16 + 0xFFFF : Nat)) : heldAcc s k acc = acc := by
  rw [heldAcc, max_eq_left h, min_eq_left h2]

/-- A result within the bounds is no saturation. -/
theorem pilotAfter_inside {s : State} {k raw x : Nat} (h : (slotVal s k 4 * 2 ^ 16 : Nat) ≤ lawAcc s k raw x)
    (h2 : lawAcc s k raw x ≤ (slotVal s k 5 * 2 ^ 16 + 0xFFFF : Nat)) :
    (pilotAfter s k raw x).y1 = lawAcc s k raw x ∧
      (pilotAfter s k raw x).satSec = (tabGet Pilot.empty s.power.pilots k).satSec := by
  simp [pilotAfter, heldAcc_inside h h2, b2n]

/-! ### The rows -/

theorem when_of {c : Bool} (h : c = true) (s t : State) : when c s t = t := by rw [h, when_true]

theorem exec_vavgUpdate (mv10 : Nat) (s : State) : exec (.vavgUpdate mv10) s = execVavgUpdate mv10 s := rfl
theorem exec_holdupMeasurementStart (v1 : Nat) (s : State) :
    exec (.holdupMeasurementStart v1) s = execHoldupMeasurementStart v1 s := rfl
theorem exec_holdupMeasurementEnd (v2 uj : Nat) (s : State) :
    exec (.holdupMeasurementEnd v2 uj) s = execHoldupMeasurementEnd v2 uj s := rfl
theorem exec_temperatureThresholdCrossed (sensor : Nat) (reading : Int) (s : State) :
    exec (.temperatureThresholdCrossed sensor reading) s = execTemperatureThresholdCrossed sensor reading s := rfl
theorem exec_pilotLoopEval (k raw x : Nat) (s : State) : exec (.pilotLoopEval k raw x) s = execPilotLoopEval k raw x s := rfl

/-- A sensor takes its reading; the other sensors keep theirs, and SMART's warning follows (R497). -/
theorem execTemperature_spec {s : State} {sensor : Nat} (reading : Int) (h1 : 1 ≤ sensor) (h2 : sensor ≤ 0x19)
    (hon : s.power.on ≠ []) :
    completes (.temperatureThresholdCrossed sensor reading) s (fun t =>
      dget t 0x3100 sensor = unsigned32 reading ∧ bitOf t.host.smartWarn 1 = (List.range 6).any (beyond t) ∧
      (∀ k, k ≠ sensor → k < 0x20 → dget t 0x3100 k = dget s 0x3100 k)) := by
  refine ⟨settleTemp (dset s 0x3100 sensor (unsigned32 reading)), ?_, ?_, warn_settleTemp _, fun k hne hk => ?_⟩
  · rw [exec_temperatureThresholdCrossed, execTemperatureThresholdCrossed, when_of (by simp [h1, h2, hon])]
  · rw [dget_settleTemp _ _ (by omega), dget_dset_same]
  · rw [dget_settleTemp _ _ hk, dget_dset_other _ _ _ _ _ _ (dk_ne _ _ _ _ (by omega) (by omega) (.inr hne))]

/-- An evaluation of a slot that runs (R399 to R402). -/
theorem execPilotLoopEval_spec {s : State} {k : Nat} (raw x : Nat) (hk : k < 22)
    (hrun : (tabGet Pilot.empty s.power.pilots k).run = true) (hon : s.power.on ≠ []) :
    exec (.pilotLoopEval k raw x) s = .next (evalSlot s k raw x) := by
  rw [exec_pilotLoopEval, execPilotLoopEval, when_of (by simp [hk, hrun, hon])]

/-- Settles O54: each clause is the named lemma about its operation. -/
theorem holdupTemperatureAndPilotLoops : Obligations.HoldupTemperatureAndPilotLoops := by
  unfold Obligations.HoldupTemperatureAndPilotLoops
  refine ⟨fun s mv10 v1 v2 uj sensor reading => ⟨fun hm hon => ?_, fun hb hi hd hm hp => ⟨fun hdue => ?_, fun hdue => ?_⟩,
    fun hm => ?_, execTemperature_spec reading⟩, fun s k raw x => ?_⟩
  case refine_1 => rw [exec_vavgUpdate, execVavgUpdate, when_of (by simp [hm, hon])]
  case refine_2 =>
    rw [exec_holdupMeasurementStart, execHoldupMeasurementStart, when_of (by simp [hb, hi, hd, hm, hp, hdue])]
  case refine_3 => simp only [exec_holdupMeasurementStart, execHoldupMeasurementStart, hdue, Bool.and_false, when_false]
  case refine_4 =>
    exact ⟨holdupEnd s v1 v2 uj, by simp only [exec_holdupMeasurementEnd, execHoldupMeasurementEnd, hm],
      holdupEnd_spec s v1 v2 uj⟩
  case refine_5 =>
    intro p th m v hk hrun hon hd hn
    refine ⟨_, execPilotLoopEval_spec raw x hk hrun hon, ?_⟩
    obtain ⟨hpilots, hhost⟩ := evalSlot_pilots s k raw x
    intro q acc
    have hq : q = pilotAfter s k raw x := by simp [q, hpilots]
    have hacc : acc = lawAcc s k raw x := by
      simp only [acc, hq]
      rfl
    rw [hq, hacc]
    exact ⟨(duty_bounds hd _).1, (duty_bounds hd _).2, rfl, rfl, rfl, rfl, rfl, rfl, rfl, pilotAfter_inside,
      regionOf_next s k v hn, regionOf_own s k v, fun j hj => by rw [hpilots, tabGet_set_other _ _ _ _ _ hj], hhost⟩

end Sys2Proof.Machine
end

section
/-!
SUPPORT. The docket table; the commit of a write, its flash program, Flush and deallocation (R19, R20, R32, R68, R96,
R125, R141, R376).
-/
namespace Sys2Proof.Machine

/-! ### Entries of a sparse table -/

section Entries
variable {α : Type}

theorem mem_tabPut_self (t : Tab α) (k : Nat) (v : α) : (k, v) ∈ tabPut t k v := by
  induction t with
  | nil => simp [tabPut]
  | cons e t ih =>
    simp only [tabPut]
    split
    · simp
    · split <;> simp [ih]

theorem mem_tabPut_of_ne {t : Tab α} {k : Nat} {e : Nat × α} (v : α) (h : e ∈ t) (hne : e.1 ≠ k) :
    e ∈ tabPut t k v := by
  induction t with
  | nil => cases h
  | cons x t ih =>
    simp only [tabPut]
    split
    · exact List.mem_cons_of_mem _ h
    · split
      next heq =>
        rcases List.mem_cons.mp h with rfl | ht
        · exact absurd heq.symm hne
        · exact List.mem_cons_of_mem _ ht
      next =>
        rcases List.mem_cons.mp h with rfl | ht
        · exact List.mem_cons_self
        · exact List.mem_cons_of_mem _ (ih ht)

theorem mem_of_mem_tabPut {t : Tab α} {k : Nat} {v : α} {e : Nat × α} (h : e ∈ tabPut t k v) :
    e = (k, v) ∨ e ∈ t := by
  induction t with
  | nil => simpa [tabPut] using h
  | cons x t ih =>
    simp only [tabPut] at h
    split at h
    · exact List.mem_cons.mp h
    · split at h
      · exact (List.mem_cons.mp h).imp_right (List.mem_cons_of_mem _)
      · rcases List.mem_cons.mp h with rfl | ht
        · exact .inr List.mem_cons_self
        · exact (ih ht).imp_right (List.mem_cons_of_mem _)

variable [DecidableEq α]

theorem tabWfFrom_lt {d : Nat → α} {t : Tab α} {lo : Nat} (h : tabWfFrom d (some lo) t = true) {e : Nat × α}
    (he : e ∈ t) : lo < e.1 := by
  induction t generalizing lo with
  | nil => cases he
  | cons x t ih =>
    simp only [tabWfFrom, Bool.and_eq_true, decide_eq_true_eq] at h
    obtain ⟨⟨hlo, _⟩, ht⟩ := h
    rcases List.mem_cons.mp he with rfl | he
    · exact hlo
    · exact hlo.trans (ih ht he)

/-- A canonical table lists a key once. -/
theorem tabGet_of_mem {d : α} {t : Tab α} (h : tabWf d t = true) {k : Nat} {v : α} (he : (k, v) ∈ t) :
    tabGet d t k = v := by
  unfold tabWf at h
  generalize (none : Option Nat) = lo at h
  induction t generalizing lo with
  | nil => cases he
  | cons x t ih =>
    simp only [tabWfFrom, Bool.and_eq_true] at h
    obtain ⟨_, ht⟩ := h
    simp only [tabGet]
    rcases List.mem_cons.mp he with rfl | he
    · exact if_pos rfl
    · rw [if_neg (tabWfFrom_lt ht he).ne, ih he _ ht]

end Entries

/-! ### Docket entries -/

theorem dockets_setDk (s : State) (d : Nat) {e : Docket} (h : e ≠ Docket.free) :
    (setDk s d e).host.dockets = tabPut s.host.dockets d e := by
  simp [setDk, tabSet, h]

/-- An entry that is not closed is listed. -/
theorem ne_free_of_word {e : Docket} {w : StateWord} (h : e.word = w) (hw : w ≠ .closed) : e ≠ Docket.free := by
  rintro rfl
  exact hw h.symm

@[simp] theorem getDk_begun (s : State) (d : Nat) : getDk (begun s d) d = { getDk s d with started := true } := by
  simp [begun, modDk]

/-- What the row of an I/O command finds (R61). -/
theorem dkStart_iff (s : State) (d : Nat) (k : IoKind) : dkStart s d k = true ↔
    dkUsed s d = true ∧ (getDk s d).sqe.kind = k ∧ (getDk s d).word = .admitted ∧ (getDk s d).stalled = false ∧
      (getDk s d).started = false ∧ s.power.dumping = false := by
  simp [dkStart, and_assoc]

theorem dockets_begun {s : State} {d : Nat} {k : IoKind} (h : dkStart s d k = true) :
    (begun s d).host.dockets = tabPut s.host.dockets d { getDk s d with started := true } := by
  obtain ⟨_, _, hw, _⟩ := (dkStart_iff s d k).mp h
  exact dockets_setDk _ _ (ne_free_of_word (w := .admitted) hw (by decide))

/-! ### Rows -/

theorem exec_flush (d : Nat) (s : State) : exec (.flush d) s = execFlush d s := rfl
theorem exec_writeCommit (d : Nat) (s : State) : exec (.writeCommit d) s = execWriteCommit d s := rfl
theorem exec_ackLapse (d : Nat) (s : State) : exec (.ackLapse d) s = execAckLapse d s := rfl
theorem exec_flashProgramComplete (d : Nat) (r : ProgramResult) (s : State) :
    exec (.flashProgramComplete d r) s = execFlashProgramComplete d r s := rfl

/-! ### Commit (Table 1.4) -/

/-- A commit posts the completion: the entry is committed and posted (R20). -/
theorem getDk_dkCommitPost (s : State) (d a b : Nat) :
    (getDk (dkCommitPost s d a b) d).word = .committed ∧ (getDk (dkCommitPost s d a b) d).posted = true := by
  simp [dkCommitPost]

/-- A host's write that is still to be programmed commits with its completion alone (R20). -/
theorem writeCommit_host {s : State} {d : Nat} (hp : (getDk s d).programmed = false)
    (hm : (getDk s d).mirrorOf = none) :
    let e := getDk s d
    let lba := if e.sqe.kind = .zoneAppend then e.aux else 0
    writeCommit s d = flushCheck (dkCommitPost
      { s with host := { s.host with bytesWritten := s.host.bytesWritten + e.data.length } } d (lba % 2 ^ 32) (lba / 2 ^ 32)) := by
  simp [writeCommit, sendMack, hp, hm]

section Program
variable {s : State} {d : Nat} (hu : dkUsed s d = true) (hk : isWriteKind (getDk s d).sqe.kind = true)
  (hi : (getDk s d).dataIn = true) (hp : (getDk s d).programmed = false)
  (hs : (getDk s d).word = .committed ∨ ((getDk s d).word = .admitted ∧ (getDk s d).healthy = false))
include hu hk hi hp hs

/-- A write's flash program is due once it is committed, or admitted while hold-up is insufficient (R33). -/
theorem program_due : (dkUsed s d && isWriteKind (getDk s d).sqe.kind && (getDk s d).dataIn && !(getDk s d).programmed &&
    ((getDk s d).word == .committed || ((getDk s d).word == .admitted && !(getDk s d).healthy))) = true := by
  rcases hs with hs | ⟨hs, hh⟩ <;> simp [*]

theorem execFlashProgramComplete_ok {l : List Placement} (hl : placesOk s (getDk s d) l = true) :
    execFlashProgramComplete d (.ok l) s = .next (programmed s d l) := by
  simp only [execFlashProgramComplete, program_due hu hk hi hp hs, hl, Bool.and_self, when_true]

/-- A program that fails moves its block (R141). -/
theorem execFlashProgramComplete_failed {b : Nat} (hg : s.media.gdl.contains b = false)
    (hpool : (getBlk s b).pool = 1 ∨ (getBlk s b).pool = 6) :
    execFlashProgramComplete d (.failed b) s = .next (programFailed s b) := by
  have hserves : ((getBlk s b).pool == 1 || (getBlk s b).pool == 6) = true := by simpa using hpool
  simp only [execFlashProgramComplete, program_due hu hk hi hp hs, hg, hserves, Bool.not_false, Bool.and_self, when_true]

end Program

/-- The 8 µs have passed: the write no longer waits for the partner, and is degraded (R376). -/
def ackLapsed (s : State) (d seq : Nat) : State :=
  let e := getDk s d
  let us := (cmdUnits s e.sqe).map (fun u => (⟨e.sqe.nsid, u⟩ : UnitRef))
  let s := { s with pair := { s.pair with awaiting := [], lapsed := s.pair.lapsed ++ [(seq, us)] } }
  bump (setDk s d { e with lapsed := true, degraded := true }) 0x8010 5 1

/-- What the lapse leaves: the write lapsed and degraded, its units marked, and the lapse counted. -/
theorem ackLapsed_spec (s : State) (d seq : Nat) :
    let v := ackLapsed s d seq
    (getDk v d).lapsed = true ∧ (getDk v d).degraded = true ∧ v.pair.awaiting = [] ∧
      v.pair.lapsed = s.pair.lapsed ++ [(seq, (cmdUnits s (getDk s d).sqe).map (fun u => ⟨(getDk s d).sqe.nsid, u⟩))] ∧
      dget v 0x8010 5 = (dget s 0x8010 5 + 1) % counterMax 0x8010 5 := by
  have hentry (e : Docket) (t : State) : getDk (bump (setDk t d e) 0x8010 5 1) d = e := getDk_setDk t d e
  refine ⟨?_, ?_, rfl, rfl, dget_bump_same _ _ _ _⟩ <;> simp only [ackLapsed, hentry]

theorem execAckLapse_only {s : State} {d seq : Nat} (h : s.pair.awaiting = [(seq, d)]) :
    execAckLapse d s = .next (takeoverEnd (ackLapsed s d seq)) := by
  simp [execAckLapse, ackLapsed, h]

/-! ### Programming (R125, R316, R339, R340) -/

/-- Slots from an address take what `slot` gives each. -/
def slotsPut (f : Tab (Option Slot)) (a n : Nat) (slot : Nat → Slot) : Tab (Option Slot) :=
  (List.range n).foldl (fun f k => tabPut f (a + k) (some (slot k))) f

theorem slotsPut_succ (f : Tab (Option Slot)) (a n : Nat) (slot : Nat → Slot) :
    slotsPut f a (n + 1) slot = tabPut (slotsPut f a n slot) (a + n) (some (slot n)) := by
  simp [slotsPut, List.range_succ]

theorem slotsPut_inside (f : Tab (Option Slot)) (a n : Nat) (slot : Nat → Slot) {k : Nat} (h : k < n) :
    tabGet none (slotsPut f a n slot) (a + k) = some (slot k) := by
  induction n with
  | zero => cases h
  | succ n ih =>
    rw [slotsPut_succ]
    by_cases hk : k = n
    · rw [hk, tabGet_put_same]
    · rw [tabGet_put_other _ _ _ _ _ (by omega), ih (by omega)]

theorem slotsPut_outside (f : Tab (Option Slot)) (a n : Nat) (slot : Nat → Slot) {x : Nat}
    (h : ∀ k < n, x ≠ a + k) : tabGet none (slotsPut f a n slot) x = tabGet none f x := by
  induction n with
  | zero => rfl
  | succ n ih =>
    rw [slotsPut_succ, tabGet_put_other _ _ _ _ _ (h n (by omega)), ih fun k hk => h k (by omega)]

/-- What slot `k` of a placement holds: the unit's bytes, sealed under the namespace's key, and a landed one's tag. -/
def placedSlot (s : State) (e : Docket) (total pos : Nat) (p : Placement) (k : Nat) : Slot :=
  { data := ((placeForm s e p).drop (k * 4096)).take 4096, key := (getNs s e.sqe.nsid).keyGen
    tag := if p.landed then some (slotTag s e p (pos + k) total k) else none
    sealKey := xtsKey s p.addr e.sqe.nsid, tweak := unitTweak s e p.unit + k, time := s.nowMs }

/-- One placement programs its slots, and changes neither the map, the journal nor the docket table. -/
theorem programSlots_one (s : State) (e : Docket) (total pos : Nat) (p : Placement) :
    let t := programSlots s e total pos [p]
    t.media.flash =
        slotsPut s.media.flash p.addr (ceilDiv (placeForm s e p).length 4096) (placedSlot s e total pos p) ∧
      t.media.cur = s.media.cur ∧ t.media.journal = s.media.journal ∧ t.host.dockets = s.host.dockets := by
  unfold programSlots programSlots
  dsimp only
  split <;> exact ⟨rfl, rfl, rfl, rfl⟩

/-! ### Flush (R32, R68) -/

theorem mem_flushesDue (s : State) (d : Nat) : d ∈ flushesDue s ↔
    ∃ e, (d, e) ∈ s.host.dockets ∧ e.sqe.kind = .flush ∧ e.started = true ∧ e.word = .admitted ∧
      ∀ w ∈ s.host.dockets, flushWaits e w.2 = false := by
  simp only [flushesDue, List.mem_map, List.mem_filter, Prod.exists, exists_and_right, exists_eq_right]
  simp [and_assoc]

section Flush
variable {s : State} {d : Nat}

/-- A Flush with no earlier write to wait for completes (R68). -/
theorem flush_due (h : dkStart s d .flush = true) (hw : ∀ w ∈ s.host.dockets, flushWaits (getDk s d) w.2 = false) :
    d ∈ flushesDue (begun s d) := by
  obtain ⟨_, hkind, hword, _⟩ := (dkStart_iff s d .flush).mp h
  rw [mem_flushesDue, dockets_begun h]
  refine ⟨_, mem_tabPut_self _ _ _, hkind, rfl, hword, fun w hmem => ?_⟩
  rcases mem_of_mem_tabPut hmem with rfl | hmem
  · have hself : isWriteKind (getDk s d).sqe.kind = false := by rw [hkind]; rfl
    simp [flushWaits, hself]
  · exact hw w hmem

/-- A Flush with an earlier write still waiting does not (R68). -/
theorem flush_not_due (h : dkStart s d .flush = true) (hwf : tabWf Docket.free s.host.dockets = true)
    (hw : ∃ w ∈ s.host.dockets, w.1 ≠ d ∧ flushWaits (getDk s d) w.2 = true) : d ∉ flushesDue (begun s d) := by
  obtain ⟨w, hmem, hne, hwaits⟩ := hw
  rw [mem_flushesDue]
  rintro ⟨e, he, _, _, _, hnone⟩
  have hbegun : e = { getDk s d with started := true } := by
    rw [← getDk_begun]
    exact (tabGet_of_mem (tabSet_wf _ _ _ _ hwf) he).symm
  have hfree : flushWaits e w.2 = false := hnone w (by rw [dockets_begun h]; exact mem_tabPut_of_ne _ hmem hne)
  rw [hbegun] at hfree
  exact Bool.false_ne_true (hfree.symm.trans hwaits)

theorem execFlush_runs (h : dkStart s d .flush = true) (hk : rekeying s (getDk s d).sqe.nsid = false)
    (ha : (getDk s d).sqe.nsid = 0xFFFFFFFF ∨ attachedTo s (getDk s d).fn (getDk s d).sqe.nsid = true) :
    execFlush d s = .next (flushCheck (begun s d)) := by
  have hno : ¬ ((getDk s d).sqe.nsid ≠ 0xFFFFFFFF ∧ !attachedTo s (getDk s d).fn (getDk s d).sqe.nsid) := by
    rintro ⟨hns, hna⟩
    rcases ha with ha | ha
    · exact hns ha
    · simp [ha] at hna
  rw [execFlush, io_started h]
  dsimp only
  rw [hk, if_neg Bool.false_ne_true, if_neg hno]
  rfl

theorem execFlush_refused (h : dkStart s d .flush = true) (hk : rekeying s (getDk s d).sqe.nsid = false)
    (hn : (getDk s d).sqe.nsid ≠ 0xFFFFFFFF) (ha : attachedTo s (getDk s d).fn (getDk s d).sqe.nsid = false) :
    execFlush d s = .next (ioFail s d .invalidNamespaceOrFormat) := by
  rw [execFlush, io_started h]
  dsimp only
  rw [hk, if_neg Bool.false_ne_true, if_pos ⟨hn, by simp [ha]⟩]

end Flush

/-! ### Dataset Management -/

@[simp] theorem getNs_begun (s : State) (d n : Nat) : getNs (begun s d) n = getNs s n := rfl

section Deallocate
variable {s : State} {d : Nat} (h : dkStart s d .datasetManagement = true) (hr : runsHere s d = true)
  (hlen : (getDk s d).sqe.ranges.length ≤ 256)
include h hr hlen

/-- Without Deallocate nothing is done. -/
theorem execDatasetManagement_keeps (hf : (getDk s d).sqe.flag = false) :
    execDatasetManagement d s = .next (ioOk (begun s d) d) := by
  rw [execDatasetManagement, io_started h, onNs_runs hr]
  simp [dsm, hf, Nat.not_lt.mpr hlen]

/-- Deallocate unmaps the units that the ranges cover whole, by one record each. -/
theorem execDatasetManagement_deallocates (hf : (getDk s d).sqe.flag = true)
    (hz : (getNs s (getDk s d).sqe.nsid).zoned = false) (hd : writesDegraded s (getDk s d).sqe.nsid = false) :
    execDatasetManagement d s = .next (recordCommand (begun s d) d
      ((((getDk s d).sqe.ranges.map (wholeUnits s (getDk s d).sqe.nsid)).flatten).map
        (fun u => jrec 0x02 (getDk s d).sqe.nsid u 1 0 0))) := by
  have hdegraded : writesDegraded (begun s d) (getDk s d).sqe.nsid = false := hd
  have hwhole : wholeUnits (begun s d) = wholeUnits s := rfl
  rw [execDatasetManagement, io_started h, onNs_runs hr]
  simp [dsm, hf, hz, hdegraded, hwhole, Nat.not_lt.mpr hlen, wordRec, b2n]

end Deallocate

/-- Settles O34: a write's commit, its lapse and its program, a placement's slots, Flush and deallocation, each by the
lemma about its operation. -/
theorem writesCommitAndAreProgrammed : Obligations.WritesCommitAndAreProgrammed := by
  unfold Obligations.WritesCommitAndAreProgrammed
  refine ⟨fun s d bad l hused => ?_, fun s e total pos k p hk => ?_, fun s d => ?_⟩
  case refine_1 =>
    intro e
    refine ⟨fun hc hp hm => ⟨?_, getDk_dkCommitPost _ _ _ _⟩, fun hc => ?_, fun hw hi hp hs =>
        ⟨execFlashProgramComplete_ok hused hw hi hp hs, execFlashProgramComplete_failed hused hw hi hp hs⟩,
      fun seq ha ht => ⟨_, execAckLapse_only ha, ackLapsed s d seq, rfl, ackLapsed_spec s d seq⟩⟩
    · rw [exec_writeCommit, execWriteCommit, when_of hc, writeCommit_host hp hm]
    · rw [exec_writeCommit, execWriteCommit, hc, when_false]
  case refine_2 =>
    obtain ⟨hflash, hcur, hjournal, hdockets⟩ := programSlots_one s e total pos p
    refine ⟨?_, fun a ha => ?_, hcur, hjournal, hdockets⟩
    · rw [hflash, slotsPut_inside _ _ _ _ hk]
      rfl
    · rw [hflash, slotsPut_outside]
      rintro j hj rfl
      exact ha (by simp [placeSlots]; exact ⟨j, hj, Nat.add_comm _ _⟩)
  case refine_3 =>
    intro e
    refine ⟨fun h hk ha => ⟨execFlush_runs h hk ha, flush_due h, fun hw hwf => flush_not_due h hwf hw⟩,
      execFlush_refused, fun h hr hlen =>
      ⟨execDatasetManagement_keeps h hr hlen, execDatasetManagement_deallocates h hr hlen⟩⟩

end Sys2Proof.Machine
end

section
/-!
SUPPORT. The write flow from its start to step 4 (Table 1.5, R18 to R20, R84, R93, R111).
-/
namespace Sys2Proof.Machine

/-! ### The docket table under a write to one entry -/

theorem tabPut_tabPut {α : Type} (t : Tab α) (k : Nat) (v w : α) : tabPut (tabPut t k v) k w = tabPut t k w := by
  induction t with
  | nil => simp [tabPut]
  | cons e t ih =>
    simp only [tabPut]
    split
    next => simp [tabPut]
    next =>
      split
      next => simp [tabPut]
      next h1 h2 => simp [tabPut, h1, h2, ih]

theorem tabGet_of_tabFind {α : Type} (d : α) {t : Tab α} {k : Nat} {v : α} (h : tabFind t k = some v) :
    tabGet d t k = v := by
  induction t with
  | nil => cases h
  | cons e t ih =>
    simp only [tabFind] at h
    simp only [tabGet]
    split at h
    next hk => rw [if_pos hk]; exact Option.some.inj h
    next hk => rw [if_neg hk]; exact ih h

theorem mem_of_tabFind {α : Type} {t : Tab α} {k : Nat} {v : α} (h : tabFind t k = some v) : (k, v) ∈ t := by
  induction t with
  | nil => cases h
  | cons e t ih =>
    simp only [tabFind] at h
    split at h
    next hk => rw [← hk, ← Option.some.inj h]; exact List.mem_cons_self
    next => exact List.mem_cons_of_mem _ (ih h)

/-- A sum over a canonical table changes by what the entry that is written adds. -/
theorem sum_tabPut {α : Type} [DecidableEq α] {d : Nat → α} {lo : Option Nat} (f : Nat × α → Nat) {t : Tab α} {k : Nat}
    {w : α} (v : α) (hwf : tabWfFrom d lo t = true) (h : tabFind t k = some w) :
    ((tabPut t k v).map f).sum + f (k, w) = (t.map f).sum + f (k, v) := by
  induction t generalizing lo with
  | nil => cases h
  | cons e t ih =>
    obtain ⟨j, x⟩ := e
    simp only [tabWfFrom, Bool.and_eq_true] at hwf
    simp only [tabFind] at h
    simp only [tabPut]
    split at h
    next hj =>
      cases h
      subst hj
      simp only [lt_irrefl, if_false, if_true, List.map_cons, List.sum_cons]
      omega
    next hj =>
      have hlt : j < k := tabWfFrom_lt hwf.2 (mem_of_tabFind h)
      rw [if_neg (by omega), if_neg (by omega)]
      have := ih hwf.2 h
      simp only [List.map_cons, List.sum_cons]
      omega

theorem setDk_setDk (s : State) (d : Nat) {e e' : Docket} (h : e ≠ Docket.free) (h' : e' ≠ Docket.free) :
    setDk (setDk s d e) d e' = setDk s d e' := by
  simp only [setDk, tabSet, h, h', if_false, tabPut_tabPut]

/-- Two changes of an admitted entry, one after the other. -/
theorem modDk_setDk (s : State) (d : Nat) {e : Docket} {g : Docket → Docket} (h : e.word = .admitted)
    (hg : (g e).word = .admitted) : modDk (setDk s d e) d g = setDk s d (g e) := by
  rw [modDk, getDk_setDk,
    setDk_setDk _ _ (ne_free_of_word h (by decide)) (ne_free_of_word hg (by decide))]

/-! ### The start of a write -/

/-- The command brings data of its own. -/
def bringsData (k : IoKind) : Bool := k != .writeZeroes && k != .writeUncorrectable

/-- The data has the length that the command's LBAs ask for, where it brings any. -/
def rightLength (s : State) (q : Sqe) (data : List Byte) : Prop :=
  bringsData q.kind = true → data.length = q.nlb * lbaBytes (getNs s q.nsid).lbaf

theorem startWrite_wrongLength {s : State} {d : Nat} {data : List Byte}
    (h : ¬ rightLength s (getDk s d).sqe data) : startWrite s d data = ioFail s d .dataTransferError := by
  obtain ⟨hk, hlen⟩ := Classical.not_imp.mp h
  exact if_pos ⟨hk, hlen⟩

/-- Data of the right length passes on to the write's place or to the check of the capacity. -/
theorem startWrite_rightLength {s : State} {d : Nat} {data : List Byte} (h : rightLength s (getDk s d).sqe data) :
    ¬ ((bringsData (getDk s d).sqe.kind = true) ∧
      data.length ≠ (getDk s d).sqe.nlb * lbaBytes (getNs s (getDk s d).sqe.nsid).lbaf) :=
  fun hno => hno.2 (h hno.1)

section Mapped
variable {s : State} {d : Nat} {data : List Byte} (hlen : rightLength s (getDk s d).sqe data)
  (hz : (getNs s (getDk s d).sqe.nsid).zoned = false)
include hlen hz

theorem startWrite_overCapacity (hc : overCapacity s (getDk s d).sqe = true) :
    startWrite s d data = ioFail s d .capacityExceeded := by
  refine (if_neg (startWrite_rightLength hlen)).trans ?_
  dsimp only
  rw [hz, hc, if_neg Bool.false_ne_true, if_pos rfl]

/-- A write that fits reads the rest of the units it covers in part, if they lie on any page (R84). -/
theorem startWrite_fits (hc : overCapacity s (getDk s d).sqe = false) :
    startWrite s d data =
      (let ps := partPages s (getDk s d)
       let s := modDk s d (fun e => { e with data := data, reads := ps, failed := [], partRead := true })
       if ps.isEmpty then finishPart s d [] else s) := by
  refine (if_neg (startWrite_rightLength hlen)).trans ?_
  dsimp only
  rw [hz, hc, if_neg Bool.false_ne_true, if_neg Bool.false_ne_true]

theorem startWrite_reads (hc : overCapacity s (getDk s d).sqe = false) (hp : partPages s (getDk s d) ≠ []) :
    startWrite s d data = modDk s d (fun e =>
      { e with data := data, reads := partPages s (getDk s d), failed := [], partRead := true }) := by
  rw [startWrite_fits hlen hz hc]
  exact if_neg (by simpa using hp)

end Mapped

/-- With no unit covered in part there is no rest to read. -/
theorem finishPart_whole {s : State} {d : Nat} {e : Docket} (hw : e.word = .admitted) (hp : partUnits s e = []) :
    finishPart (setDk s d e) d [] =
      stepThree (setDk s d { e with reads := [], failed := [], partRead := false }) d := by
  have hnone : partUnits (setDk s d e) e = [] := hp
  simp only [finishPart, getDk_setDk, hnone, noteUnits, List.filter_nil, List.foldl_nil, List.length_nil]
  rw [if_neg (by simp), modDk_setDk _ _ hw hw]

/-- A write that covers its units whole goes on to step 3 at once. -/
theorem startWrite_whole {s : State} {d : Nat} {e : Docket} {data : List Byte} (hw : e.word = .admitted)
    (hlen : rightLength s e.sqe data) (hz : (getNs s e.sqe.nsid).zoned = false)
    (hc : overCapacity (setDk s d e) e.sqe = false) (hp : partUnits s e = []) :
    startWrite (setDk s d e) d data =
      stepThree (setDk s d { e with data := data, reads := [], failed := [], partRead := false }) d := by
  have hpages : partPages (setDk s d e) e = [] := by
    simp [partPages, show partUnits (setDk s d e) e = [] from hp]
  rw [startWrite_fits (by rwa [getDk_setDk]) (by rwa [getDk_setDk]) (by rwa [getDk_setDk]), getDk_setDk, hpages]
  dsimp only
  rw [modDk_setDk _ _ hw hw, if_pos List.isEmpty_nil]
  exact finishPart_whole (e := { e with data := data, reads := [], failed := [], partRead := true }) hw hp

/-! ### Step 3 -/

/-- The entry of a write that has reached step 3. -/
def atThree (e : Docket) : Docket := { e with heldAt3 := true }

/-- A write past the journal window is held at step 3 (R111). -/
theorem stepThree_held {s : State} {d : Nat} {e : Docket} (hw : e.word = .admitted) (h : s.media.windowHeld = true) :
    stepThree (setDk s d e) d = setDk s d (atThree e) := by
  simp [stepThree, atThree, modDk_setDk, hw, h]

/-- Nothing holds a write at step 3: neither the journal window nor pacing nor a request that waits, and it owns and
asks for no berth yet. -/
structure Unheld (s : State) (d : Nat) (e : Docket) : Prop where
  window : s.media.windowHeld = false
  paced  : s.media.paced = false
  berths : e.berths = []
  asked  : ownAsked s (dkReq e d) = 0
  held   : s.pool.held = []

/-- Berths that count as write data: those of an entry that owns and asks for none are none. -/
theorem writeBerths_setDk {s : State} {d : Nat} {e : Docket} (hwf : tabWf Docket.free s.host.dockets = true)
    (hu : dkUsed s d = true) (h : Unheld s d (getDk s d)) (he : e ≠ Docket.free) (hb : e.berths = [])
    (hm : e.mirrorOf = (getDk s d).mirrorOf) : writeBerths (setDk s d e) = writeBerths s := by
  obtain ⟨x, hx⟩ := Option.isSome_iff_exists.mp hu
  have hget : getDk s d = x := tabGet_of_tabFind _ hx
  have hreq : dkReq e d = dkReq (getDk s d) d := by simp [dkReq, dkTag, hm]
  let f (y : Nat × Docket) : Nat :=
    if y.2.programmed || !isWriteKind y.2.sqe.kind then 0 else y.2.berths.length + ownAsked s (dkReq y.2 y.1)
  have hzero : f (d, x) = 0 ∧ f (d, e) = 0 := by
    simp only [f, ← hget, hreq, hb, h.berths, h.asked, List.length_nil, ite_self, and_self]
  have hsum : ((tabPut s.host.dockets d e).map f).sum + f (d, x) = (s.host.dockets.map f).sum + f (d, e) :=
    sum_tabPut f e hwf hx
  change ((setDk s d e).host.dockets.map f).sum = (s.host.dockets.map f).sum
  rw [dockets_setDk _ _ he]
  omega

@[simp] theorem atThree_word (e : Docket) : (atThree e).word = e.word := rfl

/-- An entry that owns and asks for no berth asks for all it needs. -/
theorem dkAsks_all {s : State} {d : Nat} {e : Docket} (n : Nat) (hb : e.berths = [])
    (ha : ownAsked s (dkReq e d) = 0) :
    dkAsks (setDk s d e) d n = (List.range n).foldl (fun s _ => dkAsk s d) (setDk s d e) := by
  have ha' : ownAsked (setDk s d e) (dkReq e d) = 0 := ha
  simp only [dkAsks, getDk_setDk, ha']
  rw [hb, List.length_nil, Nat.sub_zero, Nat.sub_zero]

/-- An unheld write asks for its berths one after another, and goes on to step 4 once it has them all (R19, R165). -/
theorem stepThree_unheld {s : State} {d : Nat} {e : Docket} (hw : e.word = .admitted) (h : Unheld s d e)
    (hlim : writeBerths (setDk s d (atThree e)) + berthsFor e.data.length ≤ 65536) :
    stepThree (setDk s d e) d =
      (let t := (List.range (berthsFor e.data.length)).foldl (fun s _ => dkAsk s d) (setDk s d (atThree e))
       if (getDk t d).berths.length = berthsFor e.data.length then stepFour t d else t) := by
  obtain ⟨hwin, hpac, hber, hask, _⟩ := h
  have hpaced : pacedOut (setDk s d (atThree e)) e = false := by simp [pacedOut, hpac]
  have hopen : ¬ ((setDk s d (atThree e)).media.windowHeld = true ∨ pacedOut (setDk s d (atThree e)) e = true) := by
    simp [hwin, hpaced]
  have hroom : ¬ 65536 < writeBerths (setDk s d (atThree e)) +
      (berthsFor e.data.length - e.berths.length - ownAsked (setDk s d (atThree e)) (dkReq e d)) := by omega
  have hthree : modDk (setDk s d e) d (fun e => { e with heldAt3 := true }) = setDk s d (atThree e) :=
    modDk_setDk s d hw hw
  simp only [stepThree, getDk_setDk]
  rw [hthree, if_neg hopen, if_neg hroom, dkAsks_all (e := atThree e) _ hber hask]

/-- A write without data needs no berth. -/
theorem stepThree_noData {s : State} {d : Nat} {e : Docket} (hw : e.word = .admitted) (h : Unheld s d e)
    (hd : e.data = []) (hlim : writeBerths (setDk s d (atThree e)) ≤ 65536) :
    stepThree (setDk s d e) d = stepFour (setDk s d (atThree e)) d := by
  have hn : berthsFor e.data.length = 0 := by simp [berthsFor, ceilDiv, hd]
  rw [stepThree_unheld hw h (by omega), hn]
  simp [atThree, h.berths]

theorem getBerth_noteLow (s : State) (far : Bool) (a : Nat) : getBerth (noteLow s far) a = getBerth s a := by
  simp only [noteLow]
  split
  · rfl
  · split <;> rfl

/-- The pool once its topmost far berth is a write's (R155). -/
def farPool (s : State) (tag a : Nat) (rest : List Nat) : Pool :=
  (noteLow (setBerth (setStack s true rest) a ⟨true, tag, [], none⟩) true).pool

/-- Taking the topmost far berth changes the pool alone. -/
def farTaken (s : State) (tag a : Nat) (rest : List Nat) : State := { s with pool := farPool s tag a rest }

theorem farTaken_eq (s : State) (tag a : Nat) (rest : List Nat) :
    farTaken s tag a rest = noteLow (setBerth (setStack s true rest) a ⟨true, tag, [], none⟩) true := by
  simp [farTaken, farPool, noteLow, setBerth, setStack]

theorem getBerth_farTaken (s : State) (tag a : Nat) (rest : List Nat) :
    getBerth (farTaken s tag a rest) a = ⟨true, tag, [], none⟩ := by
  rw [farTaken_eq, getBerth_noteLow, getBerth_setBerth]

theorem dkReq_formed (e : Docket) (d : Nat) : brFormed (dkReq e d).req = true := by
  change brFormed { w0 := 0x30, w1 := 0, w2 := 0, w3 := 0, w4 := 0 } = true
  decide

theorem dkReq_far (e : Docket) (d : Nat) : brFar (dkReq e d).req = true := by
  change brFar { w0 := 0x30, w1 := 0, w2 := 0, w3 := 0, w4 := 0 } = true
  decide

/-- A write's request takes the topmost far berth of the stack where no other request waits before it (R155). -/
theorem dkAsk_stack {s : State} {d a : Nat} {rest : List Nat} {e : Docket} (hh : s.pool.held = [])
    (hs : s.pool.farStack = a :: rest) (hw : e.word = .admitted) :
    dkAsk (setDk s d e) d = setDk (farTaken s (dkTag e d) a rest) d { e with berths := e.berths ++ [a] } := by
  have hport : (dkReq e d).who.port ≠ 19 := by simp only [dkReq, ownAlloc]; split <;> decide
  have hunheld : portHeld (setDk s d e) (dkReq e d).who.port = false := by simp [portHeld, hh]
  have htake : poolTake (setDk s d e) true (dkReq e d).tag =
      some (a, setDk (farTaken s (dkTag e d) a rest) d e) := by
    simp only [poolTake, hotStack, show (setDk s d e).pool = s.pool from rfl, hs]
    rfl
  simp only [dkAsk, getDk_setDk]
  rw [hunheld, if_neg Bool.false_ne_true]
  simp only [allocAct, dkReq_formed, dkReq_far, htake, allocGot, Bool.not_true, if_neg Bool.false_ne_true]
  rw [if_pos (show (dkReq e d).who.index = 32 from rfl), if_neg hport]
  exact modDk_setDk _ _ hw hw

/-! ### Step 4 -/

/-- Far berths filled with a write's data, 64 KiB each. -/
def berthsFilled (m : Tab Byte) (berths : List Nat) (data : List Byte) : Tab Byte :=
  berths.zipIdx.foldl (fun m x => memWrite m x.1 ((data.drop (x.2 * 65536)).take 65536)) m

/-- A fold that writes memory changes memory alone. -/
theorem foldl_dram {α : Type} (g : α → Tab Byte → Tab Byte) (l : List α) (s : State) :
    l.foldl (fun s x => { s with dram := g x s.dram }) s = { s with dram := l.foldl (fun m x => g x m) s.dram } := by
  induction l generalizing s with
  | nil => rfl
  | cons x l ih => exact ih _

/-- The entry of a write of a single module whose data is in. -/
def settled (s : State) (e : Docket) : Docket :=
  { e with heldAt3 := false, dataIn := true, issueJsn := s.media.jsn, programmed := (flashUnits s e).isEmpty, acked := true }

@[simp] theorem settled_word (s : State) (e : Docket) : (settled s e).word = e.word := rfl

/-- The state once the data of the write at `e` is in its berths. -/
def moved (s : State) (e : Docket) (landed : List (Nat × Nat)) : State :=
  { s with media := { s.media with landed := landed }, dram := berthsFilled s.dram e.berths e.data }

theorem mirrorsTo_single {s : State} (hp : s.pair.state = 0) (n : Nat) : mirrorsTo s n = false := by simp [mirrorsTo, hp]

theorem writesDegraded_single {s : State} (hp : s.pair.state = 0) (n : Nat) : writesDegraded s n = false := by
  simp [writesDegraded, hp]

/-- A single module moves a write's data into its berths, and waits for no partner (R18 to R20). -/
theorem stepFour_single {s : State} {d : Nat} {e : Docket} (hp : s.pair.state = 0) (he : e ≠ Docket.free) :
    ∃ landed, stepFour (setDk s d e) d = setDk (moved s e landed) d (settled s e) := by
  refine ⟨(e.data.length, s.nowMs) :: s.media.landed.filter (fun x => decide (s.nowMs < x.2 + 10)), ?_⟩
  have hset : settled s e ≠ Docket.free := fun hno => by simpa [settled, Docket.free] using congrArg Docket.dataIn hno
  simp only [stepFour, getDk_setDk]
  rw [foldl_dram (fun (x : Nat × Nat) m => memWrite m x.1 ((e.data.drop (x.2 * 65536)).take 65536))]
  rw [mirrorsTo_single (by exact hp), writesDegraded_single (by exact hp)]
  simp only [Bool.false_and, Bool.or_false, Bool.not_false, Bool.true_or, if_neg Bool.false_ne_true]
  exact setDk_setDk (moved s e _) d he hset

/-! ### Write commands of a single module -/

/-- The entry of a command that has begun. -/
def started (s : State) (d : Nat) : Docket := { getDk s d with started := true }

/-- The entry of a write whose data has come and that has no rest of a unit to read. -/
def filled (e : Docket) (data : List Byte) : Docket :=
  { e with data := data, reads := [], failed := [], partRead := false }

/-- The entry of a write that owns one berth. -/
def owning (e : Docket) (a : Nat) : Docket := { e with berths := [a] }

@[simp] theorem started_word (s : State) (d : Nat) : (started s d).word = (getDk s d).word := rfl
@[simp] theorem filled_word (e : Docket) (data : List Byte) : (filled e data).word = e.word := rfl
@[simp] theorem owning_word (e : Docket) (a : Nat) : (owning e a).word = e.word := rfl

/-- The units that a command covers are all covered whole. -/
def whole (s : State) (q : Sqe) : Prop := ∀ k ∈ cmdUnits s q, fullUnit s q k = true

theorem notFull_of_whole {s : State} {q : Sqe} (h : whole s q) :
    (cmdUnits s q).filter (fun u => !fullUnit s q u) = [] := by
  simpa [List.filter_eq_nil_iff, whole] using h

theorem partUnits_of_whole {s : State} {e : Docket} (h : whole s e.sqe) : partUnits s e = [] := by
  simp [partUnits, notFull_of_whole h]

/-- Zeroes that deallocate whole units take none of the capacity. -/
theorem overCapacity_deallocates {s : State} {q : Sqe} (hk : q.kind = .writeZeroes) (hf : q.flag = true) (h : whole s q) :
    overCapacity s q = false := by
  have hnone : unitsUsed s q = [] := by simpa [unitsUsed, hk, hf, whole] using h
  simp [overCapacity, hnone]

/-- Data of one berth at most needs one (R19). -/
theorem berthsFor_one {n : Nat} (hpos : 0 < n) (hle : n ≤ 65536) : berthsFor n = 1 := by
  simp only [berthsFor, ceilDiv]
  omega

/-- What leaves a write unheld does not change as it begins and its data comes. -/
theorem unheld_filled {s : State} {d : Nat} (h : Unheld s d (getDk s d)) (data : List Byte) :
    Unheld s d (filled (started s d) data) :=
  ⟨h.window, h.paced, h.berths, h.asked, h.held⟩

section Begun
variable {s : State} {d : Nat} {k : IoKind} (hs : dkStart s d k = true)
include hs

theorem startWrite_begun {data : List Byte} (hz : (getNs s (getDk s d).sqe.nsid).zoned = false)
    (hlen : rightLength s (getDk s d).sqe data) (hc : overCapacity (begun s d) (getDk s d).sqe = false)
    (hparts : partUnits s (getDk s d) = []) :
    startWrite (begun s d) d data = stepThree (setDk s d (filled (started s d) data)) d := by
  obtain ⟨_, _, hw, _⟩ := (dkStart_iff s d k).mp hs
  exact startWrite_whole (e := started s d) hw hlen hz hc hparts

/-- The berths that count as write data are the same once the write has come to step 3. -/
theorem writeBerths_begun (hwf : tabWf Docket.free s.host.dockets = true) (h : Unheld s d (getDk s d)) (data : List Byte) :
    writeBerths (setDk s d (atThree (filled (started s d) data))) = writeBerths s := by
  obtain ⟨hu, _, hw, _⟩ := (dkStart_iff s d k).mp hs
  exact writeBerths_setDk hwf hu h (ne_free_of_word (w := .admitted) hw (by decide)) h.berths rfl

/-- An unheld write of one berth takes the topmost far berth and moves its data into it. -/
theorem stepThree_oneBerth (hwf : tabWf Docket.free s.host.dockets = true) (hp : s.pair.state = 0) {data : List Byte}
    (hpos : 0 < data.length) (hle : data.length ≤ 65536) (h : Unheld s d (getDk s d))
    (hlim : writeBerths s + 1 ≤ 65536) {a : Nat} {rest : List Nat} (hstack : s.pool.farStack = a :: rest) :
    let e := owning (atThree (filled (started s d) data)) a
    let v := farTaken s (dkTag (getDk s d) d) a rest
    ∃ landed, stepThree (setDk s d (filled (started s d) data)) d = setDk (moved v e landed) d (settled v e) := by
  obtain ⟨_, _, hw, _⟩ := (dkStart_iff s d k).mp hs
  intro e v
  have hone : berthsFor (filled (started s d) data).data.length = 1 := berthsFor_one hpos hle
  have htake : dkAsk (setDk s d (atThree (filled (started s d) data))) d = setDk v d e := by
    rw [dkAsk_stack (e := atThree (filled (started s d) data)) h.held hstack hw]
    exact congrArg (fun l => setDk v d { atThree (filled (started s d) data) with berths := l ++ [a] }) h.berths
  have hroom : writeBerths (setDk s d (atThree (filled (started s d) data))) + berthsFor data.length ≤ 65536 := by
    rw [writeBerths_begun hs hwf h data, berthsFor_one hpos hle]
    exact hlim
  rw [stepThree_unheld (e := filled (started s d) data) hw (unheld_filled h data) hroom, hone]
  simp only [List.range_one, List.foldl_cons, List.foldl_nil, htake, getDk_setDk]
  rw [if_pos (show e.berths.length = 1 from rfl)]
  exact stepFour_single (s := v) (e := e) hp (ne_free_of_word (w := .admitted) (by simpa [e] using hw) (by decide))

/-- An unheld write without data has its data in at once. -/
theorem stepThree_begun_noData (hwf : tabWf Docket.free s.host.dockets = true) (hp : s.pair.state = 0)
    (h : Unheld s d (getDk s d)) (hlim : writeBerths s ≤ 65536) :
    let e := atThree (filled (started s d) [])
    ∃ landed, stepThree (setDk s d (filled (started s d) [])) d = setDk (moved s e landed) d (settled s e) := by
  obtain ⟨_, _, hw, _⟩ := (dkStart_iff s d k).mp hs
  have hroom : writeBerths (setDk s d (atThree (filled (started s d) []))) ≤ 65536 :=
    (writeBerths_begun hs hwf h []).trans_le hlim
  rw [stepThree_noData (e := filled (started s d) []) hw (unheld_filled h []) rfl hroom]
  exact stepFour_single (s := s) (e := atThree (filled (started s d) [])) hp (ne_free_of_word (w := .admitted) (by simpa using hw) (by decide))

end Begun

/-! ### The rows of the write commands -/

section Rows
variable {s : State} {d : Nat} (hr : runsHere s d = true)
include hr

theorem exec_write_runs (hs : dkStart s d .write = true) (b : List Byte) :
    exec (.write d b) s = .next (startWrite (begun s d) d b) := by
  rw [exec_write, execWrite, io_started hs, onNs_runs hr]

theorem exec_writeUncorrectable_runs (hs : dkStart s d .writeUncorrectable = true) :
    exec (.writeUncorrectable d) s = .next (startWrite (begun s d) d []) := by
  rw [exec_writeUncorrectable, execWriteUncorrectable, io_started hs, onNs_runs hr]

theorem exec_writeZeroes_runs (hs : dkStart s d .writeZeroes = true) :
    exec (.writeZeroes d) s = .next (startWrite (begun s d) d []) := by
  rw [exec_writeZeroes, execWriteZeroes, io_started hs, onNs_runs hr]

theorem exec_zoneAppend_runs (hs : dkStart s d .zoneAppend = true) (b : List Byte) :
    exec (.zoneAppend d b) s = .next (startWrite (begun s d) d b) := by
  rw [exec_zoneAppend, execZoneAppend, io_started hs, onNs_runs hr]

end Rows

/-- A state but for the sizes of the data that landed, which are another's. -/
def landedOf (s t : State) : State := { t with media := { t.media with landed := s.media.landed } }

/-- Step 4 of a write without berths changes the table alone. -/
theorem moved_noData {s t : State} {d : Nat} {e x : Docket} {landed : List (Nat × Nat)} (hb : e.berths = [])
    (ht : t = setDk (moved s e landed) d x) : { landedOf s t with host := s.host } = s := by
  simp only [ht, landedOf, setDk, moved, berthsFilled, hb, List.zipIdx_nil, List.foldl_nil]

/-- A command that brings no data and programs no unit is done with its data as it begins (R18). -/
theorem startWrite_noData {s : State} {d : Nat} {k : IoKind} (hs : dkStart s d k = true) (hk : bringsData k = false)
    (hz : (getNs s (getDk s d).sqe.nsid).zoned = false) (hc : overCapacity (begun s d) (getDk s d).sqe = false)
    (hparts : partUnits s (getDk s d) = []) (hwf : tabWf Docket.free s.host.dockets = true) (hp : s.pair.state = 0)
    (h : Unheld s d (getDk s d)) (hlim : writeBerths s ≤ 65536) (hnone : flashUnits s (getDk s d) = []) :
    let t := startWrite (begun s d) d []
    (getDk t d).programmed = true ∧ (getDk t d).dataIn = true ∧ (getDk t d).berths = [] ∧
      { landedOf s t with host := s.host } = s := by
  obtain ⟨_, hkind, _⟩ := (dkStart_iff s d k).mp hs
  have hlen : rightLength s (getDk s d).sqe [] := fun hno => by rw [hkind, hk] at hno; cases hno
  obtain ⟨landed, ht⟩ := stepThree_begun_noData hs hwf hp h hlim
  intro t
  have ht : t = _ := (startWrite_begun hs hz hlen hc hparts).trans ht
  refine ⟨?_, ?_, ?_, moved_noData (e := atThree (filled (started s d) [])) h.berths ht⟩ <;> rw [ht, getDk_setDk]
  case refine_1 => exact congrArg List.isEmpty hnone
  case refine_2 => rfl
  case refine_3 => exact h.berths

/-- Data of one berth fills that berth. -/
theorem memRead_berthsFilled (m : Tab Byte) (a : Nat) {data : List Byte} (hle : data.length ≤ 65536) :
    memRead (berthsFilled m [a] data) a data.length = data := by
  have hfill : berthsFilled m [a] data = memWrite m a data := by
    simp [berthsFilled, List.take_of_length_le hle]
  rw [hfill, memRead_write]

/-- Moving data into the berth just taken changes the table, the pool and the memory alone. -/
theorem moved_farTaken {s t : State} {d tag a : Nat} {rest : List Nat} {e x : Docket} {landed : List (Nat × Nat)}
    (ht : t = setDk (moved (farTaken s tag a rest) e landed) d x) :
    { landedOf s t with host := s.host, pool := s.pool, dram := s.dram } = s := by
  simp only [ht, landedOf, farTaken, setDk, moved]

theorem dram_moved (s : State) (d : Nat) (e x : Docket) (landed : List (Nat × Nat)) :
    (setDk (moved s e landed) d x).dram = berthsFilled s.dram e.berths e.data := by
  simp only [setDk, moved]

theorem getBerth_moved (s : State) (d a : Nat) (e x : Docket) (landed : List (Nat × Nat)) :
    getBerth (setDk (moved s e landed) d x) a = getBerth s a := by
  simp only [getBerth, setDk, moved]

/-- A write of one berth at most takes the topmost far berth, moves its data into it and waits for no partner. -/
theorem startWrite_oneBerth {s : State} {d : Nat} (hs : dkStart s d .write = true)
    (hz : (getNs s (getDk s d).sqe.nsid).zoned = false) {b : List Byte} (hlen : rightLength s (getDk s d).sqe b)
    (hc : overCapacity (begun s d) (getDk s d).sqe = false)
    (hparts : partUnits s (getDk s d) = []) (hwf : tabWf Docket.free s.host.dockets = true) (hp : s.pair.state = 0)
    (hpos : 0 < b.length) (hle : b.length ≤ 65536) (h : Unheld s d (getDk s d)) (hlim : writeBerths s + 1 ≤ 65536)
    {a : Nat} (ha : s.pool.farStack.head? = some a) :
    let t := startWrite (begun s d) d b
    (getDk t d).berths = [a] ∧ (getDk t d).dataIn = true ∧ (getDk t d).data = b ∧ (getDk t d).acked = true ∧
      (getDk t d).heldAt3 = false ∧ (getDk t d).word = .admitted ∧
      (getBerth t a) = ⟨true, dkTag (getDk s d) d, [], none⟩ ∧ memRead t.dram a b.length = b ∧
      { landedOf s t with host := s.host, pool := s.pool, dram := s.dram } = s := by
  obtain ⟨_, _, hw, _⟩ := (dkStart_iff s d .write).mp hs
  obtain ⟨rest, hstack⟩ := List.head?_eq_some_iff.mp ha
  obtain ⟨landed, ht⟩ := stepThree_oneBerth hs hwf hp hpos hle h hlim hstack
  intro t
  have ht : t = _ := (startWrite_begun hs hz hlen hc hparts).trans ht
  have hberth : getBerth t a = ⟨true, dkTag (getDk s d) d, [], none⟩ := by
    rw [ht, getBerth_moved, getBerth_farTaken]
  have hmem : memRead t.dram a b.length = b := by
    have hdram : t.dram = berthsFilled s.dram [a] b := by rw [ht, dram_moved]; rfl
    rw [hdram, memRead_berthsFilled _ _ hle]
  refine ⟨?_, ?_, ?_, ?_, ?_, ?_, hberth, hmem, moved_farTaken ht⟩ <;> rw [ht, getDk_setDk]
  case refine_6 => simpa using hw
  all_goals rfl

/-- A write past the journal window is held with its data (R111). -/
theorem startWrite_windowHeld {s : State} {d : Nat} {k : IoKind} (hs : dkStart s d k = true)
    (hz : (getNs s (getDk s d).sqe.nsid).zoned = false) {b : List Byte} (hlen : rightLength s (getDk s d).sqe b)
    (hc : overCapacity (begun s d) (getDk s d).sqe = false) (hparts : partUnits s (getDk s d) = [])
    (hheld : s.media.windowHeld = true) :
    startWrite (begun s d) d b = modDk (begun s d) d
      (fun e => { e with data := b, heldAt3 := true, reads := [], failed := [], partRead := false }) := by
  obtain ⟨_, _, hw, _⟩ := (dkStart_iff s d k).mp hs
  rw [startWrite_begun hs hz hlen hc hparts, stepThree_held (e := filled (started s d) b) hw hheld]
  change _ = modDk (setDk s d (started s d)) d _
  rw [modDk_setDk (e := started s d) _ _ hw hw]
  rfl

/-- A zone append stands for the start of its zone alone (R98). -/
theorem startWrite_offZoneStart {s : State} {d : Nat} {b : List Byte} (hk : (getDk s d).sqe.kind = .zoneAppend)
    (hz : (getNs s (getDk s d).sqe.nsid).zoned = true) (hlen : rightLength s (getDk s d).sqe b)
    (hoff : (getDk s d).sqe.slba * lbaSlots (getNs s (getDk s d).sqe.nsid).lbaf % zoneSize ≠ 0) :
    startWrite s d b = ioFail s d .invalidField := by
  have hplace : zonedPlace s (getDk s d).sqe = .error .invalidField := by simp [zonedPlace, hk, hoff]
  refine (if_neg (startWrite_rightLength hlen)).trans ?_
  dsimp only
  rw [hz, if_pos rfl, hplace]

/-- A zoned write of a zone that is open waits at the place it was given where the journal window holds it. -/
theorem startWrite_placeHeld {s : State} {d : Nat} {e : Docket} {b : List Byte} (hw : e.word = .admitted)
    (hk : bringsData e.sqe.kind = true) (hz : (getNs s e.sqe.nsid).zoned = true) (hlen : rightLength s e.sqe b)
    {z w k : Nat} (hplace : zonedPlace (setDk s d e) e.sqe = .ok (setDk s d e, (z, w, k)))
    (hheld : s.media.windowHeld = true) :
    startWrite (setDk s d e) d b = modDk (setDk s d e) d (fun e' => { e' with
      data := b, zoneAt := some (z, w, k), aux := (z * zoneSize + w) / lbaSlots (getNs s e.sqe.nsid).lbaf, heldAt3 := true }) := by
  have hbrings : (e.sqe.kind != .writeZeroes && e.sqe.kind != .writeUncorrectable) = true := hk
  refine (if_neg (startWrite_rightLength (by rwa [getDk_setDk]))).trans ?_
  simp only [getDk_setDk]
  rw [if_pos (show (getNs (setDk s d e) e.sqe.nsid).zoned = true from hz), hplace]
  simp only [hbrings, if_true]
  rw [modDk_setDk _ _ hw hw, modDk_setDk _ _ hw hw]
  exact stepThree_held (e := { e with data := b, zoneAt := some (z, w, k), aux := _ }) hw hheld

/-- Settles O33, from what the start of a write, step 3 and step 4 do to the docket entry, the far pool and its berths. -/
theorem writesMoveIntoFarBerths : Obligations.WritesMoveIntoFarBerths := by
  unfold Obligations.WritesMoveIntoFarBerths
  intro s d a b hr hp hwf hzone e n u idle whole' but
  have hunheld (h : idle) : Unheld s d e := by
    obtain ⟨hwin, hpac, hber, -, hask, hheld⟩ := h
    exact ⟨hwin, hpac, hber, hask, hheld⟩
  have hq : (getDk u d).sqe = e.sqe := by rw [getDk_begun]
  have hpages (x : Docket) : partPages u x = partPages s x := rfl
  have hright (h : b.length = e.sqe.nlb * lbaBytes n.lbaf) : rightLength u (getDk u d).sqe b := by
    rw [hq]
    exact fun _ => h
  refine ⟨fun hs hz => ⟨?_, ?_, ?_, ?_⟩, ?_, ?_, ?_, ?_⟩
  case refine_1 =>
    intro hlen hc hwhole
    have hparts : partUnits s e = [] := partUnits_of_whole hwhole
    refine ⟨fun hpos hle _ hidle hlim ha => ⟨_, exec_write_runs hr hs b, ?_⟩, fun hheld => ?_⟩
    · exact startWrite_oneBerth hs hz (fun _ => hlen) hc hparts hwf hp hpos hle (hunheld hidle) hlim ha
    · rw [exec_write_runs hr hs, startWrite_windowHeld hs hz (fun _ => hlen) hc hparts hheld]
  case refine_2 =>
    intro hlen hc hparts
    have hsome : partPages u (getDk u d) ≠ [] := by rw [getDk_begun]; exact hparts
    rw [exec_write_runs hr hs, startWrite_reads (hright hlen) (hq.symm ▸ hz) (hq.symm ▸ hc) hsome]
    simp only [modDk, hpages]
  case refine_3 =>
    intro hlen
    obtain ⟨_, hk, _⟩ := (dkStart_iff s d .write).mp hs
    have hwrong : ¬ rightLength u (getDk u d).sqe b := by
      rw [hq]
      exact fun h => hlen (h (by rw [hk]; rfl))
    rw [exec_write_runs hr hs, startWrite_wrongLength hwrong]
  case refine_4 =>
    intro hlen hc
    rw [exec_write_runs hr hs, startWrite_overCapacity (hright hlen) (hq.symm ▸ hz) (hq.symm ▸ hc)]
  case refine_5 =>
    intro hs hz hc hidle hlim
    obtain ⟨_, hk, _⟩ := (dkStart_iff s d .writeUncorrectable).mp hs
    exact ⟨_, exec_writeUncorrectable_runs hr hs, startWrite_noData hs rfl hz hc (by simp [partUnits, hk]) hwf hp
      (hunheld hidle) hlim (by simp [flashUnits, hzone, hk])⟩
  case refine_6 =>
    intro hs hz hf hwhole hidle hlim
    obtain ⟨_, hk, _⟩ := (dkStart_iff s d .writeZeroes).mp hs
    have hflash : flashUnits s e = [] := by simpa [flashUnits, hzone, hk, e] using notFull_of_whole hwhole
    exact ⟨_, exec_writeZeroes_runs hr hs, startWrite_noData hs rfl hz (overCapacity_deallocates hk hf hwhole)
      (partUnits_of_whole hwhole) hwf hp (hunheld hidle) hlim hflash⟩
  case refine_7 =>
    intro hs hz hoff hlen
    obtain ⟨_, hk, _⟩ := (dkStart_iff s d .zoneAppend).mp hs
    rw [exec_zoneAppend_runs hr hs,
      startWrite_offZoneStart (hq.symm ▸ hk) (hq.symm ▸ hz) (hright hlen) (hq.symm ▸ hoff)]
  case refine_8 =>
    intro hs hz hlen z w k hplace hheld
    obtain ⟨_, hk, hw, _⟩ := (dkStart_iff s d .zoneAppend).mp hs
    rw [hq] at hplace
    exact (exec_zoneAppend_runs hr hs b).trans <| congrArg _ <|
      startWrite_placeHeld (e := started s d) hw (congrArg bringsData hk) hz (fun _ => hlen) hplace hheld

end Sys2Proof.Machine
end

section
/-!
SUPPORT. What every step keeps (O60): the three memories in canonical form, the event clock within the run, and the
commands that wait. One rule for each function that answers a state.
-/
namespace Sys2Proof.Machine

/-- What a run keeps from the state `r` to the state `t`: the commands that wait, and the invariant. -/
structure Kept (r t : State) : Prop where
  pending : t.pending = r.pending
  inv : r.inv = true → t.inv = true

/-- `Kept` under a name of its own: a rule that says `Kept r s → Kept r (f s)` is written as
`Kept r (f s) ↔ Kept r s ∨ Kept' r (f s)`, which `simp` follows through any number of calls. -/
def Kept' (r t : State) : Prop := Kept r t

theorem kept_or {r s t : State} (h : Kept r s → Kept r t) : Kept r t ↔ Kept r s ∨ Kept' r t :=
  ⟨.inr, fun hor => hor.elim h id⟩

@[simp] theorem Kept.refl (r : State) : Kept r r := ⟨rfl, id⟩

/-- `Kept` of the fields it speaks of. -/
def KeptIn (r : State) (pending : List Instr) (nowMs uptime : Nat) (slm dram spad : Tab Byte) : Prop :=
  pending = r.pending ∧ (r.inv = true →
    (tabWf 0 dram && tabWf 0 slm && tabWf 0 spad && decide (uptime ≤ nowMs)) = true)

section
variable {r s : State}
@[simp] theorem kept_mk (pending : List Instr) (out : List Out) (nowMs uptime freeCount : Nat) (dict : Tab Nat)
    (faults : List FaultRec) (faultSeq : Nat) (pel : List PelEnt) (host : HostIf) (prog : Programs) (media : Media)
    (pool : Pool) (dram : Tab Byte) (hm : Harbour) (ik : Ikixa) (customs : Customs) (eng : Engines) (tally : Tally)
    (power : Power) (pair : Pair) (logbook : Logbook) (mgmt : Mgmt) (service : Service) :
    Kept r ⟨pending, out, nowMs, uptime, freeCount, dict, faults, faultSeq, pel, host, prog, media, pool, dram, hm,
      ik, customs, eng, tally, power, pair, logbook, mgmt, service⟩ ↔
    KeptIn r pending nowMs uptime prog.slm dram ik.spad := ⟨fun h => ⟨h.1, h.2⟩, fun h => ⟨h.1, h.2⟩⟩

@[simp] theorem keptIn_eta : KeptIn r s.pending s.nowMs s.uptime s.prog.slm s.dram s.ik.spad ↔ Kept r s :=
  ⟨fun h => ⟨h.1, h.2⟩, fun h => ⟨h.1, h.2⟩⟩

/-! Writes and clears of the three memories. -/

theorem KeptIn.of_wf {r : State} {p : List Instr} {n u : Nat} {slm slm' dram dram' spad spad' : Tab Byte}
    (h : KeptIn r p n u slm dram spad) (hs : tabWf 0 slm = true → tabWf 0 slm' = true)
    (hd : tabWf 0 dram = true → tabWf 0 dram' = true) (hp : tabWf 0 spad = true → tabWf 0 spad' = true) :
    KeptIn r p n u slm' dram' spad' := by
  refine ⟨h.1, fun hr => ?_⟩
  have hk := h.2 hr
  simp only [Bool.and_eq_true] at hk ⊢
  obtain ⟨⟨⟨h1, h2⟩, h3⟩, h4⟩ := hk
  exact ⟨⟨⟨hd h1, hs h2⟩, hp h3⟩, h4⟩

theorem savedWrite_wf (saved : List Nat) (m : Tab Byte) (off : Nat) (bs : List Byte) (h : tabWf 0 m = true) :
    tabWf 0 (savedWrite saved m off bs) = true := by
  induction bs generalizing m off with
  | nil => exact h
  | cons b bs ih =>
    refine ih _ _ ?_
    split
    · exact tabSet_wf _ _ _ _ h
    · exact h

section Memories
variable {p : List Instr} {n u a b : Nat} {slm dram spad : Tab Byte} {bs : List Byte} (h : KeptIn r p n u slm dram spad)
include h

@[simp] theorem keptIn_dramWrite : KeptIn r p n u slm (memWrite dram a bs) spad := h.of_wf id (memWrite_wf _ _ _) id
@[simp] theorem keptIn_dramClear : KeptIn r p n u slm (memClear dram a b) spad := h.of_wf id (memClear_wf _ _ _) id
@[simp] theorem keptIn_dramSaved {l : List Nat} : KeptIn r p n u slm (savedWrite l dram a bs) spad :=
  h.of_wf id (savedWrite_wf _ _ _ _) id
@[simp] theorem keptIn_slmWrite : KeptIn r p n u (memWrite slm a bs) dram spad := h.of_wf (memWrite_wf _ _ _) id id
@[simp] theorem keptIn_slmClear : KeptIn r p n u (memClear slm a b) dram spad := h.of_wf (memClear_wf _ _ _) id id
@[simp] theorem keptIn_spadWrite : KeptIn r p n u slm dram (memWrite spad a bs) := h.of_wf id id (memWrite_wf _ _ _)
@[simp] theorem keptIn_spadClear : KeptIn r p n u slm dram (memClear spad a b) := h.of_wf id id (memClear_wf _ _ _)
end Memories

@[simp] theorem kept_ite (c : Prop) [Decidable c] (a b : State) :
    Kept r (if c then a else b) ↔ if c then Kept r a else Kept r b := by split <;> rfl

@[simp] theorem kept_when (c : Bool) (a b : State) : Kept r (when c a b) ↔ if c then Kept r b else Kept r a := by
  cases c <;> rfl

theorem kept_foldl {α : Type} {f : State → α → State} (h : ∀ s x, Kept r s → Kept r (f s x)) (l : List α)
    (hs : Kept r s) : Kept r (l.foldl f s) := by
  induction l generalizing s with
  | nil => exact hs
  | cons x l ih => exact ih (h s x hs)

@[simp] theorem kept_foldl_iff {α : Type} {f : State → α → State} (h : ∀ s x, Kept r (f s x) ↔ Kept r s) (l : List α) :
    Kept r (l.foldl f s) ↔ Kept r s := by
  induction l generalizing s with
  | nil => rfl
  | cons x l ih => rw [List.foldl_cons, ih, h]

@[simp] theorem kept_foldl_or {α : Type} {f : State → α → State} (h : ∀ s x, Kept r s → Kept r (f s x)) (l : List α) :
    Kept r (l.foldl f s) ↔ Kept r s ∨ Kept' r (l.foldl f s) := kept_or (kept_foldl h l)

/-- The step ends in a state, with what is kept from `r`. -/
def Ends (r : State) (x : Res) : Prop := ∃ t, x = .next t ∧ Kept r t

@[simp] theorem ends_next (t : State) : Ends r (.next t) ↔ Kept r t :=
  ⟨fun ⟨_, h, k⟩ => by cases h; exact k, fun h => ⟨t, rfl, h⟩⟩
@[simp] theorem ends_ite (c : Prop) [Decidable c] (a b : Res) :
    Ends r (if c then a else b) ↔ if c then Ends r a else Ends r b := by split <;> rfl
end

end Sys2Proof.Machine
end

section
/-!
SUPPORT. The functions of the model keep the invariant and the commands that wait: one rule for each, in the order of
the model's files. A function that writes no memory and moves no clock has an equivalence; one that does, the form of
`kept_or`.
-/
namespace Sys2Proof.Machine

section
variable {s₀ s : State}

/-! ### Machine/Ops -/

@[simp] theorem kept_dset {i sub v} : Kept s₀ (dset s i sub v) ↔ Kept s₀ s := by simp [dset]
@[simp] theorem kept_bump {i sub n} : Kept s₀ (bump s i sub n) ↔ Kept s₀ s := by simp [bump]
@[simp] theorem kept_draw : Kept s₀ (draw s) ↔ Kept s₀ s := by simp [draw]

@[simp] theorem kept_tick : Kept s₀ (tick s) ↔ Kept s₀ s ∨ Kept' s₀ (tick s) :=
  kept_or fun h => by
    have hin : KeptIn s₀ s.pending (s.nowMs + 1) (s.uptime + 1) s.prog.slm s.dram s.ik.spad :=
      ⟨h.pending, fun hr => by simpa [State.inv, State.memWf, State.clockWf] using h.inv hr⟩
    simp [tick, hin]

@[simp] theorem kept_emit {o} : Kept s₀ (emit s o) ↔ Kept s₀ s := by simp [emit]
@[simp] theorem kept_logPel {what a b} : Kept s₀ (logPel s what a b) ↔ Kept s₀ s := by simp [logPel]

@[simp] theorem kept_logFault {space kind code thread addr channel port} :
    Kept s₀ (logFault s space kind code thread addr channel port) ↔ Kept s₀ s := by
  simp [logFault]

@[simp] theorem kept_setFn {fn f} : Kept s₀ (setFn s fn f) ↔ Kept s₀ s := by simp [setFn]
@[simp] theorem kept_modFn {fn g} : Kept s₀ (modFn s fn g) ↔ Kept s₀ s := by simp [modFn]
@[simp] theorem kept_modSq {fn q g} : Kept s₀ (modSq s fn q g) ↔ Kept s₀ s := by simp [modSq]
@[simp] theorem kept_modCq {fn q g} : Kept s₀ (modCq s fn q g) ↔ Kept s₀ s := by simp [modCq]
@[simp] theorem kept_raiseVector {fn vector} : Kept s₀ (raiseVector s fn vector) ↔ Kept s₀ s := by simp [raiseVector]
@[simp] theorem kept_postCpl {cqid c} : Kept s₀ (postCpl s cqid c) ↔ Kept s₀ s := by simp [postCpl]
@[simp] theorem kept_adminDone {a st dw0 p} : Kept s₀ (adminDone s a st dw0 p) ↔ Kept s₀ s := by simp [adminDone]
@[simp] theorem kept_adminOk {a} : Kept s₀ (adminOk s a) ↔ Kept s₀ s := by simp [adminOk]
@[simp] theorem kept_adminFail {a st} : Kept s₀ (adminFail s a st) ↔ Kept s₀ s := by simp [adminFail]

@[simp] theorem kept_postEvent {fn e} : Kept s₀ (postEvent s fn e) ↔ Kept s₀ s := by
  unfold postEvent
  dsimp only
  repeat' split
  all_goals simp

@[simp] theorem kept_postEvents {fns e} : Kept s₀ (postEvents s fns e) ↔ Kept s₀ s := by simp [postEvents]

@[simp] theorem ends_adminAny {a t} (hs : Kept s₀ s) (ht : Kept s₀ t) : Ends s₀ (adminAny s a t) := by
  simp [adminAny, hs, ht]

@[simp] theorem ends_admin {a t} (hs : Kept s₀ s) (ht : Kept s₀ t) : Ends s₀ (admin s a t) := by
  simp [admin, hs, ht]

@[simp] theorem ends_adminPf {a t} (hs : Kept s₀ s) (ht : Kept s₀ t) : Ends s₀ (adminPf s a t) := by
  simp [adminPf, hs, ht]

@[simp] theorem kept_setWarn {bit on} : Kept s₀ (setWarn s bit on) ↔ Kept s₀ s := by simp [setWarn]

/-! ### Machine/Haw -/

@[simp] theorem kept_setSub {k l} : Kept s₀ (setSub s k l) ↔ Kept s₀ s := by simp [setSub]
@[simp] theorem kept_pushFlit {k f} : Kept s₀ (pushFlit s k f) ↔ Kept s₀ s := by simp [pushFlit]
@[simp] theorem kept_sendOn {k m} : Kept s₀ (sendOn s k m) ↔ Kept s₀ s := by simp [sendOn]

@[simp] theorem kept_hawSend {typ nsid aux32 aux64 body} :
    Kept s₀ (hawSend s typ nsid aux32 aux64 body) ↔ Kept s₀ s := by
  unfold hawSend
  repeat' split
  all_goals simp

@[simp] theorem kept_ackTo {k ack} : Kept s₀ (ackTo s k ack) ↔ Kept s₀ s := by simp [ackTo]
@[simp] theorem kept_replay {k} : Kept s₀ (replay s k) ↔ Kept s₀ s := by simp [replay]
@[simp] theorem kept_moveMessages {k} : Kept s₀ (moveMessages s k) ↔ Kept s₀ s := by simp [moveMessages]
@[simp] theorem kept_seen {h} : Kept s₀ (seen s h) ↔ Kept s₀ s := by simp [seen]
@[simp] theorem kept_sendHello : Kept s₀ (sendHello s) ↔ Kept s₀ s := by simp [sendHello]
@[simp] theorem kept_sendBeat : Kept s₀ (sendBeat s) ↔ Kept s₀ s := by simp [sendBeat]

/-! ### Machine/LogOps -/

@[simp] theorem kept_sendFrame {port bytes} : Kept s₀ (sendFrame s port bytes) ↔ Kept s₀ s := by simp [sendFrame]

@[simp] theorem kept_answer {r g} : Kept s₀ (answer s r g) ↔ Kept s₀ s := by
  unfold answer
  split <;> simp

@[simp] theorem kept_answerAbort {r code} : Kept s₀ (answerAbort s r code) ↔ Kept s₀ s := by
  unfold answerAbort
  split <;> simp

@[simp] theorem kept_sendHeartbeats : Kept s₀ (sendHeartbeats s) ↔ Kept s₀ s := by simp [sendHeartbeats]
@[simp] theorem kept_sendEmergency {data p} : Kept s₀ (sendEmergency s data p) ↔ Kept s₀ s := by simp [sendEmergency]

@[simp] theorem kept_sendEmergencies {data} : Kept s₀ (sendEmergencies s data) ↔ Kept s₀ s := by
  simp [sendEmergencies]

@[simp] theorem kept_emergency {code index sub detail} : Kept s₀ (emergency s code index sub detail) ↔ Kept s₀ s := by
  simp [emergency]

@[simp] theorem kept_wearLine {line} : Kept s₀ (wearLine s line) ↔ Kept s₀ s := by simp [wearLine]
@[simp] theorem kept_rewriteSection {sec} : Kept s₀ (rewriteSection s sec) ↔ Kept s₀ s := by simp [rewriteSection]
@[simp] theorem kept_commitAt {sec line} : Kept s₀ (commitAt s sec line) ↔ Kept s₀ s := by simp [commitAt]
@[simp] theorem kept_persist {i sub v} : Kept s₀ (persist s i sub v) ↔ Kept s₀ s := by simp [persist]

@[simp] theorem kept_wornRefusal {i sub line} : Kept s₀ (wornRefusal s i sub line) ↔ Kept s₀ s := by
  simp [wornRefusal]

@[simp] theorem ends_execLogbookLineRemap {line} : Ends s (execLogbookLineRemap line s) := by
  simp [execLogbookLineRemap]

/-! ### Machine/HostOps -/

@[simp] theorem kept_setDk {d e} : Kept s₀ (setDk s d e) ↔ Kept s₀ s := by simp [setDk]

@[simp] theorem kept_modDk {d g} : Kept s₀ (modDk s d g) ↔ Kept s₀ s := by simp [modDk]

@[simp] theorem kept_begun {d} : Kept s₀ (begun s d) ↔ Kept s₀ s := by simp [begun]

@[simp] theorem ends_io {d k t} (hs : Kept s₀ s) (ht : Kept s₀ t) : Ends s₀ (io s d k t) := by
  simp [io, hs, ht]

/-! ### Machine/Pool -/

@[simp] theorem kept_setBerth {a b} : Kept s₀ (setBerth s a b) ↔ Kept s₀ s := by simp [setBerth]
@[simp] theorem kept_setStack {far l} : Kept s₀ (setStack s far l) ↔ Kept s₀ s := by simp [setStack]
@[simp] theorem kept_setWaitQ {far l} : Kept s₀ (setWaitQ s far l) ↔ Kept s₀ s := by simp [setWaitQ]
@[simp] theorem kept_noteLow {far} : Kept s₀ (noteLow s far) ↔ Kept s₀ s := by simp [noteLow]

theorem kept_poolTake {far tag a u} (h : poolTake s far tag = some (a, u)) : Kept s₀ u ↔ Kept s₀ s := by
  unfold poolTake at h
  split at h
  · cases h
  · dsimp only at h
    split at h
    · cases h; simp
    · split at h
      · cases h; simp
      · cases h

@[simp] theorem kept_poolTakeN {tag n} : Kept s₀ (poolTakeN tag n s).2 ↔ Kept s₀ s := by
  induction n generalizing s with
  | zero => rfl
  | succ n ih =>
    unfold poolTakeN
    split
    · rfl
    next h => simp [ih, kept_poolTake h]

@[simp] theorem kept_poolStore {far a} : Kept s₀ (poolStore s far a) ↔ Kept s₀ s := by simp [poolStore]
@[simp] theorem kept_countCode {code} : Kept s₀ (countCode s code) ↔ Kept s₀ s := by simp [countCode]

/-! ### Machine/Harbour -/

@[simp] theorem kept_setThr {t th} : Kept s₀ (setThr s t th) ↔ Kept s₀ s := by simp [setThr]
@[simp] theorem kept_modThr {t g} : Kept s₀ (modThr s t g) ↔ Kept s₀ s := by simp [modThr]
@[simp] theorem kept_setCore {c x} : Kept s₀ (setCore s c x) ↔ Kept s₀ s := by simp [setCore]
@[simp] theorem kept_modCore {c g} : Kept s₀ (modCore s c g) ↔ Kept s₀ s := by simp [modCore]
@[simp] theorem kept_setChan {k c} : Kept s₀ (setChan s k c) ↔ Kept s₀ s := by simp [setChan]
@[simp] theorem kept_pushRing {e} : Kept s₀ (pushRing s e) ↔ Kept s₀ s := by simp [pushRing]
@[simp] theorem kept_trimIdle {k port} : Kept s₀ (trimIdle s k port) ↔ Kept s₀ s := by simp [trimIdle]
@[simp] theorem kept_dropRingChan {k} : Kept s₀ (dropRingChan s k) ↔ Kept s₀ s := by simp [dropRingChan]
@[simp] theorem kept_setLease {c l} : Kept s₀ (setLease s c l) ↔ Kept s₀ s := by simp [setLease]

@[simp] theorem kept_winWrite {t off bs} :
    Kept s₀ (winWrite s t off bs) ↔ Kept s₀ s ∨ Kept' s₀ (winWrite s t off bs) :=
  kept_or fun h => by
    simp [winWrite, h]

@[simp] theorem kept_deliver {t result w} :
    Kept s₀ (deliver s t result w) ↔ Kept s₀ s ∨ Kept' s₀ (deliver s t result w) :=
  kept_or fun h => by
    simp [deliver, h]

@[simp] theorem kept_saveGot {t a} : Kept s₀ (saveGot s t a) ↔ Kept s₀ s ∨ Kept' s₀ (saveGot s t a) :=
  kept_or fun h => by simp [saveGot, h]

@[simp] theorem kept_pushHeld {w} : Kept s₀ (pushHeld s w) ↔ Kept s₀ s := by simp [pushHeld]
@[simp] theorem kept_pushWait {far w} : Kept s₀ (pushWait s far w) ↔ Kept s₀ s := by simp [pushWait]

@[simp] theorem kept_saveAsk {t} : Kept s₀ (saveAsk s t) ↔ Kept s₀ s ∨ Kept' s₀ (saveAsk s t) :=
  kept_or fun h => by
    unfold saveAsk
    dsimp only
    split
    · simp [h]
    · split
      next hp => simp [kept_poolTake hp, h]
      next => simp [h]

@[simp] theorem kept_saveAsks {t} : Kept s₀ (saveAsks s t) ↔ Kept s₀ s ∨ Kept' s₀ (saveAsks s t) :=
  kept_or fun h => by simp +contextual [saveAsks, h]

@[simp] theorem kept_dropSaves {t} : Kept s₀ (dropSaves s t) ↔ Kept s₀ s := by simp [dropSaves]

@[simp] theorem kept_saveWindow {t} : Kept s₀ (saveWindow s t) ↔ Kept s₀ s ∨ Kept' s₀ (saveWindow s t) :=
  kept_or fun h => by simp +contextual [saveWindow, h]

@[simp] theorem kept_zeroCore {c} : Kept s₀ (zeroCore s c) ↔ Kept s₀ s ∨ Kept' s₀ (zeroCore s c) :=
  kept_or fun h => by simp [zeroCore, h]

@[simp] theorem kept_noteIdle {cl} : Kept s₀ (noteIdle s cl) ↔ Kept s₀ s := by simp [noteIdle]

@[simp] theorem kept_finishChange {c space} :
    Kept s₀ (finishChange s c space) ↔ Kept s₀ s ∨ Kept' s₀ (finishChange s c space) :=
  kept_or fun h => by
    simp [finishChange, h]

@[simp] theorem kept_settleChange {c} : Kept s₀ (settleChange s c) ↔ Kept s₀ s ∨ Kept' s₀ (settleChange s c) :=
  kept_or fun h => by
    unfold settleChange
    dsimp only
    split <;> simp +contextual [h]

@[simp] theorem kept_startChange {c space} :
    Kept s₀ (startChange s c space) ↔ Kept s₀ s ∨ Kept' s₀ (startChange s c space) :=
  kept_or fun h => by
    simp [startChange, h]

@[simp] theorem kept_dispatch {c t} : Kept s₀ (dispatch s c t) ↔ Kept s₀ s ∨ Kept' s₀ (dispatch s c t) :=
  kept_or fun h => by
    unfold dispatch
    dsimp only
    split <;> simp [h]

@[simp] theorem kept_pushReady {t p} : Kept s₀ (pushReady s t p) ↔ Kept s₀ s := by simp [pushReady]
@[simp] theorem kept_stampReady {t} : Kept s₀ (stampReady s t) ↔ Kept s₀ s := by simp [stampReady]

@[simp] theorem kept_enterList {d t returned} :
    Kept s₀ (enterList s d t returned) ↔ Kept s₀ s ∨ Kept' s₀ (enterList s d t returned) :=
  kept_or fun h => by
    unfold enterList
    dsimp only
    split <;> simp [h]

@[simp] theorem kept_enterCluster {d t} : Kept s₀ (enterCluster s d t) ↔ Kept s₀ s ∨ Kept' s₀ (enterCluster s d t) :=
  kept_or fun h => by simp [enterCluster, h]

@[simp] theorem kept_place {t} : Kept s₀ (place s t) ↔ Kept s₀ s ∨ Kept' s₀ (place s t) :=
  kept_or fun h => by simp [place, h]

@[simp] theorem kept_makeReady {t} : Kept s₀ (makeReady s t) ↔ Kept s₀ s ∨ Kept' s₀ (makeReady s t) :=
  kept_or fun h => by simp [makeReady, h]

@[simp] theorem kept_noteConsumers {keys t} : Kept s₀ (noteConsumers s keys t) ↔ Kept s₀ s := by simp [noteConsumers]

@[simp] theorem kept_consume {t port} : Kept s₀ (consume s t port) ↔ Kept s₀ s ∨ Kept' s₀ (consume s t port) :=
  kept_or fun h => by simp [consume, h]

@[simp] theorem kept_matchChan {k port} : Kept s₀ (matchChan s k port) ↔ Kept s₀ s ∨ Kept' s₀ (matchChan s k port) :=
  kept_or fun h => by simp +contextual [matchChan, h]

@[simp] theorem kept_applyPost {k qty port marked} :
    Kept s₀ (applyPost s k qty port marked) ↔ Kept s₀ s ∨ Kept' s₀ (applyPost s k qty port marked) :=
  kept_or fun h => by
    simp [applyPost, h]

@[simp] theorem kept_postApply {port space ch qty marked} :
    Kept s₀ (postApply s port space ch qty marked) ↔ Kept s₀ s ∨ Kept' s₀ (postApply s port space ch qty marked) :=
  kept_or fun h => by
    simp [postApply, h]

@[simp] theorem kept_postToken {port space ch qty marked} :
    Kept s₀ (postToken s port space ch qty marked) ↔ Kept s₀ s ∨ Kept' s₀ (postToken s port space ch qty marked) :=
  kept_or fun h => by
    unfold postToken
    split <;> simp [h]

@[simp] theorem kept_unready {t} : Kept s₀ (unready s t) ↔ Kept s₀ s := by simp [unready]

@[simp] theorem kept_chooseFor {c} : Kept s₀ (chooseFor s c) ↔ Kept s₀ s ∨ Kept' s₀ (chooseFor s c) :=
  kept_or fun h => by
    unfold chooseFor
    repeat' split
    all_goals simp [h]

@[simp] theorem kept_quantumPass {c} : Kept s₀ (quantumPass s c) ↔ Kept s₀ s ∨ Kept' s₀ (quantumPass s c) :=
  kept_or fun h => by
    unfold quantumPass
    repeat' split
    all_goals simp [h]

@[simp] theorem kept_berthReply {who tag r w} :
    Kept s₀ (berthReply s who tag r w) ↔ Kept s₀ s ∨ Kept' s₀ (berthReply s who tag r w) :=
  kept_or fun h => by
    simp [berthReply, h]

@[simp] theorem kept_allocGot {far a w} : Kept s₀ (allocGot s far a w) ↔ Kept s₀ s ∨ Kept' s₀ (allocGot s far a w) :=
  kept_or fun h => by simp [allocGot, h]

@[simp] theorem kept_grantBerth {far a w} :
    Kept s₀ (grantBerth s far a w) ↔ Kept s₀ s ∨ Kept' s₀ (grantBerth s far a w) :=
  kept_or fun h => by
    simp [grantBerth, h]

@[simp] theorem kept_dropHeld {w} : Kept s₀ (dropHeld s w) ↔ Kept s₀ s := by simp [dropHeld]

@[simp] theorem kept_admitHeld {far} : Kept s₀ (admitHeld s far) ↔ Kept s₀ s := by
  unfold admitHeld
  split <;> simp

@[simp] theorem kept_berthFreed {a} : Kept s₀ (berthFreed s a) ↔ Kept s₀ s ∨ Kept' s₀ (berthFreed s a) :=
  kept_or fun h => by
    unfold berthFreed
    dsimp only
    repeat' split
    all_goals simp [h]

@[simp] theorem kept_dropClaim {a tag} : Kept s₀ (dropClaim s a tag) ↔ Kept s₀ s ∨ Kept' s₀ (dropClaim s a tag) :=
  kept_or fun h => by
    unfold dropClaim
    dsimp only
    split <;> simp [h]

@[simp] theorem kept_reclaimBerth {a} : Kept s₀ (reclaimBerth s a) ↔ Kept s₀ s ∨ Kept' s₀ (reclaimBerth s a) :=
  kept_or fun h => by simp [reclaimBerth, h]

@[simp] theorem kept_releaseOwner {tag} : Kept s₀ (releaseOwner s tag) ↔ Kept s₀ s ∨ Kept' s₀ (releaseOwner s tag) :=
  kept_or fun h => by simp +contextual [releaseOwner, h]

@[simp] theorem kept_freeBerths {l} : Kept s₀ (freeBerths s l) ↔ Kept s₀ s ∨ Kept' s₀ (freeBerths s l) :=
  kept_or fun h => by simp +contextual [freeBerths, h]

@[simp] theorem kept_settleReclaims : Kept s₀ (settleReclaims s) ↔ Kept s₀ s ∨ Kept' s₀ (settleReclaims s) :=
  kept_or fun h => by simp +contextual [settleReclaims, h]

/-! ### Machine/Berth -/

@[simp] theorem kept_raiseFaultAt {t code pc ch} : Kept s₀ (raiseFaultAt s t code pc ch) ↔ Kept s₀ s := by
  unfold raiseFaultAt
  split <;> simp

@[simp] theorem kept_raiseFault {t code} : Kept s₀ (raiseFault s t code) ↔ Kept s₀ s := by
  unfold raiseFault
  split <;> simp

@[simp] theorem kept_allocAct {w} : Kept s₀ (allocAct s w) ↔ Kept s₀ s ∨ Kept' s₀ (allocAct s w) :=
  kept_or fun h => by
    unfold allocAct
    dsimp only
    split
    · simp [h]
    · split
      next hp => simp [kept_poolTake hp, h]
      next => simp [h]

@[simp] theorem kept_shareAct {tag r} : Kept s₀ (shareAct s tag r) ↔ Kept s₀ s := by simp [shareAct]

@[simp] theorem kept_berthResolve {w} : Kept s₀ (berthResolve s w) ↔ Kept s₀ s ∨ Kept' s₀ (berthResolve s w) :=
  kept_or fun h => by simp [berthResolve, h]

@[simp] theorem kept_drainHeld {n} : Kept s₀ (drainHeld n s) ↔ Kept s₀ s ∨ Kept' s₀ (drainHeld n s) :=
  kept_or fun h => by
    induction n generalizing s with
    | zero => exact h
    | succ n ih =>
      unfold drainHeld
      split
      · exact ih (by simp [h])
      · exact h

@[simp] theorem kept_berthRequest {w} : Kept s₀ (berthRequest s w) ↔ Kept s₀ s ∨ Kept' s₀ (berthRequest s w) :=
  kept_or fun h => by simp [berthRequest, h]

@[simp] theorem kept_holdThread {t} : Kept s₀ (holdThread s t) ↔ Kept s₀ s := by simp [holdThread]

@[simp] theorem kept_unholdThread {t} : Kept s₀ (unholdThread s t) ↔ Kept s₀ s ∨ Kept' s₀ (unholdThread s t) :=
  kept_or fun h => by simp [unholdThread, h]

@[simp] theorem kept_settleHold {space} : Kept s₀ (settleHold s space) ↔ Kept s₀ s ∨ Kept' s₀ (settleHold s space) :=
  kept_or fun h => by simp +contextual [settleHold, h]

@[simp] theorem kept_settleHolds : Kept s₀ (settleHolds s) ↔ Kept s₀ s ∨ Kept' s₀ (settleHolds s) :=
  kept_or fun h => by simp +contextual [settleHolds, h]

@[simp] theorem kept_settleTaking {c} : Kept s₀ (settleTaking s c) ↔ Kept s₀ s ∨ Kept' s₀ (settleTaking s c) :=
  kept_or fun h => by simp [settleTaking, h]

@[simp] theorem kept_settleHarbour : Kept s₀ (settleHarbour s) ↔ Kept s₀ s ∨ Kept' s₀ (settleHarbour s) :=
  kept_or fun h => by simp +contextual [settleHarbour, h]

@[simp] theorem kept_kickIdle : Kept s₀ (kickIdle s) ↔ Kept s₀ s ∨ Kept' s₀ (kickIdle s) :=
  kept_or fun h => by simp +contextual [kickIdle, h]

/-! ### Machine/MediaOps -/

@[simp] theorem kept_setNs {n v} : Kept s₀ (setNs s n v) ↔ Kept s₀ s := by simp [setNs]
@[simp] theorem kept_modNs {n g} : Kept s₀ (modNs s n g) ↔ Kept s₀ s := by simp [modNs]
@[simp] theorem kept_setBlk {b v} : Kept s₀ (setBlk s b v) ↔ Kept s₀ s := by simp [setBlk]
@[simp] theorem kept_modBlk {b g} : Kept s₀ (modBlk s b g) ↔ Kept s₀ s := by simp [modBlk]
@[simp] theorem kept_settlePacing : Kept s₀ (settlePacing s) ↔ Kept s₀ s := by simp [settlePacing]
@[simp] theorem kept_queueRefresh {b rank} : Kept s₀ (queueRefresh s b rank) ↔ Kept s₀ s := by simp [queueRefresh]
@[simp] theorem kept_growLanding : Kept s₀ (growLanding s) ↔ Kept s₀ s := by simp [growLanding]
@[simp] theorem kept_openBlk {o} : Kept s₀ (openBlk s o) ↔ Kept s₀ s := by simp [openBlk]

@[simp] theorem kept_landSpot {pool n} : Kept s₀ (landSpot s pool n).2 ↔ Kept s₀ s := by
  unfold landSpot
  split <;> simp

@[simp] theorem kept_peerArea {on} : Kept s₀ (peerArea s on) ↔ Kept s₀ s := by simp [peerArea]
@[simp] theorem kept_putRaw {a b} : Kept s₀ (putRaw s a b) ↔ Kept s₀ s := by simp [putRaw]
@[simp] theorem kept_loadKey {nsid k} : Kept s₀ (loadKey s nsid k) ↔ Kept s₀ s := by simp [loadKey]
@[simp] theorem kept_keyNs {nsid} : Kept s₀ (keyNs s nsid) ↔ Kept s₀ s := by simp [keyNs]
@[simp] theorem kept_dropKey {nsid} : Kept s₀ (dropKey s nsid) ↔ Kept s₀ s := by simp [dropKey]
@[simp] theorem kept_clearXts {q} : Kept s₀ (clearXts s q) ↔ Kept s₀ s := by simp [clearXts]
@[simp] theorem kept_fillXts {q} : Kept s₀ (fillXts s q) ↔ Kept s₀ s := by simp [fillXts]

@[simp] theorem kept_wholeRow {x row} : Kept s₀ (wholeRow x s row) ↔ Kept s₀ s := by
  unfold wholeRow
  dsimp only
  rw [kept_foldl_iff fun t b => by simp]
  simp only [kept_mk, keptIn_eta]

@[simp] theorem kept_wholeRows {x lo hi} : Kept s₀ (wholeRows s x lo hi) ↔ Kept s₀ s := by simp [wholeRows]
@[simp] theorem kept_writeImage {m jsn o} : Kept s₀ (writeImage m jsn s o) ↔ Kept s₀ s := by simp [writeImage]
@[simp] theorem kept_spareWarnings : Kept s₀ (spareWarnings s) ↔ Kept s₀ s := by simp [spareWarnings]
@[simp] theorem kept_retireBlock {b} : Kept s₀ (retireBlock s b) ↔ Kept s₀ s := by simp [retireBlock]
@[simp] theorem kept_retireGroup {g} : Kept s₀ (retireGroup s g) ↔ Kept s₀ s := by simp [retireGroup]

@[simp] theorem kept_slmWrite {tenant off bs} :
    Kept s₀ (slmWrite s tenant off bs) ↔ Kept s₀ s ∨ Kept' s₀ (slmWrite s tenant off bs) :=
  kept_or fun h => by
    simp [slmWrite, h]

/-! ### Machine/Journal -/

@[simp] theorem kept_applyReady : Kept s₀ (applyReady s) ↔ Kept s₀ s := by simp [applyReady]
@[simp] theorem kept_appendOwn {r} : Kept s₀ (appendOwn s r) ↔ Kept s₀ s := by simp [appendOwn]
@[simp] theorem kept_appendRec {r} : Kept s₀ (appendRec s r) ↔ Kept s₀ s := by simp [appendRec]
@[simp] theorem kept_append {rs} : Kept s₀ (append s rs) ↔ Kept s₀ s := by simp [append]
@[simp] theorem kept_formLots : Kept s₀ (formLots s) ↔ Kept s₀ s := by simp [formLots]
@[simp] theorem kept_settleWindow : Kept s₀ (settleWindow s) ↔ Kept s₀ s := by simp [settleWindow]
@[simp] theorem kept_programPage {pool lim} : Kept s₀ (programPage s pool lim) ↔ Kept s₀ s := by simp [programPage]

@[simp] theorem kept_programTail {pool lim n} : Kept s₀ (programTail pool lim n s) ↔ Kept s₀ s := by
  induction n generalizing s with
  | zero => rfl
  | succ n ih => simp [programTail, ih]

@[simp] theorem kept_programAll : Kept s₀ (programAll s) ↔ Kept s₀ s := by simp [programAll]
@[simp] theorem kept_checkpoint {clean} : Kept s₀ (checkpoint s clean) ↔ Kept s₀ s := by simp [checkpoint]

/-! ### Machine/DocketOps -/

@[simp] theorem kept_dkPost {d st dw0 dw1 p} : Kept s₀ (dkPost s d st dw0 dw1 p) ↔ Kept s₀ s := by
  unfold dkPost
  dsimp only
  split <;> simp

@[simp] theorem kept_orphanCascades {mine} : Kept s₀ (orphanCascades s mine) ↔ Kept s₀ s := by simp [orphanCascades]

@[simp] theorem kept_dkBerths {d e} : Kept s₀ (dkBerths s d e) ↔ Kept s₀ s ∨ Kept' s₀ (dkBerths s d e) :=
  kept_or fun h => by simp +contextual [dkBerths, h]

@[simp] theorem kept_dkFree {d} : Kept s₀ (dkFree s d) ↔ Kept s₀ s ∨ Kept' s₀ (dkFree s d) :=
  kept_or fun h => by simp [dkFree, h]

@[simp] theorem kept_countFinished {e} : Kept s₀ (countFinished s e) ↔ Kept s₀ s := by
  unfold countFinished
  dsimp only
  split <;> simp

@[simp] theorem kept_dropWork {d} : Kept s₀ (dropWork s d) ↔ Kept s₀ s := by simp [dropWork]

@[simp] theorem kept_cancelForward {d tag st} : Kept s₀ (cancelForward s d tag st) ↔ Kept s₀ s := by
  simp [cancelForward]

@[simp] theorem kept_dkCancel {d st} : Kept s₀ (dkCancel s d st) ↔ Kept s₀ s ∨ Kept' s₀ (dkCancel s d st) :=
  kept_or fun h => by
    unfold dkCancel
    dsimp only
    repeat' split
    all_goals simp [h]

@[simp] theorem kept_freezeQueue {e st} : Kept s₀ (freezeQueue s e st) ↔ Kept s₀ s ∨ Kept' s₀ (freezeQueue s e st) :=
  kept_or fun h => by simp +contextual [freezeQueue, h]

@[simp] theorem kept_ioDone {d st dw0 dw1 p} :
    Kept s₀ (ioDone s d st dw0 dw1 p) ↔ Kept s₀ s ∨ Kept' s₀ (ioDone s d st dw0 dw1 p) :=
  kept_or fun h => by
    simp [ioDone, h]

@[simp] theorem kept_ioOk {d} : Kept s₀ (ioOk s d) ↔ Kept s₀ s ∨ Kept' s₀ (ioOk s d) :=
  kept_or fun h => by simp [ioOk, h]

@[simp] theorem kept_ioFail {d st} : Kept s₀ (ioFail s d st) ↔ Kept s₀ s ∨ Kept' s₀ (ioFail s d st) :=
  kept_or fun h => by simp [ioFail, h]

@[simp] theorem kept_dkCommitPost {d dw0 dw1} : Kept s₀ (dkCommitPost s d dw0 dw1) ↔ Kept s₀ s := by
  simp [dkCommitPost]

@[simp] theorem kept_settleShutdown : Kept s₀ (settleShutdown s) ↔ Kept s₀ s := by simp [settleShutdown]

@[simp] theorem kept_flushCheck : Kept s₀ (flushCheck s) ↔ Kept s₀ s ∨ Kept' s₀ (flushCheck s) :=
  kept_or fun h => by simp +contextual [flushCheck, h]

@[simp] theorem kept_dkClose {d} : Kept s₀ (dkClose s d) ↔ Kept s₀ s ∨ Kept' s₀ (dkClose s d) :=
  kept_or fun h => by
    unfold dkClose
    dsimp only
    repeat' split
    all_goals simp [h]

@[simp] theorem kept_dkAbort {d st} : Kept s₀ (dkAbort s d st) ↔ Kept s₀ s ∨ Kept' s₀ (dkAbort s d st) :=
  kept_or fun h => by simp [dkAbort, h]

@[simp] theorem kept_settleAdm : Kept s₀ (settleAdm s) ↔ Kept s₀ s := by simp [settleAdm]
@[simp] theorem kept_adminAfter {jsn a dw0} : Kept s₀ (adminAfter s jsn a dw0) ↔ Kept s₀ s := by simp [adminAfter]
@[simp] theorem kept_closeFull : Kept s₀ (closeFull s) ↔ Kept s₀ s := by simp [closeFull]

@[simp] theorem kept_closeDue : Kept s₀ (closeDue s) ↔ Kept s₀ s ∨ Kept' s₀ (closeDue s) :=
  kept_or fun h => by simp +contextual [closeDue, h]

@[simp] theorem kept_journalOp {rs} : Kept s₀ (journalOp s rs) ↔ Kept s₀ s ∨ Kept' s₀ (journalOp s rs) :=
  kept_or fun h => by simp [journalOp, h]

@[simp] theorem kept_journalQuiet {rs} : Kept s₀ (journalQuiet s rs) ↔ Kept s₀ s ∨ Kept' s₀ (journalQuiet s rs) :=
  kept_or fun h => by simp [journalQuiet, h]

@[simp] theorem kept_stepNine {d} : Kept s₀ (stepNine s d) ↔ Kept s₀ s ∨ Kept' s₀ (stepNine s d) :=
  kept_or fun h => by simp [stepNine, h]

/-! ### Machine/PairOps -/

@[simp] theorem kept_anaEvents {before} : Kept s₀ (anaEvents before s) ↔ Kept s₀ s := by simp [anaEvents]

@[simp] theorem kept_finishState {x1} : Kept s₀ (finishState s x1) ↔ Kept s₀ s ∨ Kept' s₀ (finishState s x1) :=
  kept_or fun h => by
    unfold finishState
    split <;> simp [h]

@[simp] theorem kept_sendState {i dn} : Kept s₀ (sendState s i dn) ↔ Kept s₀ s ∨ Kept' s₀ (sendState s i dn) :=
  kept_or fun h => by
    unfold sendState
    split <;> simp [h]

@[simp] theorem kept_mirrorState {kind nsid body dn} :
    Kept s₀ (mirrorState s kind nsid body dn) ↔ Kept s₀ s ∨ Kept' s₀ (mirrorState s kind nsid body dn) :=
  kept_or fun h => by
    simp [mirrorState, h]

@[simp] theorem kept_dropStates : Kept s₀ (dropStates s) ↔ Kept s₀ s ∨ Kept' s₀ (dropStates s) :=
  kept_or fun h => by simp +contextual [dropStates, h]

@[simp] theorem kept_reAna {f} : Kept s₀ (reAna s f) ↔ Kept s₀ (f s) := by simp [reAna]

@[simp] theorem kept_pairTo {st f} : Kept s₀ (pairTo s st f) ↔ Kept s₀ s ∨ Kept' s₀ (pairTo s st f) :=
  kept_or fun h => by simp [pairTo, h]

@[simp] theorem kept_pairSet {st} : Kept s₀ (pairSet s st) ↔ Kept s₀ s ∨ Kept' s₀ (pairSet s st) :=
  kept_or fun h => by simp [pairSet, h]

@[simp] theorem kept_failForwards : Kept s₀ (failForwards s) ↔ Kept s₀ s ∨ Kept' s₀ (failForwards s) :=
  kept_or fun h => by
    unfold failForwards
    exact kept_foldl (fun t e ht => by split <;> simp [ht]) _
      (kept_foldl (fun t e ht => by simp [ht]) _ (by simp [h]))

@[simp] theorem kept_setEpoch {epoch setter} : Kept s₀ (setEpoch s epoch setter) ↔ Kept s₀ s := by simp [setEpoch]

@[simp] theorem kept_takeoverEnd : Kept s₀ (takeoverEnd s) ↔ Kept s₀ s ∨ Kept' s₀ (takeoverEnd s) :=
  kept_or fun h => by
    unfold takeoverEnd
    dsimp only
    repeat' split
    all_goals simp [h]

@[simp] theorem kept_takeoverStart {exposed} :
    Kept s₀ (takeoverStart s exposed) ↔ Kept s₀ s ∨ Kept' s₀ (takeoverStart s exposed) :=
  kept_or fun h => by
    simp [takeoverStart, h]

@[simp] theorem kept_partnerLost : Kept s₀ (partnerLost s) ↔ Kept s₀ s ∨ Kept' s₀ (partnerLost s) :=
  kept_or fun h => by simp [partnerLost, h]

@[simp] theorem kept_linkLost : Kept s₀ (linkLost s) ↔ Kept s₀ s ∨ Kept' s₀ (linkLost s) :=
  kept_or fun h => by simp [linkLost, h]

/-! ### Machine/IoOps -/

@[simp] theorem kept_forward {d data} : Kept s₀ (forward s d data) ↔ Kept s₀ s := by simp [forward]

/-- A command that may run here or not keeps what its run keeps. -/
@[simp] theorem kept_onNs {d data run} (h : Kept s₀ s) (hrun : Kept s₀ (run (begun s d))) :
    Kept s₀ (onNs s d data run) := by
  unfold onNs
  dsimp only
  repeat' split
  all_goals first | exact hrun | simp [h]

@[simp] theorem kept_onHere {d run} (h : Kept s₀ s) (hrun : Kept s₀ (run (begun s d))) :
    Kept s₀ (onHere s d run) := by
  unfold onHere
  dsimp only
  repeat' split
  all_goals first | exact hrun | simp [h]

@[simp] theorem kept_openZone {nsid z zs} :
    Kept s₀ (openZone s nsid z zs).2 ↔ Kept s₀ s ∨ Kept' s₀ (openZone s nsid z zs).2 :=
  kept_or fun h => by
    unfold openZone
    dsimp only
    repeat' split
    all_goals simp [h]

theorem kept_zonedPlace {q t p} (hp : zonedPlace s q = .ok (t, p)) (h : Kept s₀ s) : Kept s₀ t := by
  have hopen : Kept s₀ (openZone s q.nsid (q.slba * lbaSlots (getNs s q.nsid).lbaf / zoneSize) 2).2 := by simp [h]
  unfold zonedPlace at hp
  dsimp only at hp
  repeat' split at hp
  all_goals cases hp
  · exact h
  next ho => rwa [ho] at hopen

@[simp] theorem kept_dkAsk {d} : Kept s₀ (dkAsk s d) ↔ Kept s₀ s ∨ Kept' s₀ (dkAsk s d) :=
  kept_or fun h => by simp [dkAsk, h]

@[simp] theorem kept_dkAsks {d n} : Kept s₀ (dkAsks s d n) ↔ Kept s₀ s ∨ Kept' s₀ (dkAsks s d n) :=
  kept_or fun h => by simp +contextual [dkAsks, h]

@[simp] theorem kept_stepFour {d} : Kept s₀ (stepFour s d) ↔ Kept s₀ s ∨ Kept' s₀ (stepFour s d) :=
  kept_or fun h => by simp +contextual [stepFour, h]

@[simp] theorem kept_stepThree {d} : Kept s₀ (stepThree s d) ↔ Kept s₀ s ∨ Kept' s₀ (stepThree s d) :=
  kept_or fun h => by simp [stepThree, h]

@[simp] theorem kept_resumeHeld : Kept s₀ (resumeHeld s) ↔ Kept s₀ s ∨ Kept' s₀ (resumeHeld s) :=
  kept_or fun h => by simp +contextual [resumeHeld, h]

@[simp] theorem kept_settleAll : Kept s₀ (settleAll s) ↔ Kept s₀ s ∨ Kept' s₀ (settleAll s) :=
  kept_or fun h => by simp [settleAll, h]

@[simp] theorem kept_noteUnits {nsid us} : Kept s₀ (noteUnits s nsid us) ↔ Kept s₀ s := by simp [noteUnits]

@[simp] theorem kept_finishPart {d failed} :
    Kept s₀ (finishPart s d failed) ↔ Kept s₀ s ∨ Kept' s₀ (finishPart s d failed) :=
  kept_or fun h => by
    simp [finishPart, h]

@[simp] theorem kept_startWrite {d data} :
    Kept s₀ (startWrite s d data) ↔ Kept s₀ s ∨ Kept' s₀ (startWrite s d data) :=
  kept_or fun h => by
    unfold startWrite
    dsimp only
    split
    · simp [h]
    · split
      · split
        · simp [h]
        next hp => simp [kept_zonedPlace hp h]
      · simp [h]

@[simp] theorem kept_noteBroken {q} : Kept s₀ (noteBroken s q) ↔ Kept s₀ s := by simp [noteBroken]

@[simp] theorem kept_finishRead {d failed} :
    Kept s₀ (finishRead s d failed) ↔ Kept s₀ s ∨ Kept' s₀ (finishRead s d failed) :=
  kept_or fun h => by
    unfold finishRead
    dsimp only
    repeat' split
    all_goals simp [h]

@[simp] theorem kept_startRead {d data} : Kept s₀ (startRead s d data) ↔ Kept s₀ s ∨ Kept' s₀ (startRead s d data) :=
  kept_or fun h => by simp [startRead, h]

/-! ### Machine/BerthCmds -/

@[simp] theorem ends_berthRow {op who r} : Ends s (berthRow s op who r) := by simp [berthRow]
@[simp] theorem ends_execAlloc {who r} : Ends s (execAlloc who r s) := by simp [execAlloc]
@[simp] theorem ends_execFree {who r} : Ends s (execFree who r s) := by simp [execFree]
@[simp] theorem ends_execShare {who r} : Ends s (execShare who r s) := by simp [execShare]
@[simp] theorem ends_execBerthRelease {who r} : Ends s (execBerthRelease who r s) := by simp [execBerthRelease]
@[simp] theorem ends_execReclaim {who r} : Ends s (execReclaim who r s) := by simp [execReclaim]

/-! ### Machine/CustomsOps -/

@[simp] theorem kept_setScan {i v} : Kept s₀ (setScan s i v) ↔ Kept s₀ s := by simp [setScan]
@[simp] theorem kept_modScan {i g} : Kept s₀ (modScan s i g) ↔ Kept s₀ s := by simp [modScan]

@[simp] theorem kept_scanReport {sc code check st dw0 dw1} :
    Kept s₀ (scanReport s sc code check st dw0 dw1) ↔ Kept s₀ s ∨ Kept' s₀ (scanReport s sc code check st dw0 dw1) :=
  kept_or fun h => by
    simp [scanReport, h]

@[simp] theorem kept_countRecord {i u d r} : Kept s₀ (countRecord i u d s r) ↔ Kept s₀ s := by simp [countRecord]
@[simp] theorem kept_granuleDone {i g f} : Kept s₀ (granuleDone s i g f) ↔ Kept s₀ s := by simp [granuleDone]

@[simp] theorem kept_granuleParsed {i g lenErr} : Kept s₀ (granuleParsed s i g lenErr) ↔ Kept s₀ s := by
  simp [granuleParsed]

@[simp] theorem kept_restEvaluated {i e} : Kept s₀ (restEvaluated i s e) ↔ Kept s₀ s := by simp [restEvaluated]
@[simp] theorem kept_unitGivesUp {i u} : Kept s₀ (unitGivesUp i s u) ↔ Kept s₀ s := by simp [unitGivesUp]

@[simp] theorem kept_scanFinish {i code reset} :
    Kept s₀ (scanFinish s i code reset) ↔ Kept s₀ s ∨ Kept' s₀ (scanFinish s i code reset) :=
  kept_or fun h => by
    simp +contextual [scanFinish, h]

@[simp] theorem kept_endScansOf {t reset} :
    Kept s₀ (endScansOf s t reset) ↔ Kept s₀ s ∨ Kept' s₀ (endScansOf s t reset) :=
  kept_or fun h => by
    simp +contextual [endScansOf, h]

/-! ### Machine/EngineOps -/

@[simp] theorem kept_setEng {cip e v} : Kept s₀ (setEng s cip e v) ↔ Kept s₀ s := by simp [setEng]
@[simp] theorem kept_setCommon {cip l} : Kept s₀ (setCommon s cip l) ↔ Kept s₀ s := by simp [setCommon]
@[simp] theorem kept_setMsg {e m} : Kept s₀ (setMsg s e m) ↔ Kept s₀ s := by simp [setMsg]

@[simp] theorem kept_rangeWrite {space slm a bs} :
    Kept s₀ (rangeWrite s space slm a bs) ↔ Kept s₀ s ∨ Kept' s₀ (rangeWrite s space slm a bs) :=
  kept_or fun h => by
    simp [rangeWrite, h]

@[simp] theorem kept_engReply {cip t result chan ws} :
    Kept s₀ (engReply s cip t result chan ws) ↔ Kept s₀ s ∨ Kept' s₀ (engReply s cip t result chan ws) :=
  kept_or fun h => by
    simp +contextual [engReply, h]

@[simp] theorem kept_lockReply {cip j code e} :
    Kept s₀ (lockReply s cip j code e) ↔ Kept s₀ s ∨ Kept' s₀ (lockReply s cip j code e) :=
  kept_or fun h => by
    simp [lockReply, h]

@[simp] theorem kept_lockTake {cip e j} : Kept s₀ (lockTake s cip e j) ↔ Kept s₀ s ∨ Kept' s₀ (lockTake s cip e j) :=
  kept_or fun h => by simp [lockTake, h]

@[simp] theorem kept_serveLock {cip e} : Kept s₀ (serveLock s cip e) ↔ Kept s₀ s ∨ Kept' s₀ (serveLock s cip e) :=
  kept_or fun h => by
    have hreply (l : List EJob) (t : State) (ht : Kept s₀ t) :
        Kept s₀ (l.foldl (fun s j => lockReply s cip j 3 e) t) := kept_foldl (fun u j hu => by simp [hu]) l ht
    unfold serveLock
    dsimp only
    split
    · simp [h, hreply]
    · split
      · simp [h, hreply]
      · split <;> simp [h, hreply]

@[simp] theorem kept_wipeDests {space m} :
    Kept s₀ (wipeDests s space m) ↔ Kept s₀ s ∨ Kept' s₀ (wipeDests s space m) :=
  kept_or fun h => by
    simp +contextual [wipeDests, h]

@[simp] theorem kept_closeMsg {e space} : Kept s₀ (closeMsg s e space) ↔ Kept s₀ s ∨ Kept' s₀ (closeMsg s e space) :=
  kept_or fun h => by
    unfold closeMsg
    split <;> simp [h]

@[simp] theorem kept_engRelease {cip e} : Kept s₀ (engRelease s cip e) ↔ Kept s₀ s ∨ Kept' s₀ (engRelease s cip e) :=
  kept_or fun h => by simp [engRelease, h]

@[simp] theorem kept_settleUnlock {cip e} :
    Kept s₀ (settleUnlock s cip e) ↔ Kept s₀ s ∨ Kept' s₀ (settleUnlock s cip e) :=
  kept_or fun h => by
    have hreply (l : List EJob) (t : State) (ht : Kept s₀ t) :
        Kept s₀ (l.foldl (fun s j => lockReply s cip j 3 e) t) := kept_foldl (fun u j hu => by simp [hu]) l ht
    unfold settleUnlock
    dsimp only
    split <;> simp [h, hreply]

@[simp] theorem kept_lockRequest {cip j} :
    Kept s₀ (lockRequest s cip j) ↔ Kept s₀ s ∨ Kept' s₀ (lockRequest s cip j) :=
  kept_or fun h => by
    unfold lockRequest
    repeat' split
    all_goals simp [h]

@[simp] theorem kept_unlockRequest {cip j} :
    Kept s₀ (unlockRequest s cip j) ↔ Kept s₀ s ∨ Kept' s₀ (unlockRequest s cip j) :=
  kept_or fun h => by
    simp [unlockRequest, h]

@[simp] theorem kept_releaseEngines {tag} :
    Kept s₀ (releaseEngines s tag) ↔ Kept s₀ s ∨ Kept' s₀ (releaseEngines s tag) :=
  kept_or fun h => by
    simp +contextual [releaseEngines, h]

@[simp] theorem kept_serveAll {cip} : Kept s₀ (serveAll s cip) ↔ Kept s₀ s ∨ Kept' s₀ (serveAll s cip) :=
  kept_or fun h => by simp +contextual [serveAll, h]

/-! ### Machine/IkCore -/

@[simp] theorem kept_applyWr {c w} : Kept s₀ (applyWr s c w) ↔ Kept s₀ s ∨ Kept' s₀ (applyWr s c w) :=
  kept_or fun h => by
    unfold applyWr
    split <;> simp [h]

@[simp] theorem kept_settle {c t} : Kept s₀ (settle s c t) ↔ Kept s₀ s ∨ Kept' s₀ (settle s c t) :=
  kept_or fun h => by simp +contextual [settle, h]

@[simp] theorem kept_setStream {c w m} : Kept s₀ (setStream s c w m) ↔ Kept s₀ s := by simp [setStream]

@[simp] theorem kept_gather {q unit exts ok k effs} : Kept s₀ (gather s q unit exts ok k effs) ↔ Kept s₀ s := by
  simp [gather]

/-! ### Machine/Threads -/

@[simp] theorem kept_setTaking {c b} : Kept s₀ (setTaking s c b) ↔ Kept s₀ s := by simp [setTaking]

@[simp] theorem kept_markNewest {space n} : Kept s₀ (markNewest space n s) ↔ Kept s₀ s := by
  induction n generalizing s with
  | zero => rfl
  | succ n ih =>
    unfold markNewest
    split
    · simp [ih]
    · rfl

@[simp] theorem kept_markTaking {space} : Kept s₀ (markTaking s space) ↔ Kept s₀ s := by simp [markTaking]

@[simp] theorem kept_takeBack {space} : Kept s₀ (takeBack s space) ↔ Kept s₀ s ∨ Kept' s₀ (takeBack s space) :=
  kept_or fun h => by simp +contextual [takeBack, h]

@[simp] theorem kept_withdraw {t port} : Kept s₀ (withdraw s t port) ↔ Kept s₀ s := by simp [withdraw]
@[simp] theorem kept_addReq {t r} : Kept s₀ (addReq t s r) ↔ Kept s₀ s := by simp [addReq]

@[simp] theorem kept_waitOn {t reqs port} :
    Kept s₀ (waitOn s t reqs port) ↔ Kept s₀ s ∨ Kept' s₀ (waitOn s t reqs port) :=
  kept_or fun h => by
    simp [waitOn, h]

@[simp] theorem kept_programEnd {d} : Kept s₀ (programEnd s d) ↔ Kept s₀ s ∨ Kept' s₀ (programEnd s d) :=
  kept_or fun h => by
    unfold programEnd
    dsimp only
    split <;> simp [h]

@[simp] theorem kept_programGone {t code counts} :
    Kept s₀ (programGone s t code counts) ↔ Kept s₀ s ∨ Kept' s₀ (programGone s t code counts) :=
  kept_or fun h => by
    unfold programGone
    dsimp only
    split <;> simp [h]

@[simp] theorem kept_clearCore {c} : Kept s₀ (clearCore s c) ↔ Kept s₀ s := by simp [clearCore]
@[simp] theorem kept_clearShared {space} : Kept s₀ (clearShared s space) ↔ Kept s₀ s := by simp [clearShared]
@[simp] theorem kept_settleShare {space} : Kept s₀ (settleShare s space) ↔ Kept s₀ s := by simp [settleShare]

@[simp] theorem kept_faultReport {t code addr channel} :
    Kept s₀ (faultReport s t code addr channel) ↔ Kept s₀ s ∨ Kept' s₀ (faultReport s t code addr channel) :=
  kept_or fun h => by
    unfold faultReport
    dsimp only
    repeat' split
    all_goals simp [h]

@[simp] theorem kept_stopAs {t code fault counts addr channel} :
    Kept s₀ (stopAs s t code fault counts addr channel) ↔
      Kept s₀ s ∨ Kept' s₀ (stopAs s t code fault counts addr channel) :=
  kept_or fun h => by
    unfold stopAs
    dsimp only
    repeat' split
    all_goals simp [h]

@[simp] theorem kept_stopThread {t code counts addr channel} :
    Kept s₀ (stopThread s t code counts addr channel) ↔
      Kept s₀ s ∨ Kept' s₀ (stopThread s t code counts addr channel) :=
  kept_or fun h => by
    simp [stopThread, h]

@[simp] theorem kept_coreFreed {c} : Kept s₀ (coreFreed s c) ↔ Kept s₀ s ∨ Kept' s₀ (coreFreed s c) :=
  kept_or fun h => by simp [coreFreed, h]

@[simp] theorem kept_faultNow {t code addr} :
    Kept s₀ (faultNow s t code addr) ↔ Kept s₀ s ∨ Kept' s₀ (faultNow s t code addr) :=
  kept_or fun h => by
    unfold faultNow
    dsimp only
    split <;> simp [h]

@[simp] theorem kept_ctrlFault {c} : Kept s₀ (ctrlFault s c) ↔ Kept s₀ s ∨ Kept' s₀ (ctrlFault s c) :=
  kept_or fun h => by
    unfold ctrlFault
    split <;> simp [h]

@[simp] theorem kept_poisonThread {t port} :
    Kept s₀ (poisonThread s t port) ↔ Kept s₀ s ∨ Kept' s₀ (poisonThread s t port) :=
  kept_or fun h => by
    simp [poisonThread, h]

@[simp] theorem kept_createThread {t space prio cmask wbase wsize entry faultCh root init} :
    Kept s₀ (createThread s t space prio cmask wbase wsize entry faultCh root init) ↔
      Kept s₀ s ∨ Kept' s₀ (createThread s t space prio cmask wbase wsize entry faultCh root init) :=
  kept_or fun h => by
    unfold createThread
    split <;> simp [h]

/-! ### Machine/Compress -/

@[simp] theorem kept_xRequest {t result words u} (hs : Kept s₀ s) (hu : Kept s₀ u) :
    Kept s₀ (xRequest s t result words u) := by
  simp [xRequest, hs, hu]

@[simp] theorem kept_compressionReply {j p} :
    Kept s₀ (compressionReply s j p) ↔ Kept s₀ s ∨ Kept' s₀ (compressionReply s j p) :=
  kept_or fun h => by
    simp [compressionReply, h]

@[simp] theorem kept_compressionJob {t r} :
    Kept s₀ (compressionJob s t r) ↔ Kept s₀ s ∨ Kept' s₀ (compressionJob s t r) :=
  kept_or fun h => by
    simp [compressionJob, h]

@[simp] theorem kept_compressionEnd {e j rest} :
    Kept s₀ (compressionEnd s e j rest) ↔ Kept s₀ s ∨ Kept' s₀ (compressionEnd s e j rest) :=
  kept_or fun h => by
    simp [compressionEnd, h]

@[simp] theorem ends_execCompressionJob {t r} : Ends s (execCompressionJob t r s) := by simp [execCompressionJob]
@[simp] theorem ends_execCompressionLock {t r} : Ends s (execCompressionLock t r s) := by simp [execCompressionLock]

@[simp] theorem ends_execCompressionUnlock {t r} : Ends s (execCompressionUnlock t r s) := by
  simp [execCompressionUnlock]

@[simp] theorem ends_execCompressionJobEnd {e} : Ends s (execCompressionJobEnd e s) := by
  unfold execCompressionJobEnd
  split <;> simp

/-! ### Machine/Cipher -/

@[simp] theorem kept_setSlot {i v} : Kept s₀ (setSlot s i v) ↔ Kept s₀ s := by simp [setSlot]

@[simp] theorem kept_cipherReply {j code seg consumed produced} :
    Kept s₀ (cipherReply s j code seg consumed produced) ↔
      Kept s₀ s ∨ Kept' s₀ (cipherReply s j code seg consumed produced) :=
  kept_or fun h => by
    simp [cipherReply, h]

@[simp] theorem kept_cipherJob {t r} : Kept s₀ (cipherJob s t r) ↔ Kept s₀ s ∨ Kept' s₀ (cipherJob s t r) :=
  kept_or fun h => by simp [cipherJob, h]

@[simp] theorem kept_tagFailure {j m} : Kept s₀ (tagFailure s j m) ↔ Kept s₀ s ∨ Kept' s₀ (tagFailure s j m) :=
  kept_or fun h => by simp +contextual [tagFailure, h]

@[simp] theorem kept_cipherRun {e j m} : Kept s₀ (cipherRun s e j m) ↔ Kept s₀ s ∨ Kept' s₀ (cipherRun s e j m) :=
  kept_or fun h => by simp [cipherRun, h]

@[simp] theorem kept_cipherEnd {e j rest} :
    Kept s₀ (cipherEnd s e j rest) ↔ Kept s₀ s ∨ Kept' s₀ (cipherEnd s e j rest) :=
  kept_or fun h => by
    simp [cipherEnd, h]

@[simp] theorem ends_execCipherJob {t r} : Ends s (execCipherJob t r s) := by simp [execCipherJob]
@[simp] theorem ends_execCipherLock {t r} : Ends s (execCipherLock t r s) := by simp [execCipherLock]
@[simp] theorem ends_execCipherUnlock {t r} : Ends s (execCipherUnlock t r s) := by simp [execCipherUnlock]

@[simp] theorem ends_execCipherJobEnd {e} : Ends s (execCipherJobEnd e s) := by
  unfold execCipherJobEnd
  split <;> simp

/-! ### Machine/Io -/

@[simp] theorem ends_execFlush {d} : Ends s (execFlush d s) := by simp [execFlush]
@[simp] theorem ends_execWrite {d data} : Ends s (execWrite d data s) := by simp [execWrite]
@[simp] theorem ends_execRead {d} : Ends s (execRead d s) := by simp [execRead]
@[simp] theorem ends_execCompare {d data} : Ends s (execCompare d data s) := by simp [execCompare]
@[simp] theorem ends_execVerify {d} : Ends s (execVerify d s) := by simp [execVerify]
@[simp] theorem ends_execWriteZeroes {d} : Ends s (execWriteZeroes d s) := by simp [execWriteZeroes]

@[simp] theorem ends_execWriteUncorrectable {d} : Ends s (execWriteUncorrectable d s) := by
  simp [execWriteUncorrectable]

@[simp] theorem kept_recordCommand {d rs} :
    Kept s₀ (recordCommand s d rs) ↔ Kept s₀ s ∨ Kept' s₀ (recordCommand s d rs) :=
  kept_or fun h => by
    simp [recordCommand, h]

@[simp] theorem kept_dsm {d} : Kept s₀ (dsm s d) ↔ Kept s₀ s ∨ Kept' s₀ (dsm s d) :=
  kept_or fun h => by simp [dsm, h]

@[simp] theorem ends_execDatasetManagement {d} : Ends s (execDatasetManagement d s) := by simp [execDatasetManagement]

@[simp] theorem kept_copyCmd {d} : Kept s₀ (copyCmd s d) ↔ Kept s₀ s ∨ Kept' s₀ (copyCmd s d) :=
  kept_or fun h => by simp [copyCmd, h]

@[simp] theorem ends_execCopy {d} : Ends s (execCopy d s) := by simp [execCopy]
@[simp] theorem ends_execZoneAppend {d data} : Ends s (execZoneAppend d data s) := by simp [execZoneAppend]

@[simp] theorem kept_sendMack {e} : Kept s₀ (sendMack s e) ↔ Kept s₀ s := by
  unfold sendMack
  split <;> simp

@[simp] theorem kept_writeCommit {d} : Kept s₀ (writeCommit s d) ↔ Kept s₀ s ∨ Kept' s₀ (writeCommit s d) :=
  kept_or fun h => by simp [writeCommit, h]

@[simp] theorem ends_execWriteCommit {d} : Ends s (execWriteCommit d s) := by simp [execWriteCommit]
@[simp] theorem ends_execAckLapse {d} : Ends s (execAckLapse d s) := by simp [execAckLapse]

@[simp] theorem kept_programSlots {e total pos ps} : Kept s₀ (programSlots s e total pos ps) ↔ Kept s₀ s := by
  induction ps generalizing pos s with
  | nil => rfl
  | cons p ps ih => simp [programSlots, ih]

@[simp] theorem kept_directRows {e l} : Kept s₀ (directRows s e l) ↔ Kept s₀ s := by
  unfold directRows
  split <;> simp

@[simp] theorem kept_programmed {d l} : Kept s₀ (programmed s d l) ↔ Kept s₀ s ∨ Kept' s₀ (programmed s d l) :=
  kept_or fun h => by simp [programmed, h]

@[simp] theorem kept_moveBlock {b dst pool} :
    Kept s₀ (moveBlock s b dst pool) ↔ Kept s₀ s ∨ Kept' s₀ (moveBlock s b dst pool) :=
  kept_or fun h => by
    simp [moveBlock, h]

@[simp] theorem kept_notePage {p} : Kept s₀ (notePage s p) ↔ Kept s₀ s := by
  unfold notePage
  split <;> simp

@[simp] theorem ends_execFlashReadComplete {d ps} : Ends s (execFlashReadComplete d ps s) := by
  simp [execFlashReadComplete]

/-! ### Machine/Customs -/

@[simp] theorem kept_scanAccept {sc} : Kept s₀ (scanAccept s sc) ↔ Kept s₀ s := by simp [scanAccept]

@[simp] theorem kept_scanRequest {t r} : Kept s₀ (scanRequest s t r) ↔ Kept s₀ s ∨ Kept' s₀ (scanRequest s t r) :=
  kept_or fun h => by
    unfold scanRequest
    dsimp only
    split <;> simp [h]

@[simp] theorem kept_customsScan {d desc} :
    Kept s₀ (customsScan s d desc) ↔ Kept s₀ s ∨ Kept' s₀ (customsScan s d desc) :=
  kept_or fun h => by
    unfold customsScan
    dsimp only
    repeat' split
    all_goals simp [h]

@[simp] theorem ends_execCustomsScan {d desc} : Ends s (execCustomsScan d desc s) := by simp [execCustomsScan]

@[simp] theorem ends_execScanSlotGrant {i} : Ends s (execScanSlotGrant i s) := by
  rw [execScanSlotGrant, ends_next]
  split
  · split
    · split <;> simp [-List.reduceReplicate]
    · simp
  · simp

theorem kept_unitTake {u a t} (h : unitTake s u = some (a, t)) : Kept s₀ t ↔ Kept s₀ s := by
  unfold unitTake at h
  split at h
  · cases h; simp
  · exact kept_poolTake h

@[simp] theorem kept_putRecord {i u gran r} : Kept s₀ (putRecord s i u gran r).1 ↔ Kept s₀ s := by
  unfold putRecord
  dsimp only
  split
  · simp
  · split
    · simp
    next h => simp [kept_unitTake h]

@[simp] theorem kept_evalRecords {i u gran d rs ord} :
    Kept s₀ (evalRecords i u gran d rs ord s).1 ↔ Kept s₀ s := by
  induction rs generalizing ord s with
  | nil => rfl
  | cons r rs ih =>
    have hput := kept_putRecord (s₀ := s₀) (s := s) (i := i) (u := u) (gran := gran) (r := outRecord d r gran ord)
    unfold evalRecords
    split
    · split
      next h => rw [ih]; simpa [h] using hput
      next h => simpa [h] using hput
    · simp [ih]

@[simp] theorem kept_unitRun {i u x} : Kept s₀ (unitRun s i u x) ↔ Kept s₀ s ∨ Kept' s₀ (unitRun s i u x) :=
  kept_or fun h => by
    have hev : Kept s₀ (evalRecords i u x.gran (getScan s i).desc x.recs x.ord s).1 := by simp [h]
    unfold unitRun
    dsimp only
    split
    next he => rw [he] at hev; simp [hev]
    next he => rw [he] at hev; simp [hev]

@[simp] theorem kept_granuleBad {i g} : Kept s₀ (granuleBad s i g) ↔ Kept s₀ s := by simp [granuleBad]
@[simp] theorem kept_scanCommits {sc} : Kept s₀ (scanCommits s sc) ↔ Kept s₀ s := by simp [scanCommits]

@[simp] theorem kept_customsPage {i g reads} :
    Kept s₀ (customsPage s i g reads) ↔ Kept s₀ s ∨ Kept' s₀ (customsPage s i g reads) :=
  kept_or fun h => by
    unfold customsPage
    dsimp only
    repeat' split
    all_goals simp [h]

@[simp] theorem ends_execCustomsPage {i g reads} : Ends s (execCustomsPage i g reads s) := by simp [execCustomsPage]

@[simp] theorem kept_scanNotice {i b rest} :
    Kept s₀ (scanNotice s i b rest) ↔ Kept s₀ s ∨ Kept' s₀ (scanNotice s i b rest) :=
  kept_or fun h => by
    simp [scanNotice, h]

@[simp] theorem ends_execScanNotice {i} : Ends s (execScanNotice i s) := by
  unfold execScanNotice
  dsimp only
  split <;> simp

@[simp] theorem ends_execScanRingPoll {i} : Ends s (execScanRingPoll i s) := by simp [execScanRingPoll]
@[simp] theorem ends_execScanEnd {i} : Ends s (execScanEnd i s) := by simp +contextual [execScanEnd]

/-! ### Machine/TallyOps -/

@[simp] theorem kept_setRow {r v} : Kept s₀ (setRow s r v) ↔ Kept s₀ s := by simp [setRow]
@[simp] theorem kept_clearBank {b} : Kept s₀ (clearBank s b) ↔ Kept s₀ s := by simp [clearBank]
@[simp] theorem kept_clearTenantBanks {t} : Kept s₀ (clearTenantBanks s t) ↔ Kept s₀ s := by simp [clearTenantBanks]
@[simp] theorem kept_tallyCount {sub code} : Kept s₀ (tallyCount s sub code) ↔ Kept s₀ s := by simp [tallyCount]
@[simp] theorem kept_notePower {first n key} : Kept s₀ (notePower s first n key) ↔ Kept s₀ s := by simp [notePower]

@[simp] theorem kept_searchAt {space first n key after cascade thread docket record} :
    Kept s₀ (searchAt s space first n key after cascade thread docket record).1 ↔ Kept s₀ s := by
  unfold searchAt
  dsimp only
  repeat' split
  all_goals simp

@[simp] theorem kept_ldApply {r} : Kept s₀ (ldApply s r) ↔ Kept s₀ s := by simp [ldApply]

@[simp] theorem kept_ldResolve {space kinds r} : Kept s₀ (ldResolve s space kinds r).1 ↔ Kept s₀ s := by
  simp [ldResolve]

/-! ### Machine/TempOps -/

@[simp] theorem kept_settleTemp : Kept s₀ (settleTemp s) ↔ Kept s₀ s := by simp [settleTemp]

/-! ### Machine/ResetOps -/

@[simp] theorem kept_nextPower : Kept s₀ (nextPower s) ↔ Kept s₀ s := by
  unfold nextPower
  split <;> simp

@[simp] theorem kept_cancelPower {w} : Kept s₀ (cancelPower s w) ↔ Kept s₀ s := by simp [cancelPower]

@[simp] theorem kept_selfTestEnd {result segment notRun} :
    Kept s₀ (selfTestEnd s result segment notRun) ↔ Kept s₀ s := by
  simp [selfTestEnd]

@[simp] theorem kept_resetThread {t} : Kept s₀ (resetThread s t) ↔ Kept s₀ s ∨ Kept' s₀ (resetThread s t) :=
  kept_or fun h => by
    unfold resetThread
    split <;> simp [h]

@[simp] theorem kept_endHostScans {fn} : Kept s₀ (endHostScans s fn) ↔ Kept s₀ s ∨ Kept' s₀ (endHostScans s fn) :=
  kept_or fun h => by simp +contextual [endHostScans, h]

@[simp] theorem kept_resetTenant {space} :
    Kept s₀ (resetTenant s space) ↔ Kept s₀ s ∨ Kept' s₀ (resetTenant s space) :=
  kept_or fun h => by
    simp +contextual [resetTenant, h]

@[simp] theorem kept_resetCommand {d} : Kept s₀ (resetCommand s d) ↔ Kept s₀ s ∨ Kept' s₀ (resetCommand s d) :=
  kept_or fun h => by simp [resetCommand, h]

@[simp] theorem kept_resetCommands {fn} : Kept s₀ (resetCommands s fn) ↔ Kept s₀ s ∨ Kept' s₀ (resetCommands s fn) :=
  kept_or fun h => by simp +contextual [resetCommands, h]

@[simp] theorem kept_revertCompress {fn} : Kept s₀ (revertCompress s fn) ↔ Kept s₀ s := by simp [revertCompress]

@[simp] theorem kept_resetController {fn flr} : Kept s₀ (resetController s fn flr) ↔ Kept s₀ s := by
  simp [resetController]

@[simp] theorem kept_resetFn {fn flr} : Kept s₀ (resetFn s fn flr) ↔ Kept s₀ s ∨ Kept' s₀ (resetFn s fn flr) :=
  kept_or fun h => by simp [resetFn, h]

/-! ### Machine/HostQueues -/

@[simp] theorem kept_doorbellError {fn info} : Kept s₀ (doorbellError s fn info) ↔ Kept s₀ s := by
  simp [doorbellError]

@[simp] theorem ends_execSqTailDoorbell {fn qid tail} : Ends s (execSqTailDoorbell fn qid tail s) := by
  simp [execSqTailDoorbell]

@[simp] theorem ends_execCqHeadDoorbell {fn qid head} : Ends s (execCqHeadDoorbell fn qid head s) := by
  simp [execCqHeadDoorbell]

@[simp] theorem ends_execAggregationTimeExpiry {fn vector} : Ends s (execAggregationTimeExpiry fn vector s) := by
  simp [execAggregationTimeExpiry]

@[simp] theorem kept_noteTurn {fn sqid} : Kept s₀ (noteTurn s fn sqid) ↔ Kept s₀ s := by simp [noteTurn]
@[simp] theorem kept_noteFull {took} : Kept s₀ (noteFull s took) ↔ Kept s₀ s := by simp [noteFull]

@[simp] theorem kept_openDocket {d fn sqid slot q} : Kept s₀ (openDocket s d fn sqid slot q) ↔ Kept s₀ s := by
  simp [openDocket]

@[simp] theorem kept_wakePs4 : Kept s₀ (wakePs4 s) ↔ Kept s₀ s := by simp [wakePs4]
@[simp] theorem kept_fetchSlot {fn sqid} : Kept s₀ (fetchSlot s fn sqid) ↔ Kept s₀ s := by simp [fetchSlot]

@[simp] theorem ends_execCommandFetch {fn sqid d q} : Ends s (execCommandFetch fn sqid d q s) := by
  simp [execCommandFetch]

@[simp] theorem ends_execGlobalFetchResume : Ends s (execGlobalFetchResume s) := by simp [execGlobalFetchResume]

@[simp] theorem ends_execInvalidCommandOpcode {io fn sqid cid} :
    Ends s (execInvalidCommandOpcode io fn sqid cid s) := by
  unfold execInvalidCommandOpcode
  repeat' split
  all_goals simp

@[simp] theorem kept_createSq {a qid size cqid pc} : Kept s₀ (createSq s a qid size cqid pc) ↔ Kept s₀ s := by
  unfold createSq
  split <;> simp

@[simp] theorem ends_execCreateIoSubmissionQueue {a qid size cqid pc} :
    Ends s (execCreateIoSubmissionQueue a qid size cqid pc s) := by
  simp [execCreateIoSubmissionQueue]

@[simp] theorem kept_deleteSq {a qid} : Kept s₀ (deleteSq s a qid) ↔ Kept s₀ s ∨ Kept' s₀ (deleteSq s a qid) :=
  kept_or fun h => by simp +contextual [deleteSq, h]

@[simp] theorem ends_execDeleteIoSubmissionQueue {a qid} : Ends s (execDeleteIoSubmissionQueue a qid s) := by
  simp [execDeleteIoSubmissionQueue]

@[simp] theorem kept_createCq {a qid size vector pc ien} :
    Kept s₀ (createCq s a qid size vector pc ien) ↔ Kept s₀ s := by
  unfold createCq
  split <;> simp

@[simp] theorem ends_execCreateIoCompletionQueue {a qid size vector pc ien} :
    Ends s (execCreateIoCompletionQueue a qid size vector pc ien s) := by
  simp [execCreateIoCompletionQueue]

@[simp] theorem kept_deleteCq {a qid} : Kept s₀ (deleteCq s a qid) ↔ Kept s₀ s := by simp [deleteCq]

@[simp] theorem ends_execDeleteIoCompletionQueue {a qid} : Ends s (execDeleteIoCompletionQueue a qid s) := by
  simp [execDeleteIoCompletionQueue]

@[simp] theorem ends_execControllerEnable {fn} : Ends s (execControllerEnable fn s) := by simp [execControllerEnable]
@[simp] theorem ends_execControllerReset {fn} : Ends s (execControllerReset fn s) := by simp [execControllerReset]

@[simp] theorem ends_execFunctionLevelReset {fn} : Ends s (execFunctionLevelReset fn s) := by
  simp [execFunctionLevelReset]

@[simp] theorem ends_execControllerShutdown {fn} : Ends s (execControllerShutdown fn s) := by
  simp [execControllerShutdown]

@[simp] theorem kept_settlePort {p} : Kept s₀ (settlePort s p) ↔ Kept s₀ s := by simp [settlePort]

@[simp] theorem kept_perstAssert {p} : Kept s₀ (perstAssert s p) ↔ Kept s₀ s ∨ Kept' s₀ (perstAssert s p) :=
  kept_or fun h => by simp +contextual [perstAssert, h]

@[simp] theorem ends_execPerstNAssert {p} : Ends s (execPerstNAssert p s) := by simp [execPerstNAssert]
@[simp] theorem ends_execPerstNDeassert {p} : Ends s (execPerstNDeassert p s) := by simp [execPerstNDeassert]
@[simp] theorem ends_execSriovVfEnable {p} : Ends s (execSriovVfEnable p s) := by simp [execSriovVfEnable]

@[simp] theorem ends_execPrimaryFlexibleAllocation {a vi count} :
    Ends s (execPrimaryFlexibleAllocation a vi count s) := by
  simp [execPrimaryFlexibleAllocation]

@[simp] theorem ends_execSecondaryOffline {a c} : Ends s (execSecondaryOffline a c s) := by
  simp [execSecondaryOffline]

@[simp] theorem ends_execSecondaryResourcesReturn {fn} : Ends s (execSecondaryResourcesReturn fn s) := by
  simp [execSecondaryResourcesReturn]

@[simp] theorem ends_execSecondaryAssign {a c vi count} : Ends s (execSecondaryAssign a c vi count s) := by
  simp [execSecondaryAssign]

@[simp] theorem ends_execSecondaryOnline {a c} : Ends s (execSecondaryOnline a c s) := by simp [execSecondaryOnline]
@[simp] theorem kept_abortDone {a aborted} : Kept s₀ (abortDone s a aborted) ↔ Kept s₀ s := by simp [abortDone]

@[simp] theorem kept_abortCmd {a sqid cid} :
    Kept s₀ (abortCmd s a sqid cid) ↔ Kept s₀ s ∨ Kept' s₀ (abortCmd s a sqid cid) :=
  kept_or fun h => by
    unfold abortCmd
    repeat' split
    all_goals simp [h]

@[simp] theorem ends_execAbort {a sqid cid} : Ends s (execAbort a sqid cid s) := by simp [execAbort]

@[simp] theorem ends_execAsynchronousEventRequest {a} : Ends s (execAsynchronousEventRequest a s) := by
  unfold execAsynchronousEventRequest
  split <;> simp

@[simp] theorem kept_thawQueue {a dw10 dw11} : Kept s₀ (thawQueue s a dw10 dw11) ↔ Kept s₀ s := by
  unfold thawQueue
  dsimp only
  repeat' split
  all_goals simp

@[simp] theorem ends_execThawQueue {a dw10 dw11} : Ends s (execThawQueue a dw10 dw11 s) := by simp [execThawQueue]

/-! ### Machine/Features -/

@[simp] theorem kept_setPlain {a fid nsid dw11 data} : Kept s₀ (setPlain s a fid nsid dw11 data) ↔ Kept s₀ s := by
  unfold setPlain
  dsimp only
  split <;> simp

@[simp] theorem ends_execSetFeatures {a fid nsid save dw11 data} :
    Ends s (execSetFeatures a fid nsid save dw11 data s) := by
  unfold execSetFeatures
  repeat' split
  all_goals simp

@[simp] theorem kept_setNumberOfQueues {a nsq ncq} : Kept s₀ (setNumberOfQueues s a nsq ncq) ↔ Kept s₀ s := by
  simp [setNumberOfQueues]

@[simp] theorem ends_execSetNumberOfQueues {a save nsq ncq} : Ends s (execSetNumberOfQueues a save nsq ncq s) := by
  unfold execSetNumberOfQueues
  split <;> simp

@[simp] theorem ends_execSetTimestamp {a save ms} : Ends s (execSetTimestamp a save ms s) := by
  unfold execSetTimestamp
  split <;> simp

@[simp] theorem ends_execSetOrderedQueueMode {a save dw11} : Ends s (execSetOrderedQueueMode a save dw11 s) := by
  unfold execSetOrderedQueueMode
  split <;> simp

@[simp] theorem kept_applyLanding {v save} : Kept s₀ (applyLanding s v save).2 ↔ Kept s₀ s := by
  unfold applyLanding
  dsimp only
  repeat' split
  all_goals simp

@[simp] theorem ends_execSetLandingPolicy {a save dw11} : Ends s (execSetLandingPolicy a save dw11 s) := by
  have hl : Kept s (applyLanding s dw11.toNat save).2 := by simp
  refine ends_admin (.refl s) ?_
  split
  · simp
  · split
    next he => rw [he] at hl; simp [hl]
    next he => rw [he] at hl; simp [hl]

@[simp] theorem kept_setCompression {a save nsid v} :
    Kept s₀ (setCompression s a save nsid v) ↔ Kept s₀ s ∨ Kept' s₀ (setCompression s a save nsid v) :=
  kept_or fun h => by
    simp [setCompression, h]

@[simp] theorem ends_execSetWritePathCompression {a save nsid dw11} :
    Ends s (execSetWritePathCompression a save nsid dw11 s) := by
  unfold execSetWritePathCompression
  split <;> simp

@[simp] theorem ends_execSetPowerManagement {a save ps} : Ends s (execSetPowerManagement a save ps s) := by
  unfold execSetPowerManagement
  repeat' split
  all_goals simp

@[simp] theorem ends_execPowerStateReached : Ends s (execPowerStateReached s) := by
  unfold execPowerStateReached
  split <;> simp

@[simp] theorem ends_execPs4IdleEntry : Ends s (execPs4IdleEntry s) := by simp [execPs4IdleEntry]

@[simp] theorem kept_getFeature {a fid nsid dw11} : Kept s₀ (getFeature s a fid nsid dw11) ↔ Kept s₀ s := by
  unfold getFeature
  split <;> simp

@[simp] theorem ends_execGetFeatures {a fid nsid dw11} : Ends s (execGetFeatures a fid nsid dw11 s) := by
  simp [execGetFeatures]

/-! ### Machine/Leases -/

@[simp] theorem kept_leaseApply {t kind v} :
    Kept s₀ (leaseApply s t kind v) ↔ Kept s₀ s ∨ Kept' s₀ (leaseApply s t kind v) :=
  kept_or fun h => by
    simp [leaseApply, h]

@[simp] theorem kept_tenantLease {kind a dw10 dw11} :
    Kept s₀ (tenantLease kind a dw10 dw11 s) ↔ Kept s₀ s ∨ Kept' s₀ (tenantLease kind a dw10 dw11 s) :=
  kept_or fun h => by
    unfold tenantLease
    dsimp only
    repeat' split
    all_goals simp [h]

@[simp] theorem ends_execTenantLeaseCores {a dw10 dw11} : Ends s (execTenantLeaseCores a dw10 dw11 s) := by
  simp [execTenantLeaseCores]

@[simp] theorem ends_execTenantLeaseSlm {a dw10 dw11} : Ends s (execTenantLeaseSlm a dw10 dw11 s) := by
  simp [execTenantLeaseSlm]

@[simp] theorem ends_execTenantLeaseDocketCeiling {a dw10 dw11} :
    Ends s (execTenantLeaseDocketCeiling a dw10 dw11 s) := by
  simp [execTenantLeaseDocketCeiling]

@[simp] theorem ends_execTenantLeaseFetchWeight {a dw10 dw11} :
    Ends s (execTenantLeaseFetchWeight a dw10 dw11 s) := by
  simp [execTenantLeaseFetchWeight]

@[simp] theorem ends_execTenantLeaseTallyRows {a dw10 dw11} : Ends s (execTenantLeaseTallyRows a dw10 dw11 s) := by
  simp [execTenantLeaseTallyRows]

@[simp] theorem ends_execTenantLeaseReadBack {a dw10 dw11} : Ends s (execTenantLeaseReadBack a dw10 dw11 s) := by
  simp [execTenantLeaseReadBack]

/-! ### Machine/Dictionary -/

@[simp] theorem kept_rescheduleBeat {old new} : Kept s₀ (rescheduleBeat s old new) ↔ Kept s₀ s := by
  simp [rescheduleBeat]

@[simp] theorem kept_reseed : Kept s₀ (reseed s) ↔ Kept s₀ s := by simp [reseed]
@[simp] theorem kept_setCal {i sub v} : Kept s₀ (setCal s i sub v) ↔ Kept s₀ s := by simp [setCal]
@[simp] theorem kept_clearLow : Kept s₀ (clearLow s) ↔ Kept s₀ s := by simp [clearLow]

@[simp] theorem kept_applyWrite {i sub pers v} :
    Kept s₀ (applyWrite s i sub pers v) ↔ Kept s₀ s ∨ Kept' s₀ (applyWrite s i sub pers v) :=
  kept_or fun h => by
    simp [applyWrite, h]

@[simp] theorem kept_writeLease {t kind sub v r n} :
    Kept s₀ (writeLease s t kind sub v r n) ↔ Kept s₀ s ∨ Kept' s₀ (writeLease s t kind sub v r n) :=
  kept_or fun h => by
    unfold writeLease
    dsimp only
    split <;> simp [h]

@[simp] theorem kept_dictWrite {p i sub data r} :
    Kept s₀ (dictWrite s p i sub data r) ↔ Kept s₀ s ∨ Kept' s₀ (dictWrite s p i sub data r) :=
  kept_or fun h => by
    unfold dictWrite
    dsimp only
    repeat' split
    all_goals simp [h]

@[simp] theorem ends_rowWrite {p i sub data} : Ends s (rowWrite s p i sub data) := by simp [rowWrite]

@[simp] theorem ends_execDictionaryWrite {path index sub data} :
    Ends s (execDictionaryWrite path index sub data s) := by
  simp [execDictionaryWrite]

@[simp] theorem ends_execCalReseed {path data} : Ends s (execCalReseed path data s) := by simp [execCalReseed]

@[simp] theorem ends_execCalibrationWrite {path index sub data} :
    Ends s (execCalibrationWrite path index sub data s) := by
  simp [execCalibrationWrite]

@[simp] theorem ends_execPilotParameterWrite {path slot sub data} :
    Ends s (execPilotParameterWrite path slot sub data s) := by
  simp [execPilotParameterWrite]

@[simp] theorem ends_execRate {path slot data} : Ends s (execRate path slot data s) := by simp [execRate]
@[simp] theorem ends_execEnable {path slot data} : Ends s (execEnable path slot data s) := by simp [execEnable]
@[simp] theorem ends_execPathWrite {path data} : Ends s (execPathWrite path data s) := by simp [execPathWrite]
@[simp] theorem ends_execHbPeriodMs {path data} : Ends s (execHbPeriodMs path data s) := by simp [execHbPeriodMs]
@[simp] theorem ends_execNsidHalf {path data} : Ends s (execNsidHalf path data s) := by simp [execNsidHalf]
@[simp] theorem ends_execPort {path tenant data} : Ends s (execPort path tenant data s) := by simp [execPort]

@[simp] theorem ends_execLeaseEntryWrite {path tenant sub data} :
    Ends s (execLeaseEntryWrite path tenant sub data s) := by
  simp [execLeaseEntryWrite]

@[simp] theorem ends_execLandingPolicy {path sub data} : Ends s (execLandingPolicy path sub data s) := by
  simp [execLandingPolicy]

@[simp] theorem ends_execWpEngines {path data} : Ends s (execWpEngines path data s) := by simp [execWpEngines]
@[simp] theorem ends_execFwEngines {path data} : Ends s (execFwEngines path data s) := by simp [execFwEngines]
@[simp] theorem ends_execOpCap {path data} : Ends s (execOpCap path data s) := by simp [execOpCap]
@[simp] theorem ends_execQuayEnable {path data} : Ends s (execQuayEnable path data s) := by simp [execQuayEnable]

@[simp] theorem ends_execClusterEnable {path data} : Ends s (execClusterEnable path data s) := by
  simp [execClusterEnable]

@[simp] theorem ends_execRefclkMode {path data} : Ends s (execRefclkMode path data s) := by simp [execRefclkMode]

@[simp] theorem ends_execPlcaWrite {path port sub data} : Ends s (execPlcaWrite path port sub data s) := by
  simp [execPlcaWrite]

@[simp] theorem ends_execDredgeEnable {path data} : Ends s (execDredgeEnable path data s) := by
  simp [execDredgeEnable]

@[simp] theorem ends_execClearLow {path data} : Ends s (execClearLow path data s) := by simp [execClearLow]
@[simp] theorem ends_execHeartbeat : Ends s (execHeartbeat s) := by simp [execHeartbeat]

/-! ### Machine/Firmware -/

@[simp] theorem kept_fwDownload {a off data} : Kept s₀ (fwDownload s a off data) ↔ Kept s₀ s := by simp [fwDownload]

@[simp] theorem ends_adminPfAny {a t} (hs : Kept s₀ s) (ht : Kept s₀ t) : Ends s₀ (adminPfAny s a t) := by
  simp [adminPfAny, hs, ht]

@[simp] theorem ends_execFirmwareImageDownload {a off data} : Ends s (execFirmwareImageDownload a off data s) := by
  simp [execFirmwareImageDownload]

@[simp] theorem kept_storeImage {slot b} : Kept s₀ (storeImage s slot b) ↔ Kept s₀ s := by simp [storeImage]

@[simp] theorem kept_fwStore {slot} : Kept s₀ (fwStore s slot).2 ↔ Kept s₀ s := by
  unfold fwStore
  dsimp only
  repeat' split
  all_goals simp

@[simp] theorem ends_execFirmwareCommitStore {a slot} : Ends s (execFirmwareCommitStore a slot s) := by
  have hf : Kept s (fwStore s slot).2 := by simp
  refine ends_adminPfAny (.refl s) ?_
  split
  next he => rw [he] at hf; simp [hf]
  next he => rw [he] at hf; simp [hf]

@[simp] theorem ends_execFirmwareCommitReplaceActivate {a slot} :
    Ends s (execFirmwareCommitReplaceActivate a slot s) := by
  have hf : Kept s (fwStore s slot).2 := by simp
  refine ends_adminPfAny (.refl s) ?_
  split
  · simp
  · split
    next he => rw [he] at hf; simp [hf]
    next he => rw [he] at hf; simp [hf]

@[simp] theorem ends_execFirmwareCommitActivate {a slot} : Ends s (execFirmwareCommitActivate a slot s) := by
  unfold execFirmwareCommitActivate
  split <;> simp

@[simp] theorem kept_settleSpaces : Kept s₀ (settleSpaces s) ↔ Kept s₀ s ∨ Kept' s₀ (settleSpaces s) :=
  kept_or fun h => by simp +contextual [settleSpaces, h]

@[simp] theorem ends_execFirmwareCommitActivateNow {a slot} : Ends s (execFirmwareCommitActivateNow a slot s) := by
  unfold execFirmwareCommitActivateNow
  split <;> simp

@[simp] theorem ends_execFwDrainComplete : Ends s (execFwDrainComplete s) := by
  unfold execFwDrainComplete
  split <;> simp

@[simp] theorem ends_execFwActivationTimeout : Ends s (execFwActivationTimeout s) := by
  unfold execFwActivationTimeout
  split <;> simp

/-! ### Machine/Zones -/

theorem kept_foldl_snd {α β : Type} {f : β × State → α → β × State} (h : ∀ r x, Kept s₀ r.2 → Kept s₀ (f r x).2)
    (l : List α) (r : β × State) (hr : Kept s₀ r.2) : Kept s₀ (l.foldl f r).2 := by
  induction l generalizing r with
  | nil => exact hr
  | cons x l ih => exact ih _ (h r x hr)

@[simp] theorem kept_zoneSend {d} : Kept s₀ (zoneSend s d) ↔ Kept s₀ s ∨ Kept' s₀ (zoneSend s d) :=
  kept_or fun h => by
    unfold zoneSend
    dsimp only
    split
    · simp [h]
    · split
      · simp [h]
      · split
        · suffices hend : ∀ r : Option Status × State, Kept s₀ r.2 →
              Kept s₀ (match r.1 with | some st => ioFail r.2 d st | none => recordCommand r.2 d []) from
            hend _ (kept_foldl_snd (fun r z hr => by repeat' split
                                                     all_goals simp [hr]) _ _ h)
          intro r hr
          split <;> simp [hr]
        · split <;> simp [h]

@[simp] theorem ends_execZoneOpen {d} : Ends s (execZoneOpen d s) := by simp [execZoneOpen]
@[simp] theorem ends_execZoneClose {d} : Ends s (execZoneClose d s) := by simp [execZoneClose]
@[simp] theorem ends_execZoneFinish {d} : Ends s (execZoneFinish d s) := by simp [execZoneFinish]
@[simp] theorem ends_execZoneReset {d} : Ends s (execZoneReset d s) := by simp [execZoneReset]
@[simp] theorem ends_execZoneOffline {d} : Ends s (execZoneOffline d s) := by simp [execZoneOffline]

@[simp] theorem kept_zoneReport {d} : Kept s₀ (zoneReport s d) ↔ Kept s₀ s ∨ Kept' s₀ (zoneReport s d) :=
  kept_or fun h => by simp [zoneReport, h]

@[simp] theorem ends_execZoneManagementReceive {d} : Ends s (execZoneManagementReceive d s) := by
  simp [execZoneManagementReceive]

@[simp] theorem kept_resvNs {d data run} (h : Kept s₀ s) (hrun : Kept s₀ (run (begun s d))) :
    Kept s₀ (resvNs s d data run) := by
  unfold resvNs
  dsimp only
  repeat' split
  all_goals first | exact hrun | simp [h]

@[simp] theorem kept_resvNotify {nsid fn typ was} : Kept s₀ (resvNotify s nsid fn typ was) ↔ Kept s₀ s := by
  simp [resvNotify]

@[simp] theorem kept_abortPreempted {nsid fn was now} :
    Kept s₀ (abortPreempted s nsid fn was now) ↔ Kept s₀ s ∨ Kept' s₀ (abortPreempted s nsid fn was now) :=
  kept_or fun h => by
    simp +contextual [abortPreempted, h]

@[simp] theorem kept_resvCmd {d act} : Kept s₀ (resvCmd s d act) ↔ Kept s₀ s ∨ Kept' s₀ (resvCmd s d act) :=
  kept_or fun h => by
    unfold resvCmd
    dsimp only
    repeat' split
    all_goals simp [h]

@[simp] theorem kept_resvRow {d mine act} :
    Kept s₀ (resvRow s d mine act) ↔ Kept s₀ s ∨ Kept' s₀ (resvRow s d mine act) :=
  kept_or fun h => by
    simp [resvRow, h]

@[simp] theorem kept_reportResv {d} : Kept s₀ (reportResv s d) ↔ Kept s₀ s ∨ Kept' s₀ (reportResv s d) :=
  kept_or fun h => by simp [reportResv, h]

@[simp] theorem ends_execReservationRegister {d act} : Ends s (execReservationRegister d act s) := by
  simp [execReservationRegister]

@[simp] theorem ends_execReservationAcquire {d act} : Ends s (execReservationAcquire d act s) := by
  simp [execReservationAcquire]

@[simp] theorem ends_execReservationRelease {d act} : Ends s (execReservationRelease d act s) := by
  simp [execReservationRelease]

@[simp] theorem ends_execReservationReport {d} : Ends s (execReservationReport d s) := by simp [execReservationReport]

/-! ### Machine/MediaCmds -/

@[simp] theorem ends_execJournalPageProgram : Ends s (execJournalPageProgram s) := by simp [execJournalPageProgram]
@[simp] theorem ends_execCheckpointPass : Ends s (execCheckpointPass s) := by simp [execCheckpointPass]

@[simp] theorem kept_startReloc {r} : Kept s₀ (startReloc s r) ↔ Kept s₀ s := by
  unfold startReloc
  split <;> simp

@[simp] theorem ends_execFoldStart {units zoneFold} : Ends s (execFoldStart units zoneFold s) := by
  simp [execFoldStart]

@[simp] theorem ends_execFoldMaxage {unit} : Ends s (execFoldMaxage unit s) := by
  unfold execFoldMaxage
  dsimp only
  split <;> simp

@[simp] theorem kept_moveLot {kind l block} : Kept s₀ (moveLot s kind l block) ↔ Kept s₀ s := by
  unfold moveLot
  dsimp only
  repeat' split
  all_goals simp

@[simp] theorem ends_execGcStart {group} : Ends s (execGcStart group s) := by
  unfold execGcStart
  split <;> simp

@[simp] theorem ends_execRefreshStart {block} : Ends s (execRefreshStart block s) := by
  unfold execRefreshStart
  dsimp only
  repeat' split
  all_goals simp

@[simp] theorem ends_execReadDisturbThreshold {block} : Ends s (execReadDisturbThreshold block s) := by
  simp [execReadDisturbThreshold]

@[simp] theorem kept_copyUnit {jsn u p} : Kept s₀ (copyUnit jsn s u p) ↔ Kept s₀ s := by simp [copyUnit]

@[simp] theorem kept_relocRows {m r ps} : Kept s₀ (relocRows s m r ps) ↔ Kept s₀ s := by
  unfold relocRows
  repeat' split
  all_goals simp

@[simp] theorem kept_relocCopied {k r dests reads} :
    Kept s₀ (relocCopied s k r dests reads) ↔ Kept s₀ s ∨ Kept' s₀ (relocCopied s k r dests reads) :=
  kept_or fun h => by
    simp [relocCopied, h]

@[simp] theorem kept_resumeZones : Kept s₀ (resumeZones s) ↔ Kept s₀ s ∨ Kept' s₀ (resumeZones s) :=
  kept_or fun h => by simp +contextual [resumeZones, h]

@[simp] theorem ends_execRelocationCopyDone {reloc copy} : Ends s (execRelocationCopyDone reloc copy s) := by
  simp [execRelocationCopyDone]

@[simp] theorem ends_execSourceErase {reloc} : Ends s (execSourceErase reloc s) := by
  unfold execSourceErase
  dsimp only
  split <;> simp

@[simp] theorem kept_retireMember {l b replacement} :
    Kept s₀ (retireMember s l b replacement) ↔ Kept s₀ s ∨ Kept' s₀ (retireMember s l b replacement) :=
  kept_or fun h => by
    unfold retireMember
    split <;> simp [h]

@[simp] theorem kept_eraseBlock {b} : Kept s₀ (eraseBlock s b) ↔ Kept s₀ s := by simp [eraseBlock]

@[simp] theorem ends_execFlashEraseComplete {block ok replacement} :
    Ends s (execFlashEraseComplete block ok replacement s) := by
  unfold execFlashEraseComplete
  dsimp only
  split <;> simp

@[simp] theorem kept_programFailed {b} : Kept s₀ (programFailed s b) ↔ Kept s₀ s ∨ Kept' s₀ (programFailed s b) :=
  kept_or fun h => by
    unfold programFailed
    dsimp only
    repeat' split
    all_goals simp [h]

@[simp] theorem ends_execFlashProgramComplete {d res} : Ends s (execFlashProgramComplete d res s) := by
  unfold execFlashProgramComplete
  split <;> simp

@[simp] theorem kept_settleDegraded : Kept s₀ (settleDegraded s) ↔ Kept s₀ s := by simp [settleDegraded]

@[simp] theorem ends_execChannelFailure {channel} : Ends s (execChannelFailure channel s) := by
  simp [execChannelFailure]

@[simp] theorem kept_settleLot {l} : Kept s₀ (settleLot s l) ↔ Kept s₀ s ∨ Kept' s₀ (settleLot s l) :=
  kept_or fun h => by simp [settleLot, h]

@[simp] theorem kept_degradeLot {l i old} :
    Kept s₀ (degradeLot s l i old) ↔ Kept s₀ s ∨ Kept' s₀ (degradeLot s l i old) :=
  kept_or fun h => by
    simp [degradeLot, h]

@[simp] theorem ends_execLotRebuild {lot mem block} : Ends s (execLotRebuild lot mem block s) := by
  unfold execLotRebuild
  dsimp only
  split <;> simp

@[simp] theorem ends_execWearSwap {channel src dst} : Ends s (execWearSwap channel src dst s) := by
  simp [execWearSwap]

@[simp] theorem ends_execLotDegraded24h {lot} : Ends s (execLotDegraded24h lot s) := by simp [execLotDegraded24h]

/-! ### Machine/Logs -/

@[simp] theorem ends_execIdentify {a cns nsid cntid} : Ends s (execIdentify a cns nsid cntid s) := by
  unfold execIdentify
  split <;> simp

@[simp] theorem kept_collectCtrl : Kept s₀ (collectCtrl s) ↔ Kept s₀ s := by simp [collectCtrl]

@[simp] theorem kept_logRead {fn lid nsid} : Kept s₀ (logRead s fn lid nsid) ↔ Kept s₀ s := by
  unfold logRead
  split <;> simp

@[simp] theorem ends_getLog {a lid nsid lsi part} : Ends s (getLog s a lid nsid lsi part) := by
  unfold getLog
  repeat' split
  all_goals simp

@[simp] theorem ends_execGetLogPage {a lid nsid} : Ends s (execGetLogPage a lid nsid s) := by simp [execGetLogPage]

@[simp] theorem ends_execLogFreezeRecord {a off len} : Ends s (execLogFreezeRecord a off len s) := by
  simp [execLogFreezeRecord]

@[simp] theorem ends_execLogPilotAndPower {a off len} : Ends s (execLogPilotAndPower a off len s) := by
  simp [execLogPilotAndPower]

@[simp] theorem ends_execLogDredgeResults {a off len} : Ends s (execLogDredgeResults a off len s) := by
  simp [execLogDredgeResults]

@[simp] theorem ends_execLogPairState {a off len} : Ends s (execLogPairState a off len s) := by
  simp [execLogPairState]

@[simp] theorem ends_execLogTenantFaultRecords {a lsi off len} :
    Ends s (execLogTenantFaultRecords a lsi off len s) := by
  simp [execLogTenantFaultRecords]

@[simp] theorem ends_execLogTelemetry {a controllerInitiated create area} :
    Ends s (execLogTelemetry a controllerInitiated create area s) := by
  simp [execLogTelemetry]

@[simp] theorem kept_selfTestStart {a code nsid} : Kept s₀ (selfTestStart s a code nsid) ↔ Kept s₀ s := by
  simp [selfTestStart]

@[simp] theorem ends_execSelfTestShort {a nsid} : Ends s (execSelfTestShort a nsid s) := by simp [execSelfTestShort]

@[simp] theorem ends_execSelfTestExtended {a nsid} : Ends s (execSelfTestExtended a nsid s) := by
  simp [execSelfTestExtended]

@[simp] theorem ends_execSelfTestAbort {a} : Ends s (execSelfTestAbort a s) := by simp [execSelfTestAbort]

/-! ### Machine/Synmon -/

@[simp] theorem kept_tunnel {svc a dw10 dw11 run} (hs : Kept s₀ s) (ht : Kept s₀ run) :
    Kept s₀ (tunnel svc a dw10 dw11 s run) := by
  simp [tunnel, hs, ht]

@[simp] theorem kept_readAt {i sub room r fill} : Kept s₀ (readAt s i sub room r fill) ↔ Kept s₀ s := by
  unfold readAt
  split <;> simp

@[simp] theorem kept_blockReadAt {i sub room r fill} : Kept s₀ (blockReadAt s i sub room r fill) ↔ Kept s₀ s := by
  unfold blockReadAt
  split <;> simp

@[simp] theorem ends_execSynmonTunnelRead {a dw10 dw11} : Ends s (execSynmonTunnelRead a dw10 dw11 s) := by
  simp [execSynmonTunnelRead]

@[simp] theorem ends_execSynmonTunnelWrite {a dw10 dw11 data} :
    Ends s (execSynmonTunnelWrite a dw10 dw11 data s) := by
  simp [execSynmonTunnelWrite]

@[simp] theorem ends_execSynmonTunnelBlockRead {a dw10 dw11} : Ends s (execSynmonTunnelBlockRead a dw10 dw11 s) := by
  simp [execSynmonTunnelBlockRead]

@[simp] theorem kept_nodeService {port f r} :
    Kept s₀ (nodeService s port f r) ↔ Kept s₀ s ∨ Kept' s₀ (nodeService s port f r) :=
  kept_or fun h => by
    simp [nodeService, h]

@[simp] theorem kept_requestService {port f r} :
    Kept s₀ (requestService s port f r) ↔ Kept s₀ s ∨ Kept' s₀ (requestService s port f r) :=
  kept_or fun h => by
    unfold requestService
    dsimp only
    repeat' split
    all_goals simp [h]

@[simp] theorem kept_receiveFrame {port f} :
    Kept s₀ (receiveFrame s port f) ↔ Kept s₀ s ∨ Kept' s₀ (receiveFrame s port f) :=
  kept_or fun h => by
    simp [receiveFrame, h]

@[simp] theorem ends_frameRow {port f} : Ends s (frameRow s port f) := by simp [frameRow]
@[simp] theorem ends_execSynmonRead {port f} : Ends s (execSynmonRead port f s) := by simp [execSynmonRead]
@[simp] theorem ends_execSynmonWrite {port f} : Ends s (execSynmonWrite port f s) := by simp [execSynmonWrite]

@[simp] theorem ends_execSynmonBlockRead {port f} : Ends s (execSynmonBlockRead port f s) := by
  simp [execSynmonBlockRead]

@[simp] theorem ends_execNodeIdQuery {port f} : Ends s (execNodeIdQuery port f s) := by simp [execNodeIdQuery]
@[simp] theorem ends_execNodeIdAssign {port f} : Ends s (execNodeIdAssign port f s) := by simp [execNodeIdAssign]

@[simp] theorem ends_miAccess {svc port nmd0 nmd1 data run} (hs : Kept s₀ s) (ht : Kept s₀ run) :
    Ends s₀ (miAccess svc port nmd0 nmd1 data s run) := by
  simp [miAccess, hs, ht]

@[simp] theorem ends_execMiSynmonRead {port nmd0 nmd1 data} : Ends s (execMiSynmonRead port nmd0 nmd1 data s) := by
  simp [execMiSynmonRead]

@[simp] theorem ends_execMiSynmonWrite {port nmd0 nmd1 data} : Ends s (execMiSynmonWrite port nmd0 nmd1 data s) := by
  simp [execMiSynmonWrite]

@[simp] theorem ends_execMiSynmonBlockRead {port nmd0 nmd1 data} :
    Ends s (execMiSynmonBlockRead port nmd0 nmd1 data s) := by
  simp [execMiSynmonBlockRead]

/-! ### Machine/Mi -/

@[simp] theorem ends_miRow {port t} (hs : Kept s₀ s) (ht : Kept s₀ t) : Ends s₀ (miRow s port t) := by
  simp [miRow, hs, ht]

@[simp] theorem kept_miSay {port st p} : Kept s₀ (miSay s port st p) ↔ Kept s₀ s := by simp [miSay]

@[simp] theorem ends_miHarbour {port t} (hs : Kept s₀ s) (ht : Kept s₀ t) : Ends s₀ (miHarbour s port t) := by
  simp [miHarbour, miSay, hs, ht]

@[simp] theorem kept_clearHealth {port bits} : Kept s₀ (clearHealth s port bits) ↔ Kept s₀ s := by simp [clearHealth]

@[simp] theorem ends_execMiSubsystemHealthPoll {port clear} : Ends s (execMiSubsystemHealthPoll port clear s) := by
  simp [execMiSubsystemHealthPoll]

@[simp] theorem ends_execMiControllerHealthPoll {port cntlid} :
    Ends s (execMiControllerHealthPoll port cntlid s) := by
  simp [execMiControllerHealthPoll]

@[simp] theorem ends_execMiReadDataStructure {port dtyp portid cntlid} :
    Ends s (execMiReadDataStructure port dtyp portid cntlid s) := by
  unfold execMiReadDataStructure
  repeat' split
  all_goals simp

@[simp] theorem ends_execMiConfigurationSet {port cfg value} : Ends s (execMiConfigurationSet port cfg value s) := by
  simp [execMiConfigurationSet]

@[simp] theorem ends_execMiConfigurationGet {port cfg} : Ends s (execMiConfigurationGet port cfg s) := by
  simp [execMiConfigurationGet]

@[simp] theorem ends_execMiVpdRead {port off len} : Ends s (execMiVpdRead port off len s) := by simp [execMiVpdRead]

@[simp] theorem kept_miAdmin {port fn c} : Kept s₀ (miAdmin s port fn c) ↔ Kept s₀ s := by
  unfold miAdmin
  dsimp only
  repeat' split
  all_goals simp

@[simp] theorem ends_execMiAdminCommand {port cntlid cmd} : Ends s (execMiAdminCommand port cntlid cmd s) := by
  simp [execMiAdminCommand]

@[simp] theorem ends_execMctpSetEndpointId {port eid} : Ends s (execMctpSetEndpointId port eid s) := by
  simp [execMctpSetEndpointId]

@[simp] theorem ends_execMctpGetEndpointId {port} : Ends s (execMctpGetEndpointId port s) := by
  simp [execMctpGetEndpointId]

@[simp] theorem ends_execMctpGetEndpointUuid {port} : Ends s (execMctpGetEndpointUuid port s) := by
  simp [execMctpGetEndpointUuid]

@[simp] theorem ends_execMctpGetVersionSupport {port mtype} : Ends s (execMctpGetVersionSupport port mtype s) := by
  simp [execMctpGetVersionSupport]

@[simp] theorem ends_execMctpGetMessageTypeSupport {port} : Ends s (execMctpGetMessageTypeSupport port s) := by
  simp [execMctpGetMessageTypeSupport]

@[simp] theorem kept_takeAddress {port addr} : Kept s₀ (takeAddress s port addr) ↔ Kept s₀ s := by simp [takeAddress]
@[simp] theorem ends_execI3cEntdaa {port addr} : Ends s (execI3cEntdaa port addr s) := by simp [execI3cEntdaa]

@[simp] theorem ends_execI3cSetdasa {port static addr} : Ends s (execI3cSetdasa port static addr s) := by
  simp [execI3cSetdasa]

/-! ### Machine/Land -/

@[simp] theorem kept_putSlots {a nsid b tweak tag} : Kept s₀ (putSlots s a nsid b tweak tag) ↔ Kept s₀ s := by
  simp [putSlots]

/-! ### Machine/Keys -/

@[simp] theorem kept_keyCounts : Kept s₀ (keyCounts s) ↔ Kept s₀ s := by simp [keyCounts]

@[simp] theorem kept_putSlot {i k} : Kept s₀ (putSlot s i k) ↔ Kept s₀ s := by
  unfold putSlot
  split <;> simp

@[simp] theorem kept_slotOp {slot op kind tenant key} : Kept s₀ (slotOp s slot op kind tenant key) ↔ Kept s₀ s := by
  unfold slotOp
  split <;> simp

@[simp] theorem kept_keyFail {a st dw0} : Kept s₀ (keyFail s a st dw0) ↔ Kept s₀ s := by simp [keyFail]

@[simp] theorem kept_slotCommit {a slot op kind tenant key wrapped} :
    Kept s₀ (slotCommit s a slot op kind tenant key wrapped) ↔
      Kept s₀ s ∨ Kept' s₀ (slotCommit s a slot op kind tenant key wrapped) :=
  kept_or fun h => by
    simp [slotCommit, h]

@[simp] theorem kept_setModuleKey {k} : Kept s₀ (setModuleKey s k) ↔ Kept s₀ s := by simp [setModuleKey]

@[simp] theorem kept_keySlotLoad {op a dw10 dw11 dw12 data} :
    Kept s₀ (keySlotLoad op a dw10 dw11 dw12 data s) ↔ Kept s₀ s ∨ Kept' s₀ (keySlotLoad op a dw10 dw11 dw12 data s) :=
  kept_or fun h => by
    unfold keySlotLoad
    dsimp only
    repeat' split
    all_goals simp [h]

@[simp] theorem ends_execKeySlotLoad {a dw10 dw11 dw12 data} : Ends s (execKeySlotLoad a dw10 dw11 dw12 data s) := by
  simp [execKeySlotLoad]

@[simp] theorem ends_execKeySlotClear {a dw10 dw11 dw12 data} :
    Ends s (execKeySlotClear a dw10 dw11 dw12 data s) := by
  simp [execKeySlotClear]

@[simp] theorem ends_execKeySlotAssign {a dw10 dw11 dw12 data} :
    Ends s (execKeySlotAssign a dw10 dw11 dw12 data s) := by
  simp [execKeySlotAssign]

@[simp] theorem ends_execModuleKeyInstall {a dw10 dw11 dw12 data} :
    Ends s (execModuleKeyInstall a dw10 dw11 dw12 data s) := by
  simp [execModuleKeyInstall]

@[simp] theorem ends_execKeyZeroize {a dw10 dw11 dw12 data} : Ends s (execKeyZeroize a dw10 dw11 dw12 data s) := by
  simp [execKeyZeroize]

/-! ### Machine/Namespaces -/

@[simp] theorem kept_askPartner {n} : Kept s₀ (askPartner s n) ↔ Kept s₀ s := by simp [askPartner]

@[simp] theorem kept_sendKey {nsid jsn dn} :
    Kept s₀ (sendKey s nsid jsn dn) ↔ Kept s₀ s ∨ Kept' s₀ (sendKey s nsid jsn dn) :=
  kept_or fun h => by
    simp [sendKey, h]

@[simp] theorem kept_namespaceCreate {a q} :
    Kept s₀ (namespaceCreate s a q) ↔ Kept s₀ s ∨ Kept' s₀ (namespaceCreate s a q) :=
  kept_or fun h => by
    unfold namespaceCreate
    split <;> simp [h]

@[simp] theorem ends_execNamespaceCreate {a req} : Ends s (execNamespaceCreate a req s) := by
  simp [execNamespaceCreate]

@[simp] theorem kept_attributeChanged {nsid fns} : Kept s₀ (attributeChanged s nsid fns) ↔ Kept s₀ s := by
  simp [attributeChanged]

@[simp] theorem kept_attachChange {nsid ctrls detach} :
    Kept s₀ (attachChange s nsid ctrls detach) ↔ Kept s₀ s ∨ Kept' s₀ (attachChange s nsid ctrls detach) :=
  kept_or fun h => by
    simp [attachChange, h]

@[simp] theorem ends_execNamespaceAttach {a nsid ctrls} : Ends s (execNamespaceAttach a nsid ctrls s) := by
  simp [execNamespaceAttach]

@[simp] theorem ends_execNamespaceDetach {a nsid ctrls} : Ends s (execNamespaceDetach a nsid ctrls s) := by
  simp [execNamespaceDetach]

@[simp] theorem kept_cancelOn {nsid st} : Kept s₀ (cancelOn s nsid st) ↔ Kept s₀ s ∨ Kept' s₀ (cancelOn s nsid st) :=
  kept_or fun h => by simp +contextual [cancelOn, h]

@[simp] theorem kept_startDelete {a nsid} :
    Kept s₀ (startDelete s a nsid) ↔ Kept s₀ s ∨ Kept' s₀ (startDelete s a nsid) :=
  kept_or fun h => by
    simp [startDelete, h]

@[simp] theorem ends_execNamespaceDelete {a nsid} : Ends s (execNamespaceDelete a nsid s) := by
  simp +contextual [execNamespaceDelete]

@[simp] theorem kept_forgetNs {nsid} : Kept s₀ (forgetNs s nsid) ↔ Kept s₀ s := by simp [forgetNs]

@[simp] theorem ends_execNsDeleteDone {nsid} : Ends s (execNsDeleteDone nsid s) := by
  unfold execNsDeleteDone
  split <;> simp

@[simp] theorem kept_dropCommitted {nsid} :
    Kept s₀ (dropCommitted s nsid) ↔ Kept s₀ s ∨ Kept' s₀ (dropCommitted s nsid) :=
  kept_or fun h => by
    simp +contextual [dropCommitted, h]

@[simp] theorem kept_clearNs {nsid rekey} :
    Kept s₀ (clearNs s nsid rekey) ↔ Kept s₀ s ∨ Kept' s₀ (clearNs s nsid rekey) :=
  kept_or fun h => by
    simp [clearNs, h]

@[simp] theorem kept_setFormat {nsid lbaf} : Kept s₀ (setFormat s nsid lbaf) ↔ Kept s₀ s := by simp [setFormat]

@[simp] theorem kept_formatNvm {a nsid lbaf ses pi} :
    Kept s₀ (formatNvm s a nsid lbaf ses pi) ↔ Kept s₀ s ∨ Kept' s₀ (formatNvm s a nsid lbaf ses pi) :=
  kept_or fun h => by
    simp +contextual [formatNvm, h]

@[simp] theorem ends_execFormatNvm {a nsid lbaf ses pi} : Ends s (execFormatNvm a nsid lbaf ses pi s) := by
  simp [execFormatNvm]

@[simp] theorem kept_eraseOne {b} : Kept s₀ (eraseOne s b) ↔ Kept s₀ s := by simp [eraseOne]

@[simp] theorem kept_eraseAll : Kept s₀ (eraseAll s) ↔ Kept s₀ s ∨ Kept' s₀ (eraseAll s) :=
  kept_or fun h => by simp [eraseAll, h]

@[simp] theorem kept_sanitize {a crypto} :
    Kept s₀ (sanitize s a crypto) ↔ Kept s₀ s ∨ Kept' s₀ (sanitize s a crypto) :=
  kept_or fun h => by
    simp +contextual [sanitize, h]

@[simp] theorem ends_execSanitizeBlockErase {a} : Ends s (execSanitizeBlockErase a s) := by
  simp [execSanitizeBlockErase]

@[simp] theorem ends_execSanitizeCryptoErase {a} : Ends s (execSanitizeCryptoErase a s) := by
  simp [execSanitizeCryptoErase]

/-! ### Machine/IkCommit -/

@[simp] theorem kept_putWr {c lat w} : Kept s₀ (putWr s c lat w) ↔ Kept s₀ s := by
  unfold putWr
  dsimp only
  split <;> simp

@[simp] theorem kept_putShared {c k v} : Kept s₀ (putShared s c k v) ↔ Kept s₀ s := by simp [putShared]
@[simp] theorem kept_putQueue {c r} : Kept s₀ (putQueue s c r) ↔ Kept s₀ s := by simp [putQueue]
@[simp] theorem kept_closeStream {c w} : Kept s₀ (closeStream s c w) ↔ Kept s₀ s := by simp [closeStream]

@[simp] theorem kept_advanceStream {c w half} : Kept s₀ (advanceStream s c w half) ↔ Kept s₀ s := by
  simp [advanceStream]

@[simp] theorem kept_putFault {c code ch} : Kept s₀ (putFault s c code ch) ↔ Kept s₀ s := by simp [putFault]

@[simp] theorem kept_callEff {c target imask vmask} : Kept s₀ (callEff s c target imask vmask) ↔ Kept s₀ s := by
  simp [callEff]

@[simp] theorem kept_doEff {c e} : Kept s₀ (doEff s c e) ↔ Kept s₀ s := by
  unfold doEff
  split <;> simp

@[simp] theorem kept_dropRestored {c effs} : Kept s₀ (dropRestored s c effs) ↔ Kept s₀ s := by
  unfold dropRestored
  split <;> simp

@[simp] theorem kept_settleShared {c} : Kept s₀ (settleShared s c) ↔ Kept s₀ s := by simp [settleShared]

@[simp] theorem kept_goTo {c pc adv} : Kept s₀ (goTo s c pc adv) ↔ Kept s₀ s ∨ Kept' s₀ (goTo s c pc adv) :=
  kept_or fun h => by simp [goTo, h]

@[simp] theorem kept_endBlock {c} : Kept s₀ (endBlock s c) ↔ Kept s₀ s ∨ Kept' s₀ (endBlock s c) :=
  kept_or fun h => by simp [endBlock, h]

@[simp] theorem kept_advance {c effs words} :
    Kept s₀ (advance s c effs words) ↔ Kept s₀ s ∨ Kept' s₀ (advance s c effs words) :=
  kept_or fun h => by
    unfold advance
    dsimp only
    repeat' split
    all_goals simp [h]

@[simp] theorem kept_commit {c} : Kept s₀ (commit s c) ↔ Kept s₀ s ∨ Kept' s₀ (commit s c) :=
  kept_or fun h => by simp [commit, h]

@[simp] theorem ends_syl {q unit exts ok k effs} : Ends s (syl s q unit exts ok k effs) := by
  unfold syl
  split <;> simp

/-! ### Machine/IkM -/

@[simp] theorem ends_memSyl {q f op} : Ends s (memSyl q f op s) := by simp [memSyl]
@[simp] theorem ends_memLong {q f ext op} : Ends s (memLong q f ext op s) := by simp [memLong]
@[simp] theorem ends_atomSyl {q f add} : Ends s (atomSyl q f add s) := by simp [atomSyl]
@[simp] theorem ends_execLdb {q f} : Ends s (execLdb q f s) := by simp [execLdb]
@[simp] theorem ends_execLdbu {q f} : Ends s (execLdbu q f s) := by simp [execLdbu]
@[simp] theorem ends_execLdh {q f} : Ends s (execLdh q f s) := by simp [execLdh]
@[simp] theorem ends_execLdhu {q f} : Ends s (execLdhu q f s) := by simp [execLdhu]
@[simp] theorem ends_execLdw {q f} : Ends s (execLdw q f s) := by simp [execLdw]
@[simp] theorem ends_execLdwu {q f} : Ends s (execLdwu q f s) := by simp [execLdwu]
@[simp] theorem ends_execLdd {q f} : Ends s (execLdd q f s) := by simp [execLdd]
@[simp] theorem ends_execLdv {q f} : Ends s (execLdv q f s) := by simp [execLdv]
@[simp] theorem ends_execStb {q f} : Ends s (execStb q f s) := by simp [execStb]
@[simp] theorem ends_execSth {q f} : Ends s (execSth q f s) := by simp [execSth]
@[simp] theorem ends_execStw {q f} : Ends s (execStw q f s) := by simp [execStw]
@[simp] theorem ends_execStd {q f} : Ends s (execStd q f s) := by simp [execStd]
@[simp] theorem ends_execStv {q f} : Ends s (execStv q f s) := by simp [execStv]
@[simp] theorem ends_execSwpd {q f} : Ends s (execSwpd q f s) := by simp [execSwpd]
@[simp] theorem ends_execAaddd {q f} : Ends s (execAaddd q f s) := by simp [execAaddd]
@[simp] theorem ends_execFence {q f} : Ends s (execFence q f s) := by simp [execFence]
@[simp] theorem ends_execLdbL {q f ext} : Ends s (execLdbL q f ext s) := by simp [execLdbL]
@[simp] theorem ends_execLdbuL {q f ext} : Ends s (execLdbuL q f ext s) := by simp [execLdbuL]
@[simp] theorem ends_execLdhL {q f ext} : Ends s (execLdhL q f ext s) := by simp [execLdhL]
@[simp] theorem ends_execLdhuL {q f ext} : Ends s (execLdhuL q f ext s) := by simp [execLdhuL]
@[simp] theorem ends_execLdwL {q f ext} : Ends s (execLdwL q f ext s) := by simp [execLdwL]
@[simp] theorem ends_execLdwuL {q f ext} : Ends s (execLdwuL q f ext s) := by simp [execLdwuL]
@[simp] theorem ends_execLddL {q f ext} : Ends s (execLddL q f ext s) := by simp [execLddL]
@[simp] theorem ends_execLdvL {q f ext} : Ends s (execLdvL q f ext s) := by simp [execLdvL]
@[simp] theorem ends_execStbL {q f ext} : Ends s (execStbL q f ext s) := by simp [execStbL]
@[simp] theorem ends_execSthL {q f ext} : Ends s (execSthL q f ext s) := by simp [execSthL]
@[simp] theorem ends_execStwL {q f ext} : Ends s (execStwL q f ext s) := by simp [execStwL]
@[simp] theorem ends_execStdL {q f ext} : Ends s (execStdL q f ext s) := by simp [execStdL]
@[simp] theorem ends_execStvL {q f ext} : Ends s (execStvL q f ext s) := by simp [execStvL]

/-! ### Machine/IkX -/

@[simp] theorem ends_xSyl {q ok k effs} : Ends s (xSyl q ok k effs s) := by simp [xSyl]
@[simp] theorem ends_xRec {q f len ok k effs} : Ends s (xRec q f len ok k effs s) := by simp [xRec]
@[simp] theorem ends_execBlock {q f} : Ends s (execBlock q f s) := by simp [execBlock]
@[simp] theorem ends_execWait {q f} : Ends s (execWait q f s) := by simp [execWait]
@[simp] theorem ends_execYield {q f} : Ends s (execYield q f s) := by simp [execYield]
@[simp] theorem ends_execExit {q f} : Ends s (execExit q f s) := by simp [execExit]
@[simp] theorem ends_execPost {q f} : Ends s (execPost q f s) := by simp [execPost]
@[simp] theorem ends_execSpawn {q f} : Ends s (execSpawn q f s) := by simp [execSpawn]
@[simp] theorem ends_execDma {q f} : Ends s (execDma q f s) := by simp [execDma]
@[simp] theorem ends_execSopen {q f} : Ends s (execSopen q f s) := by simp [execSopen]
@[simp] theorem ends_execSadv {q f} : Ends s (execSadv q f s) := by simp [execSadv]
@[simp] theorem ends_execSclose {q f} : Ends s (execSclose q f s) := by simp [execSclose]
@[simp] theorem ends_execScan {q f} : Ends s (execScan q f s) := by simp [execScan]
@[simp] theorem ends_execTimerArm {q f} : Ends s (execTimerArm q f s) := by simp [execTimerArm]
@[simp] theorem ends_execTimerCancel {q f} : Ends s (execTimerCancel q f s) := by simp [execTimerCancel]
@[simp] theorem ends_execPclr {q f} : Ends s (execPclr q f s) := by simp [execPclr]
@[simp] theorem ends_execRdfeat {q f} : Ends s (execRdfeat q f s) := by simp [execRdfeat]

/-! ### Machine/Programs -/

@[simp] theorem kept_placeImage {l i} : Kept s₀ (placeImage s l i) ↔ Kept s₀ s := by simp [placeImage]

@[simp] theorem kept_loadProgram {a ptype pindex b} :
    Kept s₀ (loadProgram s a ptype pindex b) ↔ Kept s₀ s ∨ Kept' s₀ (loadProgram s a ptype pindex b) :=
  kept_or fun h => by
    unfold loadProgram
    dsimp only
    repeat' split
    all_goals simp [h]

@[simp] theorem ends_execLoadProgramLoad {a ptype pindex image} :
    Ends s (execLoadProgramLoad a ptype pindex image s) := by
  simp [execLoadProgramLoad]

@[simp] theorem kept_unloadProgram {a pindex} :
    Kept s₀ (unloadProgram s a pindex) ↔ Kept s₀ s ∨ Kept' s₀ (unloadProgram s a pindex) :=
  kept_or fun h => by
    unfold unloadProgram
    dsimp only
    split <;> simp [h]

@[simp] theorem ends_execLoadProgramUnload {a pindex} : Ends s (execLoadProgramUnload a pindex s) := by
  simp [execLoadProgramUnload]

@[simp] theorem kept_setActive {a pindex on} : Kept s₀ (setActive s a pindex on) ↔ Kept s₀ s := by simp [setActive]

@[simp] theorem ends_execProgramActivate {a pindex} : Ends s (execProgramActivate a pindex s) := by
  simp [execProgramActivate]

@[simp] theorem ends_execProgramDeactivate {a pindex} : Ends s (execProgramDeactivate a pindex s) := by
  simp [execProgramDeactivate]

@[simp] theorem kept_executeProgram {d params} :
    Kept s₀ (executeProgram s d params) ↔ Kept s₀ s ∨ Kept' s₀ (executeProgram s d params) :=
  kept_or fun h => by
    unfold executeProgram
    dsimp only
    repeat' split
    all_goals simp [h]

@[simp] theorem ends_execExecuteProgram {d params} : Ends s (execExecuteProgram d params s) := by
  simp [execExecuteProgram]

@[simp] theorem kept_rangeSet {a create rsid ranges} : Kept s₀ (rangeSet s a create rsid ranges) ↔ Kept s₀ s := by
  unfold rangeSet
  repeat' split
  all_goals simp

@[simp] theorem ends_execMemoryRangeSetManagement {a create rsid ranges} :
    Ends s (execMemoryRangeSetManagement a create rsid ranges s) := by
  simp [execMemoryRangeSetManagement]

@[simp] theorem kept_memoryRead {d} : Kept s₀ (memoryRead s d) ↔ Kept s₀ s ∨ Kept' s₀ (memoryRead s d) :=
  kept_or fun h => by simp [memoryRead, h]

@[simp] theorem kept_memoryWrite {d data} :
    Kept s₀ (memoryWrite s d data) ↔ Kept s₀ s ∨ Kept' s₀ (memoryWrite s d data) :=
  kept_or fun h => by
    simp [memoryWrite, h]

@[simp] theorem ends_execMemoryRead {d} : Ends s (execMemoryRead d s) := by simp [execMemoryRead]
@[simp] theorem ends_execMemoryWrite {d data} : Ends s (execMemoryWrite d data s) := by simp [execMemoryWrite]

/-! ### Machine/PairForm -/

@[simp] theorem kept_sendRec {r} : Kept s₀ (sendRec s r) ↔ Kept s₀ s := by simp [sendRec]
@[simp] theorem kept_sendNamespaces : Kept s₀ (sendNamespaces s) ↔ Kept s₀ s := by simp [sendNamespaces]

@[simp] theorem kept_sendItems {l} : Kept s₀ (sendItems s l) ↔ Kept s₀ s ∨ Kept' s₀ (sendItems s l) :=
  kept_or fun h => by simp +contextual [sendItems, h]

@[simp] theorem kept_formPair {role serial dieA} :
    Kept s₀ (formPair s role serial dieA) ↔ Kept s₀ s ∨ Kept' s₀ (formPair s role serial dieA) :=
  kept_or fun h => by
    simp [formPair, h]

@[simp] theorem kept_dropNamespace {n} : Kept s₀ (dropNamespace s n) ↔ Kept s₀ s ∨ Kept' s₀ (dropNamespace s n) :=
  kept_or fun h => by simp [dropNamespace, h]

@[simp] theorem kept_dissolvePair : Kept s₀ (dissolvePair s) ↔ Kept s₀ s ∨ Kept' s₀ (dissolvePair s) :=
  kept_or fun h => by simp +contextual [dissolvePair, h]

@[simp] theorem ends_pairControl {op a dw10 rest run} (hs : Kept s₀ s) (ht : Kept s₀ run) :
    Ends s₀ (pairControl op a dw10 rest s run) := by
  simp [pairControl, hs, ht]

@[simp] theorem kept_pairRefuse {a reason} : Kept s₀ (pairRefuse s a reason) ↔ Kept s₀ s := by simp [pairRefuse]

@[simp] theorem kept_pairForm {a p} : Kept s₀ (pairForm s a p) ↔ Kept s₀ s ∨ Kept' s₀ (pairForm s a p) :=
  kept_or fun h => by
    unfold pairForm
    split <;> simp [h]

@[simp] theorem ends_execPairForm {a dw10 dw11to15 partner} : Ends s (execPairForm a dw10 dw11to15 partner s) := by
  simp [execPairForm]

@[simp] theorem kept_pairDissolve {a} : Kept s₀ (pairDissolve s a) ↔ Kept s₀ s ∨ Kept' s₀ (pairDissolve s a) :=
  kept_or fun h => by simp [pairDissolve, h]

@[simp] theorem ends_execPairDissolve {a dw10 dw11to15} : Ends s (execPairDissolve a dw10 dw11to15 s) := by
  simp [execPairDissolve]

@[simp] theorem kept_setFence {on} : Kept s₀ (setFence s on) ↔ Kept s₀ s := by simp [setFence]

@[simp] theorem ends_execPairFence {a dw10 dw11to15} : Ends s (execPairFence a dw10 dw11to15 s) := by
  simp [execPairFence]

@[simp] theorem ends_execPairRelease {a dw10 dw11to15} : Ends s (execPairRelease a dw10 dw11to15 s) := by
  simp [execPairRelease]

@[simp] theorem kept_pairTakeover {a} : Kept s₀ (pairTakeover s a) ↔ Kept s₀ s ∨ Kept' s₀ (pairTakeover s a) :=
  kept_or fun h => by simp [pairTakeover, h]

@[simp] theorem ends_execPairTakeover {a dw10 dw11to15} : Ends s (execPairTakeover a dw10 dw11to15 s) := by
  simp [execPairTakeover]

@[simp] theorem kept_pairYield {a} : Kept s₀ (pairYield s a) ↔ Kept s₀ s := by simp [pairYield]

@[simp] theorem ends_execPairYield {a dw10 dw11to15} : Ends s (execPairYield a dw10 dw11to15 s) := by
  simp [execPairYield]

/-! ### Machine/PairLink -/

@[simp] theorem kept_badFlit : Kept s₀ (badFlit s) ↔ Kept s₀ s := by simp [badFlit]
@[simp] theorem kept_takeFlit {k b} : Kept s₀ (takeFlit s k b) ↔ Kept s₀ s := by simp [takeFlit]
@[simp] theorem kept_noteValid : Kept s₀ (noteValid s) ↔ Kept s₀ s := by simp [noteValid]
@[simp] theorem kept_receiveFlit {k b} : Kept s₀ (receiveFlit s k b) ↔ Kept s₀ s := by simp [receiveFlit]
@[simp] theorem ends_execFlitReceive {sub flit} : Ends s (execFlitReceive sub flit s) := by simp [execFlitReceive]
@[simp] theorem ends_execFlitReplay {sub} : Ends s (execFlitReplay sub s) := by simp [execFlitReplay]

@[simp] theorem ends_message {k h formed pre f} (hs : Kept s₀ s) (hf : Kept s₀ (f (seen (noteValid s) h))) :
    Ends s₀ (message s k h formed pre f) := by
  simp [message, hs, hf]

@[simp] theorem kept_copyNext : Kept s₀ (copyNext s) ↔ Kept s₀ s := by
  unfold copyNext
  repeat' split
  all_goals simp

@[simp] theorem kept_inStep : Kept s₀ (inStep s) ↔ Kept s₀ s ∨ Kept' s₀ (inStep s) :=
  kept_or fun h => by simp [inStep, h]

@[simp] theorem kept_settleCopies : Kept s₀ (settleCopies s) ↔ Kept s₀ s ∨ Kept' s₀ (settleCopies s) :=
  kept_or fun h => by simp [settleCopies, h]

@[simp] theorem kept_sendHeld : Kept s₀ (sendHeld s) ↔ Kept s₀ s ∨ Kept' s₀ (sendHeld s) :=
  kept_or fun h => by simp [sendHeld, h]

@[simp] theorem kept_sendZones {cur} : Kept s₀ (sendZones s cur) ↔ Kept s₀ s := by simp [sendZones]

@[simp] theorem kept_rejoin {cur epoch setter theyYielded} :
    Kept s₀ (rejoin s cur epoch setter theyYielded) ↔ Kept s₀ s ∨ Kept' s₀ (rejoin s cur epoch setter theyYielded) :=
  kept_or fun h => by
    simp [rejoin, h]

@[simp] theorem kept_compareEpochs {b} : Kept s₀ (compareEpochs s b) ↔ Kept s₀ s ∨ Kept' s₀ (compareEpochs s b) :=
  kept_or fun h => by simp [compareEpochs, h]

@[simp] theorem kept_hello {h b} : Kept s₀ (hello s h b) ↔ Kept s₀ s ∨ Kept' s₀ (hello s h b) :=
  kept_or fun h => by simp [hello, h]

@[simp] theorem ends_execHello {sub h body} : Ends s (execHello sub h body s) := by simp [execHello]
@[simp] theorem ends_execBeatSend : Ends s (execBeatSend s) := by simp [execBeatSend]
@[simp] theorem kept_beat {h} : Kept s₀ (beat s h) ↔ Kept s₀ s := by simp [beat]
@[simp] theorem ends_execBeat {sub h body} : Ends s (execBeat sub h body s) := by simp [execBeat]

@[simp] theorem kept_subLost {k} : Kept s₀ (subLost s k) ↔ Kept s₀ s ∨ Kept' s₀ (subLost s k) :=
  kept_or fun h => by simp [subLost, h]

@[simp] theorem ends_execSublinkLoss {sub} : Ends s (execSublinkLoss sub s) := by simp [execSublinkLoss]
@[simp] theorem kept_subTrained {k} : Kept s₀ (subTrained s k) ↔ Kept s₀ s := by simp [subTrained]
@[simp] theorem ends_execSublinkTrained {sub} : Ends s (execSublinkTrained sub s) := by simp [execSublinkTrained]

@[simp] theorem ends_execSublinkTrainRetry {sub trained} : Ends s (execSublinkTrainRetry sub trained s) := by
  simp [execSublinkTrainRetry]

@[simp] theorem ends_execAliveInLow : Ends s (execAliveInLow s) := by simp [execAliveInLow]
@[simp] theorem ends_execAliveFault : Ends s (execAliveFault s) := by simp [execAliveFault]
@[simp] theorem ends_execAliveInHigh : Ends s (execAliveInHigh s) := by simp [execAliveInHigh]
@[simp] theorem ends_execFenceDelayExpiry : Ends s (execFenceDelayExpiry s) := by simp [execFenceDelayExpiry]
@[simp] theorem ends_execAutoFence : Ends s (execAutoFence s) := by simp [execAutoFence]

@[simp] theorem kept_loneStart : Kept s₀ (loneStart s) ↔ Kept s₀ s ∨ Kept' s₀ (loneStart s) :=
  kept_or fun h => by simp [loneStart, h]

@[simp] theorem ends_execLoneStart : Ends s (execLoneStart s) := by simp [execLoneStart]

/-! ### Machine/PairMsgs -/

@[simp] theorem kept_runForwarded_resv {d e} :
    Kept s₀ (runForwarded.resv s d e) ↔ Kept s₀ s ∨ Kept' s₀ (runForwarded.resv s d e) :=
  kept_or fun h => by
    unfold runForwarded.resv
    split <;> simp [h]

@[simp] theorem kept_runForwarded {d} : Kept s₀ (runForwarded s d) ↔ Kept s₀ s ∨ Kept' s₀ (runForwarded s d) :=
  kept_or fun h => by
    unfold runForwarded
    dsimp only
    split <;> simp [h]

@[simp] theorem kept_runMirrored {d} : Kept s₀ (runMirrored s d) ↔ Kept s₀ s ∨ Kept' s₀ (runMirrored s d) :=
  kept_or fun h => by simp [runMirrored, h]

@[simp] theorem kept_runFromPartner {d} : Kept s₀ (runFromPartner s d) ↔ Kept s₀ s ∨ Kept' s₀ (runFromPartner s d) :=
  kept_or fun h => by simp [runFromPartner, h]

@[simp] theorem ends_execLockStallRelease {d} : Ends s (execLockStallRelease d s) := by simp [execLockStallRelease]

@[simp] theorem kept_mwrite {d h b} : Kept s₀ (mwrite s d h b) ↔ Kept s₀ s ∨ Kept' s₀ (mwrite s d h b) :=
  kept_or fun h => by
    unfold mwrite
    split <;> simp [h]

@[simp] theorem ends_execMwrite {sub docket h body} : Ends s (execMwrite sub docket h body s) := by simp [execMwrite]

@[simp] theorem kept_clearMarks {us} : Kept s₀ (clearMarks s us) ↔ Kept s₀ s ∨ Kept' s₀ (clearMarks s us) :=
  kept_or fun h => by simp [clearMarks, h]

@[simp] theorem kept_mack {h} : Kept s₀ (mack s h) ↔ Kept s₀ s ∨ Kept' s₀ (mack s h) :=
  kept_or fun h => by
    unfold mack
    split <;> simp [h]

@[simp] theorem ends_execMack {sub h body} : Ends s (execMack sub h body s) := by simp [execMack]

@[simp] theorem kept_partnerZone {r} : Kept s₀ (partnerZone s r) ↔ Kept s₀ s ∨ Kept' s₀ (partnerZone s r) :=
  kept_or fun h => by simp [partnerZone, h]

@[simp] theorem kept_partnerFormat {nsid} :
    Kept s₀ (partnerFormat s nsid) ↔ Kept s₀ s ∨ Kept' s₀ (partnerFormat s nsid) :=
  kept_or fun h => by
    simp [partnerFormat, h]

@[simp] theorem kept_keepPeer {r} : Kept s₀ (keepPeer s r) ↔ Kept s₀ s := by simp [keepPeer]

@[simp] theorem kept_takeRec {r} : Kept s₀ (takeRec s r) ↔ Kept s₀ s ∨ Kept' s₀ (takeRec s r) :=
  kept_or fun h => by
    unfold takeRec
    split <;> simp [h]

@[simp] theorem ends_execJrec {sub h body} : Ends s (execJrec sub h body s) := by simp +contextual [execJrec]

@[simp] theorem kept_stateSlot {b} : Kept s₀ (stateSlot s b) ↔ Kept s₀ s := by
  unfold stateSlot
  split <;> simp

@[simp] theorem kept_stateImage {b} : Kept s₀ (stateImage s b) ↔ Kept s₀ s := by
  unfold stateImage
  dsimp only
  repeat' split
  all_goals simp

@[simp] theorem kept_stateKey {nsid b} : Kept s₀ (stateKey s nsid b) ↔ Kept s₀ s := by
  unfold stateKey
  repeat' split
  all_goals simp

@[simp] theorem kept_applyState {h b} : Kept s₀ (applyState s h b) ↔ Kept s₀ s ∨ Kept' s₀ (applyState s h b) :=
  kept_or fun h => by
    unfold applyState
    split <;> simp [h]

@[simp] theorem ends_execState {sub h body} : Ends s (execState sub h body s) := by simp [execState]

@[simp] theorem kept_sack {h} : Kept s₀ (sack s h) ↔ Kept s₀ s ∨ Kept' s₀ (sack s h) :=
  kept_or fun h => by
    unfold sack
    split <;> simp [h]

@[simp] theorem ends_execSack {sub h body} : Ends s (execSack sub h body s) := by simp [execSack]

@[simp] theorem kept_fwdcmd {d h q data} :
    Kept s₀ (fwdcmd s d h q data) ↔ Kept s₀ s ∨ Kept' s₀ (fwdcmd s d h q data) :=
  kept_or fun h => by
    simp [fwdcmd, h]

@[simp] theorem ends_execFwdcmd {sub docket h sqe data} : Ends s (execFwdcmd sub docket h sqe data s) := by
  simp [execFwdcmd]

@[simp] theorem kept_countCancelled {d st} : Kept s₀ (countCancelled s d st) ↔ Kept s₀ s := by simp [countCancelled]

@[simp] theorem kept_fwdcpl {h st dw0 dw1 data} :
    Kept s₀ (fwdcpl s h st dw0 dw1 data) ↔ Kept s₀ s ∨ Kept' s₀ (fwdcpl s h st dw0 dw1 data) :=
  kept_or fun h => by
    unfold fwdcpl
    split <;> simp [h]

@[simp] theorem ends_execFwdcpl {sub h status dw0 dw1 data} : Ends s (execFwdcpl sub h status dw0 dw1 data s) := by
  simp [execFwdcpl]

@[simp] theorem kept_fwdabt {h} : Kept s₀ (fwdabt s h) ↔ Kept s₀ s ∨ Kept' s₀ (fwdabt s h) :=
  kept_or fun h => by
    unfold fwdabt
    split <;> simp [h]

@[simp] theorem ends_execFwdabt {sub h body} : Ends s (execFwdabt sub h body s) := by simp [execFwdabt]

@[simp] theorem kept_fwdabtr {h} : Kept s₀ (fwdabtr s h) ↔ Kept s₀ s := by
  unfold fwdabtr
  split <;> simp

@[simp] theorem ends_execFwdabtr {sub h body} : Ends s (execFwdabtr sub h body s) := by simp [execFwdabtr]
@[simp] theorem kept_nextSeq : Kept s₀ (nextSeq s) ↔ Kept s₀ s := by simp [nextSeq]

@[simp] theorem kept_landCopy {nsid u b} :
    Kept s₀ (landCopy s nsid u b) ↔ Kept s₀ s ∨ Kept' s₀ (landCopy s nsid u b) :=
  kept_or fun h => by
    simp [landCopy, h]

@[simp] theorem kept_landZoned {nsid z o b} :
    Kept s₀ (landZoned s nsid z o b) ↔ Kept s₀ s ∨ Kept' s₀ (landZoned s nsid z o b) :=
  kept_or fun h => by
    unfold landZoned
    dsimp only
    split <;> simp [h]

@[simp] theorem kept_storeCopy {nsid u b} :
    Kept s₀ (storeCopy s nsid u b) ↔ Kept s₀ s ∨ Kept' s₀ (storeCopy s nsid u b) :=
  kept_or fun h => by
    simp +contextual [storeCopy, h]

@[simp] theorem kept_rscopy {h b} : Kept s₀ (rscopy s h b) ↔ Kept s₀ s ∨ Kept' s₀ (rscopy s h b) :=
  kept_or fun h => by simp +contextual [rscopy, h]

@[simp] theorem ends_execRscopy {sub h body} : Ends s (execRscopy sub h body s) := by simp [execRscopy]

@[simp] theorem kept_rsack {h} : Kept s₀ (rsack s h) ↔ Kept s₀ s ∨ Kept' s₀ (rsack s h) :=
  kept_or fun h => by
    unfold rsack
    split <;> simp [h]

@[simp] theorem ends_execRsack {sub h body} : Ends s (execRsack sub h body s) := by simp [execRsack]

/-! ### Machine/Boot -/

@[simp] theorem kept_dumpUnit {e ljsn total pos u} : Kept s₀ (dumpUnit s e ljsn total pos u).2 ↔ Kept s₀ s := by
  simp [dumpUnit]

@[simp] theorem kept_dumpUnits {e ljsn total pos us} :
    Kept s₀ (dumpUnits e ljsn total pos us s).2 ↔ Kept s₀ s := by
  induction us generalizing pos s with
  | nil => rfl
  | cons u us ih => simp [dumpUnits, ih]

@[simp] theorem kept_dumpWrite {ljsn d} : Kept s₀ (dumpWrite ljsn s d) ↔ Kept s₀ s := by simp [dumpWrite]
@[simp] theorem kept_dumpAll {ds} : Kept s₀ (dumpAll s ds) ↔ Kept s₀ s := by simp [dumpAll]
@[simp] theorem kept_stopMedia {lim} : Kept s₀ (stopMedia s lim) ↔ Kept s₀ s := by simp [stopMedia]
@[simp] theorem kept_stopDumped {writes} : Kept s₀ (stopDumped s writes) ↔ Kept s₀ s := by simp [stopDumped]
@[simp] theorem kept_stopCutShort : Kept s₀ (stopCutShort s) ↔ Kept s₀ s := by simp [stopCutShort]
@[simp] theorem kept_clearSupervisor : Kept s₀ (clearSupervisor s) ↔ Kept s₀ s := by simp [clearSupervisor]

@[simp] theorem kept_clearModule {powerOn} :
    Kept s₀ (clearModule s powerOn) ↔ Kept s₀ s ∨ Kept' s₀ (clearModule s powerOn) :=
  kept_or fun h => by
    have hs : Kept s₀ (if powerOn then clearSupervisor (selfTestEnd s 2 0 0) else selfTestEnd s 2 0 0) := by simp [h]
    exact ⟨hs.pending, fun _ => by
      simp [clearModule, State.inv, State.memWf, State.clockWf, tabWf, tabWfFrom, Programs.empty, Ikixa.empty]⟩

@[simp] theorem kept_dropSection {sec} : Kept s₀ (dropSection s sec) ↔ Kept s₀ s := by simp [dropSection]

@[simp] theorem kept_sectionDefault {sec} : Kept s₀ (sectionDefault s sec) ↔ Kept s₀ s := by
  unfold sectionDefault
  split <;> simp

@[simp] theorem kept_wornBack : Kept s₀ (wornBack s) ↔ Kept s₀ s := by simp [wornBack]
@[simp] theorem kept_checkLogbook {b} : Kept s₀ (checkLogbook s b) ↔ Kept s₀ s := by simp [checkLogbook]

@[simp] theorem kept_sendHeldEmergencies : Kept s₀ (sendHeldEmergencies s) ↔ Kept s₀ s := by
  simp [sendHeldEmergencies]

@[simp] theorem kept_bootTwo {b} : Kept s₀ (bootTwo s b) ↔ Kept s₀ s := by simp [bootTwo]
@[simp] theorem kept_bootThree {second rails} : Kept s₀ (bootThree s second rails) ↔ Kept s₀ s := by simp [bootThree]
@[simp] theorem kept_queueEvent {e} : Kept s₀ (queueEvent s e) ↔ Kept s₀ s := by simp [queueEvent]

@[simp] theorem kept_bootFour : Kept s₀ (bootFour s) ↔ Kept s₀ s := by
  unfold bootFour
  extract_lets _ chosen logged _ counted _ shown _ seeded ports sections warned
  have hchosen : Kept s₀ chosen ↔ Kept s₀ s := by
    simp only [chosen]
    split <;> simp
  have hcounted : Kept s₀ counted ↔ Kept s₀ chosen := by simp [counted, logged]
  have hshown : Kept s₀ shown ↔ Kept s₀ counted := by simp [shown]
  have hsections : Kept s₀ sections ↔ Kept s₀ shown := by simp [sections, ports, seeded]
  have hwarned : Kept s₀ warned ↔ Kept s₀ sections := by simp [warned]
  simp [hwarned, hsections, hshown, hcounted, hchosen]

@[simp] theorem kept_stopRestore {why} : Kept s₀ (stopRestore s why) ↔ Kept s₀ s := by simp [stopRestore]
@[simp] theorem kept_loadMap {bad} : Kept s₀ (loadMap s bad) ↔ Kept s₀ s := by simp [loadMap]

@[simp] theorem kept_applyFound {f} : Kept s₀ (applyFound s f) ↔ Kept s₀ s ∨ Kept' s₀ (applyFound s f) :=
  kept_or fun h => by
    unfold applyFound
    split <;> simp [h]

@[simp] theorem kept_loadKeys : Kept s₀ (loadKeys s) ↔ Kept s₀ s := by simp [loadKeys]

@[simp] theorem kept_fillDump : Kept s₀ (fillDump s) ↔ Kept s₀ s :=
  kept_foldl_iff (fun t c => by split <;> simp) _

@[simp] theorem kept_checkMap : Kept s₀ (checkMap s) ↔ Kept s₀ s ∨ Kept' s₀ (checkMap s) :=
  kept_or fun h => by simp [checkMap, h]

@[simp] theorem kept_restore {bad} : Kept s₀ (restore s bad) ↔ Kept s₀ s ∨ Kept' s₀ (restore s bad) :=
  kept_or fun h => by simp +contextual [restore, h]

@[simp] theorem kept_bootSix : Kept s₀ (bootSix s) ↔ Kept s₀ s := by simp [bootSix]

@[simp] theorem kept_bootOn {b} : Kept s₀ (bootOn s b) ↔ Kept s₀ s ∨ Kept' s₀ (bootOn s b) :=
  kept_or fun h => by simp [bootOn, h]

@[simp] theorem kept_bootFromThree {b second} :
    Kept s₀ (bootFromThree s b second) ↔ Kept s₀ s ∨ Kept' s₀ (bootFromThree s b second) :=
  kept_or fun h => by
    simp [bootFromThree, h]

@[simp] theorem kept_bootFromTwo {b} : Kept s₀ (bootFromTwo s b) ↔ Kept s₀ s ∨ Kept' s₀ (bootFromTwo s b) :=
  kept_or fun h => by simp [bootFromTwo, h]

@[simp] theorem kept_bootFromOne {b cause} :
    Kept s₀ (bootFromOne s b cause) ↔ Kept s₀ s ∨ Kept' s₀ (bootFromOne s b cause) :=
  kept_or fun h => by
    simp [bootFromOne, h]

/-! ### Machine/Domains -/

@[simp] theorem kept_domainOff {d} : Kept s₀ (domainOff s d) ↔ Kept s₀ s := by simp [domainOff]
@[simp] theorem kept_domainAdd {d} : Kept s₀ (domainAdd s d) ↔ Kept s₀ s := by simp [domainAdd]

@[simp] theorem kept_clusterOff {c} : Kept s₀ (clusterOff s c) ↔ Kept s₀ s ∨ Kept' s₀ (clusterOff s c) :=
  kept_or fun h => by simp +contextual [clusterOff, h]

@[simp] theorem ends_execClusterPowerOff {cluster} : Ends s (execClusterPowerOff cluster s) := by
  simp [execClusterPowerOff]

@[simp] theorem ends_execClusterPowerOn {cluster} : Ends s (execClusterPowerOn cluster s) := by
  simp [execClusterPowerOn]

@[simp] theorem ends_execD2PowerOff : Ends s (execD2PowerOff s) := by simp [execD2PowerOff]

@[simp] theorem kept_grantNear {n} : Kept s₀ (grantNear n s) ↔ Kept s₀ s ∨ Kept' s₀ (grantNear n s) :=
  kept_or fun h => by
    induction n generalizing s with
    | zero => exact h
    | succ n ih =>
      unfold grantNear
      split
      · exact h
      · split
        · exact h
        next hp => exact ih (by simp [kept_poolTake hp, h])

@[simp] theorem ends_execD2PowerOn : Ends s (execD2PowerOn s) := by simp [execD2PowerOn]
@[simp] theorem ends_execQuayPowerOff {quay} : Ends s (execQuayPowerOff quay s) := by simp [execQuayPowerOff]
@[simp] theorem ends_execQuayPowerOn {quay} : Ends s (execQuayPowerOn quay s) := by simp [execQuayPowerOn]
@[simp] theorem kept_notePwr {mw} : Kept s₀ (notePwr s mw) ↔ Kept s₀ s := by simp [notePwr]
@[simp] theorem kept_govern : Kept s₀ (govern s) ↔ Kept s₀ s := by simp [govern]

@[simp] theorem ends_execGovernorSample {milliwatt} : Ends s (execGovernorSample milliwatt s) := by
  simp [execGovernorSample]

@[simp] theorem ends_execGovernorPause : Ends s (execGovernorPause s) := by simp +contextual [execGovernorPause]

/-! ### Machine/HarbourCmds -/

@[simp] theorem kept_threadPost {c t pc space ch qty} :
    Kept s₀ (threadPost s c t pc space ch qty) ↔ Kept s₀ s ∨ Kept' s₀ (threadPost s c t pc space ch qty) :=
  kept_or fun h => by
    unfold threadPost
    split <;> simp [h]

@[simp] theorem kept_corePost {port index space ch qty} :
    Kept s₀ (corePost s port index space ch qty) ↔ Kept s₀ s ∨ Kept' s₀ (corePost s port index space ch qty) :=
  kept_or fun h => by
    unfold corePost
    dsimp only
    split <;> simp [h]

@[simp] theorem ends_execTokenPost {p space ch qty poisoned} : Ends s (execTokenPost p space ch qty poisoned s) := by
  simp [execTokenPost]

@[simp] theorem kept_applyRingPosts {k} : Kept s₀ (applyRingPosts s k) ↔ Kept s₀ s ∨ Kept' s₀ (applyRingPosts s k) :=
  kept_or fun h => by simp +contextual [applyRingPosts, h]

@[simp] theorem ends_execSpillReturn : Ends s (execSpillReturn s) := by
  unfold execSpillReturn
  repeat' split
  all_goals simp

@[simp] theorem ends_execAffinityHoldExpiry {t} : Ends s (execAffinityHoldExpiry t s) := by
  unfold execAffinityHoldExpiry
  split <;> simp

@[simp] theorem kept_yieldThread {t} : Kept s₀ (yieldThread s t) ↔ Kept s₀ s ∨ Kept' s₀ (yieldThread s t) :=
  kept_or fun h => by simp [yieldThread, h]

@[simp] theorem kept_applyEnd {c t e} : Kept s₀ (applyEnd s c t e) ↔ Kept s₀ s ∨ Kept' s₀ (applyEnd s c t e) :=
  kept_or fun h => by
    unfold applyEnd
    split <;> simp [h]

@[simp] theorem kept_idleCore {c} : Kept s₀ (idleCore s c) ↔ Kept s₀ s := by simp [idleCore]

@[simp] theorem ends_execBlockEndEvent {c} : Ends s (execBlockEndEvent c s) := by
  unfold execBlockEndEvent
  dsimp only
  repeat' split
  all_goals simp

@[simp] theorem ends_execLeaseQuantumExpiry {c} : Ends s (execLeaseQuantumExpiry c s) := by
  simp [execLeaseQuantumExpiry]

@[simp] theorem ends_execLeaseMinimumExpiry {c} : Ends s (execLeaseMinimumExpiry c s) := by
  simp [execLeaseMinimumExpiry]

@[simp] theorem kept_bringWindow {c t} : Kept s₀ (bringWindow s c t) ↔ Kept s₀ s ∨ Kept' s₀ (bringWindow s c t) :=
  kept_or fun h => by simp [bringWindow, h]

@[simp] theorem kept_placeInit {t} : Kept s₀ (placeInit s t) ↔ Kept s₀ s ∨ Kept' s₀ (placeInit s t) :=
  kept_or fun h => by
    unfold placeInit
    split <;> simp [h]

@[simp] theorem kept_switched {c t} : Kept s₀ (switched s c t) ↔ Kept s₀ s ∨ Kept' s₀ (switched s c t) :=
  kept_or fun h => by simp [switched, h]

@[simp] theorem ends_execContextSwitch {c} : Ends s (execContextSwitch c s) := by
  unfold execContextSwitch
  split <;> simp

@[simp] theorem ends_execBlockOverrun {c} : Ends s (execBlockOverrun c s) := by
  unfold execBlockOverrun
  split <;> simp

@[simp] theorem kept_orphanTimers {t} : Kept s₀ (orphanTimers s t) ↔ Kept s₀ s := by simp [orphanTimers]

@[simp] theorem kept_restartThread {t} : Kept s₀ (restartThread s t) ↔ Kept s₀ s ∨ Kept' s₀ (restartThread s t) :=
  kept_or fun h => by simp [restartThread, h]

@[simp] theorem ends_execDescriptorFree {t} : Ends s (execDescriptorFree t s) := by simp [execDescriptorFree]
@[simp] theorem kept_dropTimer {h tm} : Kept s₀ (dropTimer s h tm) ↔ Kept s₀ s := by simp [dropTimer]

@[simp] theorem ends_execTimerExpiry {h} : Ends s (execTimerExpiry h s) := by
  unfold execTimerExpiry
  split <;> simp

@[simp] theorem ends_execPoisonToken {t} : Ends s (execPoisonToken t s) := by simp [execPoisonToken]

@[simp] theorem kept_doSpawn {t r} : Kept s₀ (doSpawn s t r) ↔ Kept s₀ s ∨ Kept' s₀ (doSpawn s t r) :=
  kept_or fun h => by
    unfold doSpawn
    dsimp only
    repeat' split
    all_goals simp [h]

@[simp] theorem kept_doDma {c t pc r} : Kept s₀ (doDma s c t pc r) ↔ Kept s₀ s ∨ Kept' s₀ (doDma s c t pc r) :=
  kept_or fun h => by simp [doDma, h]

@[simp] theorem kept_streamReport {c t m code} :
    Kept s₀ (streamReport s c t m code) ↔ Kept s₀ s ∨ Kept' s₀ (streamReport s c t m code) :=
  kept_or fun h => by
    simp [streamReport, h]

@[simp] theorem kept_doSopen {c t r} : Kept s₀ (doSopen s c t r) ↔ Kept s₀ s ∨ Kept' s₀ (doSopen s c t r) :=
  kept_or fun h => by simp [doSopen, h]

@[simp] theorem kept_doTimerArm {t pc r} :
    Kept s₀ (doTimerArm s t pc r) ↔ Kept s₀ s ∨ Kept' s₀ (doTimerArm s t pc r) :=
  kept_or fun h => by
    simp [doTimerArm, h]

@[simp] theorem kept_doTimerCancel {t h} : Kept s₀ (doTimerCancel s t h) ↔ Kept s₀ s := by
  unfold doTimerCancel
  split <;> simp

@[simp] theorem kept_xResolve {c e} : Kept s₀ (xResolve s c e) ↔ Kept s₀ s ∨ Kept' s₀ (xResolve s c e) :=
  kept_or fun h => by
    unfold xResolve
    repeat' split
    all_goals simp [h]

@[simp] theorem ends_execXQueueDepart {c} : Ends s (execXQueueDepart c s) := by
  unfold execXQueueDepart
  split <;> simp

@[simp] theorem kept_faultStray {t} : Kept s₀ (faultStray s t) ↔ Kept s₀ s ∨ Kept' s₀ (faultStray s t) :=
  kept_or fun h => by simp [faultStray, h]

@[simp] theorem kept_dmaMove {d} : Kept s₀ (dmaMove s d) ↔ Kept s₀ s ∨ Kept' s₀ (dmaMove s d) :=
  kept_or fun h => by simp [dmaMove, h]

@[simp] theorem ends_execDmaComplete {i} : Ends s (execDmaComplete i s) := by simp [execDmaComplete]

@[simp] theorem ends_execStreamHalfReady {c w} : Ends s (execStreamHalfReady c w s) := by
  unfold execStreamHalfReady
  dsimp only
  repeat' split
  all_goals simp

@[simp] theorem ends_execStreamEnd {c w} : Ends s (execStreamEnd c w s) := by simp [execStreamEnd]

/-! ### Machine/IkI -/

@[simp] theorem ends_triSyl {q f op} : Ends s (triSyl q f op s) := by simp [triSyl]
@[simp] theorem ends_immSyl {q f ok g} : Ends s (immSyl q f ok g s) := by simp [immSyl]
@[simp] theorem ends_shiftSyl {q f op} : Ends s (shiftSyl q f op s) := by simp [shiftSyl]
@[simp] theorem ends_cmpSyl {q exts ok ra rb k op} : Ends s (cmpSyl q exts ok ra rb k op s) := by simp [cmpSyl]
@[simp] theorem ends_cmpShort {q f op} : Ends s (cmpShort q f op s) := by simp [cmpShort]
@[simp] theorem ends_cmpLong {q f ext op} : Ends s (cmpLong q f ext op s) := by simp [cmpLong]
@[simp] theorem ends_execAdd {q f} : Ends s (execAdd q f s) := by simp [execAdd]
@[simp] theorem ends_execSub {q f} : Ends s (execSub q f s) := by simp [execSub]
@[simp] theorem ends_execAnd {q f} : Ends s (execAnd q f s) := by simp [execAnd]
@[simp] theorem ends_execOr {q f} : Ends s (execOr q f s) := by simp [execOr]
@[simp] theorem ends_execXor {q f} : Ends s (execXor q f s) := by simp [execXor]
@[simp] theorem ends_execAndn {q f} : Ends s (execAndn q f s) := by simp [execAndn]
@[simp] theorem ends_execShl {q f} : Ends s (execShl q f s) := by simp [execShl]
@[simp] theorem ends_execShr {q f} : Ends s (execShr q f s) := by simp [execShr]
@[simp] theorem ends_execSar {q f} : Ends s (execSar q f s) := by simp [execSar]
@[simp] theorem ends_execRol {q f} : Ends s (execRol q f s) := by simp [execRol]
@[simp] theorem ends_execMin {q f} : Ends s (execMin q f s) := by simp [execMin]
@[simp] theorem ends_execMax {q f} : Ends s (execMax q f s) := by simp [execMax]
@[simp] theorem ends_execMinu {q f} : Ends s (execMinu q f s) := by simp [execMinu]
@[simp] theorem ends_execMaxu {q f} : Ends s (execMaxu q f s) := by simp [execMaxu]
@[simp] theorem ends_execMul {q f} : Ends s (execMul q f s) := by simp [execMul]
@[simp] theorem ends_execMulh {q f} : Ends s (execMulh q f s) := by simp [execMulh]
@[simp] theorem ends_execMulhu {q f} : Ends s (execMulhu q f s) := by simp [execMulhu]
@[simp] theorem ends_execDiv {q f} : Ends s (execDiv q f s) := by simp [execDiv]
@[simp] theorem ends_execDivu {q f} : Ends s (execDivu q f s) := by simp [execDivu]
@[simp] theorem ends_execRem {q f} : Ends s (execRem q f s) := by simp [execRem]
@[simp] theorem ends_execRemu {q f} : Ends s (execRemu q f s) := by simp [execRemu]
@[simp] theorem ends_execClz {q f} : Ends s (execClz q f s) := by simp [execClz]
@[simp] theorem ends_execCtz {q f} : Ends s (execCtz q f s) := by simp [execCtz]
@[simp] theorem ends_execPopc {q f} : Ends s (execPopc q f s) := by simp [execPopc]
@[simp] theorem ends_execBswap {q f} : Ends s (execBswap q f s) := by simp [execBswap]
@[simp] theorem ends_execAddi {q f} : Ends s (execAddi q f s) := by simp [execAddi]
@[simp] theorem ends_execAndi {q f} : Ends s (execAndi q f s) := by simp [execAndi]
@[simp] theorem ends_execOri {q f} : Ends s (execOri q f s) := by simp [execOri]
@[simp] theorem ends_execXori {q f} : Ends s (execXori q f s) := by simp [execXori]
@[simp] theorem ends_execShli {q f} : Ends s (execShli q f s) := by simp [execShli]
@[simp] theorem ends_execShri {q f} : Ends s (execShri q f s) := by simp [execShri]
@[simp] theorem ends_execSari {q f} : Ends s (execSari q f s) := by simp [execSari]
@[simp] theorem ends_execWrrc {q f} : Ends s (execWrrc q f s) := by simp [execWrrc]
@[simp] theorem ends_execRdrc {q f} : Ends s (execRdrc q f s) := by simp [execRdrc]
@[simp] theorem ends_execLi {q f} : Ends s (execLi q f s) := by simp [execLi]
@[simp] theorem ends_execLiL {q f ext} : Ends s (execLiL q f ext s) := by simp [execLiL]
@[simp] theorem ends_execLiQ {q f ext1 ext2} : Ends s (execLiQ q f ext1 ext2 s) := by simp [execLiQ]
@[simp] theorem ends_execLa {q f ext} : Ends s (execLa q f ext s) := by simp [execLa]
@[simp] theorem ends_execGetb {q f} : Ends s (execGetb q f s) := by simp [execGetb]
@[simp] theorem ends_execCeq {q f} : Ends s (execCeq q f s) := by simp [execCeq]
@[simp] theorem ends_execCeqL {q f ext} : Ends s (execCeqL q f ext s) := by simp [execCeqL]
@[simp] theorem ends_execCne {q f} : Ends s (execCne q f s) := by simp [execCne]
@[simp] theorem ends_execCneL {q f ext} : Ends s (execCneL q f ext s) := by simp [execCneL]
@[simp] theorem ends_execClt {q f} : Ends s (execClt q f s) := by simp [execClt]
@[simp] theorem ends_execCltL {q f ext} : Ends s (execCltL q f ext s) := by simp [execCltL]
@[simp] theorem ends_execCltu {q f} : Ends s (execCltu q f s) := by simp [execCltu]
@[simp] theorem ends_execCltuL {q f ext} : Ends s (execCltuL q f ext s) := by simp [execCltuL]
@[simp] theorem ends_execCle {q f} : Ends s (execCle q f s) := by simp [execCle]
@[simp] theorem ends_execCleL {q f ext} : Ends s (execCleL q f ext s) := by simp [execCleL]
@[simp] theorem ends_execCleu {q f} : Ends s (execCleu q f s) := by simp [execCleu]
@[simp] theorem ends_execCleuL {q f ext} : Ends s (execCleuL q f ext s) := by simp [execCleuL]
@[simp] theorem ends_execCtst {q f} : Ends s (execCtst q f s) := by simp [execCtst]
@[simp] theorem ends_execCtstL {q f ext} : Ends s (execCtstL q f ext s) := by simp [execCtstL]

/-! ### Machine/IkB -/

@[simp] theorem ends_execNop {q rsv} : Ends s (execNop q rsv s) := by simp [execNop]
@[simp] theorem ends_execBr {q off20} : Ends s (execBr q off20 s) := by simp [execBr]
@[simp] theorem ends_execBrr {q f} : Ends s (execBrr q f s) := by simp [execBrr]
@[simp] theorem ends_brBit {q f v} : Ends s (brBit q f v s) := by simp [brBit]
@[simp] theorem ends_brBitLong {q f ext v} : Ends s (brBitLong q f ext v s) := by simp [brBitLong]
@[simp] theorem ends_execBt {q f} : Ends s (execBt q f s) := by simp [execBt]
@[simp] theorem ends_execBf {q f} : Ends s (execBf q f s) := by simp [execBf]
@[simp] theorem ends_execBtL {q f ext} : Ends s (execBtL q f ext s) := by simp [execBtL]
@[simp] theorem ends_execBfL {q f ext} : Ends s (execBfL q f ext s) := by simp [execBfL]
@[simp] theorem ends_bitSyl {q f v} : Ends s (bitSyl q f v s) := by simp [bitSyl]
@[simp] theorem ends_execBset {q f} : Ends s (execBset q f s) := by simp [execBset]
@[simp] theorem ends_execBclr {q f} : Ends s (execBclr q f s) := by simp [execBclr]
@[simp] theorem ends_execBtgl {q f} : Ends s (execBtgl q f s) := by simp [execBtgl]
@[simp] theorem ends_testAnd {q f v} : Ends s (testAnd q f v s) := by simp [testAnd]
@[simp] theorem ends_execTas {q f} : Ends s (execTas q f s) := by simp [execTas]
@[simp] theorem ends_execTac {q f} : Ends s (execTac q f s) := by simp [execTac]
@[simp] theorem ends_execBlg {q f ext} : Ends s (execBlg q f ext s) := by simp [execBlg]
@[simp] theorem ends_callSyl {q ok target ext} : Ends s (callSyl q ok target ext s) := by simp [callSyl]
@[simp] theorem ends_execCall {q off20 ext} : Ends s (execCall q off20 ext s) := by simp [execCall]
@[simp] theorem ends_execCallr {q f ext} : Ends s (execCallr q f ext s) := by simp [execCallr]
@[simp] theorem ends_execRet {q rsv} : Ends s (execRet q rsv s) := by simp [execRet]
@[simp] theorem ends_execRepi {q off20} : Ends s (execRepi q off20 s) := by simp [execRepi]
@[simp] theorem ends_execRepc {q rsv} : Ends s (execRepc q rsv s) := by simp [execRepc]

/-! ### Machine/IkV -/

@[simp] theorem ends_vecSyl {q f ok li lf r} : Ends s (vecSyl q f ok li lf r s) := by simp [vecSyl]
@[simp] theorem ends_addSubSyl {q f sub} : Ends s (addSubSyl q f sub s) := by simp [addSubSyl]
@[simp] theorem ends_execVadd {q f} : Ends s (execVadd q f s) := by simp [execVadd]
@[simp] theorem ends_execVsub {q f} : Ends s (execVsub q f s) := by simp [execVsub]
@[simp] theorem ends_execVmul {q f} : Ends s (execVmul q f s) := by simp [execVmul]
@[simp] theorem ends_execVfma {q f} : Ends s (execVfma q f s) := by simp [execVfma]
@[simp] theorem ends_minMaxSyl {q f mx} : Ends s (minMaxSyl q f mx s) := by simp [minMaxSyl]
@[simp] theorem ends_execVmin {q f} : Ends s (execVmin q f s) := by simp [execVmin]
@[simp] theorem ends_execVmax {q f} : Ends s (execVmax q f s) := by simp [execVmax]
@[simp] theorem ends_bitwiseSyl {q f r} : Ends s (bitwiseSyl q f r s) := by simp [bitwiseSyl]
@[simp] theorem ends_execVand {q f} : Ends s (execVand q f s) := by simp [execVand]
@[simp] theorem ends_execVor {q f} : Ends s (execVor q f s) := by simp [execVor]
@[simp] theorem ends_execVxor {q f} : Ends s (execVxor q f s) := by simp [execVxor]
@[simp] theorem ends_execVandn {q f} : Ends s (execVandn q f s) := by simp [execVandn]
@[simp] theorem ends_execVbsl {q f} : Ends s (execVbsl q f s) := by simp [execVbsl]
@[simp] theorem ends_execVshl {q f} : Ends s (execVshl q f s) := by simp [execVshl]
@[simp] theorem ends_execVshr {q f} : Ends s (execVshr q f s) := by simp [execVshr]
@[simp] theorem ends_execVcmp {q f} : Ends s (execVcmp q f s) := by simp [execVcmp]
@[simp] theorem ends_execVperm {q f} : Ends s (execVperm q f s) := by simp [execVperm]
@[simp] theorem ends_execVcvt {q f} : Ends s (execVcvt q f s) := by simp [execVcvt]
@[simp] theorem ends_execVred {q f} : Ends s (execVred q f s) := by simp [execVred]
@[simp] theorem ends_execVmov {q f} : Ends s (execVmov q f s) := by simp [execVmov]
@[simp] theorem ends_vscSyl {q f ok lat r} : Ends s (vscSyl q f ok lat r s) := by simp [vscSyl]
@[simp] theorem ends_execVbcast {q f} : Ends s (execVbcast q f s) := by simp [execVbcast]
@[simp] theorem ends_execVsld {q f} : Ends s (execVsld q f s) := by simp [execVsld]
@[simp] theorem ends_execVget {q f} : Ends s (execVget q f s) := by simp [execVget]
@[simp] theorem ends_execVadds {q f} : Ends s (execVadds q f s) := by simp [execVadds]
@[simp] theorem ends_execVmuls {q f} : Ends s (execVmuls q f s) := by simp [execVmuls]
@[simp] theorem ends_execVshls {q f} : Ends s (execVshls q f s) := by simp [execVshls]
@[simp] theorem ends_execVshrs {q f} : Ends s (execVshrs q f s) := by simp [execVshrs]

/-! ### Machine/Resets -/

@[simp] theorem kept_noteCause {mask} : Kept s₀ (noteCause s mask) ↔ Kept s₀ s := by simp [noteCause]
@[simp] theorem kept_copyHealth : Kept s₀ (copyHealth s) ↔ Kept s₀ s := by simp [copyHealth]

@[simp] theorem kept_moduleReset {mask} : Kept s₀ (moduleReset s mask) ↔ Kept s₀ s ∨ Kept' s₀ (moduleReset s mask) :=
  kept_or fun h => by
    unfold moduleReset
    dsimp only
    split <;> simp [h]

@[simp] theorem kept_powerOff : Kept s₀ (powerOff s) ↔ Kept s₀ s ∨ Kept' s₀ (powerOff s) :=
  kept_or fun h => by simp [powerOff, h]

@[simp] theorem kept_shedLoad : Kept s₀ (shedLoad s) ↔ Kept s₀ s := by simp [shedLoad]
@[simp] theorem kept_beginDump : Kept s₀ (beginDump s) ↔ Kept s₀ s := by simp [beginDump]

@[simp] theorem kept_losePower : Kept s₀ (losePower s) ↔ Kept s₀ s ∨ Kept' s₀ (losePower s) :=
  kept_or fun h => by simp [losePower, h]

@[simp] theorem kept_contactAsserted {mask} :
    Kept s₀ (contactAsserted s mask) ↔ Kept s₀ s ∨ Kept' s₀ (contactAsserted s mask) :=
  kept_or fun h => by
    simp [contactAsserted, h]

@[simp] theorem kept_contactReleased {b} :
    Kept s₀ (contactReleased s b) ↔ Kept s₀ s ∨ Kept' s₀ (contactReleased s b) :=
  kept_or fun h => by
    simp [contactReleased, h]

@[simp] theorem ends_execModRstNAssert : Ends s (execModRstNAssert s) := by simp [execModRstNAssert]
@[simp] theorem ends_execModRstNDeassert {b} : Ends s (execModRstNDeassert b s) := by simp [execModRstNDeassert]
@[simp] theorem ends_execFenceInAssert : Ends s (execFenceInAssert s) := by simp [execFenceInAssert]
@[simp] theorem ends_execFenceInDeassert {b} : Ends s (execFenceInDeassert b s) := by simp [execFenceInDeassert]
@[simp] theorem ends_execWatchdogRenew : Ends s (execWatchdogRenew s) := by simp [execWatchdogRenew]

@[simp] theorem kept_watchdogReset {b} : Kept s₀ (watchdogReset s b) ↔ Kept s₀ s ∨ Kept' s₀ (watchdogReset s b) :=
  kept_or fun h => by simp [watchdogReset, h]

@[simp] theorem ends_execWatchdogExpiry {b} : Ends s (execWatchdogExpiry b s) := by simp [execWatchdogExpiry]
@[simp] theorem kept_cutDump : Kept s₀ (cutDump s) ↔ Kept s₀ s := by simp [cutDump]
@[simp] theorem ends_execPowerOn {b} : Ends s (execPowerOn b s) := by simp [execPowerOn]
@[simp] theorem ends_execPowerRestart {b} : Ends s (execPowerRestart b s) := by simp [execPowerRestart]

@[simp] theorem ends_execPowerUpRailTimeout {slot} : Ends s (execPowerUpRailTimeout slot s) := by
  simp [execPowerUpRailTimeout]

@[simp] theorem ends_execPowerUpRetry {b} : Ends s (execPowerUpRetry b s) := by simp [execPowerUpRetry]
@[simp] theorem ends_execRefclkLoss : Ends s (execRefclkLoss s) := by simp [execRefclkLoss]
@[simp] theorem ends_execRefclkReturn {b} : Ends s (execRefclkReturn b s) := by simp [execRefclkReturn]
@[simp] theorem ends_execPortRefclkLoss {port} : Ends s (execPortRefclkLoss port s) := by simp [execPortRefclkLoss]

@[simp] theorem ends_execPortRefclkReturn {port} : Ends s (execPortRefclkReturn port s) := by
  simp [execPortRefclkReturn]

@[simp] theorem ends_execInputLoss : Ends s (execInputLoss s) := by
  unfold execInputLoss
  dsimp only
  repeat' split
  all_goals simp

@[simp] theorem kept_afterDump {b} : Kept s₀ (afterDump s b) ↔ Kept s₀ s ∨ Kept' s₀ (afterDump s b) :=
  kept_or fun h => by simp [afterDump, h]

@[simp] theorem ends_execDumpComplete {bytes us b} : Ends s (execDumpComplete bytes us b s) := by
  simp [execDumpComplete]

@[simp] theorem kept_keepOff {dom} : Kept s₀ (keepOff s dom) ↔ Kept s₀ s := by simp [keepOff]

@[simp] theorem kept_railFault {dom} : Kept s₀ (railFault s dom) ↔ Kept s₀ s ∨ Kept' s₀ (railFault s dom) :=
  kept_or fun h => by simp [railFault, h]

@[simp] theorem ends_execRailFault {dom} : Ends s (execRailFault dom s) := by simp [execRailFault]

@[simp] theorem ends_execThermalShutdown {sensor reading} : Ends s (execThermalShutdown sensor reading s) := by
  simp [execThermalShutdown]

@[simp] theorem ends_execTemperatureThresholdCrossed {sensor reading} :
    Ends s (execTemperatureThresholdCrossed sensor reading s) := by
  simp [execTemperatureThresholdCrossed]

/-! ### Machine/DredgeOps -/

@[simp] theorem kept_settleCycle : Kept s₀ (settleCycle s) ↔ Kept s₀ s := by simp [settleCycle]
@[simp] theorem kept_noteUnit {task unit} : Kept s₀ (noteUnit s task unit) ↔ Kept s₀ s := by simp [noteUnit]

@[simp] theorem kept_noteFault {task unit detail} : Kept s₀ (noteFault s task unit detail) ↔ Kept s₀ s := by
  simp [noteFault]

/-! ### Machine/PilotOps -/

@[simp] theorem kept_evalSlot {k raw x} : Kept s₀ (evalSlot s k raw x) ↔ Kept s₀ s := by simp [evalSlot]

@[simp] theorem ends_execPilotLoopEval {slot raw x} : Ends s (execPilotLoopEval slot raw x s) := by
  simp [execPilotLoopEval]

@[simp] theorem ends_execVavgUpdate {mv10} : Ends s (execVavgUpdate mv10 s) := by simp [execVavgUpdate]

@[simp] theorem ends_execHoldupMeasurementStart {v1} : Ends s (execHoldupMeasurementStart v1 s) := by
  simp [execHoldupMeasurementStart]

@[simp] theorem kept_setHealth {ok} : Kept s₀ (setHealth s ok) ↔ Kept s₀ s ∨ Kept' s₀ (setHealth s ok) :=
  kept_or fun h => by simp [setHealth, h]

@[simp] theorem kept_holdupEnd {v1 v2 energyUj} :
    Kept s₀ (holdupEnd s v1 v2 energyUj) ↔ Kept s₀ s ∨ Kept' s₀ (holdupEnd s v1 v2 energyUj) :=
  kept_or fun h => by
    simp [holdupEnd, h]

@[simp] theorem ends_execHoldupMeasurementEnd {v2 energyUj} : Ends s (execHoldupMeasurementEnd v2 energyUj s) := by
  unfold execHoldupMeasurementEnd
  split <;> simp

/-! ### Machine/Service -/

@[simp] theorem ends_execSelfTestComplete {failed notRun} : Ends s (execSelfTestComplete failed notRun s) := by
  unfold execSelfTestComplete
  dsimp only
  split <;> simp

@[simp] theorem ends_execDredgeCycleStart : Ends s (execDredgeCycleStart s) := by simp [execDredgeCycleStart]
@[simp] theorem ends_execCycleOverrun : Ends s (execCycleOverrun s) := by simp [execCycleOverrun]

@[simp] theorem kept_endLeases {c} : Kept s₀ (endLeases s c) ↔ Kept s₀ s ∨ Kept' s₀ (endLeases s c) :=
  kept_or fun h => by simp +contextual [endLeases, h]

@[simp] theorem ends_execClusterBistStart {cluster} : Ends s (execClusterBistStart cluster s) := by
  simp [execClusterBistStart]

@[simp] theorem kept_retireCore {k} : Kept s₀ (retireCore s k) ↔ Kept s₀ s := by simp [retireCore]

@[simp] theorem kept_bistEnd {c failed} : Kept s₀ (bistEnd s c failed) ↔ Kept s₀ s ∨ Kept' s₀ (bistEnd s c failed) :=
  kept_or fun h => by simp +contextual [bistEnd, h]

@[simp] theorem ends_execClusterBistEnd {cluster failed} : Ends s (execClusterBistEnd cluster failed s) := by
  simp [execClusterBistEnd]

@[simp] theorem kept_march {far i fault} :
    Kept s₀ (march s far i fault) ↔ Kept s₀ s ∨ Kept' s₀ (march s far i fault) :=
  kept_or fun h => by
    simp [march, h]

@[simp] theorem ends_execBerthMarch {far berth fault} : Ends s (execBerthMarch far berth fault s) := by
  simp [execBerthMarch]

@[simp] theorem kept_parityFault {row} : Kept s₀ (parityFault s row) ↔ Kept s₀ s := by
  unfold parityFault
  dsimp only
  split <;> simp

@[simp] theorem ends_execTallyParityScrub {row parityOk} : Ends s (execTallyParityScrub row parityOk s) := by
  simp [execTallyParityScrub]

@[simp] theorem kept_patrol {b worst bits} : Kept s₀ (patrol s b worst bits) ↔ Kept s₀ s := by simp [patrol]

@[simp] theorem ends_execPatrolRead {block worstStep bits} : Ends s (execPatrolRead block worstStep bits s) := by
  simp [execPatrolRead]

@[simp] theorem kept_saneSlot {k} : Kept s₀ (saneSlot s k) ↔ Kept s₀ s := by simp [saneSlot]
@[simp] theorem ends_execPilotSanity : Ends s (execPilotSanity s) := by simp [execPilotSanity]

/-! ### Machine/Tally -/

@[simp] theorem kept_tallyReply {t r chan w} :
    Kept s₀ (tallyReply s t r chan w) ↔ Kept s₀ s ∨ Kept' s₀ (tallyReply s t r chan w) :=
  kept_or fun h => by
    simp [tallyReply, h]

@[simp] theorem kept_tallySearch {t r next} :
    Kept s₀ (tallySearch s t r next) ↔ Kept s₀ s ∨ Kept' s₀ (tallySearch s t r next) :=
  kept_or fun h => by
    unfold tallySearch
    dsimp only
    repeat' split
    all_goals simp [h]

@[simp] theorem kept_tallyLoad {t r kinds} :
    Kept s₀ (tallyLoad s t r kinds) ↔ Kept s₀ s ∨ Kept' s₀ (tallyLoad s t r kinds) :=
  kept_or fun h => by
    simp [tallyLoad, h]

@[simp] theorem ends_execTallySearchOp {t r} : Ends s (execTallySearchOp t r s) := by simp [execTallySearchOp]
@[simp] theorem ends_execTallyNext {t r} : Ends s (execTallyNext t r s) := by simp [execTallyNext]
@[simp] theorem ends_execTallyLoadOp {t r} : Ends s (execTallyLoadOp t r s) := by simp [execTallyLoadOp]
@[simp] theorem ends_execTallyInvalidate {t r} : Ends s (execTallyInvalidate t r s) := by simp [execTallyInvalidate]

@[simp] theorem kept_loadRecords {e n i} : Kept s₀ (loadRecords e n i s).1 ↔ Kept s₀ s := by
  induction n generalizing i s with
  | zero => rfl
  | succ n ih =>
    unfold loadRecords
    dsimp only
    split
    · simp
    · split <;> simp [ih]

@[simp] theorem kept_hostTallyLoad {d} : Kept s₀ (hostTallyLoad s d) ↔ Kept s₀ s ∨ Kept' s₀ (hostTallyLoad s d) :=
  kept_or fun h => by simp [hostTallyLoad, h]

@[simp] theorem kept_searchKeys {d n i} : Kept s₀ (searchKeys d n i s) ↔ Kept s₀ s ∨ Kept' s₀ (searchKeys d n i s) :=
  kept_or fun h => by
    induction n generalizing i s with
    | zero => simp [searchKeys, h]
    | succ n ih =>
      unfold searchKeys
      dsimp only
      split
      · exact ih (by simp [h])
      · split
        · exact ih (by simp [h])
        · simp [h]

@[simp] theorem kept_stageKeys {e n} : Kept s₀ (stageKeys s e n) ↔ Kept s₀ s ∨ Kept' s₀ (stageKeys s e n) :=
  kept_or fun h => by simp +contextual [stageKeys, h]

@[simp] theorem kept_hostTallySearch {d} :
    Kept s₀ (hostTallySearch s d) ↔ Kept s₀ s ∨ Kept' s₀ (hostTallySearch s d) :=
  kept_or fun h => by
    simp [hostTallySearch, h]

@[simp] theorem ends_execTallyLoad {d} : Ends s (execTallyLoad d s) := by simp [execTallyLoad]
@[simp] theorem ends_execTallySearch {d} : Ends s (execTallySearch d s) := by simp [execTallySearch]

@[simp] theorem kept_cascadeDone {c w} : Kept s₀ (cascadeDone s c w) ↔ Kept s₀ s ∨ Kept' s₀ (cascadeDone s c w) :=
  kept_or fun h => by
    unfold cascadeDone
    split <;> simp [h]

@[simp] theorem kept_cascadePartial {c} : Kept s₀ (cascadePartial s c) ↔ Kept s₀ s ∨ Kept' s₀ (cascadePartial s c) :=
  kept_or fun h => by simp [cascadePartial, h]

@[simp] theorem ends_execCascadeRequest {ws} : Ends s (execCascadeRequest ws s) := by simp [execCascadeRequest]

@[simp] theorem ends_execCascadeResult {ws} : Ends s (execCascadeResult ws s) := by
  unfold execCascadeResult
  dsimp only
  split <;> simp

@[simp] theorem ends_execCascadeTimeout {tag} : Ends s (execCascadeTimeout tag s) := by
  unfold execCascadeTimeout
  split <;> simp

@[simp] theorem kept_setMi {up} : Kept s₀ (setMi s up) ↔ Kept s₀ s := by simp [setMi]
@[simp] theorem ends_execTallyMiUp : Ends s (execTallyMiUp s) := by simp [execTallyMiUp]
@[simp] theorem ends_execTallyMiDown : Ends s (execTallyMiDown s) := by simp [execTallyMiDown]

end

/-! ### Steps -/

/-- Every command ends in a state that keeps the commands that wait, and the invariant. -/
theorem exec_ends (c : Instr) (s : State) : Ends s (exec c s) := by
  cases c <;> simp [exec]

/-- Settles O60: an idle step is a tick, which moves both clocks together, and every command keeps the invariant. -/
theorem stepsKeepTheInvariant : Obligations.StepsKeepTheInvariant := by
  unfold Obligations.StepsKeepTheInvariant
  intro s t hinv hstep
  unfold step at hstep
  split at hstep
  · have hkept : Kept s (tick s) := by simp
    cases hstep
    exact hkept.inv hinv
  next c rest _ =>
    obtain ⟨u, hu, hkept⟩ := exec_ends c { s with pending := rest }
    cases hu.symm.trans hstep
    exact hkept.inv hinv

end Sys2Proof.Machine
end

section
/-!
SUPPORT. How the host interface answers: completions (R519), admin rows, and the commands of I/O queues (R41, R43).
-/
namespace Sys2Proof.Machine

/-! ### The tables of a function -/

section Functions
variable (s : State) (fn q : Nat)

@[simp] theorem getFn_modFn (g : Fn → Fn) : getFn (modFn s fn g) fn = g (getFn s fn) := by simp [modFn]
@[simp] theorem getFn_modCq (g : Cq → Cq) :
    getFn (modCq s fn q g) fn = { getFn s fn with cqs := tabMod Cq.empty (getFn s fn).cqs q g } := by simp [modCq]
@[simp] theorem getCq_modCq (g : Cq → Cq) : getCq (modCq s fn q g) fn q = g (getCq s fn q) := by
  simp [getCq, tabMod]
@[simp] theorem getFn_emit (o : Out) : getFn (emit s o) fn = getFn s fn := rfl
@[simp] theorem getCq_emit (o : Out) : getCq (emit s o) fn q = getCq s fn q := rfl
@[simp] theorem modFn_out (g : Fn → Fn) : (modFn s fn g).out = s.out := rfl
@[simp] theorem modCq_out (g : Cq → Cq) : (modCq s fn q g).out = s.out := rfl
@[simp] theorem emit_out (o : Out) : (emit s o).out = o :: s.out := rfl

end Functions

/-! ### Completions -/

section Completions
variable {s : State} {cqid : Nat} {c : Cpl}

/-- The interrupt of vector 0 is never held for aggregation. -/
theorem raiseVector_zero (s : State) (fn : Nat) : raiseVector s fn 0 = emit s (.msi fn 0) := by simp [raiseVector]

theorem postCpl_none (h : (getCq s c.fn cqid).live = false ∨ s.power.dumping = true) : postCpl s cqid c = s := by
  simp only [postCpl]
  rw [if_pos (by simpa using h)]

theorem postCpl_room (hl : (getCq s c.fn cqid).live = true) (hd : s.power.dumping = false)
    (hr : (getCq s c.fn cqid).used + 1 < (getCq s c.fn cqid).size) :
    postCpl s cqid c =
      let t := emit (modCq s c.fn cqid (fun q => { q with used := q.used + 1 })) (.cpl cqid c)
      if (getCq s c.fn cqid).ien then raiseVector t c.fn (getCq s c.fn cqid).vector else t := by
  simp [postCpl, hl, hd, hr]

theorem postCpl_full (hl : (getCq s c.fn cqid).live = true) (hd : s.power.dumping = false)
    (hr : (getCq s c.fn cqid).size ≤ (getCq s c.fn cqid).used + 1) :
    postCpl s cqid c = modCq s c.fn cqid (fun q => { q with waiting := q.waiting ++ [c] }) := by
  simp [postCpl, hl, hd, hr]

theorem errCount_raiseVector (s : State) (fn v : Nat) :
    (getFn (raiseVector s fn v) fn).errCount = (getFn s fn).errCount := by
  unfold raiseVector
  dsimp only
  repeat' split
  all_goals simp

/-- A completion changes no error count. -/
theorem errCount_postCpl (s : State) (cqid : Nat) (c : Cpl) :
    (getFn (postCpl s cqid c) c.fn).errCount = (getFn s c.fn).errCount := by
  unfold postCpl
  dsimp only
  repeat' split
  all_goals simp [errCount_raiseVector]

end Completions

/-- Settles O14, by the cases of `postCpl`: no queue, room, full. -/
theorem completionsReachTheirQueue : Obligations.CompletionsReachTheirQueue := by
  unfold Obligations.CompletionsReachTheirQueue
  intro s cqid c a st dw0 p q
  refine ⟨fun hl hd => ⟨fun hr hi => ?_, fun hr hi hv => ?_, fun hr => ?_⟩, postCpl_none, fun hst => ?_, rfl⟩
  · simp [postCpl_room hl hd hr, show (getCq s c.fn cqid).ien = false from hi, q]
  · simp [postCpl_room hl hd hr, show (getCq s c.fn cqid).ien = true from hi,
      show (getCq s c.fn cqid).vector = 0 from hv, raiseVector_zero]
  · simp [postCpl_full hl hd hr, q]
  · simp only [adminDone, if_neg hst]
    rw [errCount_postCpl (c := ⟨a.fn, 0, a.cid, st, dnrOf st, dw0, 0, p⟩)]
    simp

/-! ### Admin commands -/

section Admin
variable {s : State} {a : Adm}

theorem adminAny_open (ho : adminOpen s a.fn = true) (t : State) : adminAny s a t = .next t := by
  simp [adminAny, ho, when]

/-- An admin command of an open controller outside recovery mode has its effect. -/
theorem admin_open (ho : adminOpen s a.fn = true) (hr : s.power.recovery = false) (t : State) :
    admin s a t = .next t := by simp [admin, adminAny_open ho, hr]

/-- A command of the physical function's scope has its effect there. -/
theorem adminPf_open (ho : adminOpen s a.fn = true) (hr : s.power.recovery = false) (hf : a.fn = 0) (t : State) :
    adminPf s a t = .next t := by simp [adminPf, admin_open ho hr, hf]

/-- From a virtual function it is an unknown opcode. -/
theorem adminPf_virtual (ho : adminOpen s a.fn = true) (hr : s.power.recovery = false) (hf : a.fn ≠ 0) (t : State) :
    adminPf s a t = .next (adminFail s a .invalidOpcode) := by simp [adminPf, admin_open ho hr, hf]

end Admin

section Queues
variable {s : State} {a : Adm} {qid size x : Nat} {live : Bool} {limit : Nat}

theorem queueRefusal_none (hid : 1 ≤ qid ∧ qid ≤ limit) (hl : live = false) (hsize : 2 ≤ size ∧ size ≤ 65536) :
    queueRefusal live true limit qid size = none := by
  obtain ⟨h1, h2⟩ := hid
  obtain ⟨h3, h4⟩ := hsize
  simp only [queueRefusal, hl, Bool.not_true, Bool.false_eq_true, if_false, or_false]
  rw [if_neg (by omega), if_neg (by omega)]

theorem queueRefusal_identifier (h : qid = 0 ∨ live = true) :
    queueRefusal live true limit qid size = some .invalidQueueIdentifier := by
  simp only [queueRefusal, Bool.not_true, Bool.false_eq_true, if_false]
  rw [if_pos (by tauto)]

theorem queueRefusal_size (hid : 1 ≤ qid ∧ qid ≤ limit) (hl : live = false) (hsize : ¬ (2 ≤ size ∧ size ≤ 65536)) :
    queueRefusal live true limit qid size = some .invalidQueueSize := by
  obtain ⟨h1, h2⟩ := hid
  simp only [queueRefusal, hl, Bool.not_true, Bool.false_eq_true, if_false, or_false]
  rw [if_neg (by omega), if_pos (by omega)]

end Queues

section QueueCommands
variable {s : State} {a : Adm} {qid size x : Nat} {pc ien : Bool} {st : Status}

theorem createSq_refused
    (h : queueRefusal (getSq s a.fn qid).live pc (queueLimit (getFn s a.fn) a.fn true) qid size = some st) :
    createSq s a qid size x pc = adminFail s a st := by simp only [createSq, h]

theorem createSq_created
    (h : queueRefusal (getSq s a.fn qid).live pc (queueLimit (getFn s a.fn) a.fn true) qid size = none)
    (hx : x ≠ 0) (hc : (getCq s a.fn x).live = true) :
    createSq s a qid size x pc = adminOk (modSq s a.fn qid
      (fun _ => { Sq.empty with live := true, size := size, cqid := x, pool := freePoolIndex s })) a := by
  simp only [createSq, h]
  rw [if_neg (by simp [hx, hc])]

theorem createCq_badVector
    (h : queueRefusal (getCq s a.fn qid).live pc (queueLimit (getFn s a.fn) a.fn false) qid size = none)
    (hv : (getFn s a.fn).vi < x ∨ msixEntries a.fn ≤ x) :
    createCq s a qid size x pc ien = adminFail s a .invalidInterruptVector := by
  have hbad : vectorOk (getFn s a.fn) a.fn x = false := by
    simp only [vectorOk, Bool.and_eq_false_iff, decide_eq_false_iff_not]
    omega
  simp [createCq, h, hbad]

theorem createCq_created
    (h : queueRefusal (getCq s a.fn qid).live pc (queueLimit (getFn s a.fn) a.fn false) qid size = none)
    (hv : x ≤ (getFn s a.fn).vi) (hm : x < msixEntries a.fn) :
    createCq s a qid size x pc ien = adminOk (modCq s a.fn qid
      (fun _ => { Cq.empty with live := true, size := size, vector := x, ien := ien })) a := by
  simp [createCq, h, vectorOk, hv, hm]

theorem deleteSq_refused (h : qid = 0 ∨ (getSq s a.fn qid).live = false) :
    deleteSq s a qid = adminFail s a .invalidQueueIdentifier := by
  simp only [deleteSq]
  rw [if_pos (by simpa using h)]

/-- With no command in the docket table nothing is cancelled. -/
theorem deleteSq_idle (h0 : qid ≠ 0) (hl : (getSq s a.fn qid).live = true) (hd : s.host.dockets = []) :
    deleteSq s a qid = adminOk
      (modSq (modSq s a.fn qid (fun q => { q with ordered := false })) a.fn qid (fun _ => Sq.empty)) a := by
  have hnone : (modSq s a.fn qid (fun q => { q with ordered := false })).host.dockets = [] := hd
  simp [deleteSq, h0, hl, hnone]

theorem deleteCq_unused (h0 : qid ≠ 0) (hl : (getCq s a.fn qid).live = true)
    (hused : ∀ e ∈ (getFn s a.fn).sqs, e.2.live = true → e.1 ≠ 0 → e.2.cqid ≠ qid) :
    deleteCq s a qid = adminOk (modCq s a.fn qid (fun _ => Cq.empty)) a := by
  have hany : (getFn s a.fn).sqs.any (fun q => q.2.live && q.1 != 0 && q.2.cqid == qid) = false := by
    simpa using hused
  simp [deleteCq, h0, hl, hany]

end QueueCommands

/-- Settles O15: each queue command's first check that fails gives its status, and one that passes them all its
effect. -/
theorem queuesAreCreatedAndDeleted : Obligations.QueuesAreCreatedAndDeleted := by
  unfold Obligations.QueuesAreCreatedAndDeleted
  intro s a qid size x ien ho hr f sq cq idOk sizeOk fails
  have hrow {t u : State} (h : t = u) : admin s a t = .next u := h ▸ admin_open ho hr t
  exact ⟨fun hid hl hsz hx hc => hrow (createSq_created (queueRefusal_none hid hl hsz) hx hc),
    fun hid hl hsz hv hm => hrow (createCq_created (queueRefusal_none hid hl hsz) hv hm),
    fun h0 hl hd => hrow (deleteSq_idle h0 hl hd),
    fun h0 hl hused => hrow (deleteCq_unused h0 hl hused),
    fun h => hrow (createSq_refused (queueRefusal_identifier h)),
    fun hid hl hsz => hrow (createSq_refused (queueRefusal_size hid hl hsz)),
    fun hid hl hsz hv => hrow (createCq_badVector (queueRefusal_none hid hl hsz) hv),
    fun h => hrow (deleteSq_refused h)⟩

end Sys2Proof.Machine
end

section
/-!
SUPPORT. A state that refutes O17: what the pool still holds of a docket entry that no command is in any more.
-/
namespace Sys2Proof.Machine

/-- A request for a far berth that docket entry 5 left behind in the wait queue. -/
def leftRequest : Waiter := { who := ⟨7, 32, 5⟩, tag := 6 * 2 ^ 20 + 5, req := ⟨0x30, 0, 0, 0, 0⟩ }

/-- No command is in flight, and queue 1 of the physical function has one to fetch; the pool still holds a far berth of
docket entry 0, and the request of entry 5 waits for one. -/
def leftInPool : State := { State.reset with
  host := { HostIf.empty with fns := [(0, { Fn.empty with
    present := true, en := true, rdy := true, online := true, vq := 3, vi := 3
    sqs := [(1, { Sq.empty with live := true, size := 4, cqid := 1, tail := 2 })] })] }
  pool := { Pool.empty with
    berths := [(farBase, { alloc := true, owner := 6 * 2 ^ 20, claims := [], done := none })]
    farWait := [leftRequest] }
  power := { Power.reset with bootStep := 6, on := List.range 22 } }

/-- What a docket entry holds after a step. -/
def entryAfter (d : Nat) : Res → Docket
  | .next t => getDk t d
  | _ => Docket.free

/-- Refutes O17: the refused I/O command passes through docket entry 0; as the entry is freed, the berth that stands
under its tag is reclaimed and granted to the request of entry 5, which then is no free entry. -/
theorem not_unknownAbortedAndEventCommands : ¬ Obligations.UnknownAbortedAndEventCommands := by
  unfold Obligations.UnknownAbortedAndEventCommands
  rintro ⟨hrefused, -⟩
  obtain ⟨-, hio⟩ := hrefused leftInPool 0 1 7 5
  obtain ⟨t, ht, -, hfree, -⟩ := hio (by decide +kernel) rfl rfl rfl rfl
  have hgranted : (entryAfter 5 (exec (.invalidCommandOpcode true 0 1 7) leftInPool)).berths = [farBase] := by
    decide +kernel
  rw [ht] at hgranted
  simp only [entryAfter, hfree] at hgranted
  exact absurd hgranted (by decide)

end Sys2Proof.Machine
end

section
/-!
SUPPORT. Features (R48, R63, R123, R315, R520).
-/
namespace Sys2Proof.Machine

/-! ### Features -/

@[simp] theorem featGet_featSet (f : Fn) (k v : Nat) : featGet (featSet f k v) k = v := by
  by_cases h : v = featDefault k
  · simp [featGet, featSet, h, tabFind_drop_same]
  · simp [featGet, featSet, h, tabFind_put_same]

section Refusal
variable {fn fid : Nat}

/-- Only features 0xC1 and 0xC2 can be saved. -/
theorem featRefusal_save (h1 : fid ≠ 0xC1) (h2 : fid ≠ 0xC2) : featRefusal fn fid true = some .featureNotSaveable := by
  simp [featRefusal, h1, h2]

theorem featRefusal_scope (h : pfFeature fid = true) (hf : fn ≠ 0) (save : Bool)
    (hs : save = true → fid = 0xC1 ∨ fid = 0xC2) : featRefusal fn fid save = some .featureNotChangeable := by
  have hno : (save && fid != 0xC1 && fid != 0xC2) = false := by
    cases save with
    | false => rfl
    | true => rcases hs rfl with h | h <;> simp [h]
  simp [featRefusal, hno, h, hf]

theorem featRefusal_none (h : pfFeature fid = false ∨ fn = 0) : featRefusal fn fid false = none := by
  rcases h with h | h <;> simp [featRefusal, h]

/-- No feature has a row of its own and none. -/
theorem ownFeature_of_plain (h : plainFeature fid = true) : ownFeature fid = false := by
  simp only [plainFeature, List.contains_eq_mem, List.mem_cons, List.not_mem_nil, or_false, decide_eq_true_eq] at h
  rcases h with h | h | h | h | h | h | h | h | h | h | h <;> rw [h] <;> rfl

end Refusal

section SetFeatures
variable {s : State} {a : Adm} {fid nsid : Nat} {save : Bool} {v : W32} {d : List Byte} {st : Status}

theorem execSetFeatures_unknown (hp : plainFeature fid = false) (ho : ownFeature fid = false) :
    execSetFeatures a fid nsid save v d s = admin s a (adminFail s a .invalidField) := by
  simp [execSetFeatures, hp, ho]

theorem execSetFeatures_refused (hp : plainFeature fid = true) (h : featRefusal a.fn fid save = some st) :
    execSetFeatures a fid nsid save v d s = admin s a (adminFail s a st) := by
  simp [execSetFeatures, hp, ownFeature_of_plain hp, h]

theorem execSetFeatures_set (hp : plainFeature fid = true) (h : featRefusal a.fn fid save = none) :
    execSetFeatures a fid nsid save v d s = admin s a (setPlain s a fid nsid v d) := by
  simp [execSetFeatures, hp, ownFeature_of_plain hp, h]

/-- A feature that the model has no case for holds the value that was set. -/
theorem featureValue_unknown (fn : Nat) (hp : plainFeature fid = false) (ho : ownFeature fid = false) :
    featureValue s fn fid nsid v = .error .invalidField := by
  unfold featureValue
  dsimp only
  split
  case h_13 => simp [hp]
  all_goals simp [plainFeature, ownFeature] at hp ho

end SetFeatures

/-! ### Landing -/

section Landing

/-- A landing block more is a landing block more, or the same number. -/
theorem landHeld_land (s : State) (b : Nat) :
    s.media.landHeld ≤ (modBlk s b (fun x => { x with pool := 1, open_ := false })).media.landHeld := by
  have hnew (x : Block) : inLanding { x with pool := 1, open_ := false } = true := rfl
  simp only [modBlk, setBlk, hnew]
  have hold : b2n (inLanding (getBlk s b)) ≤ 1 := by cases inLanding (getBlk s b) <;> decide
  have hone : b2n true = 1 := rfl
  omega

/-- Landing grows by blocks alone: the host's side and the map stay, and no landing block is given back. -/
theorem landAll (l : List Nat) (s : State) :
    let t := l.foldl (fun s b => modBlk s b (fun x => { x with pool := 1, open_ := false })) s
    t.host = s.host ∧ t.media.cur = s.media.cur ∧ s.media.landHeld ≤ t.media.landHeld := by
  induction l generalizing s with
  | nil => exact ⟨rfl, rfl, le_rfl⟩
  | cons b l ih =>
    obtain ⟨hhost, hcur, hheld⟩ := ih (modBlk s b (fun x => { x with pool := 1, open_ := false }))
    exact ⟨hhost, hcur, (landHeld_land s b).trans hheld⟩

theorem growLanding_spec (s : State) : (growLanding s).host = s.host ∧ (growLanding s).media.cur = s.media.cur ∧
    s.media.landHeld ≤ (growLanding s).media.landHeld := by
  unfold growLanding
  dsimp only
  split
  · exact ⟨rfl, rfl, le_rfl⟩
  · exact landAll _ (draw s)

/-- A landing policy set and not saved is in force. -/
theorem landNow_of_host {s t : State} {v : Nat}
    (h : t.host = (modFn s 0 (fun f => { f with features := tabPut f.features 0xC1 v })).host) :
    landNow t = v := by
  have hf : getFn t 0 = { getFn s 0 with features := tabPut (getFn s 0).features 0xC1 v } := by
    simp only [getFn, h]
    exact getFn_modFn s 0 _
  simp [landNow, hf, tabFind_put_same]

end Landing

section Rows
variable {s : State} {a : Adm} {nsid n m : Nat} {v : W32}

theorem setNumberOfQueues_granted (hn : n < 65535) (hm : m < 65535) (hs : ∀ e ∈ (getFn s a.fn).sqs, e.1 = 0)
    (hc : ∀ e ∈ (getFn s a.fn).cqs, e.1 = 0) :
    let all := if a.fn = 0 then min (getFn s a.fn).vq 1024 else (getFn s a.fn).vq
    let g := min n (all - 1) + min m (all - 1) * 65536
    setNumberOfQueues s a n m = adminDone
      (modFn s a.fn (fun f => featSet { f with nqSet := true } 0x07 g)) a .success g .none := by
  have hs' : (getFn s a.fn).sqs.any (fun q => q.1 != 0) = false := by simpa using hs
  have hc' : (getFn s a.fn).cqs.any (fun q => q.1 != 0) = false := by simpa using hc
  simp only [setNumberOfQueues, hs', hc']
  rw [if_neg (by omega), if_neg (by simp)]

theorem setNumberOfQueues_late (hn : n < 65535) (hm : m < 65535) (hs : ∃ e ∈ (getFn s a.fn).sqs, e.1 ≠ 0) :
    setNumberOfQueues s a n m = adminFail s a .commandSequenceError := by
  have hs' : (getFn s a.fn).sqs.any (fun q => q.1 != 0) = true := by simpa using hs
  simp only [setNumberOfQueues, hs']
  rw [if_neg (by omega), if_pos (by simp)]

/-- The offset that a Timestamp fixes makes the controller read it (R520). -/
theorem timestamp_set (s : State) (fn n : Nat) :
    timestamp (modFn s fn (fun f => { f with tsOffset := (n % 2 ^ 48 : Nat) - (s.uptime : Int), tsSet := true })) fn =
      n % 2 ^ 48 := by
  have hup (g : Fn → Fn) : (modFn s fn g).uptime = s.uptime := rfl
  simp only [timestamp, getFn_modFn, hup]
  omega

theorem setCompression_unsaved (hv : v.toNat ≤ 1) (h0 : nsid ≠ 0) (hall : nsid ≠ 0xFFFFFFFF)
    (hl : (getNs s nsid).live = true) (hz : (getNs s nsid).zoned = false) (hu : unitSlots (getNs s nsid).lbaf = 4)
    (hm : (getNs s nsid).mirror = false) (hf : a.fn = 0) :
    setCompression s a false nsid v.toNat =
      adminOk (modNs s nsid (fun n => { n with compress := v.toNat == 1, compressFn := 1 })) a := by
  have hbad : ¬ (nsid = 0 ∨ nsid = 0xFFFFFFFF ∨ 1 < v.toNat) := by omega
  simp [setCompression, hbad, hl, hz, hu, hm, hf]

end Rows

/-- Settles O22: `featRefusal` comes first, and each feature's own row then keeps what it is given. -/
theorem featuresKeepWhatIsSet : Obligations.FeaturesKeepWhatIsSet := by
  unfold Obligations.FeaturesKeepWhatIsSet
  constructor
  · intro s a fid nsid n m v d ho hr fails
    have hrow {t u : State} (h : t = u) : admin s a t = .next u := h ▸ admin_open ho hr t
    refine ⟨fun hp hown save => ⟨?_, ?_⟩, fun hp => ?_, fun hf => ?_, ?_, ?_, ?_, ?_,
      fun hf => ⟨?_, fun save => ?_⟩⟩
    · exact (execSetFeatures_unknown hp hown).trans (hrow rfl)
    · exact hrow (by simp only [getFeature, featureValue_unknown a.fn hp hown])
    · have h1 : fid ≠ 0xC1 := by rintro rfl; cases hp
      have h2 : fid ≠ 0xC2 := by rintro rfl; cases hp
      exact (execSetFeatures_refused hp (featRefusal_save h1 h2)).trans (hrow rfl)
    · exact (execSetFeatures_refused rfl (featRefusal_scope rfl hf false (by simp))).trans (hrow rfl)
    all_goals apply hrow
    · rw [featRefusal_save (by decide) (by decide)]
    · rw [featRefusal_save (by decide) (by decide)]
    · rw [featRefusal_save (by decide) (by decide)]
    · rw [featRefusal_save (by decide) (by decide)]
    · rw [featRefusal_scope rfl hf false (by simp)]
    · rw [featRefusal_scope rfl hf save (by simp)]
  · intro s a nsid n m v d ho hr f all g q sets
    have hrow {t u : State} (h : t = u) : admin s a t = .next u := h ▸ admin_open ho hr t
    have hset (fid x : Nat) (hp : plainFeature fid = true) (hno : pfFeature fid = false)
        (hkeep : setPlain s a fid nsid v d = adminOk (modFn s a.fn (fun f => featSet f fid x)) a) :
        sets (.setFeatures a fid nsid false v d) fid x :=
      ⟨(execSetFeatures_set hp (featRefusal_none (.inl hno))).trans (hrow hkeep),
        by rw [getFn_modFn, featGet_featSet]⟩
    refine ⟨hset 0x01 _ rfl rfl rfl, hset 0x0B _ rfl rfl rfl, hset 0x08 _ rfl rfl rfl, hrow rfl, hrow rfl,
      fun hn hm hs hc => hrow (setNumberOfQueues_granted hn hm hs hc),
      fun hn hm hs => hrow (setNumberOfQueues_late hn hm hs),
      ⟨_, hrow rfl, timestamp_set s a.fn n, by rw [getFn_modFn], rfl⟩, fun hq => ?_, fun hq => ?_,
      fun hf hok => ?_, fun hf hbad save => ?_, fun hv h0 hall hl hz hu hm hf => ?_⟩
    · have hq' : ioSq s a.fn (bitsOf v.toNat 0 15) = true := hq
      exact hrow (by simp only [featRefusal_none (fid := 0xC0) (.inl rfl), hq']; rfl)
    · have hq' : ioSq s a.fn (bitsOf v.toNat 0 15) = false := hq
      exact hrow (by simp only [featRefusal_none (fid := 0xC0) (.inl rfl), hq']; rfl)
    · obtain ⟨hhost, hcur, hheld⟩ :=
        growLanding_spec (modFn s 0 (fun f => { f with features := tabPut f.features 0xC1 v.toNat }))
      exact ⟨_, hrow (by simp only [featRefusal_none (.inr hf), applyLanding, hok]; rfl), landNow_of_host hhost, hcur,
        hheld⟩
    · have hr : featRefusal a.fn 0xC1 save = none := by cases save <;> simp [featRefusal, hf]
      exact hrow (by simp [hr, applyLanding, hbad])
    · refine hrow ?_
      simp only [featRefusal_none (fid := 0xC2) (.inl rfl)]
      exact setCompression_unsaved hv h0 hall hl hz hu hm hf

end Sys2Proof.Machine
end

section
/-!
SUPPORT. Power states (R73 to R75, R414), self-tests and dredge cycles (R486 to R491, R495).
-/
namespace Sys2Proof.Machine

/-! ### Power states (R73 to R75, R414) -/

section PowerStates
variable {s : State} {w : PsWait}

theorem nextPower_last (h : s.host.psQueue = []) : nextPower s = { s with host := { s.host with psWait := none } } := by
  simp only [nextPower, h]

/-- A power state is reached where its limits, its cap and, for PS4, its idle time allow. -/
theorem powerStateReached_waiting (h : s.host.psWait = some w) :
    execPowerStateReached s = .next (when (limitsMet s w.target && underCap s w.target &&
        (w.target != 4 || (w.idle && s.host.dockets.isEmpty)) && !s.power.dumping) s
      (adminOk (nextPower { s with host := { s.host with
        psLastOp := if w.target < 4 then w.target else if s.host.ps < 4 then s.host.ps else s.host.psLastOp
        ps := w.target } }) w.adm)) := by simp only [execPowerStateReached, h]

theorem powerStateReached_operational (h : s.host.psWait = some w) (hq : s.host.psQueue = [])
    (hd : s.power.dumping = false) (ht : w.target < 4) (hl : limitsMet s w.target = true)
    (hc : underCap s w.target = true) :
    execPowerStateReached s = .next (adminOk
      { s with host := { s.host with ps := w.target, psLastOp := w.target, psWait := none } } w.adm) := by
  have hne : (w.target != 4) = true := by simp; omega
  rw [powerStateReached_waiting h, hl, hc, hne, hd, if_pos ht]
  rw [nextPower_last (by exact hq)]
  rfl

theorem powerStateReached_four (h : s.host.psWait = some w) (hq : s.host.psQueue = [])
    (hd : s.power.dumping = false) (ht : w.target = 4) (hl : limitsMet s 4 = true) (hi : w.idle = true)
    (hk : s.host.dockets = []) (hp : s.host.ps < 4) :
    execPowerStateReached s = .next (adminOk
      { s with host := { s.host with ps := 4, psLastOp := s.host.ps, psWait := none } } w.adm) := by
  have hc : underCap s 4 = true := rfl
  rw [powerStateReached_waiting h, ht, hl, hc, hi, hk, hd, if_neg (by omega), if_pos hp]
  rw [nextPower_last (by exact hq)]
  rfl

theorem powerStateReached_early (h : s.host.psWait = some w)
    (hno : limitsMet s w.target = false ∨ underCap s w.target = false) : execPowerStateReached s = .next s := by
  rw [powerStateReached_waiting h]
  rcases hno with hno | hno <;> simp [hno]

end PowerStates

/-! ### Self-tests and dredge cycles -/

section SelfTest
variable {s : State} {a : Adm} {code nsid : Nat}

theorem selfTestStart_idle (hc : s.service.stCode = 0)
    (hn : nsid = 0 ∨ nsid = 0xFFFFFFFF ∨ (getNs s nsid).live = true) :
    selfTestStart s a code nsid =
      adminOk { s with service := { s.service with stCode := code, stNsid := nsid } } a := by
  have hok : ¬ (nsid ≠ 0 ∧ nsid ≠ 0xFFFFFFFF ∧ (!(getNs s nsid).live) = true) := by
    rcases hn with h | h | h <;> simp [h]
  rw [selfTestStart, if_neg hok, if_neg (by simp [hc])]

theorem selfTestStart_busy (hc : s.service.stCode ≠ 0) :
    selfTestStart s a code 0 = adminFail s a .selfTestInProgress := by
  simp [selfTestStart, hc]

theorem selfTestEnd_none (h : s.service.stCode = 0) (r seg skipped : Nat) : selfTestEnd s r seg skipped = s := by
  simp [selfTestEnd, h]

theorem selfTestEnd_running (h : s.service.stCode ≠ 0) (r seg skipped : Nat) :
    selfTestEnd s r seg skipped = { s with service := { s.service with
      stCode := 0, stNsid := 0
      stResults := (⟨s.service.stCode, r, seg, skipped, s.service.stNsid, s.nowMs⟩ ::
        s.service.stResults).take 20 } } := by
  simp [selfTestEnd, h]

/-- The first of a rising list that satisfies `p`. -/
theorem find?_of_rising {l : List Nat} {p : Nat → Bool} {k : Nat} (hl : l.Pairwise (· < ·)) (hk : k ∈ l)
    (hp : p k = true) (hmin : ∀ j ∈ l, j < k → p j = false) : l.find? p = some k := by
  induction l with
  | nil => cases hk
  | cons x l ih =>
    obtain ⟨hx, hl⟩ := List.pairwise_cons.mp hl
    rcases List.mem_cons.mp hk with rfl | hk
    · rw [List.find?_cons_of_pos hp]
    · rw [List.find?_cons_of_neg (by simp [hmin x (by simp) (hx k hk)])]
      exact ih hl hk fun j hj => hmin j (List.mem_cons_of_mem x hj)

theorem segmentsOf_rising (test : Nat) : (segmentsOf test).Pairwise (· < ·) := List.pairwise_lt_range.filter _

theorem noteUnit_done {task unit : Nat} (h : unitDone s task unit = true) : noteUnit s task unit = s := by
  simp [noteUnit, h]

/-- A running cycle ends exactly where it has covered everything. -/
theorem settleCycle_ends (h : s.service.cycleAt ≠ none) :
    (settleCycle s).service.cycleAt = none ↔ cycleDone s = true := by
  have hsome : s.service.cycleAt.isSome = true := Option.isSome_iff_ne_none.mpr h
  cases hd : cycleDone s <;> simp [settleCycle, hsome, hd, h]

end SelfTest

section SelfTestEnds
variable {s : State} {failed : List Nat} (hc : s.service.stCode ≠ 0) (ha : s.host.activation = none)
  (hd : s.power.dumping = false)
include hc ha hd

theorem execSelfTestComplete_passed (h : (segmentsOf s.service.stCode).find? (failed.contains ·) = none)
    (notRun : List Nat) : execSelfTestComplete failed notRun s = .next
      (selfTestEnd s 0 0 (bitSet (((segmentsOf s.service.stCode).filter (notRun.contains ·)).map (· - 1)))) := by
  simp only [execSelfTestComplete, h, bne_iff_ne.mpr hc, ha, hd]
  rfl

theorem execSelfTestComplete_failed {k : Nat} (h : (segmentsOf s.service.stCode).find? (failed.contains ·) = some k)
    (notRun : List Nat) : execSelfTestComplete failed notRun s = .next
      (selfTestEnd s 7 k (bitSet (((segmentsOf s.service.stCode).filter (notRun.contains ·)).map (· - 1)))) := by
  simp only [execSelfTestComplete, h, bne_iff_ne.mpr hc, ha, hd]
  rfl

end SelfTestEnds

theorem any_of_eq_some {α : Type} {o : Option α} {x : α} {p : α → Bool} {c : Bool} (ho : o = some x) (h : p x = c) :
    o.any p = c := by rw [ho, Option.any_some, h]

theorem execCycleOverrun_due {s : State} {start : Nat} (hat : s.service.cycleAt = some start)
    (ho : s.service.overrun = false) (hdue : start + dget s 0x9000 2 * 3600000 ≤ s.nowMs) :
    execCycleOverrun s = .next (bump { s with service := { s.service with overrun := true } } 0x9000 6 1) := by
  rw [execCycleOverrun, any_of_eq_some hat (decide_eq_true hdue), ho]
  rfl

theorem execCycleOverrun_early {s : State} {start : Nat} (hat : s.service.cycleAt = some start)
    (hnot : s.nowMs < start + dget s 0x9000 2 * 3600000) : execCycleOverrun s = .next s := by
  rw [execCycleOverrun, any_of_eq_some hat (decide_eq_false (Nat.not_le.mpr hnot)), Bool.and_false, when_false]

/-- Settles O23: a wait, its end and what cuts it short, for power states, self-tests and dredge cycles in turn. -/
theorem powerStatesTestsAndCyclesEnd : Obligations.PowerStatesTestsAndCyclesEnd := by
  unfold Obligations.PowerStatesTestsAndCyclesEnd
  refine ⟨fun s a ps w => ⟨?_, fun hw hq hd => ⟨powerStateReached_operational hw hq hd, powerStateReached_four hw hq hd,
    powerStateReached_early hw⟩, fun hw ht hk hb => ?_⟩, ?_, ?_⟩
  case refine_1 =>
    intro ho hr hf hps mine
    have hrow {t u : State} (h : t = u) : admin s a t = .next u := h ▸ admin_open ho hr t
    have hno : featRefusal a.fn 0x02 false = none := by simp [featRefusal, hf]
    exact ⟨fun hw => hrow (by simp only [hno, if_neg (Nat.not_lt.mpr hps), hw]; rfl),
      fun hw => hrow (by simp only [hno, if_neg (Nat.not_lt.mpr hps), hw]; rfl)⟩
  case refine_2 =>
    change execPs4IdleEntry s = _
    simp [execPs4IdleEntry, hw, ht, hk, hb]
  case refine_3 =>
    intro s a nsid ho hr hf v started
    have hrow {t u : State} (h : t = u) : adminPf s a t = .next u := h ▸ adminPf_open ho hr hf t
    refine ⟨fun hc hn => ⟨hrow (selfTestStart_idle hc hn), hrow (selfTestStart_idle hc hn)⟩,
      fun hc hn => ?_, fun hc => ⟨_, hrow rfl, rfl, ?_, ?_⟩, fun hc => hrow (by rw [selfTestEnd_none hc])⟩
    · subst hn
      exact ⟨hrow (selfTestStart_busy hc), hrow (selfTestStart_busy hc)⟩
    · rw [selfTestEnd_running hc]
    · rw [selfTestEnd_running hc]; rfl
  case refine_4 =>
    intro s failed notRun v skipped result ended
    refine ⟨fun hc ha hd => ⟨fun hpass => ?_, fun k hk hfail hfirst => ?_⟩, fun hc => ?_, fun hb hn hon => ?_,
      fun at_ hat ho => ⟨fun hdue => ⟨_, execCycleOverrun_due hat ho hdue, rfl, dget_bump_same _ _ _ _⟩,
        execCycleOverrun_early hat⟩,
      settleCycle_ends, fun _ _ => noteUnit_done⟩
    · have hfind : (segmentsOf s.service.stCode).find? (failed.contains ·) = none := by simpa using hpass
      exact (execSelfTestComplete_passed hc ha hd hfind notRun).trans (by rw [selfTestEnd_running hc])
    · have hfind : (segmentsOf s.service.stCode).find? (failed.contains ·) = some k :=
        find?_of_rising (segmentsOf_rising _) hk (by simpa using hfail) (by simpa using hfirst)
      exact (execSelfTestComplete_failed hc ha hd hfind notRun).trans (by rw [selfTestEnd_running hc])
    · change execSelfTestComplete failed notRun s = _
      simp [execSelfTestComplete, show s.service.stCode = 0 from hc]
    · change execDredgeCycleStart s = _
      simp [execDredgeCycleStart, hb, hon, show s.service.cycleAt = none from hn, v]

end Sys2Proof.Machine
end

section
/-!
SUPPORT. The idle step and the reset state (log entry 2, R391, R423).
-/
namespace Sys2Proof.Machine

/-- Settles O58: an idle step is a tick, and the reset state is written out. -/
theorem idleStepsAndReset : Obligations.IdleStepsAndReset := by
  unfold Obligations.IdleStepsAndReset
  refine ⟨fun s h => ⟨tick s, ?_, rfl, rfl, rfl, rfl, dget_dset_same _ _ _ _, h⟩,
    rfl, rfl, rfl, rfl, rfl, rfl, rfl, rfl⟩
  simp only [step, h]

end Sys2Proof.Machine
end

section
/-!
SUPPORT. Reservations (R47, R377, log entry 5): what an action does, whom a type forbids, and how the commands end.
-/
namespace Sys2Proof.Machine

/-! ### What an action does to a namespace -/

section Actions
variable {s : State} {n : Ns} {fn : Nat}

/-- Of a host that is not registered every action but a registration conflicts. -/
theorem resvStep_unregistered (h : registrant s n fn = none) (key : W64) (t : Nat) :
    resvStep s n fn (.register key) =
      some { n with regs := n.regs ++ [⟨fn, hostKey s fn, key⟩], resvGen := n.resvGen + 1 } ∧
    resvStep s n fn (.acquire t) = none ∧ resvStep s n fn (.release t) = none ∧ resvStep s n fn .clear = none ∧
    resvStep s n fn .unregister = none := by
  simp [resvStep, h]

theorem resvStep_acquire_held (ht : n.resvType ≠ 0) (hh : holdsResv s n fn = false) (t : Nat) :
    resvStep s n fn (.acquire t) = none := by
  simp [resvStep, ht, hh]

section Registered
variable (h : (registrant s n fn).isSome = true)
include h

theorem registrant_ne_none : registrant s n fn ≠ none := Option.isSome_iff_ne_none.mp h

theorem resvStep_acquire_free (ht : n.resvType = 0) (t : Nat) :
    resvStep s n fn (.acquire t) = some { n with resvType := t, resvHolder := some (hostKey s fn) } := by
  simp [resvStep, registrant_ne_none h, ht]

theorem resvStep_release_other (hh : holdsResv s n fn = false) (t : Nat) :
    resvStep s n fn (.release t) = some n := by
  simp [resvStep, registrant_ne_none h, hh]

theorem resvStep_release_held (hh : holdsResv s n fn = true) (ht : n.resvType ≠ 0) :
    resvStep s n fn (.release n.resvType) = some { n with resvType := 0, resvHolder := none } := by
  simp [resvStep, registrant_ne_none h, hh, ht]

theorem resvStep_clear :
    resvStep s n fn .clear =
      some { n with regs := [], resvType := 0, resvHolder := none, resvGen := n.resvGen + 1 } := by
  simp [resvStep, registrant_ne_none h]

end Registered

/-! ### Whom a reservation forbids what -/

/-- The types end at 6. -/
theorem resvConflict_beyond (h : 7 ≤ n.resvType) (write : Bool) : resvConflict s n fn write = false := by
  obtain ⟨k, hk⟩ := Nat.exists_eq_add_of_le' h
  simp [resvConflict, hk]

theorem resvConflict_read_iff : resvConflict s n fn false = true ↔
    (n.resvType = 2 ∧ holdsResv s n fn = false) ∨
      ((n.resvType = 4 ∨ n.resvType = 6) ∧ ¬ (registrant s n fn).isSome = true) := by
  by_cases hb : 7 ≤ n.resvType
  · simp only [resvConflict_beyond hb]
    constructor
    · simp
    · omega
  · have hlt : n.resvType < 7 := by omega
    interval_cases ht : n.resvType <;> simp [resvConflict, ht]

theorem resvConflict_write_iff : resvConflict s n fn true = true ↔
    ((n.resvType = 1 ∨ n.resvType = 2) ∧ holdsResv s n fn = false) ∨
      (3 ≤ n.resvType ∧ n.resvType ≤ 6 ∧ ¬ (registrant s n fn).isSome = true) := by
  by_cases hb : 7 ≤ n.resvType
  · simp only [resvConflict_beyond hb]
    constructor
    · simp
    · omega
  · have hlt : n.resvType < 7 := by omega
    interval_cases ht : n.resvType <;> simp [resvConflict, ht]

end Actions

/-! ### The commands -/

/-- Nothing holds, refuses or forwards the Reservation command of a docket entry. -/
structure ResvRuns (s : State) (d : Nat) : Prop where
  notHeld : heldByTakeover s (getDk s d).sqe.nsid = false
  notRekeying : rekeying s (getDk s d).sqe.nsid = false
  notRefused : nsRefusal s (getDk s d) = none
  notForwarded : forwards s (getDk s d).sqe.nsid = false

section Commands
variable {s : State} {d : Nat} (h : ResvRuns s d)
include h

theorem resvNs_runs (data : List Byte) (run : State → State) : resvNs s d data run = run (begun s d) := by
  obtain ⟨hh, hk, hr, hf⟩ := h
  simp [resvNs, hh, hk, hr, hf, begun]

theorem reportResv_runs :
    reportResv s d = ioDone (begun s d) d .success 0 0 (.bytes (resvStatus (getNs s (getDk s d).sqe.nsid))) := by
  simp [reportResv, resvNs_runs h]

/-- The row of an action of its own command runs the action. -/
theorem resvRow_runs (hd : (getDk s d).sqe.dw ≠ []) {act : ResvAction} (ht : resvTypeOk act = true) :
    resvRow s d true act = resvCmd (begun s d) d act := by
  have hdw : (getDk s d).sqe.dw.isEmpty = false := by simp [hd]
  simp [resvRow, hdw, resvNs_runs h, ht]

end Commands

/-- A docket entry's beginning changes neither the hosts nor the namespaces. -/
@[simp] theorem resvStep_begun (s : State) (d : Nat) (n : Ns) (fn : Nat) (act : ResvAction) :
    resvStep (begun s d) n fn act = resvStep s n fn act := by
  cases act <;> rfl

section Effect
variable {s : State} {d : Nat} {act : ResvAction}

theorem resvCmd_conflict (h : resvStep s (getNs s (getDk s d).sqe.nsid) (getDk s d).fn act = none) :
    resvCmd (begun s d) d act = ioFail (begun s d) d .reservationConflict := by
  simp [resvCmd, h]

/-- An action that notifies nobody completes with the namespace it leaves. -/
theorem resvCmd_quiet {m : Ns} (hm : (getNs s (getDk s d).sqe.nsid).mirror = false)
    (h : resvStep s (getNs s (getDk s d).sqe.nsid) (getDk s d).fn act = some m)
    (hn : notice (getNs s (getDk s d).sqe.nsid) m act = 0) (ha : ∀ k j, act ≠ .preemptAbort k j) :
    resvCmd (begun s d) d act = ioOk (setNs (begun s d) (getDk s d).sqe.nsid m) d := by
  cases act with
  | preemptAbort k j => exact absurd rfl (ha k j)
  | _ => simp [resvCmd, h, hn, hm]

end Effect

/-- Settles O36: an action by the case it meets, a conflict by the type, and each command by the rules of its row. -/
theorem reservationsGuardTheirNamespace : Obligations.ReservationsGuardTheirNamespace := by
  unfold Obligations.ReservationsGuardTheirNamespace
  intro s d act key t e fn n me known clear
  have hruns : clear → ResvRuns s d := fun ⟨hh, hk, hr, hf, _⟩ => ⟨hh, hk, hr, hf⟩
  have hrow {k : IoKind} {u : State} (hs : dkStart s d k = true) {v : State} (hv : v = u) : io s d k v = .next u := by
    rw [io_started hs, hv]
  refine ⟨fun hno => ?unknown, resvStep_acquire_free (t := t), fun hk ht hh => ⟨resvStep_acquire_held ht hh t,
      resvStep_release_other hk hh t⟩, resvStep_release_held, resvStep_clear, resvConflict_read_iff,
    resvConflict_write_iff, fun hc m hm hn ha ht => ?done, fun hc hm ht ha hs => ?conflict, fun hc hs => ?report⟩
  case unknown => exact resvStep_unregistered (by simpa [known] using hno) key t
  case done =>
    intro u
    obtain ⟨_, _, _, _, hmir, hd⟩ := id hc
    have hend : resvRow s d true act = ioOk u d := by
      rw [resvRow_runs (hruns hc) hd ht, resvCmd_quiet hmir hm hn ha]
    refine ⟨fun hk hs => hrow hs ?_, fun hk hs => hrow hs ?_, fun hk hk' hs => hrow hs ?_⟩
    · rw [hk, hend]
    · rw [hk, hend]
    · rw [hk, hk']; exact hend
  case conflict =>
    obtain ⟨_, _, _, _, _, hd⟩ := id hc
    refine hrow hs ?_
    rw [ha, resvRow_runs (hruns hc) hd ht, resvCmd_conflict hm]
  case report => exact hrow hs (reportResv_runs (hruns hc))

end Sys2Proof.Machine
end

section
/-!
SUPPORT. Firmware images and their activation (R70, R71, R501, R502).
-/
namespace Sys2Proof.Machine

/-! ### Downloads and stores -/

/-- The rows of the physical function that recovery mode accepts too. -/
theorem adminPfAny_open {s : State} {a : Adm} (ho : adminOpen s a.fn = true) (hf : a.fn = 0) (t : State) :
    adminPfAny s a t = .next t := by
  rw [adminPfAny, adminAny_open ho, if_pos hf]

section Download
variable {s : State} {a : Adm} {off : Nat} {d : List Byte}

theorem fwDownload_taken (ho : off % 4096 = 0) (hd : d.length % 4096 = 0) (hp : 0 < d.length)
    (hl : off + d.length ≤ 3 * 2 ^ 20) : fwDownload s a off d = adminOk { s with power := { s.power with
      fwBuf := memWrite s.power.fwBuf off d, fwBufLen := max s.power.fwBufLen (off + d.length) } } a :=
  if_neg (by rw [fwMax]; omega)

theorem fwDownload_refused (h : off % 4096 ≠ 0 ∨ d.length % 4096 ≠ 0 ∨ 3 * 2 ^ 20 < off + d.length) :
    fwDownload s a off d = adminFail s a .invalidField :=
  if_pos (by rw [fwMax]; omega)

end Download

/-- The image downloaded so far. -/
def downloaded (s : State) : List Byte := memRead s.power.fwBuf 0 s.power.fwBufLen

theorem fwTarget_named {s : State} {slot : Nat} (h1 : 1 ≤ slot) (h2 : slot ≤ 2) : fwTarget s slot = some slot := by
  have h0 : slot ≠ 0 := by omega
  simp [fwTarget, h0, h2]

theorem fwTarget_unknown {s : State} {slot : Nat} (h : 2 < slot) : fwTarget s slot = none := by
  have h0 : slot ≠ 0 := by omega
  simp [fwTarget, h0, h]

section Store
variable {s : State} {slot : Nat}

theorem fwStore_unknownSlot (h : 2 < slot) : fwStore s slot = (some .invalidFirmwareSlot, s) := by
  simp [fwStore, fwTarget_unknown h]

variable (h1 : 1 ≤ slot) (h2 : slot ≤ 2)
include h1 h2

theorem fwStore_unsigned (hg : Config.fwSigned (downloaded s) = false) :
    fwStore s slot = (some .invalidFirmwareImage, s) := by
  rw [downloaded] at hg
  simp [fwStore, fwTarget_named h1 h2, hg]

theorem fwStore_stored (hb : downloaded s ≠ []) (hg : Config.fwSigned (downloaded s) = true)
    (hw : ∀ l ∈ checkLine (7 + slot) :: slotLines slot (downloaded s).length, lineWorn s l = false) :
    fwStore s slot = (none, storeImage s slot (downloaded s)) := by
  have hfind : (checkLine (7 + slot) :: slotLines slot (downloaded s).length).find? (lineWorn s) = none :=
    List.find?_eq_none.mpr fun l hl => by simp [hw l hl]
  rw [downloaded] at hb hg hfind
  simp only [fwStore, fwTarget_named h1 h2, List.isEmpty_iff, hb, hg, hfind, downloaded, Bool.not_true, false_or,
    Bool.false_eq_true, if_false]

end Store

/-- A stored image is the one its slot holds. -/
theorem slot_storeImage (s : State) (slot : Nat) (b : List Byte) :
    (if slot = 1 then (storeImage s slot b).power.fw1 else (storeImage s slot b).power.fw2) = some b := by
  by_cases h : slot = 1 <;> simp [storeImage, h]

/-! ### Activation -/

/-- The module once an activation has ended: the threads go on, and the watchdog counts again. -/
def activationOver (u : State) (p : Power) : State :=
  settleSpaces { u with
    host := { u.host with activation := none }
    power := { p with wdtAt := u.power.wdtAt.map (fun _ => u.nowMs) } }

section Activation
variable {u : State} {x : Activation} (hx : u.host.activation = some x)
include hx

theorem execFwDrainComplete_drained (hd : drained u = true) (hn : u.nowMs < x.start + 200) :
    execFwDrainComplete u =
      .next (adminOk (activationOver u { u.power with fwSlot := x.slot, fwNext := x.slot }) x.adm) := by
  simp only [execFwDrainComplete, hx, hd, decide_eq_true hn, Bool.and_self, when_true, activationOver]

theorem execFwDrainComplete_idle (h : drained u = false ∨ x.start + 200 ≤ u.nowMs) :
    execFwDrainComplete u = .next u := by
  have hno : (drained u && decide (u.nowMs < x.start + 200)) = false := by
    rcases h with h | h
    · simp [h]
    · simp [Nat.not_lt.mpr h]
  simp only [execFwDrainComplete, hx, hno, when_false]

theorem execFwActivationTimeout_early (hn : u.nowMs < x.start + 200) : execFwActivationTimeout u = .next u := by
  simp only [execFwActivationTimeout, hx, decide_eq_false (Nat.not_le.mpr hn), when_false]

theorem execFwActivationTimeout_due (hn : x.start + 200 ≤ u.nowMs) : execFwActivationTimeout u =
    .next (adminFail (activationOver u u.power) x.adm .firmwareActivationProhibited) := by
  simp only [execFwActivationTimeout, hx, decide_eq_true hn, when_true, activationOver]

end Activation

/-- Settles O28: a download, a store and a commit by the check they meet, and an activation by its 200 ms. -/
theorem firmwareIsStoredAndActivated : Obligations.FirmwareIsStoredAndActivated := by
  unfold Obligations.FirmwareIsStoredAndActivated
  intro s a slot off d x ho hf fails p b
  have hany {t u : State} (h : t = u) : adminPfAny s a t = .next u := h ▸ adminPfAny_open ho hf t
  have hpf (hr : s.power.recovery = false) {t u : State} (h : t = u) : adminPf s a t = .next u :=
    h ▸ adminPf_open ho hr hf t
  refine ⟨fun h1 h2 h3 h4 => hany (fwDownload_taken h1 h2 h3 h4), fun h => hany (fwDownload_refused h),
    fun h1 h2 hb hg hw => ⟨hany ?store, fun hp => hany ?replace, slot_storeImage s slot b⟩,
    fun h1 h2 _ hg => hany ?unsigned, fun h => hany ?unknown,
    fun hr h1 h2 hok => ⟨fun hp => hpf hr ?choose, fun hp => hpf hr ?paired, _, rfl, hpf hr ?now⟩,
    fun u hx => ?drains⟩
  case store => rw [fwStore_stored h1 h2 hb hg hw]; rfl
  case replace => rw [if_neg hp, fwStore_stored h1 h2 hb hg hw, fwTarget_named h1 h2]; rfl
  case unsigned => rw [fwStore_unsigned h1 h2 hg]
  case unknown => rw [fwStore_unknownSlot h]
  case choose => simp only [fwTarget_named h1 h2, hp, hok, if_false, Bool.not_true, Bool.false_eq_true, p]
  case paired => simp only [fwTarget_named h1 h2, hp, if_true]
  case now => simp only [fwTarget_named h1 h2, hok, Bool.not_true, Bool.false_eq_true, if_false]
  case drains =>
    intro wdt
    exact ⟨execFwDrainComplete_drained hx, fun h => execFwDrainComplete_idle hx (.inl h),
      execFwActivationTimeout_early hx,
      fun h => ⟨execFwDrainComplete_idle hx (.inr h), execFwActivationTimeout_due hx h⟩⟩

end Sys2Proof.Machine
end

section
/-!
SUPPORT. Identify and the log pages (R46, R49, R66, R387, R415, R495, R499, R500).
-/
namespace Sys2Proof.Machine

/-! ### Numbers in records -/

@[simp] theorem leBytes_length (n v : Nat) : (leBytes n v).length = n := by
  induction n generalizing v with
  | zero => rfl
  | succ n ih => simp [leBytes, ih]

/-- `n` bytes hold a number modulo 256^n. -/
theorem ofLe_leBytes (n v : Nat) : ofLe (leBytes n v) = v % 256 ^ n := by
  induction n generalizing v with
  | zero => simp [leBytes, ofLe, Nat.mod_one]
  | succ n ih => simp [leBytes, ofLe, ih, pow_succ', Nat.mod_mul]

/-- A field behind a part of a record is the rest's. -/
theorem recNat_append_right {a : List Byte} (b : List Byte) {off : Nat} (n : Nat) (h : a.length ≤ off) :
    recNat (a ++ b) off n = recNat b (off - a.length) n := by
  simp [recNat, List.drop_append, List.drop_eq_nil_of_le h]

/-- A field at the front of a record. -/
theorem recNat_leBytes_append (n v : Nat) (b : List Byte) : recNat (leBytes n v ++ b) 0 n = v % 256 ^ n := by
  simp [recNat, ofLe_leBytes]

theorem recNat_leBytes (n v : Nat) : recNat (leBytes n v) 0 n = v % 256 ^ n := by
  simpa using recNat_leBytes_append n v []

/-! ### The Freeze Records log (Table 2.9) -/

theorem freezeRecord_length (s : State) (fn sq : Nat) (z : Freeze) : (freezeRecord s fn sq z).length = 32 := by
  simp [freezeRecord]

section FreezeLog
variable {s : State} {fn sq : Nat} {q : Sq} {z : Freeze}

/-- The log of one frozen queue: its header, then its record. -/
theorem freezeLog_one (hq : (getFn s fn).sqs = [(sq, q)]) (hz : q.freeze = some z) :
    freezeLog s fn = leBytes 2 1 ++ leBytes 2 0 ++ leBytes 4 (getFn s fn).freezeGen ++ leBytes 8 0 ++
      freezeRecord s fn sq z := by
  have hl : freezesOf s fn = [(sq, z)] := by simp [freezesOf, hq, hz, insertFreeze]
  simp [freezeLog, hl]

theorem freezeLog_one_length (hq : (getFn s fn).sqs = [(sq, q)]) (hz : q.freeze = some z) :
    (freezeLog s fn).length = 48 := by
  simp [freezeLog_one hq hz, freezeRecord_length]

/-- What its header holds. -/
theorem freezeLog_one_header (hq : (getFn s fn).sqs = [(sq, q)]) (hz : q.freeze = some z) :
    recNat (freezeLog s fn) 0 2 = 1 ∧ recNat (freezeLog s fn) 4 4 = (getFn s fn).freezeGen % 2 ^ 32 := by
  rw [freezeLog_one hq hz]
  simp only [List.append_assoc]
  constructor
  · rw [recNat_leBytes_append]
    rfl
  · rw [recNat_append_right _ _ (by simp), recNat_append_right _ _ (by simp)]
    exact recNat_leBytes_append 4 _ _

/-- Its record stands behind the 16 bytes of its header. -/
theorem recNat_freezeLog_one (hq : (getFn s fn).sqs = [(sq, q)]) (hz : q.freeze = some z) (off n : Nat) :
    recNat (freezeLog s fn) (16 + off) n = recNat (freezeRecord s fn sq z) off n := by
  rw [freezeLog_one hq hz, recNat_append_right _ _ (by simp)]
  simp

end FreezeLog

/-- The fields of a record, each of them within its bytes. -/
theorem recNat_freezeRecord (s : State) (fn : Nat) {sq : Nat} {z : Freeze} (hsq : sq < 65536) (hcid : z.cid < 65536)
    (hslot : z.slot < 65536) (hst : z.status < 2 ^ 15) (hnext : z.next < 65536) (hcan : z.cancelled < 2 ^ 32)
    (hfin : z.finished < 2 ^ 32) : let r := freezeRecord s fn sq z
    recNat r 0 2 = sq ∧ recNat r 2 2 = z.cid ∧ recNat r 4 2 = z.slot ∧ recNat r 6 2 = z.status ∧
    recNat r 8 2 = z.next ∧ recNat r 12 4 = z.cancelled ∧ recNat r 16 4 = z.finished ∧
    recNat r 24 8 = readTime s fn z.time % 2 ^ 64 := by
  norm_num at hst hcan hfin
  have hst' : z.status < 65536 := by omega
  simp [freezeRecord, recNat_append_right, recNat_leBytes_append, recNat_leBytes, Nat.mod_eq_of_lt, *]

/-! ### Get Log Page -/

section Pages
variable {s : State} {a : Adm} (ho : adminOpen s a.fn = true) (hr : s.power.recovery = false)
include ho hr

/-- A page that is refused. -/
theorem getLog_refused {lid nsid lsi : Nat} {st : Status} (hp : logPage s a.fn lid nsid lsi = .error st)
    (part : Option (Nat × Nat)) : getLog s a lid nsid lsi part = .next (adminFail s a st) := by
  simp [getLog, adminAny_open ho, hr, hp]

/-- A page of bytes answers with the part asked for. -/
theorem getLog_part {lid nsid lsi off : Nat} {b : List Byte} (hp : logPage s a.fn lid nsid lsi = .ok (.bytes b))
    (hl : logRead s a.fn lid nsid = s) (hoff : off ≤ b.length) (len : Nat) :
    getLog s a lid nsid lsi (some (off, len)) = .next (adminDone s a .success 0 (.bytes ((b.drop off).take len))) := by
  simp [getLog, adminAny_open ho, hr, hp, hl, cut, Nat.not_lt.mpr hoff]

/-- An offset beyond its end is refused. -/
theorem getLog_beyond {lid nsid lsi off : Nat} {b : List Byte} (hp : logPage s a.fn lid nsid lsi = .ok (.bytes b))
    (hoff : b.length < off) (len : Nat) :
    getLog s a lid nsid lsi (some (off, len)) = .next (adminFail s a .invalidField) := by
  simp [getLog, adminAny_open ho, hr, hp, cut, hoff]

/-- A page of fields answers whole. -/
theorem getLog_whole {lid nsid lsi : Nat} {p : Payload} (hp : logPage s a.fn lid nsid lsi = .ok p) :
    getLog s a lid nsid lsi none = .next (adminDone (logRead s a.fn lid nsid) a .success 0 p) := by
  simp [getLog, adminAny_open ho, hr, hp]

end Pages

/-- A page that no list of pages holds is unknown. -/
theorem logPage_unknown {lid : Nat} (h1 : logForAll lid = false) (h2 : logForPf lid = false) (s : State)
    (fn nsid lsi : Nat) : logPage s fn lid nsid lsi = .error .invalidLogPage := by
  simp [logPage, h1, h2]

/-- A page of the physical function is unknown to a virtual one. -/
theorem logPage_virtual {fn lid : Nat} (h1 : logForAll lid = false) (hf : fn ≠ 0) (s : State) (nsid lsi : Nat) :
    logPage s fn lid nsid lsi = .error .invalidLogPage := by
  simp [logPage, h1, hf]

/-- The pages of this manual (R49). -/
theorem logPage_manual (s : State) (fn nsid lsi : Nat) :
    logPage s fn 0xC0 nsid lsi = .ok (.bytes (freezeLog s fn)) ∧
    logPage s 0 0xC1 nsid lsi = .ok (.bytes (dredgeLog s 0)) ∧
    logPage s 0 0xC2 nsid lsi = .ok (.bytes (pilotLog s 0)) ∧
    logPage s fn 0xC3 nsid lsi = .ok (.bytes (pairLog s fn)) := ⟨rfl, rfl, rfl, rfl⟩

theorem logPage_faults {fn lsi : Nat} {sel : Option Nat} (h : faultSel fn lsi = some sel) (s : State) (nsid : Nat) :
    logPage s fn 0xC4 nsid lsi = .ok (.bytes (faultLog s fn sel)) := by
  simp [logPage, logForAll, h]

theorem logPage_noFaults {fn lsi : Nat} (h : faultSel fn lsi = none) (s : State) (nsid : Nat) :
    logPage s fn 0xC4 nsid lsi = .error .invalidField := by
  simp [logPage, logForAll, h]

/-! ### Telemetry (R499) -/

section Telemetry
variable {s : State} {a : Adm} (ho : adminOpen s a.fn = true) (hr : s.power.recovery = false)
include ho hr

theorem execLogTelemetry_virtual (hf : a.fn ≠ 0) (ctrl create : Bool) (area : Nat) :
    execLogTelemetry a ctrl create area s = .next (adminFail s a .invalidLogPage) := by
  simp [execLogTelemetry, admin_open ho hr, hf]

section Areas
variable (hf : a.fn = 0) {area : Nat} (h1 : 1 ≤ area) (h3 : area ≤ 3)
include hf h1 h3

theorem execLogTelemetry_read : execLogTelemetry a false false area s =
    .next (adminDone s a .success 0 (.fields (telAreas s.service.hostTel area))) := by
  have hk : ¬ (area = 0 ∨ 3 < area) := by omega
  simp [execLogTelemetry, admin_open ho hr, hf, hk]

theorem execLogTelemetry_collected : execLogTelemetry a false true area s =
    .next (adminDone (draw { s with service := { s.service with hostTel := some (collect s) } }) a .success 0
      (.fields (telAreas (some (collect s)) area))) := by
  have hk : ¬ (area = 0 ∨ 3 < area) := by omega
  simp [execLogTelemetry, admin_open ho hr, hf, hk]

end Areas
end Telemetry

/-! ### Identify (Table 2.2) -/

theorem execIdentify_answers {s : State} {a : Adm} {cns nsid cntid : Nat} {l : List (String × Nat)}
    (ho : adminOpen s a.fn = true) (h : identify s a.fn cns nsid cntid = .ok l) :
    execIdentify a cns nsid cntid s = .next (adminDone s a .success 0 (.fields l)) := by
  simp [execIdentify, adminAny_open ho, h]

theorem execIdentify_refused {s : State} {a : Adm} {cns nsid cntid : Nat} {st : Status}
    (ho : adminOpen s a.fn = true) (h : identify s a.fn cns nsid cntid = .error st) :
    execIdentify a cns nsid cntid s = .next (adminFail s a st) := by
  simp [execIdentify, adminAny_open ho, h]

/-- The structure of a namespace that is attached. -/
theorem identify_attached {s : State} {fn nsid : Nat} (ha : attachedTo s fn nsid = true)
    (hl : (getNs s nsid).live = true) (hn : nsid ≠ 0xFFFFFFFF) (cntid : Nat) :
    identify s fn 0 nsid cntid = .ok (identNs s nsid) := by
  simp [identify, hn, hl, ha]

/-- The primary controller's capabilities are the physical function's. -/
theorem identify_primary_virtual {fn : Nat} (hf : fn ≠ 0) (s : State) (nsid cntid : Nat) :
    identify s fn 0x14 nsid cntid = .error .invalidField := by
  simp [identify, hf]

/-- Settles O24: the fields of a freeze record by their offsets, a page by what Get Log Page reads, and Identify by its
structures. -/
theorem logsAndIdentifyAnswer : Obligations.LogsAndIdentifyAnswer := by
  unfold Obligations.LogsAndIdentifyAnswer
  refine ⟨fun s fn sq q z hq hz hsq hcid hslot hst hnext hcan hfin => ?freezes,
    fun s a lid nsid lsi off len ho hr => ?pages⟩
  case freezes =>
    intro l at_
    obtain ⟨hone, hgen⟩ := freezeLog_one_header hq hz
    have hrec (off n : Nat) : at_ (16 + off) n = recNat (freezeRecord s fn sq z) off n :=
      recNat_freezeLog_one hq hz off n
    obtain ⟨r0, r2, r4, r6, r8, r12, r16, r24⟩ := recNat_freezeRecord s fn hsq hcid hslot hst hnext hcan hfin
    exact ⟨freezeLog_one_length hq hz, hone, hgen, (hrec 0 2).trans r0, (hrec 2 2).trans r2, (hrec 4 2).trans r4,
      (hrec 6 2).trans r6, (hrec 8 2).trans r8, (hrec 12 4).trans r12, (hrec 16 4).trans r16, (hrec 24 8).trans r24⟩
  case pages =>
    intro answers fails part
    obtain ⟨hfreeze, hdredge, hpilot, hpair⟩ := logPage_manual s a.fn 0xFFFFFFFF 0
    have hdl : logForAll 0xC1 = false := rfl
    have hpl : logForAll 0xC2 = false := rfl
    have hhealth : logPage s a.fn 0x02 0xFFFFFFFF 0 = .ok (.fields (healthFields s a.fn)) := rfl
    have hchanged : logPage s a.fn 0x04 nsid 0 = .ok (.fields (named "NSID" (getFn s a.fn).changedNs)) := rfl
    have hcontroller : identify s a.fn 1 nsid lsi = .ok (identController s a.fn) := rfl
    refine ⟨fun h => getLog_part ho hr hfreeze rfl h len, fun h => getLog_part ho hr hpair rfl h len,
      fun h => getLog_beyond ho hr hfreeze h len, fun hf h => getLog_part ho hr (hf ▸ hdredge) rfl h len,
      fun hf h => getLog_part ho hr (hf ▸ hpilot) rfl h len,
      fun hf => ⟨getLog_refused ho hr (logPage_virtual hdl hf s 0xFFFFFFFF 0) (some (off, len)),
        getLog_refused ho hr (logPage_virtual hpl hf s 0xFFFFFFFF 0) (some (off, len)),
        execLogTelemetry_virtual ho hr hf⟩,
      fun sel hsel h => getLog_part ho hr (logPage_faults hsel s _) rfl h len,
      fun hsel => getLog_refused ho hr (logPage_noFaults hsel s 0xFFFFFFFF) (some (off, len)),
      fun h1 h2 => getLog_refused ho hr (logPage_unknown h1 h2 s _ _ _) none,
      getLog_whole ho hr hhealth, getLog_whole ho hr hchanged,
      fun hf h1 h3 => ⟨execLogTelemetry_read ho hr hf h1 h3, execLogTelemetry_collected ho hr hf h1 h3⟩,
      execIdentify_answers ho hcontroller, fun ha hl hn => execIdentify_answers ho (identify_attached ha hl hn _),
      fun hf => execIdentify_refused ho (identify_primary_virtual hf s _ _)⟩

end Sys2Proof.Machine
end

section
/-!
SUPPORT. The carriers of dictionary accesses: the tunnel, NVMe-MI, Synmon frames and heartbeats (R78, R79, R440 to
R445).
-/
namespace Sys2Proof.Machine

/-! ### Reads over any carrier -/

section Reads
variable {s : State} {i sub room n c : Nat} {b : List Byte}

theorem readAt_ok (h : dictRead s i sub (some room) = .ok b) (r : Reply) (fill : Bool) :
    readAt s i sub room r fill = answer s r (.value b.length (if fill then padTo room b else b)) := by
  simp [readAt, h]

theorem readAt_error (h : dictRead s i sub (some room) = .error c) (r : Reply) (fill : Bool) :
    readAt s i sub room r fill = answerAbort s r c := by
  simp [readAt, h]

theorem blockReadAt_ok (h : dictBlockRead s i sub room = .ok (n, b)) (r : Reply) (fill : Bool) :
    blockReadAt s i sub room r fill = answer s r (.items n (if fill then padTo room b else b)) := by
  simp [blockReadAt, h]

theorem blockReadAt_error (h : dictBlockRead s i sub room = .error c) (r : Reply) (fill : Bool) :
    blockReadAt s i sub room r fill = answerAbort s r c := by
  simp [blockReadAt, h]

end Reads

/-- An abort over the tunnel but for a worn line is a success with the code in dword 0 (R79). -/
theorem answerAbort_tunnel {c : Nat} (h : c ≠ 6) (s : State) (a : Adm) :
    answerAbort s (.tunnel a) c = adminDone s a .success c .none := by
  simp [answerAbort, h]

/-- So it is over NVMe-MI (R440). -/
theorem answerAbort_mi {c : Nat} (h : c ≠ 6) (s : State) (port : Nat) :
    answerAbort s (.mi port) c = emit s (.mi port .success c .none) := by
  simp [answerAbort, h]

/-- A value over NVMe-MI. -/
theorem answer_mi_value (s : State) (port n : Nat) (b : List Byte) :
    answer s (.mi port) (.value n b) = emit s (.mi port .success 0 (bytesOr b)) := by
  simp only [answer, Got.miCount, Got.data, Nat.zero_mul]

/-! ### The Synmon Tunnel (R78, R79) -/

section Tunnel
variable {svc : Nat} {w0 w1 : W32}

theorem tunnel_runs (hc : tClean w0 w1 = true) (hs : tService w0 = svc) (a : Adm) (s run : State) :
    tunnel svc a w0 w1 s run = run := by
  simp [tunnel, hc, hs]

/-- Service 3 does not exist. -/
theorem tunnel_noService (hs : tService w0 = 3) (a : Adm) (s run : State) :
    tunnel svc a w0 w1 s run = adminFail s a .invalidField := by
  have hc : tClean w0 w1 = false := by simp [tClean, hs]
  simp [tunnel, hc, hs]

end Tunnel

section TunnelRows
variable {s : State} {a : Adm} (ho : adminOpen s a.fn = true) (hr : s.power.recovery = false) (hf : a.fn = 0)
  {w0 w1 : W32}
include ho hr hf

/-- What a clean command over the tunnel runs. -/
theorem adminPf_tunnel {svc : Nat} (hc : tClean w0 w1 = true) (hs : tService w0 = svc) {t run : State} (h : run = t) :
    adminPf s a (tunnel svc a w0 w1 s run) = .next t := by
  rw [adminPf_open ho hr hf, tunnel_runs hc hs, h]

theorem adminPf_noService {svc : Nat} (hs : tService w0 = 3) (run : State) :
    adminPf s a (tunnel svc a w0 w1 s run) = .next (adminFail s a .invalidField) := by
  rw [adminPf_open ho hr hf, tunnel_noService hs]

end TunnelRows

/-! ### Synmon Access over NVMe-MI (R440) -/

section MiAccess
variable {s : State} {port svc : Nat} {w0 w1 : W32} {data : List Byte} (hu : pathUp s (.mi port) = true)
  (hc : tClean w0 w1 = true) (hs : tService w0 = svc)
include hu hc hs

theorem miAccess_runs (hd : data.length = if svc = 1 then tLen w1 else 0) {t run : State} (h : run = t) :
    miAccess svc port w0 w1 data s run = .next t := by
  simp [miAccess, hu, hc, hs, hd, h]

theorem miAccess_wrongLength (hd : data.length ≠ if svc = 1 then tLen w1 else 0) (run : State) :
    miAccess svc port w0 w1 data s run = .next (emit s (.mi port .invalidParameter 0 .none)) := by
  simp [miAccess, hu, hc, hs, hd]

end MiAccess

/-! ### Synmon frames (R442 to R444) -/

/-- The state once a frame to a port has been counted. -/
def frameCounted (s : State) (port : Nat) : State := bump s (0x1110 + port) 8 1

/-- Where the answer to a frame goes. -/
def frameReply (port : Nat) (f : Frame) : Reply :=
  .frame port (fSrc f) (fService f) (fField f 4 2) (fField f 6 2) (fField f 8 1)

section Arrivals
variable {s : State} {port : Nat} {f : Frame}

theorem receiveFrame_elsewhere (h : frameHere s port f = false) : receiveFrame s port f = s := by
  simp [receiveFrame, h]

variable (h : frameHere s port f = true)
include h

theorem receiveFrame_bad (hb : frameBad f = true) :
    receiveFrame s port f = bump (frameCounted s port) (0x1110 + port) 0x0A 1 := by
  simp [receiveFrame, h, hb, frameCounted]

variable (hb : frameBad f = false)
include hb

theorem receiveFrame_request (hs : fService f ≤ 3) :
    receiveFrame s port f = requestService (frameCounted s port) port f (frameReply port f) := by
  have hne : fService f ≠ 0x12 := by omega
  simp [receiveFrame, h, hb, hs, hne, frameCounted, frameReply]

theorem receiveFrame_node (hs : fService f = 0x12) :
    receiveFrame s port f = nodeService (frameCounted s port) port f (frameReply port f) := by
  simp only [receiveFrame, h, hb, hs, frameCounted, frameReply, Bool.not_true, Bool.false_eq_true, if_false, if_true]

end Arrivals

/-- The frame is a request to this node, as its port's address and its node ID say. -/
def frameAsks (s : State) (port : Nat) (f : Frame) : Prop :=
  fDest f = macOf s port ∧ (fField f 2 1 = 0 ∨ fField f 2 1 = dget s 0x1100 1) ∧ bitOf (fField f 3 1) 0 = false

section Requests
variable {u : State} {port n c : Nat} {f : Frame} {b : List Byte} (ha : frameAsks u port f)
include ha

/-- A request to this node passes the check of its address. -/
theorem frameAsks.passes : ¬ (fDest f ≠ macOf u port ∨ (fField f 2 1 ≠ 0 ∧ fField f 2 1 ≠ dget u 0x1100 1) ∨
    bitOf (fField f 3 1) 0 = true) := by
  obtain ⟨hd, hn, hf⟩ := ha
  rw [hf]
  tauto

theorem requestService_read (r : Reply) (hs : fService f = 1) (hl : fLen f = 0)
    (hb : dictRead u (fField f 6 2) (fField f 8 1) none = .ok b) :
    requestService u port f r = answer u r (.value b.length b) := by
  simp [requestService, if_neg ha.passes, hs, hl, hb]

theorem requestService_readAborts (r : Reply) (hs : fService f = 1)
    (hc : dictRead u (fField f 6 2) (fField f 8 1) none = .error c) :
    requestService u port f r = answerAbort u r c := by
  simp [requestService, if_neg ha.passes, hs, hc]

theorem requestService_write (r : Reply) (hs : fService f = 2) :
    requestService u port f r = dictWrite u (.synmon port) (fField f 6 2) (fField f 8 1) (fData f) r := by
  simp [requestService, if_neg ha.passes, hs]

theorem requestService_blockRead (r : Reply) (hs : fService f = 3)
    (hb : dictBlockRead u (fField f 6 2) (fField f 8 1) (min (fLen f) 1488) = .ok (n, b)) :
    requestService u port f r = answer u r (.items n b) := by
  simp [requestService, if_neg ha.passes, hs, blockReadAt_ok hb]

end Requests

/-- The frame is to every node (R444). -/
def frameToAll (f : Frame) : Prop := fDest f = broadcast ∧ fField f 2 1 = 0 ∧ bitOf (fField f 3 1) 0 = false

/-- The bytes of the DIE_ID. -/
def dieBytes (s : State) : List Byte := leBytes 8 (dget s 0x1000 5)

section NodeId
variable {f : Frame} (ha : frameToAll f) (u : State) (port : Nat) (r : Reply)
include ha

theorem nodeService_query (hl : fLen f = 0) :
    nodeService u port f r = answer u r (.value 9 (leBytes 1 (dget u 0x1100 1) ++ dieBytes u)) := by
  obtain ⟨hd, hn, hf⟩ := ha
  simp [nodeService, hd, hn, hf, hl, dieBytes]

theorem nodeService_assign (hl : fLen f = 9) (hd : (fData f).drop 1 = dieBytes u) :
    nodeService u port f r = dictWrite u (.synmon port) 0x1100 1 ((fData f).take 1) r := by
  obtain ⟨hdest, hn, hf⟩ := ha
  rw [dieBytes] at hd
  simp [nodeService, hdest, hn, hf, hl, hd]

theorem nodeService_other (hl : fLen f = 9) (hd : (fData f).drop 1 ≠ dieBytes u) : nodeService u port f r = u := by
  obtain ⟨hdest, hn, hf⟩ := ha
  have hno : ¬ (fLen f = 9 ∧ (fData f).drop 1 = leBytes 8 (dget u 0x1000 5)) := fun h => hd h.2
  simp only [nodeService, if_neg hno]
  simp [hdest, hn, hf, hl]

end NodeId

/-- A frame at a port in use is received. -/
theorem frameRow_up {s : State} {port : Nat} (hu : pathUp s (.synmon port) = true) {f : Frame} {t : State}
    (h : receiveFrame s port f = t) : frameRow s port f = .next t := by
  rw [frameRow, hu, when_true, h]

/-! ### Heartbeats (R445) -/

@[simp] theorem sendFrame_out (s : State) (port : Nat) (b : List Byte) :
    (sendFrame s port b).out = .frame port b :: s.out := rfl

@[simp] theorem sendFrame_mgmt (s : State) (port : Nat) (b : List Byte) : (sendFrame s port b).mgmt = s.mgmt := rfl

/-- The count of frames sent is another entry than the ports' enables. -/
theorem portEnabled_sendFrame (s : State) (port p : Nat) (b : List Byte) :
    portEnabled (sendFrame s p b) port = portEnabled s port := by
  simp only [portEnabled, sendFrame]
  rw [dget_bump_other _ _ _ _ _ _ (dk_ne _ _ _ _ (by omega) (by omega) (.inr (by omega))),
    dget_congr s (emit s _) _ _ rfl rfl]

/-- One heartbeat leaves each port that is enabled. -/
theorem sendHeartbeats_sends (s : State) : (sendHeartbeats s).mgmt.hbLast = s.nowMs ∧
    (sendHeartbeats s).out.length = s.out.length + b2n (portEnabled s 0) + b2n (portEnabled s 1) := by
  have hsame (p : Nat) : portEnabled { s with mgmt := { s.mgmt with hbLast := s.nowMs } } p = portEnabled s p := rfl
  by_cases h0 : portEnabled s 0 = true <;> by_cases h1 : portEnabled s 1 = true <;>
    simp [sendHeartbeats, hsame, portEnabled_sendFrame, h0, h1, b2n]

theorem execHeartbeat_due {s : State} (hs : s.power.synmon = true) (hp : dget s 0x1100 2 ≠ 0)
    (hd : s.mgmt.hbLast + dget s 0x1100 2 ≤ s.nowMs) : execHeartbeat s = .next (sendHeartbeats s) := by
  have hp' : (dget s 0x1100 2 != 0) = true := bne_iff_ne.mpr hp
  simp only [execHeartbeat, hs, hp', decide_eq_true hd, Bool.and_self, when_true]

theorem execHeartbeat_early {s : State} (hd : s.nowMs < s.mgmt.hbLast + dget s 0x1100 2) :
    execHeartbeat s = .next s := by
  simp [execHeartbeat, Nat.not_le.mpr hd]

end Sys2Proof.Machine
end

section
/-!
SUPPORT. The management endpoints: NVMe-MI, MCTP control and I3C addresses (R479 to R481).
-/
namespace Sys2Proof.Machine

/-! ### What the endpoints keep -/

theorem listMod_getElem? {α : Type} (f : α → α) (l : List α) (i : Nat) : (listMod f l i)[i]? = l[i]?.map f := by
  induction l generalizing i with
  | nil => simp [listMod]
  | cons x xs ih => cases i <;> simp [listMod, ih]

/-- What is put at an index that the list has is found there. -/
theorem listMod_const_getD {α : Type} (v d : α) {l : List α} {i : Nat} (h : i < l.length) :
    ((listMod (fun _ => v) l i)[i]?).getD d = v := by
  simp [listMod_getElem?, h]

/-! ### Rows -/

section Rows
variable {s : State} {port : Nat} (hu : pathUp s (.mi port) = true)
include hu

theorem miRow_up {t u : State} (h : t = u) : miRow s port t = .next u := by
  rw [miRow, hu, when_true, h]

theorem miHarbour_down (hb : s.power.bootStep < 4) (t : State) :
    miHarbour s port t = .next (emit s (.mi port .pcieInaccessible 0 .none)) := miRow_up hu (if_pos hb)

theorem miHarbour_up (hb : 4 ≤ s.power.bootStep) {t u : State} (h : t = u) : miHarbour s port t = .next u :=
  miRow_up hu ((if_neg (Nat.not_lt.mpr hb)).trans h)

end Rows

/-! ### Health (R480) -/

theorem healthCopy_clearHealth (s : State) (port bits : Nat) :
    healthCopy (clearHealth s port bits) = healthCopy s := rfl

theorem bitOf_allOnes {n i : Nat} (h : i < n) : bitOf (2 ^ n - 1) i = true := by
  have hbit := Nat.testBit_two_pow_sub_one n i
  rw [Nat.testBit_eq_decide_div_mod_eq] at hbit
  simpa [bitOf, h] using hbit

/-- What a port has seen once it cleared every change. -/
theorem seen_clearHealth {s : State} (h : (healthCopy s).length ≤ 6) (port : Nat) :
    tabGet [] (clearHealth s port (2 ^ 6 - 1)).mgmt.seen port = (healthCopy s).map Prod.snd := by
  simp only [clearHealth, tabGet_set_same]
  refine List.ext_getElem (by simp) fun i hi _ => ?_
  have hlt : i < (healthCopy s).length := by simpa using hi
  have hbit : bitOf (2 ^ 6 - 1) i = true := bitOf_allOnes (by omega)
  rw [List.getElem_map, List.getElem_range, if_pos hbit]
  simp [hlt]

/-- Then no value has changed. -/
theorem healthChanges_cleared {s : State} (h : (healthCopy s).length ≤ 6) (port : Nat) :
    healthChanges (clearHealth s port (2 ^ 6 - 1)) port = 0 := by
  simp only [healthChanges, seen_clearHealth h, healthCopy_clearHealth, if_true]
  simp

/-- A poll that clears answers first. -/
theorem healthPoll_clears {s : State} {port : Nat} (hu : pathUp s (.mi port) = true) :
    completes (.miSubsystemHealthPoll port true) s fun t =>
      ((healthCopy s).length ≤ 6 → healthChanges t port = 0) ∧
      t.out = .mi port .success 0 (.fields (healthCopy s ++ [("changes", healthChanges s port)])) :: s.out := by
  refine ⟨_, miRow_up hu rfl, fun h => ?_, rfl⟩
  exact healthChanges_cleared (s := emit s _) h port

section Controller
variable {s : State} {port fn : Nat} (hu : pathUp s (.mi port) = true) (hb : 4 ≤ s.power.bootStep)
include hu hb

theorem controllerHealthPoll_present (hp : (getFn s fn).present = true) :
    execMiControllerHealthPoll port fn s = .next (emit s (.mi port .success 0 (.fields ([("CNTLID", fn),
      ("ready", b2n (getFn s fn).rdy), ("fatal", b2n s.power.cfs), ("shutdown", (getFn s fn).shst)] ++
        healthNow s)))) :=
  miHarbour_up hu hb (by simp only [hp, Bool.not_true, Bool.false_eq_true, if_false]; rfl)

theorem controllerHealthPoll_absent (hp : (getFn s fn).present = false) :
    execMiControllerHealthPoll port fn s = .next (emit s (.mi port .invalidParameter 0 .none)) :=
  miHarbour_up hu hb (by simp only [hp, Bool.not_false, if_true]; rfl)

/-- An admin command for a controller that is there. -/
theorem adminCommand_present (hp : (getFn s fn).present = true) {c : MiAdmin} {t : State}
    (h : miAdmin s port fn c = t) :
    execMiAdminCommand port fn c s = .next t :=
  miHarbour_up hu hb (by simp only [hp, Bool.not_true, Bool.false_eq_true, if_false, h])

end Controller

/-! ### NVMe Admin Command (R480) -/

section AdminCommand
variable {s : State} {port fn : Nat} {c : MiAdmin}

theorem miAdmin_identify (hc : c.opcode = 0x06) {l : List (String × Nat)}
    (h : identify s fn (bitsOf c.dw10.toNat 0 7) c.nsid (bitsOf c.dw10.toNat 16 31) = .ok l) :
    miAdmin s port fn c = emit s (.miAdmin port .success false 0 (.fields l)) := by
  simp [miAdmin, hc, h, Except.map]

theorem miAdmin_identify_refused (hc : c.opcode = 0x06) {st : Status}
    (h : identify s fn (bitsOf c.dw10.toNat 0 7) c.nsid (bitsOf c.dw10.toNat 16 31) = .error st) :
    miAdmin s port fn c = emit s (.miAdmin port st (dnrOf st) 0 .none) := by
  simp [miAdmin, hc, h, Except.map]

theorem miAdmin_getFeatures (hc : c.opcode = 0x0A) {v : Nat} {p : Payload}
    (h : featureValue s fn (bitsOf c.dw10.toNat 0 7) c.nsid c.dw11 = .ok (v, p)) :
    miAdmin s port fn c = emit s (.miAdmin port .success false v p) := by
  simp [miAdmin, hc, h]

theorem miAdmin_unknown (hc : c.opcode ∉ [0x02, 0x06, 0x0A]) :
    miAdmin s port fn c = emit s (.mi port .invalidOpcode 0 .none) := by
  simp only [List.mem_cons, List.not_mem_nil, or_false, not_or] at hc
  obtain ⟨h2, h6, h10⟩ := hc
  simp [miAdmin, miSay]

end AdminCommand

/-! ### Data structures, configuration and vital product data -/

section Endpoint
variable {s : State} {port x : Nat} (hu : pathUp s (.mi port) = true)
include hu

/-- The structure of an MI port. -/
theorem readDataStructure_port (hx : x < 4) (y : Nat) : execMiReadDataStructure port 1 x y s =
    .next (emit s (.mi port .success 0 (.fields [("type", 1), ("max payload", 512)]))) :=
  miRow_up hu (if_pos hx)

theorem readDataStructure_noPort (hx : 6 ≤ x) (y : Nat) : execMiReadDataStructure port 1 x y s =
    .next (emit s (.mi port .invalidParameter 0 .none)) :=
  miRow_up hu ((if_neg (by omega)).trans (if_neg (by omega)))

theorem configurationGet_mtu (hm : (s.mgmt.mctpMtu[port]?).getD 64 = x) : execMiConfigurationGet port 3 s =
    .next (emit s (.mi port .success 0 (.fields [("MCTP unit", x)]))) :=
  miRow_up hu ((if_neg (by decide)).trans ((if_pos rfl).trans (by rw [hm]; rfl)))

/-- A transmission unit that is set is read back. -/
theorem configurationSet_mtu (h64 : 64 ≤ x) (h256 : x ≤ 256) (hp : port < s.mgmt.mctpMtu.length) :
    completes (.miConfigurationSet port 3 x) s fun t =>
      exec (.miConfigurationGet port 3) t = .next (emit t (.mi port .success 0 (.fields [("MCTP unit", x)]))) := by
  have hkept : ((listMod (fun _ => x) s.mgmt.mctpMtu port)[port]?).getD 64 = x := listMod_const_getD x 64 hp
  exact ⟨_, miRow_up hu ((if_neg (by decide)).trans (if_pos ⟨rfl, h64, h256⟩)),
    configurationGet_mtu (by exact hu) hkept⟩

theorem configurationSet_mtu_refused (hx : x < 64 ∨ 256 < x) :
    execMiConfigurationSet port 3 x s = .next (emit s (.mi port .invalidParameter 0 .none)) :=
  miRow_up hu ((if_neg (by decide)).trans (if_neg (by omega)))

theorem vpdRead_inside {off len : Nat} (h : off + len ≤ (vpd s).length) : execMiVpdRead port off len s =
    .next (emit s (.mi port .success 0 (.bytes (((vpd s).drop off).take len)))) :=
  miRow_up hu (if_neg (Nat.not_lt.mpr h))

theorem vpdRead_beyond {off len : Nat} (h : (vpd s).length < off + len) : execMiVpdRead port off len s =
    .next (emit s (.mi port .invalidParameter 0 .none)) :=
  miRow_up hu (if_pos h)

/-! ### MCTP control (R481) -/

theorem getEndpointId_answers : execMctpGetEndpointId port s =
    .next (emit s (.mctp port [0, BitVec.ofNat 8 (eidOf s port), 0, 0])) := miRow_up hu rfl

/-- An endpoint ID that is set is read back. -/
theorem setEndpointId_kept (h8 : 8 ≤ x) (h254 : x ≤ 254) (hp : port < s.mgmt.mctpEid.length) :
    completes (.mctpSetEndpointId port x) s fun t =>
      exec (.mctpGetEndpointId port) t = .next (emit t (.mctp port [0, BitVec.ofNat 8 x, 0, 0])) := by
  have hkept : ((listMod (fun _ => x) s.mgmt.mctpEid port)[port]?).getD 0 = x := listMod_const_getD x 0 hp
  refine ⟨_, miRow_up hu (if_neg (by omega)), (getEndpointId_answers (by exact hu)).trans ?_⟩
  simp only [eidOf, emit_mgmt, hkept]

theorem setEndpointId_refused (hx : x < 8 ∨ 254 < x) :
    execMctpSetEndpointId port x s = .next (emit s (.mctp port [2])) := miRow_up hu (if_pos hx)

/-! ### I3C addresses (R479) -/

theorem entdaa_takes (h8 : 8 ≤ x) (hx : x ≤ 0x7D) (hn : noAddress s port = true) :
    execI3cEntdaa port x s = .next (takeAddress s port x) := by
  refine miRow_up hu ?_
  rw [hn, decide_eq_true h8, decide_eq_true hx]
  rfl

theorem entdaa_addressed (hn : noAddress s port = false) : execI3cEntdaa port x s = .next s := by
  refine miRow_up hu ?_
  rw [hn]
  rfl

theorem setdasa_takes (h8 : 8 ≤ x) (hx : x ≤ 0x7D) (hn : noAddress s port = true) {y : Nat}
    (hy : dget s 0x1300 (1 + port) = y) : execI3cSetdasa port y x s = .next (takeAddress s port x) := by
  refine miRow_up hu ?_
  rw [hn, decide_eq_true h8, decide_eq_true hx, beq_iff_eq.mpr hy]
  rfl

end Endpoint

/-- Settles O51: over each carrier what its row runs, and of the management endpoints the answer of each row. -/
theorem carriersAndEndpointsAnswer : Obligations.CarriersAndEndpointsAnswer := by
  unfold Obligations.CarriersAndEndpointsAnswer
  refine ⟨fun s a w0 w1 port f data b n c => ?carriers, fun s port x y off len c hu => ?endpoints⟩
  case carriers =>
    intro i sub room
    refine ⟨fun ho hr hf => ?tunnel, fun hu => ?mi, fun hu => ?frames, ?heartbeat⟩
    case tunnel =>
      intro done
      refine ⟨fun hc hs => ⟨fun h => ?_, fun h h6 => ?_⟩, fun hc hs => adminPf_tunnel ho hr hf hc hs rfl,
        fun hc hs => ⟨fun h => ?_, fun h h6 => ?_⟩, fun hs => ⟨adminPf_noService ho hr hf hs _,
          adminPf_noService ho hr hf hs _, adminPf_noService ho hr hf hs _⟩⟩
      · exact adminPf_tunnel ho hr hf hc hs (readAt_ok h _ true)
      · exact adminPf_tunnel ho hr hf hc hs ((readAt_error h _ true).trans (answerAbort_tunnel h6 s a))
      · exact adminPf_tunnel ho hr hf hc hs (blockReadAt_ok h _ true)
      · exact adminPf_tunnel ho hr hf hc hs ((blockReadAt_error h _ true).trans (answerAbort_tunnel h6 s a))
    case mi =>
      intro tells
      refine ⟨fun hc hs => ⟨fun h => ?_, fun h h6 => ?_⟩, fun hc hs hd => miAccess_runs hu hc hs hd rfl,
        fun hc hs hd => miAccess_wrongLength hu hc hs hd _, fun hc hs h => ?_⟩
      · exact miAccess_runs hu hc hs rfl ((readAt_ok h _ false).trans (answer_mi_value s port b.length b))
      · exact miAccess_runs hu hc hs rfl ((readAt_error h _ false).trans (answerAbort_mi h6 s port))
      · exact miAccess_runs hu hc hs rfl (blockReadAt_ok h _ false)
    case frames =>
      intro u svc index esub r die asked toAll
      refine ⟨fun h => ?_, fun h hb => ?_, fun h hb => ?served⟩
      · exact ⟨frameRow_up hu (receiveFrame_elsewhere h), frameRow_up hu (receiveFrame_elsewhere h)⟩
      · exact ⟨frameRow_up hu (receiveFrame_bad h hb), frameRow_up hu (receiveFrame_bad h hb)⟩
      case served =>
        have hreq (hs : svc ≤ 3) {t : State} (ht : requestService u port f r = t) : frameRow s port f = .next t :=
          frameRow_up hu ((receiveFrame_request h hb hs).trans ht)
        have hnode (hs : svc = 0x12) {t : State} (ht : nodeService u port f r = t) : frameRow s port f = .next t :=
          frameRow_up hu ((receiveFrame_node h hb hs).trans ht)
        exact ⟨fun hs ha hd hl => hreq (by omega) (requestService_read ha r hs hl hd),
          fun hs ha hd => hreq (by omega) (requestService_readAborts ha r hs hd),
          fun hs ha => hreq (by omega) (requestService_write ha r hs),
          fun hs ha hd => hreq (by omega) (requestService_blockRead ha r hs hd),
          fun hs ha hl => hnode hs (nodeService_query ha u port r hl),
          fun hs ha hl hd => hnode hs (nodeService_assign ha u port r hl hd),
          fun hs ha hl hd => hnode hs (nodeService_other ha u port r hl hd)⟩
    case heartbeat =>
      exact ⟨fun hs hp hd => ⟨_, execHeartbeat_due hs hp hd, sendHeartbeats_sends s⟩,
        fun hd => execHeartbeat_early hd⟩
  case endpoints =>
    intro ok bad mctp addressed
    refine ⟨miRow_up hu rfl, healthPoll_clears hu, controllerHealthPoll_present hu, controllerHealthPoll_absent hu,
      fun hb => miHarbour_down hu hb _, miRow_up hu rfl, fun hx => readDataStructure_port hu hx y,
      fun hx => readDataStructure_noPort hu hx y, configurationSet_mtu hu, configurationSet_mtu_refused hu,
      vpdRead_inside hu, vpdRead_beyond hu, fun hb hp => ?admin, setEndpointId_kept hu, setEndpointId_refused hu,
      getEndpointId_answers hu, miRow_up hu rfl, miRow_up hu rfl, miRow_up hu rfl,
      fun h8 hx hn => ⟨entdaa_takes hu h8 hx hn, setdasa_takes hu h8 hx hn⟩, entdaa_addressed hu⟩
    case admin =>
      exact ⟨fun hc l h => adminCommand_present hu hb hp (miAdmin_identify hc h),
        fun hc st h => adminCommand_present hu hb hp (miAdmin_identify_refused hc h),
        fun hc v p h => adminCommand_present hu hb hp (miAdmin_getFeatures hc h),
        fun hc => adminCommand_present hu hb hp (miAdmin_unknown hc)⟩

end Sys2Proof.Machine
end

section
/-!
SUPPORT. What the journal and all that hangs on it leave alone: the clocks, the programs, power, the management
endpoints, the books of tests and of Sanitize, and the state of the pair. One rule for each function, in the order of
the model's files.
-/
namespace Sys2Proof.Machine

/-- What stands still while records are appended and what waited for them goes on. -/
structure Still where
  nowMs     : Nat
  uptime    : Nat
  prog      : Programs
  power     : Power
  mgmt      : Mgmt
  service   : Service
  pairState : Nat

def still (s : State) : Still := ⟨s.nowMs, s.uptime, s.prog, s.power, s.mgmt, s.service, s.pair.state⟩

@[simp] theorem still_mk (pending : List Instr) (out : List Out) (nowMs uptime freeCount : Nat) (dict : Tab Nat)
    (faults : List FaultRec) (faultSeq : Nat) (pel : List PelEnt) (host : HostIf) (prog : Programs) (media : Media)
    (pool : Pool) (dram : Tab Byte) (hm : Harbour) (ik : Ikixa) (customs : Customs) (eng : Engines) (tally : Tally)
    (power : Power) (pair : Pair) (logbook : Logbook) (mgmt : Mgmt) (service : Service) :
    still ⟨pending, out, nowMs, uptime, freeCount, dict, faults, faultSeq, pel, host, prog, media, pool, dram, hm,
      ik, customs, eng, tally, power, pair, logbook, mgmt, service⟩ =
    ⟨nowMs, uptime, prog, power, mgmt, service, pair.state⟩ := rfl

/-- The fields of one state are what stands still of it. -/
@[simp] theorem still_eta (s : State) :
    (⟨s.nowMs, s.uptime, s.prog, s.power, s.mgmt, s.service, s.pair.state⟩ : Still) = still s := rfl

@[simp] theorem still_ite (c : Prop) [Decidable c] (a b : State) :
    still (if c then a else b) = if c then still a else still b := apply_ite still c a b

@[simp] theorem still_foldl {α : Type} {f : State → α → State} (h : ∀ s x, still (f s x) = still s) (l : List α)
    (s : State) : still (l.foldl f s) = still s := by
  induction l generalizing s with
  | nil => rfl
  | cons x l ih => rw [List.foldl_cons, ih, h]

section Still
variable (s : State)

/-! ### Machine/Ops and Machine/Haw -/

@[simp] theorem still_dset (i sub v : Nat) : still (dset s i sub v) = still s := by simp [dset]
@[simp] theorem still_bump (i sub n : Nat) : still (bump s i sub n) = still s := by simp [bump]
@[simp] theorem still_draw : still (draw s) = still s := by simp [draw]
@[simp] theorem still_emit (o : Out) : still (emit s o) = still s := by simp [emit]
@[simp] theorem still_logFault (space kind code : Nat) (t : Option Nat) (a : W64) (ch port : Nat) :
    still (logFault s space kind code t a ch port) = still s := by
  unfold logFault
  split <;> rfl
@[simp] theorem still_setFn (fn : Nat) (f : Fn) : still (setFn s fn f) = still s := by simp [setFn]
@[simp] theorem still_modFn (fn : Nat) (g : Fn → Fn) : still (modFn s fn g) = still s := by simp [modFn]
@[simp] theorem still_modSq (fn q : Nat) (g : Sq → Sq) : still (modSq s fn q g) = still s := by simp [modSq]
@[simp] theorem still_modCq (fn q : Nat) (g : Cq → Cq) : still (modCq s fn q g) = still s := by simp [modCq]
@[simp] theorem still_raiseVector (fn v : Nat) : still (raiseVector s fn v) = still s := by simp [raiseVector]
@[simp] theorem still_postCpl (q : Nat) (c : Cpl) : still (postCpl s q c) = still s := by simp [postCpl]
@[simp] theorem still_adminDone (a : Adm) (st : Status) (n : Nat) (p : Payload) :
    still (adminDone s a st n p) = still s := by simp [adminDone]
@[simp] theorem still_postEvent (fn : Nat) (e : Event) : still (postEvent s fn e) = still s := by
  unfold postEvent
  dsimp only
  split
  · split <;> simp
  · rfl
@[simp] theorem still_postEvents (l : List Nat) (e : Event) : still (postEvents s l e) = still s := by
  simp [postEvents]
@[simp] theorem still_setWarn (bit : Nat) (on : Bool) : still (setWarn s bit on) = still s := by simp [setWarn]
@[simp] theorem still_setSub (k : Nat) (l : SubLink) : still (setSub s k l) = still s := by
  unfold setSub
  split <;> rfl
@[simp] theorem still_pushFlit (k : Nat) (f : HFlit) : still (pushFlit s k f) = still s := by simp [pushFlit]
@[simp] theorem still_sendOn (k : Nat) (m : HawMsg) : still (sendOn s k m) = still s := by simp [sendOn]
@[simp] theorem still_hawSend (typ nsid a b : Nat) (body : List Byte) : still (hawSend s typ nsid a b body) = still s := by
  unfold hawSend
  split
  · rfl
  · split <;> simp

/-! ### Machine/LogOps and Machine/HostOps -/

@[simp] theorem still_wearLine (line : Nat) : still (wearLine s line) = still s := by simp [wearLine]
@[simp] theorem still_rewriteSection (sec : Nat) : still (rewriteSection s sec) = still s := by simp [rewriteSection]
@[simp] theorem still_commitAt (sec line : Nat) : still (commitAt s sec line) = still s := by simp [commitAt]
@[simp] theorem still_setDk (d : Nat) (e : Docket) : still (setDk s d e) = still s := by simp [setDk]
@[simp] theorem still_modDk (d : Nat) (g : Docket → Docket) : still (modDk s d g) = still s := by simp [modDk]

/-! ### Machine/Pool and Machine/Harbour -/

@[simp] theorem still_setBerth (a : Nat) (b : Berth) : still (setBerth s a b) = still s := by simp [setBerth]
@[simp] theorem still_setStack (far : Bool) (l : List Nat) : still (setStack s far l) = still s := by cases far <;> rfl
@[simp] theorem still_setWaitQ (far : Bool) (l : List Waiter) : still (setWaitQ s far l) = still s := by cases far <;> rfl
@[simp] theorem still_noteLow (far : Bool) : still (noteLow s far) = still s := by simp [noteLow]
@[simp] theorem still_poolStore (far : Bool) (a : Nat) : still (poolStore s far a) = still s := by simp [poolStore]

/-- Taking a berth changes the pool alone. -/
theorem still_poolTake {s u : State} {far : Bool} {tag a : Nat} (h : poolTake s far tag = some (a, u)) :
    still u = still s := by
  unfold poolTake at h
  dsimp only at h
  repeat' split at h
  all_goals cases h
  all_goals simp

@[simp] theorem still_setThr (t : Nat) (x : Thread) : still (setThr s t x) = still s := by simp [setThr]
@[simp] theorem still_modThr (t : Nat) (g : Thread → Thread) : still (modThr s t g) = still s := by simp [modThr]
@[simp] theorem still_setCore (c : Nat) (x : Core) : still (setCore s c x) = still s := by simp [setCore]
@[simp] theorem still_modCore (c : Nat) (g : Core → Core) : still (modCore s c g) = still s := by simp [modCore]
@[simp] theorem still_setLease (c : Nat) (l : CoreLease) : still (setLease s c l) = still s := by simp [setLease]
@[simp] theorem still_setChan (k : Nat) (c : Chan) : still (setChan s k c) = still s := by simp [setChan]
@[simp] theorem still_pushHeld (w : Waiter) : still (pushHeld s w) = still s := by simp [pushHeld]
@[simp] theorem still_dropHeld (w : Waiter) : still (dropHeld s w) = still s := by simp [dropHeld]
@[simp] theorem still_pushWait (far : Bool) (w : Waiter) : still (pushWait s far w) = still s := by simp [pushWait]
@[simp] theorem still_winWrite (t off : Nat) (b : List Byte) : still (winWrite s t off b) = still s := by simp [winWrite]
@[simp] theorem still_deliver (t r : Nat) (w : W64) : still (deliver s t r w) = still s := by simp [deliver]
@[simp] theorem still_saveGot (t a : Nat) : still (saveGot s t a) = still s := by simp [saveGot]
@[simp] theorem still_saveAsk (t : Nat) : still (saveAsk s t) = still s := by
  unfold saveAsk
  dsimp only
  split
  · simp
  · split
    next h => simp [still_poolTake h]
    next => simp
@[simp] theorem still_saveAsks (t : Nat) : still (saveAsks s t) = still s := by simp [saveAsks]
@[simp] theorem still_finishChange (c : Nat) (sp : Option Nat) : still (finishChange s c sp) = still s := by
  simp [finishChange, zeroCore]
@[simp] theorem still_settleChange (c : Nat) : still (settleChange s c) = still s := by
  unfold settleChange
  dsimp only
  split <;> simp
@[simp] theorem still_startChange (c : Nat) (sp : Option Nat) : still (startChange s c sp) = still s := by
  simp [startChange]
@[simp] theorem still_dispatch (c t : Nat) : still (dispatch s c t) = still s := by
  unfold dispatch
  dsimp only
  split <;> simp
@[simp] theorem still_pushReady (t : Nat) (p : Place) : still (pushReady s t p) = still s := by simp [pushReady]
@[simp] theorem still_pushRing (e : RingEnt) : still (pushRing s e) = still s := by simp [pushRing]
@[simp] theorem still_unready (t : Nat) : still (unready s t) = still s := by simp [unready]
@[simp] theorem still_enterList (d t : Nat) (r : Bool) : still (enterList s d t r) = still s := by
  unfold enterList
  dsimp only
  split <;> simp
@[simp] theorem still_place (t : Nat) : still (place s t) = still s := by simp [place, enterCluster]
@[simp] theorem still_stampReady (t : Nat) : still (stampReady s t) = still s := by simp [stampReady]
@[simp] theorem still_makeReady (t : Nat) : still (makeReady s t) = still s := by simp [makeReady]
@[simp] theorem still_trimIdle (k port : Nat) : still (trimIdle s k port) = still s := by simp [trimIdle]
@[simp] theorem still_noteConsumers (l : List Nat) (t : Nat) : still (noteConsumers s l t) = still s := by simp [noteConsumers]
@[simp] theorem still_consume (t port : Nat) : still (consume s t port) = still s := by simp [consume]
@[simp] theorem still_matchChan (k port : Nat) : still (matchChan s k port) = still s := by simp [matchChan]
@[simp] theorem still_postApply (port sp ch q : Nat) (m : Bool) : still (postApply s port sp ch q m) = still s := by
  simp [postApply, applyPost]
@[simp] theorem still_postToken (port sp ch q : Nat) (m : Bool) : still (postToken s port sp ch q m) = still s := by
  unfold postToken
  split <;> simp
@[simp] theorem still_berthReply (who : Requester) (tag : Nat) (r : BerthReq) (w : W64) :
    still (berthReply s who tag r w) = still s := by simp [berthReply]
@[simp] theorem still_allocGot (far : Bool) (a : Nat) (w : Waiter) : still (allocGot s far a w) = still s := by
  simp [allocGot]
@[simp] theorem still_admitHeld (far : Bool) : still (admitHeld s far) = still s := by
  unfold admitHeld
  split <;> simp
@[simp] theorem still_berthFreed (a : Nat) : still (berthFreed s a) = still s := by
  unfold berthFreed
  dsimp only
  split
  · rfl
  · split <;> simp [grantBerth]
@[simp] theorem still_dropClaim (a tag : Nat) : still (dropClaim s a tag) = still s := by
  unfold dropClaim
  dsimp only
  split <;> simp
@[simp] theorem still_reclaimBerth (a : Nat) : still (reclaimBerth s a) = still s := by simp [reclaimBerth]
@[simp] theorem still_releaseOwner (tag : Nat) : still (releaseOwner s tag) = still s := by simp [releaseOwner]
@[simp] theorem still_freeBerths (l : List Nat) : still (freeBerths s l) = still s := by simp [freeBerths]

/-! ### Machine/MediaOps and Machine/Journal -/

@[simp] theorem still_setNs (n : Nat) (v : Ns) : still (setNs s n v) = still s := by simp [setNs]
@[simp] theorem still_modNs (n : Nat) (g : Ns → Ns) : still (modNs s n g) = still s := by simp [modNs]
@[simp] theorem still_setBlk (b : Nat) (v : Block) : still (setBlk s b v) = still s := by simp [setBlk]
@[simp] theorem still_modBlk (b : Nat) (g : Block → Block) : still (modBlk s b g) = still s := by simp [modBlk]
@[simp] theorem still_loadKey (n : Nat) (k : List Byte) : still (loadKey s n k) = still s := by simp [loadKey]
@[simp] theorem still_keyNs (n : Nat) : still (keyNs s n) = still s := by simp [keyNs]
@[simp] theorem still_landSpot (pool n : Nat) : still (landSpot s pool n).2 = still s := by
  unfold landSpot
  split <;> rfl
@[simp] theorem still_putRaw (a : Nat) (b : List Byte) : still (putRaw s a b) = still s := by simp [putRaw]
@[simp] theorem still_writeImage (m : MapSt) (jsn : Nat) (o : CkObj) : still (writeImage m jsn s o) = still s :=
  still_landSpot s 5 _
@[simp] theorem still_applyReady : still (applyReady s) = still s := by simp [applyReady]
@[simp] theorem still_appendOwn (r : JRec) : still (appendOwn s r) = still s := by simp [appendOwn]
@[simp] theorem still_appendRec (r : JRec) : still (appendRec s r) = still s := by simp [appendRec]
@[simp] theorem still_append (rs : List JRec) : still (append s rs) = still s := by simp [append]
@[simp] theorem still_formLots : still (formLots s) = still s := by simp [formLots]
@[simp] theorem still_settleWindow : still (settleWindow s) = still s := by simp [settleWindow]
@[simp] theorem still_programPage (pool lim : Nat) : still (programPage s pool lim) = still s := by
  have hmedia (u : State) (m : Media) : still { u with media := m } = still u := rfl
  unfold programPage
  dsimp only
  rw [hmedia, still_putRaw, still_landSpot]
@[simp] theorem still_programTail (pool lim n : Nat) : still (programTail pool lim n s) = still s := by
  induction n generalizing s with
  | zero => rfl
  | succ n ih => simp [programTail, ih]
@[simp] theorem still_programAll : still (programAll s) = still s := by simp [programAll]
@[simp] theorem still_checkpoint (clean : Bool) : still (checkpoint s clean) = still s := by simp [checkpoint]

/-! ### Machine/DocketOps -/

@[simp] theorem still_dkPost (d : Nat) (st : Status) (a b : Nat) (p : Payload) : still (dkPost s d st a b p) = still s := by
  unfold dkPost
  dsimp only
  split <;> simp
@[simp] theorem still_dkBerths (d : Nat) (e : Docket) : still (dkBerths s d e) = still s := by simp [dkBerths]
@[simp] theorem still_dkFree (d : Nat) : still (dkFree s d) = still s := (still_dkBerths _ d _).trans rfl
@[simp] theorem still_countFinished (e : Docket) : still (countFinished s e) = still s := by
  unfold countFinished
  dsimp only
  split <;> simp
@[simp] theorem still_dropWork (d : Nat) : still (dropWork s d) = still s := by simp [dropWork]
@[simp] theorem still_cancelForward (d tag : Nat) (st : Option Status) : still (cancelForward s d tag st) = still s := by
  simp [cancelForward]
@[simp] theorem still_dkCancel (d : Nat) (st : Option Status) : still (dkCancel s d st) = still s := by
  unfold dkCancel
  dsimp only
  repeat' split
  all_goals simp
@[simp] theorem still_freezeQueue (e : Docket) (st : Status) : still (freezeQueue s e st) = still s := by
  simp [freezeQueue]
@[simp] theorem still_ioOk (d : Nat) : still (ioOk s d) = still s := by simp [ioOk, ioDone]
@[simp] theorem still_settleShutdown : still (settleShutdown s) = still s := by simp [settleShutdown]
@[simp] theorem still_flushCheck : still (flushCheck s) = still s := by simp [flushCheck]
@[simp] theorem still_dkClose (d : Nat) : still (dkClose s d) = still s := by
  unfold dkClose
  dsimp only
  repeat' split
  all_goals simp
@[simp] theorem still_settleAdm : still (settleAdm s) = still s := by simp [settleAdm]
@[simp] theorem still_closeFull : still (closeFull s) = still s := by simp [closeFull]
@[simp] theorem still_closeDue : still (closeDue s) = still s := by simp [closeDue]
@[simp] theorem still_journalOp (rs : List JRec) : still (journalOp s rs) = still s := by simp [journalOp]

/-! ### Machine/MediaCmds and Machine/Namespaces -/

@[simp] theorem still_eraseBlock (b : Nat) : still (eraseBlock s b) = still s := by simp [eraseBlock]
@[simp] theorem still_eraseOne (b : Nat) : still (eraseOne s b) = still s := by simp [eraseOne]
@[simp] theorem still_eraseAll : still (eraseAll s) = still s := by simp [eraseAll]

end Still

/-- The state of the pair, through what leaves it alone. -/
theorem pairState_of_still {s t : State} (h : still t = still s) : t.pair.state = s.pair.state :=
  congrArg Still.pairState h

/-- The books of tests and of Sanitize, through what leaves them alone. -/
theorem service_of_still {s t : State} (h : still t = still s) : t.service = s.service := congrArg Still.service h

end Sys2Proof.Machine
end

section
/-!
SUPPORT. Namespaces: creation in the order of Table 3.3, attachment, deletion, Format NVM and Sanitize (R81 to R89,
R115, R117, R120, R338, R362, R363).
-/
namespace Sys2Proof.Machine

/-! ### Creation -/

section Creation
variable {s : State} {q : NsCreate}

/-- The reserved bytes of the request are 0, and MIRROR and HOME hold values that are not reserved (Table 3.2). -/
def createClean (q : NsCreate) : Prop := (∀ b ∈ q.rsv, b = 0) ∧ q.mirror.toNat ≤ 1 ∧ q.home.toNat ≤ 1

/-- The LBA format exists, and suits the namespace's kind (Table 3.1). -/
def createFormat (q : NsCreate) : Prop := q.flbas ≤ 2 ∧ ¬ (q.flbas = 1 ∧ q.zoned = true)

theorem reserved_iff (q : NsCreate) :
    ((q.rsv.any (· != 0)) = true ∨ 1 < q.mirror.toNat ∨ 1 < q.home.toNat) ↔ ¬ createClean q := by
  simp only [createClean, List.any_eq_true, bne_iff_ne, not_and_or, not_forall, Nat.not_le, exists_prop]

theorem badFormat_iff (q : NsCreate) : (3 ≤ q.flbas ∨ (q.flbas = 1 ∧ q.zoned = true)) ↔ ¬ createFormat q := by
  rw [createFormat, not_and_or, not_not, Nat.not_le]
  exact Iff.rfl

theorem createRefusal_reserved (h : ¬ createClean q) : createRefusal s q = some .invalidField :=
  if_pos ((reserved_iff q).mpr h)

theorem createRefusal_badFormat (hc : createClean q) (hf : ¬ createFormat q) :
    createRefusal s q = some .invalidFormat :=
  (if_neg (mt (reserved_iff q).mp (not_not_intro hc))).trans (if_pos ((badFormat_iff q).mpr hf))

section Formed
variable (hc : createClean q) (hf : createFormat q)
include hc hf

/-- A well-formed request comes to the checks that need the module's state. -/
theorem createRefusal_formed : createRefusal s q =
    (let n := wanted q
     let st := s.pair.state
     if (n.mirror ∨ n.home = 1) ∧ st = 0 then some .invalidField
     else if (n.mirror ∧ 2 ≤ st) ∨ (n.home = 1 ∧ (st = 2 ∨ st = 3)) then some .commandSequenceError
     else if n.nsze < n.ncap ∨ n.ncap = 0 ∨ (n.zoned ∧ (n.ncap ≠ n.nsze ∨ n.nsze * lbaSlots n.lbaf % zoneSize ≠ 0)) then
       some .invalidField
     else if ((n.mirror ∨ n.home = 0) ∧ poolsShort s n) ∨ partnerShort s n then some .nsInsufficientCapacity
     else if (freeNsid s).isNone then some .nsIdUnavailable
     else none) :=
  (if_neg (mt (reserved_iff q).mp (not_not_intro hc))).trans (if_neg (mt (badFormat_iff q).mp (not_not_intro hf)))

theorem createRefusal_noPartner (hp : s.pair.state = 0) (h : q.mirror = 1 ∨ q.home = 1) :
    createRefusal s q = some .invalidField := by
  have hholds : (wanted q).mirror = true ∨ (wanted q).home = 1 :=
    h.imp (fun hm => by simp [wanted, hm]) (fun hh => by simp [wanted, hh])
  rw [createRefusal_formed hc hf]
  exact if_pos ⟨hholds, hp⟩

theorem createRefusal_partnerAway (hp : 2 ≤ s.pair.state) (hm : q.mirror = 1) :
    createRefusal s q = some .commandSequenceError := by
  have hmirror : (wanted q).mirror = true := by simp [wanted, hm]
  rw [createRefusal_formed hc hf]
  exact (if_neg (by omega)).trans (if_pos (.inl ⟨hmirror, hp⟩))

section Here
variable (hm : q.mirror = 0) (hh : q.home = 0)
include hm hh

/-- A namespace of this module alone is asked for its sizes, then for the pools, then for an NSID. -/
theorem createRefusal_here : createRefusal s q =
    if q.nsze < q.ncap ∨ q.ncap = 0 ∨ (q.zoned ∧ (q.ncap ≠ q.nsze ∨ q.nsze * lbaSlots q.flbas % zoneSize ≠ 0)) then
      some .invalidField
    else if poolsShort s (wanted q) then some .nsInsufficientCapacity
    else if (freeNsid s).isNone then some .nsIdUnavailable
    else none := by
  have hmirror : (wanted q).mirror = false := by simp [wanted, hm]
  have hhome : (wanted q).home = 0 := by simp [wanted, hh]
  have hshort : partnerShort s (wanted q) = false := by simp [partnerShort, partnerHolds, hmirror, hhome]
  rw [createRefusal_formed hc hf]
  simp only [hmirror, hhome, hshort]
  simp [wanted]

theorem createRefusal_badSize (h : q.ncap = 0 ∨ q.nsze < q.ncap) : createRefusal s q = some .invalidField := by
  rw [createRefusal_here hc hf hm hh]
  exact if_pos (h.elim (fun h0 => .inr (.inl h0)) .inl)

section Sized
variable (hpos : 0 < q.ncap) (hle : q.ncap ≤ q.nsze) (hz : q.zoned = false)
include hpos hle hz

theorem createRefusal_sized : createRefusal s q =
    if poolsShort s (wanted q) then some .nsInsufficientCapacity
    else if (freeNsid s).isNone then some .nsIdUnavailable
    else none := by
  have hsize : ¬ (q.nsze < q.ncap ∨ q.ncap = 0 ∨
      (q.zoned = true ∧ (q.ncap ≠ q.nsze ∨ q.nsze * lbaSlots q.flbas % zoneSize ≠ 0))) := by
    rw [hz]
    simp only [Bool.false_eq_true, false_and, or_false]
    omega
  rw [createRefusal_here hc hf hm hh, if_neg hsize]

theorem createRefusal_poolsShort (h : poolsShort s (wanted q) = true) :
    createRefusal s q = some .nsInsufficientCapacity := by
  rw [createRefusal_sized hc hf hm hh hpos hle hz, if_pos h]

theorem createRefusal_noNsid (h : poolsShort s (wanted q) = false) (hn : freeNsid s = none) :
    createRefusal s q = some .nsIdUnavailable := by
  simp [createRefusal_sized hc hf hm hh hpos hle hz, h, hn]

end Sized
end Here
end Formed

/-- What a single module does not refuse leaves the partner out. -/
theorem partnerHolds_of_granted (h : createRefusal s q = none) (hp : s.pair.state = 0) :
    partnerHolds (wanted q) = false := by
  by_cases hc : createClean q
  · by_cases hf : createFormat q
    · have hno : ¬ (q.mirror = 1 ∨ q.home = 1) := fun hmh => by
        simp [createRefusal_noPartner hc hf hp hmh] at h
      have hhome : q.home.toNat ≠ 1 := fun h1 => hno (.inr (BitVec.eq_of_toNat_eq h1))
      simpa [partnerHolds, wanted, hhome] using fun hm => hno (.inl hm)
    · simp [createRefusal_badFormat hc hf] at h
  · simp [createRefusal_reserved hc] at h

theorem namespaceCreate_refused {st : Status} (h : createRefusal s q = some st) (a : Adm) :
    namespaceCreate s a q = adminFail (askPartner s (wanted q)) a st := by
  simp [namespaceCreate, h]

/-- A single module records the namespace, draws its key, and answers once the record is durable. -/
theorem namespaceCreate_created {nsid : Nat} (h : createRefusal s q = none) (hn : freeNsid s = some nsid)
    (hp : s.pair.state = 0) (a : Adm) :
    let u := keyNs (journalOp s [createRec nsid (wanted q)]) nsid
    namespaceCreate s a q = adminAfter u u.media.jsn a nsid := by
  intro u
  have hask : askPartner s (wanted q) = s := by simp [askPartner, partnerHolds_of_granted h hp]
  have hsingle : u.pair.state = 0 := (pairState_of_still (by simp [u])).trans hp
  simp only [namespaceCreate, h, hn, hask]
  exact if_pos hsingle

end Creation

/-- Settles O25: `createRefusal` names the first check of Table 3.3 that fails, and what passes them all is recorded. -/
theorem namespacesAreCreated : Obligations.NamespacesAreCreated := by
  unfold Obligations.NamespacesAreCreated
  intro s a q nsid ho hr ha fails clean format u
  have hrow {t v : State} (h : t = v) : adminPf s a t = .next v := h ▸ adminPf_open ho hr ha t
  have hfails {st : Status} (h : createRefusal s q = some st) : fails st := hrow (namespaceCreate_refused h a)
  exact ⟨fun h hn hp => hrow (namespaceCreate_created h hn hp a),
    fun hc => hfails (createRefusal_reserved hc),
    fun hc hf => hfails (createRefusal_badFormat hc hf),
    fun hc hf hp h => hfails (createRefusal_noPartner hc hf hp h),
    fun hc hf hp hm => hfails (createRefusal_partnerAway hc hf hp hm),
    fun hc hf hm hh => ⟨fun h => hfails (createRefusal_badSize hc hf hm hh h),
      fun hpos hle hz h => hfails (createRefusal_poolsShort hc hf hm hh hpos hle hz h),
      fun hpos hle hz h hn => hfails (createRefusal_noNsid hc hf hm hh hpos hle hz h hn)⟩⟩

/-! ### Attachment -/

section Attachment
variable {s : State} {a : Adm} {nsid : Nat} {l : List Nat}

/-- A controller list names controllers of the module, each once (R81). -/
theorem ctrlsBad_iff (l : List Nat) : ctrlsBad l = true ↔ ¬ (l ≠ [] ∧ (∀ c ∈ l, c ≤ 1024) ∧ l.Nodup) := by
  simp only [ctrlsBad, Bool.or_eq_true, List.isEmpty_iff, List.any_eq_true, decide_eq_true_eq, not_and_or, not_not,
    not_forall, Nat.not_le, exists_prop, or_assoc]

theorem ctrlsBad_good (h : l ≠ [] ∧ (∀ c ∈ l, c ≤ 1024) ∧ l.Nodup) : ctrlsBad l = false := by
  rw [← Bool.not_eq_true, ctrlsBad_iff]
  exact not_not_intro h

section Newest
variable {n : Ns} (hn : tabGet Ns.empty (newestMap s).nss nsid = n)
include hn

theorem execNamespaceAttach_dead (hl : n.live = false) :
    execNamespaceAttach a nsid l s = adminPf s a (adminFail s a .invalidNamespaceOrFormat) :=
  congrArg (adminPf s a) (if_pos (by simp [hn, hl]))

theorem execNamespaceDetach_dead (hl : n.live = false) :
    execNamespaceDetach a nsid l s = adminPf s a (adminFail s a .invalidNamespaceOrFormat) :=
  congrArg (adminPf s a) (if_pos (by simp [hn, hl]))

section Live
variable (hl : n.live = true) (hd : n.deleting = none)
include hl hd

/-- Of a live namespace the list of controllers is checked first. -/
theorem execNamespaceAttach_live : execNamespaceAttach a nsid l s = adminPf s a
    (if ctrlsBad l then adminFail s a .invalidControllerList
     else if l.any (fun c => n.attached.contains c) then adminFail s a .nsAlreadyAttached
     else if !n.shared ∧ 1 < n.attached.length + l.length then adminFail s a .nsIsPrivate
     else adminAfter (attachChange s nsid l false) (attachChange s nsid l false).media.jsn a 0) := by
  subst hn
  exact congrArg (adminPf s a) (if_neg (by simp [hl, hd]))

theorem execNamespaceDetach_live : execNamespaceDetach a nsid l s = adminPf s a
    (if ctrlsBad l then adminFail s a .invalidControllerList
     else if !l.all (fun c => n.attached.contains c) then adminFail s a .nsNotAttached
     else adminAfter (attachChange s nsid l true) (attachChange s nsid l true).media.jsn a 0) := by
  subst hn
  exact congrArg (adminPf s a) (if_neg (by simp [hl, hd]))

theorem execNamespaceAttach_badList (h : ctrlsBad l = true) :
    execNamespaceAttach a nsid l s = adminPf s a (adminFail s a .invalidControllerList) := by
  rw [execNamespaceAttach_live hn hl hd, if_pos h]

theorem execNamespaceDetach_badList (h : ctrlsBad l = true) :
    execNamespaceDetach a nsid l s = adminPf s a (adminFail s a .invalidControllerList) := by
  rw [execNamespaceDetach_live hn hl hd, if_pos h]

section Good
variable (hg : ctrlsBad l = false)
include hg

theorem execNamespaceAttach_twice (h : ∃ c ∈ l, c ∈ n.attached) :
    execNamespaceAttach a nsid l s = adminPf s a (adminFail s a .nsAlreadyAttached) := by
  rw [execNamespaceAttach_live hn hl hd, if_neg (by simp [hg]), if_pos (by simpa using h)]

/-- A namespace that is not shared takes one controller (R85). -/
theorem execNamespaceAttach_fresh (h : ∀ c ∈ l, c ∉ n.attached) : execNamespaceAttach a nsid l s = adminPf s a
    (if !n.shared ∧ 1 < n.attached.length + l.length then adminFail s a .nsIsPrivate
     else adminAfter (attachChange s nsid l false) (attachChange s nsid l false).media.jsn a 0) := by
  rw [execNamespaceAttach_live hn hl hd, if_neg (by simp [hg]), if_neg (by simpa using h)]

theorem execNamespaceAttach_notShared (h : ∀ c ∈ l, c ∉ n.attached) (hs : n.shared = false)
    (hmore : 1 < n.attached.length + l.length) :
    execNamespaceAttach a nsid l s = adminPf s a (adminFail s a .nsIsPrivate) := by
  rw [execNamespaceAttach_fresh hn hl hd hg h, if_pos ⟨by simp [hs], hmore⟩]

theorem execNamespaceAttach_attaches (h : ∀ c ∈ l, c ∉ n.attached)
    (hs : n.shared = true ∨ n.attached.length + l.length ≤ 1) :
    execNamespaceAttach a nsid l s = adminPf s a
      (adminAfter (attachChange s nsid l false) (attachChange s nsid l false).media.jsn a 0) := by
  rw [execNamespaceAttach_fresh hn hl hd hg h, if_neg]
  rintro ⟨hp, hmore⟩
  rcases hs with hs | hs
  · simp [hs] at hp
  · omega

theorem execNamespaceDetach_absent (h : ∃ c ∈ l, c ∉ n.attached) :
    execNamespaceDetach a nsid l s = adminPf s a (adminFail s a .nsNotAttached) := by
  rw [execNamespaceDetach_live hn hl hd, if_neg (by simp [hg]), if_pos (by simpa using h)]

theorem execNamespaceDetach_detaches (h : ∀ c ∈ l, c ∈ n.attached) :
    execNamespaceDetach a nsid l s = adminPf s a
      (adminAfter (attachChange s nsid l true) (attachChange s nsid l true).media.jsn a 0) := by
  rw [execNamespaceDetach_live hn hl hd, if_neg (by simp [hg]), if_neg (by simpa using h)]

end Good
end Live
end Newest
end Attachment

/-! ### Deletion -/

section Deletion
variable {s : State} {a : Adm} {nsid : Nat}

theorem execNamespaceDelete_dead (hall : nsid ≠ 0xFFFFFFFF) (hl : (getNs s nsid).live = false) :
    execNamespaceDelete a nsid s = adminPf s a (adminFail s a .invalidNamespaceOrFormat) := by
  simp [execNamespaceDelete, hall, hl]

section One
variable (hall : nsid ≠ 0xFFFFFFFF) (hl : (getNs s nsid).live = true) (hd : (getNs s nsid).deleting = none)
include hall hl hd

theorem execNamespaceDelete_one : execNamespaceDelete a nsid s = adminPf s a
    (if deleteBarred s (getNs s nsid) then adminFail s a .commandSequenceError else startDelete s a nsid) := by
  simp [execNamespaceDelete, hall, hl, hd]

theorem execNamespaceDelete_starts (hp : s.pair.state ≤ 1) :
    execNamespaceDelete a nsid s = adminPf s a (startDelete s a nsid) := by
  have h2 : s.pair.state ≠ 2 := by omega
  have h3 : s.pair.state ≠ 3 := by omega
  rw [execNamespaceDelete_one hall hl hd]
  simp [deleteBarred, h2, h3]

/-- A mirrored namespace stays while the partner is away (R117). -/
theorem execNamespaceDelete_mirrored (hp : s.pair.state = 2) (hm : (getNs s nsid).mirror = true) :
    execNamespaceDelete a nsid s = adminPf s a (adminFail s a .commandSequenceError) := by
  rw [execNamespaceDelete_one hall hl hd]
  simp [deleteBarred, hp, hm]

end One

/-- The deletion ends with its records: the namespace's, and one for each lot of its zones. -/
theorem execNsDeleteDone_last (hd : (getNs s nsid).deleting = some a) (hk : nsDockets s nsid (fun _ => true) = [])
    (hlast : ∀ e ∈ s.media.cur.nss, e.1 ≠ nsid → e.2.deleting ≠ some a)
    (hn : tabGet Ns.empty (newestMap s).nss nsid ≠ Ns.empty) :
    let f := forgetNs s nsid
    let u := dropKey (journalOp f (jrec 0x31 nsid 0 0 0 0 :: nsLotRecs (newestMap f) nsid)) nsid
    execNsDeleteDone nsid s = .next (adminAfter u (s.media.jsn + 1) a 0) := by
  intro f u
  have hnone : (f.media.cur.nss.any fun e => e.1 != nsid && e.2.deleting == some a) = false := by
    simpa [f, forgetNs] using hlast
  have hopen : ((nsDockets s nsid fun _ => true).isEmpty && tabGet Ns.empty (newestMap s).nss nsid != Ns.empty) = true := by
    simp [hk, hn]
  simp only [execNsDeleteDone, hd, hopen, when_true]
  exact congrArg _ (if_pos (by rw [hnone]; rfl))

theorem execNsDeleteDone_busy (hk : nsDockets s nsid (fun _ => true) ≠ []) : execNsDeleteDone nsid s = .next s := by
  have hbusy : (nsDockets s nsid fun _ => true).isEmpty = false := List.isEmpty_eq_false_iff.mpr hk
  unfold execNsDeleteDone
  split
  · rfl
  · simp only [hbusy, Bool.false_and, when_false]

end Deletion

/-! ### Format NVM -/

section Format
variable {s : State} {nsid lbaf ses : Nat} (a : Adm)

theorem formatNvm_badErase (h : 2 < ses) (pi : Bool) : formatNvm s a nsid lbaf ses pi = adminFail s a .invalidField :=
  if_pos h

section One
variable (hall : nsid ≠ 0xFFFFFFFF) (hs : ses ≤ 2)
include hall hs

theorem formatNvm_dead (h : ¬ ((getNs s nsid).live = true ∧ (getNs s nsid).deleting = none)) (pi : Bool) :
    formatNvm s a nsid lbaf ses pi = adminFail s a .invalidNamespaceOrFormat := by
  cases hl : (getNs s nsid).live with
  | false => simp [formatNvm, hall, Nat.not_lt.mpr hs, hl]
  | true =>
    have hd : (getNs s nsid).deleting.isSome = true := Option.isSome_iff_ne_none.mpr fun hd => h ⟨hl, hd⟩
    simp [formatNvm, hall, Nat.not_lt.mpr hs, hd]

section Live
variable (h : (getNs s nsid).live = true ∧ (getNs s nsid).deleting = none)
include h

theorem formatNvm_live (pi : Bool) : formatNvm s a nsid lbaf ses pi =
    if pi ∨ 3 ≤ lbaf ∨ ((getNs s nsid).zoned = true ∧ lbaf = 1) then adminFail s a .invalidFormat
    else adminAfter (setFormat (clearNs (selfTestEnd s 4 0 0) nsid (ses == 2)) nsid lbaf)
      (setFormat (clearNs (selfTestEnd s 4 0 0) nsid (ses == 2)) nsid lbaf).media.jsn a 0 := by
  obtain ⟨hl, hd⟩ := h
  simp [formatNvm, hall, Nat.not_lt.mpr hs, hl, hd]

theorem formatNvm_formats (hf : lbaf ≤ 2) (hz : ¬ ((getNs s nsid).zoned = true ∧ lbaf = 1)) :
    let u := setFormat (clearNs (selfTestEnd s 4 0 0) nsid (ses == 2)) nsid lbaf
    formatNvm s a nsid lbaf ses false = adminAfter u u.media.jsn a 0 := by
  rw [formatNvm_live a hall hs h]
  exact if_neg (by simpa [Nat.not_le.mpr (Nat.lt_succ_of_le hf)] using hz)

theorem formatNvm_badFormat {pi : Bool} (hf : pi = true ∨ 3 ≤ lbaf) :
    formatNvm s a nsid lbaf ses pi = adminFail s a .invalidFormat := by
  rw [formatNvm_live a hall hs h]
  exact if_pos (hf.imp_right .inl)

end Live
end One
end Format

/-! ### Sanitize -/

/-- The end of a self-test leaves the media and the books of Sanitize. -/
theorem selfTestEnd_keeps (s : State) (r seg skipped : Nat) : (selfTestEnd s r seg skipped).media = s.media ∧
    (selfTestEnd s r seg skipped).service.sanCount = s.service.sanCount := by
  unfold selfTestEnd
  split <;> exact ⟨rfl, rfl⟩

theorem media_adminDone (s : State) (a : Adm) (st : Status) (n : Nat) (p : Payload) :
    (adminDone s a st n p).media = s.media := by
  rw [eq_of_hostless (hostless_adminDone s a st n p)]

/-- Sanitize of a module without a namespace counts, and says which kind ended. -/
theorem sanitize_counts {s : State} (h : s.media.cur.nss = []) (a : Adm) (crypto : Bool) :
    (sanitize s a crypto).service.sanCount = s.service.sanCount + 1 ∧
      (sanitize s a crypto).service.sanitize = if crypto then 4 else 2 := by
  obtain ⟨hmedia, hcount⟩ := selfTestEnd_keeps s 9 0 0
  have hnone : nsids (adminOk (selfTestEnd s 9 0 0) a) = [] := by
    simp [nsids, adminOk, media_adminDone, hmedia, h]
  have hbooks : (if crypto = true then adminOk (selfTestEnd s 9 0 0) a
      else eraseAll (adminOk (selfTestEnd s 9 0 0) a)).service = (selfTestEnd s 9 0 0).service :=
    service_of_still (by simp [adminOk])
  simp only [sanitize, hnone, List.foldl_nil, service_of_still (still_postEvent _ _ _), hbooks, hcount, and_self]

/-- Settles O26: each command by the first check that fails, or by what it does where none does. -/
theorem namespacesAttachDeleteAndClear : Obligations.NamespacesAttachDeleteAndClear := by
  unfold Obligations.NamespacesAttachDeleteAndClear
  refine ⟨fun s a nsid l ho hr ha => ?attach, fun s a nsid ho hr ha => ?delete, fun s a nsid lbaf ses ho hr ha => ?clear⟩
  all_goals have hrow {x : Res} {t : State} (h : x = adminPf s a t) : x = .next t := h.trans (adminPf_open ho hr ha t)
  case attach =>
    generalize hn : tabGet Ns.empty (newestMap s).nss nsid = n
    dsimp only
    have hattach {t : State} (h : execNamespaceAttach a nsid l s = adminPf s a t) :
        exec (.namespaceAttach a nsid l) s = .next t := hrow h
    have hdetach {t : State} (h : execNamespaceDetach a nsid l s = adminPf s a t) :
        exec (.namespaceDetach a nsid l) s = .next t := hrow h
    refine ⟨fun hl hd hg => ?_, fun hl hd hg => ?_, fun hl =>
      ⟨hattach (execNamespaceAttach_dead hn hl), hdetach (execNamespaceDetach_dead hn hl)⟩⟩
    · have hgood : ctrlsBad l = false := ctrlsBad_good hg
      exact ⟨fun h hs => hattach (execNamespaceAttach_attaches hn hl hd hgood h hs),
        fun h => hattach (execNamespaceAttach_twice hn hl hd hgood h),
        fun h hs hn' => hattach (execNamespaceAttach_notShared hn hl hd hgood h hs hn'),
        fun h => hdetach (execNamespaceDetach_detaches hn hl hd hgood h),
        fun h => hdetach (execNamespaceDetach_absent hn hl hd hgood h)⟩
    · have hbad : ctrlsBad l = true := (ctrlsBad_iff l).mpr hg
      exact ⟨hattach (execNamespaceAttach_badList hn hl hd hbad), hdetach (execNamespaceDetach_badList hn hl hd hbad)⟩
  case delete =>
    have hdelete {t : State} (h : execNamespaceDelete a nsid s = adminPf s a t) :
        exec (.namespaceDelete a nsid) s = .next t := hrow h
    exact ⟨fun hall hl hd => ⟨fun hp => hdelete (execNamespaceDelete_starts hall hl hd hp),
        fun hp hm => hdelete (execNamespaceDelete_mirrored hall hl hd hp hm)⟩,
      fun hall hl => hdelete (execNamespaceDelete_dead hall hl), execNsDeleteDone_last, execNsDeleteDone_busy⟩
  case clear =>
    dsimp only
    have hformat {pi : Bool} {t : State} (h : formatNvm s a nsid lbaf ses pi = t) :
        exec (.formatNvm a nsid lbaf ses pi) s = .next t := hrow (congrArg (adminPf s a) h)
    exact ⟨fun hall hs => ⟨fun h hf hz => hformat (formatNvm_formats a hall hs h hf hz),
        fun h hf => hformat (formatNvm_badFormat a hall hs h (.inr hf)),
        fun h => hformat (formatNvm_badFormat a hall hs h (.inl rfl)),
        fun h => hformat (formatNvm_dead a hall hs h false)⟩,
      fun h => hformat (formatNvm_badErase a h false), ⟨_, hrow rfl, rfl⟩, ⟨_, hrow rfl, rfl⟩,
      fun h c => sanitize_counts h a c⟩

end Sys2Proof.Machine
end

section
/-!
SUPPORT. Zone Management: what an action does in each state of a zone, and how its command ends (R37, R100 to R104,
R132).
-/
namespace Sys2Proof.Machine

/-! ### The actions (Table 3.5) -/

section Actions
variable {s : State} {nsid z : Nat} {v : Zone} (hv : getZone (newestMap s) nsid z = v)
include hv

theorem zoneRecs_close : zoneRecs s .zoneClose nsid z =
    if v.zs = 4 then .ok [] else if zOpen v.zs then .ok [zstateRec nsid z { v with zs := 4 }]
    else .error .invalidZoneTransition := by
  subst hv
  rfl

theorem zoneRecs_finish : zoneRecs s .zoneFinish nsid z =
    if v.zs = 0xE then .ok [] else if v.zs = 1 ∨ zActive v.zs then .ok [zstateRec nsid z { v with zs := 0xE }]
    else .error .invalidZoneTransition := by
  subst hv
  rfl

theorem zoneRecs_reset : zoneRecs s .zoneReset nsid z =
    if v.zs = 1 then .ok []
    else if zActive v.zs ∨ v.zs = 0xE then .ok (zstateRec nsid z Zone.empty :: unbindRecs (newestMap s) v)
    else .error .invalidZoneTransition := by
  subst hv
  rfl

theorem zoneRecs_offline : zoneRecs s .zoneOffline nsid z =
    if v.zs = 0xF then .ok []
    else if v.zs = 0xD then .ok (zstateRec nsid z { Zone.empty with zs := 0xF } :: unbindRecs (newestMap s) v)
    else .error .invalidZoneTransition := by
  subst hv
  rfl

end Actions

/-! ### Zone Management Send -/

/-- The kinds that wait for a fold row in flight in their zone (R132). -/
def awaitsFold (k : IoKind) : Prop := k = .zoneReset ∨ k = .zoneFinish ∨ k = .zoneOffline

/-- Without Select All a command names the zone at its LBA. -/
theorem sendZonesOf_one {s : State} {q : Sqe} {z : Nat} (hf : q.flag = false)
    (hz : q.slba / (zoneSize / lbaSlots (getNs s q.nsid).lbaf) = z) : sendZonesOf s q = [z] := by
  rw [← hz]
  exact if_neg (by simp [hf])

/-- Zone Open of one zone: the refusal, if any, and the state after it. -/
def zoneOpened (s : State) (nsid z : Nat) : Option Status × State :=
  let v := getZone (newestMap s) nsid z
  if v.zs = 3 then (none, s)
  else if v.zs = 2 then (none, append s [zstateRec nsid z { v with zs := 3 }])
  else if v.zs = 1 ∨ v.zs = 4 then openZone s nsid z 3
  else (some .invalidZoneTransition, s)

section Send
variable {s : State} {d : Nat} {q : Sqe} (hq : (getDk s d).sqe = q) (hf : q.flag = false)
include hq hf

/-- The command's LBA is not a zone's first. -/
theorem zoneSend_misplaced (h : q.slba % (zoneSize / lbaSlots (getNs s q.nsid).lbaf) ≠ 0) :
    zoneSend s d = ioFail s d .invalidField := by
  subst hq
  exact if_pos ⟨by rw [hf]; rfl, .inl h⟩

section Placed
variable {z : Nat} (hz : q.slba / (zoneSize / lbaSlots (getNs s q.nsid).lbaf) = z)
  (h0 : q.slba % (zoneSize / lbaSlots (getNs s q.nsid).lbaf) = 0) (hn : q.slba < (getNs s q.nsid).nsze)
include hz h0 hn

theorem zoneSend_waits (hk : awaitsFold q.kind) (h : zoneFolding s q.nsid z = true) :
    zoneSend s d = modDk s d (fun e => { e with foldWait := true }) := by
  have hone := sendZonesOf_one hf hz
  subst hq
  refine (if_neg (by omega)).trans (if_pos ⟨hk, ?_⟩)
  simpa [hone] using h

/-- An action of one zone goes by the records of that zone. -/
theorem zoneSend_goes (hk : awaitsFold q.kind → zoneFolding s q.nsid z = false) (ho : q.kind ≠ .zoneOpen) :
    zoneSend s d = match zoneRecs s q.kind q.nsid z with
      | .ok rs => recordCommand s d rs
      | .error st => ioFail s d st := by
  have hone := sendZonesOf_one hf hz
  subst hq
  refine (if_neg (by omega)).trans ((if_neg ?_).trans ((if_neg ho).trans ?_))
  · rintro ⟨hw, hfold⟩
    simp [hone, hk hw] at hfold
  · rw [hone, List.foldl_cons, List.foldl_nil]
    cases zoneRecs s (getDk s d).sqe.kind (getDk s d).sqe.nsid z <;> rfl

/-- Zone Open has no list of records: it opens its zone, and then commits. -/
theorem zoneSend_open (hk : q.kind = .zoneOpen) : zoneSend s d =
    match (zoneOpened s q.nsid z).1 with
      | some st => ioFail (zoneOpened s q.nsid z).2 d st
      | none => recordCommand (zoneOpened s q.nsid z).2 d [] := by
  have hone := sendZonesOf_one hf hz
  subst hq
  refine (if_neg (by omega)).trans ((if_neg ?_).trans ((if_pos hk).trans ?_))
  · rintro ⟨hw, -⟩
    simp [hk] at hw
  · rw [hone]
    rfl

end Placed
end Send

/-- A row that sends zones, once its command has begun. -/
theorem zoneRow_runs {s : State} {d : Nat} {x : Res} {k : IoKind} (hr : runsHere s d = true)
    (hx : x = io s d k (onNs s d [] (fun s => zoneSend s d))) (hk : dkStart s d k = true) :
    x = .next (zoneSend (begun s d) d) := by
  rw [hx, io_started hk, onNs_runs hr]

section Rows
variable {s : State} {d : Nat} {q : Sqe} (hr : runsHere s d = true) (hq : (getDk s d).sqe = q) (hf : q.flag = false)
  {x : Res} {k : IoKind} (hx : x = io s d k (onNs s d [] (fun s => zoneSend s d))) (hk : dkStart s d k = true)
include hr hq hf hx hk

theorem zoneRow_misplaced (h : q.slba % (zoneSize / lbaSlots (getNs s q.nsid).lbaf) ≠ 0) :
    x = .next (ioFail (begun s d) d .invalidField) := by
  have hsqe : (getDk (begun s d) d).sqe = q := by rw [getDk_begun, hq]
  rw [zoneRow_runs hr hx hk, zoneSend_misplaced hsqe hf h]

section Placed
variable {z : Nat} (hz : q.slba / (zoneSize / lbaSlots (getNs s q.nsid).lbaf) = z)
  (h0 : q.slba % (zoneSize / lbaSlots (getNs s q.nsid).lbaf) = 0) (hn : q.slba < (getNs s q.nsid).nsze)
include hz h0 hn

theorem zoneRow_waits (ha : awaitsFold k) (h : zoneFolding s q.nsid z = true) :
    x = .next (modDk (begun s d) d (fun e => { e with foldWait := true })) := by
  have hsqe : (getDk (begun s d) d).sqe = q := by rw [getDk_begun, hq]
  have hkind : q.kind = k := hq ▸ ((dkStart_iff s d k).mp hk).2.1
  rw [zoneRow_runs hr hx hk, zoneSend_waits hsqe hf hz h0 hn (hkind.symm ▸ ha) h]

/-- An action other than Zone Open ends by its records, or by its refusal. -/
theorem zoneRow_ends (ha : awaitsFold k → zoneFolding s q.nsid z = false) (ho : k ≠ .zoneOpen) (rs : List JRec)
    (st : Status) : (zoneRecs s k q.nsid z = .ok rs → x = .next (recordCommand (begun s d) d rs)) ∧
      (zoneRecs s k q.nsid z = .error st → x = .next (ioFail (begun s d) d st)) := by
  have hsqe : (getDk (begun s d) d).sqe = q := by rw [getDk_begun, hq]
  obtain rfl : q.kind = k := hq ▸ ((dkStart_iff s d k).mp hk).2.1
  have hrecs : zoneRecs (begun s d) q.kind q.nsid z = zoneRecs s q.kind q.nsid z := rfl
  rw [zoneRow_runs hr hx hk, zoneSend_goes hsqe hf hz h0 hn ha ho, hrecs]
  exact ⟨fun h => by rw [h], fun h => by rw [h]⟩

theorem zoneRow_open (ho : k = .zoneOpen) : x = .next (match (zoneOpened (begun s d) q.nsid z).1 with
    | some st => ioFail (zoneOpened (begun s d) q.nsid z).2 d st
    | none => recordCommand (zoneOpened (begun s d) q.nsid z).2 d []) := by
  have hsqe : (getDk (begun s d) d).sqe = q := by rw [getDk_begun, hq]
  have hkind : q.kind = k := hq ▸ ((dkStart_iff s d k).mp hk).2.1
  rw [zoneRow_runs hr hx hk, zoneSend_open hsqe hf hz h0 hn (hkind.trans ho)]

end Placed
end Rows

section Opened
variable {s : State} {nsid z : Nat} {v : Zone} (hv : getZone (newestMap s) nsid z = v)
include hv

/-- A zone that is explicitly open stays so. -/
theorem zoneOpened_explicit (h : v.zs = 3) : zoneOpened s nsid z = (none, s) :=
  if_pos (hv ▸ h)

/-- A zone that is implicitly open becomes explicitly open (R103). -/
theorem zoneOpened_implicit (h : v.zs = 2) :
    zoneOpened s nsid z = (none, append s [zstateRec nsid z { v with zs := 3 }]) := by
  subst hv
  exact (if_neg (by omega)).trans (if_pos h)

theorem zoneOpened_forbidden (h : v.zs = 0xE ∨ v.zs = 0xD ∨ v.zs = 0xF) :
    zoneOpened s nsid z = (some .invalidZoneTransition, s) := by
  subst hv
  exact (if_neg (by omega)).trans ((if_neg (by omega)).trans (if_neg (by omega)))

end Opened

/-! ### Report Zones -/

/-- Report Zones is never forwarded (R377). -/
theorem onHere_runs {s : State} {d : Nat} (h : runsHere s d = true) (run : State → State) :
    onHere s d run = run (begun s d) := by
  simp only [runsHere, Bool.and_eq_true, Bool.not_eq_true', Option.isNone_iff_eq_none] at h
  obtain ⟨⟨⟨⟨-, hr⟩, hn⟩, -⟩, hh⟩ := h
  simp [onHere, hr, hn, hh, begun]

theorem zoneReceive_runs {s : State} {d : Nat} (hr : runsHere s d = true) (hk : dkStart s d .zoneReport = true) :
    exec (.zoneManagementReceive d) s = .next (zoneReport (begun s d) d) := by
  have hrow : exec (.zoneManagementReceive d) s = io s d .zoneReport (onHere s d (fun s => zoneReport s d)) := rfl
  rw [hrow, io_started hk, onHere_runs hr]

section Report
variable {s : State} {d : Nat} {q : Sqe} (hq : (getDk s d).sqe = q)
include hq

theorem zoneReport_badAction (h : sqeDw q 13 % 256 ≠ 0) : zoneReport s d = ioFail s d .invalidField := by
  subst hq
  exact if_pos (.inl (by simpa [bitsOf] using h))

/-- Report Zones of every state: the count of the zones from the command's on, and as many as fit. -/
theorem zoneReport_all {z : Nat} (hz : q.slba / (zoneSize / lbaSlots (getNs s q.nsid).lbaf) = z)
    (h : sqeDw q 13 = 0) : zoneReport s d =
      (let zs := (List.range (nsZones (getNs s q.nsid) - z)).map (· + z)
       ioDone s d .success 0 0 (.fields (("NZONES", zs.length) ::
         ((zs.take (((sqeDw q 12 + 1) * 4 - 64) / 64)).map (zoneFields s q.nsid)).flatten))) := by
  subst hq hz
  simp [zoneReport, h, bitsOf, bitOf, reportState]

end Report

/-- Settles O35: the table of actions by zone state, and each command by the check that ends it. -/
theorem zonesFollowTheirStates : Obligations.ZonesFollowTheirStates := by
  unfold Obligations.ZonesFollowTheirStates
  refine ⟨fun s nsid z => ?actions, fun s d rs st hr => ?commands⟩
  case actions =>
    generalize hv : getZone (newestMap s) nsid z = v
    dsimp only
    simp only [zoneRecs_close hv, zoneRecs_finish hv, zoneRecs_reset hv, zoneRecs_offline hv]
    refine ⟨fun h => ?_, fun h => ?_, fun h => ?_, fun h => ?_, fun h => ?_, fun h => ?_⟩
    · rcases h with h | h <;> simp [h, zOpen, zActive]
    all_goals simp [h, zOpen, zActive]
  case commands =>
    dsimp only
    generalize hq : (getDk s d).sqe = q
    refine ⟨fun hf h0 hn => ?placed, fun hf h hk => zoneRow_misplaced hr hq hf rfl hk h, fun hk h => ?report,
      fun hk h => ?badAction⟩
    case placed =>
      refine ⟨fun hk => zoneRow_ends hr hq hf rfl hk rfl h0 hn (by simp [awaitsFold]) (by simp) rs st, fun h => ?idle,
        fun h => ?folding, fun hk => ?opens⟩
      case idle =>
        exact ⟨fun hk => zoneRow_ends hr hq hf rfl hk rfl h0 hn (fun _ => h) (by simp) rs st,
          fun hk => zoneRow_ends hr hq hf rfl hk rfl h0 hn (fun _ => h) (by simp) rs st,
          fun hk => zoneRow_ends hr hq hf rfl hk rfl h0 hn (fun _ => h) (by simp) rs st⟩
      case folding =>
        exact ⟨fun hk => zoneRow_waits hr hq hf rfl hk rfl h0 hn (.inr (.inl rfl)) h,
          fun hk => zoneRow_waits hr hq hf rfl hk rfl h0 hn (.inl rfl) h,
          fun hk => zoneRow_waits hr hq hf rfl hk rfl h0 hn (.inr (.inr rfl)) h⟩
      case opens =>
        have hopen := zoneRow_open hr hq hf (x := exec (.zoneOpen d) s) rfl hk rfl h0 hn rfl
        exact ⟨fun h => by rw [hopen, zoneOpened_explicit (s := begun s d) rfl h],
          fun h => by rw [hopen, zoneOpened_implicit (s := begun s d) rfl h]; rfl,
          fun h => by rw [hopen, zoneOpened_forbidden (s := begun s d) rfl h]⟩
    all_goals have hsqe : (getDk (begun s d) d).sqe = q := by rw [getDk_begun, hq]
    case report => rw [zoneReceive_runs hr hk, zoneReport_all hsqe rfl h]; rfl
    case badAction => rw [zoneReceive_runs hr hk, zoneReport_badAction hsqe h]

end Sys2Proof.Machine
end

section
/-!
SUPPORT. Relocations: which work starts at which rank, the copy and the erase of what was copied (R97, R130 to R139,
R150, R151, Tables 4.4 to 4.6).
-/
namespace Sys2Proof.Machine

/-- An event whose condition is false changes nothing. -/
theorem when_unless {c : Bool} (h : c = false) (s t : State) : when c s t = s := by rw [h, when_false]

/-! ### Folding -/

section Folding
variable {s : State} {us : List UnitRef} {z : Bool}

theorem foldStart_starts (ho : mediaOpen s = true) (hw : s.media.readOnly = false)
    (h : (if z then foldZoneOk s us else foldMappedOk s us) = true)
    (hr : rankOpen s (unitChannels (withWords s us)) (foldRank s) = true) :
    exec (.foldStart us z) s = .next (startReloc s { Reloc.empty with kind := b2n z, units := withWords s us }) :=
  congrArg _ (when_of (by rw [ho, hw, h, hr]; rfl) _ _)

theorem foldStart_outranked (hr : rankOpen s (unitChannels (withWords s us)) (foldRank s) = false) :
    exec (.foldStart us z) s = .next s :=
  congrArg _ (when_unless (by rw [hr, Bool.and_false]) _ _)

theorem foldStart_readOnly (hw : s.media.readOnly = true) : exec (.foldStart us z) s = .next s :=
  congrArg _ (when_unless (by simp [hw]) _ _)

end Folding

section MaxAge
variable {s : State} {r : UnitRef}

/-- A unit past MAXAGE joins the queue; the rows that hold it are folded where no other work outranks them. -/
theorem foldMaxage_old {w : Nat} (hw : unitWord s (newestMap s) r = w) (ho : mediaOpen s = true)
    (hro : s.media.readOnly = false) (hm : mMapped w = true) (hl : mLanded w = true) (hb : beingMoved s r = false)
    (hage : landedTime s w + landMaxAge s * 3600000 < s.nowMs) (hq : r ∉ s.media.foldQueue) {q : State}
    (hs : { s with media := { s.media with foldQueue := s.media.foldQueue ++ [r] } } = q) :
    exec (.foldMaxage r) s = .next (match ageFold q r with
      | some us => if rankOpen q (unitChannels (withWords q us)) 6 then
          startReloc q { Reloc.empty with kind := b2n (getNs q r.nsid).zoned, units := withWords q us }
        else q
      | none => q) := by
  have hqueue : (if s.media.foldQueue.contains r then s.media.foldQueue else s.media.foldQueue ++ [r]) =
      s.media.foldQueue ++ [r] := if_neg (by simpa using hq)
  subst hw hs
  rw [← hqueue]
  exact congrArg _ (when_of (by simp [ho, hro, hm, hl, hb, hage]) _ _)

theorem foldMaxage_young (h : s.nowMs ≤ landedTime s (unitWord s (newestMap s) r) + landMaxAge s * 3600000) :
    exec (.foldMaxage r) s = .next s :=
  congrArg _ (when_unless (by simp [Nat.not_lt.mpr h]) _ _)

end MaxAge

/-! ### Garbage collection and refresh -/

theorem moveLot_pooled {s : State} {l : Nat} (h : isPooled (getLot (newestMap s) l) = true) (kind : Nat)
    (block : Option Nat) : moveLot s kind l block = startReloc s { Reloc.empty with
      kind := kind, units := withWords s (lotContents (newestMap s) l), lot := some l, block := block } :=
  if_pos h

theorem gcStart_starts {s : State} {g l : Nat} (ho : mediaOpen s = true) (hw : s.media.readOnly = false) (hg : g < 14)
    (hd : gcDue s g = true) (hr : rankOpen s ((List.range 32).map (· + 32 * g)) (gcRank s g) = true)
    (hv : gcVictim s g = some l) (hp : isPooled (getLot (newestMap s) l) = true) (hon : s.media.gcOn = []) :
    exec (.gcStart g) s = .next (startReloc { s with media := { s.media with gcOn := [g] } }
      { Reloc.empty with kind := 2, units := withWords s (lotContents (newestMap s) l), lot := some l }) := by
  have hmove := moveLot_pooled (s := { s with media := { s.media with gcOn := [g] } }) hp 2 none
  have hrow : exec (.gcStart g) s = execGcStart g s := rfl
  rw [hrow, execGcStart, when_of (by simp [ho, hw, hg, hd, hr]), hv]
  simp only [hon, List.contains_nil, List.nil_append, Bool.false_eq_true, if_false]
  exact congrArg _ hmove

theorem gcStart_notDue {s : State} {g : Nat} (h : gcDue s g = false) : exec (.gcStart g) s = .next s :=
  congrArg _ (when_unless (by simp [h]) _ _)

theorem gcStart_readOnly {s : State} {g : Nat} (h : s.media.readOnly = true) : exec (.gcStart g) s = .next s :=
  congrArg _ (when_unless (by simp [h]) _ _)

section Refresh
variable {s : State} {b : Nat} (ho : mediaOpen s = true) (hq : (getBlk s b).refresh ≠ 0) (hn : s.media.relocs = [])
  (hr : rankOpen s [b / 2 ^ 32] (getBlk s b).refresh = true)
include ho hq hn hr

theorem refreshStart_lot {l : Nat} (hp : (getBlk s b).pool ≠ 1) (hl : lotWith (newestMap s) b = some l)
    (hu : lotInUse (getLot (newestMap s) l) = true) (hpool : isPooled (getLot (newestMap s) l) = true) :
    exec (.refreshStart b) s = .next (startReloc s { Reloc.empty with
      kind := 3, units := withWords s (lotContents (newestMap s) l), lot := some l, block := some b }) := by
  have hopen : refreshOpen s (newestMap s) b = true := by simp [refreshOpen, lotMoved, hn, hl, hu]
  have hrow : exec (.refreshStart b) s = execRefreshStart b s := rfl
  rw [hrow, execRefreshStart, when_of (by rw [hr]; simp [ho, hq, hopen]), if_neg hp, hl]
  exact congrArg _ (moveLot_pooled hpool 3 (some b))

/-- The refresh of a landing block takes the units on it that nothing moves yet. -/
theorem refreshStart_landing (hp : (getBlk s b).pool = 1) :
    ∃ us, exec (.refreshStart b) s = .next (startReloc s { Reloc.empty with
      kind := 3, units := (withWords s us).filter (fun u => !beingMoved s u.1), block := some b }) := by
  have hopen : refreshOpen s (newestMap s) b = true := by simp [refreshOpen, hn, hp]
  have hrow : exec (.refreshStart b) s = execRefreshStart b s := rfl
  rw [hrow, execRefreshStart, when_of (by rw [hr]; simp [ho, hq, hopen]), if_pos hp]
  exact ⟨_, rfl⟩

end Refresh

/-- The first relocation of all takes number 0. -/
theorem startReloc_first {s : State} {r : Reloc} (hn : s.media.relocs = []) (hl : r.lot = none) :
    tabFind (startReloc s r).media.relocs 0 = some { r with step := 1, jsn := s.media.jsn } := by
  simp only [startReloc, hl, hn]
  exact tabFind_put_same _ _ _

/-- A unit's word stands beside it as it is now. -/
theorem word_of_mem_withWords {s : State} {us : List UnitRef} {u : UnitRef × Nat} (h : u ∈ withWords s us) :
    u.2 = unitWord s (newestMap s) u.1 := by
  simp only [withWords, List.mem_map] at h
  obtain ⟨r, -, rfl⟩ := h
  rfl

/-- A flash block past its limit of reads is queued at rank 8, unless it is queued at rank 5. -/
theorem readDisturbThreshold_queues {s : State} {b : Nat} (hp : (getBlk s b).pool = 6)
    (h : dget s 0x4040 5 ≤ (getBlk s b).reads) :
    exec (.readDisturbThreshold b) s = .next (queueRefresh s b 8) :=
  congrArg _ (when_of (by simp [hp, h]) _ _)

theorem getBlk_queueRefresh (s : State) (b rank : Nat) :
    (getBlk (queueRefresh s b rank) b).refresh = if (getBlk s b).refresh = 5 then 5 else rank := by
  rw [queueRefresh, modBlk, getBlk_setBlk]

/-! ### The copy -/

/-- Slots of a table are copied one after the other to an address, each as `edit` makes it. -/
def slotsCopy (g : Tab (Option Slot)) (edit : Slot → Slot) (f : Tab (Option Slot)) (src : List (Nat × Nat)) (a : Nat) :
    Tab (Option Slot) :=
  src.foldl (fun f x => match tabGet none g x.1 with
    | some sl => tabPut f (a + x.2) (some (edit sl))
    | none => f) f

section Copy
variable (g : Tab (Option Slot)) (edit : Slot → Slot) (a : Nat)

theorem slotsCopy_cons (f : Tab (Option Slot)) (x : Nat × Nat) (src : List (Nat × Nat)) :
    slotsCopy g edit f (x :: src) a = slotsCopy g edit (slotsCopy g edit f [x] a) src a := rfl

theorem slotsCopy_one_other (f : Tab (Option Slot)) (x : Nat × Nat) {b : Nat} (h : b ≠ a + x.2) :
    tabGet none (slotsCopy g edit f [x] a) b = tabGet none f b := by
  simp only [slotsCopy, List.foldl_cons, List.foldl_nil]
  split
  · exact tabGet_put_other _ _ _ _ _ h
  · rfl

/-- The copy of `n`, `n + 1`, … writes no other slot. -/
theorem slotsCopy_outside (src : List Nat) (n : Nat) (f : Tab (Option Slot)) {b : Nat}
    (h : b < a + n ∨ a + n + src.length ≤ b) :
    tabGet none (slotsCopy g edit f (src.zipIdx n) a) b = tabGet none f b := by
  induction src generalizing n f with
  | nil => rfl
  | cons x src ih =>
    rw [List.length_cons] at h
    rw [List.zipIdx_cons, slotsCopy_cons, ih (n + 1) _ (by omega), slotsCopy_one_other _ _ _ _ _ (by simp; omega)]

theorem slotsCopy_inside (src : List Nat) (n : Nat) (f : Tab (Option Slot)) {i : Nat} {x : Slot} (h : i < src.length)
    (hx : tabGet none g ((src[i]?).getD 0) = some x) :
    tabGet none (slotsCopy g edit f (src.zipIdx n) a) (a + n + i) = some (edit x) := by
  induction src generalizing n f i with
  | nil => cases h
  | cons y src ih =>
    rw [List.zipIdx_cons, slotsCopy_cons]
    cases i with
    | zero =>
      rw [slotsCopy_outside _ _ _ _ _ _ (.inl (by omega))]
      replace hx : tabGet none g y = some x := hx
      simp only [slotsCopy, List.foldl_cons, List.foldl_nil, hx, Nat.add_zero]
      exact tabGet_put_same _ _ _ _
    | succ i =>
      rw [← ih (n + 1) (slotsCopy g edit f [(y, n)] a) (by simpa using h) (by simpa using hx)]
      congr 1
      omega

end Copy

/-- The tag of a copied slot: a landed copy keeps it with the LJSN of its issue (R136). -/
def copyTag (jsn : Nat) (p : Placement) (x : Slot) : Slot :=
  { x with tag := if p.landed then x.tag.map (fun t => { t with ljsn := jsn }) else none }

theorem flash_copyUnit (j : Nat) (s : State) (u : UnitRef × Nat) (p : Placement) : (copyUnit j s u p).media.flash =
    slotsCopy s.media.flash (copyTag j p) s.media.flash (wordSlots s u.1 u.2).zipIdx p.addr := rfl

/-- The relocation's entry after its copy: it waits for its erase, from the records on. -/
theorem relocs_relocCopied (s : State) (k : Nat) (r : Reloc) (ps : List Placement) (rd : List PageRead) :
    tabGet Reloc.empty (relocCopied s k r ps rd).media.relocs k =
      { r with step := 2, jsn := (relocCopied s k r ps rd).media.jsn } := by
  unfold relocCopied
  dsimp only
  exact tabGet_put_same _ _ _ _

/-! ### The erase -/

section Erase
variable {s : State} {k : Nat} {r : Reloc} (hr : tabGet Reloc.empty s.media.relocs k = r)
include hr

theorem sourceErase_issued (h2 : r.step = 2) (hj : r.jsn ≤ s.media.appliedJsn) (hl : r.lot = none)
    (ht : tailDone s = true) (hn : ∀ b ∈ relocBlocks s r, noReads s b = true) (h5 : r.kind ≠ 5 ∨ relocBlocks s r ≠ [])
    (he : s.media.erasing = []) : exec (.sourceErase k) s = .next
      { s with media := { s.media with relocs := tabDrop s.media.relocs k, erasing := relocBlocks s r } } := by
  have hrow : exec (.sourceErase k) s = execSourceErase k s := rfl
  have hkind : (r.kind != 5 || !(relocBlocks s r).isEmpty) = true := by simpa using h5
  have hquiet : (relocBlocks s r).all (noReads s) = true := List.all_eq_true.mpr hn
  rw [hrow, execSourceErase, hr, when_of (by simp [h2, hj, ht, hquiet, hkind])]
  simp [hl, he]

theorem sourceErase_early (h : s.media.appliedJsn < r.jsn ∨ tailDone s = false) :
    exec (.sourceErase k) s = .next s := by
  subst hr
  refine congrArg _ (when_unless ?_ _ _)
  rcases h with h | h
  · simp [Nat.not_le.mpr h]
  · simp [h]

end Erase

/-- Settles O37: each start by its condition, the copy slot by slot, and the erase once nothing needs the source. -/
theorem relocationsCopyAndErase : Obligations.RelocationsCopyAndErase := by
  unfold Obligations.RelocationsCopyAndErase
  refine ⟨fun s us r g l b ho => ?starts, fun s k i j u p x ps rd => ?copies⟩
  case starts =>
    dsimp only
    refine ⟨fun hw => ⟨fun h hr => foldStart_starts ho hw h hr, fun h hr => foldStart_starts ho hw h hr,
        foldStart_outranked, fun hm hl hb => ⟨fun hage hq => ⟨fun hnone => ?queued, fun vs hsome hr => ?aged⟩,
          foldMaxage_young⟩, gcStart_starts ho hw, gcStart_notDue⟩,
      fun hw => ⟨foldStart_readOnly hw, gcStart_readOnly hw⟩, fun hq hn hr => ⟨refreshStart_lot ho hq hn hr,
        fun hp => ?landing⟩, fun hp h => ?disturbed⟩
    case queued => rw [foldMaxage_old rfl ho hw hm hl hb hage hq rfl, hnone]
    case aged =>
      rw [foldMaxage_old rfl ho hw hm hl hb hage hq rfl, hsome]
      exact congrArg _ (if_pos hr)
    case landing =>
      obtain ⟨vs, hrow⟩ := refreshStart_landing ho hq hn hr hp
      exact ⟨_, hrow, _, startReloc_first hn rfl, rfl, rfl, rfl,
        fun u hu => word_of_mem_withWords (List.mem_of_mem_filter hu)⟩
    case disturbed =>
      exact ⟨_, readDisturbThreshold_queues hp h, getBlk_queueRefresh s b 8, fun c hc => getBlk_setBlk_other s b c _ hc⟩
  case copies =>
    dsimp only
    refine ⟨fun h1 hlen hdest hnodup hrows hpages hok => ⟨?done, relocs_relocCopied s k _ ps rd⟩,
      fun hi hx => ?inside, fun a ha => ?outside, sourceErase_issued rfl, fun _ h => sourceErase_early rfl h⟩
    case done =>
      refine congrArg _ (when_of ?_ _ _)
      simp only [Bool.and_eq_true, beq_iff_eq, decide_eq_true_eq, Bool.or_eq_true, List.all_eq_true]
      exact ⟨⟨⟨⟨⟨⟨h1, hlen⟩, hdest⟩, hnodup⟩, or_assoc.mpr hrows⟩, hpages⟩, hok⟩
    case inside =>
      rw [flash_copyUnit]
      exact slotsCopy_inside _ (copyTag j p) p.addr _ 0 _ hi hx
    case outside =>
      rw [flash_copyUnit]
      exact slotsCopy_outside _ _ _ _ 0 _ ha

end Sys2Proof.Machine
end

section
/-!
SUPPORT. The mapping state: what the records of Table 3.7 make of words, zones and namespaces (R108).
-/
namespace Sys2Proof.Machine

/-! ### Words, zones and namespaces -/

/-- A key that a filter lets no entry of pass is unlisted. -/
theorem tabGet_filter_none {α : Type} (d : α) (p : Nat × α → Bool) (t : Tab α) (k : Nat) (h : ∀ v, p (k, v) = false) :
    tabGet d (t.filter p) k = d := by
  induction t with
  | nil => rfl
  | cons e t ih =>
    obtain ⟨j, v⟩ := e
    rw [List.filter_cons]
    split
    next hp =>
      have hne : j ≠ k := fun hj => by simp [hj, h] at hp
      simp [tabGet, hne, ih]
    next => exact ih

/-- Units of fewer than 49 bits have keys of their own. -/
theorem mapKey_inj {n n' u u' : Nat} (hu : u < 2 ^ 48) (hu' : u' < 2 ^ 48) :
    mapKey n u = mapKey n' u' ↔ n = n' ∧ u = u' := by
  unfold mapKey
  omega

theorem mapKey_nsid {n u : Nat} (hu : u < 2 ^ 48) : mapKey n u / 2 ^ 48 = n := by
  unfold mapKey
  omega

/-- Consecutive units take words. -/
def setWords (m : MapSt) (nsid unit count : Nat) (w : Nat → Nat) : MapSt :=
  (List.range count).foldl (fun m i => setWord m nsid (unit + i) (w i)) m

theorem setWords_succ (m : MapSt) (nsid unit count : Nat) (w : Nat → Nat) :
    setWords m nsid unit (count + 1) w = setWord (setWords m nsid unit count w) nsid (unit + count) (w count) := by
  simp [setWords, List.range_succ]

theorem mapWord_setWord {m : MapSt} {nsid unit n u : Nat} (hu : u < 2 ^ 48) (hunit : unit < 2 ^ 48) (w : Nat) :
    mapWord (setWord m nsid unit w) n u = if n = nsid ∧ u = unit then w else mapWord m n u := by
  split
  next h =>
    obtain ⟨rfl, rfl⟩ := h
    exact tabGet_set_same _ _ _ _
  next h => exact tabGet_set_other _ _ _ _ _ (mt (mapKey_inj hu hunit).mp h)

theorem mapWord_setWords {m : MapSt} {nsid unit count n u : Nat} (hu : u < 2 ^ 48) (hend : unit + count ≤ 2 ^ 48)
    (w : Nat → Nat) : mapWord (setWords m nsid unit count w) n u =
      if n = nsid ∧ unit ≤ u ∧ u < unit + count then w (u - unit) else mapWord m n u := by
  induction count with
  | zero => exact (if_neg (by omega)).symm
  | succ count ih =>
    rw [setWords_succ, mapWord_setWord hu (by omega), ih (by omega)]
    by_cases hlast : n = nsid ∧ u = unit + count
    · rw [if_pos hlast, if_pos (by omega)]
      congr 1
      omega
    · rw [if_neg hlast]
      exact if_congr (by omega) rfl rfl

theorem mapWord_dropNs {m : MapSt} {nsid n u : Nat} (hu : u < 2 ^ 48) :
    mapWord (dropNs m nsid) n u = if n = nsid then 0 else mapWord m n u := by
  split
  next h =>
    subst h
    exact tabGet_filter_none _ _ _ _ fun v => by simp only [mapKey_nsid hu, bne_self_eq_false]
  next h => exact tabGet_filter_other _ _ _ _ fun v => by simpa only [mapKey_nsid hu, bne_iff_ne] using h

/-! ### The records, one by one -/

section Records
variable {m : MapSt} {r : JRec}

theorem applyRec_map (h : r.typ = 0x01) : applyRec m r = setWords m r.nsid r.unit r.count
    (fun i => if mMapped r.entry then r.entry + i * unitSlots (tabGet Ns.empty m.nss r.nsid).lbaf else r.entry) := by
  simp only [applyRec, h]
  rfl

theorem applyRec_unmap (h : r.typ = 0x02) : applyRec m r = setWords m r.nsid r.unit r.count (fun _ => 0) := by
  simp only [applyRec, h]
  rfl

theorem applyRec_zero (h : r.typ = 0x03) : applyRec m r = setWords m r.nsid r.unit r.count (fun _ => zeroWord) := by
  simp only [applyRec, h]
  rfl

theorem applyRec_uncorr (h : r.typ = 0x04) : applyRec m r = setWords m r.nsid r.unit r.count (fun _ => uncorrWord) := by
  simp only [applyRec, h]
  rfl

theorem applyRec_clear (h : r.typ = 0x05) : applyRec m r = dropNs m r.nsid := by
  simp only [applyRec, h]

/-- ZSTATE gives the zone's state, lot and write pointer, whatever becomes of the lot and the landing index. -/
theorem getZone_applyRec_zstate (h : r.typ = 0x12) : getZone (applyRec m r) r.nsid r.unit =
    { lot := bitsOf r.aux 4 24, lotv := bitOf r.aux 25, zs := bitsOf r.aux 0 3, wp := bitsOf r.entry 0 31 } := by
  simp only [applyRec, h]
  split <;> exact tabGet_set_same _ _ _ _

/-- What an NSCREATE record says of its namespace. -/
def createdNs (r : JRec) : Ns :=
  { Ns.empty with
    live := true, nsze := r.unit, ncap := r.aux, lbaf := bitsOf r.entry 0 7 % 16, zoned := bitsOf r.entry 8 15 == 2,
    mirror := bitsOf r.entry 16 23 == 1, home := bitsOf r.entry 24 31, shared := bitOf r.entry 32,
    keyGen := r.jsn, ready := true }

theorem nss_applyRec_create (h : r.typ = 0x30) :
    (applyRec m r).nss = tabSet Ns.empty m.nss r.nsid (createdNs r) := by
  simp only [applyRec, h]
  rfl

theorem applyRec_delete (h : r.typ = 0x31) :
    applyRec m r = { dropNs m r.nsid with nss := tabDrop m.nss r.nsid } := by
  simp only [applyRec, h]
  rfl

theorem getNs_applyRec_attach (h : r.typ = 0x32) {ns : Ns} (hns : tabGet Ns.empty m.nss r.nsid = ns) :
    tabGet Ns.empty (applyRec m r).nss r.nsid = { ns with
      attached := (if r.aux = 0 then (if ns.attached.contains r.unit then ns.attached else ns.attached ++ [r.unit])
        else ns.attached.filter (· != r.unit)) } := by
  subst hns
  simp only [applyRec, h]
  exact tabGet_set_same _ _ _ _

/-- Words set by a record: those of its units, and no other. -/
theorem words_of_setWords {nsid unit count n u : Nat} (hu : u < 2 ^ 48) (hend : unit + count ≤ 2 ^ 48) {t : MapSt}
    {w : Nat → Nat} (h : t = setWords m nsid unit count w) :
    ((n = nsid ∧ unit ≤ u ∧ u < unit + count) → mapWord t n u = w (u - unit)) ∧
      (¬ (n = nsid ∧ unit ≤ u ∧ u < unit + count) → mapWord t n u = mapWord m n u) := by
  rw [h, mapWord_setWords hu hend]
  exact ⟨fun hin => if_pos hin, fun hout => if_neg hout⟩

end Records

end Sys2Proof.Machine
end

section
/-!
SUPPORT. The journal: appended records, journal pages and the checkpoint pass (R106, R107, R110 to R112).
-/
namespace Sys2Proof.Machine

/-! ### Appending -/

/-- A single module appends a record and sends it nowhere. -/
theorem append_single {s : State} (hp : s.pair.state = 0) (r : JRec) : append s [r] = applyReady (appendOwn s r) := by
  simp [append, appendRec, appendOwn, hp]

/-- Where hold-up is healthy and the tail has room, the record appended is durable at once. -/
theorem durableTo_appendOwn {s : State} (hh : s.power.healthy = true)
    (hroom : s.media.jsn < s.media.programmedJsn + tailRecs) (r : JRec) :
    durableTo (appendOwn s r) = s.media.jsn + 1 :=
  (if_pos hh).trans (Nat.min_eq_left hroom)

/-- What is due up to a record is applied. -/
theorem applyReady_to {s : State} {lim : Nat} (h : max (durableTo s) s.media.appliedJsn = lim) :
    (applyReady s).media.appliedJsn = lim ∧ (applyReady s).media.cur =
      (s.media.journal.filter (fun e => decide (s.media.appliedJsn < e.jsn) && decide (e.jsn ≤ lim))).foldl applyRec s.media.cur := by
  subst h
  exact ⟨rfl, rfl⟩

/-- It alone is then due. -/
theorem applyReady_appendOwn {s : State} (hh : s.power.healthy = true) (ha : s.media.appliedJsn = s.media.jsn)
    (hj : ∀ e ∈ s.media.journal, e.jsn ≤ s.media.jsn) (hroom : s.media.jsn < s.media.programmedJsn + tailRecs)
    (r : JRec) : (applyReady (appendOwn s r)).media.appliedJsn = s.media.jsn + 1 ∧
      (applyReady (appendOwn s r)).media.cur = applyRec s.media.cur (numbered s r) := by
  have happ : (appendOwn s r).media.appliedJsn = s.media.jsn := ha
  have hlim : max (durableTo (appendOwn s r)) (appendOwn s r).media.appliedJsn = s.media.jsn + 1 := by
    rw [durableTo_appendOwn hh hroom, happ]
    omega
  have hold : s.media.journal.filter (fun e => decide (s.media.jsn < e.jsn) && decide (e.jsn ≤ s.media.jsn + 1)) = [] :=
    List.filter_eq_nil_iff.mpr fun e he => by simp [Nat.not_lt.mpr (hj e he)]
  have hnew : (numbered s r).jsn = s.media.jsn + 1 := rfl
  have hdue : (appendOwn s r).media.journal.filter (fun e =>
      decide ((appendOwn s r).media.appliedJsn < e.jsn) && decide (e.jsn ≤ s.media.jsn + 1)) = [numbered s r] := by
    have hjournal : (appendOwn s r).media.journal = s.media.journal ++ [numbered s r] := rfl
    rw [happ, hjournal, List.filter_append, hold]
    simp [hnew]
  obtain ⟨happlied, hcur⟩ := applyReady_to hlim
  rw [hdue] at hcur
  exact ⟨happlied, hcur⟩

/-- Where nothing is durable beyond what is applied, nothing is applied. -/
theorem applyReady_idle {s : State} (h : durableTo s ≤ s.media.appliedJsn) :
    (applyReady s).media.cur = s.media.cur ∧ (applyReady s).media.appliedJsn = s.media.appliedJsn := by
  have hlim : max (durableTo s) s.media.appliedJsn = s.media.appliedJsn := Nat.max_eq_right h
  have hdue : s.media.journal.filter (fun e => decide (s.media.appliedJsn < e.jsn) && decide (e.jsn ≤ s.media.appliedJsn)) = [] :=
    List.filter_eq_nil_iff.mpr fun e _ => by simp
  obtain ⟨happlied, hcur⟩ := applyReady_to hlim
  rw [hdue] at hcur
  exact ⟨hcur, happlied⟩

/-! ### What a write to flash leaves alone -/

/-- The part of the media that only records and passes change. -/
structure Window where
  cur        : MapSt
  ckpt       : MapSt
  ckptJsn    : Nat
  journal    : List JRec
  jsn        : Nat
  appliedJsn : Nat
  passAt     : Option Nat

def window (s : State) : Window :=
  ⟨s.media.cur, s.media.ckpt, s.media.ckptJsn, s.media.journal, s.media.jsn, s.media.appliedJsn, s.media.passAt⟩

section Writes
variable (s : State)

/-- A place for pages is taken by opening a block at most. -/
theorem landSpot_opens (pool n : Nat) : ∃ bs fc, (landSpot s pool n).2 =
    { s with freeCount := fc, media := { s.media with blocks := bs } } := by
  unfold landSpot
  split
  · exact ⟨_, _, rfl⟩
  · exact ⟨_, _, rfl⟩

theorem window_landSpot (pool n : Nat) : window (landSpot s pool n).2 = window s := by
  obtain ⟨bs, fc, h⟩ := landSpot_opens s pool n
  rw [h]
  rfl

theorem images_landSpot (pool n : Nat) : (landSpot s pool n).2.media.images = s.media.images := by
  obtain ⟨bs, fc, h⟩ := landSpot_opens s pool n
  rw [h]

theorem window_putRaw (a : Nat) (b : List Byte) : window (putRaw s a b) = window s := rfl
theorem images_putRaw (a : Nat) (b : List Byte) : (putRaw s a b).media.images = s.media.images := rfl

/-- The books take a page. -/
def booked (n : Nat) (l : List JPage) : State := { s with media := { s.media with programmedJsn := n, pages := l } }

theorem window_booked (n : Nat) (l : List JPage) : window (booked s n l) = window s := rfl
theorem images_booked (n : Nat) (l : List JPage) : (booked s n l).media.images = s.media.images := rfl
theorem flash_booked (n : Nat) (l : List JPage) : (booked s n l).media.flash = s.media.flash := rfl
theorem host_booked (n : Nat) (l : List JPage) : (booked s n l).host = s.host := rfl

/-- The records of the next journal page: at most 127, none above the limit. -/
def nextPage (lim : Nat) : List JRec :=
  s.media.journal.filter (fun r => decide (s.media.programmedJsn + 1 ≤ r.jsn) &&
    decide (r.jsn ≤ min lim (s.media.programmedJsn + 127)))

/-- Record 0 of the last page programmed. -/
def lastPage : Nat := match s.media.pages.getLast? with | some p => p.jsn | none => 0

theorem programPage_eq (pool lim : Nat) : programPage s pool lim =
    (let u := putRaw (landSpot s pool 1).2 (landSpot s pool 1).1
        (pageBytes (s.media.programmedJsn + 1) (lastPage s) (nextPage s lim))
     booked u (min lim (s.media.programmedJsn + 127)) (u.media.pages ++
       [⟨(landSpot s pool 1).1, s.media.programmedJsn + 1, (nextPage s lim).length, lastPage s⟩])) := rfl

theorem window_programPage (pool lim : Nat) : window (programPage s pool lim) = window s := by
  rw [programPage_eq, window_booked, window_putRaw, window_landSpot]

theorem images_programPage (pool lim : Nat) : (programPage s pool lim).media.images = s.media.images := by
  rw [programPage_eq, images_booked, images_putRaw, images_landSpot]

theorem programTail_keeps (pool lim n : Nat) : window (programTail pool lim n s) = window s ∧
    (programTail pool lim n s).media.images = s.media.images := by
  induction n generalizing s with
  | zero => exact ⟨rfl, rfl⟩
  | succ n ih =>
    rw [programTail]
    split
    · rw [(ih _).1, (ih _).2, window_programPage, images_programPage]
      exact ⟨rfl, rfl⟩
    · exact ⟨rfl, rfl⟩

end Writes

/-! ### Journal pages -/

theorem recBytes_length (r : JRec) : (recBytes r).length = 32 := by simp [recBytes]

/-- 127 records and a header fill 4 KiB. -/
theorem pageBytes_length (jsn prev : Nat) {rs : List JRec} (h : rs.length ≤ 127) :
    (pageBytes jsn prev rs).length = 4096 := by
  have hrecs : (rs.map recBytes).flatten.length = 32 * rs.length := by
    simp [List.length_flatten, Function.comp_def, recBytes_length, mul_comm]
  simp [pageBytes, padTo, hrecs]
  omega

/-- A page of 4 KiB takes one slot. -/
theorem putRaw_page {s : State} {b : List Byte} (h : b.length = 4096) (a : Nat) : putRaw s a b =
    { s with
      media := { s.media with flash := tabPut s.media.flash a (some { data := b, key := 0, tag := none, time := s.nowMs }) }
      host := { s.host with bytesMedia := s.host.bytesMedia + 4096 } } := by
  have hn : ceilDiv b.length 4096 = 1 := by simp [ceilDiv, h]
  have hb : (b.drop (0 * 4096)).take 4096 = b := by
    rw [Nat.zero_mul, List.drop_zero]
    exact List.take_of_length_le (Nat.le_of_eq h)
  unfold putRaw
  dsimp only
  rw [hn, Nat.one_mul, List.range_one, List.foldl_cons, List.foldl_nil, hb]
  rfl

theorem programmedJsn_programPage (s : State) (pool lim : Nat) :
    (programPage s pool lim).media.programmedJsn = min lim (s.media.programmedJsn + 127) := by
  rw [programPage_eq]
  rfl

theorem pages_programPage (s : State) (pool lim : Nat) : (programPage s pool lim).media.pages = s.media.pages ++
    [⟨(landSpot s pool 1).1, s.media.programmedJsn + 1, (nextPage s lim).length, lastPage s⟩] := by
  have hput (u : State) (a : Nat) (b : List Byte) : (putRaw u a b).media.pages = u.media.pages := rfl
  have hbook (u : State) (n : Nat) (l : List JPage) : (booked u n l).media.pages = l := rfl
  obtain ⟨bs, fc, hspot⟩ := landSpot_opens s pool 1
  have hpages : (landSpot s pool 1).2.media.pages = s.media.pages := by rw [hspot]
  rw [programPage_eq, hbook, hput, hpages]

/-- Its slot holds the page, and no other slot changes. -/
theorem programPage_writes (s : State) (pool lim : Nat) (h : (nextPage s lim).length ≤ 127) :
    (programPage s pool lim).host.bytesMedia = s.host.bytesMedia + 4096 ∧
      (programPage s pool lim).media.flash = tabPut s.media.flash (landSpot s pool 1).1 (some
        { data := pageBytes (s.media.programmedJsn + 1) (lastPage s) (nextPage s lim), key := 0, tag := none, time := s.nowMs }) := by
  obtain ⟨bs, fc, hspot⟩ := landSpot_opens s pool 1
  have hlen := pageBytes_length (s.media.programmedJsn + 1) (lastPage s) h
  rw [programPage_eq, flash_booked, host_booked]
  generalize pageBytes (s.media.programmedJsn + 1) (lastPage s) (nextPage s lim) = b at hlen ⊢
  rw [putRaw_page hlen, hspot]
  exact ⟨rfl, rfl⟩

theorem durableTo_of_insufficient {s : State} (h : s.power.healthy = false) : durableTo s = s.media.programmedJsn :=
  if_neg (by simp [h])

/-! ### The checkpoint pass -/

/-- An image of an object stands among the images of a pass. -/
def imaged (m : MapSt) (jsn : Nat) (l : List CkImage) (o : CkObj) : Prop :=
  ∃ i ∈ l, i.obj = o ∧ i.jsn = jsn ∧ i.part = partOf m o

section Images
variable (m : MapSt) (jsn : Nat) (s : State)

/-- The images that a new one of an object leaves: those of other objects, and the last of its own. -/
def imagesKept (l : List CkImage) (o : CkObj) : List CkImage :=
  l.filter (fun i => i.obj != o || ((l.filter (fun i => i.obj == o)).reverse.take 1).contains i)

/-- The images of a pass are listed. -/
def pictured (s : State) (l : List CkImage) : State := { s with media := { s.media with images := l } }

theorem window_pictured (l : List CkImage) : window (pictured s l) = window s := rfl
theorem images_pictured (l : List CkImage) : (pictured s l).media.images = l := rfl
theorem window_draw : window (draw s) = window s := rfl
theorem images_draw : (draw s).media.images = s.media.images := rfl

/-- A pass writes an image to the checkpoint area and lists it. -/
theorem writeImage_eq (o : CkObj) : ∃ a b n g,
    let u := putRaw (draw (landSpot s 5 n).2) a b
    writeImage m jsn s o = pictured u
      (imagesKept u.media.images o ++
        [{ obj := o, jsn := jsn, addr := a, part := partOf m o, gdl := g }]) := ⟨_, _, _, _, rfl⟩

theorem window_writeImage (o : CkObj) : window (writeImage m jsn s o) = window s := by
  obtain ⟨a, b, n, g, h⟩ := writeImage_eq m jsn s o
  rw [h, window_pictured, window_putRaw, window_draw, window_landSpot]

theorem images_writeImage (o : CkObj) : ∃ a g, (writeImage m jsn s o).media.images =
    imagesKept s.media.images o ++
      [{ obj := o, jsn := jsn, addr := a, part := partOf m o, gdl := g }] := by
  obtain ⟨a, b, n, g, h⟩ := writeImage_eq m jsn s o
  refine ⟨a, g, ?_⟩
  rw [h, images_pictured, images_putRaw, images_draw, images_landSpot]

theorem imaged_writeImage_same (o : CkObj) : imaged m jsn (writeImage m jsn s o).media.images o := by
  obtain ⟨a, g, h⟩ := images_writeImage m jsn s o
  rw [h]
  exact ⟨_, List.mem_append_right _ (List.mem_singleton.mpr rfl), rfl, rfl, rfl⟩

theorem imaged_writeImage {s : State} {o : CkObj} (ho : imaged m jsn s.media.images o) (o' : CkObj) :
    imaged m jsn (writeImage m jsn s o').media.images o := by
  by_cases hne : o = o'
  · rw [hne]
    exact imaged_writeImage_same m jsn s o'
  · obtain ⟨i, hi, hobj, himage⟩ := ho
    obtain ⟨a, g, h⟩ := images_writeImage m jsn s o'
    rw [h]
    exact ⟨i, List.mem_append_left _ (List.mem_filter.mpr ⟨hi, by simp [hobj, hne]⟩), hobj, himage⟩

theorem imaged_writeImages (os : List CkObj) (o : CkObj) (h : o ∈ os ∨ imaged m jsn s.media.images o) :
    imaged m jsn (os.foldl (writeImage m jsn) s).media.images o := by
  induction os generalizing s with
  | nil => exact h.resolve_left List.not_mem_nil
  | cons o' os ih =>
    refine ih _ ?_
    rcases h with h | h
    · rcases List.mem_cons.mp h with rfl | h
      · exact .inr (imaged_writeImage_same m jsn s o)
      · exact .inl h
    · exact .inr (imaged_writeImage m jsn h o')

theorem window_writeImages (os : List CkObj) : window (os.foldl (writeImage m jsn) s) = window s := by
  induction os generalizing s with
  | nil => rfl
  | cons o os ih => rw [List.foldl_cons, ih, window_writeImage]

end Images

theorem nowMs_of_still {s t : State} (h : still t = still s) : t.nowMs = s.nowMs := congrArg Still.nowMs h
theorem power_of_still {s t : State} (h : still t = still s) : t.power = s.power := congrArg Still.power h

/-- A commit to the logbook leaves the media alone. -/
theorem media_commitAt (s : State) (sec line : Nat) : (commitAt s sec line).media = s.media := by
  obtain ⟨lb, h⟩ := commitAt_logbook s sec line
  rw [h]
  simp

/-- What the pass keeps once its images stand. -/
def passKept (s : State) : State :=
  { s with media := { s.media with
      ckpt := s.media.cur, ckptJsn := s.media.appliedJsn, programmedJsn := max s.media.programmedJsn s.media.appliedJsn
      journal := s.media.journal.filter (fun r => decide (s.media.appliedJsn < r.jsn)), passAt := some s.nowMs } }

/-- The record that marks a pass of `n` images. -/
def passMark (s : State) (n : Nat) (clean : Bool) : JRec :=
  { jrec 0x40 0 n 0 0 (s.media.appliedJsn + 1) with flags := 2 * b2n clean }

/-- The pass named by the map root. -/
def passRooted (s : State) (start : Nat) (clean : Bool) : State :=
  { s with media := { s.media with
      cleanStop := clean, root := newRoot s (start + 1), pages := s.media.pages.filter (fun p => decide (start < p.jsn + p.nrec)) } }

/-- The state of a pass once its images stand. -/
def passImages (s : State) : State :=
  (dirtyObjects (applyReady s)).foldl (writeImage (applyReady s).media.cur (applyReady s).media.appliedJsn) (applyReady s)

/-- A pass in its stages: images, record, journal pages, map root. -/
theorem checkpoint_eq (s : State) (clean : Bool) : checkpoint s clean =
    (let w := passImages s
     let n := (dirtyObjects (applyReady s)).length
     commitAt (passRooted (programAll (append (passKept w) [passMark w n clean])) w.media.appliedJsn clean) 5 rootLine) := by
  unfold checkpoint passImages
  extract_lets k os w m kept mark marked paged books rooted w' n
  have hw : w' = w := rfl
  have hn : n = os.length := rfl
  clear_value w' n w os
  subst hw hn
  have hpaged : programAll (append (passKept w') [passMark w' os.length clean]) = paged := rfl
  rw [hpaged]
  clear_value paged
  rfl

/-- Programming and applying the whole tail keeps the records, the images and what the pass kept. -/
theorem programAll_keeps (s : State) : (programAll s).media.ckpt = s.media.ckpt ∧
    (programAll s).media.ckptJsn = s.media.ckptJsn ∧ (programAll s).media.journal = s.media.journal ∧
    (programAll s).media.jsn = s.media.jsn ∧ (programAll s).media.passAt = s.media.passAt ∧
    (programAll s).media.images = s.media.images := by
  obtain ⟨hwindow, himages⟩ := programTail_keeps s 2 s.media.jsn (s.media.jsn - s.media.programmedJsn)
  exact ⟨congrArg Window.ckpt hwindow, congrArg Window.ckptJsn hwindow, congrArg Window.journal hwindow,
    congrArg Window.jsn hwindow, congrArg Window.passAt hwindow, himages⟩

/-- The images of a pass leave the map, the journal and the pair as the records due left them. -/
theorem passImages_keeps (s : State) : window (passImages s) = window (applyReady s) ∧
    still (passImages s) = still s :=
  ⟨window_writeImages _ _ _ _, (still_foldl (still_writeImage · _ _) _ _).trans (still_applyReady s)⟩

/-- What the record and its page leave of a pass by a single module. -/
theorem passMarked_keeps {w : State} (hp : w.pair.state = 0) (r : JRec) :
    let u := programAll (append (passKept w) [r])
    u.media.ckpt = w.media.cur ∧ u.media.ckptJsn = w.media.appliedJsn ∧ u.media.passAt = some w.nowMs ∧
      u.media.jsn = w.media.jsn + 1 ∧ u.media.images = w.media.images ∧ numbered (passKept w) r ∈ u.media.journal := by
  intro u
  have happend : append (passKept w) [r] = applyReady (appendOwn (passKept w) r) := append_single (s := passKept w) hp r
  obtain ⟨hckpt, hckptJsn, hjournal, hjsn, hpassAt, himages⟩ := programAll_keeps (append (passKept w) [r])
  rw [happend] at hckpt hckptJsn hjournal hjsn hpassAt himages
  have hmark : numbered (passKept w) r ∈ (applyReady (appendOwn (passKept w) r)).media.journal :=
    List.mem_append_right _ (List.mem_singleton.mpr rfl)
  simp only [u, happend]
  exact ⟨hckpt, hckptJsn, hpassAt, hjsn, himages, hjournal ▸ hmark⟩

/-- What a checkpoint pass of a single module leaves. -/
theorem checkpoint_passes {s : State} (hp : s.pair.state = 0) {k : State} (hk : applyReady s = k) :
    let c := checkpoint s false
    c.media.ckpt = k.media.cur ∧ c.media.ckptJsn = k.media.appliedJsn ∧ c.media.passAt = some s.nowMs ∧
      c.media.cleanStop = false ∧ c.media.jsn = s.media.jsn + 1 ∧ c.media.root.start = k.media.appliedJsn + 1 ∧
      (∃ r ∈ c.media.journal, r.typ = 0x40 ∧ r.jsn = s.media.jsn + 1 ∧ r.aux = k.media.appliedJsn + 1 ∧
        r.unit = (dirtyObjects k).length) ∧
      ∀ o ∈ dirtyObjects k, imaged k.media.cur k.media.appliedJsn c.media.images o := by
  have hkjsn : k.media.jsn = s.media.jsn := hk ▸ rfl
  have himaged (o : CkObj) (ho : o ∈ dirtyObjects k) :
      imaged k.media.cur k.media.appliedJsn (passImages s).media.images o := by
    rw [passImages, hk]
    exact imaged_writeImages _ _ _ _ _ (.inl ho)
  obtain ⟨hwindow, hstill⟩ := passImages_keeps s
  have hcheckpoint := checkpoint_eq s false
  rw [hk] at hwindow hcheckpoint
  generalize passImages s = w at hwindow hstill hcheckpoint himaged
  obtain ⟨hcur, -, -, -, hjsn, happlied, -⟩ : w.media.cur = k.media.cur ∧ w.media.ckpt = k.media.ckpt ∧
      w.media.ckptJsn = k.media.ckptJsn ∧ w.media.journal = k.media.journal ∧ w.media.jsn = k.media.jsn ∧
      w.media.appliedJsn = k.media.appliedJsn ∧ w.media.passAt = k.media.passAt := by
    simpa only [window, Window.mk.injEq] using hwindow
  obtain ⟨hckpt, hckptJsn, hpassAt, hnext, himages, hmark⟩ :=
    passMarked_keeps ((pairState_of_still hstill).trans hp) (passMark w (dirtyObjects k).length false)
  have hmedia : (checkpoint s false).media = (passRooted (programAll (append (passKept w)
      [passMark w (dirtyObjects k).length false])) w.media.appliedJsn false).media := by
    rw [hcheckpoint, media_commitAt]
  generalize programAll (append (passKept w) [passMark w (dirtyObjects k).length false]) = u at *
  intro c
  rw [nowMs_of_still hstill] at hpassAt
  rw [hjsn, hkjsn] at hnext
  simp only [c, hmedia]
  refine ⟨hckpt.trans hcur, hckptJsn.trans happlied, hpassAt, rfl, hnext, congrArg (· + 1) happlied,
    ⟨_, hmark, rfl, ?_, congrArg (· + 1) happlied, rfl⟩, fun o ho => ?_⟩
  · exact congrArg (· + 1) (hjsn.trans hkjsn)
  · have hkept : (passRooted u w.media.appliedJsn false).media.images = u.media.images := rfl
    rw [hkept, himages]
    exact himaged o ho

/-! ### The rows -/

theorem journalPageProgram_programs {s : State} (h : s.media.programmedJsn < s.media.jsn) :
    exec .journalPageProgram s =
      .next (resumeHeld (settlePacing (settleWindow (closeDue (applyReady (programPage s 2 s.media.jsn)))))) := by
  have hrow : exec .journalPageProgram s = execJournalPageProgram s := rfl
  rw [hrow, execJournalPageProgram, when_of (decide_eq_true h)]

theorem journalPageProgram_idle {s : State} (h : s.media.jsn ≤ s.media.programmedJsn) :
    exec .journalPageProgram s = .next s := by
  have hrow : exec .journalPageProgram s = execJournalPageProgram s := rfl
  rw [hrow, execJournalPageProgram, when_unless (decide_eq_false (Nat.not_lt.mpr h))]

/-- A pass may start: the map is restored, and the last pass began 8 s ago or more (R110). -/
theorem checkpointPass_due {s : State} (hr : s.media.ready = true) (h : ∀ t, s.media.passAt = some t → t + 8000 ≤ s.nowMs) :
    exec .checkpointPass s = .next (if commitWorn s 5 rootLine then logPel s "map root line worn" rootLine 0
      else resumeHeld (settleWindow (closeDue (checkpoint s false)))) := by
  refine congrArg _ (when_of ?_ _ _)
  rw [hr, Bool.true_and]
  split
  next t ht => exact decide_eq_true (h t ht)
  next => rfl

theorem checkpointPass_early {s : State} {t : Nat} (ht : s.media.passAt = some t) (h : s.nowMs < t + 8000) :
    exec .checkpointPass s = .next s := by
  refine congrArg _ (when_unless ?_ _ _)
  simp only [ht, decide_eq_false (Nat.not_le.mpr h), Bool.and_false]

/-- Settles O27: the records by type, the appended record by what is durable, the page slot by slot, and the pass
stage by stage. -/
theorem journalRecordsAndPages : Obligations.JournalRecordsAndPages := by
  unfold Obligations.JournalRecordsAndPages
  refine ⟨fun m r n u hu hend => ?records, fun s r hp => ?appends, fun s => ?pages⟩
  case records =>
    refine ⟨fun h hm => ?map, fun h hm => ?mark, fun h => words_of_setWords hu hend (applyRec_unmap h),
      fun h => words_of_setWords hu hend (applyRec_zero h), fun h => words_of_setWords hu hend (applyRec_uncorr h),
      fun h => ?clear, getZone_applyRec_zstate, fun h => ?create, fun h => ?delete, fun h h0 => ?attach,
      fun h h0 => ?detach⟩
    case map => simpa only [hm, if_true] using words_of_setWords (n := n) hu hend (applyRec_map (m := m) h)
    case mark =>
      simpa only [hm, Bool.false_eq_true, if_false] using words_of_setWords (n := n) hu hend (applyRec_map (m := m) h)
    case clear => rw [applyRec_clear h, mapWord_dropNs hu]
    case create =>
      rw [nss_applyRec_create h, tabGet_set_same]
      exact ⟨rfl, rfl, rfl, rfl, rfl, rfl, rfl, fun hn => tabGet_set_other _ _ _ _ _ hn⟩
    case delete =>
      rw [applyRec_delete h]
      exact ⟨tabDrop_get_same _ _ _, fun hn => (mapWord_dropNs hu).trans (if_pos hn)⟩
    case attach => rw [getNs_applyRec_attach h rfl, if_pos h0]
    case detach => rw [getNs_applyRec_attach h rfl, if_neg h0]
  case appends =>
    rw [append_single hp]
    refine ⟨rfl, rfl, rfl, fun hh ha hj hroom => applyReady_appendOwn hh ha hj hroom r, fun hh ha => ?_, rfl⟩
    exact applyReady_idle (s := appendOwn s r) ((durableTo_of_insufficient (s := appendOwn s r) hh).le.trans ha.le)
  case pages =>
    dsimp only
    have hwindow := window_programPage s 2 s.media.jsn
    refine ⟨fun h => ?program, journalPageProgram_idle, fun hr hpass => ⟨fun hworn hp => ?pass, fun hworn => ?worn⟩,
      fun t ht h => checkpointPass_early ht h⟩
    case program =>
      refine ⟨journalPageProgram_programs h, programmedJsn_programPage s 2 _,
        congrArg Window.journal hwindow, congrArg Window.jsn hwindow, congrArg Window.cur hwindow,
        pages_programPage s 2 _, fun hlen => ?_, ?_, fun hh => ?_⟩
      · obtain ⟨hbytes, hflash⟩ := programPage_writes s 2 s.media.jsn hlen
        refine ⟨hbytes, ?_, fun b hb => ?_⟩
        · exact (congrArg (tabGet none · (landSpot s 2 1).1) hflash).trans (tabGet_put_same _ _ _ _)
        · exact (congrArg (tabGet none · b) hflash).trans (tabGet_put_other _ _ _ _ _ hb)
      · exact congrArg (max (durableTo (programPage s 2 s.media.jsn))) (congrArg Window.appliedJsn hwindow)
      · have hpower : (programPage s 2 s.media.jsn).power = s.power := power_of_still (still_programPage s 2 _)
        exact (durableTo_of_insufficient (hpower ▸ hh)).trans (programmedJsn_programPage s 2 _)
    case pass =>
      refine ⟨?_, checkpoint_passes hp rfl⟩
      rw [checkpointPass_due hr hpass, if_neg (by simp [hworn])]
    case worn => rw [checkpointPass_due hr hpass, if_pos hworn]

end Sys2Proof.Machine
end

section
/-!
SUPPORT. What the berth pool and the harbour master leave alone: all of the module but the host interface, the pool and
its berths, threads and cores, the engines' messages and the fault records; and of the dictionary all but the books of
indices 0x6000 to 0x7FFF, which hold their counters.
-/
namespace Sys2Proof.Machine

/-! ### Dictionary entries of other indices -/

/-- An entry of an index outside 0x6000 to 0x7FFF. -/
def offHarbour (e : Nat × Nat) : Bool := decide (e.1 < dk 0x6000 0) || decide (dk 0x8000 0 ≤ e.1)

section Filters
variable {α : Type} {p : Nat × α → Bool} {k : Nat}

/-- An entry that a filter drops may be written without what passes changing. -/
theorem filter_tabPut_dropped (h : ∀ v, p (k, v) = false) (t : Tab α) (v : α) :
    (tabPut t k v).filter p = t.filter p := by
  induction t with
  | nil => simp [tabPut, h]
  | cons e t ih =>
    obtain ⟨j, w⟩ := e
    simp only [tabPut]
    split
    · rw [List.filter_cons_of_neg (by simp [h])]
    · split
      next hj =>
        subst hj
        rw [List.filter_cons_of_neg (by simp [h]), List.filter_cons_of_neg (by simp [h])]
      next => rw [List.filter_cons, List.filter_cons, ih]

theorem filter_tabDrop_dropped (h : ∀ v, p (k, v) = false) (t : Tab α) : (tabDrop t k).filter p = t.filter p := by
  induction t with
  | nil => rfl
  | cons e t ih =>
    obtain ⟨j, w⟩ := e
    simp only [tabDrop]
    split
    next hj =>
      subst hj
      rw [ih, List.filter_cons_of_neg (by simp [h])]
    next => rw [List.filter_cons, List.filter_cons, ih]

/-- An entry that passes is found as before. -/
theorem tabFind_filter_passed (h : ∀ v, p (k, v) = true) (t : Tab α) : tabFind (t.filter p) k = tabFind t k := by
  induction t with
  | nil => rfl
  | cons e t ih =>
    obtain ⟨j, w⟩ := e
    by_cases hj : j = k
    · subst hj
      rw [List.filter_cons_of_pos (h w)]
      simp [tabFind]
    · rw [List.filter_cons]
      split
      · simp only [tabFind, if_neg hj, ih]
      · rw [ih, tabFind, if_neg hj]

end Filters

/-! ### The view -/

/-- What stays as it is while berths, threads and cores change hands. -/
structure Ashore where
  nowMs     : Nat
  uptime    : Nat
  freeCount : Nat
  prog      : Programs
  media     : Media
  customs   : Customs
  tally     : Tally
  power     : Power
  pair      : Pair
  logbook   : Logbook
  mgmt      : Mgmt
  service   : Service
  entries   : Tab Nat

def ashore (s : State) : Ashore :=
  ⟨s.nowMs, s.uptime, s.freeCount, s.prog, s.media, s.customs, s.tally, s.power, s.pair, s.logbook, s.mgmt, s.service,
    s.dict.filter offHarbour⟩

@[simp] theorem ashore_mk (pending : List Instr) (out : List Out) (nowMs uptime freeCount : Nat) (dict : Tab Nat)
    (faults : List FaultRec) (faultSeq : Nat) (pel : List PelEnt) (host : HostIf) (prog : Programs) (media : Media)
    (pool : Pool) (dram : Tab Byte) (hm : Harbour) (ik : Ikixa) (customs : Customs) (eng : Engines) (tally : Tally)
    (power : Power) (pair : Pair) (logbook : Logbook) (mgmt : Mgmt) (service : Service) :
    ashore ⟨pending, out, nowMs, uptime, freeCount, dict, faults, faultSeq, pel, host, prog, media, pool, dram, hm,
      ik, customs, eng, tally, power, pair, logbook, mgmt, service⟩ =
    ⟨nowMs, uptime, freeCount, prog, media, customs, tally, power, pair, logbook, mgmt, service,
      dict.filter offHarbour⟩ := rfl

/-- Read back from the fields of one state, it is that state's. -/
@[simp] theorem ashore_eta (s : State) :
    (⟨s.nowMs, s.uptime, s.freeCount, s.prog, s.media, s.customs, s.tally, s.power, s.pair, s.logbook, s.mgmt,
      s.service, s.dict.filter offHarbour⟩ : Ashore) = ashore s := rfl

@[simp] theorem ashore_ite (c : Prop) [Decidable c] (a b : State) :
    ashore (if c then a else b) = if c then ashore a else ashore b := apply_ite ashore c a b

@[simp] theorem ashore_foldl {α : Type} {f : State → α → State} (h : ∀ s x, ashore (f s x) = ashore s) (l : List α)
    (s : State) : ashore (l.foldl f s) = ashore s := by
  induction l generalizing s with
  | nil => rfl
  | cons x l ih => rw [List.foldl_cons, ih, h]

section Read
variable {s t : State} (h : ashore t = ashore s)
include h

theorem service_of_ashore : t.service = s.service := congrArg Ashore.service h

theorem dget_of_ashore {i sub : Nat} (hs : sub < 256) (hi : i < 0x6000 ∨ 0x8000 ≤ i) : dget t i sub = dget s i sub := by
  have hpasses (v : Nat) : offHarbour (dk i sub, v) = true := by
    simp only [offHarbour, Bool.or_eq_true, decide_eq_true_eq]
    unfold dk
    omega
  have hpower : t.power = s.power := congrArg Ashore.power h
  have hentries : t.dict.filter offHarbour = s.dict.filter offHarbour := congrArg Ashore.entries h
  have hfind : tabFind t.dict (dk i sub) = tabFind s.dict (dk i sub) := by
    rw [← tabFind_filter_passed hpasses t.dict, hentries, tabFind_filter_passed hpasses]
  simp only [dget, entryDefault, hfind, hpower]

end Read

section Ashore
variable (s : State)

/-! ### Entries, logs and tables -/

@[simp] theorem ashore_dset (i sub v : Nat) (hs : sub < 256) (hi : 0x6000 ≤ i) (hi2 : i < 0x8000) :
    ashore (dset s i sub v) = ashore s := by
  have hdropped (w : Nat) : offHarbour (dk i sub, w) = false := by
    simp only [offHarbour, Bool.or_eq_false_iff, decide_eq_false_iff_not]
    unfold dk
    omega
  have hentries : (dset s i sub v).dict.filter offHarbour = s.dict.filter offHarbour := by
    unfold dset
    dsimp only
    split
    · exact filter_tabDrop_dropped hdropped _
    · exact filter_tabPut_dropped hdropped _ _
  rw [ashore, hentries]
  rfl

@[simp] theorem ashore_bump (i sub n : Nat) (hs : sub < 256) (hi : 0x6000 ≤ i) (hi2 : i < 0x8000) :
    ashore (bump s i sub n) = ashore s := ashore_dset s i sub _ hs hi hi2

@[simp] theorem ashore_emit (o : Out) : ashore (emit s o) = ashore s := rfl
@[simp] theorem ashore_logFault (space kind code : Nat) (th : Option Nat) (a : W64) (ch port : Nat) :
    ashore (logFault s space kind code th a ch port) = ashore s := by
  unfold logFault
  split
  next hspace => exact ashore_bump _ _ _ _ (by omega) (by omega) (by omega)
  next => rfl
@[simp] theorem ashore_modDk (d : Nat) (g : Docket → Docket) : ashore (modDk s d g) = ashore s := rfl
@[simp] theorem ashore_setThr (t : Nat) (x : Thread) : ashore (setThr s t x) = ashore s := rfl
@[simp] theorem ashore_modThr (t : Nat) (g : Thread → Thread) : ashore (modThr s t g) = ashore s := rfl
@[simp] theorem ashore_modCore (c : Nat) (g : Core → Core) : ashore (modCore s c g) = ashore s := rfl
@[simp] theorem ashore_setLease (c : Nat) (l : CoreLease) : ashore (setLease s c l) = ashore s := rfl
@[simp] theorem ashore_setChan (k : Nat) (c : Chan) : ashore (setChan s k c) = ashore s := by simp [setChan]
@[simp] theorem ashore_setBerth (a : Nat) (b : Berth) : ashore (setBerth s a b) = ashore s := rfl
@[simp] theorem ashore_setStack (far : Bool) (l : List Nat) : ashore (setStack s far l) = ashore s := by
  cases far <;> rfl
@[simp] theorem ashore_setWaitQ (far : Bool) (l : List Waiter) : ashore (setWaitQ s far l) = ashore s := by
  cases far <;> rfl
@[simp] theorem ashore_pushHeld (w : Waiter) : ashore (pushHeld s w) = ashore s := rfl
@[simp] theorem ashore_dropHeld (w : Waiter) : ashore (dropHeld s w) = ashore s := rfl
@[simp] theorem ashore_pushWait (far : Bool) (w : Waiter) : ashore (pushWait s far w) = ashore s :=
  ashore_setWaitQ s far _
@[simp] theorem ashore_pushReady (t : Nat) (p : Place) : ashore (pushReady s t p) = ashore s := rfl
@[simp] theorem ashore_pushRing (e : RingEnt) : ashore (pushRing s e) = ashore s := rfl
@[simp] theorem ashore_unready (t : Nat) : ashore (unready s t) = ashore s := rfl
@[simp] theorem ashore_stampReady (t : Nat) : ashore (stampReady s t) = ashore s := rfl
@[simp] theorem ashore_noteConsumers (l : List Nat) (t : Nat) : ashore (noteConsumers s l t) = ashore s := rfl
@[simp] theorem ashore_zeroCore (c : Nat) : ashore (zeroCore s c) = ashore s := rfl

/-! ### Berths, windows and leases -/

@[simp] theorem ashore_noteLow (far : Bool) : ashore (noteLow s far) = ashore s := by simp [noteLow]
@[simp] theorem ashore_poolStore (far : Bool) (a : Nat) : ashore (poolStore s far a) = ashore s := by simp [poolStore]

theorem ashore_poolTake {s u : State} {far : Bool} {tag a : Nat} (h : poolTake s far tag = some (a, u)) :
    ashore u = ashore s := by
  unfold poolTake at h
  dsimp only at h
  repeat' split at h
  all_goals cases h
  all_goals simp

@[simp] theorem ashore_winWrite (t off : Nat) (b : List Byte) : ashore (winWrite s t off b) = ashore s := by
  simp [winWrite]
@[simp] theorem ashore_deliver (t r : Nat) (w : W64) : ashore (deliver s t r w) = ashore s := by simp [deliver]
@[simp] theorem ashore_saveGot (t a : Nat) : ashore (saveGot s t a) = ashore s := by simp [saveGot]
@[simp] theorem ashore_saveAsk (t : Nat) : ashore (saveAsk s t) = ashore s := by
  unfold saveAsk
  dsimp only
  split
  · simp
  · split
    next h => rw [ashore_saveGot, ashore_poolTake h]
    next => simp
@[simp] theorem ashore_saveAsks (t : Nat) : ashore (saveAsks s t) = ashore s := by simp [saveAsks]
@[simp] theorem ashore_finishChange (c : Nat) (sp : Option Nat) : ashore (finishChange s c sp) = ashore s := by
  simp [finishChange]
@[simp] theorem ashore_settleChange (c : Nat) : ashore (settleChange s c) = ashore s := by
  unfold settleChange
  dsimp only
  split <;> simp
@[simp] theorem ashore_startChange (c : Nat) (sp : Option Nat) : ashore (startChange s c sp) = ashore s := by
  simp [startChange]

/-! ### Threads and tokens -/

@[simp] theorem ashore_dispatch (c t : Nat) : ashore (dispatch s c t) = ashore s := by
  unfold dispatch
  dsimp only
  split <;> simp
@[simp] theorem ashore_enterList (d t : Nat) (r : Bool) : ashore (enterList s d t r) = ashore s := by
  unfold enterList
  dsimp only
  split <;> simp
@[simp] theorem ashore_place (t : Nat) : ashore (place s t) = ashore s := by simp [place, enterCluster]
@[simp] theorem ashore_makeReady (t : Nat) : ashore (makeReady s t) = ashore s := by simp [makeReady]
@[simp] theorem ashore_trimIdle (k port : Nat) : ashore (trimIdle s k port) = ashore s := by simp [trimIdle]
@[simp] theorem ashore_consume (t port : Nat) : ashore (consume s t port) = ashore s := by simp [consume]
@[simp] theorem ashore_matchChan (k port : Nat) : ashore (matchChan s k port) = ashore s := by simp [matchChan]
@[simp] theorem ashore_postApply (port sp ch q : Nat) (m : Bool) : ashore (postApply s port sp ch q m) = ashore s := by
  simp [postApply, applyPost]
@[simp] theorem ashore_postToken (port sp ch q : Nat) (m : Bool) : ashore (postToken s port sp ch q m) = ashore s := by
  unfold postToken
  split <;> simp
@[simp] theorem ashore_chooseFor (c : Nat) : ashore (chooseFor s c) = ashore s := by
  unfold chooseFor
  repeat' split
  all_goals simp

/-! ### Requests and replies -/

/-- The checks of Table 5.5 give codes 0 to 7. -/
theorem berthCheck_le (port tag : Nat) (r : BerthReq) : berthCheck s port tag r ≤ 7 := by
  unfold berthCheck
  dsimp only
  repeat' split
  all_goals omega

@[simp] theorem ashore_countCode {code : Nat} (h : code ≤ 7) : ashore (countCode s code) = ashore s := by
  unfold countCode
  split
  · rfl
  · exact ashore_bump _ _ _ _ (by omega) (by omega) (by omega)
@[simp] theorem ashore_berthReply (who : Requester) (tag : Nat) (r : BerthReq) (w : W64) :
    ashore (berthReply s who tag r w) = ashore s := by simp [berthReply]
@[simp] theorem ashore_allocGot (far : Bool) (a : Nat) (w : Waiter) : ashore (allocGot s far a w) = ashore s := by
  simp [allocGot]
@[simp] theorem ashore_admitHeld (far : Bool) : ashore (admitHeld s far) = ashore s := by
  unfold admitHeld
  split <;> simp
@[simp] theorem ashore_berthFreed (a : Nat) : ashore (berthFreed s a) = ashore s := by
  unfold berthFreed
  dsimp only
  repeat' split
  all_goals simp [grantBerth]
@[simp] theorem ashore_dropClaim (a tag : Nat) : ashore (dropClaim s a tag) = ashore s := by
  unfold dropClaim
  dsimp only
  split <;> simp
@[simp] theorem ashore_reclaimBerth (a : Nat) : ashore (reclaimBerth s a) = ashore s := by simp [reclaimBerth]
@[simp] theorem ashore_allocAct (w : Waiter) : ashore (allocAct s w) = ashore s := by
  unfold allocAct
  dsimp only
  split
  · simp
  · split
    next h => rw [ashore_allocGot, ashore_poolTake h]
    next => simp
@[simp] theorem ashore_berthResolve (w : Waiter) : ashore (berthResolve s w) = ashore s := by
  simp [berthResolve, shareAct, berthCheck_le]
@[simp] theorem ashore_drainHeld (n : Nat) : ashore (drainHeld n s) = ashore s := by
  induction n generalizing s with
  | zero => rfl
  | succ n ih =>
    unfold drainHeld
    split
    · rw [ih, ashore_berthResolve, ashore_dropHeld]
    · rfl

/-! ### What may go on after any change -/

@[simp] theorem ashore_holdThread (t : Nat) : ashore (holdThread s t) = ashore s := by simp [holdThread]
@[simp] theorem ashore_unholdThread (t : Nat) : ashore (unholdThread s t) = ashore s := by simp [unholdThread]
@[simp] theorem ashore_settleHold (sp : Nat) : ashore (settleHold s sp) = ashore s := by simp [settleHold]
@[simp] theorem ashore_settleTaking (c : Nat) : ashore (settleTaking s c) = ashore s := by simp [settleTaking]
@[simp] theorem ashore_settleHarbour : ashore (settleHarbour s) = ashore s := by simp [settleHarbour, settleHolds]

/-- Idle cores that choose again change nothing ashore. -/
@[simp] theorem ashore_kickIdle : ashore (kickIdle s) = ashore s := by simp [kickIdle]

end Ashore
end Sys2Proof.Machine
end

section
/-!
SUPPORT. The tasks of the dredge test: logic BIST, marches, tally parity, patrol reads and the pilot check (R150, R492
to R494), and what their books leave alone.
-/
namespace Sys2Proof.Machine

/-- What each step of a fold leaves alone, the fold leaves alone. -/
theorem foldl_keeps {α β : Type} (g : State → β) {f : State → α → State} (h : ∀ s x, g (f s x) = g s) (l : List α)
    (s : State) : g (l.foldl f s) = g s :=
  List.foldlRecOn l f (motive := fun u => g u = g s) rfl fun u hu x _ => (h u x).trans hu

/-! ### The books of the dredge test -/

/-- The state but for the host interface, what was sent outside, the dictionary and the books of tests. -/
def unbooked (s : State) : State := { hostless s with dict := [], service := Service.reset }

theorem unbooked_of_hostless {s t : State} (h : hostless t = hostless s) : unbooked t = unbooked s :=
  congrArg (fun u => { u with dict := [], service := Service.reset }) h

section Read
variable {s t : State} (h : unbooked t = unbooked s)
include h

theorem media_of_unbooked : t.media = s.media := (congrArg State.media h :)
theorem pool_of_unbooked : t.pool = s.pool := (congrArg State.pool h :)
theorem dram_of_unbooked : t.dram = s.dram := (congrArg State.dram h :)
theorem tally_of_unbooked : t.tally = s.tally := (congrArg State.tally h :)
theorem power_of_unbooked : t.power = s.power := (congrArg State.power h :)

end Read

section Books
variable (s : State)

@[simp] theorem unbooked_noteFault (task unit detail : Nat) :
    unbooked (noteFault s task unit detail) = unbooked s := rfl
@[simp] theorem unbooked_noteUnit (task unit : Nat) : unbooked (noteUnit s task unit) = unbooked s := by
  obtain ⟨_, _, h⟩ := noteUnit_frame s task unit
  rw [h]
  rfl

theorem hostless_settleDegraded : hostless (settleDegraded s) = hostless s := hostless_setWarn s 2 _

@[simp] theorem unbooked_settleDegraded : unbooked (settleDegraded s) = unbooked s :=
  unbooked_of_hostless (hostless_settleDegraded s)

/-- A fault is counted in [9000.7] (R490). -/
theorem dget_noteFault (task unit detail : Nat) :
    dget (noteFault s task unit detail) 0x9000 7 = (dget s 0x9000 7 + 1) % counterMax 0x9000 7 := dget_bump_same _ _ _ _

theorem dget_noteFault_other (task unit detail : Nat) {i sub : Nat} (h : dk i sub ≠ dk 0x9000 7) :
    dget (noteFault s task unit detail) i sub = dget s i sub := dget_bump_other _ _ _ _ _ _ h

/-- Units that are done count no fault and retire no core; only a finished cycle is counted, in [9000.5]. -/
theorem dget_noteUnit (task unit : Nat) {i sub : Nat} (h : dk i sub ≠ dk 0x9000 5) :
    dget (noteUnit s task unit) i sub = dget s i sub := by
  unfold noteUnit settleCycle
  split
  · rfl
  · dsimp only
    split
    · exact dget_bump_other _ _ _ _ _ _ h
    · rfl

/-- The clusters under test and the rows to be repaired stand as they were. -/
theorem service_noteUnit (task unit : Nat) : (noteUnit s task unit).service.bist = s.service.bist ∧
    (noteUnit s task unit).service.rowFaults = s.service.rowFaults := by
  unfold noteUnit settleCycle
  split
  · exact ⟨rfl, rfl⟩
  · dsimp only
    split <;> exact ⟨rfl, rfl⟩

theorem service_settleDegraded : (settleDegraded s).service = s.service := by
  rw [eq_of_hostless (hostless_settleDegraded s)]

end Books

/-! ### Logic BIST: cores leave their leases (R492, R194) -/

theorem mem_clusterCores {k c : Nat} : k ∈ clusterCores c ↔ k / 32 = c := by
  simp only [clusterCores, List.mem_map, List.mem_range]
  constructor
  · rintro ⟨j, hj, rfl⟩
    omega
  · rintro rfl
    exact ⟨k % 32, Nat.mod_lt _ (by omega), by omega⟩

/-- The core is free, or is about to be. -/
def Leaves (l : CoreLease) : Prop := l.space = none ∨ l.next = some none

theorem leases_poolTake {s u : State} {far : Bool} {tag a : Nat} (h : poolTake s far tag = some (a, u)) :
    u.hm.leases = s.hm.leases := by
  have hstack (l : List Nat) : (setStack s far l).hm = s.hm := by cases far <;> rfl
  have hlow (v : State) : (noteLow v far).hm = v.hm := by
    unfold noteLow
    repeat' split
    all_goals rfl
  unfold poolTake at h
  dsimp only at h
  repeat' split at h
  all_goals cases h
  · rw [hlow, ← hstack]
    rfl
  · rw [hlow]
    rfl

theorem leases_saveGot (s : State) (t a : Nat) : (saveGot s t a).hm.leases = s.hm.leases := by
  unfold saveGot
  dsimp only
  split <;> rfl

theorem leases_saveAsk (s : State) (t : Nat) : (saveAsk s t).hm.leases = s.hm.leases := by
  unfold saveAsk
  dsimp only
  split
  · split <;> rfl
  · split
    next h => rw [leases_saveGot, leases_poolTake h]
    next => split <;> rfl

/-- A window that is saved changes no lease. -/
theorem leases_saveAsks (s : State) (t : Nat) : (saveAsks s t).hm.leases = s.hm.leases :=
  foldl_keeps (fun u => u.hm.leases) (fun s _ => leases_saveAsk s t) _ s

/-- A change of a core's lease that goes on leaves the leases, or ends with steps 3 and 4 of R194. -/
theorem settleChange_cases (s : State) (c : Nat) : (settleChange s c).hm.leases = s.hm.leases ∨
    ∃ u nx, u.hm.leases = s.hm.leases ∧ (getLease s c).next = some nx ∧ settleChange s c = finishChange u c nx := by
  have hsaves (l : List Nat) : (l.foldl saveAsks s).hm.leases = s.hm.leases :=
    foldl_keeps (fun u => u.hm.leases) leases_saveAsks l s
  unfold settleChange
  dsimp only
  split
  next => exact .inl rfl
  next nx hnext =>
    split_ifs
    · exact .inl rfl
    · exact .inr ⟨_, nx, hsaves _, hnext, rfl⟩
    · exact .inl (hsaves _)

theorem getLease_congr {s t : State} (h : t.hm.leases = s.hm.leases) (k : Nat) : getLease t k = getLease s k :=
  congrArg (tabGet CoreLease.free · k) h

theorem getLease_finishChange_none (s : State) (c : Nat) : getLease (finishChange s c none) c = CoreLease.free :=
  getLease_setLease _ c _

theorem getLease_finishChange_other (s : State) {c k : Nat} (sp : Option Nat) (h : k ≠ c) :
    getLease (finishChange s c sp) k = getLease s k := getLease_setLease_other _ c k _ h

/-- A core whose lease passes to no space is free, or is about to be. -/
theorem leaves_startChange (s : State) (c : Nat) : Leaves (getLease (startChange s c none) c) := by
  have hnext : (getLease (setLease s c { getLease s c with next := some none }) c).next = some none := by
    rw [getLease_setLease]
  rcases settleChange_cases (setLease s c { getLease s c with next := some none }) c with h | ⟨u, nx, -, hnx, h⟩
  · exact .inr ((congrArg CoreLease.next (getLease_congr h c)).trans hnext)
  · obtain rfl : none = nx := Option.some.inj (hnext.symm.trans hnx)
    exact .inl (congrArg CoreLease.space ((congrArg (getLease · c) h).trans (getLease_finishChange_none u c)))

theorem getLease_startChange_other (s : State) {c k : Nat} (sp : Option Nat) (h : k ≠ c) :
    getLease (startChange s c sp) k = getLease s k := by
  have hset := getLease_setLease_other s c k { getLease s c with next := some sp } h
  rcases settleChange_cases (setLease s c { getLease s c with next := some sp }) c with hk | ⟨u, nx, hu, -, hf⟩
  · exact (getLease_congr hk k).trans hset
  · rw [startChange, hf, getLease_finishChange_other u nx h]
    exact (getLease_congr hu k).trans hset

/-- A leased core begins to leave its lease. -/
def endLease (s : State) (k : Nat) : State := if (getLease s k).space.isSome then startChange s k none else s

theorem endLeases_eq (s : State) (c : Nat) : endLeases s c = (clusterCores c).foldl endLease s := rfl

theorem leaves_endLease (s : State) {j k : Nat} (h : k = j ∨ Leaves (getLease s k)) :
    Leaves (getLease (endLease s j) k) := by
  unfold endLease
  split
  · by_cases hk : k = j
    · exact hk ▸ leaves_startChange s k
    · rw [getLease_startChange_other s none hk]
      exact h.resolve_left hk
  next hfree =>
    rcases h with rfl | h
    · exact .inl (by simpa using hfree)
    · exact h

theorem leaves_endLeases (l : List Nat) (s : State) {k : Nat} (h : k ∈ l ∨ Leaves (getLease s k)) :
    Leaves (getLease (l.foldl endLease s) k) := by
  induction l generalizing s with
  | nil => exact h.resolve_left List.not_mem_nil
  | cons j l ih =>
    rw [List.mem_cons, or_right_comm] at h
    exact ih _ (h.symm.imp_right (leaves_endLease s))

theorem service_endLeases (s : State) (c : Nat) : (endLeases s c).service = s.service :=
  service_of_ashore (ashore_foldl (fun u k => by simp only [ashore_ite, ashore_startChange, ite_self]) _ s)

/-- The cluster is under test. -/
def underTest (s : State) (c : Nat) : State := { s with service := { s.service with bist := s.service.bist ++ [c] } }

theorem getLease_underTest (s : State) (c k : Nat) : getLease (underTest s c) k = getLease s k := rfl

theorem service_underTest_endLeases (s : State) (c : Nat) :
    (underTest (endLeases s c) c).service = { s.service with bist := s.service.bist ++ [c] } :=
  congrArg (fun v : Service => { v with bist := v.bist ++ [c] }) (service_endLeases s c)

theorem leaves_underTest_endLeases (s : State) {c k : Nat} (h : k / 32 = c) :
    Leaves (getLease (underTest (endLeases s c) c) k) := by
  rw [getLease_underTest, endLeases_eq]
  exact leaves_endLeases _ s (.inl (mem_clusterCores.mpr h))

theorem exec_clusterBistStart (s : State) (c : Nat) : exec (.clusterBistStart c) s =
    .next (when (decide (c < 8) && bistReady s c) s (underTest (endLeases s c) c)) := rfl

/-! ### Logic BIST: cores that fail are retired (R492) -/

/-- Setting a bit that is clear leaves the bits that are set. -/
theorem bitOf_add_two_pow {x b j : Nat} (hb : bitOf x b = false) (hj : bitOf x j = true) :
    bitOf (x + 2 ^ b) j = true := by
  have htest (y i : Nat) : bitOf y i = y.testBit i := by rw [Nat.testBit_eq_decide_div_mod_eq, bitOf, beq_eq_decide]
  rcases lt_trichotomy j b with hlt | rfl | hlt
  · rw [htest, Nat.add_comm, Nat.testBit_two_pow_add_gt hlt, ← htest, hj]
  · rw [hb] at hj
    cases hj
  · rw [htest, ← Nat.sub_add_cancel hlt, ← Nat.testBit_div_two_pow, (add_two_pow_of_clear hb).2,
      Nat.testBit_div_two_pow, Nat.sub_add_cancel hlt, ← htest, hj]

theorem coreRetired_noteFault (s : State) (task unit detail k : Nat) :
    coreRetired (noteFault s task unit detail) k = coreRetired s k :=
  congrArg (bitOf · k) (dget_noteFault_other s task unit detail (by decide))

/-- A core that is retired stays so, and so does every other. -/
theorem coreRetired_retireCore (s : State) {j k : Nat} (h : k = j ∨ coreRetired s k = true) :
    coreRetired (retireCore s j) k = true := by
  rw [retireCore, coreRetired_noteFault]
  split
  next hj => exact h.elim (fun hk => hk ▸ hj) id
  next hj =>
    have hclear : bitOf (dget s 0x9000 8) j = false := by simpa [coreRetired] using hj
    rw [coreRetired, dget_persist_same _ _ _ _ (by decide)]
    rcases h with rfl | h
    · exact (add_two_pow_of_clear hclear).1
    · exact bitOf_add_two_pow hclear h

theorem coreRetired_retireCores (l : List Nat) (s : State) {k : Nat} (h : k ∈ l ∨ coreRetired s k = true) :
    coreRetired (l.foldl retireCore s) k = true := by
  induction l generalizing s with
  | nil => exact h.resolve_left List.not_mem_nil
  | cons j l ih =>
    rw [List.mem_cons, or_right_comm] at h
    exact ih _ (h.symm.imp_right (coreRetired_retireCore s))

theorem bist_retireCore (s : State) (k : Nat) : (retireCore s k).service.bist = s.service.bist := by
  obtain ⟨_, _, h⟩ := persist_frame s 0x9000 8 (dget s 0x9000 8 + 2 ^ k)
  unfold retireCore
  split
  · rfl
  · rw [h]
    rfl

/-- A cluster whose test has ended: its cores are zeroed, and those that failed are retired. -/
def bistRetired (s : State) (c : Nat) (failed : List Nat) : State :=
  settleDegraded (((clusterCores c).filter (failed.contains ·)).foldl retireCore ((clusterCores c).foldl zeroCore
    { s with service := { s.service with bist := s.service.bist.filter (· != c) } }))

theorem bistEnd_eq (s : State) (c : Nat) (failed : List Nat) : bistEnd s c failed =
    kickIdle (if readyFor s c then bistRetired s c failed else noteUnit (bistRetired s c failed) 1 c) := rfl

theorem bist_bistEnd (s : State) (c : Nat) (failed : List Nat) :
    (bistEnd s c failed).service.bist = s.service.bist.filter (· != c) := by
  have hretired : (bistRetired s c failed).service.bist = s.service.bist.filter (· != c) := by
    rw [bistRetired, service_settleDegraded, foldl_keeps (fun u => u.service.bist) bist_retireCore,
      foldl_keeps (fun u => u.service.bist) (f := zeroCore) (fun _ _ => rfl)]
  rw [bistEnd_eq, service_of_ashore (ashore_kickIdle _)]
  split
  · exact hretired
  · rw [(service_noteUnit _ 1 c).1, hretired]

theorem coreRetired_bistEnd (s : State) {c k : Nat} {failed : List Nat} (hk : k ∈ failed) (hc : k / 32 = c) :
    coreRetired (bistEnd s c failed) k = true := by
  have hmem : k ∈ (clusterCores c).filter (failed.contains ·) :=
    List.mem_filter.mpr ⟨mem_clusterCores.mpr hc, by simpa using hk⟩
  have hretired : coreRetired (bistRetired s c failed) k = true := by
    rw [bistRetired, coreRetired, dget_of_hostless (hostless_settleDegraded _)]
    exact coreRetired_retireCores _ _ (.inl hmem)
  rw [bistEnd_eq, coreRetired, dget_of_ashore (ashore_kickIdle _) (by omega) (by omega)]
  split
  · exact hretired
  · rw [dget_noteUnit _ 1 c (by decide)]
    exact hretired

theorem exec_clusterBistEnd (s : State) (c : Nat) (failed : List Nat) :
    exec (.clusterBistEnd c failed) s = .next (when (s.service.bist.contains c) s (bistEnd s c failed)) := rfl

/-! ### Marches (R493) -/

/-- What is found satisfies the condition. -/
theorem lowestFrom_sound {p : Nat → Bool} {n i k : Nat} (h : lowestFrom p n i = some k) : p k = true := by
  induction n generalizing i with
  | zero => cases h
  | succ n ih =>
    unfold lowestFrom at h
    split at h
    next hp =>
      cases h
      exact hp
    next => exact ih h

/-- The berth that is tested next is free. -/
theorem free_of_marchNext {s : State} {far : Bool} {i : Nat} (h : marchNext s far = some i) :
    (getBerth s (berthAddr far i)).alloc = false := by
  unfold marchNext at h
  dsimp only at h
  split at h
  next hlow =>
    split at h
    · cases h
      have hfree := lowestFrom_sound hlow
      simp only [Bool.and_eq_true, Bool.not_eq_true'] at hfree
      exact hfree.1.1
    · cases h
  next => cases h

section March
variable (s : State) (far : Bool) (i : Nat) (fault : Bool)

/-- The berth's bytes are zero. -/
def marched : State := { s with dram := memClear s.dram (berthAddr far i) (berthAddr far i + berthSize far) }

/-- A fault of the march awaits a spare row. -/
def rowFaulted (t : State) (task : Nat) : State :=
  settleDegraded (noteFault { t with service := { t.service with rowFaults := t.service.rowFaults + 1 } } task i 0)

theorem march_eq : march s far i fault =
    let task := if far then 3 else 2
    noteUnit (if fault then rowFaulted i (marched s far i) task else marched s far i) task i := rfl

theorem unbooked_march : unbooked (march s far i fault) = unbooked (marched s far i) := by
  rw [march_eq, unbooked_noteUnit]
  split
  · exact unbooked_settleDegraded _
  · rfl

theorem rowFaults_march : (march s far i fault).service.rowFaults = s.service.rowFaults + b2n fault := by
  rw [march_eq, (service_noteUnit _ _ i).2]
  cases fault
  · rfl
  · exact congrArg Service.rowFaults (service_settleDegraded _)

theorem dget_march_sound : dget (march s far i false) 0x9000 7 = dget s 0x9000 7 := by
  rw [march_eq, dget_noteUnit _ _ i (by decide)]
  rfl

end March

/-! ### Tally parity (R494) -/

theorem tally_logFault (s : State) (space kind code : Nat) (th : Option Nat) (a : W64) (ch port : Nat) :
    (logFault s space kind code th a ch port).tally = s.tally := by
  unfold logFault
  split <;> rfl

theorem dget_logFault (s : State) (space kind code : Nat) (th : Option Nat) (a : W64) (ch port : Nat) {i sub : Nat}
    (hs : sub < 256) (hi : i < 0x6000 ∨ 0x8000 ≤ i) :
    dget (logFault s space kind code th a ch port) i sub = dget s i sub :=
  dget_of_ashore (ashore_logFault s space kind code th a ch port) hs hi

/-- A row that fails parity is gone, and the fault is counted. -/
theorem parityFault_spec (s : State) (row : Nat) :
    (parityFault s row).tally = { s.tally with rows := tabDrop s.tally.rows row } ∧
      dget (parityFault s row) 0x9000 7 = (dget s 0x9000 7 + 1) % counterMax 0x9000 7 := by
  unfold parityFault
  dsimp only
  split
  · exact ⟨tally_logFault _ _ _ _ _ _ _ _,
      (dget_logFault _ _ _ _ _ _ _ _ (by omega) (by omega)).trans (dget_noteFault _ 5 row 0)⟩
  · exact ⟨rfl, dget_noteFault _ 5 row 0⟩

theorem exec_tallyParityScrub (s : State) (row : Nat) (ok : Bool) : exec (.tallyParityScrub row ok) s = .next
    (when (testing s && decide (row < 131072)) s (noteUnit (if ok then s else parityFault s row) 5 row)) := rfl

/-! ### Patrol reads (R150) -/

theorem getBlk_of_media {s t : State} (h : t.media = s.media) (b : Nat) : getBlk t b = getBlk s b :=
  congrArg (fun m : Media => tabGet (formatted b) m.blocks b) h

section Patrol
variable (s : State) (b worst bits : Nat)

/-- The sampled pages are read. -/
def sampled : State := modBlk s b (fun x => { x with reads := x.reads + (if 2 ≤ worst then pagesIn s b else 4) })
/-- What was found queues the block. -/
def patrolQueued (t : State) : State :=
  if 3 ≤ worst then noteFault (queueRefresh t b 5) 4 (b % 2 ^ 32) worst
  else if dget t 0x4040 4 < bits then queueRefresh t b 8 else t
/-- The steps of the recovery ladder are counted. -/
def patrolCounted (t : State) : State :=
  if worst = 3 then bump t 0x4030 4 1
  else if worst = 4 then
    modBlk (bump t 0x4030 5 1) b (fun x => { x with
      step4 := x.step4 + 1, retireNext := x.retireNext || decide (1 ≤ x.step4) })
  else t

theorem patrol_eq : patrol s b worst bits =
    noteUnit (patrolCounted b worst (patrolQueued b worst bits (sampled s b worst))) 4 b := rfl

/-- The rank at which a sampled block stands queued. -/
def patrolRank (old : Nat) : Nat :=
  if 3 ≤ worst then 5 else if dget s 0x4040 4 < bits then (if old = 5 then 5 else 8) else old

theorem getBlk_patrolQueued (t : State) : getBlk (patrolQueued b worst bits t) b =
    { getBlk t b with refresh := patrolRank t worst bits (getBlk t b).refresh } := by
  have hqueue (rank : Nat) : getBlk (queueRefresh t b rank) b =
      { getBlk t b with refresh := if (getBlk t b).refresh = 5 then 5 else rank } := getBlk_setBlk _ _ _
  unfold patrolQueued patrolRank
  split
  · refine (hqueue 5).trans ?_
    rw [ite_self]
  · split
    · exact hqueue 8
    · rfl

theorem getBlk_patrolCounted (t : State) : (getBlk (patrolCounted b worst t) b).reads = (getBlk t b).reads ∧
    (getBlk (patrolCounted b worst t) b).refresh = (getBlk t b).refresh := by
  unfold patrolCounted
  split
  · exact ⟨rfl, rfl⟩
  · split
    · rw [modBlk, getBlk_setBlk]
      exact ⟨rfl, rfl⟩
    · exact ⟨rfl, rfl⟩

/-- A patrol read counts the pages it reads, and queues the block by what it finds. -/
theorem getBlk_patrol : (getBlk (patrol s b worst bits) b).reads =
      (getBlk s b).reads + (if 2 ≤ worst then pagesIn s b else 4) ∧
    (getBlk (patrol s b worst bits) b).refresh = patrolRank s worst bits (getBlk s b).refresh := by
  have hmedia : (patrol s b worst bits).media =
      (patrolCounted b worst (patrolQueued b worst bits (sampled s b worst))).media := by
    rw [patrol_eq, media_of_unbooked (unbooked_noteUnit _ 4 b)]
  have hsampled : getBlk (sampled s b worst) b =
      { getBlk s b with reads := (getBlk s b).reads + (if 2 ≤ worst then pagesIn s b else 4) } := getBlk_setBlk _ _ _
  obtain ⟨hreads, hrefresh⟩ := getBlk_patrolCounted b worst (patrolQueued b worst bits (sampled s b worst))
  rw [getBlk_of_media hmedia, hreads, hrefresh, getBlk_patrolQueued, hsampled]
  exact ⟨rfl, rfl⟩

end Patrol

/-! ### The pilot check (task 7) -/

/-- The books of one second of a slot are closed. -/
def secondEnded (p : Pilot) : Pilot := { p with satLast := p.satSec, satSec := 0 }

/-- A slot that runs out of range is noted, while the dredge test is on. -/
def slotNoted (s : State) (k : Nat) : State :=
  let p := tabGet Pilot.empty s.power.pilots k
  if dget s 0x9000 1 == 1 ∧ slotInsane s k then logPel (noteFault s 7 k p.satSec) "pilot slot out of range" k p.satSec
  else s

/-- The slot's second is over. -/
def slotEnded (s : State) (k : Nat) (p : Pilot) : State :=
  { s with power := { s.power with pilots := tabSet Pilot.empty s.power.pilots k (secondEnded p) } }

theorem saneSlot_running {s : State} {k : Nat} {p : Pilot} (hp : tabGet Pilot.empty s.power.pilots k = p)
    (h : p.run = true) : saneSlot s k =
      if dget s 0x9000 1 == 1 then noteUnit (slotEnded (slotNoted s k) k p) 7 k else slotEnded (slotNoted s k) k p := by
  subst hp
  exact if_neg (by simp [h])

/-- The second of a running slot ends, and of no other. -/
theorem pilots_saneSlot (s : State) (k : Nat) : (saneSlot s k).power.pilots =
    if (tabGet Pilot.empty s.power.pilots k).run then
      tabSet Pilot.empty s.power.pilots k (secondEnded (tabGet Pilot.empty s.power.pilots k))
    else s.power.pilots := by
  have hnoted : (slotNoted s k).power = s.power := by
    unfold slotNoted
    dsimp only
    split <;> rfl
  have hended (p : Pilot) : (slotEnded (slotNoted s k) k p).power.pilots =
      tabSet Pilot.empty s.power.pilots k (secondEnded p) := by rw [slotEnded, hnoted]
  split
  next h =>
    rw [saneSlot_running rfl h]
    split
    · rw [power_of_unbooked (unbooked_noteUnit _ 7 k), hended]
    · exact hended _
  next h => rw [saneSlot, if_pos (by simpa using h)]

theorem pilot_saneSlot_other (s : State) {j k : Nat} (h : k ≠ j) :
    tabGet Pilot.empty (saneSlot s j).power.pilots k = tabGet Pilot.empty s.power.pilots k := by
  rw [pilots_saneSlot]
  split
  · exact tabGet_set_other _ _ _ _ _ h
  · rfl

theorem pilot_saneSlot_same {s : State} {k : Nat} (h : (tabGet Pilot.empty s.power.pilots k).run = true) :
    tabGet Pilot.empty (saneSlot s k).power.pilots k = secondEnded (tabGet Pilot.empty s.power.pilots k) := by
  rw [pilots_saneSlot, if_pos h]
  exact tabGet_set_same _ _ _ _

theorem pilot_saneSlots_other (l : List Nat) (s : State) {k : Nat} (h : k ∉ l) :
    tabGet Pilot.empty (l.foldl saneSlot s).power.pilots k = tabGet Pilot.empty s.power.pilots k := by
  induction l generalizing s with
  | nil => rfl
  | cons j l ih =>
    obtain ⟨hj, hl⟩ := List.ne_and_not_mem_of_not_mem_cons h
    rw [List.foldl_cons, ih _ hl, pilot_saneSlot_other s hj]

/-- Each running slot of the list ends its second once. -/
theorem pilot_saneSlots (l : List Nat) (hl : l.Nodup) (s : State) {k : Nat} (hk : k ∈ l)
    (hrun : (tabGet Pilot.empty s.power.pilots k).run = true) :
    tabGet Pilot.empty (l.foldl saneSlot s).power.pilots k = secondEnded (tabGet Pilot.empty s.power.pilots k) := by
  induction l generalizing s with
  | nil => cases hk
  | cons j l ih =>
    obtain ⟨hj, hl⟩ := List.nodup_cons.mp hl
    rw [List.foldl_cons]
    by_cases hkj : k = j
    · subst hkj
      rw [pilot_saneSlots_other l _ hj, pilot_saneSlot_same hrun]
    · have hkeep := pilot_saneSlot_other s hkj
      rw [ih hl _ ((List.mem_cons.mp hk).resolve_left hkj) (by rw [hkeep, hrun]), hkeep]

/-- The check takes its time. -/
def checkedAt (s : State) : State := { s with service := { s.service with saneAt := s.nowMs } }

/-- The pilot check: the second of every running slot ends. -/
def secondOver (s : State) : State :=
  (List.range 22).foldl saneSlot (checkedAt s)

theorem pilot_secondOver (s : State) {k : Nat} (hk : k < 22) (hrun : (tabGet Pilot.empty s.power.pilots k).run = true) :
    tabGet Pilot.empty (secondOver s).power.pilots k = secondEnded (tabGet Pilot.empty s.power.pilots k) := by
  have hpower : (checkedAt s).power = s.power := rfl
  rw [secondOver, pilot_saneSlots _ List.nodup_range _ (List.mem_range.mpr hk) (by rw [hpower, hrun]), hpower]

theorem exec_pilotSanity (s : State) : exec .pilotSanity s = .next (when (decide (3 ≤ s.power.bootStep) &&
    !s.power.dumping && decide (s.service.saneAt + 1000 ≤ s.nowMs)) s (secondOver s)) := rfl

/-! ### The rows -/

/-- A command whose condition holds completes in the state it describes. -/
theorem completes_when {c : Instr} {s t : State} {b : Bool} {P : State → Prop} (hrow : exec c s = .next (when b s t))
    (hb : b = true) (h : P t) : completes c s P := ⟨t, by rw [hrow, when_of hb], h⟩

/-- Settles O56: each task by its row's condition, and by what its operation does to cores, berths, rows, blocks and
slots. -/
theorem dredgeTasksDoTheirWork : Obligations.DredgeTasksDoTheirWork := by
  unfold Obligations.DredgeTasksDoTheirWork
  intro s c row blk step bits i failed far fault
  refine ⟨fun hc hready => ?starts, fun h => congrArg _ (when_unless (by rw [h, Bool.and_false]) _ _),
    fun hbist hc => ?ends, fun ht => ⟨fun hon hnext => ?march, fun hrow => ⟨?even, ?odd⟩,
      fun ho hlo hhi h4 hr => ?patrol⟩, fun h => ?early, fun hb hd hdue => ?second⟩
  case starts =>
    exact completes_when (exec_clusterBistStart s c) (by simp [hc, hready])
      ⟨service_underTest_endLeases s c, fun k => leaves_underTest_endLeases s⟩
  case ends =>
    refine completes_when (exec_clusterBistEnd s c failed) hbist ⟨?_, fun k => coreRetired_bistEnd s⟩
    rw [bist_bistEnd]
    simp
  case march =>
    have hpower : (far || domainOn s 2) = true := by simpa using hon
    have hkept := unbooked_march s far i fault
    have hdram : (march s far i fault).dram = memClear s.dram (berthAddr far i) (berthAddr far i + berthSize far) :=
      dram_of_unbooked hkept
    have hpool : (march s far i fault).pool = s.pool := (pool_of_unbooked hkept).trans rfl
    refine completes_when rfl (by simp [ht, hpower, hnext]) ⟨fun j hlo hhi => ?_, fun j hj => ?_,
      rowFaults_march s far i fault, ?_, ?_⟩
    · rw [hdram, memClear_inside _ _ _ _ hlo hhi]
    · rw [hdram, memClear_other _ _ _ _ hj]
    · rw [getBerth, hpool]
      exact free_of_marchNext hnext
    · rintro rfl
      exact dget_march_sound s far i
  case even =>
    obtain ⟨_, _, hframe⟩ := noteUnit_frame s 5 row
    refine completes_when (exec_tallyParityScrub s row true) (by simp [ht, hrow]) ?_
    rw [if_pos rfl, hframe]
    exact ⟨rfl, rfl⟩
  case odd =>
    obtain ⟨htally, hfaults⟩ := parityFault_spec s row
    refine completes_when (exec_tallyParityScrub s row false) (by simp [ht, hrow]) ?_
    rw [if_neg Bool.false_ne_true]
    dsimp only [getRow]
    rw [tally_of_unbooked (unbooked_noteUnit _ 5 row), dget_noteUnit _ 5 row (by decide), htally]
    exact ⟨tabDrop_get_same _ _ _, fun j hj => tabGet_drop_other _ _ _ _ hj, hfaults⟩
  case patrol =>
    obtain ⟨hreads, hrefresh⟩ := getBlk_patrol s blk step bits
    refine completes_when rfl (by rw [hr]; simpa [ht, ho, hlo, hhi] using h4) ⟨hreads, hrefresh.trans ?_⟩
    unfold patrolRank
    dsimp only
    split_ifs <;> omega
  case early => exact congrArg _ (when_unless (by simp [Nat.not_le.mpr h]) _ _)
  case second =>
    refine completes_when (exec_pilotSanity s) (by simp [hb, hd, hdue]) fun k hk hrun => ?_
    rw [pilot_secondOver s hk hrun]
    exact ⟨rfl, rfl⟩

end Sys2Proof.Machine
end

section
/-!
SUPPORT. Erases, failed channels, lost members and wear: which blocks are freed or retired, and which lots are rebuilt
or moved (R97, R118, R122, R124, R139, R143 to R147, R152).
-/
namespace Sys2Proof.Machine

/-! ### What warnings, images and records leave of the media -/

theorem media_setWarn (s : State) (bit : Nat) (on : Bool) : (setWarn s bit on).media = s.media := by
  rw [eq_of_hostless (hostless_setWarn s bit on)]

theorem media_persist (s : State) (i sub v : Nat) : (persist s i sub v).media = s.media := by
  obtain ⟨_, _, h⟩ := persist_frame s i sub v
  rw [h]

theorem media_sendEmergency (s : State) (data : List Byte) (p : Nat) : (sendEmergency s data p).media = s.media := by
  unfold sendEmergency
  split_ifs <;> rfl

theorem media_emergency (s : State) (code i sub detail : Nat) : (emergency s code i sub detail).media = s.media := by
  have hsend (u : State) (data : List Byte) : (sendEmergencies u data).media = u.media := by
    unfold sendEmergencies
    split
    · exact foldl_keeps State.media (f := fun u p => sendEmergency u data p)
        (fun u p => media_sendEmergency u data p) _ u
    · rfl
  unfold emergency
  dsimp only
  split
  · rw [dset_media]
  · rw [hsend, dset_media]

/-- The spares' warnings make the media read-only at most (R148). -/
theorem media_spareWarnings (s : State) : ∃ ro, (spareWarnings s).media = { s.media with readOnly := ro } := by
  unfold spareWarnings
  dsimp only
  split
  · exact ⟨true, by rw [media_emergency, media_setWarn, media_persist, media_setWarn]⟩
  · exact ⟨s.media.readOnly, media_setWarn s 0 _⟩

/-- Which blocks are out of service: the grown defect list, the failed channels and every block's pool. -/
structure Defects where
  gdl      : List Nat
  failedCh : List Nat
  pools    : Nat → Nat

def defects (s : State) : Defects := ⟨s.media.gdl, s.media.failedCh, fun b => (getBlk s b).pool⟩

/-- A block that is opened stays in its pool. -/
theorem defects_openBlk (s : State) (o : Option Nat) : defects (openBlk s o) = defects s := by
  cases o with
  | none => rfl
  | some b =>
    have hpools : (fun c => (getBlk (openBlk s (some b)) c).pool) = fun c => (getBlk s c).pool := by
      funext c
      by_cases hc : c = b
      · subst hc
        have hopen : getBlk (openBlk s (some c)) c = { getBlk s c with open_ := true } := tabGet_put_same _ _ _ _
        rw [hopen]
      · exact congrArg Block.pool (tabGet_put_other _ _ _ _ _ hc)
    exact congrArg (Defects.mk s.media.gdl s.media.failedCh) hpools

theorem defects_landSpot (s : State) (pool n : Nat) : defects (landSpot s pool n).2 = defects s := by
  unfold landSpot
  split
  · rfl
  · exact defects_openBlk (draw s) _

theorem defects_writeImage (m : MapSt) (jsn : Nat) (s : State) (o : CkObj) :
    defects (writeImage m jsn s o) = defects s := by
  have hpictured (u : State) (l : List CkImage) : defects (pictured u l) = defects u := rfl
  have hput (u : State) (a : Nat) (b : List Byte) : defects (putRaw u a b) = defects u := rfl
  have hdraw (u : State) : defects (draw u) = defects u := rfl
  obtain ⟨a, b, n, g, h⟩ := writeImage_eq m jsn s o
  rw [h, hpictured, hput, hdraw, defects_landSpot]

/-- The image that carries the grown defect list is written (R145). -/
def defectsImaged (s : State) : State := writeImage s.media.ckpt s.media.ckptJsn s ⟨4, 0, 0⟩

theorem defects_defectsImaged (s : State) : defects (defectsImaged s) = defects s := defects_writeImage _ _ s _

theorem defects_spareWarnings (s : State) : defects (spareWarnings s) = defects s := by
  obtain ⟨_, h⟩ := media_spareWarnings s
  unfold defects getBlk
  rw [h]

/-! ### Erases (R118, R122, R124, R143 to R145) -/

section Erase
variable (s : State) (b : Nat)

/-- A block is listed as defective and out of every pool (R145). -/
def listed : State :=
  setBlk { s with media := { s.media with
      gdl := s.media.gdl ++ [b]
      dumpShort := if (getBlk s b).pool == 4 && groupOk s (blockGroup b) then s.media.dumpShort ++ [b / 2 ^ 32]
        else s.media.dumpShort } } b
    { (getBlk s b) with pool := 7, refresh := 0, retireNext := false, open_ := false }

theorem retireBlock_eq (h : s.media.gdl.contains b = false) :
    retireBlock s b = spareWarnings (bump (defectsImaged (listed s b)) 0x4030 3 1) :=
  if_neg (by rw [h]; exact Bool.false_ne_true)

/-- A retired block joins the grown defect list and leaves its pool. -/
theorem defects_retireBlock (h : s.media.gdl.contains b = false) :
    defects (retireBlock s b) = defects (listed s b) := by
  have hbump (u : State) : defects (bump u 0x4030 3 1) = defects u := rfl
  rw [retireBlock_eq s b h, defects_spareWarnings, hbump, defects_defectsImaged]

theorem retireBlock_retires (h : s.media.gdl.contains b = false) :
    (getBlk (retireBlock s b) b).pool = 7 ∧ (retireBlock s b).media.gdl = s.media.gdl ++ [b] := by
  have hdef := defects_retireBlock s b h
  refine ⟨(congrFun (congrArg Defects.pools hdef) b).trans ?_, (congrArg Defects.gdl hdef).trans rfl⟩
  exact congrArg Block.pool (getBlk_setBlk _ b _)

/-- The erase of a block is no longer issued. -/
def unissued : State := { s with media := { s.media with erasing := s.media.erasing.filter (· != b) } }

end Erase

section EraseComplete
variable {s : State} {b : Nat} (n : Nat)

theorem exec_flashEraseComplete (ok : Bool) :
    exec (.flashEraseComplete b ok n) s = execFlashEraseComplete b ok n s := rfl

/-- An erased block that may serve on is empty and stands in a pool. -/
theorem flashEraseComplete_erases (hd : eraseDue s b = true) (hl : reclaimLot s b = none)
    (hr : retiresNow (eraseBlock (unissued s b) b) b = false) : exec (.flashEraseComplete b true n) s =
      .next (resumeHeld (settlePacing (spareWarnings (journalOp (eraseBlock (unissued s b) b) [])))) := by
  have hgone : ¬ ((!true || retiresNow (eraseBlock (unissued s b) b) b) = true) := by simp [hr]
  rw [exec_flashEraseComplete, execFlashEraseComplete, when_of hd, hl]
  exact congrArg (fun u => Host.Outcome.next (resumeHeld (settlePacing (spareWarnings (journalOp u [])))))
    (if_neg hgone)

/-- A block whose erase failed is retired. -/
theorem flashEraseComplete_retires (hd : eraseDue s b = true) (hl : reclaimLot s b = none) :
    exec (.flashEraseComplete b false n) s = .next (resumeHeld (settlePacing (spareWarnings
      (journalOp (retireBlock (bump (unissued s b) 0x4030 2 1) b) [])))) := by
  rw [exec_flashEraseComplete, execFlashEraseComplete, when_of hd, hl]
  rfl

theorem flashEraseComplete_notDue (h : eraseDue s b = false) (ok : Bool) :
    exec (.flashEraseComplete b ok n) s = .next s :=
  congrArg _ (when_unless h _ _)

end EraseComplete

section Erased
variable (s : State) (b : Nat)

/-- The erased block is empty, and counted in the mode it served in (R118, R146). -/
theorem getBlk_eraseBlock : getBlk (eraseBlock s b) b =
    (let x := getBlk s b
     let qlc := x.pool == 6 || x.pool == 8
     { x with
       pool := erasedPool s b, reads := 0, refresh := 0, open_ := false,
       eq := x.eq + b2n qlc, es := x.es + b2n (!qlc) }) :=
  getBlk_setBlk _ b _

theorem getBlk_eraseBlock_other {c : Nat} (h : c ≠ b) : getBlk (eraseBlock s b) c = getBlk s c :=
  getBlk_setBlk_other _ b c _ h

theorem flash_eraseBlock : (eraseBlock s b).media.flash = s.media.flash.filter (fun e => addrBlock e.1 != b) := rfl

theorem slot_eraseBlock {a : Nat} (h : addrBlock a = b) : tabGet none (eraseBlock s b).media.flash a = none := by
  rw [flash_eraseBlock]
  exact tabGet_filter_none _ _ _ _ (by simp [h])

theorem slot_eraseBlock_other {a : Nat} (h : addrBlock a ≠ b) :
    tabGet none (eraseBlock s b).media.flash a = tabGet none s.media.flash a := by
  rw [flash_eraseBlock]
  exact tabGet_filter_other _ _ _ _ (by simp [h])

end Erased

/-! ### Failed channels (R144) -/

/-- What waits at the host interface, and the failed channels, while records are appended. -/
structure Waits where
  failedCh : List Nat
  dockets  : Tab Docket
  admWait  : List (Nat × Adm × Nat)

def waits (s : State) : Waits := ⟨s.media.failedCh, s.host.dockets, s.host.admWait⟩

section Waits
variable (s : State)

theorem waits_pushFlit (k : Nat) (f : HFlit) : waits (pushFlit s k f) = waits s := by
  have hsub (l : SubLink) : waits (setSub s k l) = waits s := by
    unfold setSub
    split <;> rfl
  unfold pushFlit
  dsimp only
  split
  · exact hsub _
  · exact hsub _

theorem waits_sendOn (k : Nat) (m : HawMsg) : waits (sendOn s k m) = waits s := by
  have hsub (l : SubLink) : waits (setSub s k l) = waits s := by
    unfold setSub
    split <;> rfl
  exact (foldl_keeps waits (fun u f => waits_pushFlit u k f) _ _).trans (hsub _)

theorem waits_hawSend (typ nsid a b : Nat) (body : List Byte) : waits (hawSend s typ nsid a b body) = waits s := by
  unfold hawSend
  split
  · rfl
  · split
    · rfl
    · exact waits_sendOn _ _ _

theorem waits_appendRec (r : JRec) : waits (appendRec s r) = waits s := by
  unfold appendRec
  dsimp only
  split_ifs
  · rfl
  · exact waits_hawSend _ _ _ _ _ _
  · rfl
  · rfl

theorem waits_append (rs : List JRec) : waits (append s rs) = waits s := foldl_keeps waits waits_appendRec rs s

theorem waits_formLots : waits (formLots s) = waits s := by
  unfold formLots
  dsimp only
  split
  · rfl
  · exact waits_append _ _

end Waits

/-- With nothing waiting, nothing closes but blocks. -/
theorem closeDue_idle {s : State} (hd : s.host.dockets = []) (ha : s.host.admWait = []) :
    closeDue s = closeFull (formLots s) := by
  have hwaits := waits_formLots s
  have hdockets : (formLots s).host.dockets = [] := (congrArg Waits.dockets hwaits).trans hd
  have hadm : (formLots s).host.admWait = [] := (congrArg Waits.admWait hwaits).trans ha
  have hsettle : settleAdm (formLots s) = formLots s := by
    unfold settleAdm
    simp [hadm]
  unfold closeDue
  simp [hsettle, hdockets]

theorem failedCh_journalOp {s : State} (hd : s.host.dockets = []) (ha : s.host.admWait = []) (rs : List JRec) :
    (journalOp s rs).media.failedCh = s.media.failedCh := by
  have hwaits := waits_append s rs
  have hwindow (u : State) : (settleWindow u).media.failedCh = u.media.failedCh := rfl
  have hfull (u : State) : (closeFull u).media.failedCh = u.media.failedCh := rfl
  have hclose := closeDue_idle ((congrArg Waits.dockets hwaits).trans hd) ((congrArg Waits.admWait hwaits).trans ha)
  calc (journalOp s rs).media.failedCh = (closeDue (append s rs)).media.failedCh := by rw [journalOp, hwindow]
    _ = (formLots (append s rs)).media.failedCh := by rw [hclose, hfull]
    _ = (append s rs).media.failedCh := congrArg Waits.failedCh (waits_formLots _)
    _ = s.media.failedCh := congrArg Waits.failedCh hwaits

/-- The erased blocks of a channel group. -/
def groupErased (s : State) (g : Nat) : List Nat :=
  sledBlocks.filter (fun b => blockGroup b == g && blank s b && !s.media.gdl.contains b)

/-- A block stands in no pool any more. -/
def unpooled (s : State) (b : Nat) : State := setBlk s b { (getBlk s b) with pool := 7, refresh := 0, open_ := false }

/-- Blocks of a channel group are listed as defective. -/
def listedAll (s : State) (g : Nat) (bs : List Nat) : State := { s with media := { s.media with
  gdl := s.media.gdl ++ bs, dumpShort := s.media.dumpShort.filter (fun c => c / 32 != g) } }

theorem retireGroup_eq (s : State) (g : Nat) : retireGroup s g = spareWarnings (bump (defectsImaged
    (listedAll ((groupErased s g).foldl unpooled s) g (groupErased s g))) 0x4030 3 (groupErased s g).length) := rfl

theorem failedCh_retireGroup (s : State) (g : Nat) : (retireGroup s g).media.failedCh = s.media.failedCh := by
  have hread (u : State) : u.media.failedCh = (defects u).failedCh := rfl
  have hbump (u : State) (n : Nat) : defects (bump u 0x4030 3 n) = defects u := rfl
  have hlisted (u : State) (bs : List Nat) : (listedAll u g bs).media.failedCh = u.media.failedCh := rfl
  rw [retireGroup_eq, hread, defects_spareWarnings, hbump, defects_defectsImaged, ← hread, hlisted]
  exact foldl_keeps (fun u => u.media.failedCh) (f := unpooled) (fun _ _ => rfl) _ s

/-- Failed channels, lots degraded for a day, retired cores and rows beyond the spare ones set critical warning bit 2
(Table 4.8). -/
theorem settleDegraded_warns {s : State} (h : s.media.failedCh ≠ [] ∨ s.media.degraded24 ≠ []) :
    bitOf (settleDegraded s).host.smartWarn 2 = true := by
  refine (bitOf_setWarn s 2 _).trans ?_
  rcases h with h | h <;> simp [h]

theorem media_settleDegraded (s : State) : (settleDegraded s).media = s.media := media_setWarn s 2 _

section ChannelFailure
variable {s : State} {c : Nat}

/-- The channel is noted as failed. -/
def channelFailed (s : State) (c : Nat) : State :=
  bump { s with media := { s.media with failedCh := s.media.failedCh ++ [c] } } 0x4030 8 1

/-- Lots stand degraded from the times of a table on. -/
def degradedFrom (s : State) (dg : Tab Nat) : State := { s with media := { s.media with degradedAt := dg } }

/-- The lots of a channel group in service. -/
def groupLots (m : MapSt) (g : Nat) : List Nat := (m.lots.filter (fun e => lotInUse e.2 && e.2.chgrp == g)).map Prod.fst

/-- Their members on the channel are lost, and they are degraded. -/
def channelRecs (m : MapSt) (c : Nat) : List JRec :=
  ((groupLots m (c / 32)).map (fun l =>
    (((getLot m l).members[c % 32]?).toList.map (fun x =>
        jrec 0x21 0 l 0 0 (c % 32 + (x.block + x.celun * 2 ^ 16 + 2 * 2 ^ 21) * 32))) ++
      [lotRec (getLot m l) l 4])).flatten

/-- The times since when lots have been degraded, with some from now on. -/
def degradedSince (s : State) (ls : List Nat) : Tab Nat :=
  ls.foldl (fun t l => if (tabFind t l).isSome then t else tabPut t l (s.nowMs + 1)) s.media.degradedAt

/-- The programmed blocks of a channel group. -/
def groupProgrammed (s : State) (g : Nat) : List Nat :=
  (s.media.blocks.filter (fun e =>
    blockGroup e.1 == g && (e.2.pool == 6 || e.2.pool == 1) && !blank s e.1)).map Prod.fst

/-- The failed channel's records are appended, and its group's lots degraded. -/
def channelNoted (s : State) (c : Nat) : State :=
  let u := journalOp (channelFailed s c) (channelRecs (newestMap (channelFailed s c)) c)
  degradedFrom u (degradedSince u (groupLots (newestMap (channelFailed s c)) (c / 32)))

/-- What is programmed in its group is queued to move away, and what is erased leaves service. -/
def groupEmptied (s : State) (g : Nat) : State :=
  settleDegraded (retireGroup ((groupProgrammed s g).foldl (fun s b => queueRefresh s b 8) s) g)

theorem exec_channelFailure (s : State) (c : Nat) : exec (.channelFailure c) s = .next
    (when (decide (c < 448) && !s.media.failedCh.contains c) s (groupEmptied (channelNoted s c) (c / 32))) := by
  have hrow : exec (.channelFailure c) s = execChannelFailure c s := rfl
  rw [hrow]
  unfold execChannelFailure groupEmptied channelNoted degradedFrom channelFailed channelRecs degradedSince
    groupProgrammed groupLots
  dsimp only

theorem failedCh_groupEmptied (s : State) (g : Nat) : (groupEmptied s g).media.failedCh = s.media.failedCh := by
  rw [groupEmptied, media_settleDegraded, failedCh_retireGroup]
  exact foldl_keeps (fun u => u.media.failedCh) (f := fun s b => queueRefresh s b 8) (fun _ _ => rfl) _ s

theorem groupEmptied_warns {s : State} (h : s.media.failedCh ≠ []) (g : Nat) :
    bitOf (groupEmptied s g).host.smartWarn 2 = true := by
  have hkept := failedCh_groupEmptied s g
  rw [groupEmptied, media_settleDegraded] at hkept
  exact settleDegraded_warns (.inl (hkept ▸ h))

theorem failedCh_channelNoted {s : State} (hd : s.host.dockets = []) (ha : s.host.admWait = []) (c : Nat) :
    (channelNoted s c).media.failedCh = s.media.failedCh ++ [c] := by
  have hdegraded (u : State) (dg : Tab Nat) : (degradedFrom u dg).media.failedCh = u.media.failedCh := rfl
  rw [channelNoted, hdegraded]
  exact failedCh_journalOp (s := channelFailed s c) hd ha _

theorem channelFailure_notes (hc : c < 448) (hn : c ∉ s.media.failedCh) (hd : s.host.dockets = [])
    (ha : s.host.admWait = []) : completes (.channelFailure c) s (fun t =>
      t.media.failedCh = s.media.failedCh ++ [c] ∧ bitOf t.host.smartWarn 2 = true) := by
  have hnoted := failedCh_channelNoted hd ha c
  refine completes_when (exec_channelFailure s c) (by simp [hc, hn]) ⟨?_, groupEmptied_warns ?_ _⟩
  · rw [failedCh_groupEmptied, hnoted]
  · rw [hnoted]
    simp

theorem channelFailure_again (h : c ∈ s.media.failedCh) : exec (.channelFailure c) s = .next s :=
  congrArg _ (when_unless (by simp [h]) _ _)

end ChannelFailure

/-! ### Lost members (R97) -/

/-- No member of a lot but one is gone. -/
def othersStand (s : State) (x : Lot) (i : Nat) : Bool := (List.range 32).all (fun k => k == i || !memberGone s x k)

section Rebuild
variable {s : State} {l i b : Nat} {x : Lot} {m : Member} (hx : getLot (newestMap s) l = x)
  (hm : x.members[i]? = some m) (hu : lotInUse x = true) (hs : m.mstate = 2) (hv : lotMoved s l = false)
  (hr : rankOpen s [32 * x.chgrp + i] 8 = true)
include hx hm hu hs hv hr

theorem exec_lotRebuild : exec (.lotRebuild l i b) s = .next
    (let old := memberBlock x i m
     let fits := b / 2 ^ 32 == 32 * x.chgrp + i && spare s b
     if fits ∧ othersStand s x i then settleLot (moveBlock (degradeLot s l i old) old b 6) l
     else if !othersStand s x i ∨ (sparesOn s (32 * x.chgrp + i)).isEmpty then moveLot s 4 l none
     else s) := by
  have hrow : exec (.lotRebuild l i b) s = execLotRebuild l i b s := rfl
  rw [hrow, execLotRebuild]
  dsimp only
  rw [hx, hm]
  exact congrArg _ (when_of (by simp [hu, hs, hv, hr]) _ _)

/-- A lost member is rebuilt in an erased block of its channel. -/
theorem lotRebuild_rebuilds (hb : b / 2 ^ 32 = 32 * x.chgrp + i) (hsp : spare s b = true)
    (hw : othersStand s x i = true) :
    exec (.lotRebuild l i b) s =
      .next (settleLot (moveBlock (degradeLot s l i (memberBlock x i m)) (memberBlock x i m) b 6) l) := by
  rw [exec_lotRebuild hx hm hu hs hv hr]
  exact congrArg _ (if_pos ⟨by rw [hb, hsp, beq_self_eq_true, Bool.and_true], hw⟩)

/-- Where another member is gone, or the channel has no erased block, the whole lot moves. -/
theorem lotRebuild_moves
    (h : othersStand s x i = false ∨ (sparesOn s (32 * x.chgrp + i) = [] ∧ spare s b = false)) :
    exec (.lotRebuild l i b) s = .next (moveLot s 4 l none) := by
  rw [exec_lotRebuild hx hm hu hs hv hr]
  dsimp only
  rcases h with h | ⟨hnone, hb⟩
  · rw [h, if_neg (by simp), if_pos (by simp)]
  · rw [hb, hnone, if_neg (by simp), if_pos (by simp)]

end Rebuild

/-! ### Wear (R147) -/

/-- What is not found fails the condition everywhere. -/
theorem lowestFrom_none {p : Nat → Bool} {n i : Nat} (h : lowestFrom p n i = none) {j : Nat} (hj : i ≤ j)
    (hn : j < i + n) : p j = false := by
  induction n generalizing i with
  | zero => omega
  | succ n ih =>
    unfold lowestFrom at h
    split at h
    · cases h
    next hp =>
      rcases Nat.eq_or_lt_of_le hj with rfl | hlt
      · simpa using hp
      · exact ih h hlt (by omega)

theorem mem_keys_of_tabFind {α : Type} {t : Tab α} {k : Nat} (h : tabFind t k ≠ none) : k ∈ t.map Prod.fst := by
  induction t with
  | nil => exact absurd rfl h
  | cons e t ih =>
    obtain ⟨j, v⟩ := e
    unfold tabFind at h
    split at h
    next hj => exact List.mem_map.mpr ⟨(j, v), List.mem_cons_self, hj⟩
    next => exact List.mem_cons_of_mem _ (ih h)

/-- The number a new relocation takes. -/
def freeReloc (s : State) : Nat :=
  (lowestFrom (fun k => (tabFind s.media.relocs k).isNone) (s.media.relocs.length + 1) 0).getD 0

/-- More numbers are tried than relocations are under way: the one taken is free. -/
theorem freeReloc_free (s : State) : tabFind s.media.relocs (freeReloc s) = none := by
  unfold freeReloc
  cases hk : lowestFrom (fun k => (tabFind s.media.relocs k).isNone) (s.media.relocs.length + 1) 0 with
  | some k => exact Option.isNone_iff_eq_none.mp (lowestFrom_sound hk)
  | none =>
    have hall : List.range (s.media.relocs.length + 1) ⊆ s.media.relocs.map Prod.fst := fun k hmem =>
      mem_keys_of_tabFind fun hfree => by
        have hused := lowestFrom_none hk (Nat.zero_le k) (by simpa using hmem)
        simp [hfree] at hused
    have hlen := (List.subperm_of_subset List.nodup_range hall).length_le
    simp at hlen

section Swap
variable {s : State} {c b d : Nat}

/-- The block that was emptied awaits its erase. -/
def awaitErase (s : State) (b : Nat) : State := { s with media := { s.media with
  relocs := tabPut s.media.relocs (freeReloc s)
    { Reloc.empty with kind := 5, block := some b, step := 2, jsn := s.media.jsn } } }

/-- The condition of a wear swap: the spread is beyond the limit, the source is the coldest block that may move, and the
destination the most worn free one. -/
def swapDue (s : State) (c b d : Nat) : Bool :=
  let wear := (channelBlocks s c inService).map (wearFrac s)
  let movable := channelBlocks s c (fun x => x.pool == 1 || x.pool == 6)
  let free := channelBlocks s c (fun x => x.pool == 0)
  s.media.ready && decide (dget s 0x4020 0xA < wear.foldl max 0 - wear.foldl min (wear.headD 0)) &&
    movable.contains b && d / 2 ^ 32 == c && spare s d && movable.all (fun y => decide (wearFrac s b ≤ wearFrac s y)) &&
    free.all (fun y => !spare s y || decide (wearFrac s y ≤ wearFrac s d)) && rankOpen s [c] 9

theorem exec_wearSwap (s : State) (c b d : Nat) : exec (.wearSwap c b d) s =
    .next (when (swapDue s c b d) s (awaitErase (moveBlock s b d (getBlk s b).pool) b)) := rfl

theorem relocs_awaitErase (s : State) (b : Nat) :
    ({ awaitErase s b with media := { (awaitErase s b).media with relocs := s.media.relocs } } : State) = s ∧
    ∃ k, tabFind s.media.relocs k = none ∧ tabFind (awaitErase s b).media.relocs k =
      some { Reloc.empty with kind := 5, block := some b, step := 2, jsn := s.media.jsn } :=
  ⟨rfl, freeReloc s, freeReloc_free s, tabFind_put_same _ _ _⟩

end Swap

/-! ### Lots degraded for a day (R152) -/

theorem lotDegraded24h_warns {s : State} {l : Nat} (h4 : (getLot s.media.cur l).state = 4)
    (h0 : tabGet 0 s.media.degradedAt l ≠ 0) (hday : tabGet 0 s.media.degradedAt l + 86400000 ≤ s.nowMs)
    (hn : l ∉ s.media.degraded24) : completes (.lotDegraded24h l) s (fun t =>
      t.media.degraded24 = s.media.degraded24 ++ [l] ∧ bitOf t.host.smartWarn 2 = true) := by
  have hrow : exec (.lotDegraded24h l) s = execLotDegraded24h l s := rfl
  refine completes_when hrow (by simp [h4, h0, hday, hn]) ⟨?_, settleDegraded_warns (.inr (by simp))⟩
  rw [media_settleDegraded]

/-- Settles O38: an erase by its end and what it leaves of the block, a failed channel by what its records leave alone,
a lost member by whether the others and an erased block are there, and a wear swap by its condition. -/
theorem erasesAndFailuresRetireBlocks : Obligations.ErasesAndFailuresRetireBlocks := by
  unfold Obligations.ErasesAndFailuresRetireBlocks
  refine ⟨fun s b n => ?erases, fun s c l i b d m => ?failures⟩
  case erases =>
    dsimp only
    refine ⟨fun hd hl => ⟨flashEraseComplete_erases n hd hl, flashEraseComplete_retires n hd hl⟩,
      fun h => ⟨flashEraseComplete_notDue n h true, flashEraseComplete_notDue n h false⟩,
      getBlk_eraseBlock (unissued s b) b, fun a => slot_eraseBlock (unissued s b) b,
      fun a => slot_eraseBlock_other (unissued s b) b, fun c => getBlk_eraseBlock_other (unissued s b) b, rfl, ?_,
      retireBlock_retires (bump (unissued s b) 0x4030 2 1) b⟩
    simp [eraseBlock, modBlk, setBlk]
  case failures =>
    dsimp only
    refine ⟨channelFailure_notes, channelFailure_again, fun hm hu hs hv hr => ⟨lotRebuild_rebuilds rfl hm hu hs hv hr,
      lotRebuild_moves rfl hm hu hs hv hr⟩, fun hready hspread hb hd hsp hcold hworn hr => ?_, lotDegraded24h_warns⟩
    refine completes_when (exec_wearSwap s c b d) ?_ (relocs_awaitErase _ b)
    have hfree (y : Nat) (hy : y ∈ channelBlocks s c (fun x => x.pool == 0)) :
        (!spare s y || decide (wearFrac s y ≤ wearFrac s d)) = true := by
      cases hy' : spare s y
      · rfl
      · simpa using hworn y hy hy'
    simp only [swapDue, Bool.and_eq_true, decide_eq_true_eq, beq_iff_eq, List.all_eq_true, List.contains_iff_mem]
    exact ⟨⟨⟨⟨⟨⟨⟨hready, hspread⟩, hb⟩, hd⟩, hsp⟩, hcold⟩, hfree⟩, hr⟩

end Sys2Proof.Machine
end

section
/-!
SUPPORT. The berth pool: what the free store, a request and its answer change, and where nothing waits, that a change
lets nothing else go on (R155 to R170).
-/
namespace Sys2Proof.Machine

/-! ### What moving berths leaves alone -/

/-- The state but for the berth pool. -/
def offPool (s : State) : State := { s with pool := Pool.empty }

section OffPool
variable (s : State) (far : Bool)

@[simp] theorem offPool_setBerth (a : Nat) (b : Berth) : offPool (setBerth s a b) = offPool s := rfl
@[simp] theorem offPool_setStack (l : List Nat) : offPool (setStack s far l) = offPool s := by cases far <;> rfl
@[simp] theorem offPool_noteLow : offPool (noteLow s far) = offPool s := by
  unfold noteLow
  repeat' split
  all_goals rfl
@[simp] theorem offPool_poolStore (a : Nat) : offPool (poolStore s far a) = offPool s := by
  unfold poolStore
  dsimp only
  split <;> simp

end OffPool

/-! ### The hot stack, the berths and the held requests -/

section Pool
variable (s : State) (far : Bool)

@[simp] theorem hotStack_setBerth (a : Nat) (b : Berth) : hotStack (setBerth s a b) far = hotStack s far := rfl
@[simp] theorem hotStack_setStack (l : List Nat) : hotStack (setStack s far l) far = l := by cases far <;> rfl
@[simp] theorem hotStack_noteLow (g : Bool) : hotStack (noteLow s g) far = hotStack s far := by
  unfold noteLow
  repeat' split
  all_goals rfl

@[simp] theorem getBerth_setStack (l : List Nat) (a : Nat) : getBerth (setStack s far l) a = getBerth s a := by
  cases far <;> rfl

@[simp] theorem held_setStack (l : List Nat) : (setStack s far l).pool.held = s.pool.held := by cases far <;> rfl
@[simp] theorem held_setWaitQ (l : List Waiter) : (setWaitQ s far l).pool.held = s.pool.held := by cases far <;> rfl
@[simp] theorem held_noteLow : (noteLow s far).pool.held = s.pool.held := by
  unfold noteLow
  repeat' split
  all_goals rfl

end Pool

/-! ### One berth changes -/

/-- From `s` to `t` berth `k` has become `b`; no other berth, no held request and nothing outside the pool has changed. -/
structure Moved (s t : State) (k : Nat) (b : Berth) : Prop where
  berth : getBerth t k = b
  others : ∀ x, x ≠ k → getBerth t x = getBerth s x
  held : t.pool.held = s.pool.held
  frame : offPool t = offPool s

theorem moved_setBerth (s : State) (k : Nat) (b : Berth) : Moved s (setBerth s k b) k b :=
  ⟨getBerth_setBerth s k b, fun x hx => getBerth_setBerth_other s k x b hx, rfl, rfl⟩

theorem Moved.then {s u t : State} {k : Nat} {b c : Berth} (h : Moved s u k b) (h' : Moved u t k c) : Moved s t k c :=
  ⟨h'.berth, fun x hx => (h'.others x hx).trans (h.others x hx), h'.held.trans h.held, h'.frame.trans h.frame⟩

/-! ### Taking a berth (R155) -/

/-- A berth that has just been allocated. -/
def ownedOnly (tag : Nat) : Berth := ⟨true, tag, [], none⟩

theorem moved_taken (s : State) (far : Bool) (tag k : Nat) (ks : List Nat) :
    Moved s (noteLow (setBerth (setStack s far ks) k (ownedOnly tag)) far) k (ownedOnly tag) where
  berth := by rw [getBerth_noteLow, getBerth_setBerth]
  others x hx := by rw [getBerth_noteLow, getBerth_setBerth_other _ _ _ _ hx, getBerth_setStack]
  held := by rw [held_noteLow]; exact held_setStack s far ks
  frame := by simp

section Take
variable {s : State} {far : Bool} (hon : far = true ∨ domainOn s 2 = true)
include hon

theorem not_classOff : (!far && !domainOn s 2) = false := by rcases hon with h | h <;> simp [h]

/-- The topmost berth of the hot stack is taken first. -/
theorem poolTake_stack (tag : Nat) {k : Nat} {ks : List Nat} (h : hotStack s far = k :: ks) :
    ∃ u, poolTake s far tag = some (k, u) ∧ Moved s u k (ownedOnly tag) ∧ hotStack u far = ks := by
  refine ⟨_, ?_, moved_taken s far tag k ks, by simp⟩
  simp only [poolTake, not_classOff hon, h]
  rfl

/-- With the stack empty, the lowest-numbered berth that is free in the bitmap is taken. -/
theorem poolTake_bitmap (tag : Nat) {k : Nat} (h : hotStack s far = []) (hk : bitmapFree s far = some k) :
    ∃ u, poolTake s far tag = some (k, u) ∧ Moved s u k (ownedOnly tag) ∧ hotStack u far = [] := by
  have hstack : setStack s far [] = s := by
    cases far
    · exact congrArg (fun l => { s with pool := { s.pool with nearStack := l } }) h.symm
    · exact congrArg (fun l => { s with pool := { s.pool with farStack := l } }) h.symm
  refine ⟨_, ?_, hstack ▸ moved_taken s far tag k [], by simp [h]⟩
  simp only [poolTake, not_classOff hon, h, hk]
  rfl

omit hon in
theorem poolTake_empty (tag : Nat) (h : hotStack s far = []) (hk : bitmapFree s far = none) :
    poolTake s far tag = none := by
  simp [poolTake, h, hk]

end Take

/-- Taking a berth changes the pool alone. -/
theorem offPool_poolTake {s u : State} {far : Bool} {tag a : Nat} (h : poolTake s far tag = some (a, u)) :
    offPool u = offPool s := by
  unfold poolTake at h
  dsimp only at h
  repeat' split at h
  all_goals cases h
  all_goals simp

/-! ### Freeing and releasing a berth (R156, R168, R170) -/

/-- No reclaim of a berth waits any more. -/
def unreclaimed (s : State) (a : Nat) : State :=
  { s with pool := { s.pool with reclaims := s.pool.reclaims.filter (· != a) } }

/-- A freed berth that nobody waits for goes to the free store. -/
theorem berthFreed_stored {s : State} {far : Bool} {a : Nat} (hc : berthClass a = some far) (hq : waitQ s far = []) :
    berthFreed s a = poolStore (unreclaimed s a) far a := by
  unfold berthFreed
  dsimp only
  split
  next hnone => rw [hc] at hnone; cases hnone
  next g hg =>
    obtain rfl : g = far := Option.some.inj (hg.symm.trans hc)
    split
    next w rest hw => cases hq.symm.trans hw
    next => rfl

section Store
variable (s : State) (far : Bool) (a : Nat)

theorem poolStore_eq : poolStore s far a = if (hotStack s far).length < 64
    then setStack (setBerth s a Berth.free) far (a :: hotStack s far) else setBerth s a Berth.free := rfl

theorem getBerth_poolStore : getBerth (poolStore s far a) a = Berth.free := by
  rw [poolStore_eq]
  split
  · rw [getBerth_setStack, getBerth_setBerth]
  · rw [getBerth_setBerth]

theorem getBerth_poolStore_other {x : Nat} (h : x ≠ a) : getBerth (poolStore s far a) x = getBerth s x := by
  rw [poolStore_eq]
  split
  · rw [getBerth_setStack, getBerth_setBerth_other _ _ _ _ h]
  · rw [getBerth_setBerth_other _ _ _ _ h]

theorem hotStack_poolStore : hotStack (poolStore s far a) far =
    if (hotStack s far).length < 64 then a :: hotStack s far else hotStack s far := by
  rw [poolStore_eq]
  split
  · rw [hotStack_setStack]
  · rw [hotStack_setBerth]

@[simp] theorem held_poolStore : (poolStore s far a).pool.held = s.pool.held := by
  rw [poolStore_eq]
  split
  · exact held_setStack _ far _
  · rfl

end Store

theorem moved_poolStore (s : State) (far : Bool) (a : Nat) : Moved s (poolStore s far a) a Berth.free :=
  ⟨getBerth_poolStore s far a, fun _ hx => getBerth_poolStore_other s far a hx, held_poolStore s far a,
    offPool_poolStore s far a⟩

section Freed
variable {s : State} {far : Bool} {a : Nat} (hc : berthClass a = some far) (hq : waitQ s far = [])
include hc hq

theorem moved_berthFreed : Moved s (berthFreed s a) a Berth.free := by
  rw [berthFreed_stored hc hq]
  obtain ⟨hberth, hothers, hheld, hframe⟩ := moved_poolStore (unreclaimed s a) far a
  exact ⟨hberth, hothers, hheld, hframe⟩

theorem hotStack_berthFreed : hotStack (berthFreed s a) far =
    if (hotStack s far).length < 64 then a :: hotStack s far else hotStack s far := by
  rw [berthFreed_stored hc hq, hotStack_poolStore]
  rfl

/-- A berth in no transfer is reclaimed at once, whatever claims it holds (R170). -/
theorem moved_reclaimBerth (hr : s.pool.reclaims = []) (hbusy : berthBusy s a = false) :
    Moved s (reclaimBerth s a) a Berth.free := by
  have hnow : reclaimBerth s a = berthFreed (setBerth s a { getBerth s a with claims := [] }) a := by
    simp [reclaimBerth, hr, hbusy]
  rw [hnow]
  exact (moved_setBerth s a _).then (moved_berthFreed hc hq)

end Freed

/-- A claim that is not the last, or of a berth without a DONE channel, is removed and posts nothing. -/
theorem dropClaim_quiet {s : State} {a tag : Nat}
    (h : (getBerth s a).claims.erase tag ≠ [] ∨ (getBerth s a).done = none) :
    dropClaim s a tag = setBerth s a { getBerth s a with claims := (getBerth s a).claims.erase tag } := by
  unfold dropClaim
  dsimp only
  split
  next hnil hdone => simp [hnil, hdone] at h
  next => rfl

/-! ### Answers (R162) -/

/-- The requesters of ports 0 to 10 are answered over their internal path, with the word alone. -/
theorem berthReply_low {who : Requester} (h : who.port ≤ 10) (s : State) (tag : Nat) (r : BerthReq) (w : W64) :
    berthReply s who tag r w = emit s (.berthResult who.port who.index w) := if_neg (by omega)

/-- A control thread that asks for no token has its word in memory. -/
theorem berthReply_control {who : Requester} {r : BerthReq} (h : who.port = 19) (hn : brNotify r = false) (s : State)
    (tag : Nat) (w : W64) :
    berthReply s who tag r w = { s with dram := memWrite s.dram r.w2.toNat (leBytes 8 w.toNat) } := by
  simp [berthReply, h, hn, deliver, isControl]

theorem brAddr_lt (r : BerthReq) : brAddr r < 2 ^ 48 := Nat.mod_lt _ (by norm_num)

theorem berthWord_toNat {code op a : Nat} (hc : code < 256) (ho : op < 256) (ha : a < 2 ^ 48) :
    (berthWord code op a).toNat = code + op * 256 + a * 65536 := by
  rw [berthWord, BitVec.toNat_ofNat, Nat.mod_eq_of_lt (by omega)]

/-- The requests of the module's own machinery stand behind no requester of Table 5.2. -/
theorem index_of_requesterOk {s : State} {who : Requester} (h : requesterOk s who = true) (hp : who.port ≤ 10) :
    who.index ≠ 32 := by
  intro hi
  simp only [requesterOk, hi, Bool.and_eq_true] at h
  obtain ⟨h, -⟩ := h
  split_ifs at h <;> simp at h

/-! ### Requests at their ports (R158, R159) -/

section Request
variable {s : State} {who : Requester} {tag : Nat} {r : BerthReq}

/-- Where no request is held, one that holds none is resolved, and no other goes on. -/
theorem berthRequest_resolved {w : Waiter} (hheld : s.pool.held = []) (h : (berthResolve s w).pool.held = []) :
    berthRequest s w = berthResolve s w := by
  simp [berthRequest, portHeld, hheld, h, drainHeld]

/-- The row of an operation resolves what its requester asks, and lets go on what can. -/
theorem berthRow_asked {op : Nat} (hok : requesterOk s who = true) (hon : domainOn s 1 = true) (hop : brOp r = op)
    (hport : who.port ≤ 10 ∨ who.port = 19) :
    berthRow s op who r = .next (settleAll (berthRequest s ⟨who, tagOf who, r⟩)) := by
  have hfree : ¬ (11 ≤ who.port ∧ who.port < 19 ∧ (!resultOk s who.owner r.w2.toNat) = true) := by omega
  simp only [berthRow, if_neg hfree]
  rw [when_of (by simp [hok, hon, hop])]

/-- An ALLOC that is well formed and finds a berth (R155). -/
theorem berthResolve_alloc {far : Bool} {a : Nat} {u : State} (hop : brOp r = 0) (hf : brFormed r = true)
    (hfar : brFar r = far) (hport : who.port ≤ 10) (hi : who.index ≠ 32) (ht : poolTake s far tag = some (a, u)) :
    berthResolve s ⟨who, tag, r⟩ = emit u (.berthResult who.port who.index (berthWord 0 0 a)) := by
  have hlighter : ¬ (11 ≤ who.port ∧ who.port < 19) := by omega
  simp [berthResolve, hop, allocAct, hf, hfar, ht, allocGot, hi, hlighter, berthReply_low hport]

/-- An ALLOC with WAIT that finds none joins its class's queue (R165). -/
theorem berthResolve_waits {far : Bool} (hop : brOp r = 0) (hf : brFormed r = true) (hfar : brFar r = far)
    (ht : poolTake s far tag = none) (hw : brWait r = true) (hplace : waitPlace s far who.port = true) :
    berthResolve s ⟨who, tag, r⟩ = setWaitQ s far (waitQ s far ++ [⟨who, tag, r⟩]) := by
  simp [berthResolve, hop, allocAct, hf, hfar, ht, hw, hplace, pushWait]

/-- A FREE, SHARE, RELEASE or RECLAIM that fails a check changes no berth, and is counted by its code (R163, R164). -/
theorem berthResolve_refused (hop : brOp r ≠ 0) (hc : berthCheck s who.port tag r ≠ 0) (hport : who.port ≤ 10) :
    berthResolve s ⟨who, tag, r⟩ = emit (bump s 0x7010 (0x10 + berthCheck s who.port tag r) 1)
      (.berthResult who.port who.index (berthWord (berthCheck s who.port tag r) (brOp r) (brAddr r))) := by
  simp [berthResolve, hop, hc, countCode, berthReply_low hport]

/-- One that passes them answers with code 0, after what its operation does. -/
theorem berthResolve_passed (hop : brOp r ≠ 0) (hc : berthCheck s who.port tag r = 0) :
    berthResolve s ⟨who, tag, r⟩ = berthReply
      (if brOp r = 1 then berthFreed s (brAddr r) else if brOp r = 2 then shareAct s tag r
        else if brOp r = 3 then dropClaim s (brAddr r) tag else reclaimBerth s (brAddr r))
      who tag r (berthWord 0 (brOp r) (brAddr r)) := by
  simp [berthResolve, hop, hc, countCode]

/-- A RECLAIM from a port other than the control cores' fails a check: the last of them, if none before (R170). -/
theorem berthCheck_reclaim {port : Nat} (hp : port ≤ 10) (hop : brOp r = 4) : berthCheck s port tag r ≠ 0 := by
  have hport : (port != 19) = true := bne_iff_ne.mpr (by omega)
  simp only [berthCheck, hop, hport, Nat.reduceBEq, BEq.rfl, Bool.false_and, Bool.and_self, Bool.or_self,
    Bool.false_eq_true, ↓reduceIte]
  repeat' split
  all_goals decide

end Request

/-! ### Where nothing waits -/

/-- What holds of every listed value and of the default holds of what a table reads. -/
theorem tabGet_of_all {α : Type} {P : α → Prop} {d : α} (hd : P d) {t : Tab α} (h : ∀ e ∈ t, P e.2) (k : Nat) :
    P (tabGet d t k) := by
  induction t with
  | nil => exact hd
  | cons e t ih =>
    rw [tabGet]
    split
    · exact h e List.mem_cons_self
    · exact ih fun x hx => h x (List.mem_cons_of_mem _ hx)

/-- A fold whose every step leaves a state as it is leaves it as it is. -/
theorem foldl_fixed_of_mem {α : Type} {f : State → α → State} {s : State} {l : List α} (h : ∀ x ∈ l, f s x = s) :
    l.foldl f s = s :=
  List.foldlRecOn l f (motive := fun u => u = s) rfl fun u hu x hx => by rw [hu, h x hx]

section Settle
variable {s : State}

theorem settleReclaims_none (h : s.pool.reclaims = []) : settleReclaims s = s := by
  unfold settleReclaims
  rw [h]
  exact congrArg (fun l => { s with pool := { s.pool with reclaims := l } }) h.symm

/-- A core that is neither passing on nor to be taken back keeps its lease. -/
theorem settleTaking_still {c : Nat} (hn : (getLease s c).next = none) (ht : (getLease s c).taking = false) :
    settleTaking s c = s := by
  simp [settleTaking, settleChange, hn, ht]

theorem settleHolds_none (h : ∀ e ∈ s.hm.threads, e.2.state ≠ 4) : settleHolds s = s := by
  have hnone : s.hm.threads.filter (fun e => e.2.state == 4) = [] := List.filter_eq_nil_iff.mpr (by simpa using h)
  simp [settleHolds, hnone]

theorem oldest_none (h : s.hm.ready = []) (p : Ready → Bool) : oldest s p = none := by
  simp [oldest, h]

/-- With no thread ready, an idle core has none to choose. -/
theorem chooseFor_none (h : s.hm.ready = []) (c : Nat) : chooseFor s c = s := by
  have hnone : choose s c = none := by simp [choose, oldest_none h]
  simp [chooseFor, hnone]

theorem resumeHeld_none (h : ∀ e ∈ s.host.dockets, e.2.heldAt3 = false) : resumeHeld s = s := by
  have hnone : s.host.dockets.filter (fun e => e.2.heldAt3) = [] := List.filter_eq_nil_iff.mpr (by simpa using h)
  simp [resumeHeld, heldWrites, hnone, sortSeq]

/-- Where nothing waits, a change lets nothing go on. -/
theorem settleAll_of_nothingWaits (h : nothingWaits s = true) : settleAll s = s := by
  simp only [nothingWaits, Bool.and_eq_true, List.isEmpty_iff, List.all_eq_true, Option.isNone_iff_eq_none,
    Bool.not_eq_true', bne_iff_ne] at h
  obtain ⟨⟨⟨⟨⟨hheld, hrec⟩, hready⟩, hlease⟩, hthr⟩, hdk⟩ := h
  have htaking (c : Nat) : settleTaking s c = s :=
    have hc := tabGet_of_all (P := fun l : CoreLease => l.next = none ∧ l.taking = false) ⟨rfl, rfl⟩ hlease c
    settleTaking_still hc.1 hc.2
  have hharbour : settleHarbour s = s := by
    rw [settleHarbour, hheld, List.length_nil, drainHeld, foldl_fixed_of_mem fun c _ => htaking c,
      settleHolds_none hthr]
  rw [settleAll, settleReclaims_none hrec, kickIdle, hharbour, foldl_fixed_of_mem fun c _ => chooseFor_none hready c,
    resumeHeld_none hdk]

end Settle

/-! ### The rows -/

section Rows
variable {s v : State} {k : Nat} {b : Berth} (hheld : s.pool.held = []) (hm : Moved s v k b)
include hheld hm

/-- A request that moves one berth and is answered over an internal path: the berth, the stacks, the answer and the
frame. -/
theorem request_answered {w : Waiter} {o : Out} (hres : berthResolve s w = emit v o) :
    let t := berthRequest s w
    getBerth t k = b ∧ (∀ far, hotStack t far = hotStack v far) ∧ t.out = o :: s.out ∧
      (∀ x, x ≠ k → getBerth t x = getBerth s x) ∧ { t with pool := s.pool, out := s.out } = s := by
  obtain ⟨hberth, hothers, hkeep, hframe⟩ := hm
  have hout : v.out = s.out := (congrArg State.out hframe :)
  rw [berthRequest_resolved hheld (by rw [hres]; exact hkeep.trans hheld), hres]
  exact ⟨hberth, fun _ => rfl, congrArg (o :: ·) hout, hothers,
    (congrArg (fun u => { u with pool := s.pool, out := s.out }) hframe :)⟩

/-- A request of a control thread that moves one berth and asks for no token: its result word goes to memory. -/
theorem request_stored {w : Waiter} {a : Nat} {bs : List Byte}
    (hres : berthResolve s w = { v with dram := memWrite v.dram a bs }) :
    let t := berthRequest s w
    getBerth t k = b ∧ memRead t.dram a bs.length = bs ∧ (∀ x, x ≠ k → getBerth t x = getBerth s x) ∧
      (∀ m, m < a ∨ a + bs.length ≤ m → tabGet 0 t.dram m = tabGet 0 s.dram m) ∧
      { t with pool := s.pool, dram := s.dram } = s := by
  obtain ⟨hberth, hothers, hkeep, hframe⟩ := hm
  have hdram : v.dram = s.dram := (congrArg State.dram hframe :)
  rw [berthRequest_resolved hheld (by rw [hres]; exact hkeep.trans hheld), hres]
  refine ⟨hberth, memRead_write _ _ _, hothers, fun m h => ?_,
    (congrArg (fun u => { u with pool := s.pool, dram := s.dram }) hframe :)⟩
  rw [memWrite_other _ _ _ _ h, hdram]

end Rows

section Requests
variable {s : State} {who : Requester} {r : BerthReq} (hok : requesterOk s who = true) (hheld : s.pool.held = [])
include hok hheld

/-- An ALLOC of ports 0 to 10 is granted the berth that the free store gives (R155). -/
theorem alloc_granted (hport : who.port ≤ 10) (hop : brOp r = 0) (hf : brFormed r = true) {far : Bool}
    (hfar : brFar r = far) {k : Nat} {ks : List Nat} (h : ∃ u, poolTake s far (tagOf who) = some (k, u) ∧
      Moved s u k (ownedOnly (tagOf who)) ∧ hotStack u far = ks) :
    let t := berthRequest s ⟨who, tagOf who, r⟩
    getBerth t k = ⟨true, tagOf who, [], none⟩ ∧ hotStack t far = ks ∧
      t.out = .berthResult who.port who.index (berthWord 0 0 k) :: s.out ∧
      (∀ x, x ≠ k → getBerth t x = getBerth s x) ∧ { t with pool := s.pool, out := s.out } = s := by
  obtain ⟨u, htake, hm, hstack⟩ := h
  obtain ⟨hberth, hstacks, hrest⟩ := request_answered hheld hm
    (berthResolve_alloc hop hf hfar hport (index_of_requesterOk hok hport) htake)
  exact ⟨hberth, (hstacks far).trans hstack, hrest⟩

/-- A FREE, SHARE, RELEASE or RECLAIM that fails a check is answered with the check's code, and nothing else. -/
theorem refused_answers (hon : domainOn s 1 = true) (hport : who.port ≤ 10) {op : Nat} (hop : brOp r = op) (h0 : op ≠ 0)
    (hc : berthCheck s who.port (tagOf who) r ≠ 0) :
    berthRow s op who r = .next (settleAll (emit (bump s 0x7010 (0x10 + berthCheck s who.port (tagOf who) r) 1)
      (.berthResult who.port who.index (berthWord (berthCheck s who.port (tagOf who) r) op (brAddr r))))) := by
  subst hop
  have hres := berthResolve_refused h0 hc hport
  rw [berthRow_asked hok hon rfl (.inl hport), berthRequest_resolved hheld (by rw [hres]; exact hheld), hres]

end Requests

/-- Settles O18: each request by the check it fails or the berth it moves, and what the change lets go on by the parts
of `settleAll`. -/
theorem berthsMoveBetweenPoolAndOwners : Obligations.BerthsMoveBetweenPoolAndOwners := by
  unfold Obligations.BerthsMoveBetweenPoolAndOwners
  refine ⟨fun s who r far hok hon hport hheld => ?moves, fun s => settleAll_of_nothingWaits,
    fun s who r hok hon hheld => ?refuses⟩
  case moves =>
    dsimp only
    refine ⟨fun hop hf hfar hclass => ⟨berthRow_asked hok hon hop (.inl hport), fun k ks hs => ?stack,
        fun k hs hk => ?bitmap, fun hs hk hw hplace => ?waits⟩,
      fun hop hgood hq => ⟨berthRow_asked hok hon hop (.inl hport), ?free⟩,
      fun hop hgood => ⟨berthRow_asked hok hon hop (.inl hport), ?share⟩,
      fun hop hgood hquiet => ⟨berthRow_asked hok hon hop (.inl hport), ?release⟩⟩
    case stack => exact alloc_granted hok hheld hport hop hf hfar (poolTake_stack hclass (tagOf who) hs)
    case bitmap => exact alloc_granted hok hheld hport hop hf hfar (poolTake_bitmap hclass (tagOf who) hs hk)
    case waits =>
      have hres := berthResolve_waits (who := who) hop hf hfar (poolTake_empty (tagOf who) hs hk) hw hplace
      rw [berthRequest_resolved hheld (by rw [hres, held_setWaitQ, hheld]), hres]
    case free =>
      obtain ⟨hcheck, hc⟩ := hgood
      obtain ⟨hberth, hstacks, hrest⟩ := request_answered hheld (moved_berthFreed hc hq)
        ((berthResolve_passed (who := who) (by omega) hcheck).trans (by rw [if_pos hop, berthReply_low hport, hop]))
      exact ⟨hberth, hrest.1, hrest.2, (hstacks far).trans (hotStack_berthFreed hc hq)⟩
    case share =>
      obtain ⟨hberth, -, hrest⟩ := request_answered hheld (moved_setBerth s (brAddr r) _)
        ((berthResolve_passed (who := who) (by omega) hgood.1).trans
          (by rw [if_neg (by omega), if_pos hop, berthReply_low hport, hop, shareAct]))
      exact ⟨hberth, hrest⟩
    case release =>
      obtain ⟨hberth, -, hrest⟩ := request_answered hheld (moved_setBerth s (brAddr r) _)
        ((berthResolve_passed (who := who) (by omega) hgood.1).trans
          (by rw [if_neg (by omega), if_neg (by omega), if_pos hop, berthReply_low hport, hop, dropClaim_quiet hquiet]))
      exact ⟨hberth, hrest⟩
  case refuses =>
    dsimp only
    refine ⟨fun hport hc => ⟨?_, ?_, ?_, ?_⟩, fun hport hop => berthCheck_reclaim hport hop,
      fun hport hop hc hbusy hn hr far hclass hq => ⟨berthRow_asked hok hon hop (.inr hport), ?reclaim⟩⟩
    case reclaim =>
      have hword : leBytes 8 (berthWord 0 4 (brAddr r)).toNat = leBytes 8 (4 * 256 + brAddr r * 65536) := by
        rw [berthWord_toNat (by decide) (by decide) (brAddr_lt r), Nat.zero_add]
      have hstored := request_stored hheld (moved_reclaimBerth hclass hq hr hbusy)
        ((berthResolve_passed (who := who) (by omega) hc).trans (by rw [if_neg (by omega), if_neg (by omega),
          if_neg (by omega), berthReply_control hport hn, hop, hword]))
      rwa [leBytes_length] at hstored
    all_goals exact fun hop => refused_answers hok hheld hon hport hop (by decide) hc

end Sys2Proof.Machine
end

section
/-!
SUPPORT. Switched domains: what a cluster keeps and loses as it goes off, the key table of a quay die, and what the
governor's samples change (R172, R340, R395, R398, R412 to R414).
-/
namespace Sys2Proof.Machine

/-! ### Windows go to far berths (R194) -/

theorem ik_poolTake {s u : State} {far : Bool} {tag a : Nat} (h : poolTake s far tag = some (a, u)) : u.ik = s.ik :=
  (congrArg State.ik (offPool_poolTake h) :)

theorem getThr_poolTake {s u : State} {far : Bool} {tag a : Nat} (h : poolTake s far tag = some (a, u)) (t : Nat) :
    getThr u t = getThr s t :=
  (congrArg (fun v => getThr v t) (offPool_poolTake h) :)

theorem ik_saveGot (s : State) (t a : Nat) : (saveGot s t a).ik = s.ik := by
  simp only [saveGot]
  split <;> simp

theorem ik_pushWait (s : State) (far : Bool) (w : Waiter) : (pushWait s far w).ik = s.ik := setWaitQ_ik s far _

theorem ik_saveAsk (s : State) (t : Nat) : (saveAsk s t).ik = s.ik := by
  unfold saveAsk
  dsimp only
  split
  · split <;> rfl
  · split
    next h => rw [ik_saveGot, ik_poolTake h]
    next =>
      split
      · exact ik_pushWait s true _
      · rfl

/-- A window that is saved changes no core. -/
theorem ik_saveWindow (s : State) (t : Nat) : (saveWindow s t).ik = s.ik :=
  foldl_keeps State.ik (fun s _ => ik_saveAsk s t) _ s

theorem ashore_saveWindow (s : State) (t : Nat) : ashore (saveWindow s t) = ashore s :=
  ashore_foldl (fun s _ => ashore_saveAsk s t) _ s

theorem getThr_withDram (s : State) (m : Tab Byte) (t : Nat) : getThr { s with dram := m } t = getThr s t := rfl

/-- With the last far berth of its window a thread is on no core any more. -/
theorem getThr_saveGot_last {s : State} {t : Nat} (a : Nat)
    (h : windowBerths (getThr s t) ≤ (getThr s t).saved.length + 1) :
    getThr (saveGot s t a) t = { getThr s t with lastCore := 0xFFFF, saved := (getThr s t).saved ++ [a] } := by
  have hlast : ¬ ((getThr s t).saved ++ [a]).length < windowBerths (getThr s t) := by
    rw [List.length_append, List.length_singleton]
    omega
  simp only [saveGot, if_neg hlast, getThr_withDram, getThr_setThr]

theorem saveAsk_taken {s v : State} {t a : Nat} (hport : portHeld s 19 = false)
    (htake : poolTake s true (threadTag t) = some (a, v)) : saveAsk s t = saveGot v t a := by
  have htag : poolTake s true (saveReq t).tag = some (a, v) := htake
  simp [saveAsk, hport, htag]

/-- A window that one far berth holds asks for that one. -/
theorem saveWindow_asksOne {s : State} {t : Nat} (hone : windowBerths (getThr s t) = 1)
    (hsaved : (getThr s t).saved = []) : saveWindow s t = saveAsk s t := by
  rw [saveWindow, hone, hsaved, List.length_nil, Nat.sub_zero, List.range_one, List.foldl_cons, List.foldl_nil]

theorem saveWindow_saved {s v : State} {t a : Nat} (hport : portHeld s 19 = false)
    (hone : windowBerths (getThr s t) = 1) (hsaved : (getThr s t).saved = [])
    (htake : poolTake s true (threadTag t) = some (a, v)) :
    (getThr (saveWindow s t) t).lastCore = 0xFFFF ∧ (getThr (saveWindow s t) t).saved = [a] := by
  have hthr : getThr v t = getThr s t := getThr_poolTake htake t
  rw [saveWindow_asksOne hone hsaved, saveAsk_taken hport htake,
    getThr_saveGot_last a (by rw [hthr, hone, hsaved, List.length_nil]), hthr, hsaved]
  exact ⟨rfl, rfl⟩

/-! ### Cores are zeroed -/

/-- What one step of a fold brings about and every step keeps holds after it. -/
theorem foldl_establishes {α : Type} {P : State → Prop} {f : State → α → State} (hkeep : ∀ s y, P s → P (f s y)) {x : α}
    (hx : ∀ s, P (f s x)) {l : List α} (h : x ∈ l) (s : State) : P (l.foldl f s) := by
  induction l generalizing s with
  | nil => cases h
  | cons y l ih =>
    rcases List.mem_cons.mp h with rfl | h
    · exact List.foldlRecOn l f (hx s) fun u hu y _ => hkeep u y hu
    · exact ih h _

theorem getCore_zeroCore (s : State) (c : Nat) :
    getCore (zeroCore s c) c = { getCore s c with bank0 := .empty, bank1 := .empty } := getCore_setCore _ c _

theorem getCore_zeroCore_other (s : State) {c k : Nat} (h : k ≠ c) : getCore (zeroCore s c) k = getCore s k :=
  getCore_setCore_other _ c k _ h

theorem spad_zeroCore (s : State) (c : Nat) :
    (zeroCore s c).ik.spad = memClear s.ik.spad (c * 2 ^ 20) ((c + 1) * 2 ^ 20) := rfl

/-- Both banks of a core are empty. -/
def banksEmpty (s : State) (k : Nat) : Prop := (getCore s k).bank0 = .empty ∧ (getCore s k).bank1 = .empty

theorem banksEmpty_zeroCore {s : State} {c k : Nat} (h : k = c ∨ banksEmpty s k) : banksEmpty (zeroCore s c) k := by
  unfold banksEmpty
  by_cases hk : k = c
  · subst hk
    rw [getCore_zeroCore]
    exact ⟨rfl, rfl⟩
  · rw [getCore_zeroCore_other s hk]
    exact h.resolve_left hk

theorem phase_zeroCore (s : State) (c k : Nat) : (getCore (zeroCore s c) k).phase = (getCore s k).phase := by
  by_cases hk : k = c
  · rw [hk, getCore_zeroCore]
  · rw [getCore_zeroCore_other s hk]

theorem spad_zeroCore_zero {s : State} {c j : Nat}
    (h : (c * 2 ^ 20 ≤ j ∧ j < (c + 1) * 2 ^ 20) ∨ tabGet 0 s.ik.spad j = 0) :
    tabGet 0 (zeroCore s c).ik.spad j = 0 := by
  rw [spad_zeroCore]
  by_cases hj : c * 2 ^ 20 ≤ j ∧ j < (c + 1) * 2 ^ 20
  · exact memClear_inside _ _ _ _ hj.1 hj.2
  · rw [memClear_other _ _ _ _ (by omega)]
    exact h.resolve_left hj

section Cores
variable (l : List Nat) (s : State)

theorem banksEmpty_zeroCores {k : Nat} (h : k ∈ l) : banksEmpty (l.foldl zeroCore s) k :=
  foldl_establishes (P := (banksEmpty · k)) (f := zeroCore) (fun _ _ h => banksEmpty_zeroCore (.inr h))
    (fun _ => banksEmpty_zeroCore (.inl rfl)) h s

theorem phase_zeroCores (k : Nat) : (getCore (l.foldl zeroCore s) k).phase = (getCore s k).phase :=
  foldl_keeps (fun u => (getCore u k).phase) (fun u c => phase_zeroCore u c k) l s

theorem spad_zeroCores {j : Nat} (h : j / 2 ^ 20 ∈ l) : tabGet 0 (l.foldl zeroCore s).ik.spad j = 0 :=
  foldl_establishes (P := fun u => tabGet 0 u.ik.spad j = 0) (f := zeroCore) (fun _ _ h => spad_zeroCore_zero (.inr h))
    (fun _ => spad_zeroCore_zero (.inl (by omega))) h s

theorem hm_zeroCores : (l.foldl zeroCore s).hm = s.hm := foldl_keeps State.hm (f := zeroCore) (fun _ _ => rfl) l s

end Cores

/-! ### A cluster goes off (R395) -/

theorem power_of_ashore {s t : State} (h : ashore t = ashore s) : t.power = s.power := congrArg Ashore.power h

/-- The state whose cores a cluster's switching off zeroes. -/
def windowsSaved (s : State) (c : Nat) : State := (windowsOnCluster s c).foldl saveWindow s

section DomainOff
variable (s : State) (d : Nat)

theorem ik_domainOff : (domainOff s d).ik = s.ik := rfl
theorem hm_domainOff : (domainOff s d).hm = s.hm := rfl
theorem on_domainOff : (domainOff s d).power.on = s.power.on.filter (· != d) := rfl

theorem domainOn_domainOff : domainOn (domainOff s d) d = false := by
  simp [domainOn, domainOff]

end DomainOff

theorem clusterOff_eq (s : State) (c : Nat) :
    clusterOff s c = domainOff ((clusterCores c).foldl zeroCore (windowsSaved s c)) (3 + c) := rfl

section Off
variable (s : State) (c : Nat)

theorem ik_windowsSaved : (windowsSaved s c).ik = s.ik := foldl_keeps State.ik ik_saveWindow _ s

theorem ashore_windowsSaved : ashore (windowsSaved s c) = ashore s := ashore_foldl ashore_saveWindow _ s

theorem on_clusterOff : (clusterOff s c).power.on = s.power.on.filter (· != 3 + c) := by
  have hpower : ((clusterCores c).foldl zeroCore (windowsSaved s c)).power = s.power :=
    power_of_ashore ((ashore_foldl ashore_zeroCore _ _).trans (ashore_windowsSaved s c))
  rw [clusterOff_eq, on_domainOff, hpower]

theorem ik_clusterOff : (clusterOff s c).ik = ((clusterCores c).foldl zeroCore (windowsSaved s c)).ik := by
  rw [clusterOff_eq, ik_domainOff]

theorem hm_clusterOff : (clusterOff s c).hm = (windowsSaved s c).hm := by
  rw [clusterOff_eq, hm_domainOff, hm_zeroCores]

theorem getCore_clusterOff (k : Nat) :
    getCore (clusterOff s c) k = getCore ((clusterCores c).foldl zeroCore (windowsSaved s c)) k := by
  rw [getCore, ik_clusterOff, getCore]

theorem banksEmpty_clusterOff {k : Nat} (h : k / 32 = c) : banksEmpty (clusterOff s c) k := by
  rw [banksEmpty, getCore_clusterOff]
  exact banksEmpty_zeroCores _ (windowsSaved s c) (mem_clusterCores.mpr h)

theorem phase_clusterOff (k : Nat) : (getCore (clusterOff s c) k).phase = (getCore s k).phase := by
  rw [getCore_clusterOff, phase_zeroCores, getCore, ik_windowsSaved, getCore]

/-- The scratchpads of the cluster's 32 cores lie one after another. -/
theorem spad_clusterOff {j : Nat} (hlo : c * 2 ^ 25 ≤ j) (hhi : j < (c + 1) * 2 ^ 25) :
    tabGet 0 (clusterOff s c).ik.spad j = 0 := by
  rw [ik_clusterOff]
  exact spad_zeroCores _ (windowsSaved s c) (mem_clusterCores.mpr (by omega))

theorem getThr_clusterOff (h : Nat) : getThr (clusterOff s c) h = getThr (windowsSaved s c) h := by
  rw [getThr, hm_clusterOff, getThr]

end Off

/-- No core of a cluster that can go off runs a block. -/
theorem idle_of_clusterCanStop {s : State} {c k : Nat} (h : clusterCanStop s c = true) (hk : k / 32 = c) :
    (getCore s k).phase = .idle := by
  simp only [clusterCanStop, Bool.and_eq_true, Bool.not_eq_true'] at h
  obtain ⟨⟨⟨⟨⟨-, hbusy⟩, -⟩, -⟩, -⟩, -⟩ := h
  have hidle := List.any_eq_false.mp hbusy k (mem_clusterCores.mpr hk)
  simpa using hidle

theorem portHeld_of_clusterCanStop {s : State} {c : Nat} (h : clusterCanStop s c = true) : portHeld s 19 = false := by
  simp only [clusterCanStop, Bool.and_eq_true, Bool.not_eq_true'] at h
  obtain ⟨⟨-, hport⟩, -⟩ := h
  exact hport

/-- The one window on a cluster that goes off is saved in the far berth it takes. -/
theorem clusterOff_savesWindow {s v : State} {c h a : Nat} (hstop : clusterCanStop s c = true)
    (hw : windowsOnCluster s c = [h]) (hone : windowBerths (getThr s h) = 1) (hsaved : (getThr s h).saved = [])
    (htake : poolTake s true (threadTag h) = some (a, v)) :
    (getThr (clusterOff s c) h).lastCore = 0xFFFF ∧ (getThr (clusterOff s c) h).saved = [a] := by
  have hsaves : windowsSaved s c = saveWindow s h := by rw [windowsSaved, hw, List.foldl_cons, List.foldl_nil]
  rw [getThr_clusterOff, hsaves]
  exact saveWindow_saved (portHeld_of_clusterCanStop hstop) hone hsaved htake

/-! ### The key table of a quay die (R340) -/

theorem xts_clearXts (s : State) (q : Nat) {n : Nat} (h : n < 2 ^ 16) :
    tabGet [] (clearXts s q).eng.xts (q * 2 ^ 16 + n) = [] := by
  have hquay : (q * 2 ^ 16 + n) / 2 ^ 16 = q := by omega
  exact tabGet_filter_none _ _ _ _ fun v => by simp only [hquay, bne_self_eq_false]

theorem xts_fillXts {s : State} {q n : Nat} {key : List Byte} (h : s.media.nsKeys = [(n, key)]) :
    tabGet [] (fillXts s q).eng.xts (q * 2 ^ 16 + n) = key := by
  rw [fillXts, h]
  exact tabGet_put_same _ _ _ _

/-! ### The governor (R413) -/

/-- A sample joins the last 100 and changes nothing else that the governor or the cap reads. -/
theorem notePwr_spec (s : State) (mw : Nat) : (notePwr s mw).power.pw = (mw :: s.power.pw).take 100 ∧
    (notePwr s mw).power.limitN = s.power.limitN ∧ (notePwr s mw).power.quayPaused = s.power.quayPaused ∧
    capW (notePwr s mw) = capW s := by
  unfold notePwr
  dsimp only
  split <;> exact ⟨rfl, rfl, rfl, rfl⟩

/-- A sample has been taken, and the governor has acted on it. -/
def governed (s : State) (mw : Nat) : State :=
  let u := govern (notePwr s mw)
  if s.power.withheld && !u.power.withheld then kickIdle u else u

theorem power_governed (s : State) (mw : Nat) : (governed s mw).power = (govern (notePwr s mw)).power := by
  unfold governed
  dsimp only
  split
  · exact power_of_ashore (ashore_kickIdle _)
  · rfl

theorem exec_governorSample (s : State) (mw : Nat) :
    exec (.governorSample mw) s = .next (when (decide (3 ≤ s.power.bootStep)) s (governed s mw)) := rfl

/-- Quay issue pauses. -/
def paused (s : State) : State := { s with power := { s.power with quayPaused := true } }

/-- With the pause a cluster that can go off does. -/
def stopIdle (s : State) (c : Nat) : State := if clusterCanStop s c then clusterOff s c else s

theorem exec_governorPause (s : State) : exec .governorPause s = .next (when (s.power.limiting &&
    decide (500 ≤ s.power.limitN) && !s.power.quayPaused && !s.power.dumping) s
      ((List.range 8).foldl stopIdle (paused s))) := rfl

theorem clusterCanStop_paused (s : State) (c : Nat) : clusterCanStop (paused s) c = clusterCanStop s c := rfl

/-- A module none of whose clusters can go off keeps them all as quay issue pauses. -/
theorem stopIdle_paused {s : State} {c : Nat} (h : clusterCanStop s c = false) : stopIdle (paused s) c = paused s := by
  rw [stopIdle, clusterCanStop_paused, h, if_neg Bool.false_ne_true]

/-! ### The rows -/

/-- Where nobody waits for a near berth none is granted. -/
theorem grantNear_none {s : State} (h : s.pool.nearWait = []) (n : Nat) : grantNear n s = s := by
  cases n with
  | zero => rfl
  | succ n =>
    unfold grantNear
    rw [h]

section When
variable {i : Instr} {s t : State} {b : Bool} (hrow : exec i s = .next (when b s t))
include hrow

/-- A row whose condition holds has its effect, and one whose condition does not hold has none. -/
theorem exec_when (hb : b = true) : exec i s = .next t := by rw [hrow, when_of hb]
theorem exec_unless (hb : b = false) : exec i s = .next s := by rw [hrow, when_unless hb]

end When

/-- Settles O55: each row by its condition, and by what it does to power, cores, windows, berths, keys and limits. -/
theorem domainsSwitchAndTheGovernorActs : Obligations.DomainsSwitchAndTheGovernorActs := by
  unfold Obligations.DomainsSwitchAndTheGovernorActs
  intro s c q mw
  refine ⟨fun hc hd => ⟨fun hstop hwhy => ⟨?goesOff, on_clusterOff s c, fun k hk => ?cores, fun j => spad_clusterOff s c,
      fun h a v => clusterOff_savesWindow hstop⟩, fun hnot => ?staysOn, fun hb hq hoff hal hlim hw => ?comesOn⟩,
    fun hd => ⟨fun hon hcnt hwait => ?nearOff, fun hb hoff hrun hwait => ?nearOn,
      fun hq hon hf hbusy => ⟨?quayOff, fun n => xts_clearXts s q⟩,
      fun hq hb hoff hf hrun => ⟨?quayOn, fun n key => xts_fillXts⟩⟩,
    fun hb => ?sample, fun hlim hn hq hd hnone => ?pause⟩
  case goesOff => exact exec_when rfl (by simp [hc, hd, hstop, hwhy])
  case cores =>
    obtain ⟨hbank0, hbank1⟩ := banksEmpty_clusterOff s c hk
    exact ⟨hbank0, hbank1, (phase_clusterOff s c k).trans (idle_of_clusterCanStop hstop hk)⟩
  case staysOn =>
    refine exec_unless rfl ?_
    rcases hnot with hcan | ⟨hforb, hidle⟩
    · simp [hcan]
    · simp [hforb, hidle]
  case comesOn => exact exec_when rfl (by simp [hc, hb, hd, hq, hoff, hal, hlim, hw])
  case nearOff =>
    exact completes_when rfl (by simp [hon, hcnt, hwait, hd]) ⟨domainOn_domainOff s 2, rfl, rfl⟩
  case nearOn =>
    refine (exec_when rfl (by simp [hb, hd, hoff, hrun])).trans ?_
    dsimp only
    rw [grantNear_none (by exact hwait)]
    rfl
  case quayOff => exact exec_when rfl (by simp [hq, hon, hf, hbusy, hd])
  case quayOn => exact exec_when rfl (by simp [hq, hb, hd, hoff, hf, hrun])
  case sample =>
    obtain ⟨hpw, hlimN, hpaused, hcap⟩ := notePwr_spec s mw
    refine completes_when (exec_governorSample s mw) (decide_eq_true hb) ?_
    rw [power_governed]
    simp only [govern, power100, hpw, hlimN, hpaused, hcap]
    refine ⟨trivial, trivial, trivial, ?_, ?_⟩
    · simp only [decide_eq_true_eq]
    · simp only [← decide_not, Nat.not_lt]
  case pause =>
    have hstay : (List.range 8).foldl stopIdle (paused s) = paused s :=
      foldl_fixed_of_mem fun k hk => stopIdle_paused (hnone k (List.mem_range.mp hk))
    rw [exec_when (exec_governorPause s) (by simp [hlim, hn, hq, hd]), hstay]
    rfl

end Sys2Proof.Machine
end

section
/-!
SUPPORT. Doorbells, fetched commands and stalled ones (R53 to R57, R75, R178): what a fetch writes into the docket
table, and what it leaves alone.
-/
namespace Sys2Proof.Machine

/-! ### Doorbells (R178) -/

section Doorbells
variable {s : State} {fn qid v : Nat} (hr : (getFn s fn).rdy = true)
include hr

theorem sqTailDoorbell_moves (hl : (getSq s fn qid).live = true) (hv : v < (getSq s fn qid).size) :
    exec (.sqTailDoorbell fn qid v) s = .next (kickIdle (postToken (modSq s fn qid (fun q => { q with tail := v })) 7
      fwSpace (doorbellChannel (getSq s fn qid) fn qid) 1 false)) := by
  refine (exec_when rfl hr).trans ?_
  rw [if_neg (by simp [hl]), if_neg (Nat.not_le.mpr hv)]

theorem sqTailDoorbell_noQueue (hl : (getSq s fn qid).live = false) :
    exec (.sqTailDoorbell fn qid v) s = .next (postEvent s fn ⟨0, 0, 1⟩) := by
  refine (exec_when rfl hr).trans ?_
  rw [if_pos (by simp [hl])]
  rfl

theorem sqTailDoorbell_outOfRange (hl : (getSq s fn qid).live = true) (hv : (getSq s fn qid).size ≤ v) :
    exec (.sqTailDoorbell fn qid v) s = .next (postEvent s fn ⟨0, 1, 1⟩) := by
  refine (exec_when rfl hr).trans ?_
  rw [if_neg (by simp [hl]), if_pos hv]
  rfl

/-- With no completion waiting for room, a head doorbell only frees the entries it passes. -/
theorem cqHeadDoorbell_moves {n : Nat}
    (hn : n = (v + (getCq s fn qid).size - (getCq s fn qid).head) % (getCq s fn qid).size)
    (hl : (getCq s fn qid).live = true) (hv : v < (getCq s fn qid).size) (hu : n ≤ (getCq s fn qid).used)
    (hw : (getCq s fn qid).waiting = []) :
    exec (.cqHeadDoorbell fn qid v) s =
      .next (modCq s fn qid (fun c => { c with head := v, used := c.used - n })) := by
  refine (exec_when rfl hr).trans ?_
  rw [if_neg (by simp [hl]), if_neg (by omega), hw, ← hn]
  simp only [List.foldl_nil, modCq, tabMod]
  rw [← hw]
  rfl

theorem cqHeadDoorbell_noQueue (hl : (getCq s fn qid).live = false) :
    exec (.cqHeadDoorbell fn qid v) s = .next (postEvent s fn ⟨0, 0, 1⟩) := by
  refine (exec_when rfl hr).trans ?_
  rw [if_pos (by simp [hl])]
  rfl

end Doorbells

/-! ### New entries of the docket table (R53, R57) -/

/-- A value listed under a new key is one more that satisfies `p`. -/
theorem length_filter_tabPut_new {α : Type} {t : Tab α} {k : Nat} {v : α} (hk : tabFind t k = none)
    (p : Nat × α → Bool) (hp : p (k, v) = true) : ((tabPut t k v).filter p).length = (t.filter p).length + 1 := by
  induction t with
  | nil => simp [tabPut, hp]
  | cons e t ih =>
    obtain ⟨j, w⟩ := e
    have hj : j ≠ k := fun h => by simp [tabFind, h] at hk
    have hk' : tabFind t k = none := by simpa [tabFind, hj] using hk
    simp only [tabPut]
    split
    · simp [List.filter_cons, hp]
    · rw [if_neg hj.symm]
      cases h : p (j, w) <;> simp [h, ih hk']

theorem docketUsed_setDk_new {s : State} {d : Nat} {e : Docket} (hd : dkUsed s d = false) (hw : e.word = .admitted)
    (hp : e.posted = false) : docketUsed (setDk s d e) = docketUsed s + 1 := by
  have hne : e ≠ Docket.free := fun h => by rw [h] at hw; exact absurd hw (by decide)
  have hnone : tabFind s.host.dockets d = none := by simpa [dkUsed] using hd
  simp only [docketUsed, setDk, tabSet, if_neg hne]
  exact length_filter_tabPut_new hnone _ (by simp [hp])

section Full
variable (s : State) (took : Bool)

/-- A docket table that is full stops fetching, and changes nothing else of the host interface. -/
theorem host_noteFull : (noteFull s took).host =
    if 262144 ≤ docketUsed s then { s.host with globalStop := true } else s.host := by
  unfold noteFull
  extract_lets u
  have hhost : u.host = s.host := by
    unfold u
    split <;> rfl
  rw [show docketUsed u = docketUsed s by rw [docketUsed, hhost, docketUsed]]
  split
  · rw [bump_host]
    exact congrArg (fun h : HostIf => { h with globalStop := true }) hhost
  · exact hhost

theorem stopless_noteFull :
    { (noteFull s took).host with globalStop := false } = { s.host with globalStop := false } := by
  rw [host_noteFull]
  split <;> rfl

theorem dockets_noteFull : (noteFull s took).host.dockets = s.host.dockets :=
  (congrArg HostIf.dockets (stopless_noteFull s took) :)
theorem fns_noteFull : (noteFull s took).host.fns = s.host.fns := (congrArg HostIf.fns (stopless_noteFull s took) :)
theorem seq_noteFull : (noteFull s took).host.seq = s.host.seq := (congrArg HostIf.seq (stopless_noteFull s took) :)
theorem ps_noteFull : (noteFull s took).host.ps = s.host.ps := (congrArg HostIf.ps (stopless_noteFull s took) :)

end Full

/-- The state but for the host interface and the dictionary. -/
def offDocket (s : State) : State := { s with host := HostIf.empty, dict := [] }

@[simp] theorem offDocket_withHost (s : State) (h : HostIf) : offDocket { s with host := h } = offDocket s := rfl
@[simp] theorem offDocket_bump (s : State) (i sub n : Nat) : offDocket (bump s i sub n) = offDocket s := rfl
@[simp] theorem offDocket_modFn (s : State) (fn : Nat) (g : Fn → Fn) : offDocket (modFn s fn g) = offDocket s := rfl
@[simp] theorem offDocket_setDk (s : State) (d : Nat) (e : Docket) : offDocket (setDk s d e) = offDocket s := rfl

theorem offDocket_noteFull (s : State) (took : Bool) : offDocket (noteFull s took) = offDocket s := by
  unfold noteFull
  extract_lets u
  have hcount : offDocket u = offDocket s := by
    unfold u
    split <;> rfl
  split
  · rw [offDocket_bump, offDocket_withHost, hcount]
  · exact hcount

theorem offDocket_noteTurn (s : State) (fn sqid : Nat) : offDocket (noteTurn s fn sqid) = offDocket s :=
  (offDocket_withHost _ _).trans (offDocket_modFn s fn _)

theorem offDocket_wakePs4 (s : State) : offDocket (wakePs4 s) = offDocket s := by
  unfold wakePs4
  dsimp only
  split <;> rfl

theorem offDocket_fetchSlot (s : State) (fn sqid : Nat) : offDocket (fetchSlot s fn sqid) = offDocket s := by
  rw [fetchSlot, offDocket_noteTurn, offDocket_wakePs4, modSq, offDocket_modFn]

theorem eq_of_offDocket {s t : State} (h : offDocket t = offDocket s) : { t with host := s.host, dict := s.dict } = s :=
  congrArg (fun u : State => { u with host := s.host, dict := s.dict }) h

/-! ### A slot is fetched (R54, R75) -/

theorem host_wakePs4 (s : State) : (wakePs4 s).host = { s.host with
    ps := if s.host.ps = 4 then s.host.psLastOp else s.host.ps
    psWait := s.host.psWait.map (fun w => { w with idle := false }) } := by
  simp only [wakePs4]
  split <;> rfl

section Fetch
variable (s : State) (fn sqid : Nat)

theorem dockets_fetchSlot : (fetchSlot s fn sqid).host.dockets = s.host.dockets := by
  simp only [fetchSlot, noteTurn, modFn, setFn, host_wakePs4]
  rfl

theorem seq_fetchSlot : (fetchSlot s fn sqid).host.seq = s.host.seq := by
  simp only [fetchSlot, noteTurn, modFn, setFn, host_wakePs4]
  rfl

theorem globalStop_fetchSlot : (fetchSlot s fn sqid).host.globalStop = s.host.globalStop := by
  simp only [fetchSlot, noteTurn, modFn, setFn, host_wakePs4]
  rfl

theorem ps_fetchSlot : (fetchSlot s fn sqid).host.ps = if s.host.ps = 4 then s.host.psLastOp else s.host.ps := by
  simp only [fetchSlot, noteTurn, modFn, setFn, host_wakePs4]
  rfl

/-- The head of the queue moves to its next slot. -/
theorem head_fetchSlot : (getSq (fetchSlot s fn sqid) fn sqid).head =
    ((getSq s fn sqid).head + 1) % (getSq s fn sqid).size := by
  have hwake (u : State) : getFn (wakePs4 u) fn = getFn u fn := by simp only [getFn, host_wakePs4]
  have hturn (u : State) : (getFn (noteTurn u fn sqid) fn).sqs = (getFn u fn).sqs := by
    simp [noteTurn, getFn, modFn, setFn]
  simp only [getSq, fetchSlot, hturn, hwake, modSq, getFn_modFn, tabMod, tabGet_set_same]

theorem media_fetchSlot : (fetchSlot s fn sqid).media = s.media :=
  (congrArg State.media (offDocket_fetchSlot s fn sqid) :)
theorem power_fetchSlot : (fetchSlot s fn sqid).power = s.power :=
  (congrArg State.power (offDocket_fetchSlot s fn sqid) :)

theorem locksOf_fetchSlot (q : Sqe) : locksOf (fetchSlot s fn sqid) q = locksOf s q := by
  simp only [locksOf, lockOf, zoneLbas, getNs, media_fetchSlot]

theorem lockBlocked_fetchSlot (e : Docket) : lockBlocked (fetchSlot s fn sqid) e = lockBlocked s e := by
  simp only [lockBlocked, dockets_fetchSlot]

end Fetch

/-! ### A docket entry is opened (R53, R57) -/

/-- The entry a fetched command is given. -/
def openedEntry (s : State) (fn sqid slot : Nat) (q : Sqe) : Docket :=
  let e : Docket := { Docket.free with
    word := .admitted, fn := fn, sqid := sqid, slot := slot, sqe := q, seq := s.host.seq, locks := locksOf s q
    healthy := s.power.healthy, ordered := (getSq s fn sqid).ordered
    pack := (getNs s q.nsid).compress && dget s 0x7040 1 != 0 }
  { e with stalled := lockBlocked s e }

/-- The table with the entry in it. -/
def withEntry (s : State) (d : Nat) (e : Docket) : State :=
  setDk { s with host := { s.host with seq := s.host.seq + 1 } } d e

theorem openDocket_eq (s : State) (d fn sqid slot : Nat) (q : Sqe) : openDocket s d fn sqid slot q =
    noteFull (withEntry s d (openedEntry s fn sqid slot q)) (!(locksOf s q).isEmpty) := rfl

section Opened
variable {s : State} {d fn sqid slot : Nat} {q : Sqe}

theorem getDk_openDocket : getDk (openDocket s d fn sqid slot q) d = openedEntry s fn sqid slot q := by
  rw [openDocket_eq, getDk, dockets_noteFull]
  exact getDk_setDk _ d _

theorem getDk_openDocket_other {c : Nat} (h : c ≠ d) : getDk (openDocket s d fn sqid slot q) c = getDk s c := by
  rw [openDocket_eq, getDk, dockets_noteFull]
  exact getDk_setDk_other _ d c _ h

theorem seq_openDocket : (openDocket s d fn sqid slot q).host.seq = s.host.seq + 1 := by
  rw [openDocket_eq, seq_noteFull]
  rfl

theorem ps_openDocket : (openDocket s d fn sqid slot q).host.ps = s.host.ps := by
  rw [openDocket_eq, ps_noteFull]
  rfl

theorem getSq_openDocket (g r : Nat) : getSq (openDocket s d fn sqid slot q) g r = getSq s g r := by
  rw [openDocket_eq, getSq, getFn, fns_noteFull]
  rfl

theorem offDocket_openDocket : offDocket (openDocket s d fn sqid slot q) = offDocket s := by
  rw [openDocket_eq, offDocket_noteFull, withEntry, offDocket_setDk, offDocket_withHost]

/-- Fetching stops with the entry that fills the table. -/
theorem globalStop_openDocket (hd : dkUsed s d = false) : (openDocket s d fn sqid slot q).host.globalStop =
    if 262144 ≤ docketUsed s + 1 then true else s.host.globalStop := by
  have hused : docketUsed (withEntry s d (openedEntry s fn sqid slot q)) = docketUsed s + 1 :=
    docketUsed_setDk_new (s := { s with host := { s.host with seq := s.host.seq + 1 } }) hd rfl rfl
  rw [openDocket_eq, host_noteFull, hused]
  split <;> rfl

end Opened

/-! ### The rows -/

/-- A command of an open queue takes a free entry. -/
theorem commandFetch_opens {s : State} {fn sqid d : Nat} {q : Sqe} (ho : fetchOpen s fn sqid = true) (hd : d < 524288)
    (hu : dkUsed s d = false) (hl : locksUsed s + (locksOf s q).length ≤ 16384) : exec (.commandFetch fn sqid d q) s =
      .next (openDocket (fetchSlot s fn sqid) d fn sqid (getSq s fn sqid).head q) :=
  exec_when rfl (by simp [ho, hd, hu, hl])

/-- An entry of this module's own commands runs on by itself once it is no longer stalled. -/
theorem lockStallRelease_frees {s : State} {d : Nat} (hu : dkUsed s d = true) (hs : (getDk s d).stalled = true)
    (hb : lockBlocked s (getDk s d) = false) (hm : (getDk s d).mirrorOf = none) (hr : (getDk s d).remote = none) :
    exec (.lockStallRelease d) s = .next (modDk s d (fun e => { e with stalled := false })) := by
  refine (exec_when rfl (by simp [hu, hs, hb])).trans ?_
  simp [runFromPartner, modDk, hm, hr]

theorem aggregationTimeExpiry_sends {s : State} {fn v : Nat} (h : 0 < tabGet 0 (getFn s fn).coal v) :
    exec (.aggregationTimeExpiry fn v) s =
      .next (emit (modFn s fn (fun f => { f with coal := tabSet 0 f.coal v 0 })) (.msi fn v)) :=
  exec_when rfl (decide_eq_true h)

/-- Settles O13: the doorbells by their registers' checks, a fetch by the entry it opens and the slot it passes, and a
stalled entry by its lock entries. -/
theorem commandsAreFetchedFromQueues : Obligations.CommandsAreFetchedFromQueues := by
  unfold Obligations.CommandsAreFetchedFromQueues
  refine ⟨fun s fn qid v => ⟨fun hr => ?doorbells, fun h => ?interrupt⟩, fun s fn sqid d q ho hd hu hl => ?fetch,
    fun s d => ⟨?resume, ?released, ?blocked⟩⟩
  case doorbells =>
    exact ⟨sqTailDoorbell_moves hr, sqTailDoorbell_noQueue hr, sqTailDoorbell_outOfRange hr,
      cqHeadDoorbell_moves hr rfl, cqHeadDoorbell_noQueue hr⟩
  case interrupt =>
    exact ⟨_, aggregationTimeExpiry_sends h, rfl, by simp, rfl⟩
  case fetch =>
    refine ⟨_, commandFetch_opens ho hd hu hl, ?_⟩
    have hu' : dkUsed (fetchSlot s fn sqid) d = false := by simpa only [dkUsed, dockets_fetchSlot] using hu
    have hused : docketUsed (fetchSlot s fn sqid) = docketUsed s := by rw [docketUsed, dockets_fetchSlot, docketUsed]
    have hstop := globalStop_openDocket (fn := fn) (sqid := sqid) (slot := (getSq s fn sqid).head) (q := q) hu'
    rw [hused, globalStop_fetchSlot] at hstop
    simp only [getDk_openDocket, seq_openDocket, ps_openDocket, getSq_openDocket, head_fetchSlot, seq_fetchSlot,
      ps_fetchSlot]
    refine ⟨rfl, rfl, rfl, rfl, rfl, locksOf_fetchSlot s fn sqid q, seq_fetchSlot s fn sqid, trivial,
      congrArg Power.healthy (power_fetchSlot s fn sqid), lockBlocked_fetchSlot s fn sqid _, trivial, trivial,
      ?_, ?_, ?_, ?_⟩
    · intro c hc
      rw [getDk_openDocket_other hc, getDk, dockets_fetchSlot, getDk]
    · intro h
      rw [hstop, if_neg (by omega)]
    · intro h
      rw [hstop, if_pos h]
    · exact eq_of_offDocket (offDocket_openDocket.trans (offDocket_fetchSlot s fn sqid))
  case resume =>
    exact fun hs hu => exec_when rfl (by simp [hs, hu])
  case released =>
    exact fun hu hs hb hm hr => ⟨_, lockStallRelease_frees hu hs hb hm hr, getDk_setDk s d _,
      fun c hc => getDk_setDk_other s d c _ hc, rfl⟩
  case blocked =>
    exact fun hu hs hb => exec_unless rfl (by simp [hb])

end Sys2Proof.Machine
end

section
/-!
SUPPORT. Tokens and what waits for them (R179 to R187, R189): what a post changes in the manifest store, and where a
thread that is held back goes on.
-/
namespace Sys2Proof.Machine

/-! ### What placing a thread leaves alone -/

/-- The tokens of every channel, and the threads that wait for some. -/
def tokens (s : State) : Tab Chan × List Nat := (s.hm.chans, s.hm.waits)

section Tokens
variable (s : State)

@[simp] theorem tokens_ite (c : Prop) [Decidable c] (a b : State) :
    tokens (if c then a else b) = if c then tokens a else tokens b := apply_ite tokens c a b

@[simp] theorem tokens_modThr (t : Nat) (g : Thread → Thread) : tokens (modThr s t g) = tokens s := rfl
@[simp] theorem tokens_modCore (c : Nat) (g : Core → Core) : tokens (modCore s c g) = tokens s := rfl
@[simp] theorem tokens_setLease (c : Nat) (l : CoreLease) : tokens (setLease s c l) = tokens s := rfl
@[simp] theorem tokens_modDk (d : Nat) (g : Docket → Docket) : tokens (modDk s d g) = tokens s := rfl
@[simp] theorem tokens_bump (i sub n : Nat) : tokens (bump s i sub n) = tokens s := rfl
@[simp] theorem tokens_pushHeld (w : Waiter) : tokens (pushHeld s w) = tokens s := rfl
@[simp] theorem tokens_pushWait (far : Bool) (w : Waiter) : tokens (pushWait s far w) = tokens s := by cases far <;> rfl
@[simp] theorem tokens_pushReady (t : Nat) (p : Place) : tokens (pushReady s t p) = tokens s := rfl
@[simp] theorem tokens_pushRing (e : RingEnt) : tokens (pushRing s e) = tokens s := rfl
@[simp] theorem tokens_stampReady (t : Nat) : tokens (stampReady s t) = tokens s := rfl

theorem tokens_poolTake {s u : State} {far : Bool} {tag a : Nat} (h : poolTake s far tag = some (a, u)) :
    tokens u = tokens s := (congrArg tokens (offPool_poolTake h) :)

@[simp] theorem tokens_saveGot (t a : Nat) : tokens (saveGot s t a) = tokens s := by
  unfold saveGot
  dsimp only
  split <;> rfl

@[simp] theorem tokens_saveAsk (t : Nat) : tokens (saveAsk s t) = tokens s := by
  unfold saveAsk
  dsimp only
  split
  · simp
  · split
    next h => rw [tokens_saveGot, tokens_poolTake h]
    next => simp

@[simp] theorem tokens_saveAsks (t : Nat) : tokens (saveAsks s t) = tokens s :=
  foldl_keeps tokens (fun u _ => tokens_saveAsk u t) _ s

@[simp] theorem tokens_finishChange (c : Nat) (sp : Option Nat) : tokens (finishChange s c sp) = tokens s := by
  unfold finishChange
  rw [tokens_bump, tokens_setLease]
  unfold tokens
  rfl

@[simp] theorem tokens_settleChange (c : Nat) : tokens (settleChange s c) = tokens s := by
  have hsaves (l : List Nat) : tokens (l.foldl saveAsks s) = tokens s := foldl_keeps tokens tokens_saveAsks l s
  unfold settleChange
  dsimp only
  split
  · rfl
  · simp only [tokens_ite, tokens_finishChange, hsaves, ite_self]

@[simp] theorem tokens_startChange (c : Nat) (sp : Option Nat) : tokens (startChange s c sp) = tokens s := by
  simp [startChange]

@[simp] theorem tokens_dispatch (c t : Nat) : tokens (dispatch s c t) = tokens s := by
  unfold dispatch
  dsimp only
  split <;> simp

@[simp] theorem tokens_enterList (d t : Nat) (r : Bool) : tokens (enterList s d t r) = tokens s := by
  unfold enterList
  dsimp only
  split <;> simp

@[simp] theorem tokens_place (t : Nat) : tokens (place s t) = tokens s := by simp [place, enterCluster]

/-- A thread that becomes ready takes no token. -/
@[simp] theorem tokens_makeReady (t : Nat) : tokens (makeReady s t) = tokens s := by simp [makeReady]

end Tokens

section Read
variable {s t : State} (h : tokens t = tokens s)
include h

theorem waits_of_tokens : t.hm.waits = s.hm.waits := (congrArg Prod.snd h :)
theorem getChan_of_tokens (k : Nat) : getChan t k = getChan s k :=
  (congrArg (fun p : Tab Chan × List Nat => tabGet ⟨0, false⟩ p.1 k) h :)

end Read

/-! ### A post reaches its channel (R182, R184) -/

theorem postBar_clear {s : State} {space ch qty : Nat} (h1 : 1 ≤ qty) (h2 : qty ≤ 65535)
    (hch : chanThread space ch = none) (hi : idleChans s space < idleLimit space) :
    postBar s space ch qty = .clear := by
  have hidle : ¬ idleLimit space ≤ idleChans s space := by omega
  simp only [postBar, hch, hidle, and_false, if_false]
  rw [if_neg (by omega)]

theorem postBar_denied {s : State} {space ch qty : Nat} (h : qty = 0 ∨ 65535 < qty) :
    postBar s space ch qty = .denied := by
  unfold postBar
  exact if_pos h

theorem postToken_denied {s : State} {space ch qty : Nat} (h : qty = 0 ∨ 65535 < qty) (port : Nat) (m : Bool) :
    postToken s port space ch qty m = logFault (bump s 0x7020 0x0C qty) space 2 0 none 0 ch port := by
  rw [postToken, postBar_denied h]

/-- With no entry in the spill ring and room in the store, a post that nothing bars is applied. -/
theorem postToken_applied {s : State} {port space ch qty : Nat} {m : Bool} (h1 : 1 ≤ qty) (h2 : qty ≤ 65535)
    (hch : chanThread space ch = none) (hr : s.hm.ring = []) (hm : manifestUsed s < 32768)
    (hi : idleChans s space < idleLimit space) :
    postToken s port space ch qty m = applyPost s (chanKey space ch) qty port m := by
  have hin : chanInRing s (chanKey space ch) = false := by simp [chanInRing, hr]
  have hto : toRing s = false := by simp [toRing, hr, hm]
  simp [postToken, postBar_clear h1 h2 hch hi, postApply, hin, hto]

section Applied
variable {s : State} {k qty port : Nat} {m : Bool}

theorem applyPost_counts (h : (getChan s k).count + qty < 2 ^ 32) : applyPost s k qty port m =
    matchChan (setChan s k ⟨(getChan s k).count + qty, (getChan s k).marked || m⟩) k port := by
  have hmin : min ((getChan s k).count + qty) 0xFFFFFFFF = (getChan s k).count + qty := by omega
  simp [applyPost, hmin]

/-- A count that would pass 2^32 - 1 stays there, and what it loses is counted. -/
theorem applyPost_saturates (h : 2 ^ 32 ≤ (getChan s k).count + qty) : applyPost s k qty port m =
    matchChan (setChan (bump s 0x7020 0x0C ((getChan s k).count + qty - 0xFFFFFFFF)) k
      ⟨0xFFFFFFFF, (getChan s k).marked || m⟩) k port := by
  have hmin : min ((getChan s k).count + qty) 0xFFFFFFFF = 0xFFFFFFFF := by omega
  have hlost : (getChan s k).count + qty > 0xFFFFFFFF := by omega
  simp only [applyPost, hmin, if_pos hlost]

theorem waits_setChan (c : Chan) : (setChan s k c).hm.waits = s.hm.waits := rfl

theorem matchChan_unwaited (h : s.hm.waits = []) : matchChan s k port = s := by rw [matchChan, h, List.foldl_nil]

/-- The one thread that waits takes its tokens where its requirements, one of them on the channel, are met. -/
theorem matchChan_met {t : Nat} (hw : s.hm.waits = [t]) (hk : k ∈ reqKeys s t) (hmet : reqsMet s t = true) :
    matchChan s k port = consume s t port := by
  simp [matchChan, hw, hk, hmet]

theorem hm_logFault (s : State) (space kind code : Nat) (th : Option Nat) (a : W64) (ch port : Nat) :
    (logFault s space kind code th a ch port).hm = s.hm := by
  unfold logFault
  split <;> rfl

theorem waits_trimIdle : (trimIdle s k port).hm.waits = s.hm.waits := by
  unfold trimIdle
  dsimp only
  split
  · rw [hm_logFault]
    rfl
  · rfl

/-- A channel with no token has none once it was looked at for trimming. -/
theorem getChan_trimIdle (h : getChan s k = ⟨0, false⟩) : getChan (trimIdle s k port) k = ⟨0, false⟩ := by
  unfold trimIdle
  dsimp only
  split
  · simp [getChan, hm_logFault, setChan]
  · exact h

/-- A thread whose one requirement is all that its channel holds leaves the channel empty and waits no more. -/
theorem consume_all {t ch : Nat} (hreq : (getThr s t).reqs = [⟨ch, (getChan s k).count⟩])
    (hk : k = chanKey (getThr s t).space ch) :
    (consume s t port).hm.waits = s.hm.waits.filter (· != t) ∧ getChan (consume s t port) k = ⟨0, false⟩ := by
  unfold consume
  simp only [reqKeys, hreq, List.map_cons, List.map_nil, List.foldl_cons, List.foldl_nil, ← hk]
  generalize hv : trimIdle _ k port = v
  have hw : v.hm.waits = s.hm.waits.filter (· != t) := by
    rw [← hv, waits_trimIdle]
    rfl
  have hc : getChan v k = ⟨0, false⟩ := by
    rw [← hv]
    exact getChan_trimIdle (by simp [getChan, setChan, noteConsumers])
  have hready (b : Bool) (g : Thread → Thread) : tokens (makeReady (if b then modThr v t g else v) t) = tokens v := by
    simp
  exact ⟨(waits_of_tokens (hready _ _)).trans hw, (getChan_of_tokens (hready _ _) k).trans hc⟩

/-- Where no thread waits, a post adds to its channel alone. -/
theorem applyPost_unwaited (h1 : 1 ≤ qty) (hw : s.hm.waits = []) (h : (getChan s k).count + qty < 2 ^ 32) :
    getChan (applyPost s k qty port m) k = ⟨(getChan s k).count + qty, (getChan s k).marked || m⟩ ∧
      ∀ j, j ≠ k → getChan (applyPost s k qty port m) j = getChan s j := by
  rw [applyPost_counts h, matchChan_unwaited (by rw [waits_setChan, hw])]
  exact ⟨getChan_setChan s k _ (by simp; omega), fun j hj => getChan_setChan_other s k j _ hj⟩

theorem applyPost_full (hw : s.hm.waits = []) (h : 2 ^ 32 ≤ (getChan s k).count + qty) :
    (getChan (applyPost s k qty port m) k).count = 2 ^ 32 - 1 := by
  rw [applyPost_saturates h, matchChan_unwaited (by rw [waits_setChan, bump_hm, hw]), getChan_setChan _ _ _ (by simp)]
  norm_num

/-- A post that brings its channel to what the one waiting thread asks for ends the wait and empties the channel. -/
theorem applyPost_met {t ch : Nat} (h1 : 1 ≤ qty) (h : (getChan s k).count + qty < 2 ^ 32) (hw : s.hm.waits = [t])
    (hr : s.hm.ring = []) (hk : k = chanKey (getThr s t).space ch)
    (hreq : (getThr s t).reqs = [⟨ch, (getChan s k).count + qty⟩]) :
    (applyPost s k qty port m).hm.waits = [] ∧ getChan (applyPost s k qty port m) k = ⟨0, false⟩ := by
  rw [applyPost_counts h]
  generalize hu : setChan s k _ = u
  have hcount : (getChan u k).count = (getChan s k).count + qty := by
    rw [← hu, getChan_setChan s k _ (by simp; omega)]
  have hthr : getThr u t = getThr s t := by rw [← hu]; rfl
  have huw : u.hm.waits = [t] := by rw [← hu]; exact hw
  have hur : u.hm.ring = [] := by rw [← hu]; exact hr
  have huk : k = chanKey (getThr u t).space ch := by rw [hthr, hk]
  have hreqs : (getThr u t).reqs = [⟨ch, (getChan u k).count⟩] := by rw [hthr, hreq, hcount]
  have hnamed : k ∈ reqKeys u t := by simp [reqKeys, hreqs, ← huk]
  have hmet : reqsMet u t = true := by simp [reqsMet, hreqs, ← huk, hur]
  rw [matchChan_met huw hnamed hmet]
  obtain ⟨hgone, hzero⟩ := consume_all (port := port) hreqs huk
  exact ⟨by rw [hgone, huw]; simp, hzero⟩

end Applied

/-! ### The rows of posts (R179, R185) -/

section Posts
variable {s : State} {port index space ch qty : Nat} {m : Bool}
  (hp : port ≤ 22) (hsp : space ≤ 1024) (hch : ch < 2 ^ 24) (hon : domainOn s 1 = true)
  (hfw : (port ≠ 7 ∧ port ≠ 8) ∨ space = fwSpace)
include hp hsp hch hon hfw

theorem tokenPost_taken : exec (.tokenPost ⟨port, index⟩ space ch qty m) s = .next (kickIdle
    (if 11 ≤ port ∧ port ≤ 19 then corePost s port index space ch qty else postToken s port space ch qty m)) := by
  have hport : (!(port == 7 || port == 8) || space == fwSpace) = true := by
    rcases hfw with ⟨h7, h8⟩ | h
    · simp [h7, h8]
    · simp [h]
  exact exec_when rfl (by simp only [hp, hsp, hch, hon, hport, decide_true, Bool.and_true])

theorem tokenPost_posts (h : port < 11 ∨ 19 < port) :
    exec (.tokenPost ⟨port, index⟩ space ch qty m) s = .next (kickIdle (postToken s port space ch qty m)) := by
  rw [tokenPost_taken hp hsp hch hon hfw, if_neg (by omega)]

theorem tokenPost_ofThread (h1 : 11 ≤ port) (h2 : port ≤ 19) (hi : index < 32) {t : Nat}
    (ht : (getCore s (portCore port index)).phase = .running t)
    (hs : isControl t = true ∨ (getThr s t).space = space) :
    exec (.tokenPost ⟨port, index⟩ space ch qty m) s = .next (kickIdle
      (threadPost s (portCore port index) t (getCore s (portCore port index)).pc space ch qty)) := by
  rw [tokenPost_taken hp hsp hch hon hfw, if_pos ⟨h1, h2⟩, corePost]
  simp only [ht]
  rw [if_pos ⟨hi, by simpa using hs⟩]

end Posts

/-! ### What stands in the ring or in an affinity list (R186, R187, R189) -/

section Held
variable {s : State} {t : Nat}

/-- The state once the ring's oldest entry has left it. -/
def ringLeft (s : State) (rest : List RingEnt) : State := { s with hm := { s.hm with ring := rest } }

theorem exec_spillReturn (s : State) : exec .spillReturn s = execSpillReturn s := rfl

theorem spillReturn_ready {c : Nat} {rest : List RingEnt} (hr : s.hm.ring = .ready t :: rest)
    (hf : s.hm.ready.find? (fun r => r.thread == t) = some ⟨t, .ring c⟩) (hl : listLen s (clusterPlace c) < 512) :
    exec .spillReturn s = .next (kickIdle (enterList (unready (ringLeft s rest) t) c t true)) := by
  rw [exec_spillReturn, execSpillReturn]
  simp only [hr, hf]
  rw [when_of (decide_eq_true hl)]
  rfl

theorem spillReturn_chan {k : Nat} {rest : List RingEnt} (hr : s.hm.ring = .chan k :: rest)
    (hm : manifestUsed s < 32768) : exec .spillReturn s = .next (kickIdle (applyRingPosts (ringLeft s rest) k)) := by
  rw [exec_spillReturn, execSpillReturn]
  simp only [hr]
  rw [when_of (decide_eq_true hm)]
  rfl

/-- A requirement of a thread that waits no more leaves nothing behind. -/
theorem spillReturn_req {r : Req} {rest : List RingEnt} (hr : s.hm.ring = .req t r :: rest)
    (hm : manifestUsed s < 32768) (hw : s.hm.waits.contains t = false) :
    exec .spillReturn s = .next (kickIdle (ringLeft s rest)) := by
  rw [exec_spillReturn, execSpillReturn]
  simp only [hr, hw, Bool.false_and]
  rw [when_of (decide_eq_true hm)]
  rfl

theorem exec_affinityHoldExpiry (s : State) (t : Nat) :
    exec (.affinityHoldExpiry t) s = execAffinityHoldExpiry t s := rfl

theorem affinityHoldExpiry_moves {c : Nat}
    (hf : s.hm.ready.find? (fun r => r.thread == t) = some ⟨t, .affinity c⟩) : exec (.affinityHoldExpiry t) s =
      .next (kickIdle (enterCluster (unready s t) (if isControl t then 8 else clusterOf c) t)) := by
  rw [exec_affinityHoldExpiry, execAffinityHoldExpiry]
  simp only [hf]

/-- A thread that stands ready. -/
def readied (s : State) (t : Nat) : State := modThr s t (fun th => { th with state := 2 })

variable {d : Nat}

theorem enterCluster_taken {b : Nat} (h : takenBy (readied s t) d t = some (b, false)) :
    enterCluster s d t = dispatch (readied s t) b t := by
  rw [readied] at h
  simp [enterCluster, enterList, h, readied]

theorem enterCluster_waits (h : takenBy (readied s t) d t = none) (hr : s.hm.ring = [])
    (hl : listLen (readied s t) (clusterPlace d) < 512) :
    enterCluster s d t = pushReady (readied s t) t (clusterPlace d) := by
  have hring : (readied s t).hm.ring = [] := hr
  rw [readied] at h hl hring ⊢
  simp [enterCluster, enterList, h, hl, hring]

theorem enterCluster_spills (h : takenBy (readied s t) d t = none)
    (hfull : s.hm.ring ≠ [] ∨ 512 ≤ listLen (readied s t) (clusterPlace d)) :
    enterCluster s d t = pushRing (pushReady (readied s t) t (.ring d)) (.ready t) := by
  have hno : (decide (listLen (readied s t) (clusterPlace d) < 512) && (readied s t).hm.ring.isEmpty) = false := by
    rcases hfull with hr | hl
    · simp [show (readied s t).hm.ring = s.hm.ring from rfl, hr]
    · simp [hl]
  rw [readied] at h hno ⊢
  simp only [enterCluster, enterList, h, hno, Bool.false_or, Bool.false_eq_true, if_false]

end Held

/-- Settles O19: a post by what bars it and by what its channel then holds, and held threads by where they may
go. -/
theorem tokensAndHeldWorkMoveOn : Obligations.TokensAndHeldWorkMoveOn := by
  unfold Obligations.TokensAndHeldWorkMoveOn
  refine ⟨fun s port index space ch qty m hp hsp hch hon hfw => ⟨tokenPost_posts hp hsp hch hon hfw,
    fun h1 h2 hi t ht hs => ⟨tokenPost_ofThread hp hsp hch hon hfw h1 h2 hi ht hs, ?clear, ?denied, ?limit⟩,
    fun h1 h2 hth hr hm hi => ?applied, fun h => postToken_denied h port m⟩,
    fun s t c k d r rest => ⟨spillReturn_ready, spillReturn_chan, spillReturn_req, affinityHoldExpiry_moves,
      fun b => enterCluster_taken, enterCluster_waits, enterCluster_spills⟩⟩
  case clear => exact fun hb => by rw [threadPost, hb]
  case denied => exact fun hb => by rw [threadPost, hb]
  case limit => exact fun hb => by rw [threadPost, hb]
  case applied =>
    rw [postToken_applied h1 h2 hth hr hm hi]
    exact ⟨applyPost_unwaited h1, applyPost_full,
      fun t hw ht hreq hlt => applyPost_met h1 hlt hw hr (by rw [ht]) hreq⟩

end Sys2Proof.Machine
end

section
/-!
SUPPORT. Threads on their cores (R190, R191, R193, R200, R208, R231): what a context switch gives the core and leaves
the others, and the rows that end a block, free a descriptor and let a core pass on.
-/
namespace Sys2Proof.Machine

/-! ### Banks and threads -/

@[simp] theorem curBank_setCur (x : Core) (b : Bank) : curBank (setCur x b) = b := by
  cases hb : x.bank <;> simp [setCur, curBank, hb]

/-- Filling the current bank changes nothing else of the core. -/
theorem setCur_eq (x : Core) (b : Bank) :
    setCur x b = { x with bank0 := if x.bank then x.bank0 else b, bank1 := if x.bank then b else x.bank1 } := by
  cases hb : x.bank <;> simp [setCur, hb]

@[simp] theorem getThr_modThr (s : State) (t : Nat) (g : Thread → Thread) :
    getThr (modThr s t g) t = g (getThr s t) :=
  getThr_setThr s t _
theorem getThr_modThr_other (s : State) {t v : Nat} (g : Thread → Thread) (h : v ≠ t) :
    getThr (modThr s t g) v = getThr s v := getThr_setThr_other s t v _ h

/-! ### A thread's window as its block starts (R208, R231) -/

section Window
variable (s : State) (t off : Nat) (bs : List Byte)

theorem hm_winWrite : (winWrite s t off bs).hm = s.hm := by
  unfold winWrite
  dsimp only
  split <;> rfl

theorem cores_winWrite : (winWrite s t off bs).ik.cores = s.ik.cores := by
  unfold winWrite
  dsimp only
  split <;> rfl

theorem hm_placeInit : (placeInit s t).hm = s.hm := by
  unfold placeInit
  split
  · split
    · exact hm_winWrite _ _ _ _
    · rfl
  · rfl

theorem cores_placeInit : (placeInit s t).ik.cores = s.ik.cores := by
  unfold placeInit
  split
  · split
    · exact cores_winWrite _ _ _ _
    · rfl
  · rfl

end Window

theorem placeInit_none {s : State} {t : Nat} (h : (getThr s t).init = none) : placeInit s t = s := by
  simp only [placeInit, h]

/-- The initial data of a thread whose window is on a core lie at offset 3,072. -/
theorem memRead_placeInit {s : State} {t : Nat} {i : ThreadInit} (h : (getThr s t).init = some i)
    (hw : (getThr s t).winSize ≠ 0) (hl : (getThr s t).lastCore ≠ 0xFFFF) :
    memRead (placeInit s t).ik.spad (winAddr (getThr s t) 3072) i.data.length = i.data := by
  simp only [placeInit, h, if_pos (Nat.pos_of_ne_zero hw), winWrite, if_pos hl]
  exact memRead_write _ _ _

/-! ### A context switch on the core the thread last ran on (R191) -/

/-- The thread, noted at its core. -/
def homed (s : State) (c t : Nat) : State := modThr s t (fun th => { th with lastCore := c })

/-- The state once the thread's initial data are in its window. -/
def initPlaced (s : State) (c t : Nat) : State :=
  modThr (placeInit (homed s c t) t) t (fun th => { th with init := none })

/-- The core as a thread's block starts on it, but for the bank it starts with. -/
def startedCore (x : Core) (th : Thread) (t base : Nat) : Core :=
  { x with
    bank := !x.bank, pc := th.entry, lastPc := th.entry, cyc := 0, base := base, first := true
    newThread := th.init.isSome, endCyc := 0, bun := .empty, delay := 0, target := none, rep := none, fault := none
    endEv := none, pend := [], migrated := false, phase := .running t
    streams := (x.streams.map (fun e => (e.1, { e.2 with sfault := false }))).filter
      (fun e => decide (e.2 ≠ Stream.closed)) }

section Switch
variable {s : State} {c t : Nat}

theorem bringWindow_home (hl : (getThr s t).lastCore = c) : bringWindow s c t = s := by
  simp [bringWindow, hl]

/-- The state with the block begun on the core. -/
def blockBegun (s : State) (c t : Nat) : State :=
  modCore (initPlaced s c t) c (fun x =>
    setCur (startedCore x (getThr s t) t (tabGet 0 (initPlaced s c t).ik.clk (bitCluster c) + 32))
      (startBank (homed s c t) c t))

variable (hl : (getThr s t).lastCore = c)
include hl

theorem switched_home : switched s c t =
    if isLighterCore c then bump (blockBegun s c t) 0x7020 8 1 else blockBegun s c t := by
  unfold switched
  rw [bringWindow_home hl]
  simp only [hl, ne_eq, not_true_eq_false, false_and, decide_false]
  rfl

theorem hm_switched : (switched s c t).hm = (initPlaced s c t).hm := by
  rw [switched_home hl]
  split <;> rfl

theorem ik_switched : (switched s c t).ik = (blockBegun s c t).ik := by
  rw [switched_home hl]
  split <;> rfl

theorem spad_switched : (switched s c t).ik.spad = (placeInit (homed s c t) t).ik.spad := by
  rw [ik_switched hl]
  rfl

theorem getThr_homed : getThr (homed s c t) t = getThr s t := by
  rw [homed, getThr_modThr, ← hl]

theorem getThr_switched : getThr (switched s c t) t = { getThr s t with init := none } := by
  have hplaced : getThr (placeInit (homed s c t) t) t = getThr s t := by
    rw [getThr, hm_placeInit]
    exact getThr_homed hl
  rw [getThr, hm_switched hl]
  exact (getThr_modThr _ t _).trans (by rw [hplaced])

theorem getThr_switched_other {v : Nat} (h : v ≠ t) : getThr (switched s c t) v = getThr s v := by
  rw [getThr, hm_switched hl]
  refine (getThr_modThr_other _ _ h).trans ?_
  rw [getThr, hm_placeInit]
  exact getThr_modThr_other s _ h

theorem getCore_switched : ∃ base, getCore (switched s c t) c =
    setCur (startedCore (getCore s c) (getThr s t) t base) (startBank (homed s c t) c t) := by
  have hcore : getCore (initPlaced s c t) c = getCore s c :=
    congrArg (tabGet Core.empty · c) (cores_placeInit (homed s c t) t)
  refine ⟨tabGet 0 (initPlaced s c t).ik.clk (bitCluster c) + 32, ?_⟩
  rw [getCore, ik_switched hl]
  refine (getCore_setCore _ c _).trans ?_
  rw [hcore]

theorem getCore_switched_other {d : Nat} (h : d ≠ c) : getCore (switched s c t) d = getCore s d := by
  rw [getCore, ik_switched hl]
  exact (getCore_setCore_other _ c d _ h).trans (congrArg (tabGet Core.empty · d) (cores_placeInit (homed s c t) t))

end Switch

/-! ### The bank a block starts with (R208, R231) -/

section Start
variable {s : State} {c t : Nat}

theorem startBank_first {i : ThreadInit} (h : (getThr s t).init = some i) : startBank s c t =
    { Bank.empty with
      x := tabSet 0 (tabSet 0 (tabSet 0 [] 1 i.x1) 2 i.x2) 63
        (BitVec.ofNat 64 (((getThr s t).winBase + (getThr s t).winSize) * 4096)) } := by
  simp only [startBank, h]

theorem startBank_control (h : (getThr s t).init = none) (ht : 65536 ≤ t) :
    startBank s c t = tabGet Bank.empty s.ik.ctx t := by
  simp [startBank, h, isControl, ht]

theorem startBank_noWindow (h : (getThr s t).init = none) (ht : t < 65536) (hw : (getThr s t).winSize = 0) :
    startBank s c t = Bank.empty := by
  simp [startBank, h, isControl, Nat.not_le.mpr ht, hw]

theorem startBank_record (h : (getThr s t).init = none) (ht : t < 65536) (hw : (getThr s t).winSize ≠ 0) :
    startBank s c t = recordBank (memRead s.ik.spad (c * 2 ^ 20 + (getThr s t).winBase * 4096) 3072) := by
  simp [startBank, h, isControl, Nat.not_le.mpr ht, hw]

end Start

/-! ### The end of a block, and of a thread (R176, R190, R200, R258, R259) -/

theorem exec_blockEndEvent (s : State) (c : Nat) : exec (.blockEndEvent c) s = execBlockEndEvent c s := rfl

/-- Without a fault or a tenant reset, WAIT and YIELD let the thread go on. -/
theorem endStops_none {th : Thread} {e : EndEv} (hs : th.stopping = false) (he : e ≠ .exit) :
    endStops th none e = none := by
  cases e with
  | exit => exact absurd rfl he
  | wait reqs next => simp [endStops, hs]
  | yield next => simp [endStops, hs]

section BlockEnd
variable {s : State} {c t : Nat} {e : EndEv} (hp : (getCore s c).phase = .ended t) (he : (getCore s c).endEv = some e)
include hp he

/-- A block's end event waits for the core's X queue to empty. -/
theorem blockEnd_waits (hx : (getCore s c).xq ≠ []) : exec (.blockEndEvent c) s = .next s := by
  simp [exec_blockEndEvent, execBlockEndEvent, hp, he, hx]

variable (hx : (getCore s c).xq = [])
include hx

theorem blockEnd_stops {code : Nat} {counts : Bool} {pc : W64} {ch : Nat}
    (h : endStops (getThr s t) (getCore s c).fault e = some (code, counts, pc, ch)) :
    exec (.blockEndEvent c) s = .next (coreFreed (stopThread (idleCore s c) t code counts pc ch) c) := by
  simp [exec_blockEndEvent, execBlockEndEvent, hp, he, hx, h]

theorem blockEnd_goesOn (h : endStops (getThr s t) (getCore s c).fault e = none) :
    exec (.blockEndEvent c) s = .next (coreFreed (idleCore (applyEnd s c t e) c) c) := by
  simp [exec_blockEndEvent, execBlockEndEvent, hp, he, hx, h]

end BlockEnd

theorem exec_contextSwitch (s : State) (c : Nat) : exec (.contextSwitch c) s = execContextSwitch c s := rfl
theorem exec_blockOverrun (s : State) (c : Nat) : exec (.blockOverrun c) s = execBlockOverrun c s := rfl

/-- The state with the thread no more among those whose freeing waits. -/
def notDying (s : State) (t : Nat) : State := { s with hm := { s.hm with dying := s.hm.dying.filter (· != t) } }

/-- Once nothing a stopped thread started is left, its descriptor is free, or its thread restarted. -/
theorem descriptorFree_due {s : State} {t : Nat} (hs : (getThr s t).state = 5) (hb : threadBusy s t = false)
    (hr : s.pool.reclaims = []) (hx : ∀ e ∈ s.ik.cores, e.2.xq = []) : exec (.descriptorFree t) s =
      .next (settleAll (if (getThr s t).restart then restartThread (notDying s t) t
        else setThr (orphanTimers { notDying s t with ik := { s.ik with ctx := tabDrop s.ik.ctx t } } t) t
          Thread.free)) := by
  have hnone : s.ik.cores.any (fun e => e.2.xq.any (fun q => q.thread == t)) = false := by
    rw [List.any_eq_false]
    intro e he
    simp [hx e he]
  exact exec_when rfl (by simp [hs, hb, hr, hnone])

/-- Settles O20: a switch by the core, bank and window it leaves, and the rows by what they start. -/
theorem threadsRunAndStop : Obligations.ThreadsRunAndStop := by
  unfold Obligations.ThreadsRunAndStop
  refine ⟨fun s c t hc hp hn => ⟨?switch, fun hl => ?started⟩,
    fun s c t e f => ⟨fun hp he hx => ⟨?goesOn, ?exits, ?reset, ?faulted⟩, blockEnd_waits, ?overrun,
      fun hs hb hr hx => ⟨fun hre => ?freed, fun hre => ?restarted⟩⟩,
    fun s c sp hc hsp => ⟨?minimum, ?quantum⟩⟩
  case switch =>
    simp [exec_contextSwitch, execContextSwitch, hp, hn]
  case started =>
    obtain ⟨base, hcore⟩ := getCore_switched hl
    have hbank : curBank (getCore (switched s c t) c) = startBank (homed s c t) c t := by rw [hcore, curBank_setCur]
    have hthr := getThr_homed hl
    simp only [hbank]
    rw [hcore, setCur_eq]
    refine ⟨rfl, rfl, rfl, rfl, rfl, rfl, rfl, rfl, rfl,
      fun i hi => ⟨?_, fun hw ht => ?_⟩, fun hi hw ht => ⟨?_, ?_⟩, fun hi hw ht => ?_, fun hi ht => ?_,
      getThr_switched hl, fun v hv => getThr_switched_other hl hv, fun d hd => getCore_switched_other hl hd⟩
    · rw [startBank_first (hthr ▸ hi), hthr]
    · rw [spad_switched hl, ← hthr]
      exact memRead_placeInit (hthr ▸ hi) (hthr ▸ hw) (by rw [hthr, hl]; omega)
    · rw [spad_switched hl, placeInit_none (hthr ▸ hi)]
      rfl
    · rw [startBank_record (hthr ▸ hi) ht (hthr ▸ hw), hthr]
      rfl
    · exact startBank_noWindow (hthr ▸ hi) ht (hthr ▸ hw)
    · exact startBank_control (hthr ▸ hi) ht
  case goesOn =>
    exact fun hf hs hne => blockEnd_goesOn hp he hx (by rw [hf, endStops_none hs hne])
  case exits => exact fun hf hs hex => blockEnd_stops hp he hx (by simp [endStops, hf, hs, hex])
  case reset => exact fun hf hs => blockEnd_stops hp he hx (by simp [endStops, hf, hs])
  case faulted => exact fun hf => blockEnd_stops hp he hx (by simp [endStops, hf])
  case overrun =>
    exact fun hp => by simp [exec_blockOverrun, execBlockOverrun, hp]
  case freed =>
    rw [descriptorFree_due hs hb hr hx, if_neg (Bool.eq_false_iff.mp hre)]
    rfl
  case restarted =>
    rw [descriptorFree_due hs hb hr hx, if_pos hre]
    rfl
  case minimum => exact exec_when rfl (by simp [isLighterCore, hc, hsp])
  case quantum => exact exec_when rfl (by simp [isLighterCore, hc, hsp])

end Sys2Proof.Machine
end

section
/-!
SUPPORT. The X queue, timers, poison, transfers and streams (R169, R195 to R201, R215, R217, R256 to R261, R272): what
a resolved request arms or stops, and which bytes a transfer moves.
-/
namespace Sys2Proof.Machine

/-! ### The X queue (R201, R259, R272) -/

theorem exec_xQueueDepart (s : State) (c : Nat) : exec (.xQueueDepart c) s = execXQueueDepart c s := rfl

section Requests
variable {s : State} {c t ch qty : Nat} {pc : W64}

theorem xResolve_post_denied (hb : postBar s (getThr s t).space ch qty = .denied) :
    xResolve s c ⟨pc, t, .post ch qty⟩ = raiseFaultAt s t 3 pc ch := by
  simp only [xResolve, threadPost, hb]

theorem xResolve_post_limit (hb : postBar s (getThr s t).space ch qty = .limit) :
    xResolve s c ⟨pc, t, .post ch qty⟩ = raiseFaultAt s t 4 pc ch := by
  simp only [xResolve, threadPost, hb]

/-- The requests of a stopped thread, but for its posts, have no effect. -/
theorem xResolve_stopped {e : XEnt} (hs : (getThr s e.thread).state = 5) (h : ∀ a n, e.req ≠ .post a n) :
    xResolve s c e = s := by
  obtain ⟨pc, t, req⟩ := e
  cases req with
  | post a n => exact absurd rfl (h a n)
  | _ => simp [xResolve, hs]

end Requests

/-! ### Timers and poison (R195, R196, R199) -/

theorem hm_deliver (s : State) (t result : Nat) (w : W64) : (deliver s t result w).hm = s.hm := by
  unfold deliver
  split
  · rfl
  · split
    · rfl
    · exact hm_winWrite _ _ _ _

section Timers
variable {s : State} {t : Nat} {pc : W64} {r : List Byte}

/-- A delay of 0 is refused with CODE 2. -/
theorem doTimerArm_refused (h : recNat r 0 4 = 0) :
    doTimerArm s t pc r = deliver s t (recNat r 16 8) (BitVec.ofNat 64 2) := by
  simp [doTimerArm, h]

variable (hd : recNat r 0 4 ≠ 0) (hc : recNat r 4 4 < 2 ^ 24) (hq : recNat r 8 2 ≠ 0) (hz : recNat r 10 6 = 0)
include hd hc hq hz

theorem timerFields_ok :
    ¬ (recNat r 0 4 = 0 ∨ recNat r 8 2 = 0 ∨ bitsOf (recNat r 4 4) 24 31 ≠ 0 ∨ recNat r 10 6 ≠ 0) := by
  have hbits : bitsOf (recNat r 4 4) 24 31 = 0 := by rw [bitsOf, Nat.div_eq_of_lt hc, Nat.zero_mod]
  simp [hd, hq, hz, hbits]

theorem doTimerArm_full (h : (if (getThr s t).space = fwSpace then 4096 else 64) ≤ armedIn s (getThr s t).space) :
    doTimerArm s t pc r = raiseFaultAt s t 7 pc 0 := by
  rw [doTimerArm, if_neg (timerFields_ok hd hc hq hz), if_pos h]

theorem doTimerArm_armed (h : armedIn s (getThr s t).space < if (getThr s t).space = fwSpace then 4096 else 64) :
    getTimer (doTimerArm s t pc r) (freeHandle s) =
      some ⟨(getThr s t).space, recNat r 4 4, recNat r 8 2, t, recNat r 0 4, s.nowMs⟩ := by
  rw [doTimerArm, if_neg (timerFields_ok hd hc hq hz), if_neg (Nat.not_le.mpr h), getTimer, hm_deliver]
  exact tabGet_put_same none s.hm.timers (freeHandle s) _

end Timers

theorem getTimer_dropTimer (s : State) (h : Nat) (tm : Timer) : getTimer (dropTimer s h tm) h = none := by
  have htimers : (dropTimer s h tm).hm.timers = tabDrop s.hm.timers h := by
    unfold dropTimer
    dsimp only
    split <;> rfl
  rw [getTimer, htimers, tabDrop_get_same]

theorem exec_timerExpiry (s : State) (h : Nat) : exec (.timerExpiry h) s = execTimerExpiry h s := rfl

theorem timerExpiry_armed {s : State} {h : Nat} {tm : Timer} (ht : getTimer s h = some tm) :
    exec (.timerExpiry h) s = .next (when (timerDue s tm) s
      (kickIdle (postToken (dropTimer s h tm) 20 tm.space tm.channel tm.qty false))) := by
  simp only [exec_timerExpiry, execTimerExpiry, ht]

section Poison
variable {s : State} {t port : Nat}

theorem poisonThread_gone (h : (getThr s t).state = 0 ∨ (getThr s t).state = 5) : poisonThread s t port = s := by
  simp [poisonThread, h]

theorem poisonThread_going (h : (getThr s t).state = 2 ∨ (getThr s t).state = 3) :
    poisonThread s t port = modThr s t (fun th => { th with poisoned := true }) := by
  rcases h with h | h <;> simp [poisonThread, h]

/-- A waiting thread is freed from its wait. -/
theorem poisonThread_waiting (h : (getThr s t).state = 1) : poisonThread s t port =
    makeReady (withdraw (modThr s t (fun th => { th with poisoned := true })) t port) t := by
  simp [poisonThread, h]

end Poison

/-! ### Transfers (R215, R260) -/

@[simp] theorem length_memRead (m : Tab Byte) (a n : Nat) : (memRead m a n).length = n := by
  induction n generalizing a with
  | zero => rfl
  | succ n ih => simp [memRead, ih]

theorem memRead_write_read (m k : Tab Byte) (a b n : Nat) :
    memRead (memWrite m a (memRead k b n)) a n = memRead k b n := by
  simpa using memRead_write m a (memRead k b n)

section Transfers
variable {s : State} {d : Dma} (hd : d.discard = false) (hm : d.slm = false) (ht : d.thread < 65536)
  (hl : (getThr s d.thread).lastCore ≠ 0xFFFF)
include hd hm ht hl

theorem dmaMove_toFar (h : d.toFar = true) : dmaMove s d = { s with
    dram := memWrite s.dram d.far (memRead s.ik.spad (winAddr (getThr s d.thread) d.near) d.length) } := by
  simp [dmaMove, hd, hm, h, rangeWrite, isControl, Nat.not_le.mpr ht, winRead, hl]

theorem dmaMove_toNear (h : d.toFar = false) : dmaMove s d = { s with
    ik := { s.ik with
      spad := memWrite s.ik.spad (winAddr (getThr s d.thread) d.near) (memRead s.dram d.far d.length) } } := by
  simp [dmaMove, hd, hm, h, rangeRead, isControl, Nat.not_le.mpr ht, winWrite, hl]

end Transfers

/-! ### Streams (R217, R261) -/

@[simp] theorem getStream_setStream (s : State) (c w : Nat) (m : Stream) : getStream (setStream s c w m) c w = m := by
  simp [getStream, setStream, modCore]

section Streams
variable {s : State} {c w : Nat}

theorem exec_streamHalfReady : exec (.streamHalfReady c w) s = execStreamHalfReady c w s := rfl
theorem exec_streamEnd : exec (.streamEnd c w) s = execStreamEnd c w s := rfl

/-- The state with a half of an inbound window filled. -/
def halfFilled (s : State) (c w : Nat) (m : Stream) (bytes : List Byte) : State :=
  setStream { s with ik := { s.ik with spad := memWrite s.ik.spad (halfAddr c w m.half) bytes } } c w
    { m with moved := m.moved + 4096, half := !m.half, ready0 := m.ready0 || !m.half, ready1 := m.ready1 || m.half }

theorem spad_halfFilled (m : Stream) (bytes : List Byte) :
    (halfFilled s c w m bytes).ik.spad = memWrite s.ik.spad (halfAddr c w m.half) bytes := rfl

theorem rangeRead_dram {space a n : Nat} {slm : Bool} (h : slm = false) :
    rangeRead s space slm a n = memRead s.dram a n := by simp [rangeRead, h]

theorem streamHalfReady_fills {m : Stream} (hm : getStream s c w = m) (hi : m.outbound = false) (ho : m.isOpen = true)
    (hlt : m.moved < m.length) (hslm : m.slm = false) (hs : strayTransfer s m.thread m.slm m.far m.length = false)
    (hh : (if m.half then m.ready1 else m.ready0) = false) :
    exec (.streamHalfReady c w) s = .next (halfFilled s c w m (memRead s.dram (m.far + m.moved) 4096)) := by
  rw [exec_streamHalfReady, execStreamHalfReady, hm]
  dsimp only
  rw [if_neg (by simp [hs]), if_neg (by simp [hi]), if_pos ⟨ho, hlt, hh⟩, rangeRead_dram hslm]
  rfl

theorem streamEnd_reported (ho : (getStream s c w).isOpen = true) (hr : (getStream s c w).reported = false)
    (hf : (getStream s c w).length ≤ (getStream s c w).moved) : exec (.streamEnd c w) s =
      .next (streamReport (setStream s c w { getStream s c w with reported := true }) c (getStream s c w).thread
        (getStream s c w) 0) := by
  rw [exec_streamEnd, execStreamEnd]
  simp [ho, hr, hf]

theorem streamEnd_drained (ho : (getStream s c w).isOpen = false) (hd : (getStream s c w).draining = true)
    (hc : (getStream s c w).committed = []) {early : Bool}
    (he : early = (decide ((getStream s c w).moved < (getStream s c w).length) ||
      (!(getStream s c w).outbound && decide ((getStream s c w).taken < (getStream s c w).length)))) :
    exec (.streamEnd c w) s = .next (settleAll (streamReport (setStream s c w { Stream.closed with sfault := early }) c
      (getStream s c w).thread (getStream s c w) (if early then 2 else 0))) := by
  have hfull : (!decide ((getStream s c w).length ≤ (getStream s c w).moved)) =
      decide ((getStream s c w).moved < (getStream s c w).length) := by simp only [← decide_not, not_le]
  rw [exec_streamEnd, execStreamEnd]
  simp only [ho, hd, hc, hfull, ← he, Bool.false_eq_true, false_and, if_false, and_self, if_true]

end Streams

/-- Settles O21: each request, timer and transfer by what it arms, frees or moves. -/
theorem requestsTimersAndTransfers : Obligations.RequestsTimersAndTransfers := by
  unfold Obligations.RequestsTimersAndTransfers
  refine ⟨fun s c t ch qty pc r e rest => ⟨?departs, ?post, ?stopped,
      fun hd hc hq hz => ⟨doTimerArm_armed hd hc hq hz, doTimerArm_full hd hc hq hz⟩, doTimerArm_refused⟩,
    fun s h t tm => ⟨fun ht => ⟨getTimer_dropTimer s h tm, ?due, ?early⟩, ?going, ?waiting, ?gone⟩,
    fun s i c w => ⟨?moves, ?stray, fun hd hm ht hl => ⟨fun h => ?toFar, fun h => ?toNear⟩, ?half,
      streamEnd_reported, fun ho hd hc => streamEnd_drained ho hd hc rfl⟩⟩
  case departs => exact fun h => by simp only [exec_xQueueDepart, execXQueueDepart, h]
  case post =>
    rintro rfl
    exact ⟨xResolve_post_denied, xResolve_post_limit⟩
  case stopped =>
    rintro rfl hs hpost
    exact xResolve_stopped hs hpost
  case due => exact fun hdue => exec_when (timerExpiry_armed ht) hdue
  case early => exact fun hdue => exec_unless (timerExpiry_armed ht) hdue
  case going => exact fun h => congrArg (fun u => Host.Outcome.next (kickIdle u)) (poisonThread_going h)
  case waiting => exact fun h => congrArg (fun u => Host.Outcome.next (kickIdle u)) (poisonThread_waiting h)
  case gone => exact fun h => congrArg (fun u => Host.Outcome.next (kickIdle u)) (poisonThread_gone h)
  case moves =>
    intro hl hs
    refine (exec_when rfl hl).trans ?_
    simp only [hs, Bool.false_eq_true, if_false]
  case stray =>
    intro hl hs
    refine (exec_when rfl hl).trans ?_
    simp only [hs, if_true]
  case toFar =>
    rw [dmaMove_toFar hd hm ht hl h]
    refine ⟨memRead_write_read _ _ _ _ _, fun x hx => ?_, rfl⟩
    exact memWrite_other _ _ x _ (by rwa [length_memRead])
  case toNear =>
    rw [dmaMove_toNear hd hm ht hl h]
    refine ⟨memRead_write_read _ _ _ _ _, fun x hx => ?_, rfl⟩
    exact memWrite_other _ _ x _ (by rwa [length_memRead])
  case half =>
    exact fun hi ho hlt hm hs hh => ⟨_, streamHalfReady_fills rfl hi ho hlt hm hs hh,
      by rw [spad_halfFilled, memRead_write_read], getStream_setStream _ c w _, rfl⟩

end Sys2Proof.Machine
end

section
/-!
SUPPORT. A bundle of one syllable on a core with nothing in flight (R222, R233): the state its effects find, what they
leave standing, and where the core is after it.
-/
namespace Sys2Proof.Machine

/-! ### The core about to issue -/

section AtBundle
variable {s : State} {c words : Nat} (h : atBundle s c words = true)
include h

theorem delay_of_atBundle : (getCore s c).delay = 0 := by simp [atBundle] at h; simp_all
theorem rep_of_atBundle : (getCore s c).rep = none := by simp [atBundle] at h; simp_all
theorem pend_of_atBundle : (getCore s c).pend = [] := by simp [atBundle] at h; simp_all

theorem codeHolds_of_atBundle : codeHolds s c words = true := by simp [atBundle] at h; simp_all

theorem running_of_atBundle : ∃ t, (getCore s c).phase = .running t := by
  unfold atBundle at h
  cases hp : (getCore s c).phase <;> simp_all

end AtBundle

/-- Where a core may issue a bundle it may issue one of fewer words, all of which lie inside its code. -/
theorem atBundle_of_le {s : State} {c m n : Nat} (h : atBundle s c n = true) (hmn : m ≤ n) :
    atBundle s c m = true := by
  have hcode : codeHolds s c n = true → codeHolds s c m = true := by
    unfold codeHolds
    dsimp only
    split
    · split
      · simp only [Bool.and_eq_true, decide_eq_true_eq]
        exact fun ⟨hin, hal⟩ => ⟨by omega, hal⟩
      · exact id
    · exact id
  unfold atBundle at h ⊢
  simp only [Bool.and_eq_true] at h ⊢
  exact ⟨h.1, hcode h.2⟩

/-! ### The state the effects of a bundle find -/

/-- Core `c` holds the gathered bundle `b`, whose effects are still to come; nothing else has changed. -/
structure Issuing (s u : State) (c : Nat) (b : Bundle) : Prop where
  core : getCore u c = { getCore s c with bun := b, lastPc := (getCore s c).pc }
  cores : ∀ k, k ≠ c → getCore u k = getCore s k
  rest : { u with ik := { u.ik with cores := s.ik.cores } } = s

theorem issuing_setCore (s : State) (c : Nat) (x : Core) (b : Bundle) :
    Issuing s (setCore (setCore s c x) c { getCore s c with bun := b, lastPc := (getCore s c).pc }) c b :=
  ⟨getCore_setCore _ _ _,
    fun _ hd => (getCore_setCore_other _ _ _ _ hd).trans (getCore_setCore_other _ _ _ _ hd), rfl⟩

namespace Issuing
variable {s u : State} {c : Nat} {b : Bundle} (h : Issuing s u c b)
include h

theorem hm : u.hm = s.hm := (congrArg State.hm h.rest :)
theorem spad : u.ik.spad = s.ik.spad := (congrArg (fun s => s.ik.spad) h.rest :)
theorem shared : u.ik.shared = s.ik.shared := (congrArg (fun s => s.ik.shared) h.rest :)
theorem shPend : u.ik.shPend = s.ik.shPend := (congrArg (fun s => s.ik.shPend) h.rest :)

theorem onlyCore : onlyCore s u c := by
  refine ⟨h.cores, h.spad, ?_⟩
  calc ({ u with ik := s.ik } : State)
      = { ({ u with ik := { u.ik with cores := s.ik.cores } } : State) with ik := s.ik } := rfl
    _ = s := by rw [h.rest]

theorem curBank : curBank (getCore u c) = curBank (getCore s c) := by rw [h.core]; rfl
theorem rdX (r : Nat) : rdX u c r = rdX s c r := congrArg (bankX · r) h.curBank
theorem rdV (r : Nat) : rdV u c r = rdV s c r := congrArg (bankV · r) h.curBank
theorem rdRc : rdRc u c = rdRc s c := by unfold Machine.rdRc; rw [h.core]; rfl
theorem getStream (w : Nat) : getStream u c w = getStream s c w := by unfold Machine.getStream; rw [h.core]
theorem coreThread : coreThread u c = coreThread s c := by unfold Machine.coreThread; rw [h.core]
theorem sharedSet : sharedSet u c = sharedSet s c := by
  unfold Machine.sharedSet coreSpace getThr
  rw [h.coreThread, h.hm]
theorem sharedKey (k : Nat) : sharedKey u c k = sharedKey s c k := by
  unfold Machine.sharedKey
  rw [h.sharedSet]

/-- Writes of earlier bundles that a RET discards: none is in flight. -/
theorem dropRestored (hp : (getCore s c).pend = []) (effs : List Eff) :
    Issuing s (dropRestored u c effs) c b := by
  unfold Machine.dropRestored
  split
  · exact h
  · refine ⟨?_, fun d hd => (getCore_setCore_other _ _ _ _ hd).trans (h.cores d hd), h.rest⟩
    simp [modCore, h.core, hp]

end Issuing

/-- A legal bundle of one syllable that ends no block takes effect and the core goes on. -/
theorem syl_issues {s : State} {q : Syl} {unit exts : Nat} {k : SylKind} (effs : List Eff) (hs : q.stop = true)
    (hb : atBundle s q.core (1 + exts) = true) (hu : unit < 8) (he : exts ≤ 3) (hk : k = .plain ∨ k = .bOther) :
    ∃ u b, b.words = 1 + exts ∧ Issuing s u q.core b ∧ syl s q unit exts true k effs =
      .next (advance (effs.foldl (fun s e => doEff s q.core e) u) q.core effs (1 + exts)) := by
  have hne : k ≠ .block ∧ k ≠ .finish := by rcases hk with rfl | rfl <;> decide
  obtain ⟨b, hw, -, h⟩ := syl_commit s q unit exts k effs hs hb hu he hne.1
  simp only [if_neg hne.2] at h
  exact ⟨_, b, hw, (issuing_setCore s q.core _ b).dropRestored (pend_of_atBundle hb) effs, h⟩

/-! ### The core goes to the next bundle -/

theorem pc_applyWr (c : Nat) (s : State) (p : Pend) :
    (getCore (applyWr s c p.wr) c).pc = (getCore s c).pc := by
  unfold applyWr
  split
  · split <;> rfl
  · rw [modCore, getCore_setCore, setCur_eq]

/-- The core stands at the bundle it goes to, whatever lands on the way. -/
theorem pc_goTo (s : State) (c : Nat) (pc : W64) (adv : Nat) : (getCore (goTo s c pc adv) c).pc = pc := by
  obtain ⟨hg, -⟩ := goTo_settle s c pc adv _ rfl
  refine (congrArg Core.pc hg).trans ((foldl_keeps (fun s => (getCore s c).pc) (pc_applyWr c) _ _).trans ?_)
  rw [getCore_setCore, getCore_setCore]

/-- The effects of a bundle, done in `v`, have left the core where it stood and nothing outside it changed; of its own
they have touched what is still to be settled at most. -/
structure Stands (s v : State) (c : Nat) : Prop where
  pc : (getCore v c).pc = (getCore s c).pc
  cyc : (getCore v c).cyc = (getCore s c).cyc
  phase : (getCore v c).phase = (getCore s c).phase
  rep : (getCore v c).rep = (getCore s c).rep
  bank : (getCore v c).bank = (getCore s c).bank ∧ (getCore v c).bank0 = (getCore s c).bank0 ∧
    (getCore v c).bank1 = (getCore s c).bank1
  others : onlyCore s v c

theorem Stands.curBank {s v : State} {c : Nat} (h : Stands s v c) :
    curBank (getCore v c) = curBank (getCore s c) := by
  obtain ⟨hb, h0, h1⟩ := h.bank
  simp only [Machine.curBank, hb, h0, h1]

theorem Issuing.stands {s u : State} {c : Nat} {b : Bundle} (h : Issuing s u c b) : Stands s u c := by
  refine ⟨?_, ?_, ?_, ?_, ⟨?_, ?_, ?_⟩, h.onlyCore⟩ <;> rw [h.core]

/-- An effect on the issue state of the core alone. -/
theorem Stands.setCore {s v : State} {c : Nat} (h : Stands s v c) {x : Core}
    (hx : x = { getCore v c with
      delay := x.delay, target := x.target, endCyc := x.endCyc, xq := x.xq, streams := x.streams, pend := x.pend }) :
    Stands s (setCore v c x) c := by
  have ho := onlyCore_trans h.others (onlyCore_setCore v c x)
  refine ⟨?_, ?_, ?_, ?_, ⟨?_, ?_, ?_⟩, ho⟩ <;> rw [getCore_setCore, hx]
  exacts [h.pc, h.cyc, h.phase, h.rep, h.bank.1, h.bank.2.1, h.bank.2.2]

/-- One delay bundle less is still to issue. -/
def turned (v : State) (c : Nat) : State := modCore v c (fun x => { x with delay := x.delay - 1 })

theorem getCore_turned (v : State) (c : Nat) :
    getCore (turned v c) c = { getCore v c with delay := (getCore v c).delay - 1 } := getCore_setCore _ _ _

theorem Stands.turned {s v : State} {c : Nat} (h : Stands s v c) : Stands s (turned v c) c := h.setCore rfl

/-- Outside a repeat, a call and the last delay bundle the core goes to the bundle that follows. -/
theorem advance_next {v : State} {c : Nat} {effs : List Eff} (words : Nat) (hl : callLat effs = none)
    (hp : effRep effs = none) (hr : (getCore v c).rep = none) (hd : (getCore v c).delay ≠ 1) :
    advance v c effs words =
      goTo (turned v c) c (pcTo (getCore v c).pc ((getCore v c).pc.toNat + 4 * words)) 1 := by
  simp only [advance, hl, hp, hr, if_neg hd]
  rfl

/-- A bundle whose effects leave the core where it stood: it goes to the next one. -/
theorem syl_next {s : State} {q : Syl} {unit exts : Nat} {k : SylKind} {effs : List Eff} (hs : q.stop = true)
    (hb : atBundle s q.core (1 + exts) = true) (hu : unit < 8) (he : exts ≤ 3) (hk : k = .plain ∨ k = .bOther)
    (hl : callLat effs = none) (hp : effRep effs = none)
    (hst : ∀ u b, Issuing s u q.core b → Stands s (effs.foldl (fun s e => doEff s q.core e) u) q.core ∧
      (getCore (effs.foldl (fun s e => doEff s q.core e) u) q.core).delay ≠ 1) :
    ∃ u b, Issuing s u q.core b ∧ syl s q unit exts true k effs = .next
      (goTo (turned (effs.foldl (fun s e => doEff s q.core e) u) q.core) q.core (nextPc s q.core (1 + exts)) 1) := by
  obtain ⟨u, b, -, hu2, h⟩ := syl_issues effs hs hb hu he hk
  obtain ⟨hv, hd⟩ := hst u b hu2
  refine ⟨u, b, hu2, h.trans ?_⟩
  rw [advance_next _ hl hp (hv.rep.trans (rep_of_atBundle hb)) hd, hv.pc]
  rfl

/-- A core with nothing in flight that goes on to the next bundle. -/
theorem Stands.quiet {s v : State} {c : Nat} (h : Stands s v c) (hp : (getCore v c).pend = []) (words : Nat) :
    Quiet s (goTo v c (nextPc s c words) 1) c words ∧ getCore (goTo v c (nextPc s c words) 1) c =
      { getCore v c with pc := nextPc s c words, cyc := (getCore v c).cyc + 1, bun := .empty, first := false } := by
  obtain ⟨hg, ho⟩ := goTo_quiet v c 1 (nextPc s c words) hp
  refine ⟨⟨?_, ?_, ?_, ?_, ?_, onlyCore_trans h.others ho⟩, hg⟩ <;> rw [hg]
  exacts [congrArg (· + 1) h.cyc, h.phase, h.bank, hp]

theorem Quiet.curBank {s t : State} {c words : Nat} (h : Quiet s t c words) :
    curBank (getCore t c) = curBank (getCore s c) := by
  obtain ⟨hb, h0, h1⟩ := h.bank
  simp only [Machine.curBank, hb, h0, h1]

/-- A bundle whose effects put nothing in flight and touch the issue state of their core alone. -/
theorem syl_quiet {s : State} {q : Syl} {unit exts : Nat} {k : SylKind} {effs : List Eff} (hs : q.stop = true)
    (hb : atBundle s q.core (1 + exts) = true) (hu : unit < 8) (he : exts ≤ 3) (hk : k = .plain ∨ k = .bOther)
    (hl : callLat effs = none) (hp : effRep effs = none)
    (hst : ∀ u b, Issuing s u q.core b → Stands s (effs.foldl (fun s e => doEff s q.core e) u) q.core ∧
      (getCore (effs.foldl (fun s e => doEff s q.core e) u) q.core).delay ≠ 1 ∧
      (getCore (effs.foldl (fun s e => doEff s q.core e) u) q.core).pend = []) :
    ∃ u b t, Issuing s u q.core b ∧ syl s q unit exts true k effs = .next t ∧ Quiet s t q.core (1 + exts) ∧
      ∃ pc cyc delay, delay = (getCore (effs.foldl (fun s e => doEff s q.core e) u) q.core).delay - 1 ∧
        getCore t q.core = { getCore (effs.foldl (fun s e => doEff s q.core e) u) q.core with
          pc := pc, cyc := cyc, delay := delay, bun := .empty, first := false } := by
  obtain ⟨u, b, hi, h⟩ := syl_next hs hb hu he hk hl hp fun u b hi => ⟨(hst u b hi).1, (hst u b hi).2.1⟩
  obtain ⟨hv, -, hpend⟩ := hst u b hi
  obtain ⟨hq, hc⟩ := hv.turned.quiet (by rw [getCore_turned]; exact hpend) (1 + exts)
  exact ⟨u, b, _, hi, h, hq, _, _, _, rfl, hc.trans (by rw [getCore_turned])⟩

/-- A bundle whose one effect changes the core by `g`: in its X queue, its streams or its branch, and in nothing that a
register or memory shows. -/
theorem syl_coreEffect {s : State} {q : Syl} {unit exts : Nat} {k : SylKind} {e : Eff} (g : Core → Core)
    (hs : q.stop = true) (hb : atBundle s q.core (1 + exts) = true) (hu : unit < 8) (he : exts ≤ 3)
    (hk : k = .plain ∨ k = .bOther) (hl : callLat [e] = none) (hp : effRep [e] = none)
    (hdo : ∀ u b, Issuing s u q.core b → doEff u q.core e = setCore u q.core (g (getCore u q.core)))
    (hg : ∀ x, g x = { x with
      delay := (g x).delay, target := (g x).target, endCyc := (g x).endCyc, xq := (g x).xq, streams := (g x).streams })
    (hd : ∀ x, x.delay = 0 → (g x).delay ≠ 1) :
    ∃ t x, syl s q unit exts true k [e] = .next t ∧ Quiet s t q.core (1 + exts) ∧
      (∃ b, x = { getCore s q.core with bun := b, lastPc := (getCore s q.core).pc }) ∧
      (getCore t q.core).xq = (g x).xq ∧ (getCore t q.core).streams = (g x).streams ∧
      (getCore t q.core).delay = (g x).delay - 1 ∧ (getCore t q.core).target = (g x).target := by
  have hcore (u : State) (b : Bundle) (hi : Issuing s u q.core b) :
      getCore (doEff u q.core e) q.core = g (getCore u q.core) := by rw [hdo u b hi, getCore_setCore]
  obtain ⟨u, b, t, hi, h, hq, _, _, _, hdelay, ht⟩ := syl_quiet (effs := [e]) hs hb hu he hk hl hp fun u b hi => by
    refine ⟨?_, ?_, ?_⟩
    · show Stands s (doEff u q.core e) q.core
      rw [hdo u b hi]
      exact hi.stands.setCore ((hg _).trans (by rw [hg]))
    · show (getCore (doEff u q.core e) q.core).delay ≠ 1
      rw [hcore u b hi]
      exact hd _ (by rw [hi.core]; exact delay_of_atBundle hb)
    · show (getCore (doEff u q.core e) q.core).pend = []
      rw [hcore u b hi, hg, hi.core]
      exact pend_of_atBundle hb
  simp only [List.foldl_cons, List.foldl_nil, hcore u b hi] at hdelay ht
  refine ⟨t, getCore u q.core, h, hq, ⟨b, hi.core⟩, ?_, ?_, ?_, ?_⟩ <;> rw [ht]
  exact hdelay

/-- A bundle without effects. -/
theorem syl_idle {s : State} {q : Syl} {unit exts : Nat} {k : SylKind} (hs : q.stop = true)
    (hb : atBundle s q.core (1 + exts) = true) (hu : unit < 8) (he : exts ≤ 3) (hk : k = .plain ∨ k = .bOther) :
    ∃ t, syl s q unit exts true k [] = .next t ∧ Quiet s t q.core (1 + exts) := by
  obtain ⟨u, b, t, -, h, hq, -⟩ := syl_quiet (effs := []) hs hb hu he hk rfl rfl fun u b hi =>
    ⟨hi.stands, by simp [hi.core, delay_of_atBundle hb], by simp [hi.core, pend_of_atBundle hb]⟩
  exact ⟨t, h, hq⟩

theorem unitOf_lt {q : Syl} {base : Nat} (h : base < 7) : unitOf base q < 8 := by
  unfold unitOf
  split <;> omega

/-! ### Bundles that write registers, bits or memory -/

/-- The writes of a bundle join those in flight; the core stands where it stood. -/
theorem Stands.wrs {s u : State} {c : Nat} (h : Stands s u c) (hr : (getCore s c).rep = none) (ws : List (Nat × Wr)) :
    let v := (ws.map (fun e => Eff.wr e.1 e.2)).foldl (fun s e => doEff s c e) u
    Stands s v c ∧ (getCore v c).pend = (getCore u c).pend ++ dueAt c (getCore s c).cyc ws ∧
      (getCore v c).delay = (getCore u c).delay ∧ (getCore v c).target = (getCore u c).target := by
  obtain ⟨e, hc, ho⟩ := putWrs c ws u (h.rep.trans hr)
  refine ⟨⟨?_, ?_, ?_, ?_, ⟨?_, ?_, ?_⟩, onlyCore_trans h.others ho⟩, ?_, ?_, ?_⟩ <;> rw [hc]
  exacts [h.pc, h.cyc, h.phase, h.rep, h.bank.1, h.bank.2.1, h.bank.2.2, by rw [h.cyc]]

/-- A bundle of one syllable that makes writes: the core goes to the next bundle with them in flight. -/
theorem syl_wrs {s : State} {q : Syl} {unit exts : Nat} {k : SylKind} (ws : List (Nat × Wr)) (hs : q.stop = true)
    (hb : atBundle s q.core (1 + exts) = true) (hu : unit < 8) (he : exts ≤ 3) (hk : k = .plain ∨ k = .bOther) :
    ∃ v, syl s q unit exts true k (ws.map (fun e => .wr e.1 e.2)) =
        .next (goTo v q.core (nextPc s q.core (1 + exts)) 1) ∧
      Stands s v q.core ∧ (getCore v q.core).pend = dueAt q.core (getCore s q.core).cyc ws ∧
      (getCore v q.core).delay = 0 := by
  have hrep := rep_of_atBundle hb
  obtain ⟨u, b, hi, h⟩ := syl_next hs hb hu he hk (find_wr ws _ fun _ _ => rfl) (find_wr ws _ fun _ _ => rfl)
    fun u b hi => by
      obtain ⟨hv, -, hd, -⟩ := hi.stands.wrs hrep ws
      exact ⟨hv, by rw [hd, hi.core]; simp [delay_of_atBundle hb]⟩
  obtain ⟨hv, hpend, hd, -⟩ := hi.stands.wrs hrep ws
  have hup : (getCore u q.core).pend = [] := by rw [hi.core]; exact pend_of_atBundle hb
  have hud : (getCore u q.core).delay = 0 := by rw [hi.core]; exact delay_of_atBundle hb
  rw [hup, List.nil_append] at hpend
  rw [hud] at hd
  exact ⟨_, h, hv.turned, by rw [getCore_turned]; exact hpend, by simp only [getCore_turned, hd]⟩

/-- Writes of latency 1 have landed as the next bundle issues. -/
theorem syl_lands {s : State} {q : Syl} {unit exts : Nat} {k : SylKind} (ws : List (Nat × Wr)) (hs : q.stop = true)
    (hb : atBundle s q.core (1 + exts) = true) (hu : unit < 8) (he : exts ≤ 3) (hk : k = .plain ∨ k = .bOther)
    (hl : isLighterCore q.core = false ∨ ∀ e ∈ ws, e.1 = 1) :
    ∃ t, syl s q unit exts true k (ws.map (fun e => .wr e.1 e.2)) = .next t ∧ Landed s t q.core (1 + exts) ws := by
  obtain ⟨v, h, hv, hp, -⟩ := syl_wrs ws hs hb hu he hk
  have hdue : dueAt q.core (getCore s q.core).cyc ws = ws.map (fun e => ⟨(getCore s q.core).cyc + 1, e.2⟩) := by
    refine List.map_congr_left fun e he => ?_
    rcases hl with hl | hl
    · simp [hl]
    · simp [hl e he]
  exact ⟨_, h, goTo_landed s v q.core _ 1 _ ws (hp.trans hdue) le_rfl hv.cyc hv.phase hv.curBank hv.others⟩

/-- Writes of latencies above 1 are in flight on a lighter core and have landed on a control core. -/
theorem syl_issued {s : State} {q : Syl} {unit exts : Nat} (ws : List (Nat × Wr)) (hs : q.stop = true)
    (hb : atBundle s q.core (1 + exts) = true) (hu : unit < 8) (he : exts ≤ 3) (hw : ∀ e ∈ ws, 1 < e.1) :
    ∃ t, syl s q unit exts true .plain (ws.map (fun e => .wr e.1 e.2)) = .next t ∧
      Issued s t q.core (1 + exts) ws := by
  unfold Issued
  cases hl : isLighterCore q.core
  · exact syl_lands ws hs hb hu he (.inl rfl) (.inl hl)
  · exact syl_flying s q unit exts ws hs hb hu he hl hw

/-- One write of latency 1, of a syllable of any unit. -/
theorem syl_oneWrite_next {s : State} {q : Syl} {unit exts : Nat} {k : SylKind} {w : Wr} (hs : q.stop = true)
    (hb : atBundle s q.core (1 + exts) = true) (hu : unit < 8) (he : exts ≤ 3) (hk : k = .plain ∨ k = .bOther)
    (hm : ∀ a bs, w ≠ .mem a bs) :
    ∃ t, syl s q unit exts true k [.wr 1 w] = .next t ∧ OneWrite s t q.core 1 (1 + exts) w := by
  obtain ⟨v, h, hv, hp, -⟩ := syl_wrs [(1, w)] hs hb hu he hk
  have hp : (getCore v q.core).pend = [⟨(getCore s q.core).cyc + 1, w⟩] := by simpa [dueAt] using hp
  obtain ⟨hg, ho⟩ := goTo_one v q.core (nextPc s q.core (1 + exts)) 1 _ hp hm
  simp only [hv.cyc, le_refl, if_true, hv.curBank] at hg
  refine ⟨_, h, ?_, ?_, ?_, fun _ => ⟨?_, ?_⟩, fun hlt => absurd hlt (lt_irrefl 1), ?_, onlyCore_trans hv.others ho⟩ <;>
    rw [hg, setCur_eq]
  case refine_3 => exact hv.phase
  case refine_6 => exact hv.bank.1
  case refine_4 => simp only [curBank]; split <;> rfl

end Sys2Proof.Machine
end

section
/-!
SUPPORT. Lanes of vector registers (R205, Table 7.11) and results that are no number (R245).
-/
namespace Sys2Proof.Machine

/-! ### Lanes -/

theorem packLanes_lt (w : Nat) (l : List Nat) : packLanes w l < 2 ^ (w * l.length) := by
  induction l with
  | nil => simp [packLanes]
  | cons x xs ih =>
    have hx : x % 2 ^ w < 2 ^ w := Nat.mod_lt _ (Nat.two_pow_pos w)
    calc packLanes w (x :: xs) < 2 ^ w * (packLanes w xs + 1) := by rw [packLanes, Nat.mul_add]; omega
      _ ≤ 2 ^ w * 2 ^ (w * xs.length) := Nat.mul_le_mul_left _ ih
      _ = 2 ^ (w * (x :: xs).length) := by rw [← Nat.pow_add, List.length_cons, Nat.mul_add, Nat.mul_one, Nat.add_comm]

/-- Each lane of a packed list holds the element at its index. -/
theorem packLanes_lane (w : Nat) (l : List Nat) (i : Nat) (h : i < l.length) :
    packLanes w l / 2 ^ (w * i) % 2 ^ w = l[i] % 2 ^ w := by
  induction l generalizing i with
  | nil => cases h
  | cons x xs ih =>
    have hpos : 0 < 2 ^ w := Nat.two_pow_pos w
    cases i with
    | zero => simp [packLanes]
    | succ i =>
      have hdrop : packLanes w (x :: xs) / 2 ^ w = packLanes w xs := by
        rw [packLanes, Nat.add_mul_div_left _ _ hpos, Nat.div_eq_of_lt (Nat.mod_lt _ hpos), Nat.zero_add]
      rw [Nat.mul_add, Nat.mul_one, Nat.add_comm, Nat.pow_add, ← Nat.div_div_eq_div_mul, hdrop,
        ih i (Nat.lt_of_succ_lt_succ h), List.getElem_cons_succ]

/-- The lanes of an element type fill the register. -/
theorem etWidth_mul {et : Nat} (h : et < 7) : etWidth et * (512 / etWidth et) = 512 := by
  interval_cases et <;> rfl

theorem toNat_mkLanes {w : Nat} (hw : w * (512 / w) = 512) (g : Nat → Nat) :
    (mkLanes w g).toNat = packLanes w ((List.range (laneCount w)).map g) := by
  have hlt := packLanes_lt w ((List.range (laneCount w)).map g)
  have hfits (n : Nat) (hn : w * ((List.range (laneCount w)).map g).length = n) :
      (BitVec.ofNat n (packLanes w ((List.range (laneCount w)).map g))).toNat = _ :=
    (BitVec.toNat_ofNat _ _).trans (Nat.mod_eq_of_lt (hn ▸ hlt))
  exact hfits 512 (by rw [List.length_map, List.length_range, laneCount, hw])

theorem lane_mkLanes {w : Nat} (hw : w * (512 / w) = 512) (g : Nat → Nat) {i : Nat} (hi : i < 512 / w) :
    lane w (mkLanes w g) i = g i % 2 ^ w := by
  rw [lane, toNat_mkLanes hw, packLanes_lane _ _ _ (by simpa [laneCount] using hi)]
  simp

/-! ### Values that are no number -/

theorem fvAdd_nan_right (x : FVal) : fvAdd x .nan = .nan := by cases x <;> rfl

theorem fvMul_nan {x y : FVal} (h : x = .nan ∨ y = .nan) : fvMul x y = .nan := by
  rcases h with rfl | rfl
  · rfl
  · cases x <;> rfl

theorem fvAdd_nan {x y : FVal} (h : x = .nan ∨ y = .nan) : fvAdd x y = .nan := by
  rcases h with rfl | rfl
  · rfl
  · exact fvAdd_nan_right x

section Nan
variable {f : FFmt} {a b : Nat} (h : fDecode f a = .nan ∨ fDecode f b = .nan)
include h

theorem fAdd_nan : fAdd f a b = fFinish f .nan := congrArg (fFinish f) (fvAdd_nan h)

theorem fSub_nan : fSub f a b = fFinish f .nan :=
  congrArg (fFinish f) (fvAdd_nan (h.imp_right fun hb => by rw [hb]; rfl))

theorem fMul_nan : fMul f a b = fFinish f .nan := congrArg (fFinish f) (fvMul_nan h)

/-- A product that is no number is none negated either. -/
theorem fFma_nan (sub : Bool) (d : Nat) : fFma f sub d a b = fFinish f .nan := by
  have hp : (if sub then fvNeg (fvMul (fDecode f a) (fDecode f b)) else fvMul (fDecode f a) (fDecode f b)) = .nan := by
    rw [fvMul_nan h]
    cases sub <;> rfl
  exact congrArg (fFinish f) ((congrArg (fvAdd _) hp).trans (fvAdd_nan_right _))

theorem fMin_nan : fMin f a b = fNanBits f := by
  unfold fMin
  rcases h with h | h
  · rw [h]
  · rw [h]
    cases fDecode f a <;> rfl

theorem fMax_nan : fMax f a b = fNanBits f := by
  unfold fMax
  rcases h with h | h
  · rw [h]
  · rw [h]
    cases fDecode f a <;> rfl

theorem fLt_nan : fLt f a b = false := by
  unfold fLt
  rcases h with h | h
  · rw [h]
    rfl
  · rw [h]
    cases fDecode f a <;> rfl

theorem fLe_nan : fLe f a b = false := by
  unfold fLe
  rcases h with h | h
  · rw [h]
  · rw [h]
    cases fDecode f a <;> rfl

theorem fEq_nan : fEq f a b = false := by rw [fEq, fLe_nan h, Bool.false_and]

/-- Every operation on an operand that is no number gives the default quiet NaN `n`, and no comparison holds. -/
theorem nan_results {n : Nat} (hn : fFinish f .nan = n) (hbits : fNanBits f = n) (sub : Bool) (d : Nat) :
    fAdd f a b = n ∧ fSub f a b = n ∧ fMul f a b = n ∧ fFma f sub d a b = n ∧ fMin f a b = n ∧ fMax f a b = n ∧
      fEq f a b = false ∧ fLt f a b = false ∧ fLe f a b = false :=
  ⟨(fAdd_nan h).trans hn, (fSub_nan h).trans hn, (fMul_nan h).trans hn, (fFma_nan h sub d).trans hn,
    (fMin_nan h).trans hbits, (fMax_nan h).trans hbits, fEq_nan h, fLt_nan h, fLe_nan h⟩

end Nan

/-- Settles O9, by the packing of lanes and the values that are no number; the orders of the zeros are evaluated. -/
theorem lanesAndNansAreAsStated : Obligations.LanesAndNansAreAsStated := by
  unfold Obligations.LanesAndNansAreAsStated
  refine ⟨fun et g i het hi => lane_mkLanes (etWidth_mul het) g hi,
    fun a b d sub => ⟨fun h => ?_, fun h => ?_, fun h => ?_⟩, ?zeros⟩
  · exact nan_results h (by decide) (by decide) sub d
  · exact nan_results h (by decide) (by decide) sub d
  · exact nan_results h (by decide) (by decide) sub d
  case zeros => decide

end Sys2Proof.Machine
end

section
/-!
SUPPORT. Bits (R209 to R211, R243): a write to a private bit lands with the next bundle; a write to a shared bit of a
set with nothing on its way is what every later read of that bit finds.
-/
namespace Sys2Proof.Machine

/-! ### The shared bits of a core's set -/

/-- All that a read of shared bits by core `c` depends on, but for the core's issue cycle. -/
def sharedSide (s : State) (c : Nat) : Tab Bool × Tab (List ShPend) × Harbour × Phase :=
  (s.ik.shared, s.ik.shPend, s.hm, (getCore s c).phase)

theorem sharedSide_setCore {s : State} {c : Nat} {x : Core} (h : x.phase = (getCore s c).phase) :
    sharedSide (setCore s c x) c = sharedSide s c := by
  simp only [sharedSide, getCore_setCore, h]
  rfl

theorem sharedSide_applyWr (c : Nat) (s : State) (p : Pend) : sharedSide (applyWr s c p.wr) c = sharedSide s c := by
  have hset (b : Bank) : (setCur (getCore s c) b).phase = (getCore s c).phase := by unfold setCur; split <;> rfl
  unfold applyWr
  split
  · split <;> rfl
  · exact sharedSide_setCore (hset _)

/-- Writes that take effect leave the shared bits alone. -/
theorem sharedSide_settle (s : State) (c t : Nat) : sharedSide (settle s c t) c = sharedSide s c :=
  (foldl_keeps (sharedSide · c) (sharedSide_applyWr c) _ _).trans (sharedSide_setCore rfl)

section Side
variable {s t : State} {c : Nat} (h : sharedSide t c = sharedSide s c)
include h

theorem shared_of_side : t.ik.shared = s.ik.shared := (congrArg Prod.fst h :)
theorem shPend_of_side : t.ik.shPend = s.ik.shPend := (congrArg (fun x => x.2.1) h :)

theorem sharedSet_of_side : sharedSet t c = sharedSet s c := by
  have hm : t.hm = s.hm := (congrArg (fun x => x.2.2.1) h :)
  have hph : (getCore t c).phase = (getCore s c).phase := (congrArg (fun x => x.2.2.2) h :)
  unfold sharedSet coreSpace coreThread getThr
  rw [hm, hph]

end Side

/-- The one write `p` is on its way to the shared bits of the set of core `c`, which are else as in `s`. -/
structure OneShared (s v : State) (c : Nat) (p : ShPend) : Prop where
  set : sharedSet v c = sharedSet s c
  shared : v.ik.shared = s.ik.shared
  pend : tabGet [] v.ik.shPend (sharedSet s c) = [p]

theorem OneShared.of_side {s v w : State} {c : Nat} {p : ShPend} (h : OneShared s v c p)
    (hw : sharedSide w c = sharedSide v c) : OneShared s w c p :=
  ⟨(sharedSet_of_side hw).trans h.set, (shared_of_side hw).trans h.shared, by rw [shPend_of_side hw, h.pend]⟩

/-- Shared bit `j` with the write `p` applied. -/
def sharedAfter (s : State) (c : Nat) (p : ShPend) (j : Nat) : Bool :=
  if sharedKey s c j = p.key then p.val else tabGet false s.ik.shared (sharedKey s c j)

/-- The one write is seen whether it is on its way or has joined the store. -/
theorem OneShared.view_settleShared {s v : State} {c : Nat} {p : ShPend} (h : OneShared s v c p) (j : Nat) :
    sharedView (settleShared v c) c j (fun _ => true) = sharedAfter s c p j := by
  have hset : sharedSet (settleShared v c) c = sharedSet s c := h.set
  have hkey : sharedKey (settleShared v c) c j = sharedKey s c j := by unfold sharedKey; rw [hset]
  unfold sharedView sharedAfter
  rw [hkey, hset]
  simp only [settleShared, h.set, h.pend, h.shared, tabGet_set_same, List.filter_cons, List.filter_nil]
  by_cases hold : (decide (p.issued + 3 ≤ tabGet 0 v.ik.clk (bitCluster c)) || !isLighterCore c) = true
  · rw [if_pos hold, if_neg (by simp [hold])]
    simp only [List.foldl_cons, List.foldl_nil]
    by_cases hk : sharedKey s c j = p.key
    · rw [if_pos hk, hk, tabGet_set_same]
    · rw [if_neg hk, tabGet_set_other _ _ _ _ _ hk]
  · rw [if_neg hold, if_pos (by simpa using hold)]
    simp only [List.foldl_cons, List.foldl_nil, and_true, eq_comm]

/-- The same once the core has gone on. -/
theorem OneShared.view_goTo {s v : State} {c : Nat} {p : ShPend} (h : OneShared s v c p) (pc : W64) (adv j : Nat) :
    sharedView (goTo v c pc adv) c j (fun _ => true) = sharedAfter s c p j := by
  unfold goTo
  refine (OneShared.of_side h ?_).view_settleShared j
  exact (sharedSide_settle _ c _).trans (sharedSide_setCore rfl)

/-! ### Writes to a shared bit (R211) -/

section Shared
variable {s u : State} {c : Nat} {b : Bundle} (hq : sharedQuiet s c = true) (hi : Issuing s u c b)

theorem shPend_of_quiet (hq : sharedQuiet s c = true) : tabGet [] s.ik.shPend (sharedSet s c) = [] := by
  simpa [sharedQuiet] using hq

/-- The write to shared bit `k` a bundle issued now makes. -/
def sharedWrite (s : State) (c k : Nat) (v : Bool) : ShPend := ⟨absCycle s c, c, sharedKey s c k, v⟩

theorem sharedKey_ne {j k : Nat} (hj : 1024 ≤ j) (hk : 1024 ≤ k) (h : j ≠ k) : sharedKey s c j ≠ sharedKey s c k := by
  unfold sharedKey
  omega

/-- The write has joined those on their way to the set. -/
def sharedPut (s : State) (c k : Nat) (v : Bool) : State := { s with ik := { s.ik with
  shPend := tabMod [] s.ik.shPend (sharedSet s c) (insertShared (sharedWrite s c k v)) } }

include hq in
/-- A set with nothing on its way reads as its store. -/
theorem sharedView_quiet (j : Nat) (p : ShPend → Bool) :
    sharedView s c j p = tabGet false s.ik.shared (sharedKey s c j) := by
  simp only [sharedView, shPend_of_quiet hq, List.foldl_nil]

include hi in
theorem stands_putShared (k : Nat) (v : Bool) : Stands s (putShared u c k v) c := by
  have ho : onlyCore u (sharedPut u c k v) c := onlyCore_ik u c _ rfl rfl
  exact Stands.setCore (v := sharedPut u c k v) { hi.stands with others := onlyCore_trans hi.onlyCore ho } rfl

theorem getCore_putShared (k : Nat) (v : Bool) : getCore (putShared u c k v) c =
    { getCore u c with endCyc := max (getCore u c).endCyc ((getCore u c).cyc + 3) } := getCore_setCore _ _ _

include hq hi in
theorem oneShared_putShared (k : Nat) (v : Bool) :
    OneShared s (putShared u c k v) c (sharedWrite s c k v) := by
  have habs : absCycle u c = absCycle s c := by unfold absCycle; rw [hi.core]
  have hput : OneShared s (sharedPut u c k v) c (sharedWrite s c k v) := by
    refine ⟨hi.sharedSet, hi.shared, ?_⟩
    simp only [sharedPut, tabMod, hi.sharedSet, hi.shPend, tabGet_set_same, shPend_of_quiet hq, insertShared,
      sharedWrite, habs, hi.sharedKey]
  exact hput.of_side (sharedSide_setCore rfl)

end Shared

/-- A bundle whose one effect writes a shared bit. -/
theorem syl_shared {s : State} {q : Syl} {unit exts k : Nat} {g : SylKind} {v : Bool} (hs : q.stop = true)
    (hb : atBundle s q.core (1 + exts) = true) (hu : unit < 8) (he : exts ≤ 3) (hg : g = .plain ∨ g = .bOther)
    (hq : sharedQuiet s q.core = true) (hk : 1024 ≤ k) :
    ∃ t, syl s q unit exts true g [.shared k v] = .next t ∧ SharedWritten s t q.core (1 + exts) k v := by
  have hcore (u : State) : getCore (putShared u q.core k v) q.core = _ := getCore_putShared k v
  obtain ⟨u, b, hi, h⟩ := syl_next (effs := [.shared k v]) hs hb hu he hg rfl rfl fun u b hi =>
    ⟨stands_putShared hi k v, by
      show (getCore (putShared u q.core k v) q.core).delay ≠ 1
      simp [hcore, hi.core, delay_of_atBundle hb]⟩
  have hst := (stands_putShared hi k v).turned
  obtain ⟨hquiet, -⟩ := hst.quiet (by simp [getCore_turned, hcore, hi.core, pend_of_atBundle hb]) (1 + exts)
  have hone : OneShared s (turned (putShared u q.core k v) q.core) q.core (sharedWrite s q.core k v) :=
    (oneShared_putShared hq hi k v).of_side (sharedSide_setCore rfl)
  refine ⟨_, h, hquiet.next, ?_, ?_, fun j hj hj2 hne => ?_, hquiet.others⟩
  · exact hquiet.curBank
  · exact (hone.view_goTo _ 1 k).trans (if_pos rfl)
  · refine (hone.view_goTo _ 1 j).trans ?_
    rw [sharedView_quiet hq]
    exact if_neg (sharedKey_ne hj hk hne)

/-- Outside a repeat a write joins those in flight. -/
theorem putWr_single {v : State} {c : Nat} (hr : (getCore v c).rep = none) (lat : Nat) (w : Wr) :
    putWr v c lat w = setCore v c { getCore v c with
      pend := (getCore v c).pend ++ [⟨(getCore v c).cyc + (if isLighterCore c then lat else 1), w⟩]
      endCyc := max (getCore v c).endCyc ((getCore v c).cyc + lat) } := by
  unfold putWr
  dsimp only
  split
  · rename_i h
    rw [hr] at h
    cases h
  · rfl

/-- The bit a test of shared bit `k` finds in a set with nothing on its way. -/
theorem rmwView_quiet {s u : State} {c : Nat} {b : Bundle} (hq : sharedQuiet s c = true) (hi : Issuing s u c b)
    (k : Nat) : rmwView u c k = tabGet false s.ik.shared (sharedKey s c k) := by
  unfold rmwView sharedView
  rw [hi.sharedKey, hi.sharedSet, hi.shPend, hi.shared, shPend_of_quiet hq, List.foldl_nil]

/-- What a test of shared bit `k` and a write to it leave: both writes on their way. -/
theorem sharedRmw_spec {s u : State} {c k dst : Nat} {b : Bundle} (hq : sharedQuiet s c = true)
    (hi : Issuing s u c b) (hr : (getCore s c).rep = none) (hp : (getCore s c).pend = []) (v : Bool) :
    let w := doEff u c (.sharedRmw k v dst)
    Stands s w c ∧ OneShared s w c (sharedWrite s c k v) ∧ (getCore w c).delay = (getCore s c).delay ∧
      (getCore w c).pend = [⟨(getCore s c).cyc + (if isLighterCore c then 3 else 1),
        .bit dst (tabGet false s.ik.shared (sharedKey s c k))⟩] := by
  have hcore : getCore (putShared u c k v) c = _ := getCore_putShared k v
  have hrep : (getCore (putShared u c k v) c).rep = none := by rw [hcore, hi.core]; exact hr
  have hw : doEff u c (.sharedRmw k v dst) = putWr (putShared u c k v) c 3 (.bit dst (rmwView u c k)) := rfl
  simp only [hw, putWr_single hrep]
  refine ⟨(stands_putShared hi k v).setCore rfl,
    (oneShared_putShared hq hi k v).of_side (sharedSide_setCore rfl), ?_, ?_⟩
  · rw [getCore_setCore, hcore, hi.core]
  · rw [getCore_setCore, hcore, hi.core, rmwView_quiet hq hi]
    simp only [hp, List.nil_append]

/-- A bundle whose one effect tests a shared bit and writes it (R211). -/
theorem syl_sharedRmw {s : State} {q : Syl} {k dst : Nat} {v : Bool} (hs : q.stop = true)
    (hb : atBundle s q.core 1 = true) (hq : sharedQuiet s q.core = true) :
    ∃ t, syl s q 6 0 true .bOther [.sharedRmw k v dst] = .next t ∧
      sharedView t q.core k (fun _ => true) = v ∧ (getCore t q.core).pc = nextPc s q.core 1 ∧
      (isLighterCore q.core = true → (getCore t q.core).pend =
        [⟨(getCore s q.core).cyc + 3, .bit dst (tabGet false s.ik.shared (sharedKey s q.core k))⟩]) := by
  have hspec (u : State) (b : Bundle) (hi : Issuing s u q.core b) :=
    sharedRmw_spec (k := k) (dst := dst) hq hi (rep_of_atBundle hb) (pend_of_atBundle hb) v
  obtain ⟨u, b, hi, h⟩ := syl_next (unit := 6) (exts := 0) (effs := [.sharedRmw k v dst]) hs hb (by omega) (by omega)
    (.inr rfl) rfl rfl fun u b hi => by
      obtain ⟨hst, -, hd, -⟩ := hspec u b hi
      exact ⟨hst, (hd.trans (delay_of_atBundle hb)).trans_ne (by decide)⟩
  obtain ⟨hst, hone, -, hp⟩ := hspec u b hi
  have hone := hone.of_side (w := turned _ q.core) (sharedSide_setCore rfl)
  obtain ⟨hg, -⟩ := goTo_one _ q.core (nextPc s q.core 1) 1 _ ((congrArg Core.pend (getCore_turned _ q.core)).trans hp)
    (by simp)
  refine ⟨_, h, (hone.view_goTo _ 1 k).trans (if_pos rfl), pc_goTo _ _ _ _, fun hl => ?_⟩
  refine (congrArg Core.pend hg).trans ?_
  have hlate : ¬ (getCore s q.core).cyc + 3 ≤ (getCore s q.core).cyc + 1 := by omega
  simp only [hst.turned.cyc, hl, if_true, hlate, if_false]
  rw [getCore_turned, hp, if_pos hl]

/-! ### The syllables that write bits -/

theorem bitEff_private {k : Nat} (hk : k < 1024) (v : Bool) : bitEff k v = [.wr 1 (.bit k v)] := if_pos hk

theorem bitEff_shared {k : Nat} (hk : 1024 ≤ k) (hk2 : k < 2048) (v : Bool) : bitEff k v = [.shared k v] := by
  unfold bitEff
  rw [if_neg (by omega), if_pos hk2]

section Rows
variable {s : State} {q : Syl} {f : BitF}

/-- BSET, BCLR and BTGL are no syllables of a status bit, and their offset is reserved. -/
theorem bitSyl_eq (h0 : f.off8 = 0) (hk : f.bn.toNat < 2048) (v : Bool) :
    bitSyl q f v s = syl s q 6 0 true .bOther (bitEff f.bn.toNat v) := by
  simp [bitSyl, h0, hk]

theorem testAnd_private (hk : f.bn.toNat < 1024) (v : Bool) : testAnd q f v s = syl s q 6 0 true .bOther
    ([(1, Wr.bit f.off8.toNat (rdBit s q.core f.bn.toNat)), (1, .bit f.bn.toNat v)].map (fun e => .wr e.1 e.2)) := by
  have hk2 : f.bn.toNat < 2048 := by omega
  simp [testAnd, hk, hk2]

theorem testAnd_shared (hk : 1024 ≤ f.bn.toNat) (hk2 : f.bn.toNat < 2048) (v : Bool) :
    testAnd q f v s = syl s q 6 0 true .bOther [.sharedRmw f.bn.toNat v f.off8.toNat] := by
  have hn : ¬ f.bn.toNat < 1024 := by omega
  simp [testAnd, hn, hk2]

/-- BLG looks its two bits up in the table of its TT field. -/
theorem execBlg_eq {g : BlgF} {e : BitVec 31} (hr : g.rsv = 0) (he : e.toNat % 128 = 0) (hk : g.bd.toNat < 2048) :
    execBlg q g e s = syl s q 6 1 true .bOther (bitEff g.bd.toNat (g.tt.getLsbD
      ((if rdBit s q.core (e.toNat / 2 ^ 19) then 2 else 0) +
        (if rdBit s q.core (e.toNat / 2 ^ 7 % 4096) then 1 else 0)))) := by
  have hba : bitsOf e.toNat 19 30 = e.toNat / 2 ^ 19 := by
    have := e.isLt
    simp only [bitsOf]
    omega
  have hindex (a b : Bool) : 2 * b2n a + b2n b = (if a then 2 else 0) + (if b then 1 else 0) := by
    cases a <;> cases b <;> rfl
  have hlow : bitsOf e.toNat 0 6 = 0 := by simpa [bitsOf] using he
  simp only [execBlg, hba, hindex, hlow, hr, hk, beq_self_eq_true, decide_true, Bool.and_self]
  rfl

theorem cmpLong_eq {m : CmpF} {e : BitVec 31} (h0 : m.bd8 = 0) (he : e.toNat < 2048) (op : CmpOp) :
    cmpLong q m e op s = syl s q (unitOf 2 q) 1 true .plain
      (bitEff e.toNat (cmpHolds op (rdX s q.core m.ra.toNat) (rdX s q.core m.rb.toNat))) := by
  have he2 : e.toNat < 4096 := by omega
  simp [cmpLong, cmpSyl, h0, he, he2, Nat.mod_eq_of_lt he2]

variable (hs : q.stop = true)
include hs

theorem bitSyl_private (hb : atBundle s q.core 1 = true) (h0 : f.off8 = 0) (hk : f.bn.toNat < 1024) (v : Bool) :
    ∃ t, bitSyl q f v s = .next t ∧ OneWrite s t q.core 1 1 (.bit f.bn.toNat v) := by
  rw [bitSyl_eq h0 (by omega), bitEff_private hk]
  exact syl_oneWrite_next hs hb (by omega) (by omega) (.inr rfl) (by simp)

theorem bitSyl_shared (hb : atBundle s q.core 1 = true) (hq : sharedQuiet s q.core = true) (h0 : f.off8 = 0)
    (hk : 1024 ≤ f.bn.toNat) (hk2 : f.bn.toNat < 2048) (v : Bool) :
    ∃ t, bitSyl q f v s = .next t ∧ SharedWritten s t q.core 1 f.bn.toNat v := by
  rw [bitSyl_eq h0 hk2, bitEff_shared hk hk2]
  exact syl_shared hs hb (by omega) (by omega) (.inr rfl) hq hk

theorem testAnd_private_lands (hb : atBundle s q.core 1 = true) (hk : f.bn.toNat < 1024) (v : Bool) :
    ∃ t, testAnd q f v s = .next t ∧ Landed s t q.core 1
      [(1, .bit f.off8.toNat (rdBit s q.core f.bn.toNat)), (1, .bit f.bn.toNat v)] := by
  rw [testAnd_private hk]
  exact syl_lands _ hs hb (by omega) (by omega) (.inr rfl) (.inr (by simp))

theorem cmpLong_shared {m : CmpF} {e : BitVec 31} (hb : atBundle s q.core 2 = true)
    (hq : sharedQuiet s q.core = true) (h0 : m.bd8 = 0) (hk : 1024 ≤ e.toNat) (hk2 : e.toNat < 2048) (op : CmpOp) :
    ∃ t, cmpLong q m e op s = .next t ∧
      SharedWritten s t q.core 2 e.toNat (cmpHolds op (rdX s q.core m.ra.toNat) (rdX s q.core m.rb.toNat)) := by
  rw [cmpLong_eq h0 hk2, bitEff_shared hk hk2]
  exact syl_shared hs hb (unitOf_lt (by omega)) (by omega) (.inl rfl) hq hk

end Rows

/-- Settles O4: a private bit is one write of latency 1; a shared one is the only write on its way to its set. -/
theorem bitSyllablesWriteTheirBit : Obligations.BitSyllablesWriteTheirBit := by
  unfold Obligations.BitSyllablesWriteTheirBit
  refine ⟨fun s q f g e hs => ⟨fun hb hk => ⟨fun h0 => ?_, ?_, ?_⟩, fun hb hr he hk => ?blg⟩,
    fun s q f g m e hs hq => ⟨fun hb hk hk2 h0 => ?_, fun hb hr he hk hk2 => ?blgShared,
      fun hb h0 hk hk2 => ?_, fun hb hk hk2 => ⟨?_, ?_⟩⟩⟩
  · exact ⟨bitSyl_private hs hb h0 hk true, bitSyl_private hs hb h0 hk false, bitSyl_private hs hb h0 hk _⟩
  · exact testAnd_private_lands hs hb hk true
  · exact testAnd_private_lands hs hb hk false
  case blg =>
    show ∃ t, execBlg q g e s = _ ∧ _
    rw [execBlg_eq hr he (by omega), bitEff_private hk]
    exact syl_oneWrite_next hs hb (by omega) (by omega) (.inr rfl) (by simp)
  · exact ⟨bitSyl_shared hs hb hq h0 hk hk2 true, bitSyl_shared hs hb hq h0 hk hk2 false,
      bitSyl_shared hs hb hq h0 hk hk2 _⟩
  case blgShared =>
    show ∃ t, execBlg q g e s = _ ∧ _
    rw [execBlg_eq hr he hk2, bitEff_shared hk hk2]
    exact syl_shared hs hb (by omega) (by omega) (.inr rfl) hq hk
  · have hop (op : CmpOp) := cmpLong_shared hs hb hq h0 hk hk2 op
    exact ⟨hop .eq, hop .ne, hop .lt, hop .ltu, hop .le, hop .leu, hop .tst⟩
  · show ∃ t, testAnd q f true s = _ ∧ _
    rw [testAnd_shared hk hk2]
    exact syl_sharedRmw hs hb hq
  · show ∃ t, testAnd q f false s = _ ∧ _
    rw [testAnd_shared hk hk2]
    exact syl_sharedRmw hs hb hq

end Sys2Proof.Machine
end

section
/-!
SUPPORT. Accesses to memory (Tables 7.7, 8.1): the address and the base update outside a repeat, the writes of a store,
and the store of a lighter core that lands behind the next bundle (R206, R233).
-/
namespace Sys2Proof.Machine

section Access
variable {s : State} {q : Syl} {f : MemF}

/-! ### Fields and addresses -/

theorem highBit_iff (r : BitVec 6) : r.getLsbD 5 = decide (32 ≤ r.toNat) := by
  have := r.isLt
  rw [BitVec.getLsbD, Nat.testBit_eq_decide_div_mod_eq, decide_eq_decide]
  omega

theorem memOk_eq (op : MemOp) : memOk op f = shortOk f (memVec op) := by
  simp only [memOk, shortOk, highBit_iff]
  cases memVec op <;> simp

theorem memLongOk_eq (op : MemOp) : memLongOk op f = longOk f (memVec op) := by
  simp only [memLongOk, longOk, highBit_iff]
  cases memVec op <;> simp

/-- An access a core may make is no fault of a control thread (R218). -/
theorem accessFault_of_reachable {c : Nat} {a : W64} {n : Nat} (h : reachable c a n = true) :
    accessFault c a n false = false := by
  revert h
  unfold reachable accessFault
  cases isLighterCore c <;> simp

/-- Nor is an aligned atomic of a control core (R240). -/
theorem accessFault_of_aligned {c : Nat} {a : W64} {n : Nat} (h : reachable c a n = true)
    (hal : isLighterCore c = false → a.toNat % n = 0) : accessFault c a n true = false := by
  revert h hal
  unfold reachable accessFault
  cases isLighterCore c <;> simp +contextual

theorem mode_cases (m : BitVec 2) : m = 0 ∨ m = 1 ∨ m = 2 ∨ m = 3 := by
  have := m.isLt
  have h : m.toNat = 0 ∨ m.toNat = 1 ∨ m.toNat = 2 ∨ m.toNat = 3 := by omega
  simpa [← BitVec.toNat_inj] using h

theorem runBase_single (hr : (getCore s q.core).rep = none) (n : Nat) :
    runBase s q.core f n = rdX s q.core f.ra.toNat := by
  unfold runBase
  rw [hr]

theorem memAddr_single (hr : (getCore s q.core).rep = none) (n : Nat) :
    memAddr s q.core f n = tableAddr s q.core f n := by
  rcases mode_cases f.mode with h | h | h | h <;> simp [memAddr, tableAddr, h, runBase_single hr, offBytes]

theorem baseEff_single (hr : (getCore s q.core).rep = none) (n lat : Nat) :
    baseEff s q.core f n lat = (tableBase s q.core f n lat).map (fun e => .wr e.1 e.2) := by
  rcases mode_cases f.mode with h | h | h | h <;> simp [baseEff, tableBase, h, runBase_single hr, offBytes]

theorem lat_of_tableBase {n lat : Nat} {e : Nat × Wr} (h : e ∈ tableBase s q.core f n lat) : e.1 = lat := by
  unfold tableBase at h
  dsimp only at h
  split at h
  · rw [List.mem_singleton.mp h]
  · split at h
    · rw [List.mem_singleton.mp h]
    · cases h

/-! ### Accesses of a bundle of their own -/

section Rows
variable {op : MemOp} (ws : W64 → List (Nat × Wr)) (hs : q.stop = true)
  (hacc : ∀ a, accessEff s q.core op f.rt.toNat a = (ws a).map (fun e => .wr e.1 e.2))
  (hlat : ∀ a, ∀ e ∈ ws a, 1 < e.1)
include hs hacc hlat

/-- The short form: the writes of the access and the base update. -/
theorem memSyl_issued (hb : atBundle s q.core 1 = true) (hok : shortOk f (memVec op) = true)
    (hr : reachable q.core (tableAddr s q.core f (memSize op)) (memSize op) = true) :
    ∃ t, memSyl q f op s = .next t ∧ Issued s t q.core 1
      (ws (tableAddr s q.core f (memSize op)) ++ tableBase s q.core f (memSize op) (memLat op)) := by
  have hrep := rep_of_atBundle hb
  have hlat2 : 1 < memLat op := by cases op <;> simp [memLat]
  simp only [memSyl, memOk_eq, hok, memAddr_single hrep, baseEff_single hrep, accessFault_of_reachable hr, hacc,
    Bool.and_false, Bool.false_eq_true, if_false, ← List.map_append]
  refine syl_issued _ hs hb (unitOf_lt (by omega)) (by omega) fun e he => ?_
  rcases List.mem_append.mp he with he | he
  · exact hlat _ e he
  · rw [lat_of_tableBase he]
    exact hlat2

/-- The long form: the writes of the access at the byte offset of the extension. -/
theorem memLong_issued {e : BitVec 31} (hb : atBundle s q.core 2 = true) (hok : longOk f (memVec op) = true)
    (hr : reachable q.core (rdX s q.core f.ra.toNat + e.signExtend 64) (memSize op) = true) :
    ∃ t, memLong q f e op s = .next t ∧ Issued s t q.core 2 (ws (rdX s q.core f.ra.toNat + e.signExtend 64)) := by
  simp only [memLong, memLongOk_eq, hok, accessFault_of_reachable hr, hacc, Bool.and_false, Bool.false_eq_true,
    if_false]
  exact syl_issued _ hs hb (unitOf_lt (by omega)) (by omega) (hlat _)

end Rows

/-! ### Stores -/

/-- The writes a store of `bs` makes, `lat` cycles on. -/
def storesAt (s : State) (c lat : Nat) (bs : List Byte) (a : W64) : List (Nat × Wr) :=
  (storeAt s c a.toNat bs).map (fun w => (lat, w))

theorem storesAt_eff (c lat : Nat) (bs : List Byte) (a : W64) :
    (storeAt s c a.toNat bs).map (Eff.wr lat) = (storesAt s c lat bs a).map (fun e => .wr e.1 e.2) := by
  rw [storesAt, List.map_map]
  rfl

theorem lat_of_storesAt {c lat : Nat} {bs : List Byte} {a : W64} {e : Nat × Wr} (h : e ∈ storesAt s c lat bs a) :
    e.1 = lat := by
  obtain ⟨w, -, rfl⟩ := List.mem_map.mp h
  rfl

section Stores
variable (hs : q.stop = true)
include hs

theorem store_short {n : Nat} (hb : atBundle s q.core 1 = true) (hok : shortOk f false = true)
    (hr : reachable q.core (tableAddr s q.core f n) n = true) :
    ∃ t, memSyl q f (.store n) s = .next t ∧ Issued s t q.core 1
      (storesAt s q.core 2 (leBytes n (rdX s q.core f.rt.toNat).toNat) (tableAddr s q.core f n) ++
        tableBase s q.core f n 2) :=
  memSyl_issued (op := .store n) _ hs (fun _ => storesAt_eff _ _ _ _)
    (fun _ _ he => by rw [lat_of_storesAt he]; omega) hb hok hr

theorem store_long {n : Nat} {e : BitVec 31} (hb : atBundle s q.core 2 = true) (hok : longOk f false = true)
    (hr : reachable q.core (rdX s q.core f.ra.toNat + e.signExtend 64) n = true) :
    ∃ t, memLong q f e (.store n) s = .next t ∧ Issued s t q.core 2 (storesAt s q.core 2
      (leBytes n (rdX s q.core f.rt.toNat).toNat) (rdX s q.core f.ra.toNat + e.signExtend 64)) :=
  memLong_issued (op := .store n) _ hs (fun _ => storesAt_eff _ _ _ _)
    (fun _ _ he => by rw [lat_of_storesAt he]; omega) hb hok hr

theorem storeV_short (hb : atBundle s q.core 1 = true) (hok : shortOk f true = true)
    (hr : reachable q.core (tableAddr s q.core f 64) 64 = true) :
    ∃ t, memSyl q f .storeV s = .next t ∧ Issued s t q.core 1
      (storesAt s q.core 2 (leBytes 64 (rdV s q.core f.rt.toNat).toNat) (tableAddr s q.core f 64) ++
        tableBase s q.core f 64 2) :=
  memSyl_issued (op := .storeV) _ hs (fun _ => storesAt_eff _ _ _ _)
    (fun _ _ he => by rw [lat_of_storesAt he]; omega) hb hok hr

theorem storeV_long {e : BitVec 31} (hb : atBundle s q.core 2 = true) (hok : longOk f true = true)
    (hr : reachable q.core (rdX s q.core f.ra.toNat + e.signExtend 64) 64 = true) :
    ∃ t, memLong q f e .storeV s = .next t ∧ Issued s t q.core 2 (storesAt s q.core 2
      (leBytes 64 (rdV s q.core f.rt.toNat).toNat) (rdX s q.core f.ra.toNat + e.signExtend 64)) :=
  memLong_issued (op := .storeV) _ hs (fun _ => storesAt_eff _ _ _ _)
    (fun _ _ he => by rw [lat_of_storesAt he]; omega) hb hok hr

end Stores

/-! ### Loads with nothing in flight -/

theorem bytesView_idle {c : Nat} (hp : (getCore s c).pend = []) (t a n : Nat) : bytesView s c t a n =
    if isLighterCore c then memRead s.ik.spad (c * 2 ^ 20 + a) n else memRead s.dram a n := by
  induction n generalizing a with
  | zero => simp [bytesView, memRead]
  | succ n ih =>
    have hbyte : byteView s c t a =
        if isLighterCore c then tabGet 0 s.ik.spad (c * 2 ^ 20 + a) else tabGet 0 s.dram a := by
      simp [byteView, hp, sortPend]
    rw [bytesView, ih, hbyte]
    split <;> simp only [memRead, Nat.add_assoc]

theorem loadAt_idle {c : Nat} (hp : (getCore s c).pend = []) (t : Nat) (a : W64) (n : Nat) :
    loadAt s c t a.toNat n = coreBytes s c a n := by
  unfold loadAt coreBytes
  simp only [bytesView_idle hp]
  cases isLighterCore c <;> simp

theorem extLoad_unsigned {c : Nat} (hp : (getCore s c).pend = []) (t : Nat) (a : W64) (n : Nat) :
    extLoad n false (loadAt s c t a.toNat n) = loaded s c a n false := by
  unfold extLoad loaded
  rw [loadAt_idle hp, if_neg Bool.false_ne_true, if_neg Bool.false_ne_true]

/-! ### Atomics -/

/-- SWPD and AADDD make their store and their load as one step. -/
theorem atomSyl_issued {old : W64} (hs : q.stop = true) (hb : atBundle s q.core 1 = true) (hm : f.mode = 0)
    (hc : f.sc = 0) (hr : reachable q.core (tableAddr s q.core f 8) 8 = true)
    (hal : isLighterCore q.core = false → (tableAddr s q.core f 8).toNat % 8 = 0)
    (hold : loaded s q.core (tableAddr s q.core f 8) 8 false = old) (add : Bool) :
    ∃ t, atomSyl q f add s = .next t ∧ Issued s t q.core 1
      (storesAt s q.core 4 (leBytes 8 (if add then old + rdX s q.core f.rt.toNat else rdX s q.core f.rt.toNat).toNat)
        (tableAddr s q.core f 8) ++ [(4, .x f.rt.toNat old)]) := by
  have haddr : rdX s q.core f.ra.toNat + offBytes f 8 = tableAddr s q.core f 8 := by
    simp [tableAddr, hm, offBytes]
  have hload : extLoad 8 false (loadAt s q.core (getCore s q.core).cyc (tableAddr s q.core f 8).toNat 8) = old :=
    (extLoad_unsigned (pend_of_atBundle hb) _ (tableAddr s q.core f 8) 8).trans hold
  have hfields : (f.mode == 0 && f.sc == 0) = true := by rw [hm, hc]; rfl
  generalize hnew : (if add then old + rdX s q.core f.rt.toNat else rdX s q.core f.rt.toNat) = new
  have heq : atomSyl q f add s = syl s q (unitOf 0 q) 0 true .plain
      ((storesAt s q.core 4 (leBytes 8 new.toNat) (tableAddr s q.core f 8) ++ [((4 : Nat), Wr.x f.rt.toNat old)]).map
        (fun e : Nat × Wr => Eff.wr e.1 e.2)) := by
    unfold atomSyl
    simp only [haddr, hload, hnew, hfields, accessFault_of_aligned hr hal, Bool.and_false, Bool.false_eq_true, if_false,
      storesAt_eff, List.map_append, List.map_cons, List.map_nil]
  rw [heq]
  refine syl_issued _ hs hb (unitOf_lt (by omega)) (by omega) fun e he => ?_
  rcases List.mem_append.mp he with he | he
  · rw [lat_of_storesAt he]
    omega
  · rw [List.mem_singleton.mp he]
    omega

/-! ### A store lands behind the bundle after its own (R206, R233) -/

section OnlyCore
variable {s u : State} {c : Nat} (ho : onlyCore s u c) (hph : (getCore u c).phase = (getCore s c).phase)
include ho hph

theorem imageAt_eq (pc : W64) : imageAt u (coreSpace u c) pc = imageAt s (coreSpace s c) pc := by
  obtain ⟨-, -, hrest⟩ := ho
  have hhm : u.hm = s.hm := (congrArg State.hm hrest :)
  have hprog : u.prog = s.prog := (congrArg State.prog hrest :)
  unfold imageAt coreSpace coreThread getThr
  rw [hph, hhm, hprog]

theorem codeHolds_eq (hpc : (getCore u c).pc = (getCore s c).pc) (n : Nat) : codeHolds u c n = codeHolds s c n := by
  unfold codeHolds
  dsimp only
  rw [hpc, imageAt_eq ho hph]

end OnlyCore

theorem bitsOf_pcTo_high (pc : W64) (n : Nat) : bitsOf (pcTo pc n).toNat 32 47 = bitsOf pc.toNat 32 47 := by
  have := pc.isLt
  simp only [bitsOf, pcTo, BitVec.toNat_ofNat]
  omega

theorem bitsOf_pcTo_low (pc : W64) (n : Nat) : bitsOf (pcTo pc n).toNat 0 31 = n % 2 ^ 32 := by
  have := pc.isLt
  simp only [bitsOf, pcTo, BitVec.toNat_ofNat]
  omega

/-- Where two words of code stand, one stands behind the first. -/
theorem codeHolds_next {s u : State} {c : Nat} (ho : onlyCore s u c) (hph : (getCore u c).phase = (getCore s c).phase)
    (hpc : (getCore u c).pc = nextPc s c 1) (h : codeHolds s c 2 = true) : codeHolds u c 1 = true := by
  have himage : imageAt u (coreSpace u c) (nextPc s c 1) = imageAt s (coreSpace s c) (getCore s c).pc := by
    rw [imageAt_eq ho hph]
    unfold imageAt nextPc
    rw [bitsOf_pcTo_high]
  have hlow : bitsOf (nextPc s c 1).toNat 0 31 ≤ bitsOf (getCore s c).pc.toNat 0 31 + 4 := by
    rw [nextPc, bitsOf_pcTo_low]
    simp only [bitsOf]
    omega
  have halign : (nextPc s c 1).toNat % 4 = (getCore s c).pc.toNat % 4 := by
    simp only [nextPc, pcTo, BitVec.toNat_ofNat]
    omega
  revert h
  unfold codeHolds
  dsimp only
  rw [hpc, himage]
  split
  · split
    · simp only [Bool.and_eq_true, decide_eq_true_eq, beq_iff_eq]
      omega
    · exact id
  · exact id

/-- A core about to issue a bundle of one word that may have writes in flight. -/
structure MayIssue (s : State) (c : Nat) : Prop where
  running : ∃ t, (getCore s c).phase = .running t
  bun : (getCore s c).bun = .empty
  first : (getCore s c).first = false
  delay : (getCore s c).delay = 0
  rep : (getCore s c).rep = none
  code : codeHolds s c 1 = true

/-- The bundle of a NOP. -/
def nopBundle : Bundle := { Bundle.empty with words := 1, last := some 6 }

/-- A NOP goes on to the next bundle, at whose issue what is due lands. -/
theorem nop_goesOn {p : Syl} (hp : p.stop = true) (h : MayIssue s p.core) : ∃ u, exec (.nop p 0) s =
      .next (goTo u p.core (nextPc s p.core 1) 1) ∧ Stands s u p.core ∧
      (getCore u p.core).pend = (getCore s p.core).pend := by
  obtain ⟨th, hth⟩ := h.running
  have hi : Issuing s (setCore (setCore s p.core { getCore s p.core with bun := nopBundle }) p.core
      { getCore s p.core with bun := nopBundle, lastPc := (getCore s p.core).pc }) p.core nopBundle :=
    issuing_setCore s p.core _ nopBundle
  have hgather : gather s p 6 0 true .plain [] = setCore s p.core { getCore s p.core with bun := nopBundle } := by
    simp [gather, modCore, h.bun, Bundle.empty, nopBundle]
    rfl
  have hlast : modCore (gather s p 6 0 true .plain []) p.core (fun x => { x with lastPc := x.pc }) =
      setCore (setCore s p.core { getCore s p.core with bun := nopBundle }) p.core
        { getCore s p.core with bun := nopBundle, lastPc := (getCore s p.core).pc } := by
    rw [hgather, modCore, getCore_setCore]
  generalize setCore (setCore s p.core _) p.core _ = u at hi hlast
  have hcode : codeHolds u p.core 1 = true := by
    rw [codeHolds_eq hi.onlyCore (by rw [hi.core]) (by rw [hi.core]) 1]
    exact h.code
  have hlegal : bundleLegal u p.core = true := by
    have hin : bundleInCode u p.core = true := by rw [bundleInCode, hi.core]; exact hcode
    simp [bundleLegal, hin, hi.core, nopBundle, Bundle.empty, h.first, h.delay, h.rep]
  have hcommit : commit (gather s p 6 0 true .plain []) p.core = advance u p.core [] 1 := by
    unfold commit
    rw [hlast]
    simp [hlegal, hgather, nopBundle, Bundle.empty, h.first, dropRestored, effRestores]
  have hexec : exec (.nop p 0) s = .next (commit (gather s p 6 0 true .plain []) p.core) := by
    show syl s p 6 0 true .plain [] = _
    simp only [syl, hth, hp, if_true]
  have hst := hi.stands
  rw [hexec, hcommit, advance_next 1 rfl rfl (hst.rep.trans h.rep) (by rw [hi.core]; simp [h.delay]), hst.pc]
  exact ⟨_, rfl, hst.turned, by rw [getCore_turned, hi.core]⟩

/-- A lighter core's bundle whose one write is still in flight: it may issue the next one. -/
theorem storeFlying {s : State} {q : Syl} {unit : Nat} {w : Wr} (hs : q.stop = true) (hl : isLighterCore q.core = true)
    (hb : atBundle s q.core 2 = true) (hu : unit < 8) :
    ∃ t, syl s q unit 0 true .plain [.wr 2 w] = .next t ∧ MayIssue t q.core ∧ onlyCore s t q.core ∧
      (getCore t q.core).pend = [⟨(getCore t q.core).cyc + 1, w⟩] := by
  obtain ⟨v, h, hv, hp, hd⟩ := syl_wrs (exts := 0) [(2, w)] hs (atBundle_of_le hb one_le_two) hu (by omega) (.inl rfl)
  have hp : (getCore v q.core).pend = [⟨(getCore s q.core).cyc + 2, w⟩] := by simpa [dueAt, hl] using hp
  obtain ⟨hg, ho⟩ := goTo_settle v q.core (nextPc s q.core 1) 1 _ rfl
  rw [settle_later _ _ _ (by simp [hp, hv.cyc])] at hg ho
  rw [getCore_setCore, getCore_setCore] at hg
  have ho : onlyCore s (goTo v q.core (nextPc s q.core 1) 1) q.core :=
    onlyCore_trans hv.others (onlyCore_trans (onlyCore_setCore _ _ _) (onlyCore_trans (onlyCore_setCore _ _ _) ho))
  have hph : (getCore (goTo v q.core (nextPc s q.core 1) 1) q.core).phase = (getCore s q.core).phase := by
    rw [hg]
    exact hv.phase
  refine ⟨_, h, ⟨?_, ?_, ?_, ?_, ?_, ?_⟩, ho, ?_⟩
  · rw [hph]
    exact running_of_atBundle hb
  · rw [hg]
  · rw [hg]
  · rw [hg]
    exact hd
  · rw [hg]
    exact hv.rep.trans (rep_of_atBundle hb)
  · exact codeHolds_next ho hph (pc_goTo _ _ _ _) (codeHolds_of_atBundle hb)
  · rw [hg, hp, hv.cyc]

/-- A store of eight bytes to the scratchpad goes to its address rounded down. -/
theorem storeAt_spad {c a w : Nat} {bs : List Byte} (hl : isLighterCore c = true) (hlen : bs.length = 8)
    (hw : a % 2 ^ 20 / 8 * 8 = w) (h : w < 0x80000) : storeAt s c a bs = [.mem w bs] := by
  have hwin : winNorm a 8 = w := by
    unfold winNorm
    dsimp only
    rw [hw, if_pos h]
  unfold storeAt
  dsimp only
  rw [if_pos hl, hlen, hwin, if_pos h]

/-- A store of eight bytes to the scratchpad, and the NOP behind it: the bytes are there. -/
theorem store_lands {p : Syl} {w : Nat} {bs : List Byte} (hs : q.stop = true) (hp : p = ⟨q.core, false, true⟩)
    (hl : isLighterCore q.core = true) (hb : atBundle s q.core 2 = true) (hok : shortOk f false = true)
    (hm : f.mode = 0) (hbs : leBytes 8 (rdX s q.core f.rt.toNat).toNat = bs)
    (hw : (tableAddr s q.core f 8).toNat % 2 ^ 20 / 8 * 8 = w) (hlt : w < 0x80000) :
    ∃ t, memSyl q f (.store 8) s = .next t ∧ ∃ u, exec (.nop p 0) t = .next u ∧
      u.ik.spad = memWrite s.ik.spad (q.core * 2 ^ 20 + w) bs := by
  subst hp
  have hrep := rep_of_atBundle hb
  have hstore : accessEff s q.core (.store 8) f.rt.toNat (tableAddr s q.core f 8) = [.wr 2 (.mem w bs)] := by
    simp only [accessEff, coreAddr, hbs, storeAt_spad hl (hbs ▸ leBytes_length _ _) hw hlt, List.map_cons, List.map_nil]
  have hbase : baseEff s q.core f 8 2 = [] := by simp [baseEff, hm]
  have hreach : reachable q.core (tableAddr s q.core f 8) 8 = true := by simp [reachable, hl]
  have heq : memSyl q f (.store 8) s = syl s q (unitOf 0 q) 0 true .plain [.wr 2 (.mem w bs)] := by
    simp only [memSyl, memOk_eq, memVec, hok, memSize, memLat, memAddr_single hrep, accessFault_of_reachable hreach,
      hstore, hbase, Bool.and_false, Bool.false_eq_true, if_false, List.append_nil]
  rw [heq]
  obtain ⟨t, ht, hmay, ho, hpend⟩ := storeFlying (w := .mem w bs) hs hl hb (unitOf_lt (base := 0) (by omega))
  obtain ⟨u, hu, hst, hpu⟩ := nop_goesOn (p := ⟨q.core, false, true⟩) rfl hmay
  have hland := goTo_landed t u q.core _ 1 (nextPc t q.core 1) [(2, .mem w bs)] (hpu.trans hpend) le_rfl hst.cyc
    hst.phase hst.curBank hst.others
  refine ⟨t, ht, _, hu, hland.spad.trans ?_⟩
  simp only [afterWrites, List.foldl_cons, List.foldl_nil, applyWr, hl, if_true, ho.2.1]

/-- Settles O7, by the writes of `storeAt`: each store issues them, and those of a lighter core land behind the next
bundle. -/
theorem storesSendTheirBytes : Obligations.StoresSendTheirBytes := by
  unfold Obligations.StoresSendTheirBytes
  refine ⟨fun s q f e hs => ⟨fun hb hok => ⟨store_short hs hb hok, store_short hs hb hok, store_short hs hb hok,
      store_short hs hb hok⟩, fun hb hok => storeV_short hs hb hok, fun hb hok => ⟨store_long hs hb hok,
      store_long hs hb hok, store_long hs hb hok, store_long hs hb hok⟩, fun hb hok => storeV_long hs hb hok,
      fun hb hm hc hr hal => ?atomic, fun hb hf => ?fence⟩, fun s q p f hs hp hl hb hok hm => ?lands⟩
  case atomic =>
    exact ⟨atomSyl_issued hs hb hm hc hr hal rfl false, atomSyl_issued hs hb hm hc hr hal rfl true⟩
  case fence =>
    subst hf
    exact syl_idle hs hb (unitOf_lt (by omega)) (by omega) (.inl rfl)
  case lands =>
    intro a ha
    obtain ⟨t, ht, u, hu, hspad⟩ := store_lands hs hp hl hb hok hm rfl rfl ha
    have hlen : (leBytes 8 (rdX s q.core f.rt.toNat).toNat).length = 8 := leBytes_length _ _
    refine ⟨t, ht, u, hu, ?_, fun j hj => ?_⟩
    · rw [hspad]
      have := memRead_write s.ik.spad (q.core * 2 ^ 20 + a) (leBytes 8 (rdX s q.core f.rt.toNat).toNat)
      rwa [hlen] at this
    · rw [hspad]
      exact memWrite_other _ _ _ _ (by rwa [hlen])

end Access
end Sys2Proof.Machine
end

section
/-!
SUPPORT. The X unit (Table 8.5): queued syllables (R255, R256, R259, R272) and the stream windows (R217, R261).
-/
namespace Sys2Proof.Machine

section Rows
variable {s : State} {q : Syl} {f : XopF} (hs : q.stop = true) (hb : atBundle s q.core 1 = true)
include hs hb

/-! ### Queued syllables -/

/-- A queued syllable joins the X queue where it has room. -/
theorem syl_queued (hroom : (getCore s q.core).xq.length < 64) (r : XReq) :
    ∃ t, syl s q 7 0 true .plain [.queue r] = .next t ∧ Queued s t q.core r := by
  obtain ⟨t, x, h, hq, ⟨b, rfl⟩, hxq, -⟩ := syl_coreEffect (e := .queue r) (unit := 7) (exts := 0)
    (fun x => { x with xq := x.xq ++ [⟨x.pc, coreThread s q.core, r⟩] }) hs hb (by omega) (by omega) (.inl rfl) rfl rfl
    (fun u b hi => by
      have hroom : (getCore u q.core).xq.length < 64 := by rw [hi.core]; exact hroom
      simp only [doEff, putQueue, if_pos hroom, hi.coreThread])
    (fun _ => rfl) (fun _ hx => by simp [hx])
  exact ⟨t, h, hq, hxq⟩

/-- A record the core may read, with a result word R256 allows, makes a request. -/
theorem xRec_queued (hroom : (getCore s q.core).xq.length < 64) {len : Nat} {effs : List Eff} {r : XReq}
    (hb0 : f.rb = 0) (hs0 : f.sub = 0) (hin : reachable q.core (rdX s q.core f.ra.toNat) len = true)
    (heffs : effs = [.queue r]) : ∃ t, xRec q f len (noRb f) .plain effs s = .next t ∧ Queued s t q.core r := by
  have hok : noRb f = true := by simp [noRb, hb0, hs0]
  simp only [xRec, accessFault_of_reachable hin, hok, Bool.and_false, Bool.false_eq_true, if_false, heffs, xSyl]
  exact syl_queued hs hb hroom r

omit hs hb in
theorem queueRec_ok {n : Nat} (h : resultOk s (coreThread s q.core) n = true) (r : XReq) :
    queueRec s q n r = [.queue r] := if_pos h

theorem execPost_queued (hroom : (getCore s q.core).xq.length < 64) (hs0 : f.sub = 0)
    (h1 : 0 < (rdX s q.core f.rb.toNat).toNat) (h2 : (rdX s q.core f.rb.toNat).toNat ≤ 65535) :
    ∃ t, execPost q f s = .next t ∧ Queued s t q.core
      (.post ((rdX s q.core f.ra.toNat).toNat % 2 ^ 24) (rdX s q.core f.rb.toNat).toNat) := by
  have hin : ¬ ((rdX s q.core f.rb.toNat).toNat = 0 ∨ 65535 < (rdX s q.core f.rb.toNat).toNat) := by omega
  simp only [execPost, xSyl, hs0, beq_self_eq_true, if_neg hin]
  exact syl_queued hs hb hroom _

theorem execTimerCancel_queued (hroom : (getCore s q.core).xq.length < 64) (ha : f.ra = 0) (hs1 : f.sub = 1) :
    ∃ t, execTimerCancel q f s = .next t ∧ Queued s t q.core
      (.timerCancel ((rdX s q.core f.rb.toNat).toNat % 2 ^ 32)) := by
  simp only [execTimerCancel, xSyl, ha, hs1, beq_self_eq_true, Bool.and_self]
  exact syl_queued hs hb hroom _

theorem execPclr_queued (hroom : (getCore s q.core).xq.length < 64) (ha : f.ra = 0) (hb0 : f.rb = 0)
    (hs0 : f.sub = 0) : ∃ t, execPclr q f s = .next t ∧ Queued s t q.core .pclr := by
  simp only [execPclr, xSyl, none3, noRb, ha, hb0, hs0, beq_self_eq_true, Bool.and_self]
  exact syl_queued hs hb hroom _

/-- RDFEAT gives its feature register two cycles on. -/
theorem execRdfeat_gives (hb0 : f.rb = 0) (h8 : f.sub.toNat < 8) : ∃ t, execRdfeat q f s = .next t ∧
    OneWrite s t q.core 2 1 (.x f.ra.toNat (feature s q.core f.sub.toNat)) := by
  simp only [execRdfeat, xSyl, hb0, h8, beq_self_eq_true, decide_true, Bool.and_self]
  exact syl_oneWrite s q 7 0 2 _ hs hb (by omega) (by omega) (by simp)

/-- SOPEN is a syllable of lighter cores, whose record lies in their window. -/
theorem execSopen_queued (hroom : (getCore s q.core).xq.length < 64) (hl : isLighterCore q.core = true)
    (hb0 : f.rb = 0) (hs0 : f.sub = 0)
    (hr : resultOk s (coreThread s q.core) (recNat (recordAt s q.core f.ra.toNat 32) 24 8) = true) :
    ∃ t, execSopen q f s = .next t ∧ Queued s t q.core (.sopen (recordAt s q.core f.ra.toNat 32)) := by
  simp only [execSopen, xSyl, hl, noRb, hb0, hs0, beq_self_eq_true, Bool.and_self, queueRec_ok hr]
  exact syl_queued hs hb hroom _

/-! ### Stream windows -/

/-- An effect that puts `m` in window `w` of its core. -/
theorem syl_streamSet {e : Eff} {w : Nat} {m : Stream} (hl : callLat [e] = none) (hp : effRep [e] = none)
    (hdo : ∀ u b, Issuing s u q.core b → doEff u q.core e = setStream u q.core w m) :
    ∃ t, syl s q 7 0 true .plain [e] = .next t ∧ Quiet s t q.core 1 ∧ getStream t q.core w = m := by
  obtain ⟨t, x, h, hq, -, -, hst, -⟩ := syl_coreEffect (e := e) (unit := 7) (exts := 0)
    (fun x => { x with streams := tabSet Stream.closed x.streams w m }) hs hb (by omega) (by omega) (.inl rfl) hl hp
    hdo (fun _ => rfl) (fun _ hx => by simp [hx])
  exact ⟨t, h, hq, by rw [getStream, hst, tabGet_set_same]⟩

/-- A half handed back or committed: its READY bit falls. -/
def advancedHalf (m : Stream) : Bool → Stream
  | false => if m.outbound then { m with ready0 := false, committed := m.committed ++ [false] }
    else { m with ready0 := false, taken := m.taken + 4096 }
  | true => if m.outbound then { m with ready1 := false, committed := m.committed ++ [true] }
    else { m with ready1 := false, taken := m.taken + 4096 }

omit hs hb in
theorem advanceStream_ready {u : State} {c w : Nat} {half : Bool} (ho : (getStream u c w).isOpen = true)
    (hr : (if half then (getStream u c w).ready1 else (getStream u c w).ready0) = true) :
    advanceStream u c w half = setStream u c w (advancedHalf (getStream u c w) half) := by
  unfold advanceStream
  dsimp only
  rw [if_pos ⟨ho, hr⟩]
  cases half <;> rfl

theorem execSadv_advances {half : Bool} (hl : isLighterCore q.core = true) (ha : f.ra = 0) (hb0 : f.rb = 0)
    (hlt : f.sub.toNat < 32) (hhalf : f.sub.getLsbD 4 = half)
    (ho : (getStream s q.core (f.sub.toNat % 16)).isOpen = true)
    (hr : (if half then (getStream s q.core (f.sub.toNat % 16)).ready1
      else (getStream s q.core (f.sub.toNat % 16)).ready0) = true) :
    ∃ t, execSadv q f s = .next t ∧ Quiet s t q.core 1 ∧
      getStream t q.core (f.sub.toNat % 16) = advancedHalf (getStream s q.core (f.sub.toNat % 16)) half := by
  simp only [execSadv, xSyl, hl, ha, hb0, hlt, hhalf, beq_self_eq_true, decide_true, Bool.and_self]
  refine syl_streamSet hs hb rfl rfl fun u b hi => ?_
  rw [← hi.getStream] at ho hr ⊢
  exact advanceStream_ready ho hr

omit hs hb in
theorem closeStream_unreported {u : State} {c w : Nat} (ho : (getStream u c w).isOpen = true)
    (hr : (getStream u c w).reported = false) : closeStream u c w = setStream u c w
      { getStream u c w with isOpen := false, draining := true, ready0 := false, ready1 := false } := by
  unfold closeStream
  dsimp only
  rw [if_neg (by simp [hr]), if_pos ho]

theorem execSclose_closes (hl : isLighterCore q.core = true) (ha : f.ra = 0) (hb0 : f.rb = 0)
    (hlt : f.sub.toNat < 16) (ho : (getStream s q.core f.sub.toNat).isOpen = true)
    (hr : (getStream s q.core f.sub.toNat).reported = false) :
    ∃ t, execSclose q f s = .next t ∧ Quiet s t q.core 1 ∧ getStream t q.core f.sub.toNat =
      { getStream s q.core f.sub.toNat with isOpen := false, draining := true, ready0 := false, ready1 := false } := by
  simp only [execSclose, xSyl, hl, ha, hb0, hlt, beq_self_eq_true, decide_true, Bool.and_self]
  refine syl_streamSet hs hb rfl rfl fun u b hi => ?_
  rw [← hi.getStream] at ho hr ⊢
  exact closeStream_unreported ho hr

omit hs hb in
/-- Bit 4 of SUB names the half. -/
theorem half_of_sub (r : BitVec 8) (h : r.toNat < 32) : r.getLsbD 4 = decide (16 ≤ r.toNat) := by
  rw [BitVec.getLsbD, Nat.testBit_eq_decide_div_mod_eq, decide_eq_decide]
  omega

end Rows

/-- Settles O12: a queued syllable adds its request to the X queue, and a stream syllable puts its window's new state;
neither touches a register or memory. -/
theorem queuedSyllablesAndStreams : Obligations.QueuedSyllablesAndStreams := by
  unfold Obligations.QueuedSyllablesAndStreams
  refine ⟨fun s q f hs hb => ⟨fun hroom => ⟨fun h0 h1 h2 => execPost_queued hs hb hroom h0 h1 h2,
      fun hb0 hs0 => ⟨fun h => ?spawn, fun h => xRec_queued hs hb hroom hb0 hs0 h rfl,
        fun hl h => execSopen_queued hs hb hroom hl hb0 hs0 h.2, fun h => ?scan, fun h => ?timer⟩,
      execTimerCancel_queued hs hb hroom, execPclr_queued hs hb hroom⟩, execRdfeat_gives hs hb⟩,
    fun s q f hs hb hl ha hb0 => ⟨fun hlt ho => ⟨fun h hr => ?half0, fun h hr => ?half1⟩,
      fun hlt ho hr => ?close⟩⟩
  case spawn => exact xRec_queued hs hb hroom hb0 hs0 h.1 (queueRec_ok h.2 _)
  case scan => exact xRec_queued hs hb hroom hb0 hs0 h.1 (queueRec_ok h.2 _)
  case timer => exact xRec_queued hs hb hroom hb0 hs0 h.1 (queueRec_ok h.2 _)
  case half0 =>
    have hhalf : f.sub.getLsbD 4 = false := by rw [half_of_sub _ hlt, decide_eq_false (by omega)]
    exact execSadv_advances hs hb hl ha hb0 hlt hhalf ho hr
  case half1 =>
    have hhalf : f.sub.getLsbD 4 = true := by rw [half_of_sub _ hlt, decide_eq_true h]
    exact execSadv_advances hs hb hl ha hb0 hlt hhalf ho hr
  case close =>
    have hmod : f.sub.toNat % 16 = f.sub.toNat := Nat.mod_eq_of_lt hlt
    simp only [hmod] at ho hr ⊢
    exact execSclose_closes hs hb hl ha hb0 hlt ho hr

end Sys2Proof.Machine
end

section
/-!
SUPPORT. The B unit (Table 8.4): branches with their two delay bundles (R248), calls and returns (R226, R227, R250 to
R252).
-/
namespace Sys2Proof.Machine

/-! ### Branches -/

section Branches
variable {s : State} {q : Syl} {f : BitF} (hs : q.stop = true)
include hs

/-- A branch has issued: its target waits for two delay bundles. -/
theorem syl_branched {exts target : Nat} {taken : Bool} (hb : atBundle s q.core (1 + exts) = true) (he : exts ≤ 3) :
    ∃ t, syl s q 6 exts true .bOther [.branch target taken] = .next t ∧
      Branched s t q.core (1 + exts) (if taken then some target else none) := by
  obtain ⟨t, x, h, hq, -, -, -, hd, ht⟩ := syl_coreEffect (e := .branch target taken) (unit := 6)
    (fun x => { x with delay := 3, target := if taken then some target else none }) hs hb (by omega) he (.inr rfl)
    rfl rfl (fun _ _ _ => rfl) (fun _ => rfl) (fun _ _ => by simp)
  exact ⟨t, h, hq, hd, ht⟩

theorem brBit_branched (hb : atBundle s q.core 1 = true) (v : Bool) :
    ∃ t, brBit q f v s = .next t ∧ Branched s t q.core 1
      (if rdBit s q.core f.bn.toNat = v then some (bTarget s q (f.off8.signExtend 64)) else none) := by
  simpa only [brBit, beq_iff_eq] using syl_branched (exts := 0) (target := bTarget s q (f.off8.signExtend 64))
    (taken := rdBit s q.core f.bn.toNat == v) hs hb (by omega)

theorem brBitLong_branched {e : BitVec 31} (hb : atBundle s q.core 2 = true) (h0 : f.off8 = 0) (v : Bool) :
    ∃ t, brBitLong q f e v s = .next t ∧ Branched s t q.core 2
      (if rdBit s q.core f.bn.toNat = v then some (bTarget s q (e.signExtend 64)) else none) := by
  simpa only [brBitLong, h0, beq_self_eq_true, beq_iff_eq] using syl_branched (exts := 1)
    (target := bTarget s q (e.signExtend 64)) (taken := rdBit s q.core f.bn.toNat == v) hs hb (by omega)

end Branches

/-! ### Going to the target of a call or return -/

/-- A core that a call or return has given its target goes there, past the latency of all it has in flight. -/
theorem advance_call {v : State} {c lat tgt : Nat} {effs : List Eff} (words : Nat) (hl : callLat effs = some lat)
    (ht : (getCore v c).target = some tgt) : advance v c effs words =
      goTo (modCore v c (fun x => { x with target := none })) c (pcTo (getCore v c).pc tgt) lat := by
  simp only [advance, hl, ht]

/-- Writes whose latency is that of the call: all are there when the core goes on. -/
theorem goTo_lands {s v : State} {c lat : Nat} {ws : List Wr} (pc : W64) (h : Stands s v c)
    (hp : (getCore v c).pend = dueAt c (getCore s c).cyc (ws.map (fun w => (lat, w)))) (hlat : 1 ≤ lat) :
    LandedAt s (goTo v c pc lat) c pc lat (ws.map (fun w => (lat, w))) := by
  refine goTo_landed s v c ((getCore s c).cyc + (if isLighterCore c then lat else 1)) lat pc _ (hp.trans ?_) ?_ h.cyc
    h.phase h.curBank h.others
  · simp only [dueAt, List.map_map]
    rfl
  · split <;> omega

/-! ### Calls -/

section Reads
variable {s u : State} {c : Nat} {b : Bundle} (h : Issuing s u c b)
include h

theorem frameBytes_issuing (ret : W64) (im vm : Nat) : frameBytes u c ret im vm = frameBytes s c ret im vm := by
  unfold frameBytes
  simp only [h.rdX, h.rdV, h.rdRc]

theorem storeAt_issuing (a : Nat) (bs : List Byte) : storeAt u c a bs = storeAt s c a bs := by
  unfold storeAt
  simp only [h.getStream]

theorem storeChunks_issuing (a : Nat) (bs : List Byte) : storeChunks u c a bs = storeChunks s c a bs := by
  unfold storeChunks
  simp only [storeAt_issuing h]

end Reads

/-- What a call of a bundle of two words writes: sp, lk and its frame (R226). -/
def callWrites (s : State) (c im vm : Nat) : List Wr :=
  Wr.x 63 (callSp s c (frameSize im vm)) :: Wr.x 62 (nextPc s c 2) ::
    storeChunks s c (callSp s c (frameSize im vm)).toNat (frameBytes s c (nextPc s c 2) im vm)

/-- The latency of a call or return with a frame of `n` bytes. -/
def frameLat (n : Nat) : Nat := 3 + ceilDiv n 128

theorem one_le_frameLat (n : Nat) : 1 ≤ frameLat n := by
  unfold frameLat
  omega

/-- The core has been given the target it goes to, with no delay bundle. -/
def aimed (u : State) (c target : Nat) : State := modCore u c (fun x => { x with target := some target, delay := 0 })

theorem getCore_aimed (u : State) (c target : Nat) :
    getCore (aimed u c target) c = { getCore u c with target := some target, delay := 0 } := getCore_setCore _ _ _

theorem callEff_spec {s u : State} {c : Nat} {b : Bundle} (hi : Issuing s u c b) (hw : b.words = 2)
    (hr : (getCore s c).rep = none) (hp : (getCore s c).pend = []) (target im vm : Nat) :
    Stands s (callEff u c target im vm) c ∧ (getCore (callEff u c target im vm) c).target = some target ∧
      (getCore (callEff u c target im vm) c).pend =
        dueAt c (getCore s c).cyc ((callWrites s c im vm).map (fun w => (frameLat (frameSize im vm), w))) := by
  have hst : Stands s (aimed u c target) c := hi.stands.setCore rfl
  have hret : pcTo (getCore u c).pc ((getCore u c).pc.toNat + 4 * (getCore u c).bun.words) = nextPc s c 2 := by
    rw [hi.core, hw]
    rfl
  have hsp : callSp u c (frameSize im vm) = callSp s c (frameSize im vm) := by unfold callSp; rw [hi.rdX]
  have heq : callEff u c target im vm = (((callWrites s c im vm).map (fun w => (frameLat (frameSize im vm), w))).map
      (fun e => Eff.wr e.1 e.2)).foldl (fun s e => doEff s c e) (aimed u c target) := by
    simp only [callEff, hret, hsp, frameBytes_issuing hi, storeChunks_issuing hi, List.foldl_map, callWrites]
    rfl
  obtain ⟨hv, hpend, -, htarget⟩ := hst.wrs hr ((callWrites s c im vm).map (fun w => (frameLat (frameSize im vm), w)))
  rw [getCore_aimed] at hpend htarget
  rw [heq]
  refine ⟨hv, htarget, hpend.trans ?_⟩
  rw [hi.core, hp, List.nil_append]

section Calls
variable {s : State} {q : Syl} (hs : q.stop = true)
include hs

/-- A call goes to its target, with its frame, sp and lk written. -/
theorem callSyl_lands {e : BitVec 31} {target im vm : Nat} (hb : atBundle s q.core 2 = true) (he : e.toNat < 2 ^ 24)
    (him : e.toNat % 2 ^ 16 = im) (hvm : e.toNat / 2 ^ 16 % 2 ^ 8 = vm)
    (hr : reachable q.core (callSp s q.core (frameSize im vm)) (frameSize im vm) = true) :
    ∃ t, callSyl q true target e s = .next t ∧ LandedAt s t q.core (pcTo (getCore s q.core).pc target)
      (frameLat (frameSize im vm)) ((callWrites s q.core im vm).map (fun w => (frameLat (frameSize im vm), w))) := by
  have him : bitsOf e.toNat 0 15 = im := by rw [← him]; simp [bitsOf]
  have hvm : bitsOf e.toNat 16 23 = vm := hvm
  have hrsv : bitsOf e.toNat 24 30 = 0 := by simp only [bitsOf]; omega
  simp only [callSyl, him, hvm, hrsv, frameFault, accessFault_of_reachable hr, beq_self_eq_true, Bool.and_self,
    Bool.and_false, Bool.false_eq_true, if_false]
  obtain ⟨u, b, hw, hi, h⟩ := syl_issues (unit := 6) (exts := 1) [.call target im vm] hs hb (by omega) (by omega)
    (.inr rfl)
  obtain ⟨hv, ht, hp⟩ := callEff_spec hi hw (rep_of_atBundle hb) (pend_of_atBundle hb) target im vm
  refine ⟨_, h, ?_⟩
  rw [List.foldl_cons, List.foldl_nil, doEff, advance_call (lat := frameLat (frameSize im vm)) _ rfl ht, hv.pc]
  exact goTo_lands _ (hv.setCore rfl) ((congrArg Core.pend (getCore_setCore _ _ _)).trans hp) (one_le_frameLat _)

/-- A return with the writes `ws` goes to its address past its latency. -/
theorem syl_ret_lands {ret : W64} {n : Nat} {regs vregs : List Nat} (ws : List Wr) (hb : atBundle s q.core 1 = true) :
    ∃ t, syl s q 6 0 true .bOther (.ret ret n regs vregs :: ws.map (fun w => .wr (frameLat n) w)) = .next t ∧
      LandedAt s t q.core (pcTo (getCore s q.core).pc (ret.toNat % 2 ^ 32)) (frameLat n)
        (ws.map (fun w => (frameLat n, w))) := by
  have hmap : ws.map (fun w => Eff.wr (frameLat n) w) =
      (ws.map (fun w => (frameLat n, w))).map (fun e => Eff.wr e.1 e.2) := by
    rw [List.map_map]
    rfl
  obtain ⟨u, b, -, hi, h⟩ := syl_issues (unit := 6) (exts := 0)
    (.ret ret n regs vregs :: ws.map (fun w => .wr (frameLat n) w)) hs hb (by omega) (by omega) (.inr rfl)
  have hst : Stands s (doEff u q.core (.ret ret n regs vregs)) q.core := hi.stands.setCore rfl
  have hcore : (getCore (doEff u q.core (.ret ret n regs vregs)) q.core).target = some (ret.toNat % 2 ^ 32) ∧
      (getCore (doEff u q.core (.ret ret n regs vregs)) q.core).pend = [] := by
    rw [doEff, modCore, getCore_setCore, hi.core]
    exact ⟨rfl, pend_of_atBundle hb⟩
  obtain ⟨hv, hp, -, ht⟩ := hst.wrs (rep_of_atBundle hb) (ws.map (fun w => (frameLat n, w)))
  rw [hcore.2, List.nil_append] at hp
  refine ⟨_, h, ?_⟩
  rw [hmap, List.foldl_cons, advance_call (lat := frameLat n) _ rfl (ht.trans hcore.1), hv.pc]
  exact goTo_lands _ (hv.setCore rfl) ((congrArg Core.pend (getCore_setCore _ _ _)).trans hp) (one_le_frameLat _)

/-- A return goes to the return address of its frame, with what the frame saved restored. -/
theorem execRet_lands (hb : atBundle s q.core 1 = true)
    (hr : reachable q.core (rdX s q.core 63) (retSize s q.core) = true) :
    ∃ t, execRet q 0 s = .next t ∧ LandedAt s t q.core (pcTo (getCore s q.core).pc (frameNat s q.core 0 8))
      (frameLat (retSize s q.core)) ((retWrites s q.core).map (fun w => (frameLat (retSize s q.core), w))) := by
  have htarget : pcTo (getCore s q.core).pc ((BitVec.ofNat 64 (frameNat s q.core 0 8)).toNat % 2 ^ 32) =
      pcTo (getCore s q.core).pc (frameNat s q.core 0 8) := by
    have hlow : (BitVec.ofNat 64 (frameNat s q.core 0 8)).toNat % 2 ^ 32 % 2 ^ 32 = frameNat s q.core 0 8 % 2 ^ 32 := by
      rw [BitVec.toNat_ofNat]
      omega
    unfold pcTo
    rw [hlow]
  simp only [execRet, frameFault, accessFault_of_reachable hr, beq_self_eq_true, Bool.and_false, Bool.false_eq_true,
    if_false, ← htarget]
  exact syl_ret_lands hs _ hb

end Calls

/-- Settles O10: a branch leaves its target waiting, a call or return goes to its target with all it writes landed. -/
theorem branchesCallsAndReturns : Obligations.BranchesCallsAndReturns := by
  unfold Obligations.BranchesCallsAndReturns
  refine ⟨fun s q o f r e hs => ⟨fun hb => ⟨?nop, ?br, fun hd hb0 hfn => ?brr, brBit_branched hs hb true,
      brBit_branched hs hb false⟩, fun hb h0 => ⟨brBitLong_branched hs hb h0 true, brBitLong_branched hs hb h0 false⟩⟩,
    fun s q o r e hs => ⟨fun hb he hr => ?calls, fun hb hr => execRet_lands hs hb hr⟩⟩
  case nop => exact syl_idle hs hb (by omega) (by omega) (.inl rfl)
  case br => exact syl_branched (exts := 0) (taken := true) hs hb (by omega)
  case brr =>
    have hbranch := syl_branched (exts := 0) (target := (rdX s q.core r.ra.toNat).toNat % 2 ^ 32) (taken := true) hs hb
      (by omega)
    show ∃ t, execBrr q r s = _ ∧ _
    simp only [execBrr, hd, hb0, hfn]
    exact hbranch
  case calls =>
    have hcall (target : Nat) := callSyl_lands (target := target) hs hb he rfl rfl hr
    simp only [callWrites, List.map_cons] at hcall
    refine ⟨hcall _, fun hd hb0 hfn => ?_⟩
    show ∃ t, execCallr q r e s = _ ∧ _
    simp only [execCallr, hd, hb0, hfn]
    exact hcall _

end Sys2Proof.Machine
end

section
/-!
SUPPORT. Program images (R220, R228 to R231, R277) and subsystem local memory (R517, R518): each admin and I/O row by
the branch its premises take.
-/
namespace Sys2Proof.Machine

/-! ### Images -/

section Images
variable {s : State} {a : Adm} {ix : Nat} {b : List Byte}

/-- With no partner a change of state is complete at once. -/
theorem mirrorState_single (hp : s.pair.state = 0) (kind nsid : Nat) (body : List Byte) (a : Adm) :
    mirrorState s kind nsid body (.adm a 0) = adminOk s a := by
  simp [mirrorState, hp, finishState]
  rfl

/-- The images but for the owner's at an index. -/
def otherImages (s : State) (own ix : Nat) : List Image :=
  s.prog.images.filter (fun i => !(i.owner == own && i.index == ix))

theorem loadProgram_badIndex (h : 255 < ix) (ptype : Nat) :
    loadProgram s a ptype ix b = adminFail s a .invalidField := if_pos h

section Index
variable (hix : ix ≤ 255)
include hix

theorem loadProgram_badType {ptype : Nat} (h : ptype ≠ 0xF0) :
    loadProgram s a ptype ix b = adminFail s a .invalidProgramType := by
  unfold loadProgram
  dsimp only
  rw [if_neg (by omega), if_pos h]

theorem loadProgram_badHeader (h : headerOk b = false) :
    loadProgram s a 0xF0 ix b = adminFail s a .invalidProgramData := by
  unfold loadProgram
  dsimp only
  rw [if_neg (by omega), if_neg (by simp), if_pos (by simp [h])]

/-- A sound image of a free index goes to the admission check where it fits. -/
theorem loadProgram_fits {base h : Nat} (hb : headerOk b = true) (hnew : imageBy s (progOwner a.fn) ix = none)
    (hfit : firstFit (otherImages s (progOwner a.fn) ix) (recNat b 8 4) = some base)
    (hh : freeImageHandle s (otherImages s (progOwner a.fn) ix) = some h) :
    loadProgram s a 0xF0 ix b = match admission ((b.drop 64).take (recNat b 8 4)) (recNat b 12 4) with
      | some w => adminDone s a .invalidProgramData w .none
      | none =>
        mirrorState (placeImage s (otherImages s (progOwner a.fn) ix) (imageOf b h (progOwner a.fn) ix base)) 4 0
          (imageState h (progOwner a.fn) ix 0 b) (.adm a 0) := by
  unfold otherImages at hfit hh
  unfold loadProgram
  dsimp only
  rw [if_neg (by omega), if_neg (by simp), if_neg (by simp [hb]), if_neg (by simp [hnew]), hfit, hh]
  rfl

theorem loadProgram_admitted {base h : Nat} (hp : s.pair.state = 0) (hb : headerOk b = true)
    (hnew : imageBy s (progOwner a.fn) ix = none)
    (hfit : firstFit (otherImages s (progOwner a.fn) ix) (recNat b 8 4) = some base)
    (hh : freeImageHandle s (otherImages s (progOwner a.fn) ix) = some h)
    (hadm : admission ((b.drop 64).take (recNat b 8 4)) (recNat b 12 4) = none) : loadProgram s a 0xF0 ix b =
      adminOk (placeImage s (otherImages s (progOwner a.fn) ix) (imageOf b h (progOwner a.fn) ix base)) a := by
  rw [loadProgram_fits hix hb hnew hfit hh, hadm]
  exact mirrorState_single (by exact hp) _ _ _ _

theorem loadProgram_refused {base h w : Nat} (hb : headerOk b = true) (hnew : imageBy s (progOwner a.fn) ix = none)
    (hfit : firstFit (otherImages s (progOwner a.fn) ix) (recNat b 8 4) = some base)
    (hh : freeImageHandle s (otherImages s (progOwner a.fn) ix) = some h)
    (hadm : admission ((b.drop 64).take (recNat b 8 4)) (recNat b 12 4) = some w) :
    loadProgram s a 0xF0 ix b = adminDone s a .invalidProgramData w .none := by
  rw [loadProgram_fits hix hb hnew hfit hh, hadm]

theorem unloadProgram_idle {i : Image} (hp : s.pair.state = 0) (hi : imageBy s (progOwner a.fn) ix = some i)
    (hbusy : imageBusy s i = false) : unloadProgram s a ix =
      adminOk { s with prog := { s.prog with images := otherImages s (progOwner a.fn) ix } } a := by
  unfold unloadProgram
  dsimp only
  rw [hi]
  dsimp only
  rw [if_neg (by omega), if_neg (by simp [hbusy])]
  exact mirrorState_single (by exact hp) _ _ _ _

theorem unloadProgram_busy {i : Image} (hi : imageBy s (progOwner a.fn) ix = some i) (hbusy : imageBusy s i = true) :
    unloadProgram s a ix = adminFail s a .commandSequenceError := by
  unfold unloadProgram
  dsimp only
  rw [hi]
  dsimp only
  rw [if_neg (by omega), if_pos hbusy]

theorem setActive_found {i : Image} (hi : imageBy s (progOwner a.fn) ix = some i) (on : Bool) :
    setActive s a ix on = adminOk { s with prog := { s.prog with images := s.prog.images.map (fun i =>
      if i.owner = progOwner a.fn ∧ i.index = ix then { i with active := on } else i) } } a := by
  unfold setActive
  dsimp only
  rw [if_neg (by omega), if_neg (by simp [hi])]

theorem setActive_missing (hi : imageBy s (progOwner a.fn) ix = none) (on : Bool) :
    setActive s a ix on = adminFail s a .noProgram := by
  unfold setActive
  dsimp only
  rw [if_neg (by omega), if_pos (by simp [hi])]

end Index

theorem unloadProgram_missing (hi : imageBy s (progOwner a.fn) ix = none) :
    unloadProgram s a ix = adminFail s a .invalidField := by
  unfold unloadProgram
  dsimp only
  rw [hi]

end Images

/-! ### Memory range sets -/

section Ranges
variable {s : State} {a : Adm} {r : Nat} {l : List (Nat × Nat)}

theorem rangeSet_created (h : rangeRefusal s a.fn l = none) : rangeSet s a true r l =
    adminDone { s with prog := { s.prog with
      ranges := s.prog.ranges ++ [⟨a.fn, s.prog.nextRsid, l⟩], nextRsid := s.prog.nextRsid + 1 } } a .success
      s.prog.nextRsid .none := by
  unfold rangeSet
  rw [if_pos rfl, h]

/-- A set without ranges, or with one that is empty or outside the lease, is none. -/
theorem rangeRefusal_outside (h : l = [] ∨ ∃ x ∈ l, x.2 = 0 ∨ slmOf s a.fn < x.1 + x.2) :
    rangeRefusal s a.fn l = some .invalidMemoryRangeSet := by
  refine if_pos (h.imp (fun h => by simp [h]) fun ⟨x, hx, hbad⟩ => List.any_eq_true.mpr ⟨x, hx, ?_⟩)
  simpa using hbad

theorem rangeSet_refused {st : Status} (h : rangeRefusal s a.fn l = some st) :
    rangeSet s a true r l = adminFail s a st := by
  unfold rangeSet
  rw [if_pos rfl, h]

theorem hasRangeSet_none {fn : Nat} (h : ∀ x ∈ s.prog.ranges, ¬ (x.fn = fn ∧ x.rsid = r)) :
    hasRangeSet s fn r = false := by
  unfold hasRangeSet
  simpa using h

theorem rangeSet_missing (h : hasRangeSet s a.fn r = false) :
    rangeSet s a false r l = adminFail s a .invalidRangeSetId := by
  simp [rangeSet, h]

theorem rangeSet_inUse (h : hasRangeSet s a.fn r = true) (hu : rangeInUse s a.fn r = true) :
    rangeSet s a false r l = adminFail s a .rangeSetInUse := by
  simp [rangeSet, h, hu]

theorem rangeSet_deleted (h : hasRangeSet s a.fn r = true) (hu : rangeInUse s a.fn r = false) :
    rangeSet s a false r l = adminOk { s with prog := { s.prog with
      ranges := s.prog.ranges.filter (fun x => !(x.fn == a.fn && x.rsid == r)) } } a := by
  simp [rangeSet, h, hu]

end Ranges

/-! ### Subsystem local memory -/

section Slm
variable {s : State} {d : Nat} {p : List Byte}

theorem memoryRead_notMemory (h : notMemory s (getDk s d).sqe = true) : memoryRead s d = ioFail s d .invalidOpcode :=
  if_pos h

theorem memoryWrite_notMemory (h : notMemory s (getDk s d).sqe = true) :
    memoryWrite s d p = ioFail s d .invalidOpcode := if_pos h

section Memory
variable (hm : notMemory s (getDk s d).sqe = false)
include hm

theorem memoryRead_inside (h : (getDk s d).sqe.slba + (getDk s d).sqe.nlb ≤ slmOf s (getDk s d).fn) :
    memoryRead s d = ioDone s d .success 0 0 (.bytes (memRead s.prog.slm
      (slmAt s (tenantOf (getDk s d).fn) + (getDk s d).sqe.slba) (getDk s d).sqe.nlb)) := by
  unfold memoryRead
  dsimp only
  rw [if_neg (by simp [hm]), if_neg (by omega)]
  rfl

theorem memoryRead_outside (h : slmOf s (getDk s d).fn < (getDk s d).sqe.slba + (getDk s d).sqe.nlb) :
    memoryRead s d = ioFail s d (.vendor 0x82) := by
  unfold memoryRead
  dsimp only
  rw [if_neg (by simp [hm]), if_pos h]

theorem memoryWrite_inside (h : (getDk s d).sqe.slba + (getDk s d).sqe.nlb ≤ slmOf s (getDk s d).fn)
    (hl : p.length = (getDk s d).sqe.nlb) : memoryWrite s d p = ioOk { s with prog := { s.prog with
      slm := memWrite s.prog.slm (slmAt s (tenantOf (getDk s d).fn) + (getDk s d).sqe.slba) p } } d := by
  unfold memoryWrite
  dsimp only
  rw [if_neg (by simp [hm]), if_neg (by omega), if_neg (by omega)]
  rfl

theorem memoryWrite_badLength (h : (getDk s d).sqe.slba + (getDk s d).sqe.nlb ≤ slmOf s (getDk s d).fn)
    (hl : p.length ≠ (getDk s d).sqe.nlb) : memoryWrite s d p = ioFail s d .dataTransferError := by
  unfold memoryWrite
  dsimp only
  rw [if_neg (by simp [hm]), if_neg (by omega), if_pos hl]

end Memory

/-! ### Execute Program -/

theorem executeProgram_physical (h : (getDk s d).fn = 0) : executeProgram s d p = ioFail (begun s d) d (.vendor 0x82) :=
  if_pos (.inl h)

section Execute
variable {i : Image} (hfn : (getDk s d).fn ≠ 0) (hlease : dget s (0x6000 + tenantOf (getDk s d).fn) 2 ≠ 0)
  (hix : execIndex (getDk s d).sqe ≤ 255) (hlen : p.length ≤ 4096)
  (hi : imageBy s (tenantOf (getDk s d).fn) (execIndex (getDk s d).sqe) = some i)
include hfn hlease hix hlen hi

theorem executeProgram_inactive (ha : i.active = false) :
    executeProgram s d p = ioFail (begun s d) d .programNotActivated := by
  have hi : imageBy (begun s d) (tenantOf (getDk s d).fn) (execIndex (getDk s d).sqe) = some i := hi
  have hlease : dget (begun s d) (0x6000 + tenantOf (getDk s d).fn) 2 ≠ 0 := hlease
  have hix : ¬ 255 < execIndex (getDk s d).sqe := by omega
  have hlen : ¬ 4096 < p.length := by omega
  simp only [begun] at hi hlease ⊢
  simp only [executeProgram, hfn, hlease, hix, hlen, hi, ha, or_self, if_false, Bool.not_false, if_true]

theorem executeProgram_runs {t : Nat} (ha : i.active = true)
    (hr : execRange (getDk s d).sqe = 0 ∨ hasRangeSet s (getDk s d).fn (execRange (getDk s d).sqe) = true)
    (hf : i.reqfeat &&& featHigh s = i.reqfeat)
    (hroom : (threadsOf s (tenantOf (getDk s d).fn)).length < dget s (0x6000 + tenantOf (getDk s d).fn) 0x20)
    (ht : freeThread s false = some t) : executeProgram s d p = createThread (begun s d) t (tenantOf (getDk s d).fn)
      i.prio i.cmask i.wbase i.wsize (BitVec.ofNat 64 (i.handle * 2 ^ 32 + i.entry)) none (some d)
      ⟨i.data ++ p, BitVec.ofNat 64 (i.wbase * 4096 + 3072 + i.data.length), BitVec.ofNat 64 p.length⟩ := by
  have hi : imageBy (begun s d) (tenantOf (getDk s d).fn) (execIndex (getDk s d).sqe) = some i := hi
  have hlease : dget (begun s d) (0x6000 + tenantOf (getDk s d).fn) 2 ≠ 0 := hlease
  have hix : ¬ 255 < execIndex (getDk s d).sqe := by omega
  have hlen : ¬ 4096 < p.length := by omega
  have hr : ¬ (execRange (getDk s d).sqe ≠ 0 ∧
      (!hasRangeSet (begun s d) (getDk s d).fn (execRange (getDk s d).sqe)) = true) := by
    rintro ⟨h0, hnone⟩
    rcases hr with hr | hr
    · exact h0 hr
    · rw [show hasRangeSet (begun s d) _ _ = _ from hr] at hnone
      cases hnone
  have hf : ¬ (i.reqfeat &&& featHigh (begun s d) ≠ i.reqfeat) := fun h => h hf
  have hroom : ¬ dget (begun s d) (0x6000 + tenantOf (getDk s d).fn) 0x20 ≤
      (threadsOf (begun s d) (tenantOf (getDk s d).fn)).length := Nat.not_le.mpr hroom
  have ht : freeThread (begun s d) false = some t := ht
  simp only [begun] at hi hlease hr hf hroom ht ⊢
  simp only [executeProgram, hfn, hlease, hix, hlen, hi, ha, hr, hf, hroom, ht, or_self, if_false, Bool.not_true,
    Bool.false_eq_true]

end Execute
end Slm

/-- Settles O30: each row has the effect of its function, which takes the branch of the premises. -/
theorem programsAndSubsystemMemory : Obligations.ProgramsAndSubsystemMemory := by
  unfold Obligations.ProgramsAndSubsystemMemory
  refine ⟨fun s a ix base h b i ho hr hp => ?images,
    fun s a r d l p i t => ⟨?ranges, ?notMemory, ?read, ?write, ?execute⟩⟩
  case images =>
    have hadmin (t : State) : admin s a t = .next t := admin_open ho hr t
    refine ⟨fun hix hb hnew hfit hh => ⟨fun hadm => ?_, fun w hadm => ?_⟩, fun hix hb => ?_, fun hix => ?_,
      fun hi hix => ⟨fun hbusy => ?_, fun hbusy => ?_, ?_, ?_⟩, fun hi hix => ⟨?_, ?_⟩, fun hix ptype hne => ?_⟩ <;>
      refine (hadmin _).trans (congrArg Host.Outcome.next ?_)
    · exact loadProgram_admitted hix hp hb hnew hfit hh hadm
    · exact loadProgram_refused hix hb hnew hfit hh hadm
    · exact loadProgram_badHeader hix hb
    · exact loadProgram_badIndex hix _
    · exact unloadProgram_idle hix hp hi hbusy
    · exact unloadProgram_busy hix hi hbusy
    · exact setActive_found hix hi true
    · exact setActive_found hix hi false
    · exact setActive_missing hix hi true
    · exact unloadProgram_missing hi
    · exact loadProgram_badType hix hne
  case ranges =>
    intro ho hr
    have hadmin (t : State) : admin s a t = .next t := admin_open ho hr t
    refine ⟨fun h => ?_, fun h => ?_, fun h => ?_, fun h hu => ?_, fun h hu => ?_⟩ <;>
      refine (hadmin _).trans (congrArg Host.Outcome.next ?_)
    · exact rangeSet_created h
    · exact rangeSet_refused (rangeRefusal_outside h)
    · exact rangeSet_missing (hasRangeSet_none h)
    · exact rangeSet_inUse h hu
    · exact rangeSet_deleted h hu
  case notMemory =>
    exact fun hm => ⟨fun hs => (io_started hs _).trans (congrArg _ (memoryRead_notMemory hm)),
      fun hs => (io_started hs _).trans (congrArg _ (memoryWrite_notMemory hm))⟩
  case read =>
    exact fun hs hm => ⟨fun h => (io_started hs _).trans (congrArg _ (memoryRead_inside hm h)),
      fun h => (io_started hs _).trans (congrArg _ (memoryRead_outside hm h))⟩
  case write =>
    exact fun hs hm h => ⟨fun hl => (io_started hs _).trans (congrArg _ (memoryWrite_inside hm h hl)),
      fun hl => (io_started hs _).trans (congrArg _ (memoryWrite_badLength hm h hl))⟩
  case execute =>
    exact fun hs => ⟨fun h => (io_started hs _).trans (congrArg _ (executeProgram_physical h)),
      fun hfn hlease hix hlen hi =>
        ⟨fun ha => (io_started hs _).trans (congrArg _ (executeProgram_inactive hfn hlease hix hlen hi ha)),
          fun ha hr hf hroom ht =>
            (io_started hs _).trans (congrArg _ (executeProgram_runs hfn hlease hix hlen hi ha hr hf hroom ht))⟩⟩

end Sys2Proof.Machine
end

section
/-!
SUPPORT. Integer operations on words (Table 8.2, R241, R242): what each operation on numbers of a width is as an operation
on words of that width.
-/
namespace Sys2Proof.Machine

/-! ### Numbers of a width -/

theorem eq_zero_of_toNat {w : Nat} {r : BitVec w} (h : r.toNat = 0) : r = 0 := BitVec.eq_of_toNat_eq h

theorem laneInt_toNat {w : Nat} (a : BitVec w) : laneInt w a.toNat = a.toInt := by
  unfold laneInt
  rw [Nat.mod_eq_of_lt a.isLt, BitVec.toInt_eq_toNat_cond]
  cases w with
  | zero => simp
  | succ n =>
    have hhalf : a.toNat < 2 ^ n ↔ 2 * a.toNat < 2 ^ (n + 1) := by omega
    rw [Nat.add_sub_cancel]
    simp only [hhalf, Nat.cast_pow, Nat.cast_ofNat]

theorem laneInt_eq (w v : Nat) : laneInt w v = (BitVec.ofNat w v).toInt := by
  rw [← laneInt_toNat, BitVec.toNat_ofNat]
  simp only [laneInt, Nat.mod_mod]

theorem ofNat_intLane (w : Nat) (i : Int) : BitVec.ofNat w (intLane w i) = BitVec.ofInt w i := by
  have h : intLane w i = (BitVec.ofInt w i).toNat := by simp [intLane]
  rw [h, BitVec.ofNat_toNat, BitVec.setWidth_eq]

/-- The high half of a product of twice the width. -/
theorem high_half (w : Nat) (i : Int) :
    ((BitVec.ofInt (2 * w) i) >>> w).setWidth w = BitVec.ofInt w (i / 2 ^ w) := by
  have hsplit : i % 2 ^ (2 * w) = i + 2 ^ w * (2 ^ w * -(i / 2 ^ (2 * w))) := by
    rw [Int.emod_def, ← mul_assoc, ← pow_add, ← two_mul]
    ring
  have hpos : (2 : Int) ^ w ≠ 0 := by positivity
  apply BitVec.eq_of_toNat_eq
  zify
  simp only [BitVec.toNat_setWidth, BitVec.toNat_ushiftRight, BitVec.toNat_ofInt, Nat.shiftRight_eq_div_pow]
  push_cast
  rw [Int.toNat_of_nonneg (Int.emod_nonneg _ (by positivity)), Int.toNat_of_nonneg (Int.emod_nonneg _ hpos), hsplit,
    Int.add_mul_ediv_left _ _ hpos, Int.add_mul_emod_self_left]

/-! ### Operations on words -/

/-- An operation on two words of width `w`. -/
def aluBits (op : AluOp) {w : Nat} (a b : BitVec w) : BitVec w := BitVec.ofNat w (aluNat op w a.toNat b.toNat)

theorem alu_full (op : AluOp) (a b : W64) : alu op 0 a b = aluBits op a b := rfl

/-- R241: the 32-bit form works on the low halves and sign-extends. -/
theorem alu_half (op : AluOp) (a b : W64) :
    alu op 1 a b = (aluBits op (a.setWidth 32) (b.setWidth 32)).signExtend 64 := by
  simp [alu, aluBits]

section Bits
variable {w : Nat} (a b : BitVec w)

/-- An operation that answers the number of a word answers the word. -/
theorem aluBits_eq {op : AluOp} {a b r : BitVec w} (h : aluNat op w a.toNat b.toNat = r.toNat) :
    aluBits op a b = r := by
  rw [aluBits, h, BitVec.ofNat_toNat, BitVec.setWidth_eq]

theorem aluBits_add : aluBits .add a b = a + b := aluBits_eq (BitVec.toNat_add a b).symm

theorem aluBits_sub : aluBits .sub a b = a - b := by
  simp [aluBits, aluNat, ofNat_intLane, Int.sub_eq_add_neg, BitVec.ofInt_add, BitVec.ofInt_neg, BitVec.sub_eq_add_neg]

theorem aluBits_and : aluBits .and a b = a &&& b := aluBits_eq (BitVec.toNat_and a b).symm

theorem aluBits_or : aluBits .or a b = a ||| b := aluBits_eq (BitVec.toNat_or a b).symm

theorem aluBits_xor : aluBits .xor a b = a ^^^ b := aluBits_eq (BitVec.toNat_xor a b).symm

theorem aluBits_andn : aluBits .andn a b = a &&& ~~~b := aluBits_eq (by simp [aluNat])

theorem aluBits_shl : aluBits .shl a b = a <<< (b.toNat % w) := by
  refine aluBits_eq ?_
  rw [BitVec.toNat_shiftLeft, Nat.shiftLeft_eq]
  rfl

theorem aluBits_shr : aluBits .shr a b = a >>> (b.toNat % w) :=
  aluBits_eq (by simp [aluNat, Nat.shiftRight_eq_div_pow])

theorem aluBits_sar : aluBits .sar a b = a.sshiftRight (b.toNat % w) := by
  simp [aluBits, aluNat, ofNat_intLane, laneInt_toNat, BitVec.sshiftRight, Int.shiftRight_eq_div_pow]

/-- What leaves a word at the top stands below what stays in it. -/
theorem rotated_eq {k : Nat} (hk : k ≤ w) :
    a.toNat * 2 ^ k % 2 ^ w + a.toNat / 2 ^ (w - k) = a.toNat * 2 ^ k % 2 ^ w ||| a.toNat / 2 ^ (w - k) := by
  have hpow : 2 ^ w = 2 ^ (w - k) * 2 ^ k := by rw [← Nat.pow_add, Nat.sub_add_cancel hk]
  have hlow : a.toNat / 2 ^ (w - k) < 2 ^ k := Nat.div_lt_of_lt_mul (hpow ▸ a.isLt)
  rw [hpow, Nat.mul_mod_mul_right, Nat.mul_comm _ (2 ^ k), Nat.two_pow_add_eq_or_of_lt hlow]

theorem aluBits_rol : aluBits .rol a b = a.rotateLeft b.toNat := by
  rcases Nat.eq_zero_or_pos w with rfl | hw
  · exact Subsingleton.elim _ _
  refine aluBits_eq ?_
  rw [BitVec.toNat_rotateLeft, Nat.shiftLeft_eq, Nat.shiftRight_eq_div_pow]
  exact rotated_eq a (Nat.mod_lt _ hw).le

theorem aluBits_min : aluBits .min a b = if a.slt b then a else b := by
  simp only [aluBits, aluNat, laneInt_toNat, BitVec.slt_iff_toInt_lt]
  split <;> simp

theorem aluBits_max : aluBits .max a b = if a.slt b then b else a := by
  simp only [aluBits, aluNat, laneInt_toNat, BitVec.slt_iff_toInt_lt]
  split <;> simp

theorem aluBits_minu : aluBits .minu a b = if a.ult b then a else b := by
  simp only [aluBits, aluNat, BitVec.ult_iff_toNat_lt]
  split <;> simp

theorem aluBits_maxu : aluBits .maxu a b = if a.ult b then b else a := by
  simp only [aluBits, aluNat, BitVec.ult_iff_toNat_lt]
  split <;> simp

theorem aluBits_mul : aluBits .mul a b = a * b := aluBits_eq (BitVec.toNat_mul a b).symm

theorem aluBits_mulh :
    aluBits .mulh a b = ((a.signExtend (2 * w) * b.signExtend (2 * w)) >>> w).setWidth w := by
  rw [BitVec.signExtend, BitVec.signExtend, ← BitVec.ofInt_mul, high_half]
  simp [aluBits, aluNat, ofNat_intLane, laneInt_toNat]

theorem aluBits_mulhu : aluBits .mulhu a b = ((a.setWidth (2 * w) * b.setWidth (2 * w)) >>> w).setWidth w := by
  have h (x : BitVec w) : x.setWidth (2 * w) = BitVec.ofInt (2 * w) x.toNat := by
    rw [BitVec.ofInt_natCast, BitVec.ofNat_toNat]
  rw [h, h, ← BitVec.ofInt_mul, high_half]
  norm_cast

theorem aluBits_div_zero : aluBits .div a 0 = -1 := by
  have h : aluNat .div w a.toNat (0 : BitVec w).toNat = (BitVec.allOnes w).toNat := by simp [aluNat]
  exact (aluBits_eq h).trans BitVec.neg_one_eq_allOnes.symm

theorem aluBits_divu_zero : aluBits .divu a 0 = -1 := aluBits_div_zero a

theorem aluBits_rem_zero : aluBits .rem a 0 = a := by simp [aluBits, aluNat]

theorem aluBits_remu_zero : aluBits .remu a 0 = a := by simp [aluBits, aluNat]

section NonZero
variable {a b} (h : b ≠ 0)
include h

theorem aluBits_div : aluBits .div a b = a.sdiv b := by
  apply BitVec.eq_of_toInt_eq
  rw [aluBits, aluNat, if_neg (mt eq_zero_of_toNat h), ofNat_intLane, BitVec.toInt_ofInt, BitVec.toInt_sdiv, laneInt_toNat,
    laneInt_toNat]

theorem aluBits_rem : aluBits .rem a b = a.srem b := by
  rw [aluBits, aluNat, if_neg (mt eq_zero_of_toNat h), ofNat_intLane, laneInt_toNat, laneInt_toNat, ← BitVec.toInt_srem,
    BitVec.ofInt_toInt]

theorem aluBits_divu : aluBits .divu a b = a / b :=
  aluBits_eq ((if_neg (mt eq_zero_of_toNat h)).trans BitVec.toNat_udiv.symm)

theorem aluBits_remu : aluBits .remu a b = a % b :=
  aluBits_eq ((if_neg (mt eq_zero_of_toNat h)).trans BitVec.toNat_umod.symm)

end NonZero
end Bits
end Sys2Proof.Machine
end

section
/-!
SUPPORT. Syllables of the I and V units (Tables 8.2, 8.3): a bundle of one such syllable makes the one write of its row.
-/
namespace Sys2Proof.Machine

section Writes
variable {s : State} {q : Syl} (hs : q.stop = true)
include hs

/-- A syllable of a unit, with no field reserved, whose one effect is a write to a register or bit. -/
theorem syl_unitWrite {base exts lat : Nat} {ok : Bool} {w : Wr} (hb : atBundle s q.core (1 + exts) = true)
    (hu : base < 7) (he : exts ≤ 3) (hok : ok = true) (hm : ∀ a bs, w ≠ .mem a bs) :
    ∃ t, syl s q (unitOf base q) exts ok .plain [.wr lat w] = .next t ∧ OneWrite s t q.core lat (1 + exts) w := by
  subst hok
  exact syl_oneWrite s q _ exts lat w hs hb (unitOf_lt hu) he hm

/-- A TRI syllable with no field reserved. -/
theorem triSyl_writes {f : TriF} (op : AluOp) (hb : atBundle s q.core 1 = true)
    (hfn : f.fn.toNat ≤ if aluWideOnly op then 0 else 1) (hrb : aluUnary op = true → f.rb = 0) :
    ∃ t, triSyl q f op s = .next t ∧ OneWrite s t q.core (aluLat op) 1
      (.x f.rd.toNat (alu op f.fn.toNat (rdX s q.core f.ra.toNat) (rdX s q.core f.rb.toNat))) := by
  have hok : (decide (f.fn.toNat ≤ if aluWideOnly op then 0 else 1) && (!aluUnary op || f.rb == 0)) = true := by
    cases h : aluUnary op <;> simp_all
  exact syl_unitWrite (exts := 0) hs hb (by omega) (by omega) hok (by simp)

/-- An IMM syllable gives `g` of its register and its immediate. -/
theorem immSyl_writes {f : ImmF} {ok : Bool} (g : W64 → BitVec 8 → W64) (hb : atBundle s q.core 1 = true)
    (hok : ok = true) : ∃ t, immSyl q f ok g s = .next t ∧
      OneWrite s t q.core 1 1 (.x f.rd.toNat (g (rdX s q.core f.ra.toNat) f.imm8)) :=
  syl_unitWrite (exts := 0) hs hb (by omega) (by omega) hok (by simp)

/-- An immediate shift is the shift by its amount. -/
theorem shiftSyl_writes {f : ImmF} {op : AluOp} {sh : W64 → Nat → W64}
    (hop : ∀ a b : W64, aluBits op a b = sh a (b.toNat % 64)) (hb : atBundle s q.core 1 = true)
    (hk : f.imm8.toNat < 64) : ∃ t, shiftSyl q f op s = .next t ∧
      OneWrite s t q.core 1 1 (.x f.rd.toNat (sh (rdX s q.core f.ra.toNat) f.imm8.toNat)) := by
  have hamount : (BitVec.ofNat 64 (f.imm8.toNat % 64)).toNat % 64 = f.imm8.toNat := by
    rw [BitVec.toNat_ofNat]
    omega
  have hvalue (a : W64) : alu op 0 a (BitVec.ofNat 64 (f.imm8.toNat % 64)) = sh a f.imm8.toNat := by
    rw [alu_full, hop, hamount]
  rw [← hvalue]
  exact immSyl_writes hs (fun a i => alu op 0 a (BitVec.ofNat 64 (i.toNat % 64))) hb (decide_eq_true hk)

theorem cmpShort_private {f : CmpF} (hb : atBundle s q.core 1 = true) (op : CmpOp) :
    ∃ t, cmpShort q f op s = .next t ∧ OneWrite s t q.core 1 1
      (.bit f.bd8.toNat (cmpHolds op (rdX s q.core f.ra.toNat) (rdX s q.core f.rb.toNat))) := by
  have hk : f.bd8.toNat < 256 := f.bd8.isLt
  rw [cmpShort, cmpSyl, bitEff_private (by omega)]
  exact syl_unitWrite (exts := 0) hs hb (by omega) (by omega) (decide_eq_true (by omega)) (by simp)

theorem cmpLong_private {f : CmpF} {e : BitVec 31} (hb : atBundle s q.core 2 = true) (h0 : f.bd8 = 0)
    (he : e.toNat < 1024) (op : CmpOp) : ∃ t, cmpLong q f e op s = .next t ∧ OneWrite s t q.core 1 2
      (.bit e.toNat (cmpHolds op (rdX s q.core f.ra.toNat) (rdX s q.core f.rb.toNat))) := by
  rw [cmpLong_eq h0 (by omega), bitEff_private he]
  exact syl_unitWrite (exts := 1) hs hb (by omega) (by omega) rfl (by simp)

end Writes

/-- A 32-bit form whose operation on the low halves gives `r`. -/
theorem alu_half_of {op : AluOp} {a b : W64} {r : W32} (h : aluBits op (a.setWidth 32) (b.setWidth 32) = r) :
    alu op 1 a b = r.signExtend 64 := (alu_half op a b).trans (congrArg _ h)

/-- Shift and rotate amounts of 32-bit forms are those of the whole register. -/
theorem low_amount (b : W64) : (b.setWidth 32 : W32).toNat % 32 = b.toNat % 32 := by
  rw [BitVec.toNat_setWidth]
  omega

/-- Settles O1: each syllable is the TRI syllable of its operation, whose value is that of `aluBits` at its width. -/
theorem triSyllablesWriteTheirResult : Obligations.TriSyllablesWriteTheirResult := by
  unfold Obligations.TriSyllablesWriteTheirResult
  refine ⟨fun s q f hs hb hfn => ?rows, fun a b => ?logic, fun a b => ?arith⟩
  case rows =>
    have hbinary (op : AluOp) (hw : aluWideOnly op = false) (hu : aluUnary op = false) :=
      triSyl_writes (f := f) hs op hb (by rw [hw]; exact hfn) (by simp [hu])
    have hwide (op : AluOp) (hu : aluUnary op = false) (h0 : f.fn = 0) :=
      triSyl_writes (f := f) hs op hb (by simp [h0]) (by simp [hu])
    have hunary (op : AluOp) (hw : aluWideOnly op = false) (h0 : f.rb = 0) :=
      triSyl_writes (f := f) hs op hb (by rw [hw]; exact hfn) (fun _ => h0)
    exact ⟨hbinary .add rfl rfl, hbinary .sub rfl rfl, hbinary .and rfl rfl, hbinary .or rfl rfl,
      hbinary .xor rfl rfl, hbinary .andn rfl rfl, hbinary .shl rfl rfl, hbinary .shr rfl rfl,
      hbinary .sar rfl rfl, hbinary .rol rfl rfl, hbinary .min rfl rfl, hbinary .max rfl rfl,
      hbinary .minu rfl rfl, hbinary .maxu rfl rfl, hbinary .mul rfl rfl,
      fun h0 => ⟨hwide .mulh rfl h0, hwide .mulhu rfl h0⟩, hbinary .div rfl rfl, hbinary .divu rfl rfl,
      hbinary .rem rfl rfl, hbinary .remu rfl rfl, fun h0 => ⟨hunary .clz rfl h0, hunary .ctz rfl h0,
        hunary .popc rfl h0, hunary .bswap rfl h0⟩⟩
  case logic =>
    have hshl := aluBits_shl (a.setWidth 32) (b.setWidth 32)
    have hshr := aluBits_shr (a.setWidth 32) (b.setWidth 32)
    have hsar := aluBits_sar (a.setWidth 32) (b.setWidth 32)
    have hrol := aluBits_rol (a.setWidth 32) (b.setWidth 32)
    rw [low_amount] at hshl hshr hsar
    rw [BitVec.rotateLeft_def, low_amount, ← BitVec.rotateLeft_def] at hrol
    exact ⟨aluBits_add a b, alu_half_of (aluBits_add _ _), aluBits_sub a b, alu_half_of (aluBits_sub _ _),
      aluBits_and a b, alu_half_of (aluBits_and _ _), aluBits_or a b, alu_half_of (aluBits_or _ _),
      aluBits_xor a b, alu_half_of (aluBits_xor _ _), aluBits_andn a b, alu_half_of (aluBits_andn _ _),
      aluBits_shl a b, alu_half_of hshl, aluBits_shr a b, alu_half_of hshr, aluBits_sar a b, alu_half_of hsar,
      aluBits_rol a b, alu_half_of hrol⟩
  case arith =>
    exact ⟨aluBits_min a b, aluBits_max a b, aluBits_minu a b, aluBits_maxu a b, aluBits_mul a b,
      alu_half_of (aluBits_mul _ _), aluBits_mulh a b, aluBits_mulhu a b,
      fun h => ⟨aluBits_div h, aluBits_rem h, aluBits_divu h, aluBits_remu h⟩,
      fun h => ⟨alu_half_of (aluBits_div h), alu_half_of (aluBits_rem h), alu_half_of (aluBits_divu h),
        alu_half_of (aluBits_remu h)⟩⟩

/-- Settles O2: the corners are those of `aluBits` at either width, and its syllables write them as any other result. -/
theorem divisionCornersComplete : Obligations.DivisionCornersComplete := by
  unfold Obligations.DivisionCornersComplete
  refine ⟨fun a b => ⟨aluBits_div_zero a, aluBits_divu_zero a, aluBits_rem_zero a, aluBits_remu_zero a,
    fun hb => ?zero⟩, ?quotient, ?remainder, fun a b ha hb => ?overflow, fun s q f hs hb hfn => ?completes⟩
  case zero =>
    have hminus : (-1 : W32).signExtend 64 = (-1 : W64) := by decide
    refine ⟨(alu_half_of ?_).trans hminus, (alu_half_of ?_).trans hminus, alu_half_of ?_, alu_half_of ?_⟩ <;> rw [hb]
    exacts [aluBits_div_zero _, aluBits_divu_zero _, aluBits_rem_zero _, aluBits_remu_zero _]
  case quotient => exact (aluBits_div (by decide)).trans BitVec.intMin_sdiv_neg_one
  case remainder => exact (aluBits_rem (by decide)).trans (by decide)
  case overflow =>
    refine ⟨alu_half_of ?_, (alu_half_of (r := 0) ?_).trans (by decide)⟩ <;> rw [ha, hb]
    · exact (aluBits_div (by decide)).trans BitVec.intMin_sdiv_neg_one
    · exact (aluBits_rem (by decide)).trans (by decide)
  case completes =>
    have hruns (op : AluOp) (hw : aluWideOnly op = false) (hu : aluUnary op = false) :
        ∃ t, triSyl q f op s = .next t ∧ (getCore t q.core).phase = (getCore s q.core).phase := by
      obtain ⟨t, ht, hwrite⟩ := triSyl_writes (f := f) hs op hb (by rw [hw]; exact hfn) (by simp [hu])
      exact ⟨t, ht, hwrite.phase⟩
    exact ⟨hruns .div rfl rfl, hruns .divu rfl rfl, hruns .rem rfl rfl, hruns .remu rfl rfl⟩

/-- The low 64 bits of the two extensions and IMM14 (Table 7.10). -/
theorem imm64_eq (i : BitVec 14) (e e2 : BitVec 31) :
    (e2.setWidth 19 ++ e ++ i).setWidth 64 = (e2 ++ e ++ i).setWidth 64 := by
  ext j hj
  simp only [BitVec.getElem_setWidth, BitVec.getLsbD_append, BitVec.getLsbD_setWidth]
  have hlow : j - 14 - 31 < 19 := by omega
  simp only [hlow, decide_true, Bool.true_and]

/-- Settles O3: each syllable makes its one write, and a compare of a private bit is one. -/
theorem immediateAndCompareSyllables : Obligations.ImmediateAndCompareSyllables := by
  unfold Obligations.ImmediateAndCompareSyllables
  refine ⟨fun s q f l e e2 hs => ⟨fun hb => ⟨immSyl_writes hs (fun a i => a + i.signExtend 64) hb rfl,
      immSyl_writes hs (fun a i => a &&& i.signExtend 64) hb rfl,
      immSyl_writes hs (fun a i => a ||| i.signExtend 64) hb rfl,
      immSyl_writes hs (fun a i => a ^^^ i.signExtend 64) hb rfl, fun hk => ?shifts,
      fun h0 hi => ?wrrc, fun h0 hi => ?rdrc, ?li, fun hk => ?getb⟩,
      fun hb => ⟨?liL, ?la⟩, fun hb he => ?liQ⟩,
    fun s q f e hs => ⟨fun hb => ?short, fun hb h0 he => ?long⟩⟩
  case shifts =>
    exact ⟨shiftSyl_writes (sh := fun a k => a <<< k) hs aluBits_shl hb hk,
      shiftSyl_writes (sh := fun a k => a >>> k) hs aluBits_shr hb hk,
      shiftSyl_writes (sh := BitVec.sshiftRight) hs aluBits_sar hb hk⟩
  case wrrc => exact syl_unitWrite (exts := 0) hs hb (by omega) (by omega) (by simp [h0, hi]) (by simp)
  case rdrc => exact syl_unitWrite (exts := 0) hs hb (by omega) (by omega) (by simp [h0, hi]) (by simp)
  case li => exact syl_unitWrite (exts := 0) hs hb (by omega) (by omega) rfl (by simp)
  case getb =>
    have hvalue : (if rdBit s q.core l.imm14.toNat then 1 else 0) =
        BitVec.ofNat 64 (b2n (rdBit s q.core (l.imm14.toNat % 4096))) := by
      rw [Nat.mod_eq_of_lt hk]
      cases rdBit s q.core l.imm14.toNat <;> rfl
    simp only [hvalue]
    exact syl_unitWrite (exts := 0) hs hb (by omega) (by omega) (decide_eq_true hk) (by simp)
  case liL => exact syl_unitWrite (exts := 1) hs hb (by omega) (by omega) rfl (by simp)
  case la => exact syl_unitWrite (exts := 1) hs hb (by omega) (by omega) rfl (by simp)
  case liQ =>
    simp only [← imm64_eq]
    exact syl_unitWrite (exts := 2) hs hb (by omega) (by omega) (decide_eq_true he) (by simp)
  case short =>
    have hcmp := cmpShort_private (f := f) hs hb
    exact ⟨hcmp .eq, hcmp .ne, hcmp .lt, hcmp .ltu, hcmp .le, hcmp .leu, hcmp .tst⟩
  case long =>
    have hcmp := cmpLong_private hs hb h0 he
    exact ⟨hcmp .eq, hcmp .ne, hcmp .lt, hcmp .ltu, hcmp .le, hcmp .leu, hcmp .tst⟩

end Sys2Proof.Machine
end

section
/-!
SUPPORT. Loads (Table 8.1): with no store in flight a load gives the bytes that stand at its address.
-/
namespace Sys2Proof.Machine

section Loads
variable {s : State} {q : Syl} {f : MemF}

/-- A signed load extends the sign of its bytes' number. -/
theorem extLoad_idle {c : Nat} (hp : (getCore s c).pend = []) (t : Nat) (a : W64) (n : Nat) (sg : Bool) :
    extLoad n sg (loadAt s c t a.toNat n) = loaded s c a n sg := by
  cases sg with
  | false => exact extLoad_unsigned hp t a n
  | true =>
    simp only [extLoad, loaded, loadAt_idle hp, if_true, laneInt_eq]
    rfl

/-- The write of a load of `n` bytes. -/
def loadWrite (s : State) (c rt n : Nat) (sg : Bool) (a : W64) : List (Nat × Wr) := [(4, .x rt (loaded s c a n sg))]

/-- The write of a vector load. -/
def loadWriteV (s : State) (c rt : Nat) (a : W64) : List (Nat × Wr) :=
  [(4, .v rt (BitVec.ofNat 512 (ofLe (coreBytes s c a 64))))]

theorem accessEff_load {c : Nat} (hp : (getCore s c).pend = []) (rt n : Nat) (sg : Bool) (a : W64) :
    accessEff s c (.load n sg) rt a = (loadWrite s c rt n sg a).map (fun e => .wr e.1 e.2) := by
  simp only [accessEff, coreAddr, extLoad_idle hp, loadWrite, List.map_cons, List.map_nil]

theorem accessEff_loadV {c : Nat} (hp : (getCore s c).pend = []) (rt : Nat) (a : W64) :
    accessEff s c .loadV rt a = (loadWriteV s c rt a).map (fun e => .wr e.1 e.2) := by
  simp only [accessEff, coreAddr, loadAt_idle hp, loadWriteV, List.map_cons, List.map_nil]

section Rows
variable (hs : q.stop = true)
include hs

theorem load_short {n : Nat} {sg : Bool} (hb : atBundle s q.core 1 = true) (hok : shortOk f false = true)
    (hr : reachable q.core (tableAddr s q.core f n) n = true) :
    ∃ t, memSyl q f (.load n sg) s = .next t ∧ Issued s t q.core 1
      ((4, .x f.rt.toNat (loaded s q.core (tableAddr s q.core f n) n sg)) :: tableBase s q.core f n 4) :=
  memSyl_issued (op := .load n sg) _ hs (accessEff_load (pend_of_atBundle hb) _ n sg) (by simp [loadWrite]) hb hok hr

theorem load_long {n : Nat} {sg : Bool} {e : BitVec 31} (hb : atBundle s q.core 2 = true)
    (hok : longOk f false = true) (hr : reachable q.core (rdX s q.core f.ra.toNat + e.signExtend 64) n = true) :
    ∃ t, memLong q f e (.load n sg) s = .next t ∧ Issued s t q.core 2
      (loadWrite s q.core f.rt.toNat n sg (rdX s q.core f.ra.toNat + e.signExtend 64)) :=
  memLong_issued (op := .load n sg) _ hs (accessEff_load (pend_of_atBundle hb) _ n sg) (by simp [loadWrite]) hb hok hr

theorem loadV_short (hb : atBundle s q.core 1 = true) (hok : shortOk f true = true)
    (hr : reachable q.core (tableAddr s q.core f 64) 64 = true) :
    ∃ t, memSyl q f .loadV s = .next t ∧ Issued s t q.core 1
      (loadWriteV s q.core f.rt.toNat (tableAddr s q.core f 64) ++ tableBase s q.core f 64 4) :=
  memSyl_issued (op := .loadV) _ hs (accessEff_loadV (pend_of_atBundle hb) _) (by simp [loadWriteV]) hb hok hr

theorem loadV_long {e : BitVec 31} (hb : atBundle s q.core 2 = true) (hok : longOk f true = true)
    (hr : reachable q.core (rdX s q.core f.ra.toNat + e.signExtend 64) 64 = true) :
    ∃ t, memLong q f e .loadV s = .next t ∧ Issued s t q.core 2
      (loadWriteV s q.core f.rt.toNat (rdX s q.core f.ra.toNat + e.signExtend 64)) :=
  memLong_issued (op := .loadV) _ hs (accessEff_loadV (pend_of_atBundle hb) _) (by simp [loadWriteV]) hb hok hr

end Rows
end Loads

/-- Settles O6: each load is the access of its size at the address of its form, which finds what stands there. -/
theorem loadsWriteWhatMemoryHolds : Obligations.LoadsWriteWhatMemoryHolds := by
  unfold Obligations.LoadsWriteWhatMemoryHolds
  exact fun s q f e hs =>
    ⟨fun hb hok => ⟨fun hr => ⟨load_short hs hb hok hr, load_short hs hb hok hr⟩,
      fun hr => ⟨load_short hs hb hok hr, load_short hs hb hok hr⟩,
      fun hr => ⟨load_short hs hb hok hr, load_short hs hb hok hr⟩, load_short hs hb hok⟩,
    loadV_short hs,
    fun hb hok => ⟨fun hr => ⟨load_long hs hb hok hr, load_long hs hb hok hr⟩,
      fun hr => ⟨load_long hs hb hok hr, load_long hs hb hok hr⟩,
      fun hr => ⟨load_long hs hb hok hr, load_long hs hb hok hr⟩, load_long hs hb hok⟩,
    loadV_long hs⟩

end Sys2Proof.Machine
end

section
/-!
SUPPORT. The V units (Table 8.3): the admitted ET and FN of each syllable, and its one write.
-/
namespace Sys2Proof.Machine

/-! ### Element types -/

theorem etInt_eq (et : Nat) : etInt et = decide (et < 4) := rfl

theorem etFloat_of_int {et : Nat} (h : et < 4) : etFloat et = false := by
  simp [etFloat, show ¬ 4 ≤ et by omega]

theorem etFloat_of_float {et : Nat} (h4 : 4 ≤ et) (h7 : et < 7) : etFloat et = true := by
  simp [etFloat, h4, show et ≤ 6 by omega]

/-- The latency of a row with one for integers and one for floating point. -/
theorem lat_of_type {et : Nat} (h : et < 7) (li lf : Nat) :
    (if etFloat et then lf else li) = if et < 4 then li else lf := by
  by_cases h4 : et < 4
  · simp [etFloat_of_int h4, h4]
  · simp [etFloat_of_float (by omega) h, h4]

/-- An integer type with FN up to `n`, or a floating-point type with FN 0. -/
theorem fnOk_of {f : VecF} {n : Nat} (h : (f.et.toNat < 4 ∧ f.fn.toNat ≤ n) ∨
    (4 ≤ f.et.toNat ∧ f.et.toNat < 7 ∧ f.fn.toNat = 0)) : fnOk f n = true ∧ f.et.toNat < 7 := by
  rcases h with ⟨h4, hn⟩ | ⟨h4, h7, h0⟩
  · simp only [fnOk, etInt, h4, hn, decide_true, Bool.and_self, Bool.true_or, true_and]
    omega
  · simp [fnOk, etFloat_of_float h4 h7, eq_zero_of_toNat h0, h7]

/-! ### One write each -/

section Writes
variable {s : State} {q : Syl} (hs : q.stop = true) (hb : atBundle s q.core 1 = true)
include hs hb

theorem vecSyl_writes {f : VecF} {ok : Bool} {li lf lat : Nat} {r : V512} (hok : ok = true)
    (hlat : (if etFloat f.et.toNat then lf else li) = lat) :
    ∃ t, vecSyl q f ok li lf r s = .next t ∧ OneWrite s t q.core lat 1 (.v f.vd.toNat r) := by
  subst hlat
  exact syl_unitWrite (exts := 0) hs hb (by omega) (by omega) hok (by simp)

theorem vscSyl_writes {f : VscF} {ok : Bool} {lat : Nat} {r : V512} (hok : ok = true) :
    ∃ t, vscSyl q f ok lat r s = .next t ∧ OneWrite s t q.core lat 1 (.v f.vd.toNat r) :=
  syl_unitWrite (exts := 0) hs hb (by omega) (by omega) hok (by simp)

theorem bitwiseSyl_writes {f : VecF} {r : V512} (het : f.et.toNat = 0) (hfn : f.fn.toNat = 0) :
    ∃ t, bitwiseSyl q f r s = .next t ∧ OneWrite s t q.core 2 1 (.v f.vd.toNat r) :=
  vecSyl_writes hs hb (by simp [eq_zero_of_toNat het, eq_zero_of_toNat hfn]) (ite_self 2)

end Writes

/-- Settles O8: each syllable makes the one write of its row, its fields being none that are reserved. -/
theorem vectorSyllablesWriteTheirResult : Obligations.VectorSyllablesWriteTheirResult := by
  unfold Obligations.VectorSyllablesWriteTheirResult
  refine ⟨fun s q f hs hb => ⟨fun h => ?addSubMul, fun h4 h7 hn => ?fma, fun h => ?minMax, fun h0 hn => ?bitwise,
      fun h4 hn => ?shl, fun h4 hn => ?shrPerm, fun h => ?cmp, fun h7 hvb hn hhalf => ?cvt, fun h7 hn hvb => ?red,
      fun h0 hn hvb => ?mov⟩,
    fun s q f hs hb => ⟨fun h7 hn hva => ?bcast, fun h7 => ?sld, fun h7 h hvd => ?get,
      fun h4 => ⟨?adds, ?muls, fun hn => ?shls, ?shrs⟩⟩⟩
  case addSubMul =>
    obtain ⟨hok, h7⟩ := fnOk_of h
    exact ⟨vecSyl_writes hs hb hok (lat_of_type h7 2 4), vecSyl_writes hs hb hok (lat_of_type h7 2 4),
      vecSyl_writes hs hb hok (ite_self 4)⟩
  case fma => exact vecSyl_writes hs hb (by simp [etFloat_of_float h4 h7, hn]) (ite_self 5)
  case minMax =>
    obtain ⟨hok, h7⟩ := fnOk_of h
    exact ⟨vecSyl_writes hs hb hok (lat_of_type h7 2 4), vecSyl_writes hs hb hok (lat_of_type h7 2 4)⟩
  case bitwise =>
    exact ⟨bitwiseSyl_writes hs hb h0 hn, bitwiseSyl_writes hs hb h0 hn, bitwiseSyl_writes hs hb h0 hn,
      bitwiseSyl_writes hs hb h0 hn, bitwiseSyl_writes hs hb h0 hn⟩
  case shl => exact vecSyl_writes hs hb (by simp [etInt_eq, h4, eq_zero_of_toNat hn]) (ite_self 2)
  case shrPerm =>
    have hok : (etInt f.et.toNat && decide (f.fn.toNat ≤ 1)) = true := by simp [etInt_eq, h4, hn]
    exact ⟨vecSyl_writes hs hb hok (ite_self 2), vecSyl_writes hs hb hok (ite_self 3)⟩
  case cmp =>
    have h7 : f.et.toNat < 7 := by omega
    have hok : (etInt f.et.toNat || (etFloat f.et.toNat && decide (f.fn.toNat ≤ 2))) = true := by
      by_cases h4 : f.et.toNat < 4
      · simp [etInt_eq, h4]
      · simp [etFloat_of_float (Nat.le_of_not_lt h4) h7, (h.resolve_left h4).2]
    exact vecSyl_writes hs hb hok (lat_of_type h7 2 4)
  case cvt =>
    have hse : f.vb.toNat % 8 = f.vb.toNat := Nat.mod_eq_of_lt (by omega)
    have hsame : f.fn = 0 ∨ etWidth f.vb.toNat ≠ etWidth f.et.toNat := hhalf.imp_left eq_zero_of_toNat
    show ∃ t, execVcvt q f s = _ ∧ _
    simp only [execVcvt, hse]
    exact vecSyl_writes hs hb (by simpa [hvb, h7, hn, show f.vb.toNat < 8 by omega] using hsame) (ite_self 4)
  case red => exact vecSyl_writes hs hb (by simp [h7, hn, hvb]) (lat_of_type h7 6 8)
  case mov => exact vecSyl_writes hs hb (by simp [eq_zero_of_toNat h0, eq_zero_of_toNat hn, hvb]) (ite_self 1)
  case bcast => exact vscSyl_writes hs hb (by simp [h7, hn, hva])
  case sld => exact vscSyl_writes hs hb (decide_eq_true h7)
  case get =>
    have hsigned : f.fn.toNat = 0 ↔ f.fn = 0 := ⟨eq_zero_of_toNat, fun h => by simp [h]⟩
    have hok : f.et.toNat < 4 ∨ f.fn = 1 := h.imp_right BitVec.eq_of_toNat_eq
    simp only [hsigned]
    exact syl_unitWrite (exts := 0) hs hb (by omega) (by omega) (by simpa [h7, hvd, etInt_eq] using hok) (by simp)
  case adds => exact vscSyl_writes hs hb (decide_eq_true h4)
  case muls => exact vscSyl_writes hs hb (decide_eq_true h4)
  case shls => exact vscSyl_writes hs hb (by simp [etInt_eq, h4, hn])
  case shrs => exact vscSyl_writes hs hb (decide_eq_true h4)

end Sys2Proof.Machine
end

section
/-!
SUPPORT. Bundles of several syllables and of a block's first bundle (R222, R233, R257), repeats (R253), and the end of a
block (R258, R274).
-/
namespace Sys2Proof.Machine

/-! ### A bundle whose last syllable has come -/

/-- The bundle with one more syllable. -/
theorem gather_joins (s : State) (q : Syl) (unit exts : Nat) (ok : Bool) (k : SylKind) (effs : List Eff) :
    let a := (getCore s q.core).bun
    ∃ b : Bundle, gather s q unit exts ok k effs = setCore s q.core { getCore s q.core with bun := b } ∧
      b.words = a.words + 1 + exts ∧ b.last = some unit ∧ b.effs = a.effs ++ effs ∧
      b.illegal = (a.illegal || !ok || !(match a.last with | none => true | some l => decide (l < unit)) ||
        decide (16 < a.words + 1 + exts) || decide (8 ≤ unit)) ∧
      b.hasB = (a.hasB || k == .bOther) ∧ b.hasBlock = (a.hasBlock || k == .block) ∧
      b.hasEnd = (a.hasEnd || k == .finish) :=
  ⟨_, rfl, rfl, rfl, rfl, rfl, rfl, rfl, rfl⟩

theorem syl_commits {s : State} {q : Syl} {unit exts : Nat} {ok : Bool} {k : SylKind} {effs : List Eff}
    (hs : q.stop = true) (hrun : ∃ t, (getCore s q.core).phase = .running t) :
    syl s q unit exts ok k effs = .next (commit (gather s q unit exts ok k effs) q.core) := by
  obtain ⟨t, ht⟩ := hrun
  simp only [syl, ht, hs, if_true]

/-- Core `c` holds bundle `b`, which ends no block and is legal where it stands. -/
structure Legal (s : State) (c : Nat) (b : Bundle) : Prop where
  fields : b.illegal = false
  code : codeHolds s c b.words = true
  first : b.hasBlock = (getCore s c).first
  delay : (getCore s c).delay = 0
  rep : (getCore s c).rep = none
  goesOn : b.hasEnd = false
  asks : (getCore s c).first = true → (getCore s c).newThread = true → effNreq b.effs = 0

/-- A legal bundle takes effect (R222). -/
theorem Legal.commit {s : State} {c : Nat} {b : Bundle} (h : Legal s c b) : ∃ u, Issuing s u c b ∧
    commit (setCore s c { getCore s c with bun := b }) c =
      advance (b.effs.foldl (fun s e => doEff s c e) (dropRestored u c b.effs)) c b.effs b.words := by
  have hi := issuing_setCore s c { getCore s c with bun := b } b
  have hlast : modCore (setCore s c { getCore s c with bun := b }) c (fun x => { x with lastPc := x.pc }) =
      setCore (setCore s c { getCore s c with bun := b }) c
        { getCore s c with bun := b, lastPc := (getCore s c).pc } := by
    rw [modCore, getCore_setCore]
  generalize setCore (setCore s c _) c _ = u at hi hlast
  have hin : bundleInCode u c = true := by
    rw [bundleInCode, codeHolds_eq hi.onlyCore (by rw [hi.core]) (by rw [hi.core]), hi.core]
    exact h.code
  have hlegal : bundleLegal u c = true := by
    simp [bundleLegal, hin, hi.core, h.fields, h.first, h.delay, h.rep, h.goesOn]
  have hasks : ¬ ((getCore s c).first = true ∧ (getCore s c).newThread = true ∧ 0 < effNreq b.effs) :=
    fun ⟨hf, hn, hq⟩ => hq.ne' (h.asks hf hn)
  refine ⟨u, hi, ?_⟩
  unfold Machine.commit
  simp only [hlast, hlegal, getCore_setCore, hasks, h.goesOn, Bool.not_true, Bool.false_eq_true, if_false]

/-- The writes of a legal bundle, all of latency 1, are there as the next one issues. -/
theorem Legal.lands {s : State} {c : Nat} {b : Bundle} (h : Legal s c b) (hp : (getCore s c).pend = [])
    {ws : List (Nat × Wr)} (hws : b.effs = ws.map (fun e => .wr e.1 e.2)) (hl : ∀ e ∈ ws, e.1 = 1) :
    Landed s (Machine.commit (setCore s c { getCore s c with bun := b }) c) c b.words ws := by
  obtain ⟨u, hi, hcommit⟩ := h.commit
  rw [hcommit, hws]
  obtain ⟨hv, hpend, hd, -⟩ := (hi.dropRestored hp (ws.map (fun e => .wr e.1 e.2))).stands.wrs h.rep ws
  rw [(hi.dropRestored hp _).core] at hpend hd
  rw [advance_next _ (find_wr ws _ fun _ _ => rfl) (find_wr ws _ fun _ _ => rfl) (hv.rep.trans h.rep)
    ((hd.trans h.delay).trans_ne (by decide)), hv.pc]
  have hdue : dueAt c (getCore s c).cyc ws = ws.map (fun e => ⟨(getCore s c).cyc + 1, e.2⟩) :=
    List.map_congr_left fun e he => by simp [hl e he]
  refine goTo_landed s _ c _ 1 _ ws ?_ le_rfl hv.turned.cyc hv.turned.phase hv.turned.curBank hv.turned.others
  rw [getCore_turned, ← hdue]
  exact hpend.trans (by simp [hp])

/-- Writes to registers and bits, one after the other. -/
theorem curBank_afterWrites (s : State) (c : Nat) (ws : List (Nat × Wr)) (h : ∀ e ∈ ws, ∀ a bs, e.2 ≠ .mem a bs) :
    curBank (getCore (afterWrites s c ws) c) = ws.foldl (fun b e => bankWr b e.2) (curBank (getCore s c)) := by
  induction ws generalizing s with
  | nil => rfl
  | cons w ws ih =>
    have hw : curBank (getCore (applyWr s c w.2) c) = bankWr (curBank (getCore s c)) w.2 := by
      rw [applyWr_reg _ _ _ (h w List.mem_cons_self), getCore_setCore, curBank_setCur]
    rw [List.foldl_cons, ← hw]
    exact ih (applyWr s c w.2) fun e he => h e (List.mem_cons_of_mem _ he)

section AtBundle
variable {s : State} {c words : Nat} (h : atBundle s c words = true)
include h

theorem bun_of_atBundle : (getCore s c).bun = .empty := by simp [atBundle] at h; simp_all
theorem first_of_atBundle : (getCore s c).first = false := by simp [atBundle] at h; simp_all

end AtBundle

/-- Two syllables that write one register or bit each, the second behind the first in the order of units: both writes
are those of the state the bundle found. -/
theorem syl_two {s : State} {p q : Syl} {m n : Nat} {v w : Wr} (hc : p.core = q.core) (hp : p.stop = false)
    (hq : q.stop = true) (hb : atBundle s q.core 2 = true) (hmn : m < n) (hn : n < 8) :
    ∃ t, syl s p m 0 true .plain [.wr 1 v] = .next t ∧ curBank (getCore t q.core) = curBank (getCore s q.core) ∧
      ∃ u, syl t q n 0 true .plain [.wr 1 w] = .next u ∧ Landed t u q.core 2 [(1, v), (1, w)] ∧
        nextPc t q.core 2 = nextPc s q.core 2 ∧ (getCore t q.core).cyc = (getCore s q.core).cyc := by
  have hempty := bun_of_atBundle hb
  obtain ⟨th, hth⟩ := running_of_atBundle hb
  obtain ⟨b, hgather, hwords, hlast, heffs, hill, -, hblock, hend⟩ := gather_joins s p m 0 true .plain [.wr 1 v]
  rw [hc] at hgather hwords heffs hill hblock hend
  rw [hempty] at hwords heffs hill hblock hend
  have hfirst : syl s p m 0 true .plain [.wr 1 v] = .next (setCore s q.core { getCore s q.core with bun := b }) := by
    simp only [syl, hc, hth, hp, hgather, Bool.false_eq_true, if_false]
  refine ⟨_, hfirst, by rw [getCore_setCore]; rfl, ?_⟩
  have ho := onlyCore_setCore s q.core { getCore s q.core with bun := b }
  have hcore := getCore_setCore s q.core { getCore s q.core with bun := b }
  generalize setCore s q.core { getCore s q.core with bun := b } = t at ho hcore
  obtain ⟨d, hgather2, hwords2, -, heffs2, hill2, -, hblock2, hend2⟩ := gather_joins t q n 0 true .plain [.wr 1 w]
  rw [hcore] at hwords2 heffs2 hill2 hblock2 hend2
  have hwords3 : d.words = 2 := by rw [hwords2, hwords]; rfl
  have hlegal : Legal t q.core d := by
    refine ⟨?_, ?_, ?_, ?_, ?_, ?_, ?_⟩
    · have hm : m < 8 := by omega
      simp [hill2, hill, hwords, hlast, Bundle.empty, hmn, hm, hn]
    · rw [hwords3, codeHolds_eq ho (by rw [hcore]) (by rw [hcore])]
      exact codeHolds_of_atBundle hb
    · rw [hblock2, hblock, hcore, first_of_atBundle hb]
      rfl
    · rw [hcore]
      exact delay_of_atBundle hb
    · rw [hcore]
      exact rep_of_atBundle hb
    · rw [hend2, hend]
      rfl
    · rw [hcore, first_of_atBundle hb]
      exact fun hf => absurd hf (by decide)
  have hland := hlegal.lands (by rw [hcore]; exact pend_of_atBundle hb) (ws := [(1, v), (1, w)])
    (by rw [heffs2, heffs]; rfl) (by simp)
  rw [hwords3] at hland
  refine ⟨commit (setCore t q.core { getCore t q.core with bun := d }) q.core, ?_, hland, ?_, ?_⟩
  · rw [syl_commits hq ⟨th, by rw [hcore]; exact hth⟩, hgather2]
  · rw [nextPc, hcore]
    rfl
  · rw [hcore]

/-- A 64-bit TRI syllable of two operands. -/
theorem triSyl_full {s : State} {q : Syl} {f : TriF} {op : AluOp} (hf : f.fn = 0) (hu : aluUnary op = false) :
    triSyl q f op s = syl s q (unitOf 2 q) 0 true .plain
      [.wr (aluLat op) (.x f.rd.toNat (aluBits op (rdX s q.core f.ra.toNat) (rdX s q.core f.rb.toNat)))] := by
  simp [triSyl, hf, hu, alu_full]

/-- Settles O5: gathering the ADD leaves the bank the SUB reads as it was, and both writes land together. -/
theorem bundleReadsBeforeItsWrites : Obligations.BundleReadsBeforeItsWrites := by
  unfold Obligations.BundleReadsBeforeItsWrites
  intro s c f g _ hb hf hg
  obtain ⟨t, ht, hbank, u, hu, hland, hpc, hcyc⟩ := syl_two (p := ⟨c, false, false⟩) (q := ⟨c, true, true⟩) (m := 2)
    (n := 3) (v := .x f.rd.toNat (rdX s c f.ra.toNat + rdX s c f.rb.toNat))
    (w := .x g.rd.toNat (rdX s c g.ra.toNat - rdX s c g.rb.toNat)) rfl rfl rfl hb (by decide) (by decide)
  have hread (r : Nat) : rdX t c r = rdX s c r := congrArg (bankX · r) hbank
  refine ⟨t, ?_, u, ?_, ?_, hland.next.trans hpc, hland.cycle.trans (congrArg (· + 1) hcyc)⟩
  · refine (triSyl_full hf rfl).trans ?_
    rw [aluBits_add]
    exact ht
  · refine (triSyl_full hg rfl).trans ?_
    simp only [aluBits_sub, hread]
    exact hu
  · rw [hland.bank, curBank_afterWrites _ _ _ (by simp), hbank]
    rfl

/-! ### The first bundle of a block (R257) -/

theorem of_atBlockStart {s : State} {c : Nat} (h : atBlockStart s c = true) :
    (∃ t, (getCore s c).phase = .running t) ∧ (getCore s c).bun = .empty ∧ (getCore s c).first = true ∧
      (getCore s c).delay = 0 ∧ (getCore s c).rep = none ∧ (getCore s c).pend = [] ∧ codeHolds s c 1 = true := by
  unfold atBlockStart at h
  cases hp : (getCore s c).phase <;> simp_all

/-- A BLOCK goes on to the next bundle, which is no first one. -/
theorem execBlock_opens {s : State} {q : Syl} {f : XopF} (hs : q.stop = true) (hb : atBlockStart s q.core = true)
    (ha : f.ra = 0) (hb0 : f.rb = 0) (hn : f.sub.toNat ≤ 4)
    (hnew : (getCore s q.core).newThread = false ∨ f.sub.toNat = 0) :
    ∃ t, execBlock q f s = .next t ∧ Quiet s t q.core 1 ∧ (getCore t q.core).first = false := by
  obtain ⟨hrun, hempty, hfirst, hdelay, hrep, hpend, hcode⟩ := of_atBlockStart hb
  obtain ⟨b, hgather, hwords, -, heffs, hill, -, hblock, hend⟩ :=
    gather_joins s q 7 0 true .block [.block f.sub.toNat]
  rw [hempty] at hwords heffs hill hblock hend
  have hwords : b.words = 1 := hwords
  have heffs : b.effs = [.block f.sub.toNat] := heffs
  have hlegal : Legal s q.core b := by
    refine ⟨hill, hwords ▸ hcode, hblock.trans hfirst.symm, hdelay, hrep, hend, fun _ hthread => ?_⟩
    rw [heffs]
    exact hnew.resolve_left (by simp [hthread])
  obtain ⟨u, hi, hcommit⟩ := hlegal.commit
  have hst := hi.stands
  have hgo : commit (setCore s q.core { getCore s q.core with bun := b }) q.core =
      goTo (turned u q.core) q.core (nextPc s q.core 1) 1 := by
    rw [hcommit, heffs, hwords]
    show advance u q.core [.block f.sub.toNat] 1 = _
    rw [advance_next 1 rfl rfl (hst.rep.trans hrep) (by rw [hi.core]; simp [hdelay]), hst.pc]
    rfl
  obtain ⟨hq, hcore⟩ := hst.turned.quiet (by rw [getCore_turned, hi.core]; exact hpend) 1
  refine ⟨goTo (turned u q.core) q.core (nextPc s q.core 1) 1, ?_, hq, by rw [hcore]⟩
  simp only [execBlock, xSyl, ha, hb0, hn, beq_self_eq_true, decide_true, Bool.and_self]
  rw [syl_commits hs hrun, hgather, hgo]

/-! ### Repeats (R253) -/

theorem bundleLen_eq {s u : State} {c : Nat} (ho : onlyCore s u c)
    (hph : (getCore u c).phase = (getCore s c).phase) (pc : W64) : bundleLen u c pc = bundleLen s c pc := by
  have hdram : u.dram = s.dram := (congrArg State.dram ho.2.2 :)
  unfold bundleLen bundleAt
  rw [imageAt_eq ho hph, hdram]

/-- The repeat the core has latched before its running bases are set. -/
def latched (s : State) (c n : Nat) : Rep := ⟨n, 0, (curBank (getCore s c)).rc, none, []⟩

/-- The core with no repeat latched. -/
def unlatched (v : State) (c : Nat) : State := modCore v c (fun x => { x with rep := none })

theorem getCore_unlatched (v : State) (c : Nat) : getCore (unlatched v c) c = { getCore v c with rep := none } :=
  getCore_setCore _ _ _

section Rep
variable {s : State} {q : Syl} (hs : q.stop = true) (hb : atBundle s q.core 1 = true)
include hs hb

/-- A REP has latched its count, rc as it stands; nothing else has changed but what is gathered. -/
theorem syl_rep (n : Nat) : ∃ v b, syl s q 6 0 true .bOther [.rep n] = .next (advance v q.core [.rep n] 1) ∧
    getCore v q.core =
      { getCore s q.core with bun := b, lastPc := (getCore s q.core).pc, rep := some (latched s q.core n) } ∧
    onlyCore s v q.core := by
  obtain ⟨u, b, -, hi, h⟩ := syl_issues (unit := 6) (exts := 0) [.rep n] hs hb (by omega) (by omega) (.inr rfl)
  refine ⟨_, b, h, ?_, onlyCore_trans hi.onlyCore (onlyCore_setCore u q.core _)⟩
  rw [List.foldl_cons, List.foldl_nil, doEff, modCore, getCore_setCore, hi.core]
  rfl

/-- With a count the next bundle repeats. -/
theorem rep_repeats {n : Nat} (hn : 0 < n) : ∃ t, syl s q 6 0 true .bOther [.rep n] = .next t ∧
    Quiet s t q.core 1 ∧
      (getCore t q.core).rep = some { latched s q.core n with bases := (curBank (getCore s q.core)).x } := by
  obtain ⟨v, b, h, hv, ho⟩ := syl_rep hs hb n
  have hadvance : advance v q.core [.rep n] 1 = modCore (goTo v q.core (nextPc s q.core 1) 1) q.core
      (fun x => { x with rep := x.rep.map (fun r => { r with bases := (curBank x).x }) }) := by
    obtain ⟨m, rfl⟩ := Nat.exists_eq_succ_of_ne_zero hn.ne'
    have hnext : pcTo (getCore v q.core).pc ((getCore v q.core).pc.toNat + 4 * 1) = nextPc s q.core 1 := by
      rw [hv]
      rfl
    rw [← hnext]
    rfl
  obtain ⟨hg, hgo⟩ := goTo_quiet v q.core 1 (nextPc s q.core 1) (by rw [hv]; exact pend_of_atBundle hb)
  rw [hv] at hg
  rw [hadvance] at h
  refine ⟨_, h, ⟨?_, ?_, ?_, ?_, ?_, onlyCore_trans ho (onlyCore_trans hgo (onlyCore_setCore _ _ _))⟩, ?_⟩ <;>
    rw [modCore, getCore_setCore, hg]
  case refine_4 => exact ⟨rfl, rfl, rfl⟩
  case refine_5 => exact pend_of_atBundle hb
  case refine_6 => rfl

/-- With count 0 the next bundle does not issue: the core goes to the one after it. -/
theorem rep_skips : ∃ t, syl s q 6 0 true .bOther [.rep 0] = .next t ∧
    ∀ len, bundleLen s q.core (nextPc s q.core 1) = some len →
      (getCore t q.core).pc = pcTo (nextPc s q.core 1) ((nextPc s q.core 1).toNat + 4 * len) ∧
      (getCore t q.core).cyc = (getCore s q.core).cyc + 2 ∧ (getCore t q.core).rep = none := by
  obtain ⟨v, b, h, hv, ho⟩ := syl_rep hs hb 0
  refine ⟨_, h, fun len hlen => ?_⟩
  have hcore : getCore (unlatched v q.core) q.core =
      { getCore s q.core with bun := b, lastPc := (getCore s q.core).pc, rep := none } := by
    rw [getCore_unlatched, hv]
  have ho : onlyCore s (unlatched v q.core) q.core := onlyCore_trans ho (onlyCore_setCore _ _ _)
  have hnext : pcTo (getCore v q.core).pc ((getCore v q.core).pc.toNat + 4 * 1) = nextPc s q.core 1 := by
    rw [hv]
    rfl
  have hfound : bundleLen (unlatched v q.core) q.core (nextPc s q.core 1) = some len := by
    rw [bundleLen_eq ho (by rw [hcore]), hlen]
  have hadvance : advance v q.core [.rep 0] 1 = goTo (unlatched v q.core) q.core
      (pcTo (nextPc s q.core 1) ((nextPc s q.core 1).toNat + 4 * len)) 2 := by
    unfold unlatched at hfound
    unfold advance
    simp only [callLat, effRep, List.findSome?_cons, List.findSome?_nil, hnext, hfound]
    rfl
  obtain ⟨hg, -⟩ := goTo_quiet (unlatched v q.core) q.core 2
    (pcTo (nextPc s q.core 1) ((nextPc s q.core 1).toNat + 4 * len)) (by rw [hcore]; exact pend_of_atBundle hb)
  rw [hadvance, hg, hcore]
  exact ⟨rfl, rfl, rfl⟩

end Rep

/-! ### The end of a block (R258, R274) -/

theorem closeStream_core (c : Nat) (s : State) (w : Nat) :
    { getCore (closeStream s c w) c with streams := [] } = { getCore s c with streams := [] } := by
  have hset (m : Stream) : { getCore (setStream s c w m) c with streams := [] } = { getCore s c with streams := [] } := by
    rw [setStream, modCore, getCore_setCore]
  unfold closeStream
  dsimp only
  split
  · exact hset _
  · split
    · exact hset _
    · rfl

theorem closeStream_other {c d : Nat} (h : d ≠ c) (s : State) (w : Nat) :
    getCore (closeStream s c w) d = getCore s d := by
  unfold closeStream
  dsimp only
  split
  · exact getCore_setCore_other _ _ _ _ h
  · split
    · exact getCore_setCore_other _ _ _ _ h
    · rfl

/-- The sixteen stream windows of a core closed. -/
def streamsClosed (s : State) (c : Nat) : State := (List.range 16).foldl (fun s w => closeStream s c w) s

/-- The registers of core `c` in the context record of thread `t`. -/
def contextSaved (s : State) (c t : Nat) : State :=
  if !isLighterCore c then { s with ik := { s.ik with ctx := tabSet Bank.empty s.ik.ctx t (curBank (getCore s c)) } }
  else if 0 < (getThr s t).winSize then winWrite s t 0 (contextRecord (curBank (getCore s c))) else s

theorem getCore_winWrite (s : State) (t off d : Nat) (bs : List Byte) :
    getCore (winWrite s t off bs) d = getCore s d := by
  unfold winWrite
  dsimp only
  split <;> rfl

theorem getCore_contextSaved (s : State) (c t d : Nat) : getCore (contextSaved s c t) d = getCore s d := by
  unfold contextSaved
  split
  · rfl
  · split
    · exact getCore_winWrite _ _ _ _ _
    · rfl

/-- Core `x` once its block has ended and its event waits for thread `t`. -/
def coreEnded (x : Core) (t : Nat) : Core :=
  { x with phase := .ended t, bun := .empty, delay := 0, target := none, rep := none, first := false,
           cyc := max x.endCyc (x.cyc + 1) }

/-- A block ends: what is in flight takes effect, the windows close, the registers are saved. -/
theorem endBlock_eq (s : State) (c : Nat) :
    let u := settle s c (max (getCore s c).endCyc ((getCore s c).cyc + 1))
    endBlock s c = modCore (contextSaved (streamsClosed u c) c (coreThread u c)) c (coreEnded · (coreThread u c)) := by
  unfold endBlock streamsClosed
  generalize List.range 16 = l
  rfl

/-- The end of a block with nothing in flight keeps the X queue and the end event of its core, and every other core. -/
theorem endBlock_keeps {s : State} {c : Nat} (hp : (getCore s c).pend = []) :
    let y := getCore (endBlock s c) c
    (y.phase = .ended (coreThread s c) ∧ y.endEv = (getCore s c).endEv ∧ y.xq = (getCore s c).xq ∧ y.pend = []) ∧
      ∀ d, d ≠ c → getCore (endBlock s c) d = getCore s d := by
  obtain ⟨hset, hother, -⟩ := settle_nil s c (max (getCore s c).endCyc ((getCore s c).cyc + 1)) hp
  rw [endBlock_eq]
  generalize settle s c (max (getCore s c).endCyc ((getCore s c).cyc + 1)) = u at hset hother
  have hthread : coreThread u c = coreThread s c := by unfold coreThread; rw [hset]
  have hclosed : { getCore (streamsClosed u c) c with streams := [] } = { getCore s c with streams := [] } :=
    (foldl_keeps (fun s => { getCore s c with streams := [] }) (closeStream_core c) _ _).trans (by rw [hset])
  have hcores (d : Nat) (hd : d ≠ c) : getCore (streamsClosed u c) d = getCore s d :=
    (foldl_keeps (getCore · d) (closeStream_other hd) _ _).trans (hother d hd)
  rw [hthread, modCore, getCore_setCore, getCore_contextSaved]
  refine ⟨⟨rfl, (congrArg Core.endEv hclosed :), (congrArg Core.xq hclosed :), (congrArg Core.pend hclosed :).trans hp⟩,
    fun d hd => ?_⟩
  rw [getCore_setCore_other _ _ _ _ hd, getCore_contextSaved, hcores d hd]

section Ends
variable {s : State} {q : Syl} {f : XopF} (hs : q.stop = true) (hb : atBundle s q.core 1 = true)
include hs hb

/-- An end syllable ends its block with its event. -/
theorem syl_endsBlock (e : EndEv) :
    ∃ t, syl s q 7 0 true .finish [.finish e] = .next t ∧ BlockEnded s t q.core e := by
  obtain ⟨b, -, -, h⟩ := syl_commit s q 7 0 .finish [.finish e] hs hb (by omega) (by omega) (by decide)
  have hi := issuing_setCore s q.core { getCore s q.core with bun := b } b
  simp only [if_true, List.foldl_cons, List.foldl_nil, dropRestored, effRestores, List.findSome?_cons,
    List.findSome?_nil] at h
  generalize setCore (setCore s q.core _) q.core _ = u at hi h
  have hcore : getCore (doEff u q.core (.finish e)) q.core =
      { getCore s q.core with bun := b, lastPc := (getCore s q.core).pc, endEv := some e } := by
    rw [doEff, modCore, getCore_setCore, hi.core]
  have hthread : coreThread (doEff u q.core (.finish e)) q.core = coreThread s q.core := by
    unfold coreThread
    rw [hcore]
  obtain ⟨⟨hphase, hev, hxq, hpend⟩, hcores⟩ := endBlock_keeps (s := doEff u q.core (.finish e)) (c := q.core)
    (by rw [hcore]; exact pend_of_atBundle hb)
  rw [hcore] at hev hxq
  refine ⟨_, h, hphase.trans (congrArg _ hthread), hev, hxq, hpend, fun d hd => ?_⟩
  rw [hcores d hd, doEff, modCore, getCore_setCore_other _ _ _ _ hd, hi.cores d hd]

/-- A WAIT whose list and next block are in order ends the block with its requirements. -/
theorem execWait_ends (h1 : 1 ≤ f.sub.toNat) (h4 : f.sub.toNat ≤ 4)
    (hr : reachable q.core (rdX s q.core f.ra.toNat) (8 * f.sub.toNat) = true) {ws : List Nat}
    (hws : waitList (recordAt s q.core f.ra.toNat (8 * f.sub.toNat)) f.sub.toNat = ws)
    (hok : waitOk s q.core ws (rdX s q.core f.rb.toNat) = true) : ∃ t, execWait q f s = .next t ∧
      BlockEnded s t q.core (.wait (ws.map reqOf) (rdX s q.core f.rb.toNat)) := by
  simp only [execWait, xRec, xSyl, hws, hok, h1, h4, accessFault_of_reachable hr, decide_true, Bool.and_self,
    Bool.and_false, Bool.false_eq_true, if_false, if_true, List.nil_append]
  exact syl_endsBlock hs hb _

/-- A YIELD to a block that asks for nothing ends the block. -/
theorem execYield_ends (ha : f.ra = 0) (h0 : f.sub = 0)
    (hreq : ∀ k, blockNreq s q.core (rdX s q.core f.rb.toNat) = some k → k = 0) :
    ∃ t, execYield q f s = .next t ∧ BlockEnded s t q.core (.yield (rdX s q.core f.rb.toNat)) := by
  have hend := syl_endsBlock hs hb (.yield (rdX s q.core f.rb.toNat))
  unfold execYield
  dsimp only
  cases hk : blockNreq s q.core (rdX s q.core f.rb.toNat) with
  | none => simpa [xSyl, ha, h0] using hend
  | some k => simpa [xSyl, ha, h0, hreq k hk] using hend

theorem execExit_ends (ha : f.ra = 0) (hb0 : f.rb = 0) (h0 : f.sub = 0) :
    ∃ t, execExit q f s = .next t ∧ BlockEnded s t q.core .exit := by
  simp only [execExit, xSyl, none3, noRb, ha, hb0, h0, beq_self_eq_true, Bool.and_self]
  exact syl_endsBlock hs hb .exit

end Ends

/-- Settles O11: a REP latches its count or skips a bundle, a BLOCK is a legal first bundle, and an end syllable leaves its
event behind the X queue. -/
theorem repeatsAndBlocks : Obligations.RepeatsAndBlocks := by
  unfold Obligations.RepeatsAndBlocks
  refine ⟨fun s q o hs hb => ⟨fun h0 h1 => ?repi, fun h0 => ?repc, fun h0 => ?repiZero, fun h0 => ?repcZero⟩,
    fun s q f hs => ⟨fun hb ha hb0 hn hnew => execBlock_opens hs hb ha hb0 hn hnew,
      fun hb => ⟨fun h1 h4 hok hr => execWait_ends hs hb h1 h4 hr rfl hok, execYield_ends hs hb,
        execExit_ends hs hb⟩⟩⟩
  case repi =>
    show ∃ t, execRepi q o s = _ ∧ _
    simp only [execRepi, h1, Nat.mod_eq_of_lt h1, decide_true]
    exact rep_repeats hs hb h0
  case repc =>
    have hrc : rdRc s q.core = (curBank (getCore s q.core)).rc := by rw [rdRc, rep_of_atBundle hb]
    show ∃ t, execRepc q 0 s = _ ∧ _
    simp only [execRepc, hrc]
    exact rep_repeats hs hb (Nat.pos_of_ne_zero fun h => h0 (BitVec.eq_of_toNat_eq h))
  case repiZero =>
    subst h0
    exact rep_skips hs hb
  case repcZero =>
    have hrc : (rdRc s q.core).toNat = 0 := by
      rw [rdRc, rep_of_atBundle hb, h0]
      rfl
    show ∃ t, execRepc q 0 s = _ ∧ _
    simp only [execRepc, hrc]
    exact rep_skips hs hb

end Sys2Proof.Machine
end

section
/-!
SUPPORT. A state that refutes O39: a scan still has to deliver a berth that control firmware has reclaimed (R170, R296).
-/
namespace Sys2Proof.Machine

/-- The far berth that customs unit 0 has closed. -/
def closedBerth : CBerth := { CBerth.none with addr := farBase, records := 1, bytes := [1], last := true }

/-- The scan of thread 5 that delivers the berth to its thread, with a token on channel 0x300. -/
def deliveringScan : Scan := { Scan.empty with
  state := 2, owner := 5, nsid := 1, ringLen := 4096, channel := 0x300, owners := [threadTag 5], closed := [closedBerth] }

/-- Thread 5 of tenant 0 waits for that token. Core 0 is leased to tenant 1, whose waiting thread 6 has its window
there. -/
def noticeAwaited : Harbour := { Harbour.empty with
  threads := [(5, { Thread.free with state := 1, cmask := 1, reqs := [⟨0x300, 1⟩] }),
    (6, { Thread.free with state := 1, cmask := 1, space := 1, winSize := 1, lastCore := 0 })]
  waits := [5]
  leases := [(0, { CoreLease.free with space := some 1, minOver := true })] }

/-- The berth still stands under the tag of customs unit 0; tenant 0 may hold one core, of cluster 0. -/
def delivering : State := dset (dset { State.reset with
  customs := { Customs.empty with scans := [(1, deliveringScan)], nextScan := 2 }
  pool := { Pool.empty with berths := [(farBase, { alloc := true, owner := unitTag 0, claims := [], done := none })] }
  hm := noticeAwaited
  power := { Power.reset with bootStep := 6, on := List.range 22 } } 0x6000 2 1) 0x6000 3 1

/-- A RECLAIM of the berth by control thread 5, which no check of Table 5.5 refuses. -/
def reclaimOfClosed : Waiter :=
  { who := ⟨19, 0, 5⟩, tag := threadTag 65541, req := ⟨BitVec.ofNat 64 (4 + farBase * 65536), 0, 0, 0, 0⟩ }

/-- The berth has been reclaimed: it is free, and the next the pool gives out. -/
def reclaimedUnderScan : State := berthResolve delivering reclaimOfClosed

/-- Refutes O39: the reclaimed berth is shared with thread 5 and the token readies that thread; core 0 passes to tenant 0,
and the window of thread 6 is saved to the berth, which the pool still held free, so that its owner is thread 6. -/
theorem not_scansRunToTheirEnd : ¬ Obligations.ScansRunToTheirEnd := by
  unfold Obligations.ScansRunToTheirEnd
  rintro ⟨-, hruns⟩
  obtain ⟨hrunning, -⟩ := hruns reclaimedUnderScan 1 0 0 [] ⟨0, 0, [], false⟩ closedBerth []
  obtain ⟨-, hnotice, -⟩ := hrunning (by decide +kernel)
  obtain ⟨-, -, -, -, howner⟩ := hnotice (by decide +kernel) (by decide +kernel)
  have hshared : (getScan reclaimedUnderScan 1).owners.getLastD 0 = threadTag 5 := by decide +kernel
  have hsaved : (getBerth (scanNotice reclaimedUnderScan 1 closedBerth []) farBase).owner = threadTag 6 := by
    decide +kernel
  have hsame : threadTag 6 = threadTag 5 := hsaved.symm.trans ((howner (by decide +kernel)).trans hshared)
  exact absurd hsame (by decide)

end Sys2Proof.Machine
end

section
/-!
SUPPORT. The AEAD kinds of Table 12.4: the key stream is at least as long as its text, and enciphering twice under one
stream gives the text back (R329, R335).
-/
namespace Sys2Proof.Machine

/-! ### Runs of bytes of one length -/

@[simp] theorem length_xorB (a b : List Byte) : (xorB a b).length = min a.length b.length := by simp [xorB]

/-- A stream that covers a text undoes itself. -/
theorem xorB_xorB {a b : List Byte} (h : a.length ≤ b.length) : xorB (xorB a b) b = a := by
  induction a generalizing b with
  | nil => simp [xorB]
  | cons x a ih =>
    cases b with
    | nil => simp at h
    | cons y b => simpa [xorB, BitVec.xor_assoc] using ih (by simpa using h)

theorem length_flatten_of_length {α : Type} {k : Nat} {l : List (List α)} (h : ∀ x ∈ l, x.length = k) :
    l.flatten.length = l.length * k := by
  rw [List.length_flatten, List.map_congr_left h]
  simp

/-- Whole runs, cut with fuel enough. -/
theorem length_chunks {α : Type} {k : Nat} (hk : 0 < k) {m fuel : Nat} (hm : m ≤ fuel) {l : List α}
    (hl : l.length = k * m) : (chunks k fuel l).length = m := by
  induction fuel generalizing m l with
  | zero => simp [chunks, Nat.le_zero.mp hm]
  | succ n ih =>
    cases m with
    | zero => simp [chunks, List.length_eq_zero_iff.mp (by simpa using hl)]
    | succ m =>
      have hne : l ≠ [] := by rintro rfl; simp at hl; omega
      simp [chunks, hne, ih (m := m) (by omega) (l := l.drop k) (by rw [List.length_drop, hl, Nat.mul_succ]; omega)]

theorem length_of_mem_chunks {α : Type} {k m fuel : Nat} {l : List α} (hl : l.length = k * m) {c : List α}
    (hc : c ∈ chunks k fuel l) : c.length = k := by
  induction fuel generalizing m l with
  | zero => cases hc
  | succ n ih =>
    simp only [chunks] at hc
    split at hc
    · cases hc
    next hne =>
      cases m with
      | zero => exact absurd (by simpa using hl) hne
      | succ m =>
        rw [Nat.mul_succ] at hl
        rcases List.mem_cons.mp hc with rfl | hc
        · rw [List.length_take]
          omega
        · exact ih (m := m) (by rw [List.length_drop]; omega) hc

theorem mem_of_mem_chunks {α : Type} {k fuel : Nat} {l c : List α} (hc : c ∈ chunks k fuel l) {x : α} (hx : x ∈ c) :
    x ∈ l := by
  induction fuel generalizing l with
  | zero => cases hc
  | succ n ih =>
    simp only [chunks] at hc
    split at hc
    · cases hc
    · rcases List.mem_cons.mp hc with rfl | hc
      · exact List.mem_of_mem_take hx
      · exact List.mem_of_mem_drop (ih hc)

/-! ### AES blocks -/

/-- A key schedule grows word by word. -/
theorem length_keyWords (nk n : Nat) (rc : Byte) (ws : List (List Byte)) :
    (keyWords nk n rc ws).length = n + ws.length := by
  induction n generalizing rc ws with
  | zero => simp [keyWords]
  | succ n ih =>
    simp only [keyWords]
    split_ifs <;> rw [ih, List.length_cons] <;> omega

/-- Every word of a key schedule has 4 bytes, as the words of the key have. -/
theorem length_of_mem_keyWords {nk : Nat} (hnk : 0 < nk) {n : Nat} {rc : Byte} {ws : List (List Byte)}
    (hlen : nk ≤ ws.length) (hws : ∀ w ∈ ws, w.length = 4) : ∀ w ∈ keyWords nk n rc ws, w.length = 4 := by
  induction n generalizing rc ws with
  | zero => exact hws
  | succ n ih =>
    have hold : ((ws[nk - 1]?).getD []).length = 4 := by
      rw [List.getElem?_eq_getElem (by omega)]
      exact hws _ (List.getElem_mem _)
    have hprev : (ws.headD []).length = 4 := by
      cases ws with
      | nil => simp at hlen; omega
      | cons w ws => exact hws w List.mem_cons_self
    have hgrown : ∀ {rc : Byte} {x : List Byte}, x.length = 4 →
        ∀ w ∈ keyWords nk n rc (xorB ((ws[nk - 1]?).getD []) x :: ws), w.length = 4 := fun hx =>
      ih (by simp; omega) (List.forall_mem_cons.mpr ⟨by simp [hold, hx], hws⟩)
    simp only [keyWords]
    generalize ws.headD [] = prev at hprev
    split_ifs
    · have hrot : ((prev.drop 1 ++ prev.take 1).map aesS).length = 4 := by simp [hprev]
      refine hgrown ?_
      split
      next heq => rwa [heq] at hrot
      next heq => rwa [heq] at hrot
    · exact hgrown (by simp [hprev])
    · exact hgrown hprev

/-- A key of 16 or 32 bytes has round keys, each of 16 bytes. -/
theorem roundKeys_length {key : List Byte} (hkey : key.length = 16 ∨ key.length = 32) :
    roundKeys key ≠ [] ∧ ∀ k ∈ roundKeys key, k.length = 16 := by
  obtain ⟨nk, hnk, hlen⟩ : ∃ nk, 0 < nk ∧ key.length = 4 * nk := by
    rcases hkey with h | h
    · exact ⟨4, by omega, h⟩
    · exact ⟨8, by omega, h⟩
  have hdiv : key.length / 4 = nk := by omega
  have hwords : (chunks 4 nk key).length = nk := length_chunks (by omega) le_rfl hlen
  let ws := (keyWords nk (4 * (nk + 7) - nk) 1 (chunks 4 nk key).reverse).reverse
  have hcount : ws.length = 4 * (nk + 7) := by
    simp only [ws, List.length_reverse, length_keyWords, hwords]
    omega
  have hword : ∀ w ∈ ws, w.length = 4 := fun w hw =>
    length_of_mem_keyWords hnk (by simp [hwords]) (fun v hv => length_of_mem_chunks hlen (List.mem_reverse.mp hv)) w
      (List.mem_reverse.mp hw)
  have hkeys : roundKeys key = (chunks 4 (nk + 7) ws).map List.flatten := by simp only [roundKeys, hdiv, ws]
  rw [hkeys]
  refine ⟨fun hnil => ?_, fun k hk => ?_⟩
  · have := length_chunks (by omega) le_rfl hcount
    simp [List.map_eq_nil_iff.mp hnil] at this
  · obtain ⟨c, hc, rfl⟩ := List.mem_map.mp hk
    rw [length_flatten_of_length fun w hw => hword w (mem_of_mem_chunks hc hw), length_of_mem_chunks hcount hc]

theorem length_aesRounds {ks : List (List Byte)} {s : List Byte} (hks : ∀ k ∈ ks, k.length = 16) (hs : s.length = 16) :
    (aesRounds ks s).length = 16 := by
  induction ks generalizing s with
  | nil => exact hs
  | cons k ks ih =>
    obtain ⟨hk, hks⟩ := List.forall_mem_cons.mp hks
    cases ks with
    | nil => simp [aesRounds, hk, shiftRows]
    | cons k' ks => exact ih hks (by simp [hk, mixBy])

/-- AES gives a block for a block. -/
theorem length_aesEnc {key blk : List Byte} (hkey : key.length = 16 ∨ key.length = 32) (hblk : blk.length = 16) :
    (aesEnc key blk).length = 16 := by
  obtain ⟨hne, hlen⟩ := roundKeys_length hkey
  unfold aesEnc
  split
  next k ks heq =>
    obtain ⟨hk, hks⟩ := List.forall_mem_cons.mp (heq ▸ hlen)
    exact length_aesRounds hks (by simp [hk, hblk])
  next heq => exact absurd heq hne

/-! ### ChaCha20 blocks -/

@[simp] theorem length_doubleRound (s : List W32) : (doubleRound s).length = s.length := by simp [doubleRound, quarter]

theorem length_rounds (n : Nat) (s : List W32) :
    ((List.range n).foldl (fun s _ => doubleRound s) s).length = s.length := by
  induction n with
  | zero => rfl
  | succ n ih => simp [List.range_succ, ih]

theorem length_chachaBlock {key nonce : List Byte} (hkey : key.length = 32) (hnonce : nonce.length = 12) (ctr : Nat) :
    (chachaBlock key nonce ctr).length = 64 := by
  have hk : (chunks 4 32 key).length = 8 := length_chunks (by omega) (by omega) hkey
  have hn : (chunks 4 12 nonce).length = 3 := length_chunks (by omega) (by omega) hnonce
  unfold chachaBlock
  dsimp only
  rw [length_flatten_of_length (k := 4) fun b hb => ?_]
  · simp [length_rounds, hkey, hnonce, hk, hn]
  · obtain ⟨w, -, rfl⟩ := List.mem_map.mp hb
    exact leBytes_length 4 w.toNat

/-! ### Key streams -/

/-- The key stream over `n` bytes of payload from byte `off` on. -/
def keyStream (kind : Nat) (key nonce : List Byte) (off n : Nat) : List Byte :=
  if kind = 3 then chachaStream key nonce (off / 64) (ceilDiv n 64) else gcmStream key nonce (off / 16) (ceilDiv n 16)

theorem aeadCrypt_eq (kind : Nat) (key nonce : List Byte) (off : Nat) (data : List Byte) :
    aeadCrypt kind key nonce off data = xorB data (keyStream kind key nonce off data.length) := rfl

theorem le_ceilDiv_mul (n : Nat) {k : Nat} (hk : 0 < k) : n ≤ ceilDiv n k * k := by
  have := Nat.div_add_mod (n + k - 1) k
  have := Nat.mod_lt (n + k - 1) hk
  rw [ceilDiv, Nat.mul_comm]
  omega

theorem length_gcmStream {key nonce : List Byte} (hkey : key.length = 16 ∨ key.length = 32) (hnonce : nonce.length = 12)
    (at_ n : Nat) : (gcmStream key nonce at_ n).length = n * 16 := by
  unfold gcmStream
  rw [length_flatten_of_length (k := 16)]
  · simp
  · intro b hb
    obtain ⟨i, -, rfl⟩ := List.mem_map.mp hb
    exact length_aesEnc hkey (by simp [hnonce, beBytes])

theorem length_chachaStream {key nonce : List Byte} (hkey : key.length = 32) (hnonce : nonce.length = 12)
    (at_ n : Nat) : (chachaStream key nonce at_ n).length = n * 64 := by
  unfold chachaStream
  rw [length_flatten_of_length (k := 64)]
  · simp
  · intro b hb
    obtain ⟨i, -, rfl⟩ := List.mem_map.mp hb
    exact length_chachaBlock hkey hnonce _

section Kinds
variable {kind : Nat} {key nonce : List Byte} (hkey : key.length = if kind = 1 then 16 else 32)
  (hnonce : nonce.length = 12)
include hkey hnonce

/-- The key stream covers its payload. -/
theorem le_length_keyStream (off n : Nat) : n ≤ (keyStream kind key nonce off n).length := by
  unfold keyStream
  split
  next h3 =>
    rw [length_chachaStream (by simpa [h3] using hkey) hnonce]
    exact le_ceilDiv_mul n (by omega)
  next =>
    rw [length_gcmStream (by split at hkey <;> omega) hnonce]
    exact le_ceilDiv_mul n (by omega)

theorem length_aeadCrypt (off : Nat) (text : List Byte) : (aeadCrypt kind key nonce off text).length = text.length := by
  rw [aeadCrypt_eq, length_xorB]
  exact Nat.min_eq_left (le_length_keyStream hkey hnonce off text.length)

theorem aeadCrypt_aeadCrypt (off : Nat) (text : List Byte) :
    aeadCrypt kind key nonce off (aeadCrypt kind key nonce off text) = text := by
  rw [aeadCrypt_eq _ _ _ _ (aeadCrypt _ _ _ _ _), length_aeadCrypt hkey hnonce, aeadCrypt_eq]
  exact xorB_xorB (le_length_keyStream hkey hnonce off text.length)

end Kinds

end Sys2Proof.Machine
end

section
/-!
SUPPORT. The LZ4 blocks of the encoder decode to the bytes they were made from (R307, R308).
-/
namespace Sys2Proof.Machine

/-! ### Lengths of literals and matches -/

theorem lz4ReadExt_eq (v : Nat) (r : List Byte) :
    lz4ReadExt v r = if v < 15 then some (v, r) else lz4ReadExt.go v r := by
  cases r <;> rfl

/-- The extension bytes of a length add up to it. -/
theorem readExt_go_lz4Ext {fuel v : Nat} (h : v < fuel) (base : Nat) (rest : List Byte) :
    lz4ReadExt.go base (lz4Ext fuel v ++ rest) = some (base + v, rest) := by
  induction fuel generalizing v base with
  | zero => omega
  | succ f ih =>
    unfold lz4Ext
    split
    next hlt =>
      have hb : (BitVec.ofNat 8 v).toNat = v := by simp; omega
      have hne : BitVec.ofNat 8 v ≠ 255 := fun he => by simp [he] at hb; omega
      rw [List.singleton_append, lz4ReadExt.go, if_neg hne, hb]
    next hge =>
      have hrest := ih (v := v - 255) (by omega) (base + 255)
      rw [show base + 255 + (v - 255) = base + v by omega] at hrest
      simpa [lz4ReadExt.go] using hrest

/-- A length is read back from its nibble and its extension bytes. -/
theorem lz4ReadExt_lz4Len (v : Nat) (rest : List Byte) :
    lz4ReadExt (min v 15) (lz4Len v ++ rest) = some (v, rest) := by
  rw [lz4ReadExt_eq, lz4Len]
  by_cases h : v < 15
  · rw [Nat.min_eq_left h.le, if_pos h, if_pos h, List.nil_append]
  · rw [Nat.min_eq_right (by omega), if_neg (by omega), if_neg h, readExt_go_lz4Ext (by omega),
      Nat.add_sub_cancel' (by omega)]

/-- The token of a sequence gives both nibbles back. -/
theorem token_nibbles {a b : Nat} (ha : a < 16) (hb : b < 16) :
    (BitVec.ofNat 8 (a * 16 + b)).toNat / 16 = a ∧ (BitVec.ofNat 8 (a * 16 + b)).toNat % 16 = b := by
  simp; omega

/-! ### Sequences -/

/-- The last sequence decodes to its literals. -/
theorem lz4Loop2_lz4Last (f : Nat) (lits out : List Byte) :
    lz4Loop2 (f + 1) (lz4Last lits) out = some (lits.reverse ++ out) := by
  obtain ⟨hlit, -⟩ := token_nibbles (a := min lits.length 15) (b := 0) (by omega) (by omega)
  simp only [Nat.add_zero] at hlit
  have hread := lz4ReadExt_lz4Len lits.length lits
  simp only [lz4Last, List.cons_append, lz4Loop2, hlit, hread]
  simp

/-- A sequence decodes to its literals and its match, and decoding goes on behind it. -/
theorem lz4Loop2_lz4Seq (f : Nat) (lits rest out : List Byte) {off len : Nat} (hpos : 0 < off) (hoff : off < 65536)
    (hback : off ≤ lits.length + out.length) (hlen : 4 ≤ len) :
    lz4Loop2 (f + 1) (lz4Seq lits off len ++ rest) out = lz4Loop2 f rest (lz4Copy off len (lits.reverse ++ out)) := by
  obtain ⟨hlit, hmatch⟩ := token_nibbles (a := min lits.length 15) (b := min (len - 4) 15) (by omega) (by omega)
  have hread := lz4ReadExt_lz4Len lits.length (lits ++ (leBytes 2 off ++ (lz4Len (len - 4) ++ rest)))
  have hoffset : (BitVec.ofNat 8 off).toNat + 256 * (BitVec.ofNat 8 (off / 256)).toNat = off := by simp; omega
  have hback' : ¬ (off = 0 ∨ lits.reverse.length + out.length < off) := by rw [List.length_reverse]; omega
  simp only [lz4Seq, List.cons_append, List.append_assoc, lz4Loop2, hlit, hread]
  simp only [leBytes, List.cons_append, List.nil_append, List.length_append, List.length_cons, List.drop_left,
    List.take_left, hmatch, lz4ReadExt_lz4Len, hoffset, if_neg hback', Nat.sub_add_cancel hlen]
  rw [if_neg (by omega)]

/-! ### Matches -/

/-- Copying from `off` back goes on along bytes that repeat what stands `off` before them. -/
theorem lz4Copy_take {l : List Byte} {off : Nat} (hpos : 0 < off) {i n : Nat} (hoff : off ≤ i) (hle : i + n ≤ l.length)
    (hrep : ∀ k < n, l[i + k - off]? = l[i + k]?) :
    lz4Copy off n (l.take i).reverse = (l.take (i + n)).reverse := by
  induction n generalizing i with
  | zero => rfl
  | succ n ih =>
    have hnext : ((l.take i).reverse[off - 1]?).getD 0 = l[i]'(by omega) := by
      rw [List.getElem?_reverse (by simp; omega), List.getElem?_take_of_lt (by simp; omega)]
      have hfirst := hrep 0 (by omega)
      rw [Nat.add_zero, List.getElem?_eq_getElem (by omega : i < l.length)] at hfirst
      rw [show (l.take i).length - 1 - (off - 1) = i - off by simp; omega, hfirst]
      rfl
    have hgrown : l[i]'(by omega) :: (l.take i).reverse = (l.take (i + 1)).reverse := by
      rw [List.take_add_one, List.getElem?_eq_getElem (by omega), Option.toList_some, List.reverse_append]
      rfl
    rw [lz4Copy, hnext, hgrown, show i + (n + 1) = i + 1 + n by omega]
    exact ih (by omega) (by omega) fun k hk => by
      have := hrep (k + 1) (by omega)
      rwa [show i + (k + 1) = i + 1 + k by omega] at this

theorem ofLe_inj {a b : List Byte} (hlen : a.length = b.length) (h : ofLe a = ofLe b) : a = b := by
  induction a generalizing b with
  | nil => exact (List.length_eq_zero_iff.mp hlen.symm).symm
  | cons x a ih =>
    cases b with
    | nil => simp at hlen
    | cons y b =>
      simp only [ofLe] at h
      have hx := x.isLt
      have hy := y.isLt
      rw [BitVec.eq_of_toNat_eq (show x.toNat = y.toNat by omega), ih (by simpa using hlen) (by omega)]

/-- Where two words of the source agree, their 4 bytes do. -/
theorem getElem?_of_read32 {l : List Byte} {c i : Nat} (hc : c + 4 ≤ l.length) (hi : i + 4 ≤ l.length)
    (h : read32 l.toArray c = read32 l.toArray i) : ∀ k < 4, l[c + k]? = l[i + k]? := by
  intro k hk
  have hwords : (l.drop c).take 4 = (l.drop i).take 4 := by
    refine ofLe_inj (by simp; omega) ?_
    simpa [read32, List.extract_eq_take_drop] using h
  have hat := congrArg (·[k]?) hwords
  simpa [List.getElem?_take_of_lt hk] using hat

/-- A match grows by equal bytes, and no further than the source. -/
theorem lz4Grow_spec {l : List Byte} {c i : Nat} (f : Nat) {len : Nat} (hle : i + len ≤ l.length)
    (heq : ∀ k < len, l[c + k]? = l[i + k]?) :
    len ≤ lz4Grow l.toArray c i f len ∧ i + lz4Grow l.toArray c i f len ≤ l.length ∧
      ∀ k < lz4Grow l.toArray c i f len, l[c + k]? = l[i + k]? := by
  induction f generalizing len with
  | zero => exact ⟨le_rfl, hle, heq⟩
  | succ f ih =>
    unfold lz4Grow
    split
    next h =>
      obtain ⟨hlt, hnext⟩ := h
      simp only [List.size_toArray, List.getElem?_toArray] at hlt hnext
      obtain ⟨hgrows, hrest⟩ := ih (len := len + 1) (by omega) fun k hk => by
        rcases Nat.lt_succ_iff_lt_or_eq.mp hk with hk | rfl
        · exact heq k hk
        · exact hnext
      exact ⟨by omega, hrest⟩
    next => exact ⟨le_rfl, hle, heq⟩

/-! ### The encoder's loop -/

theorem mem_of_lz4TabFind {h c : Nat} {t : Tab Nat} (hf : lz4Loop.tabFind h t = some c) : (h, c) ∈ t := by
  induction t with
  | nil => cases hf
  | cons e t ih =>
    unfold lz4Loop.tabFind at hf
    split at hf
    next heq => cases hf; subst heq; exact List.mem_cons_self
    next => exact List.mem_cons_of_mem _ (ih hf)

/-- What the encoder does at a position: it ends, goes on by one byte, or writes a match it has found. -/
theorem lz4Loop_cases (src : Array Byte) (f : Nat) (table : Tab Nat) (anchor i : Nat) :
    lz4Loop src (f + 1) table anchor i = lz4Last (src.extract anchor src.size).toList ∨
    i + 12 ≤ src.size ∧ ∃ h, lz4Loop src (f + 1) table anchor i = lz4Loop src f (tabPut table h i) anchor (i + 1) ∨
      ∃ c, (h, c) ∈ table ∧ i - c ≤ 65535 ∧ read32 src c = read32 src i ∧
        lz4Loop src (f + 1) table anchor i =
          lz4Seq (src.extract anchor i).toList (i - c) (lz4Grow src c i src.size 4) ++
            lz4Loop src f (tabPut table h i) (i + lz4Grow src c i src.size 4) (i + lz4Grow src c i src.size 4) := by
  rw [lz4Loop]
  split
  next hroom =>
    refine .inr ⟨hroom, read32 src i * 2654435761 % 2 ^ 32 / 2 ^ 20, ?_⟩
    dsimp only
    split
    next c hfound =>
      split
      next hmatch => exact .inr ⟨c, mem_of_lz4TabFind hfound, hmatch.1, hmatch.2, rfl⟩
      next => exact .inl rfl
    next => exact .inl rfl
  next => exact .inl rfl

theorem take_append_extract {l : List Byte} {a b : Nat} (hab : a ≤ b) :
    l.take a ++ (l.toArray.extract a b).toList = l.take b := by
  simp only [List.extract_toArray, List.extract_eq_take_drop]
  rw [← List.take_add, Nat.add_sub_cancel' hab]

/-- Behind the bytes before `anchor`, the last literals decode to the whole source. -/
theorem lz4Loop2_lastLiterals {l : List Byte} {anchor : Nat} (h : anchor ≤ l.length) (g : Nat) :
    lz4Loop2 (g + 1) (lz4Last (l.toArray.extract anchor l.toArray.size).toList) (l.take anchor).reverse =
      some l.reverse := by
  rw [lz4Loop2_lz4Last, ← List.reverse_append, List.size_toArray, take_append_extract h, List.take_length]

theorem forall_mem_tabPut_lt {table : Tab Nat} {i j : Nat} (htab : ∀ e ∈ table, e.2 < i) (hij : i < j) (h : Nat) :
    ∀ e ∈ tabPut table h i, e.2 < j := by
  intro e he
  rcases mem_of_mem_tabPut he with rfl | he
  · exact hij
  · exact (htab e he).trans hij

/-- What the encoder writes from `anchor` on decodes, behind the bytes before `anchor`, to the whole source; its table
holds positions before `i` alone. -/
theorem lz4Loop2_lz4Loop {l : List Byte} (f : Nat) {table : Tab Nat} {anchor i g : Nat} (htab : ∀ e ∈ table, e.2 < i)
    (hai : anchor ≤ i) (hi : i ≤ l.length) (hg : (lz4Loop l.toArray f table anchor i).length ≤ g) :
    lz4Loop2 (g + 1) (lz4Loop l.toArray f table anchor i) (l.take anchor).reverse = some l.reverse := by
  induction f generalizing table anchor i g with
  | zero => exact lz4Loop2_lastLiterals (hai.trans hi) g
  | succ f ih =>
    obtain hends | ⟨hroom, h, hgoes | ⟨c, hc, hfar, hword, hwrites⟩⟩ := lz4Loop_cases l.toArray f table anchor i
    · rw [hends]
      exact lz4Loop2_lastLiterals (hai.trans hi) g
    · rw [hgoes] at hg ⊢
      rw [List.size_toArray] at hroom
      exact ih (forall_mem_tabPut_lt htab (by omega) h) (by omega) (by omega) hg
    · rw [List.size_toArray] at hroom
      have hci : c < i := htab _ hc
      obtain ⟨hlen, hend, hequal⟩ := lz4Grow_spec l.toArray.size (len := 4) (by omega)
        (getElem?_of_read32 (by omega) (by omega) hword)
      rw [hwrites] at hg ⊢
      generalize lz4Grow l.toArray c i l.toArray.size 4 = len at hg hlen hend hequal ⊢
      have hlits : ((l.toArray.extract anchor i).toList).reverse ++ (l.take anchor).reverse = (l.take i).reverse := by
        rw [← List.reverse_append, take_append_extract hai]
      have hcopy := lz4Copy_take (l := l) (off := i - c) (i := i) (n := len) (by omega) (by omega) hend fun k hk => by
        rw [show i + k - (i - c) = c + k by omega]
        exact hequal k hk
      obtain ⟨g, rfl⟩ : ∃ g', g = g' + 1 := ⟨g - 1, by simp [lz4Seq] at hg; omega⟩
      rw [lz4Loop2_lz4Seq _ _ _ _ (by omega) (by omega) (by simp; omega) hlen, hlits, hcopy]
      exact ih (forall_mem_tabPut_lt htab (by omega) h) le_rfl hend (by simp [lz4Seq] at hg; omega)

/-- A block decodes to the bytes it was made from. -/
theorem lz4Decode_lz4Encode (l : List Byte) : lz4Decode (lz4Encode l) l.length = some l := by
  have h : lz4Loop2 ((lz4Encode l).length + 1) (lz4Encode l) [] = some l.reverse :=
    lz4Loop2_lz4Loop (l.length + 1) (by simp) le_rfl (Nat.zero_le _) le_rfl
  simp [lz4Decode, h]

end Sys2Proof.Machine
end

section
/-!
SUPPORT. The fields of a container, and what the engines read of it (R305 to R307, Table 11.1).
-/
namespace Sys2Proof.Machine

/-! ### The check value -/

theorem crcBit_lt {c : Nat} (h : c < 2 ^ 32) : crcBit c < 2 ^ 32 := by
  unfold crcBit
  split
  · exact Nat.xor_lt_two_pow (by omega) (by omega)
  · omega

theorem crcByte_lt {c : Nat} (h : c < 2 ^ 32) (b : Byte) : crcByte c b < 2 ^ 32 := by
  unfold crcByte
  iterate 8 refine crcBit_lt ?_
  exact Nat.xor_lt_two_pow h (by have := b.isLt; omega)

theorem crc32c_lt (bs : List Byte) : crc32c bs < 2 ^ 32 := by
  have hfold : ∀ {c : Nat}, c < 2 ^ 32 → bs.foldl crcByte c < 2 ^ 32 := by
    induction bs with
    | nil => exact id
    | cons b bs ih => exact fun h => ih (crcByte_lt h b)
  exact Nat.xor_lt_two_pow (hfold (by omega)) (by omega)

/-! ### A header and its payload (Table 11.1) -/

/-- The bytes of a container with these fields. -/
def boxed (flags bsize orig crc : Nat) (body : List Byte) : List Byte :=
  [0x54, 0x42, BitVec.ofNat 8 flags, BitVec.ofNat 8 bsize] ++
    (leBytes 4 orig ++ (leBytes 4 body.length ++ (leBytes 4 crc ++ body)))

section Fields
variable (flags bsize orig crc : Nat) (body : List Byte)

theorem boxed_length : (boxed flags bsize orig crc body).length = 16 + body.length := by
  simp [boxed]; omega

theorem boxed_drop : (boxed flags bsize orig crc body).drop 16 = body := by simp [boxed, leBytes]

theorem boxed_append (rest : List Byte) : boxed flags bsize orig crc body ++ rest =
    [0x54, 0x42, BitVec.ofNat 8 flags, BitVec.ofNat 8 bsize] ++
      (leBytes 4 orig ++ (leBytes 4 body.length ++ (leBytes 4 crc ++ (body ++ rest)))) := by simp [boxed]

variable (rest : List Byte)

theorem boxed_flags : recNat (boxed flags bsize orig crc body ++ rest) 2 1 = flags % 256 := by
  simp [boxed_append, recNat, ofLe]

theorem boxed_bsize : recNat (boxed flags bsize orig crc body ++ rest) 3 1 = bsize % 256 := by
  simp [boxed_append, recNat, ofLe]

theorem boxed_orig : recNat (boxed flags bsize orig crc body ++ rest) 4 4 = orig % 2 ^ 32 := by
  rw [boxed_append, recNat_append_right _ _ (by simp)]
  exact recNat_leBytes_append 4 _ _

theorem boxed_stor : recNat (boxed flags bsize orig crc body ++ rest) 8 4 = body.length % 2 ^ 32 := by
  rw [boxed_append, recNat_append_right _ _ (by simp), recNat_append_right _ _ (by simp)]
  exact recNat_leBytes_append 4 _ _

theorem boxed_crc : recNat (boxed flags bsize orig crc body ++ rest) 12 4 = crc % 2 ^ 32 := by
  rw [boxed_append, recNat_append_right _ _ (by simp), recNat_append_right _ _ (by simp),
    recNat_append_right _ _ (by simp)]
  exact recNat_leBytes_append 4 _ _

end Fields

/-! ### The container of a block (R305, R306) -/

/-- Packing does not pay: the container is raw. -/
theorem container_raw (bsize : Nat) {l : List Byte} (h : ¬ 16 + (lz4Encode l).length < l.length) :
    container bsize l = (boxed 1 bsize l.length (crc32c l) l, true) := by
  simp [container, boxed, Nat.not_lt.mp h, b2n]

/-- Packing pays: the container holds the LZ4 block. -/
theorem container_packed (bsize : Nat) {l : List Byte} (h : 16 + (lz4Encode l).length < l.length) :
    container bsize l = (boxed 0 bsize l.length (crc32c l) (lz4Encode l), false) := by
  simp [container, boxed, Nat.not_le.mpr h, b2n]

/-- A container is at most its header longer than its block. -/
theorem length_container_le (bsize : Nat) (l : List Byte) : (container bsize l).1.length ≤ 16 + l.length := by
  by_cases h : 16 + (lz4Encode l).length < l.length
  · rw [container_packed bsize h, boxed_length]
    omega
  · rw [container_raw bsize h, boxed_length]

/-! ### Unpacking (Table 11.5) -/

section Unpack
variable {bsize : Nat} {l : List Byte} (h12 : 12 ≤ bsize) (h20 : bsize ≤ 20) (hne : l ≠ []) (hle : l.length ≤ 2 ^ bsize)
include h12 h20 hne hle

/-- A well-formed container, raw or not, whose payload decodes to the block, unpacks to the block. -/
theorem unpack_boxed {raw : Bool} {body : List Byte} (rest : List Byte)
    (hbody : if raw then body = l else 16 + body.length < l.length)
    (hdec : (if raw then some body else lz4Decode body l.length) = some l) :
    unpack (boxed (b2n raw) bsize l.length (crc32c l) body ++ rest) = .ok l (16 + body.length) raw := by
  have hpos : 0 < l.length := List.length_pos_iff.mpr hne
  have hmax : l.length ≤ 2 ^ 20 := hle.trans (Nat.pow_le_pow_right (by omega) h20)
  have hshort : body.length ≤ l.length := by cases raw <;> simp_all; omega
  obtain ⟨src, hsrc⟩ : ∃ src, src = boxed (b2n raw) bsize l.length (crc32c l) body ++ rest := ⟨_, rfl⟩
  have hlen : src.length = 16 + body.length + rest.length := by rw [hsrc, List.length_append, boxed_length]
  have hmagic : src.take 2 = [0x54, 0x42] := by rw [hsrc]; rfl
  have hflags : recNat src 2 1 = b2n raw := by rw [hsrc, boxed_flags]; cases raw <;> rfl
  have hbsize : recNat src 3 1 = bsize := by rw [hsrc, boxed_bsize]; omega
  have horig : recNat src 4 4 = l.length := by rw [hsrc, boxed_orig]; omega
  have hstor : recNat src 8 4 = body.length := by rw [hsrc, boxed_stor]; omega
  have hcrc : recNat src 12 4 = crc32c l := by rw [hsrc, boxed_crc, Nat.mod_eq_of_lt (crc32c_lt l)]
  have hpay : (src.drop 16).take body.length = body := by
    rw [hsrc, List.drop_append_of_le_length (by rw [boxed_length]; omega), boxed_drop, List.take_left]
  have hraw : (b2n raw == 1) = raw := by cases raw <;> rfl
  have hflag : ¬ 1 < b2n raw := by cases raw <;> decide
  have hsize : ¬ if raw then body.length ≠ l.length else l.length ≤ 16 + body.length := by cases raw <;> simp_all
  rw [← hsrc]
  simp only [unpack, hlen, hmagic, hflags, hbsize, horig, hstor, hcrc, hraw, hpay, hdec, if_true]
  refine if_neg ?_
  simp only [not_or]
  exact ⟨by omega, by simp, hflag, by omega, by omega, by omega, Nat.not_lt.mpr hle, hsize, by omega⟩

/-- A container unpacks to the block it was made from. -/
theorem unpack_container (rest : List Byte) :
    unpack ((container bsize l).1 ++ rest) = .ok l (container bsize l).1.length (container bsize l).2 := by
  by_cases h : 16 + (lz4Encode l).length < l.length
  · rw [container_packed bsize h, boxed_length]
    exact unpack_boxed h12 h20 hne hle (raw := false) rest h (lz4Decode_lz4Encode l)
  · rw [container_raw bsize h, boxed_length]
    exact unpack_boxed h12 h20 hne hle (raw := true) rest rfl rfl

end Unpack

/-- Settles O41: a container by the fields of its header and the blocks of the encoder, a cipher by its key stream. -/
theorem containersAndCiphersRoundTrip : Obligations.ContainersAndCiphersRoundTrip := by
  unfold Obligations.ContainersAndCiphersRoundTrip
  refine ⟨fun bsize l rest h12 h20 hne hle => unpack_container h12 h20 hne hle rest, ?_⟩
  intro kind total key nonce text _ _ hkey hnonce
  exact ⟨aeadCrypt_aeadCrypt hkey hnonce total text, length_aeadCrypt hkey hnonce total text⟩

/-! ### The output of a compress job (R306) -/

/-- A compress job adds at most its source and a header for each block to its output. -/
theorem compressRun_out_le (bsize room f : Nat) (src : List Byte) (p : CProg) :
    (compressRun bsize room f src p).out.length + 16 * p.blocks ≤
      p.out.length + src.length + 16 * (compressRun bsize room f src p).blocks := by
  fun_induction compressRun bsize room f src p with
  | case1 => omega
  | case2 => omega
  | case3 => dsimp only; omega
  | case4 f src p hsrc blk c hroom ih =>
    have hblk : c.1.length ≤ 16 + blk.length := length_container_le bsize blk
    have hcut : blk.length + (src.drop (2 ^ bsize)).length = src.length := by
      rw [← List.length_append, List.take_append_drop]
    simp only [List.length_append] at ih
    omega

/-- The fields of a container (R306): its payload's length, and the LZ4 block or the block itself. -/
theorem container_fields (bsize : Nat) {l : List Byte} (hle : l.length ≤ 2 ^ 20) :
    (container bsize l).1.length = 16 + recNat (container bsize l).1 8 4 ∧
    (16 + (lz4Encode l).length < l.length → (container bsize l).2 = false ∧
      (container bsize l).1.drop 16 = lz4Encode l ∧ recNat (container bsize l).1 2 1 = 0) ∧
    (¬ 16 + (lz4Encode l).length < l.length → (container bsize l).2 = true ∧ (container bsize l).1.drop 16 = l ∧
      recNat (container bsize l).1 2 1 = 1 ∧ recNat (container bsize l).1 8 4 = l.length) := by
  by_cases h : 16 + (lz4Encode l).length < l.length
  · rw [container_packed bsize h]
    have hstor := boxed_stor 0 bsize l.length (crc32c l) (lz4Encode l) []
    have hflags := boxed_flags 0 bsize l.length (crc32c l) (lz4Encode l) []
    simp only [List.append_nil] at hstor hflags
    exact ⟨by rw [boxed_length, hstor]; omega, fun _ => ⟨rfl, boxed_drop .., hflags⟩, fun hn => absurd h hn⟩
  · rw [container_raw bsize h]
    have hstor := boxed_stor 1 bsize l.length (crc32c l) l []
    have hflags := boxed_flags 1 bsize l.length (crc32c l) l []
    simp only [List.append_nil] at hstor hflags
    have hwhole : l.length % 2 ^ 32 = l.length := by omega
    rw [hwhole] at hstor
    exact ⟨by rw [boxed_length, hstor], fun hp => absurd hp h, fun _ => ⟨rfl, boxed_drop .., hflags, hstor⟩⟩

/-- Settles O42: by the two forms of a container, and by the blocks of a compress job. -/
theorem blocksArePackedOnlyWhenSmaller : Obligations.BlocksArePackedOnlyWhenSmaller := by
  unfold Obligations.BlocksArePackedOnlyWhenSmaller
  refine ⟨fun bsize l hle => container_fields bsize hle, fun r src hop => ?_⟩
  rw [compressionRun, if_pos hop]
  simpa using compressRun_out_le (cjBsize r) (cjDstLen r) (src.length + 1) src ⟨0, 0, 0, [], 0, 0⟩

end Sys2Proof.Machine
end

section
/-!
SUPPORT. The locks and jobs of the compression and cipher engines (R309 to R314, R328 to R336).
-/
namespace Sys2Proof.Machine

/-! ### The table of engines -/

@[simp] theorem getEng_setEng (s : State) (cip : Bool) (e : Nat) (v : Engine) : getEng (setEng s cip e v) cip e = v := by
  cases cip <;> simp [getEng, setEng, engTab]

@[simp] theorem getEng_bump (s : State) (i sub n : Nat) (cip : Bool) (e : Nat) :
    getEng (bump s i sub n) cip e = getEng s cip e := rfl

@[simp] theorem getEng_rangeWrite (s : State) (space : Nat) (slm : Bool) (a : Nat) (bs : List Byte) (cip : Bool) (e : Nat) :
    getEng (rangeWrite s space slm a bs) cip e = getEng s cip e := by
  cases slm <;> rfl

@[simp] theorem rangeRead_bump (s : State) (i sub n space : Nat) (slm : Bool) (a len : Nat) :
    rangeRead (bump s i sub n) space slm a len = rangeRead s space slm a len := rfl

@[simp] theorem rangeRead_setEng (s : State) (cip : Bool) (e : Nat) (v : Engine) (space : Nat) (slm : Bool) (a len : Nat) :
    rangeRead (setEng s cip e v) space slm a len = rangeRead s space slm a len := by
  cases cip <;> rfl

/-- What is written to a range is read back. -/
theorem rangeRead_rangeWrite (s : State) (space : Nat) (slm : Bool) (a : Nat) (bs : List Byte) :
    rangeRead (rangeWrite s space slm a bs) space slm a bs.length = bs := by
  cases slm <;> exact memRead_write _ _ _

/-! ### Requests of X syllables (R256) -/

/-- The thread may issue a syllable with this many result words at this offset. -/
def canAsk (s : State) (t result words : Nat) : Prop :=
  (getThr s t).state ≠ 0 ∧ (getThr s t).state ≠ 5 ∧ domainOn s 1 = true ∧
    (65536 ≤ t ∨ (result % 8 = 0 ∧ result + 8 * words ≤ (getThr s t).winSize * 4096))

theorem xRequest_of_canAsk {s : State} {t result words : Nat} (h : canAsk s t result words) (u : State) :
    xRequest s t result words u = u := by
  obtain ⟨hfree, hstopped, hon, hwin⟩ := h
  simp [xRequest, hfree, hstopped, hon, isControl, hwin]

/-! ### Lock requests (R309, R310) -/

section Lock
variable {s : State} {cip : Bool} {t : Nat} {r : List Byte}

/-- 0xFF stands for any engine (Table 11.2). -/
theorem ne_any_of_lt {e : Nat} (h : e < 32) : e ≠ 0xFF := by omega

theorem lockRequest_invalid (hok : lockRecOk r false = false) :
    lockRequest s cip ⟨t, r⟩ = lockReply s cip ⟨t, r⟩ 2 (recNat r 0 1) := by
  simp [lockRequest, hok]

theorem lockRequest_any {f : Nat} (hok : lockRecOk r false = true) (he : recNat r 0 1 = 0xFF)
    (hf : freeEngine s cip = some f) :
    lockRequest s cip ⟨t, r⟩ = lockTake s cip f ⟨t, r⟩ := by
  simp [lockRequest, hok, he, hf]

section Named
variable (hok : lockRecOk r false = true) (he : recNat r 0 1 < 32)
include hok he

theorem lockRequest_reserved (hmay : mayLock s cip (recNat r 0 1) t = false) :
    lockRequest s cip ⟨t, r⟩ = lockReply s cip ⟨t, r⟩ 3 (recNat r 0 1) := by
  simp [lockRequest, hok, ne_any_of_lt he, hmay]

variable (hmay : mayLock s cip (recNat r 0 1) t = true)
include hmay

theorem lockRequest_free (hfree : (getEng s cip (recNat r 0 1)).holder = 0) :
    lockRequest s cip ⟨t, r⟩ = lockTake s cip (recNat r 0 1) ⟨t, r⟩ := by
  simp [lockRequest, hok, ne_any_of_lt he, hmay, hfree]

theorem lockRequest_busy (hheld : (getEng s cip (recNat r 0 1)).holder ≠ 0) (hwait : bitOf (recNat r 1 1) 0 = false) :
    lockRequest s cip ⟨t, r⟩ = lockReply s cip ⟨t, r⟩ 1 (recNat r 0 1) := by
  simp [lockRequest, hok, ne_any_of_lt he, hmay, hheld, hwait]

theorem lockRequest_waits (hheld : (getEng s cip (recNat r 0 1)).holder ≠ 0) (hwait : bitOf (recNat r 1 1) 0 = true)
    (hroom : (getEng s cip (recNat r 0 1)).fifo.length < 256) :
    lockRequest s cip ⟨t, r⟩ = setEng s cip (recNat r 0 1)
      { (getEng s cip (recNat r 0 1)) with fifo := (getEng s cip (recNat r 0 1)).fifo ++ [⟨t, r⟩] } := by
  simp [lockRequest, hok, ne_any_of_lt he, hmay, hheld, hwait, hroom]

end Named

/-! ### Unlock requests (R310) -/

theorem unlockRequest_invalid (hok : lockRecOk r true = false) :
    unlockRequest s cip ⟨t, r⟩ = lockReply s cip ⟨t, r⟩ 2 (recNat r 0 1) := by
  simp [unlockRequest, hok]

theorem unlockRequest_notHeld (hok : lockRecOk r true = true)
    (hother : (getEng s cip (recNat r 0 1)).holder ≠ threadTag t) :
    unlockRequest s cip ⟨t, r⟩ = lockReply s cip ⟨t, r⟩ 3 (recNat r 0 1) := by
  simp [unlockRequest, hok, hother]

/-- An unlock with no job behind it is answered, and the engine passes on. -/
theorem unlockRequest_releases (hok : lockRecOk r true = true)
    (hheld : (getEng s cip (recNat r 0 1)).holder = threadTag t) (hjobs : (getEng s cip (recNat r 0 1)).jobs = [])
    (hunlocks : (getEng s cip (recNat r 0 1)).unlocks = []) :
    unlockRequest s cip ⟨t, r⟩ = settleHarbour (engRelease (lockReply (setEng s cip (recNat r 0 1)
      { (getEng s cip (recNat r 0 1)) with unlocks := [⟨t, r⟩] }) cip ⟨t, r⟩ 0 (recNat r 0 1)) cip (recNat r 0 1)) := by
  simp [unlockRequest, hok, hheld, hunlocks, settleUnlock, hjobs]

end Lock

/-! ### Jobs reach their engine (R312, R332) -/

section Jobs
variable {s : State} {t : Nat} {r : List Byte}

/-- A job refused with a code has done nothing. -/
def refusedJob (code : Nat) : CProg := ⟨code, 0, 0, [], 0, 0⟩

theorem compressionJob_invalid (h : cjInvalid s t r = true) :
    compressionJob s t r = compressionReply s ⟨t, r⟩ (refusedJob 2) := by
  simp [compressionJob, h, refusedJob]

section Valid
variable (hv : cjInvalid s t r = false)
include hv

theorem compressionJob_notHeld (h : (getEng s false (cjEngine r)).holder ≠ threadTag t) :
    compressionJob s t r = compressionReply s ⟨t, r⟩ (refusedJob 3) := by
  simp [compressionJob, hv, h, refusedJob]

theorem compressionJob_full (hheld : (getEng s false (cjEngine r)).holder = threadTag t)
    (h : 4 ≤ (getEng s false (cjEngine r)).jobs.length) :
    compressionJob s t r = compressionReply s ⟨t, r⟩ (refusedJob 6) := by
  simp [compressionJob, hv, hheld, h, refusedJob]

theorem compressionJob_queued (hheld : (getEng s false (cjEngine r)).holder = threadTag t)
    (h : (getEng s false (cjEngine r)).jobs.length < 4) :
    compressionJob s t r = setEng s false (cjEngine r)
      { (getEng s false (cjEngine r)) with jobs := (getEng s false (cjEngine r)).jobs ++ [⟨t, r⟩] } := by
  simp [compressionJob, hv, hheld, Nat.not_le.mpr h]

end Valid

theorem cipherJob_invalid (h : ciInvalid s t r = true) : cipherJob s t r = cipherReply s ⟨t, r⟩ 2 0 0 0 := by
  simp [cipherJob, h]

section Valid
variable (hv : ciInvalid s t r = false)
include hv

theorem cipherJob_notHeld (h : (getEng s true (ciEngine r)).holder ≠ threadTag t) :
    cipherJob s t r = cipherReply s ⟨t, r⟩ 3 0 0 0 := by
  simp [cipherJob, hv, h]

variable (hheld : (getEng s true (ciEngine r)).holder = threadTag t)
include hheld

theorem cipherJob_full (h : 4 ≤ (getEng s true (ciEngine r)).jobs.length) :
    cipherJob s t r = cipherReply s ⟨t, r⟩ 6 0 0 0 := by
  simp [cipherJob, hv, hheld, h]

variable (hroom : (getEng s true (ciEngine r)).jobs.length < 4)
include hroom

theorem cipherJob_noSlot (h : ciNoSlot s t r = true) : cipherJob s t r = cipherReply s ⟨t, r⟩ 7 0 0 0 := by
  simp [cipherJob, hv, hheld, Nat.not_le.mpr hroom, h]

theorem cipherJob_queued (h : ciNoSlot s t r = false) : cipherJob s t r = setEng s true (ciEngine r)
    { (getEng s true (ciEngine r)) with jobs := (getEng s true (ciEngine r)).jobs ++ [⟨t, r⟩] } := by
  simp [cipherJob, hv, hheld, Nat.not_le.mpr hroom, h]

end Valid
end Jobs

/-! ### Jobs end (R313, R314, R333 to R336) -/

section Ends
variable (s : State) (e : Nat) (j : EJob) (rest : List EJob)

/-- What the oldest job of a compression engine comes to. -/
def jobProg : CProg :=
  if cjInvalid s j.thread j.record then refusedJob 2 else compressionRun j.record
    (rangeRead s (getThr s j.thread).space (cjSslm j.record) (cjSrc j.record) (cjSrcLen j.record))

/-- The job has left its engine and what it produced stands at its destination. -/
def jobWritten : State :=
  let s' := rangeWrite s (getThr s j.thread).space (cjDslm j.record) (cjDst j.record) (jobProg s j).out
  setEng s' false e { (getEng s' false e) with jobs := rest }

/-- The job is counted (Table 11.6). -/
def jobCounted (u : State) (op : Nat) (p : CProg) : State :=
  let u := bump u 0x7040 3 p.orig
  let u := bump u 0x7040 4 (if op = 0 then p.out.length else p.consumed)
  let u := if op = 0 then bump u 0x7040 5 p.raw else u
  if p.code = 4 ∨ p.code = 5 then bump u 0x7040 6 1 else u

theorem compressionEnd_eq : compressionEnd s e j rest = settleUnlock (compressionReply
    (jobCounted (jobWritten s e j rest) (cjOp j.record) (jobProg s j)) j (jobProg s j)) false e := rfl

/-- Counting a job changes no range, no engine, no thread and no core. -/
theorem jobCounted_frame (u : State) (op : Nat) (p : CProg) (space a len : Nat) (slm : Bool) :
    rangeRead (jobCounted u op p) space slm a len = rangeRead u space slm a len ∧
    (getEng (jobCounted u op p) false e) = getEng u false e ∧
    (jobCounted u op p).hm = u.hm ∧ (jobCounted u op p).ik = u.ik := by
  unfold jobCounted
  dsimp only
  split_ifs <;> simp

/-- A job's product stands at its destination, its engine holds the jobs behind it, and threads and cores are as they
were. -/
theorem jobWritten_spec :
    rangeRead (jobWritten s e j rest) (getThr s j.thread).space (cjDslm j.record) (cjDst j.record) (jobProg s j).out.length =
      (jobProg s j).out ∧
    (getEng (jobWritten s e j rest) false e).jobs = rest ∧
    (jobWritten s e j rest).hm = s.hm ∧ (jobWritten s e j rest).ik = s.ik := by
  refine ⟨?_, by simp [jobWritten], ?_, ?_⟩
  · rw [jobWritten, rangeRead_setEng, rangeRead_rangeWrite]
  · cases h : cjDslm j.record <;> simp [jobWritten, rangeWrite, slmWrite, h]
  · cases h : cjDslm j.record <;> simp [jobWritten, rangeWrite, slmWrite, h]

/-- A job has left its cipher engine. -/
def cipherLeft : State := setEng s true e { (getEng s true e) with jobs := rest }

/-- The bytes the engine's message would hold with the job's payload (R330). -/
def messageSize : Nat := (if ciCont j.record then ((getMsg s e).map (·.total)).getD 0 else 0) + ciPayload j.record

theorem cipherEnd_invalid (h : ciInvalid (cipherLeft s e rest) j.thread j.record = true) :
    cipherEnd s e j rest = settleUnlock (cipherReply (cipherLeft s e rest) j 2 0 0 0) true e := by
  rw [cipherLeft] at h
  simp [cipherEnd, cipherLeft, h]

section Valid
variable (hv : ciInvalid (cipherLeft s e rest) j.thread j.record = false)
include hv

theorem cipherEnd_over (h : cipherLimit < messageSize s e j) :
    cipherEnd s e j rest = settleUnlock (cipherReply (cipherLeft s e rest) j 4 0 0 0) true e := by
  rw [cipherLeft] at hv
  rw [messageSize] at h
  simp only [cipherEnd, cipherLeft, hv, if_pos h, Bool.false_eq_true, if_false]

variable (hsize : messageSize s e j ≤ cipherLimit)
include hsize

theorem cipherEnd_sequence (h : ciSequence (getMsg s e) j.record = true) :
    cipherEnd s e j rest = settleUnlock (cipherReply (cipherLeft s e rest) j 8 0 0 0) true e := by
  rw [cipherLeft] at hv
  rw [messageSize] at hsize
  simp only [cipherEnd, cipherLeft, hv, if_neg (Nat.not_lt.mpr hsize), h, Bool.false_eq_true, if_false, if_true]

/-- A job in sequence runs on the engine's open message, or on the one it opens. -/
theorem cipherEnd_runs (h : ciSequence (getMsg s e) j.record = false) :
    cipherEnd s e j rest = settleUnlock (cipherRun (cipherLeft s e rest) e j ((getMsg s e).getD
      (newMsg (cipherLeft s e rest) (getThr s j.thread).space j.record))) true e := by
  rw [cipherLeft] at hv
  rw [messageSize] at hsize
  simp only [cipherEnd, cipherLeft, hv, if_neg (Nat.not_lt.mpr hsize), h, Bool.false_eq_true, if_false]
  cases getMsg s e <;> rfl

end Valid
end Ends

/-! ### The commands -/

section Commands
variable {s : State} {t e : Nat} {r : List Byte} {j : EJob} {rest : List EJob}

theorem exec_compressionJob (h : canAsk s t (recNat r 32 8) 2) :
    exec (.compressionJob t r) s = .next (compressionJob s t r) := congrArg _ (xRequest_of_canAsk h _)

theorem exec_cipherJob (h : canAsk s t (recNat r 56 8) 2) :
    exec (.cipherJob t r) s = .next (cipherJob s t r) := congrArg _ (xRequest_of_canAsk h _)

theorem exec_compressionJobEnd (h : (getEng s false e).jobs = j :: rest) :
    exec (.compressionJobEnd e) s = .next (compressionEnd s e j rest) := by
  show execCompressionJobEnd e s = _
  rw [execCompressionJobEnd, h]

theorem exec_cipherJobEnd (h : (getEng s true e).jobs = j :: rest) :
    exec (.cipherJobEnd e) s = .next (cipherEnd s e j rest) := by
  show execCipherJobEnd e s = _
  rw [execCipherJobEnd, h]

section Locks
variable (h : canAsk s t (recNat r 8 8) 1)
include h

theorem exec_compressionLock : exec (.compressionLock t r) s = .next (lockRequest s false ⟨t, r⟩) :=
  congrArg _ (xRequest_of_canAsk h _)

theorem exec_compressionUnlock : exec (.compressionUnlock t r) s = .next (unlockRequest s false ⟨t, r⟩) :=
  congrArg _ (xRequest_of_canAsk h _)

theorem exec_cipherLock : exec (.cipherLock t r) s = .next (lockRequest s true ⟨t, r⟩) :=
  congrArg _ (xRequest_of_canAsk h _)

theorem exec_cipherUnlock : exec (.cipherUnlock t r) s = .next (unlockRequest s true ⟨t, r⟩) :=
  congrArg _ (xRequest_of_canAsk h _)

end Locks
end Commands

/-- Settles O40: each request by the check that fails or by the engine it meets, each job's end by its outcome. -/
theorem engineLocksAndJobs : Obligations.EngineLocksAndJobs := by
  unfold Obligations.EngineLocksAndJobs
  refine ⟨?_, ?_⟩
  · intro s t r f at_ e j able rules hask
    have hrules : ∀ lock unlock cip, exec lock s = .next (lockRequest s cip j) →
        exec unlock s = .next (unlockRequest s cip j) → rules lock unlock cip := by
      intro lock unlock cip hlock hunlock
      dsimp only [rules]
      rw [hlock, hunlock]
      refine ⟨fun hok he hmay => ⟨fun hfree => congrArg _ (lockRequest_free hok he hmay hfree),
          fun hheld hwait => congrArg _ (lockRequest_busy hok he hmay hheld hwait),
          fun hheld hwait hroom => congrArg _ (lockRequest_waits hok he hmay hheld hwait hroom)⟩,
        fun hok he hmay => congrArg _ (lockRequest_reserved hok he hmay),
        fun hok he hf => congrArg _ (lockRequest_any hok he hf),
        fun hok => congrArg _ (lockRequest_invalid hok),
        fun hok hheld hjobs hunlocks => congrArg _ (unlockRequest_releases hok hheld hjobs hunlocks),
        fun hok hother => congrArg _ (unlockRequest_notHeld hok hother),
        fun hok => congrArg _ (unlockRequest_invalid hok)⟩
    exact ⟨hrules _ _ _ (exec_compressionLock hask) (exec_compressionUnlock hask),
      hrules _ _ _ (exec_cipherLock hask) (exec_cipherUnlock hask)⟩
  · intro s t e r j rest able c k none_
    refine ⟨?_, ?_, ?_, ?_⟩
    · intro refuses hask
      dsimp only [refuses]
      rw [exec_compressionJob hask]
      exact ⟨fun h => congrArg _ (compressionJob_invalid h), fun hv h => congrArg _ (compressionJob_notHeld hv h),
        fun hv hheld h => congrArg _ (compressionJob_full hv hheld h),
        fun hv hheld h => congrArg _ (compressionJob_queued hv hheld h)⟩
    · intro refuses hask
      dsimp only [refuses]
      rw [exec_cipherJob hask]
      exact ⟨fun h => congrArg _ (cipherJob_invalid h), fun hv h => congrArg _ (cipherJob_notHeld hv h),
        fun hv hheld h => congrArg _ (cipherJob_full hv hheld h),
        fun hv hheld hroom h => congrArg _ (cipherJob_noSlot hv hheld hroom h),
        fun hv hheld hroom h => congrArg _ (cipherJob_queued hv hheld hroom h)⟩
    · intro hjobs _
      obtain ⟨hread, hrest, hhm, hik⟩ := jobWritten_spec s e j rest
      obtain ⟨hcread, hceng, hchm, hcik⟩ := jobCounted_frame e (jobWritten s e j rest) (cjOp j.record) (jobProg s j)
        (getThr s j.thread).space (cjDst j.record) (jobProg s j).out.length (cjDslm j.record)
      exact ⟨_, exec_compressionJobEnd hjobs, _, compressionEnd_eq s e j rest, hcread.trans hread,
        (congrArg Engine.jobs hceng).trans hrest, hchm.trans hhm, hcik.trans hik⟩
    · intro hjobs _
      rw [exec_cipherJobEnd hjobs]
      refine ⟨fun h => congrArg _ (cipherEnd_invalid s e j rest h), fun hv =>
        ⟨fun h => congrArg _ (cipherEnd_over s e j rest hv h), fun hsize h =>
          congrArg _ (cipherEnd_sequence s e j rest hv hsize h), fun hsize h => ⟨fun m hm => ?_, fun hm => ?_⟩⟩⟩
      all_goals
        have hruns := cipherEnd_runs s e j rest hv hsize h
        rw [hm] at hruns
        exact congrArg _ hruns

end Sys2Proof.Machine
end

section
/-!
SUPPORT. Key Slot Load (R323 to R327) and Tenant Lease (R50 to R52, R349, R350): each by the checks it passes, and what
its effect leaves of the slots, of the tenant's record and of the pair.
-/
namespace Sys2Proof.Machine

/-- With no partner a change of state completes at once, with its dword 0. -/
theorem mirrorState_alone {s : State} (hp : s.pair.state = 0) (kind nsid : Nat) (body : List Byte) (a : Adm) (dw0 : Nat) :
    mirrorState s kind nsid body (.adm a dw0) = adminDone s a .success dw0 .none := by
  simp [mirrorState, hp, finishState]

/-! ### Key slots under a change -/

section Slots
variable (s : State)

/-- A commit to the logbook leaves the engines and their keys alone. -/
theorem eng_commitAt (sec line : Nat) : (commitAt s sec line).eng = s.eng := by
  obtain ⟨lb, h⟩ := commitAt_logbook s sec line
  rw [h, bump, dset_eng]

theorem pairState_commitAt (sec line : Nat) : (commitAt s sec line).pair.state = s.pair.state :=
  pairState_of_still (still_commitAt s sec line)

theorem getSlot_of_eng {s t : State} (h : t.eng = s.eng) (i : Nat) : getSlot t i = getSlot s i := by
  rw [getSlot, getSlot, h]

theorem eng_keyCounts : (keyCounts s).eng = s.eng := by
  unfold keyCounts
  exact (foldl_keeps State.eng (fun u _ => dset_eng u _ _ _) _ _).trans (dset_eng _ _ _ _)

theorem pair_keyCounts : (keyCounts s).pair = s.pair := by
  unfold keyCounts
  exact (foldl_keeps State.pair (fun u _ => dset_pair u _ _ _) _ _).trans (dset_pair _ _ _ _)

variable (i : Nat) (k : KeySlot)

/-- A slot takes its value, and the counters alone follow. -/
theorem eng_putSlot : (putSlot s i k).eng = (setSlot s i k).eng := by
  unfold putSlot
  dsimp only
  rw [eng_keyCounts]
  split <;> rfl

theorem pair_putSlot : (putSlot s i k).pair = s.pair := by
  unfold putSlot
  dsimp only
  rw [pair_keyCounts]
  split <;> rfl

@[simp] theorem getSlot_putSlot : getSlot (putSlot s i k) i = k :=
  (getSlot_of_eng (eng_putSlot s i k) i).trans (getSlot_setSlot s i k)

theorem getSlot_putSlot_other {j : Nat} (h : j ≠ i) : getSlot (putSlot s i k) j = getSlot s j :=
  (getSlot_of_eng (eng_putSlot s i k) j).trans (getSlot_setSlot_other s i j k h)

theorem moduleKey_putSlot : (putSlot s i k).eng.moduleKey = s.eng.moduleKey := by rw [eng_putSlot, setSlot]

end Slots

/-! ### The operations on a slot -/

section Operations
variable (s : State) (i kind tenant : Nat) (key : List Byte)

theorem slotOp_load : slotOp s i 0 kind tenant key = putSlot s i { getSlot s i with kind := kind, key := key } := rfl
theorem slotOp_clear : slotOp s i 1 kind tenant key = putSlot s i { getSlot s i with kind := 0, key := [] } := rfl
theorem slotOp_assign : slotOp s i 2 kind tenant key =
    putSlot s i ⟨0, [], if tenant = 0x7FF then none else some tenant⟩ := rfl

theorem pair_slotOp (op : Nat) : (slotOp s i op kind tenant key).pair = s.pair := by
  unfold slotOp
  split <;> exact pair_putSlot _ _ _

end Operations

section Commit
variable {s : State} {a : Adm} {i op kind tenant : Nat} {key wrapped : List Byte}

/-- On a line that takes commits, with no partner, a slot operation has its effect and completes. -/
theorem slotCommit_alone (hp : s.pair.state = 0) (hworn : commitWorn s 3 (slotLine i) = false) :
    slotCommit s a i op kind tenant key wrapped = adminOk (slotOp (commitAt s 3 (slotLine i)) i op kind tenant key) a := by
  have hpair : (slotOp (commitAt s 3 (slotLine i)) i op kind tenant key).pair.state = 0 := by
    rw [pair_slotOp, pairState_commitAt, hp]
  rw [slotCommit, hworn]
  exact mirrorState_single hpair _ _ _ _

end Commit

/-! ### Key Slot Load (Table 12.3) -/

section KeySlotLoad
variable {s : State} {a : Adm} {w0 w1 w2 : W32} {d : List Byte}

section Slot
variable (hc : kClean s a.fn w0 w1 w2 d = true)
include hc

theorem keySlotLoad_noModuleKey (hop : kOp w0 = 0) (hkey : s.eng.moduleKey = none) :
    keySlotLoad 0 a w0 w1 w2 d s = adminFail s a .commandSequenceError := by
  unfold keySlotLoad
  simp [hop, hc, hkey]

theorem keySlotLoad_badWrap {mk : List Byte} (hop : kOp w0 = 0) (hkey : s.eng.moduleKey = some mk)
    (hbusy : slotBusy s (kSlot w0) = false) (hwrap : keyUnwrap mk d = none) :
    keySlotLoad 0 a w0 w1 w2 d s = adminDone (bump s 0x7050 5 1) a .invalidField 1 .none := by
  unfold keySlotLoad
  simp [hop, hc, hkey, hbusy, hwrap, keyFail]

theorem keySlotClear_busy (hop : kOp w0 = 1) (hbusy : slotBusy s (kSlot w0) = true) :
    keySlotLoad 1 a w0 w1 w2 d s = adminFail s a .commandSequenceError := by
  unfold keySlotLoad
  simp [hop, hc, hbusy]

section Free
variable (hp : s.pair.state = 0) (hbusy : slotBusy s (kSlot w0) = false)
  (hworn : commitWorn s 3 (slotLine (kSlot w0)) = false)
include hp hbusy hworn

theorem keySlotLoad_loads {mk key : List Byte} (hop : kOp w0 = 0) (hkey : s.eng.moduleKey = some mk)
    (hwrap : keyUnwrap mk d = some key) : keySlotLoad 0 a w0 w1 w2 d s =
      adminOk (slotOp (commitAt s 3 (slotLine (kSlot w0))) (kSlot w0) 0 (kKind w0) 0 key) a := by
  unfold keySlotLoad
  simp [hop, hc, hkey, hbusy, hwrap, slotCommit_alone hp hworn]

theorem keySlotClear_clears (hop : kOp w0 = 1) : keySlotLoad 1 a w0 w1 w2 d s =
    adminOk (slotOp (commitAt s 3 (slotLine (kSlot w0))) (kSlot w0) 1 0 0 []) a := by
  unfold keySlotLoad
  simp [hop, hc, hbusy, slotCommit_alone hp hworn]

theorem keySlotAssign_assigns (hop : kOp w0 = 2) : keySlotLoad 2 a w0 w1 w2 d s =
    adminOk (slotOp (commitAt s 3 (slotLine (kSlot w0))) (kSlot w0) 2 0 (kTenant w1) []) a := by
  unfold keySlotLoad
  simp [hop, hc, hbusy, slotCommit_alone hp hworn]

end Free

/-! ### The module key -/

theorem moduleKeyInstall_installed (hop : kOp w0 = 3) (hkey : s.eng.moduleKey ≠ none) :
    keySlotLoad 3 a w0 w1 w2 d s = adminFail s a .commandSequenceError := by
  unfold keySlotLoad
  simp [hop, hc, Option.isSome_iff_ne_none.mpr hkey]

theorem moduleKeyInstall_installs (hworn : commitWorn s 3 modKeyLine = false) (hop : kOp w0 = 3)
    (hkey : s.eng.moduleKey = none) :
    keySlotLoad 3 a w0 w1 w2 d s = adminOk (setModuleKey (commitAt s 3 modKeyLine) (some d)) a := by
  unfold keySlotLoad
  simp [hop, hc, hkey, hworn]

theorem keyZeroize_busy (hop : kOp w0 = 4) (hjob : anyCipherJob s = true) :
    keySlotLoad 4 a w0 w1 w2 d s = adminFail s a .commandSequenceError := by
  unfold keySlotLoad
  simp [hop, hc, hjob]

end Slot

/-- The listed slots are cleared, one after another. -/
def clearSlots (s : State) (l : List Nat) : State := l.foldl (fun s i => slotOp s i 1 0 0 []) s

/-- The module key is gone, and every slot that holds something is cleared. -/
def zeroized (s : State) : State :=
  clearSlots (setModuleKey (commitAt s 3 modKeyLine) none) (tabKeys s.eng.slots)

theorem eng_setModuleKey (s : State) (k : Option (List Byte)) :
    (setModuleKey s k).eng = { s.eng with moduleKey := k } := rfl

theorem keyZeroize_zeroizes (hc : kClean s a.fn w0 w1 w2 d = true) (hp : s.pair.state = 0)
    (hworn : commitWorn s 3 modKeyLine = false) (hop : kOp w0 = 4) (hjob : anyCipherJob s = false) :
    keySlotLoad 4 a w0 w1 w2 d s = adminOk (zeroized s) a := by
  unfold keySlotLoad
  simp [hop, hc, hp, hjob, hworn, zeroized, clearSlots, tabKeys, eng_setModuleKey, eng_commitAt]

theorem clearSlots_cons (s : State) (i : Nat) (l : List Nat) :
    clearSlots s (i :: l) = clearSlots (slotOp s i 1 0 0 []) l := rfl

theorem moduleKey_clearSlots (s : State) (l : List Nat) : (clearSlots s l).eng.moduleKey = s.eng.moduleKey :=
  foldl_keeps (fun u => u.eng.moduleKey) (fun u i => moduleKey_putSlot u i _) l s

/-- A slot among those cleared is empty of its key, and every other is as it was. -/
theorem getSlot_clearSlots (s : State) (l : List Nat) (j : Nat) :
    getSlot (clearSlots s l) j = if j ∈ l then { getSlot s j with kind := 0, key := [] } else getSlot s j := by
  induction l generalizing s with
  | nil => rfl
  | cons i l ih =>
    rw [clearSlots_cons, ih, slotOp_clear]
    by_cases hj : j = i
    · subst hj
      simp
    · simp [getSlot_putSlot_other _ _ _ hj, hj]

/-- A key that no entry lists reads as the default. -/
theorem tabGet_of_notMem_keys {α : Type} (d : α) {t : Tab α} {k : Nat} (h : k ∉ tabKeys t) : tabGet d t k = d := by
  induction t with
  | nil => rfl
  | cons e t ih =>
    obtain ⟨hne, ht⟩ := List.ne_and_not_mem_of_not_mem_cons h
    rw [tabGet, if_neg hne.symm, ih ht]

/-- After zeroize no slot holds a key; each stays its tenant's. -/
theorem getSlot_zeroized (s : State) (j : Nat) :
    getSlot (zeroized s) j = { getSlot s j with kind := 0, key := [] } := by
  have hslot : getSlot (setModuleKey (commitAt s 3 modKeyLine) none) j = getSlot s j := by
    rw [getSlot, eng_setModuleKey, eng_commitAt, getSlot]
  rw [zeroized, getSlot_clearSlots, hslot]
  split
  next => rfl
  next hj =>
    have hempty : getSlot s j = KeySlot.empty := tabGet_of_notMem_keys _ hj
    rw [hempty, KeySlot.empty]

theorem moduleKey_zeroized (s : State) : (zeroized s).eng.moduleKey = none :=
  moduleKey_clearSlots _ _

end KeySlotLoad

/-! ### What a lease leaves alone -/

section Lease
variable (s : State)

theorem pair_persist (i sub v : Nat) : (persist s i sub v).pair = s.pair := by
  obtain ⟨dict, lb, h⟩ := persist_frame s i sub v
  rw [h]

theorem pair_clearBank (b : Nat) : (clearBank s b).pair = s.pair := rfl

theorem ashore_markNewest (space n : Nat) : ashore (markNewest space n s) = ashore s := by
  induction n generalizing s with
  | zero => rfl
  | succ n ih =>
    unfold markNewest
    split
    · exact ih _
    · rfl

/-- Cores marked and taken back change nothing ashore. -/
theorem ashore_takeBack (space : Nat) : ashore (takeBack s space) = ashore s := by
  have hmark : ashore (markTaking s space) = ashore s :=
    (ashore_markNewest _ _ _).trans (ashore_foldl (fun u c => ashore_setLease u c _) _ _)
  unfold takeBack
  exact (ashore_foldl ashore_settleTaking _ _).trans ((ashore_settleHold _ _).trans hmark)

theorem pair_of_ashore {s t : State} (h : ashore t = ashore s) : t.pair = s.pair := congrArg Ashore.pair h

theorem pair_kickIdle_takeBack (t : Nat) : (kickIdle (takeBack s t)).pair = s.pair :=
  pair_of_ashore ((ashore_kickIdle _).trans (ashore_takeBack s t))

/-- A lease leaves the pair as it is: it saves entries, clears banks and memory, and takes cores back. -/
theorem pair_leaseApply (t kind v : Nat) : (leaseApply s t kind v).pair = s.pair := by
  have hsaved : ((leaseEntries kind v).foldl (fun u e => persist u (0x6000 + t) e.1 e.2) s).pair = s.pair :=
    foldl_keeps State.pair (fun u e => pair_persist u _ _ _) _ s
  unfold leaseApply
  dsimp only
  by_cases h0 : kind = 0
  · subst h0
    exact (pair_kickIdle_takeBack _ t).trans hsaved
  rw [if_neg h0]
  by_cases h4 : kind = 4
  · subst h4
    exact (foldl_keeps State.pair pair_clearBank _ _).trans hsaved
  rw [if_neg h4]
  split <;> exact hsaved

/-- A lease of one entry does no more than save it. -/
theorem leaseApply_docketCeiling (t v : Nat) : leaseApply s t 2 v = persist s (0x6000 + t) 5 v := rfl
theorem leaseApply_fetchWeight (t v : Nat) : leaseApply s t 3 v = persist s (0x6000 + t) 6 v := rfl

/-- An entry of a tenant's record, saved, reads as its value. -/
theorem dget_persist_tenant (t sub v : Nat) : dget (persist s (0x6000 + t) sub v) (0x6000 + t) sub = v :=
  dget_persist_same _ _ _ _ (by unfold dk; omega)

end Lease

/-! ### Tenant Lease -/

section TenantLease
variable {s : State} {a : Adm} {w0 w1 : W32} {kind : Nat} (hlow : bitsOf w0.toNat 10 15 = 0)
  (hhigh : bitsOf w0.toNat 19 31 = 0)
include hlow hhigh

theorem tenantLease_readBack (hkind : bitsOf w0.toNat 16 18 = 5) : tenantLease 5 a w0 w1 s =
    adminDone s a .success (dget s (0x6000 + bitsOf w0.toNat 0 9) 5) .none := by
  simp [tenantLease, hkind, hlow, hhigh, leaseNow]

variable (hkind : bitsOf w0.toNat 16 18 = kind) (hlt : kind < 5)
include hkind hlt

theorem tenantLease_refused {st : Status}
    (hrefused : leaseRefusal s (bitsOf w0.toNat 0 9) kind w1.toNat = some st) :
    tenantLease kind a w0 w1 s = adminFail s a st := by
  simp [tenantLease, hkind, hlow, hhigh, hlt.ne, hrefused]

/-- With no partner a lease that is not refused takes effect, and is answered with the lease in force. -/
theorem tenantLease_applies (hp : s.pair.state = 0)
    (hrefusal : leaseRefusal s (bitsOf w0.toNat 0 9) kind w1.toNat = none)
    (hworn : leaseWorn s (bitsOf w0.toNat 0 9) kind w1.toNat = none) : tenantLease kind a w0 w1 s =
      adminDone (leaseApply s (bitsOf w0.toNat 0 9) kind w1.toNat) a .success
        (leaseNow (leaseApply s (bitsOf w0.toNat 0 9) kind w1.toNat) (bitsOf w0.toNat 0 9) kind) .none := by
  have hpair : (leaseApply s (bitsOf w0.toNat 0 9) kind w1.toNat).pair.state = 0 := by rw [pair_leaseApply, hp]
  simp [tenantLease, hkind, hlow, hhigh, hlt.ne, hrefusal, hworn, mirrorState_alone hpair]

end TenantLease

/-- A kind beyond those of Table 2.6 is refused. -/
theorem tenantLease_unknownKind {s : State} {a : Adm} {w0 w1 : W32} (hkind : bitsOf w0.toNat 16 18 = 6) :
    tenantLease 5 a w0 w1 s = adminFail s a .invalidField := by
  simp [tenantLease, hkind]

/-- Settles O29: each row has the effect of its function, which takes the branch of the premises; a slot then reads as
what was put there, and an entry of the tenant's record as what was saved. -/
theorem keySlotsAndTenantLeases : Obligations.KeySlotsAndTenantLeases := by
  unfold Obligations.KeySlotsAndTenantLeases
  refine ⟨fun s a w0 w1 w2 d ho hr hp hc => ?keys, fun s a w0 w1 ho hr hf hp hlow hhigh => ?leases⟩
  case keys =>
    intro i k u free t who fails
    have hadmin {x y : State} (h : x = y) : admin s a x = .next y := h ▸ admin_open ho hr x
    have hslot : getSlot u i = k := getSlot_of_eng (eng_commitAt s 3 _) i
    refine ⟨fun hop hkey => hadmin (keySlotLoad_noModuleKey hc hop hkey), fun hop mk key hkey ⟨hbusy, hworn⟩ =>
      ⟨fun hwrap => ⟨hadmin (keySlotLoad_loads hc hp hbusy hworn hop hkey hwrap), ?loaded⟩,
        fun hwrap => hadmin (keySlotLoad_badWrap hc hop hkey hbusy hwrap)⟩,
      fun hop ⟨hbusy, hworn⟩ => ⟨hadmin (keySlotClear_clears hc hp hbusy hworn hop), ?cleared⟩,
      fun hop ⟨hbusy, hworn⟩ => ⟨hadmin (keySlotAssign_assigns hc hp hbusy hworn hop), ?assigned⟩,
      fun hop hbusy => hadmin (keySlotClear_busy hc hop hbusy),
      fun hop hworn => ⟨fun hkey => hadmin (moduleKeyInstall_installs hc hworn hop hkey),
        fun hkey => hadmin (moduleKeyInstall_installed hc hop hkey)⟩,
      fun hop hworn hjob => ⟨zeroized s, hadmin (keyZeroize_zeroizes hc hp hworn hop hjob), moduleKey_zeroized s,
        fun j => ?zeroized⟩,
      fun hop hjob => hadmin (keyZeroize_busy hc hop hjob)⟩
    case loaded => rw [slotOp_load, getSlot_putSlot, hslot]
    case cleared => rw [slotOp_clear, getSlot_putSlot, hslot]
    case assigned => rw [slotOp_assign, getSlot_putSlot]
    case zeroized =>
      rw [getSlot_zeroized]
      exact ⟨rfl, rfl, rfl⟩
  case leases =>
    intro t v kind takes
    have hadmin {x y : State} (h : x = y) : adminPf s a x = .next y := h ▸ adminPf_open ho hr hf x
    have htakes {c : Instr} {k : Nat} (hk : k < 5) (hexec : exec c s = adminPf s a (tenantLease k a w0 w1 s)) :
        takes c k := fun hkind =>
      ⟨fun hrefusal hworn => hexec.trans (hadmin (tenantLease_applies hlow hhigh hkind hk hp hrefusal hworn)),
        fun st hst => hexec.trans (hadmin (tenantLease_refused hlow hhigh hkind hk hst))⟩
    refine ⟨htakes (by decide) rfl, htakes (by decide) rfl, htakes (by decide) rfl, htakes (by decide) rfl,
      htakes (by decide) rfl, fun hkind => hadmin (tenantLease_readBack hlow hhigh hkind),
      fun hkind => hadmin (tenantLease_unknownKind hkind), fun _ _ => ?ceiling, fun _ _ => ?weight⟩
    case ceiling => rw [leaseApply_docketCeiling, dget_persist_tenant]
    case weight => rw [leaseApply_fetchWeight, dget_persist_tenant]

end Sys2Proof.Machine
end

section
/-!
SUPPORT. What a step does with a command (98_reader.md), and that every command has a next state.
-/
namespace Sys2Proof.Machine

/-- Settles O57: the step takes the front command and hands it the queue's rest. -/
theorem stepRunsTheFrontCommand : Obligations.StepRunsTheFrontCommand := by
  unfold Obligations.StepRunsTheFrontCommand
  intro s c rest
  rfl

/-- Settles O59: every command ends in a state that keeps the commands that wait. -/
theorem commandsCompleteAndLeaveTheQueue : Obligations.CommandsCompleteAndLeaveTheQueue := by
  unfold Obligations.CommandsCompleteAndLeaveTheQueue
  intro s c
  obtain ⟨t, hexec, hkept⟩ := exec_ends c s
  exact ⟨t, hexec, hkept.pending⟩

end Sys2Proof.Machine
end

section
/-!
SUPPORT. The rows of the tally array and the entries they make (R345, R350 to R355): what a load writes, and when an
entry matches a key.
-/
namespace Sys2Proof.Machine

/-! ### Bits -/

theorem bitOf_eq_testBit (v i : Nat) : bitOf v i = v.testBit i := by
  rw [Nat.testBit_eq_decide_div_mod_eq, bitOf, beq_eq_decide]

theorem bitOf_and (v w i : Nat) : bitOf (v &&& w) i = (bitOf v i && bitOf w i) := by
  simp only [bitOf_eq_testBit, Nat.testBit_and]

/-- Two numbers of `n` bits are equal when their bits are. -/
theorem eq_iff_bitOf_eq {v w n : Nat} (hv : v < 2 ^ n) (hw : w < 2 ^ n) :
    v = w ↔ ∀ i, i < n → bitOf v i = bitOf w i := by
  refine ⟨fun h _ _ => by rw [h], fun h => Nat.eq_of_testBit_eq fun i => ?_⟩
  by_cases hi : i < n
  · rw [← bitOf_eq_testBit, ← bitOf_eq_testBit, h i hi]
  · have hpow : 2 ^ n ≤ 2 ^ i := Nat.pow_le_pow_right (by omega) (by omega)
    rw [Nat.testBit_lt_two_pow (hv.trans_le hpow), Nat.testBit_lt_two_pow (hw.trans_le hpow)]

theorem part160_lt (v k : Nat) : part160 v k < 2 ^ 160 := Nat.mod_lt _ (by omega)

/-! ### Rows -/

/-- The state with the rows from `i` on set to `f 0`, `f 1` and so on, `n` of them. -/
def rowsSet (s : State) (i n : Nat) (f : Nat → Row) : State :=
  (List.range n).foldl (fun s k => setRow s (i + k) (f k)) s

theorem rowsSet_succ (s : State) (i n : Nat) (f : Nat → Row) :
    rowsSet s i (n + 1) f = setRow (rowsSet s i n f) (i + n) (f n) := by
  simp [rowsSet, List.range_succ]

theorem getRow_rowsSet_outside (s : State) {i j n : Nat} (f : Nat → Row) (h : j < i ∨ i + n ≤ j) :
    getRow (rowsSet s i n f) j = getRow s j := by
  induction n with
  | zero => rfl
  | succ n ih => rw [rowsSet_succ, getRow_setRow_other _ _ _ _ (by omega), ih (by omega)]

theorem getRow_rowsSet_inside (s : State) {i k n : Nat} (f : Nat → Row) (h : k < n) :
    getRow (rowsSet s i n f) (i + k) = f k := by
  induction n with
  | zero => omega
  | succ n ih =>
    rw [rowsSet_succ]
    by_cases hk : k = n
    · rw [hk, getRow_setRow]
    · rw [getRow_setRow_other _ _ _ _ (by omega), ih (by omega)]

/-! ### Loads -/

/-- Row `k` of the entry that a load record of kind 0 spells. -/
def ldRow (r : List Byte) (k : Nat) : Row :=
  { value := part160 (ldValue r) k &&& part160 (ldCare r) k, care := part160 (ldCare r) k, valid := true }

section Load
variable (s : State) {r : List Byte}

theorem ldApply_entry (h : ldKind r = 0) :
    ldApply s r = rowsSet s (ldIndex r) (rowsPer (bankWidth s (ldIndex r / 512))) (ldRow r) := by
  simp only [ldApply, if_pos h]
  rfl

theorem ldApply_invalidate (h : ldKind r = 2) :
    ldApply s r = { s with tally := { s.tally with
      rows := s.tally.rows.filter (fun e => decide (e.1 < ldIndex r) || decide (ldIndex r + ldRows r ≤ e.1)) } } := by
  simp [ldApply, h]

theorem getRow_ldApply_inside {k : Nat} (h : ldKind r = 0) (hk : k < rowsPer (bankWidth s (ldIndex r / 512))) :
    getRow (ldApply s r) (ldIndex r + k) = ldRow r k := by
  rw [ldApply_entry s h, getRow_rowsSet_inside s _ hk]

theorem getRow_ldApply_outside {i : Nat} (h : ldKind r = 0)
    (hi : i < ldIndex r ∨ ldIndex r + rowsPer (bankWidth s (ldIndex r / 512)) ≤ i) :
    getRow (ldApply s r) i = getRow s i := by
  rw [ldApply_entry s h, getRow_rowsSet_outside s _ hi]

theorem getRow_invalidate_outside {i : Nat} (h : ldKind r = 2) (hi : i < ldIndex r ∨ ldIndex r + ldRows r ≤ i) :
    getRow (ldApply s r) i = getRow s i := by
  rw [ldApply_invalidate s h]
  refine tabGet_filter_other _ _ _ _ fun v => ?_
  simpa using hi

end Load

/-- A key that a filter drops reads as an unlisted one. -/
theorem tabGet_filter_dropped {α : Type} (d : α) (p : Nat × α → Bool) (t : Tab α) (k : Nat)
    (h : ∀ v, p (k, v) = false) : tabGet d (t.filter p) k = d := by
  induction t with
  | nil => rfl
  | cons e t ih =>
    obtain ⟨j, w⟩ := e
    rw [List.filter_cons]
    split
    next hp =>
      have hj : j ≠ k := by rintro rfl; simp [h] at hp
      rw [tabGet, if_neg hj, ih]
    next => exact ih

theorem getRow_invalidate_inside (s : State) {r : List Byte} {i : Nat} (h : ldKind r = 2) (hlo : ldIndex r ≤ i)
    (hhi : i < ldIndex r + ldRows r) : getRow (ldApply s r) i = Row.empty := by
  rw [ldApply_invalidate s h]
  refine tabGet_filter_dropped _ _ _ _ fun v => ?_
  simp only [Bool.or_eq_false_iff, decide_eq_false_iff_not]
  omega

/-! ### Matches -/

/-- A row matches its part of a key when it is valid and the bits it cares for agree. -/
theorem ldRow_matches_iff (r : List Byte) (key k : Nat) :
    ((ldRow r k).valid && (part160 key k &&& (ldRow r k).care) == (ldRow r k).value) = true ↔
      ∀ b, b < 160 → bitOf (part160 (ldCare r) k) b = false ∨
        bitOf (part160 key k) b = bitOf (part160 (ldValue r) k) b := by
  simp only [ldRow, Bool.true_and, beq_iff_eq]
  rw [eq_iff_bitOf_eq (Nat.and_lt_two_pow _ (part160_lt _ k)) (Nat.and_lt_two_pow _ (part160_lt _ k))]
  refine forall₂_congr fun b _ => ?_
  rw [bitOf_and, bitOf_and]
  cases bitOf (part160 (ldCare r) k) b <;> simp

theorem entryMatches_iff (s : State) (w key i : Nat) :
    entryMatches s w key i = true ↔ ∀ k, k < rowsPer w →
      ((getRow s (i + k)).valid && (part160 key k &&& (getRow s (i + k)).care) == (getRow s (i + k)).value) = true := by
  simp only [entryMatches, List.all_eq_true, List.mem_range]

/-- Settles O43: the rows of a loaded entry are those its record spells, and an entry matches row by row. -/
theorem tallyEntriesMatchByCareAndValue : Obligations.TallyEntriesMatchByCareAndValue := by
  unfold Obligations.TallyEntriesMatchByCareAndValue
  intro s r key k b hkind
  refine ⟨fun hk => ?stored, ?matched, fun hk hinvalid => ?invalid⟩
  case stored =>
    rw [getRow_ldApply_inside s hkind hk]
    exact ⟨rfl, fun _ => ⟨rfl, (bitOf_and _ _ _).trans (Bool.and_comm _ _)⟩⟩
  case matched =>
    rw [entryMatches_iff]
    refine forall₂_congr fun k hk => ?_
    rw [getRow_ldApply_inside s hkind hk, ldRow_matches_iff]
  case invalid =>
    rw [Bool.eq_false_iff, ne_eq, entryMatches_iff]
    intro hall
    simpa [hinvalid] using hall k hk

/-! ### The commands of threads -/

section Thread
variable {s : State} {t : Nat} {r : List Byte}

/-- Counting leaves what a search reads: the rows and the banks. -/
@[simp] theorem tallyCount_tally (s : State) (sub code : Nat) : (tallyCount s sub code).tally = s.tally := by
  unfold tallyCount
  split <;> rfl

theorem matchesOf_congr {s u : State} (h : u.tally = s.tally) (first n key : Nat) (after : Option Nat) :
    matchesOf u first n key after = matchesOf s first n key after := by
  simp only [matchesOf, bankPowered, bankWidth, bankCfg, entryMatches, getRow, h]

/-- A search that does not cascade answers at once, with the word of its matches. -/
theorem searchAt_local (s : State) (space first n key : Nat) (after : Option Nat) (t : Nat) (d : Option Nat)
    (r : List Byte) : searchAt s space first n key after false t d r =
      (notePower s first n key, some (searchWord (matchesOf s first n key after) false)) := rfl

/-- The code a search of a thread is answered with. -/
def threadSearchCode (s : State) (t : Nat) (r : List Byte) (next : Bool) : Nat :=
  searchCode s (getThr s t).space (srFirst r) (srN r) (srClean s r next)

theorem tallySearch_local {next : Bool} (h : threadSearchCode s t r next = 0) (hlocal : srCascade r = false) :
    tallySearch s t r next = tallyReply (notePower (tallyCount s 1 0) (srFirst r) (srN r) (srKey r)) t r (recNat r 20 4)
      (searchWord (matchesOf s (srFirst r) (srN r) (srKey r) (if next then some (srStart r) else none)) false) := by
  have hcode : searchCode s (getThr s t).space (srFirst r) (srN r) (srClean s r next) = 0 := h
  simp only [tallySearch, hcode, hlocal, searchAt_local, ne_eq, not_true_eq_false, if_false]
  rw [matchesOf_congr (tallyCount_tally s 1 0)]

theorem tallySearch_refused {next : Bool} (h : threadSearchCode s t r next ≠ 0) :
    tallySearch s t r next =
      tallyReply (tallyCount s 1 (threadSearchCode s t r next)) t r (recNat r 20 4) (threadSearchCode s t r next) :=
  if_pos h

theorem tallyLoad_applied {kinds : List Nat} (h : ldCode s (getThr s t).space kinds r = 0) :
    tallyLoad s t r kinds = tallyReply (ldApply (tallyCount s 2 0) r) t r (recNat r 16 4) 0 := by
  simp [tallyLoad, ldResolve, h]

theorem tallyLoad_refused {kinds : List Nat} (h : ldCode s (getThr s t).space kinds r ≠ 0) :
    tallyLoad s t r kinds = tallyReply (tallyCount s 2 (ldCode s (getThr s t).space kinds r)) t r (recNat r 16 4)
      (ldCode s (getThr s t).space kinds r) := by
  simp [tallyLoad, ldResolve, h]

variable (h : canAsk s t (recNat r 0 8) 1)
include h

theorem exec_tallySearchOp : exec (.tallySearchOp t r) s = .next (tallySearch s t r false) :=
  congrArg _ (xRequest_of_canAsk h _)

theorem exec_tallyNext : exec (.tallyNext t r) s = .next (tallySearch s t r true) :=
  congrArg _ (xRequest_of_canAsk h _)

theorem exec_tallyLoadOp : exec (.tallyLoadOp t r) s = .next (tallyLoad s t r [0, 1]) :=
  congrArg _ (xRequest_of_canAsk h _)

theorem exec_tallyInvalidate : exec (.tallyInvalidate t r) s = .next (tallyLoad s t r [2]) :=
  congrArg _ (xRequest_of_canAsk h _)

end Thread

/-- A bank of another tenant is refused before any field is looked at (log entry 18). -/
theorem searchCode_foreign {s : State} {space first n : Nat} (h : bankOk s space first = false) (hn : n ≠ 0)
    (clean : Bool) : searchCode s space first n clean = 1 := by
  have hforeign : (List.range n).all (fun k => bankOk s space (first + k)) = false := by
    rw [List.all_eq_false]
    exact ⟨0, List.mem_range.2 (by omega), by simp [h]⟩
  simp [searchCode, hforeign]

/-- Settles O44: the commands of a thread that may ask, by the code of their record; then what a load changes. -/
theorem tallyLoadsAndSearches : Obligations.TallyLoadsAndSearches := by
  unfold Obligations.TallyLoadsAndSearches
  intro s t r i
  refine ⟨fun hable => ?commands, fun hkind hi => getRow_ldApply_outside s hkind hi,
    fun hkind => ⟨fun hlo hhi => getRow_invalidate_inside s hkind hlo hhi, fun hi => getRow_invalidate_outside s hkind hi⟩,
    fun hforeign hn _ => searchCode_foreign hforeign hn _⟩
  have hask : canAsk s t (recNat r 0 8) 1 := hable
  refine ⟨fun hlocal => ⟨fun hc => ?found, fun hc => ?nextFound⟩, fun hc => ?refused, fun hc => ?nextRefused,
    ⟨fun hc => ?loaded, fun hc => ?loadRefused⟩, fun hc => ?invalidated, fun hc => ?invalidateRefused⟩
  case found => rw [exec_tallySearchOp hask, tallySearch_local hc hlocal]; rfl
  case nextFound => rw [exec_tallyNext hask, tallySearch_local hc hlocal]; rfl
  case refused => rw [exec_tallySearchOp hask, tallySearch_refused hc]; rfl
  case nextRefused => rw [exec_tallyNext hask, tallySearch_refused hc]; rfl
  case loaded => rw [exec_tallyLoadOp hask, tallyLoad_applied hc]
  case loadRefused => rw [exec_tallyLoadOp hask, tallyLoad_refused hc]
  case invalidated => rw [exec_tallyInvalidate hask, tallyLoad_applied hc]
  case invalidateRefused => rw [exec_tallyInvalidate hask, tallyLoad_refused hc]

end Sys2Proof.Machine
end

section
/-!
SUPPORT. The host's Tally Load and Tally Search (R356 to R360), and the frames of the cascade (R472 to R475, Table 18.6).
-/
namespace Sys2Proof.Machine

/-! ### Host commands -/

section Host
variable {s : State} {d : Nat}

theorem exec_tallyLoad (h : dkStart s d .tallyLoad = true) : exec (.tallyLoad d) s = .next (hostTallyLoad s d) :=
  io_started h _

theorem exec_tallySearch (h : dkStart s d .tallySearch = true) :
    exec (.tallySearch d) s = .next (settleAll (hostTallySearch s d)) := io_started h _

section Load
variable (hclean : bitsOf (ioDw (getDk s d) 2) 16 31 = 0)
include hclean

theorem hostTallyLoad_beyondLease (h : ioLease s (getDk s d) < tcSrc (getDk s d) + 184 * tcCount (getDk s d)) :
    hostTallyLoad s d = ioFail s d (.vendor 0x82) := by
  simp [hostTallyLoad, hclean, h]

variable (hlease : tcSrc (getDk s d) + 184 * tcCount (getDk s d) ≤ ioLease s (getDk s d))
include hlease

theorem hostTallyLoad_loaded (h : (loadRecords (getDk s d) (tcCount (getDk s d)) 0 s).2.2 = 0) :
    hostTallyLoad s d = ioOk (loadRecords (getDk s d) (tcCount (getDk s d)) 0 s).1 d := by
  simp [hostTallyLoad, hclean, hlease.not_gt, h]

theorem hostTallyLoad_badRecord (h : (loadRecords (getDk s d) (tcCount (getDk s d)) 0 s).2.2 = 2) :
    hostTallyLoad s d = ioDone (loadRecords (getDk s d) (tcCount (getDk s d)) 0 s).1 d .invalidField
      (loadRecords (getDk s d) (tcCount (getDk s d)) 0 s).2.1 0 .none := by
  simp [hostTallyLoad, hclean, hlease.not_gt, h]

end Load

/-- Asking for a berth leaves the banks, and so the length of a key. -/
theorem tsKeyBytes_dkAsk (s : State) (d : Nat) (e : Docket) : tsKeyBytes (dkAsk s d) e = tsKeyBytes s e := by
  have hashore : ashore (dkAsk s d) = ashore s := by
    unfold dkAsk
    dsimp only
    repeat' split
    all_goals simp
  have htally : (dkAsk s d).tally = s.tally := congrArg Ashore.tally hashore
  simp only [tsKeyBytes, bankWidth, bankCfg, htally]

/-- The state in which a Tally Search has its berth and searches its keys, `n` bytes of them. -/
def keysSearched (d count n : Nat) (u : State) : State :=
  searchKeys d count 0 (modDk (stageKeys u (getDk u d) n) d (fun e => { e with started := true, word := .committed }))

/-- The fields of a Tally Search are valid, and its keys and results lie in the lease of its function. -/
structure SearchFormed (s : State) (e : Docket) : Prop where
  reserved2 : bitsOf (ioDw e 2) 16 31 = 0
  reserved4 : bitsOf (ioDw e 4) 19 31 = 0
  some_banks : tsN e ≠ 0
  all_banks : tsN e ≤ 256

section Search
variable (hf : SearchFormed s (getDk s d))
include hf

theorem hostTallySearch_resultsBeyond (h : ioLease s (getDk s d) < tsRes (getDk s d) + 8 * tcCount (getDk s d)) :
    hostTallySearch s d = ioFail s d (.vendor 0x82) := by
  simp [hostTallySearch, hf.reserved2, hf.reserved4, hf.some_banks, hf.all_banks.not_gt, h]

variable (hkeys : tcSrc (getDk s d) + tsKeyBytes s (getDk s d) * tcCount (getDk s d) ≤ ioLease s (getDk s d))
  (hres : tsRes (getDk s d) + 8 * tcCount (getDk s d) ≤ ioLease s (getDk s d))
include hkeys hres

theorem hostTallySearch_berthed (h : (getDk s d).berths ≠ []) :
    hostTallySearch s d =
      keysSearched d (tcCount (getDk s d)) (tsKeyBytes s (getDk s d) * tcCount (getDk s d)) s := by
  simp [hostTallySearch, hf.reserved2, hf.reserved4, hf.some_banks, hf.all_banks.not_gt, hkeys.not_gt, hres.not_gt, h,
    keysSearched]

variable (hnone : (getDk s d).berths = [])
include hnone

theorem hostTallySearch_noBerth (h : (bitOf (ioDw (getDk s d) 4) 18 && decide (freeCountOf s true = 0)) = true) :
    hostTallySearch s d = ioFail (countCode s 1) d (.vendor 0x81) := by
  obtain ⟨hnowait, hfree⟩ : bitOf (ioDw (getDk s d) 4) 18 = true ∧ freeCountOf s true = 0 := by simpa using h
  simp [hostTallySearch, hf.reserved2, hf.reserved4, hf.some_banks, hf.all_banks.not_gt, hkeys.not_gt, hres.not_gt, hnone,
    hnowait, hfree]

variable (hwait : (bitOf (ioDw (getDk s d) 4) 18 && decide (freeCountOf s true = 0)) = false)
include hwait

/-- A search that has asked for its berth already waits for it. -/
theorem hostTallySearch_asked (h : ownAsked s (dkReq (getDk s d) d) ≠ 0) : hostTallySearch s d = s := by
  have hwait' : ¬ (bitOf (ioDw (getDk s d) 4) 18 = true ∧ freeCountOf s true = 0) := by simpa using hwait
  simp [hostTallySearch, hf.reserved2, hf.reserved4, hf.some_banks, hf.all_banks.not_gt, hkeys.not_gt, hres.not_gt, hnone,
    h, hwait']

/-- It asks for one, and goes on once it has it. -/
theorem hostTallySearch_asks (h : ownAsked s (dkReq (getDk s d) d) = 0) :
    hostTallySearch s d = if (getDk (dkAsk s d) d).berths = [] then dkAsk s d else
      keysSearched d (tcCount (getDk s d)) (tsKeyBytes s (getDk s d) * tcCount (getDk s d)) (dkAsk s d) := by
  have hwait' : ¬ (bitOf (ioDw (getDk s d) 4) 18 = true ∧ freeCountOf s true = 0) := by simpa using hwait
  simp [hostTallySearch, hf.reserved2, hf.reserved4, hf.some_banks, hf.all_banks.not_gt, hkeys.not_gt, hres.not_gt, hnone,
    h, hwait', keysSearched, tsKeyBytes_dkAsk]

end Search
end Host

/-! ### Words of frames -/

theorem ofLe_append (a b : List Byte) : ofLe (a ++ b) = ofLe a + 256 ^ a.length * ofLe b := by
  induction a with
  | nil => simp [ofLe]
  | cons x a ih =>
    simp only [List.cons_append, ofLe, ih, List.length_cons, pow_succ']
    ring

/-- The lowest `n` words of a key. -/
def tallyWords (key n : Nat) : List W64 := (List.range n).map (fun k => BitVec.ofNat 64 (key / 2 ^ (64 * k)))

@[simp] theorem length_tallyWords (key n : Nat) : (tallyWords key n).length = n := by simp [tallyWords]

theorem wordBytes_append (a b : List W64) : wordBytes (a ++ b) = wordBytes a ++ wordBytes b := by simp [wordBytes]

@[simp] theorem length_wordBytes (ws : List W64) : (wordBytes ws).length = 8 * ws.length := by
  induction ws with
  | nil => rfl
  | cons w ws ih =>
    have hcons : wordBytes (w :: ws) = leBytes 8 w.toNat ++ wordBytes ws := rfl
    rw [hcons, List.length_append, leBytes_length, ih, List.length_cons]
    omega

/-- The bytes of a key's words spell the key. -/
theorem ofLe_tallyWords (key n : Nat) : ofLe (wordBytes (tallyWords key n)) = key % 2 ^ (64 * n) := by
  induction n with
  | zero => simp [tallyWords, wordBytes, ofLe, Nat.mod_one]
  | succ n ih =>
    have hlast : tallyWords key (n + 1) = tallyWords key n ++ [BitVec.ofNat 64 (key / 2 ^ (64 * n))] := by
      simp [tallyWords, List.range_succ]
    have hword : wordBytes [BitVec.ofNat 64 (key / 2 ^ (64 * n))] = leBytes 8 (key / 2 ^ (64 * n) % 2 ^ 64) := by
      simp [wordBytes]
    have hpow : 256 ^ (8 * n) = 2 ^ (64 * n) := by
      rw [show 256 = 2 ^ 8 by rfl, ← Nat.pow_mul]
      congr 1
      omega
    rw [hlast, wordBytes_append, ofLe_append, ih, hword, ofLe_leBytes, length_wordBytes, length_tallyWords, hpow,
      show 64 * (n + 1) = 64 * n + 64 by omega, Nat.pow_add, Nat.mod_mul]
    simp

/-! ### Request frames -/

theorem frameOk_cascadeFrame (ws : List W64) : frameOk (cascadeFrame ws) = true := by simp [frameOk, cascadeFrame]

theorem requestFrame_search (space tag w first n key : Nat) : requestFrame space tag w first n key none =
    cascadeHeader 1 w first n space tag :: 0#64 :: (tallyWords key (keyWordsOf w) ++ [BitVec.ofNat 64 (crc32c (wordBytes
      (cascadeHeader 1 w first n space tag :: 0#64 :: tallyWords key (keyWordsOf w))))]) := rfl

/-- The words of a frame are wide enough for the keys of its width. -/
theorem keyBits_le_words {w : Nat} (h : w < 3) : keyBits w ≤ 64 * keyWordsOf w := by
  obtain rfl | rfl | rfl : w = 0 ∨ w = 1 ∨ w = 2 := by omega
  all_goals decide

/-- The fields of a request's header, read back. -/
structure HeaderFields (h space tag w first n : Nat) : Prop where
  ftype : bitsOf h 0 3 = 1
  width : bitsOf h 4 5 = w
  reserved : bitsOf h 6 7 = 0
  first : bitsOf h 8 15 = first
  banks : bitsOf h 16 24 = n
  space : bitsOf h 25 35 = space
  tag : bitsOf h 36 47 = tag
  top : bitsOf h 48 63 = 0

theorem headerFields_of_lt {space tag w first n : Nat} (hspace : space ≤ 1024) (htag : tag < 4096) (hw : w < 3)
    (hfirst : first < 256) (hn : n ≤ 256) :
    HeaderFields (cascadeHeader 1 w first n space tag).toNat space tag w first n := by
  have hvalue : (cascadeHeader 1 w first n space tag).toNat =
      1 + w * 2 ^ 4 + first * 2 ^ 8 + n * 2 ^ 16 + space * 2 ^ 25 + tag * 2 ^ 36 := by
    rw [cascadeHeader, BitVec.toNat_ofNat, Nat.mod_eq_of_lt (by omega)]
  rw [hvalue]
  constructor <;> (simp only [bitsOf]; omega)

section Cascade
variable {s : State} {space tag first n key : Nat}

/-- A request of valid fields is resolved on the banks it names and answered under its tag. -/
theorem exec_cascadeRequest_answers (hup : s.tally.miUp = true) (hon : domainOn s 1 = true) (hspace : space ≤ 1024)
    (htag : tag < 4096) (hfirst : first < 256) (hn : 1 ≤ n) (hn2 : n ≤ 256) (hw : bankWidth s first < 3)
    (hkey : key < 2 ^ keyBits (bankWidth s first)) (hcode : searchCode s space first n true = 0) :
    exec (.cascadeRequest (requestFrame space tag (bankWidth s first) first n key none)) s =
      .next (emit (notePower (bump (tallyCount s 1 0) 0x7070 3 1) first n key) (.cascade (cascadeFrame
        [cascadeHeader 3 0 0 0 0 tag, BitVec.ofNat 64 (searchWord (matchesOf s first n key none) false)]))) := by
  obtain ⟨hftype, hwidth, hres, hfirst', hbanks, hspace', htag', htop⟩ := headerFields_of_lt hspace htag hw hfirst hn2
  have hread : recNat (wordBytes (tallyWords key (keyWordsOf (bankWidth s first)))) 0 (8 * keyWordsOf (bankWidth s first)) =
      key := by
    rw [recNat, List.drop_zero, List.take_of_length_le (by simp), ofLe_tallyWords]
    exact Nat.mod_eq_of_lt (hkey.trans_le (Nat.pow_le_pow_right (by omega) (keyBits_le_words hw)))
  have hframe := frameOk_cascadeFrame
    (cascadeHeader 1 (bankWidth s first) first n space tag :: 0#64 :: tallyWords key (keyWordsOf (bankWidth s first)))
  have hmatches : matchesOf (bump (tallyCount s 1 0) 0x7070 3 1) first n key none = matchesOf s first n key none :=
    matchesOf_congr ((bump_tally _ _ _ _).trans (tallyCount_tally s 1 0)) _ _ _ _
  show execCascadeRequest _ s = _
  simp only [cascadeFrame, List.cons_append] at hframe
  simp [execCascadeRequest, requestFrame_search, hframe, hftype, hwidth, hres, hfirst', hbanks, hspace', htag', htop, hread,
    hup, hon, hw, hn, hn2, hspace, hkey, hcode, hmatches]

theorem exec_cascadeResult_merges {ws : List W64} {c : Cascade} (hup : s.tally.miUp = true) (hon : domainOn s 1 = true)
    (hframe : frameOk ws = true) (hlen : ws.length = 3)
    (hh : ((ws[0]?).getD 0).toNat = 3 + bitsOf ((ws[0]?).getD 0).toNat 36 47 * 2 ^ 36)
    (h03 : ((ws[1]?).getD 0).toNat % 2 ^ 4 = 0) (h67 : ((ws[1]?).getD 0).toNat / 2 ^ 6 % 4 = 0)
    (h1631 : ((ws[1]?).getD 0).toNat / 2 ^ 16 % 2 ^ 16 = 0) (htop : ((ws[1]?).getD 0).toNat < 2 ^ 50)
    (hc : s.tally.waiting.find? (fun c => c.tag == bitsOf ((ws[0]?).getD 0).toNat 36 47) = some c) :
    exec (.cascadeResult ws) s =
      .next (settleAll (cascadeDone s c (mergeWords c.local_ ((ws[1]?).getD 0).toNat))) := by
  have hfields : bitsOf ((ws[1]?).getD 0).toNat 0 3 = 0 ∧ bitsOf ((ws[1]?).getD 0).toNat 6 7 = 0 ∧
      bitsOf ((ws[1]?).getD 0).toNat 16 31 = 0 ∧ bitsOf ((ws[1]?).getD 0).toNat 50 63 = 0 := by
    simp only [bitsOf]
    omega
  obtain ⟨hb0, hb6, hb16, hb50⟩ := hfields
  show execCascadeResult ws s = _
  rw [execCascadeResult]
  simp only [hup, hon, hc, hframe, hlen, ← hh, hb0, hb6, hb16, hb50]
  simp

theorem exec_cascadeRequest_badFrame {ws : List W64} (hup : s.tally.miUp = true) (hon : domainOn s 1 = true)
    (hframe : frameOk ws = false) : exec (.cascadeRequest ws) s = .next (bump s 0x7070 8 1) := by
  show execCascadeRequest ws s = _
  simp [execCascadeRequest, hup, hon, hframe]

theorem exec_cascadeResult_badFrame {ws : List W64} (hup : s.tally.miUp = true) (hon : domainOn s 1 = true)
    (hframe : frameOk ws = false) : exec (.cascadeResult ws) s = .next (bump s 0x7070 8 1) := by
  show execCascadeResult ws s = _
  rw [execCascadeResult]
  simp only [hup, hon, hframe]
  cases s.tally.waiting.find? (fun c => c.tag == bitsOf ((ws[0]?).getD 0).toNat 36 47) <;> simp

theorem exec_cascadeTimeout {c : Cascade} (hc : s.tally.waiting.find? (fun c => c.tag == tag) = some c) :
    exec (.cascadeTimeout tag) s = .next (settleAll (cascadeDone (bump s 0x7070 4 1) c (c.local_ + 64))) := by
  show execCascadeTimeout tag s = _
  rw [execCascadeTimeout, hc]
  rfl

end Cascade

/-- Settles O45: the host's commands by their checks, the lines of the cascade, and what becomes of its frames. -/
theorem tallyHostCommandsAndCascade : Obligations.TallyHostCommandsAndCascade := by
  unfold Obligations.TallyHostCommandsAndCascade
  refine ⟨fun s d tag ws c => ⟨fun hs hclean => ?load, fun hs hclean hdw hn1 hn2 => ?search, fun hon => ?up, ?down,
    fun hup hon => ⟨fun hbad => ⟨exec_cascadeRequest_badFrame hup hon hbad, exec_cascadeResult_badFrame hup hon hbad⟩,
      fun hframe hlen hh h03 h67 h1631 htop hc => exec_cascadeResult_merges hup hon hframe hlen hh h03 h67 h1631 htop hc⟩,
    fun hc => exec_cascadeTimeout hc⟩, fun s space tag first n key hup hon hspace htag hfirst hn1 hn2 hw hkey hcode => ?answer⟩
  case load =>
    rw [exec_tallyLoad hs]
    exact ⟨fun hlease => congrArg _ (hostTallyLoad_beyondLease hclean hlease), fun hlease =>
      ⟨fun hok => congrArg _ (hostTallyLoad_loaded hclean hlease hok),
        fun hbad => congrArg _ (hostTallyLoad_badRecord hclean hlease hbad)⟩⟩
  case search =>
    have hf : SearchFormed s (getDk s d) := ⟨hclean, by simp only [bitsOf]; omega, by omega, hn2⟩
    have hends {u : State} (h : hostTallySearch s d = u) : exec (.tallySearch d) s = .next (settleAll u) := by
      rw [exec_tallySearch hs, h]
    refine ⟨fun hkeys hres => ⟨fun hb => hends (hostTallySearch_berthed hf hkeys hres hb),
      fun hb hnone => hends (hostTallySearch_noBerth hf hkeys hres hb hnone),
      fun hb hwait hasked => hends (hostTallySearch_asked hf hkeys hres hb hwait hasked), fun hb hwait hasked => ?asks⟩,
      fun hres => hends (hostTallySearch_resultsBeyond hf hres)⟩
    have hasks := hostTallySearch_asks hf hkeys hres hb hwait hasked
    exact ⟨fun hstill => hends (hasks.trans (if_pos hstill)), fun hgot => hends (hasks.trans (if_neg hgot))⟩
  case up =>
    refine ⟨setMi s true, ?_, rfl, dget_dset_same _ _ _ _⟩
    show execTallyMiUp s = _
    rw [execTallyMiUp, hon, when_true]
  case down => exact ⟨setMi s false, rfl, rfl, dget_dset_same _ _ _ _⟩
  case answer =>
    refine ⟨_, exec_cascadeRequest_answers hup hon hspace htag hfirst hn1 hn2 hw hkey hcode, ?_⟩
    have hout : (tallyCount s 1 0).out = s.out := rfl
    simp [emit, notePower, hout, cascadeHeader]

end Sys2Proof.Machine
end

section
/-!
SUPPORT. What the pair knows of itself, and what leaves it alone: messages to the partner, completions, the journal's
records, and what ends with a command of the docket table (R366 to R386).
-/
namespace Sys2Proof.Machine

/-! ### Messages to the partner -/

/-- The state but for the links, the number of the next message and what was sent outside. -/
def linkless (s : State) : State :=
  { s with out := [], pair := { s.pair with sub0 := .down, sub1 := .down, mseq := 0 } }

@[simp] theorem linkless_emit (s : State) (o : Out) : linkless (emit s o) = linkless s := rfl

@[simp] theorem linkless_setSub (s : State) (k : Nat) (l : SubLink) : linkless (setSub s k l) = linkless s := by
  unfold setSub
  split <;> rfl

@[simp] theorem linkless_pushFlit (s : State) (k : Nat) (f : HFlit) : linkless (pushFlit s k f) = linkless s := by
  unfold pushFlit
  dsimp only
  split <;> simp

theorem linkless_sendOn (s : State) (k : Nat) (m : HawMsg) : linkless (sendOn s k m) = linkless s :=
  (foldl_keeps linkless (fun u f => linkless_pushFlit u k f) _ _).trans (linkless_setSub _ _ _)

@[simp] theorem linkless_hawSend (s : State) (typ nsid a b : Nat) (body : List Byte) :
    linkless (hawSend s typ nsid a b body) = linkless s := by
  unfold hawSend
  split
  · rfl
  · split
    · rfl
    · exact linkless_sendOn _ _ _

@[simp] theorem linkless_sendHello (s : State) : linkless (sendHello s) = linkless s := linkless_hawSend _ _ _ _ _ _

/-! ### The book of the pair -/

/-- What the pair knows of itself: its state and its lines, the takeover, its marks, the record of Table 14.1 but for the
last state, and the power the module has. -/
structure PairBook where
  power      : Power
  state      : Nat
  aliveIn    : Bool
  aliveFault : Bool
  fenceOut   : Bool
  taking     : Option TkRec
  takeAdm    : Option Adm
  stale      : List Nat
  split      : Bool
  yielded    : Bool
  record     : Fin 256 → Nat

def pairBook (s : State) : PairBook :=
  ⟨s.power, s.pair.state, s.pair.aliveIn, s.pair.aliveFault, s.pair.fenceOut, s.pair.taking, s.pair.takeAdm, s.pair.stale,
    s.pair.split, s.pair.yielded, fun k => if k.val = 9 then 0 else dget s 0x8000 k⟩

/-- The book of the pair stands, and the pair waits for nothing more than before. -/
structure PairKept (s t : State) : Prop where
  book : pairBook t = pairBook s
  awaiting : t.pair.awaiting ⊆ s.pair.awaiting
  fwd : t.pair.fwd ⊆ s.pair.fwd

namespace PairKept

section Read
variable {s t : State} (h : PairKept s t)
include h

theorem power : t.power = s.power := congrArg PairBook.power h.book
theorem state : t.pair.state = s.pair.state := congrArg PairBook.state h.book
theorem aliveIn : t.pair.aliveIn = s.pair.aliveIn := congrArg PairBook.aliveIn h.book
theorem fenceOut : t.pair.fenceOut = s.pair.fenceOut := congrArg PairBook.fenceOut h.book
theorem taking : t.pair.taking = s.pair.taking := congrArg PairBook.taking h.book
theorem takeAdm : t.pair.takeAdm = s.pair.takeAdm := congrArg PairBook.takeAdm h.book
theorem stale : t.pair.stale = s.pair.stale := congrArg PairBook.stale h.book
theorem split : t.pair.split = s.pair.split := congrArg PairBook.split h.book
theorem yielded : t.pair.yielded = s.pair.yielded := congrArg PairBook.yielded h.book

theorem record {k : Nat} (hk : k < 256) (h9 : k ≠ 9) : dget t 0x8000 k = dget s 0x8000 k := by
  have hrec := congrFun (congrArg PairBook.record h.book) ⟨k, hk⟩
  simpa [pairBook, h9] using hrec

theorem role : pairRole t = pairRole s := h.record (by omega) (by omega)
theorem epoch : pairEpoch t = pairEpoch s := h.record (by omega) (by omega)
theorem setter : pairSetter t = pairSetter s := h.record (by omega) (by omega)

theorem awaiting_nil (hs : s.pair.awaiting = []) : t.pair.awaiting = [] := List.subset_nil.1 (hs ▸ h.awaiting)
theorem fwd_nil (hs : s.pair.fwd = []) : t.pair.fwd = [] := List.subset_nil.1 (hs ▸ h.fwd)

end Read

theorem refl (s : State) : PairKept s s := ⟨rfl, List.Subset.refl _, List.Subset.refl _⟩

theorem trans {s t u : State} (h : PairKept s t) (h' : PairKept t u) : PairKept s u :=
  ⟨h'.book.trans h.book, List.Subset.trans h'.awaiting h.awaiting, List.Subset.trans h'.fwd h.fwd⟩

/-- States with the same book that wait for the same. -/
theorem of_eq {s t : State} (hbook : pairBook t = pairBook s) (hawaiting : t.pair.awaiting = s.pair.awaiting)
    (hfwd : t.pair.fwd = s.pair.fwd) : PairKept s t :=
  ⟨hbook, hawaiting ▸ List.Subset.refl _, hfwd ▸ List.Subset.refl _⟩

/-- The pair, the power and the entries of the record stand. -/
theorem of_pair {s t : State} (hpair : t.pair = s.pair) (hpower : t.power = s.power)
    (hrec : ∀ k, k < 256 → k ≠ 9 → dget t 0x8000 k = dget s 0x8000 k) : PairKept s t := by
  refine of_eq ?_ (by rw [hpair]) (by rw [hpair])
  simp only [pairBook, hpair, hpower]
  congr 1
  funext k
  split
  · rfl
  · exact hrec k k.isLt ‹_›

theorem of_hostless {s t : State} (h : hostless t = hostless s) : PairKept s t := by
  have heq := eq_of_hostless h
  exact of_pair (by rw [heq]) (by rw [heq]) fun _ _ _ => dget_of_hostless h _ _

theorem of_ashore {s t : State} (h : ashore t = ashore s) : PairKept s t :=
  of_pair (congrArg Ashore.pair h) (congrArg Ashore.power h) fun _ hk _ => dget_of_ashore h hk (by omega)

theorem of_linkless {s t : State} (h : linkless t = linkless s) : PairKept s t :=
  of_eq (show pairBook (linkless t) = pairBook (linkless s) by rw [h])
    (show (linkless t).pair.awaiting = (linkless s).pair.awaiting by rw [h])
    (show (linkless t).pair.fwd = (linkless s).pair.fwd by rw [h])

end PairKept

/-! ### What keeps it -/

@[simp] theorem hostless_postEvents (s : State) (l : List Nat) (e : Event) : hostless (postEvents s l e) = hostless s :=
  foldl_keeps hostless (fun u fn => hostless_postEvent u fn e) l s

@[simp] theorem hostless_anaEvents (s : State) (before : List (Nat × Ana)) : hostless (anaEvents before s) = hostless s :=
  hostless_postEvents s _ _

@[simp] theorem hostless_settleAdm (s : State) : hostless (settleAdm s) = hostless s := by
  unfold settleAdm
  dsimp only
  split
  · rfl
  · rw [hostless_setWarn, hostless_foldl (fun u e => hostless_adminDone u _ _ _ _)]
    rfl

namespace PairKept

section Keeps
variable {r s : State} (h : PairKept r s)
include h

theorem ite {t : State} {c : Prop} [Decidable c] (h' : PairKept r t) : PairKept r (if c then s else t) := by
  split <;> assumption

theorem foldl {α : Type} {f : State → α → State} (hf : ∀ {s} x, PairKept r s → PairKept r (f s x)) (l : List α) :
    PairKept r (l.foldl f s) :=
  List.foldlRecOn l f (motive := PairKept r) h fun _ hu x _ => hf x hu

/-! Parts of the state that the pair does not look at. -/

theorem withHost (x : HostIf) : PairKept r { s with host := x } := h.trans (.of_eq rfl rfl rfl)
theorem withMgmt (x : Mgmt) : PairKept r { s with mgmt := x } := h.trans (.of_eq rfl rfl rfl)
theorem withMedia (x : Media) : PairKept r { s with media := x } := h.trans (.of_eq rfl rfl rfl)
theorem withForwards (x : List (Nat × Option Adm)) (y : List (Nat × Option Status)) :
    PairKept r { s with pair := { s.pair with aborts := x, cancels := y } } := h.trans (.of_eq rfl rfl rfl)
theorem emit (o : Out) : PairKept r (emit s o) := h.trans (.of_eq rfl rfl rfl)

theorem dset {i sub : Nat} (v : Nat) (hs : sub < 256) (hi : i ≠ 0x8000 ∨ sub = 9) : PairKept r (dset s i sub v) :=
  h.trans <| .of_pair rfl rfl fun _ hk _ => dget_dset_other _ _ _ _ _ _ (dk_ne _ _ _ _ hs hk (by omega))

theorem bump {i sub : Nat} (n : Nat) (hs : sub < 256) (hi : i ≠ 0x8000 ∨ sub = 9) : PairKept r (bump s i sub n) :=
  h.dset _ hs hi

theorem adminDone (a : Adm) (st : Status) (n : Nat) (p : Payload) : PairKept r (adminDone s a st n p) :=
  h.trans (.of_hostless (hostless_adminDone _ _ _ _ _))

theorem postEvent (fn : Nat) (e : Event) : PairKept r (postEvent s fn e) :=
  h.trans (.of_hostless (hostless_postEvent _ _ _))

theorem postEvents (l : List Nat) (e : Event) : PairKept r (postEvents s l e) :=
  h.trans (.of_hostless (hostless_postEvents _ _ _))

theorem anaEvents (before : List (Nat × Ana)) : PairKept r (anaEvents before s) :=
  h.trans (.of_hostless (hostless_anaEvents _ _))

theorem hawSend (typ nsid a b : Nat) (body : List Byte) : PairKept r (hawSend s typ nsid a b body) :=
  h.trans (.of_linkless (linkless_hawSend _ _ _ _ _ _))

theorem sendHello : PairKept r (sendHello s) := h.hawSend _ _ _ _ _

theorem sendFrame (port : Nat) (bytes : List Byte) : PairKept r (sendFrame s port bytes) :=
  (h.emit _).bump _ (by omega) (by omega)

theorem sendEmergency (data : List Byte) (p : Nat) : PairKept r (sendEmergency s data p) :=
  h.ite (((h.withMgmt _).sendFrame _ _).ite (h.bump _ (by omega) (by omega)))

theorem sendEmergencies (data : List Byte) : PairKept r (sendEmergencies s data) := by
  unfold Machine.sendEmergencies
  split
  · exact (h.sendEmergency _ _).sendEmergency _ _
  · exact h

theorem emergency (code i sub detail : Nat) : PairKept r (emergency s code i sub detail) := by
  unfold Machine.emergency
  dsimp only
  generalize leBytes 2 code ++ leBytes 2 i ++ leBytes 1 sub ++ [0, 0, 0] ++ leBytes 4 detail = data
  have hset : PairKept r (Machine.dset s 0x1200 9 (ofLe data)) := h.dset _ (by omega) (by omega)
  split
  · exact hset.withMgmt _
  · exact hset.sendEmergencies _

/-! Commands of the docket table. -/

theorem dkPost (d : Nat) (st : Status) (a b : Nat) (p : Payload) : PairKept r (dkPost s d st a b p) := by
  unfold Machine.dkPost
  dsimp only
  split
  · exact h.hawSend _ _ _ _ _
  · exact h.ite (h.trans (.of_hostless (by simp)))

theorem setDk (d : Nat) (e : Docket) : PairKept r (setDk s d e) := h.withHost _

theorem modSq (fn q : Nat) (g : Sq → Sq) : PairKept r (modSq s fn q g) := h.withHost _

theorem dkBerths (d : Nat) (e : Docket) : PairKept r (dkBerths s d e) :=
  h.trans (.of_ashore (by simp [Machine.dkBerths, freeBerths, releaseOwner]))

/-- The pair forgets a docket entry: it waits for less. -/
theorem forgetDk (d : Nat) : PairKept r { s with pair := forgetDk s.pair d } :=
  h.trans ⟨rfl, List.filter_subset_self _, List.filter_subset_self _⟩

theorem dkFree (d : Nat) : PairKept r (dkFree s d) := by
  have hcascades : PairKept r (orphanCascades s (fun c => c.docket == some d)) := h.trans (.of_eq rfl rfl rfl)
  exact (((hcascades.forgetDk d).withHost _).setDk d _).dkBerths d _

theorem countFinished (e : Docket) : PairKept r (countFinished s e) := by
  unfold Machine.countFinished
  dsimp only
  split
  · exact (h.modSq _ _ _).ite h
  · exact (h.modSq _ _ _).ite h

theorem dropWork (d : Nat) : PairKept r (dropWork s d) := by
  have hthreads := h.foldl (f := fun s t => setThr (unready s t) t Thread.free) (fun _ hu => hu.trans (.of_eq rfl rfl rfl))
    ((s.hm.threads.filter (fun t => t.2.root == some d)).map Prod.fst)
  exact hthreads.trans (.of_eq rfl rfl rfl)

theorem appendRec (x : JRec) : PairKept r (appendRec s x) := by
  have happended : PairKept r (appendOwn s x) := h.withMedia _
  have hheld : PairKept r { appendOwn s x with
      pair := { s.pair with heldRecs := s.pair.heldRecs ++ [numbered s x] } } := happended.trans (.of_eq rfl rfl rfl)
  exact happended.ite ((happended.hawSend _ _ _ _ _).ite (hheld.ite happended))

theorem append (rs : List JRec) : PairKept r (append s rs) := (h.foldl (fun x hu => hu.appendRec x) rs).withMedia _

theorem cancelForward (d tag : Nat) (st : Option Status) : PairKept r (cancelForward s d tag st) := by
  have hposted : PairKept r (if st.isNone then modDk s d (fun e => { e with posted := true }) else s) :=
    (h.setDk d _).ite h
  exact (hposted.withForwards _ _).hawSend _ _ _ _ _

theorem dkCancel (d : Nat) (st : Option Status) : PairKept r (dkCancel s d st) := by
  have hends {u : State} (hu : PairKept r u) :
      PairKept r (Machine.dkFree (match st with | some x => Machine.dkPost u d x 0 0 .none | none => u) d) := by
    cases st with
    | none => exact hu.dkFree d
    | some x => exact (hu.dkPost d x 0 0 .none).dkFree d
  unfold Machine.dkCancel
  dsimp only
  split
  · exact h
  · split
    · exact h.cancelForward d _ st
    · have hstored := ((h.dropWork d).append (restoreRecs (Machine.dropWork s d) (getDk s d))).setDk d
        { getDk s d with word := .cancelled, cancelSt := st
                         waitJsn := some (Machine.append (Machine.dropWork s d) (restoreRecs (Machine.dropWork s d) (getDk s d))).media.jsn }
      exact (hstored.ite (hends hstored)).ite (hends (h.dropWork d))

theorem freezeQueue (e : Docket) (st : Status) : PairKept r (freezeQueue s e st) := by
  unfold Machine.freezeQueue
  dsimp only
  split
  · have hcancelled := h.foldl (fun d hu => hu.dkCancel d (some (.vendor 0x80))) (freezeVictims s e)
    exact ((((hcancelled.modSq _ _ _).withHost _).withHost _).bump 1 (by omega) (by omega)).postEvent _ _
  · exact h

theorem ioDone (d : Nat) (st : Status) (a b : Nat) (p : Payload) : PairKept r (ioDone s d st a b p) := by
  have hposted := h.dkPost d st a b p
  exact ((hposted.countFinished _ |>.ite hposted).dkFree d).freezeQueue _ st

/-! What a STATE completes, and the commands that a lost partner leaves without an answer (R375, R378). -/

theorem adminAfter (jsn : Nat) (a : Adm) (n : Nat) : PairKept r (adminAfter s jsn a n) :=
  (h.withHost _).trans (.of_hostless (hostless_settleAdm _))

theorem answer (x : Reply) (g : Got) : PairKept r (answer s x g) := by
  cases x with
  | access p i sub => exact h.emit _
  | tunnel a => exact h.adminDone _ _ _ _
  | frame p dest svc tid i sub => exact h.sendFrame _ _
  | mi p => exact h.emit _

theorem finishState (dn : StateDone) : PairKept r (finishState s dn) := by
  cases dn with
  | none => exact h
  | adm a n => exact h.adminDone _ _ _ _
  | record j a n => exact h.adminAfter _ _ _
  | reply x n => exact h.answer _ _
  | dock d => exact (h.ioDone d _ _ _ _).ite h

theorem withStates (x : List (Nat × StateDone)) : PairKept r { s with pair := { s.pair with states := x } } :=
  h.trans (.of_eq rfl rfl rfl)

theorem dropStates : PairKept r (dropStates s) := (h.withStates []).foldl (fun x hu => hu.finishState x.2) _

theorem ioFail (d : Nat) (st : Status) : PairKept r (ioFail s d st) := h.ioDone d st _ _ _

end Keeps
end PairKept

/-! ### Changes of the pair -/

/-- The pair waits for nothing of the commands it forwarded. -/
def forwardsCleared (s : State) : State := { s with pair := { s.pair with fwd := [], aborts := [], cancels := [] } }

/-- A forwarded command fails, and is counted (R378). -/
def forwardFailed (s : State) (d : Nat) : State := ioFail (bump s 0x8010 8 1) d (.vendor 0x85)

theorem pairKept_failForwards (s : State) : PairKept (forwardsCleared s) (failForwards s) := by
  have hfailed {u : State} (hu : PairKept (forwardsCleared s) u) (d : Nat) :
      PairKept (forwardsCleared s) (if dkUsed u d then forwardFailed u d else u) :=
    ((hu.bump 1 (by omega) (by omega)).ioFail d _).ite hu
  have htold {u : State} (hu : PairKept (forwardsCleared s) u) (e : Nat × Option Adm) :
      PairKept (forwardsCleared s) (match e.2 with | some a => adminDone u a .success 1 .none | none => u) := by
    split
    · exact hu.adminDone _ _ _ _
    · exact hu
  exact ((PairKept.refl _).foldl (fun e hu => hfailed hu e.2) s.pair.fwd).foldl (fun e hu => htold hu e) s.pair.aborts

/-- Saving an entry of another record keeps the pair's. -/
theorem pairKept_persist (s : State) {i sub : Nat} (v : Nat) (hs : sub < 256) (hi : i ≠ 0x8000 ∨ sub = 9) :
    PairKept s (persist s i sub v) := by
  obtain ⟨dict, lb, hp⟩ := persist_frame s i sub v
  refine .of_pair (by rw [hp]) (by rw [hp]) fun k hk h9 => dget_persist_other _ _ _ _ _ _ ?_ ?_
  · exact dk_ne _ _ _ _ hs hk (by omega)
  · exact dk_ne _ _ _ _ (by omega) hk (by omega)

/-- The pair as it stands once its state has changed to `st` and its other fields to what `f` makes of them. -/
def pairChanged (s : State) (st : Nat) (f : Pair → Pair) : Pair :=
  let p := { f s.pair with state := st, lastChange := s.nowMs }
  if st = 4 then p else { p with copying := [], resync := [], copies := [] }

/-- A change of the pair's state keeps all of the changed pair that later events look at. -/
theorem pairKept_pairTo (s : State) (st : Nat) (f : Pair → Pair) :
    PairKept { s with pair := pairChanged s st f } (pairTo s st f) := by
  have hsaved := pairKept_persist { s with pair := pairChanged s st f } st (i := 0x8000) (sub := 9) (by omega) (by omega)
  have htold := ((hsaved.anaEvents (anaAll s)).postEvents
    (fnList (persist { s with pair := pairChanged s st f } 0x8000 9 st)) { typ := 7, info := 0, log := 0xC3 })
  exact (htold.emergency 0x0801 0x8000 1 st).ite (htold.emergency 0x0801 0x8000 1 st).dropStates

end Sys2Proof.Machine
end

section
/-!
SUPPORT. Pair Control (R364 to R366, R381, R383, Table 14.2): the pair's record and the changes of its state, and what
each operation makes of them.
-/
namespace Sys2Proof.Machine

/-! ### The record of the pair (Table 14.1) -/

/-- An entry of the pair's record after another, or itself, was saved. -/
theorem record_persist (s : State) (v : Nat) {j k : Nat} (hj : j < 256) (hk : k < 256) :
    dget (persist s 0x8000 k v) 0x8000 j = if j = k then v else dget s 0x8000 j := by
  split
  case isTrue h => rw [h, dget_persist_same _ _ _ _ (dk_ne _ _ _ _ (by omega) hk (by omega))]
  case isFalse h =>
    exact dget_persist_other _ _ _ _ _ _ (dk_ne _ _ _ _ hk hj (.inr h)) (dk_ne _ _ _ _ (by omega) hj (by omega))

section SetEpoch
variable (s : State) (epoch setter : Nat)

theorem record_setEpoch {j : Nat} (hj : j < 256) (h7 : j ≠ 7) (h8 : j ≠ 8) :
    dget (setEpoch s epoch setter) 0x8000 j = dget s 0x8000 j := by
  rw [setEpoch, record_persist _ _ hj (by omega), if_neg h8, record_persist _ _ hj (by omega), if_neg h7]

@[simp] theorem pairRole_setEpoch : pairRole (setEpoch s epoch setter) = pairRole s :=
  record_setEpoch s epoch setter (by omega) (by omega) (by omega)

@[simp] theorem pairEpoch_setEpoch : pairEpoch (setEpoch s epoch setter) = epoch := by
  rw [pairEpoch, setEpoch, record_persist _ _ (by omega) (by omega), if_neg (by omega),
    record_persist _ _ (by omega) (by omega), if_pos rfl]

@[simp] theorem pairSetter_setEpoch : pairSetter (setEpoch s epoch setter) = setter := by
  rw [pairSetter, setEpoch, record_persist _ _ (by omega) (by omega), if_pos rfl]

@[simp] theorem pair_setEpoch : (setEpoch s epoch setter).pair = s.pair := by simp [setEpoch, pair_persist]
@[simp] theorem media_setEpoch : (setEpoch s epoch setter).media = s.media := by simp [setEpoch, media_persist]

end SetEpoch

/-! ### The state of the pair changes -/

section Changed
variable (s : State) (st : Nat) (f : Pair → Pair)

@[simp] theorem pairChanged_state : (pairChanged s st f).state = st := by unfold pairChanged; split <;> rfl
@[simp] theorem pairChanged_stale : (pairChanged s st f).stale = (f s.pair).stale := by unfold pairChanged; split <;> rfl
@[simp] theorem pairChanged_split : (pairChanged s st f).split = (f s.pair).split := by unfold pairChanged; split <;> rfl
@[simp] theorem pairChanged_fenceOut : (pairChanged s st f).fenceOut = (f s.pair).fenceOut := by
  unfold pairChanged; split <;> rfl
@[simp] theorem pairChanged_taking : (pairChanged s st f).taking = (f s.pair).taking := by unfold pairChanged; split <;> rfl
@[simp] theorem pairChanged_fwd : (pairChanged s st f).fwd = (f s.pair).fwd := by unfold pairChanged; split <;> rfl

theorem state_pairTo : (pairTo s st f).pair.state = st := (pairKept_pairTo s st f).state.trans (pairChanged_state s st f)
theorem stale_pairTo : (pairTo s st f).pair.stale = (f s.pair).stale :=
  (pairKept_pairTo s st f).stale.trans (pairChanged_stale s st f)
theorem split_pairTo : (pairTo s st f).pair.split = (f s.pair).split :=
  (pairKept_pairTo s st f).split.trans (pairChanged_split s st f)
theorem fenceOut_pairTo : (pairTo s st f).pair.fenceOut = (f s.pair).fenceOut :=
  (pairKept_pairTo s st f).fenceOut.trans (pairChanged_fenceOut s st f)
theorem taking_pairTo : (pairTo s st f).pair.taking = (f s.pair).taking :=
  (pairKept_pairTo s st f).taking.trans (pairChanged_taking s st f)
theorem fwd_pairTo (h : (f s.pair).fwd = []) : (pairTo s st f).pair.fwd = [] :=
  (pairKept_pairTo s st f).fwd_nil ((pairChanged_fwd s st f).trans h)
theorem power_pairTo : (pairTo s st f).power = s.power := (pairKept_pairTo s st f).power
theorem role_pairTo : pairRole (pairTo s st f) = pairRole s := (pairKept_pairTo s st f).role
theorem epoch_pairTo : pairEpoch (pairTo s st f) = pairEpoch s := (pairKept_pairTo s st f).epoch
theorem setter_pairTo : pairSetter (pairTo s st f) = pairSetter s := (pairKept_pairTo s st f).setter

theorem media_of_hostless {s t : State} (h : hostless t = hostless s) : t.media = s.media := by
  rw [eq_of_hostless h]

/-- While the partner is there, no completion hangs on the change: the media stay as they are. -/
theorem media_pairTo_joined (h : st = 1 ∨ st = 4) : (pairTo s st f).media = s.media := by
  have htold (u : State) (before : List (Nat × Ana)) (l : List Nat) (e : Event) :
      (postEvents (anaEvents before u) l e).media = u.media :=
    media_of_hostless ((hostless_postEvents _ _ _).trans (hostless_anaEvents _ _))
  unfold pairTo
  dsimp only
  rw [if_pos h, media_emergency, htold, media_persist]

end Changed

/-- The pair's state, role, epoch and setter (Table 14.1). -/
structure PairRecord (t : State) (state role epoch setter : Nat) : Prop where
  state : t.pair.state = state
  role : pairRole t = role
  epoch : pairEpoch t = epoch
  setter : pairSetter t = setter

theorem PairRecord.of_kept {s t : State} {state role epoch setter : Nat} (hk : PairKept s t)
    (h : PairRecord s state role epoch setter) : PairRecord t state role epoch setter :=
  ⟨hk.state.trans h.state, hk.role.trans h.role, hk.epoch.trans h.epoch, hk.setter.trans h.setter⟩

/-- A change of state leaves the rest of the record. -/
theorem pairRecord_pairTo {s : State} {role epoch setter : Nat} (st : Nat) (f : Pair → Pair) (hr : pairRole s = role)
    (he : pairEpoch s = epoch) (hs : pairSetter s = setter) : PairRecord (pairTo s st f) st role epoch setter :=
  ⟨state_pairTo s st f, (role_pairTo s st f).trans hr, (epoch_pairTo s st f).trans he, (setter_pairTo s st f).trans hs⟩

/-! ### Formation -/

theorem pairKept_sendState_none (s : State) (i : StateItem) : PairKept s (sendState s i .none) := by
  unfold sendState
  split
  · exact .of_eq rfl rfl rfl
  · exact ((PairKept.refl s).hawSend _ _ _ _ _).withStates _

theorem media_of_linkless {s t : State} (h : linkless t = linkless s) : t.media = s.media :=
  show (linkless t).media = (linkless s).media by rw [h]

theorem media_hawSend (s : State) (typ nsid a b : Nat) (body : List Byte) :
    (hawSend s typ nsid a b body).media = s.media := media_of_linkless (linkless_hawSend _ _ _ _ _ _)

theorem media_sendState_none (s : State) (i : StateItem) : (sendState s i .none).media = s.media := by
  unfold sendState
  split
  · rfl
  · exact media_hawSend _ _ _ _ _ _

theorem linkless_sendNamespaces (s : State) : linkless (sendNamespaces s) = linkless s := by
  unfold sendNamespaces
  refine foldl_keeps linkless (fun u e => ?_) _ _
  exact foldl_keeps linkless (fun v r => linkless_hawSend _ _ _ _ _ _) _ _

theorem pairKept_sendItems (s : State) (l : List StateItem) : PairKept s (sendItems s l) :=
  (PairKept.refl s).foldl (fun i hu => hu.trans (pairKept_sendState_none _ i)) l

theorem media_sendItems (s : State) (l : List StateItem) : (sendItems s l).media = s.media :=
  foldl_keeps State.media (fun u i => media_sendState_none u i) l s

/-- Blocks that change their pool leave whatever a block's own change leaves. -/
theorem peerArea_keeps {β : Type} (g : State → β) (hg : ∀ s b v, g (setBlk s b v) = g s) (s : State) (on : Bool) :
    g (peerArea s on) = g s := by
  cases on <;> exact foldl_keeps g (fun u b => hg u b _) _ s

theorem record_peerArea (s : State) (on : Bool) (k : Nat) : dget (peerArea s on) 0x8000 k = dget s 0x8000 k :=
  peerArea_keeps (fun u => dget u 0x8000 k) (fun _ _ _ => rfl) s on

/-- A pair as it is formed: In step with epoch 1 that role A set, no mark, and its namespaces homed here. -/
structure Formed (t : State) (role : Nat) : Prop where
  record : PairRecord t 1 role 1 1
  stale : t.pair.stale = []
  split : t.pair.split = false
  homed : ∀ e ∈ t.media.cur.nss, e.2.mirror = false ∧ e.2.home = 0

theorem Formed.of_kept {s t : State} {role : Nat} (hk : PairKept s t) (hm : t.media = s.media) (h : Formed s role) :
    Formed t role :=
  ⟨h.record.of_kept hk, hk.stale.trans h.stale, hk.split.trans h.split, hm ▸ h.homed⟩

theorem formed_formPair (s : State) (role serial dieA : Nat) : Formed (formPair s role serial dieA) role := by
  have hlink (u : State) : linkless (sendNamespaces (sendHello u)) = linkless u :=
    (linkless_sendNamespaces _).trans (linkless_sendHello _)
  unfold formPair
  refine .of_kept (.of_linkless (hlink _)) (media_of_linkless (hlink _)) ⟨pairRecord_pairTo _ _ ?_ ?_ ?_, ?_, ?_, ?_⟩
  · rw [pairRole_setEpoch, pairRole, record_persist _ _ (by omega) (by omega), if_neg (by omega),
      record_persist _ _ (by omega) (by omega), if_pos rfl]
  · rw [pairEpoch_setEpoch]
  · rw [pairSetter_setEpoch]
  · rw [stale_pairTo]
  · rw [split_pairTo]
  · rw [media_pairTo_joined _ _ _ (.inl rfl), media_setEpoch, media_persist, media_persist,
      peerArea_keeps (fun u => u.media.cur) (fun _ _ _ => rfl)]
    intro e he
    obtain ⟨x, _, rfl⟩ := List.mem_map.1 he
    exact ⟨rfl, rfl⟩

theorem formed_pairForm {s : State} {p : PartnerInfo} (h : formRefusal s p = none) (a : Adm) :
    Formed (pairForm s a p) 1 := by
  unfold pairForm
  rw [h]
  dsimp only
  refine .of_kept ((pairKept_sendItems _ _).adminDone a _ _ _) ?_ (formed_formPair s 1 _ _)
  exact (media_of_hostless (hostless_adminDone _ _ _ _ _)).trans (media_sendItems _ _)

/-! ### Dissolution -/

theorem pairRecord_dissolvePair (s : State) : PairRecord (dissolvePair s) 0 0 0 0 := by
  unfold dissolvePair
  refine pairRecord_pairTo _ _ ?_ ?_ ?_
  · rw [pairRole, record_peerArea, ← pairRole, pairRole_setEpoch, pairRole, record_persist _ _ (by omega) (by omega),
      if_pos rfl]
  · rw [pairEpoch, record_peerArea, ← pairEpoch, pairEpoch_setEpoch]
  · rw [pairSetter, record_peerArea, ← pairSetter, pairSetter_setEpoch]

/-! ### Takeover (Table 14.7) -/

/-- The pair once a takeover has ended: FENCE_OUT stands, and the epoch is the next one, which this module set. -/
structure TakenOver (s t : State) (st : Nat) (stale : List Nat) : Prop where
  record : PairRecord t st (pairRole s) (pairEpoch s + 1) (pairRole s)
  stale : t.pair.stale = stale
  fenceOut : t.pair.fenceOut = true
  taking : t.pair.taking = none

theorem TakenOver.of_kept {s t u : State} {st : Nat} {stale : List Nat} (hk : PairKept t u) (h : TakenOver s t st stale) :
    TakenOver s u st stale :=
  ⟨h.record.of_kept hk, hk.stale.trans h.stale, hk.fenceOut.trans h.fenceOut, hk.taking.trans h.taking⟩

/-- The marks that a takeover leaves: an operator's clears them. -/
def takeoverStale (s : State) : List Nat := if s.pair.takeAdm.isSome then [] else s.pair.stale

/-- Steps 5 to 7: nothing waits for the partner any more. -/
theorem takenOver_takeoverEnd {s : State} {r : TkRec} (ht : s.pair.taking = some r) (hf : s.pair.fenceOut = true)
    (ha : s.pair.awaiting = []) :
    TakenOver s (takeoverEnd s) (if takeoverStale s = [] then 3 else 2) (takeoverStale s) := by
  have hended (v : TkRec) : TakenOver s (bump (pairTo (setEpoch s (pairEpoch s + 1) (pairRole s))
      (if takeoverStale s = [] then 3 else 2)
      (fun p => { p with taking := none, takeAdm := none, stale := takeoverStale s, takeover := some v })) 0x8010 6 1)
      (if takeoverStale s = [] then 3 else 2) (takeoverStale s) :=
    .of_kept ((PairKept.refl _).bump 1 (by omega) (by omega))
      ⟨pairRecord_pairTo _ _ (pairRole_setEpoch _ _ _) (pairEpoch_setEpoch _ _ _) (pairSetter_setEpoch _ _ _),
        stale_pairTo _ _ _, by rw [fenceOut_pairTo, pair_setEpoch, hf], taking_pairTo _ _ _⟩
  unfold takeoverEnd
  rw [ht]
  simp only [hf, ha, List.isEmpty_nil, Bool.and_self, if_true, List.isEmpty_iff]
  split
  · exact (hended _).of_kept ((PairKept.refl _).adminDone _ _ _ _)
  · exact hended _

/-- A takeover that need not wait ends at once. -/
theorem takenOver_takeoverStart {s : State} {exposed : Bool} (ht : s.pair.taking = none)
    (hf : s.pair.fenceOut = true ∨ pairRole s = 1) (ha : s.pair.awaiting = []) :
    TakenOver s (takeoverStart s exposed) (if takeoverStale s = [] then 3 else 2) (takeoverStale s) := by
  unfold takeoverStart
  rw [ht]
  dsimp only
  rw [if_neg (by simp)]
  set u : State := { s with pair := _ } with hu
  have hk := pairKept_failForwards u
  have hend := takenOver_takeoverEnd (s := failForwards u) (r := _) (hk.taking.trans rfl)
    (hk.fenceOut.trans (by cases hf with | inl h => simp [forwardsCleared, hu, h] | inr h => simp [forwardsCleared, hu, h]))
    (hk.awaiting_nil ha)
  have hstale : takeoverStale (failForwards u) = takeoverStale s := by
    simp only [takeoverStale, hk.takeAdm, hk.stale]
    rfl
  have hrole : pairRole (failForwards u) = pairRole s := hk.role
  have hepoch : pairEpoch (failForwards u) = pairEpoch s := hk.epoch
  rw [hstale] at hend
  exact ⟨hrole ▸ hepoch ▸ hend.record, hend.stale, hend.fenceOut, hend.taking⟩

/-! ### The operations of Pair Control -/

section Control
variable {s : State} {a : Adm} {rest : List W32} {op : Nat} {dw10 : W32}

/-- A function that takes admin commands takes this one, with its reserved dwords 0. -/
structure ControlOpen (s : State) (a : Adm) (rest : List W32) : Prop where
  opened : adminOpen s a.fn = true
  noRecovery : s.power.recovery = false
  physical : a.fn = 0
  reserved : ∀ w ∈ rest, w = 0

theorem pairControl_runs (h : ControlOpen s a rest) (hop : bitsOf dw10.toNat 0 2 = op) (hres : bitsOf dw10.toNat 3 31 = 0)
    (run : State) : pairControl op a dw10 rest s run = .next run := by
  have hrest : rest.any (· != 0) = false := by simpa using h.reserved
  rw [pairControl, adminPf_open h.opened h.noRecovery h.physical, if_neg (by simp [hop]), if_neg]
  rw [hrest]
  simp [hop, hres]

/-- A reserved operation is an Invalid Field. -/
theorem pairControl_reserved (h : ControlOpen s a rest) (hop : op ≠ 0 ∧ op ≠ 7)
    (hdw : bitsOf dw10.toNat 0 2 = 0 ∨ bitsOf dw10.toNat 0 2 = 7) (run : State) :
    pairControl op a dw10 rest s run = .next (adminFail s a .invalidField) := by
  rw [pairControl, adminPf_open h.opened h.noRecovery h.physical]
  cases hdw with
  | inl h0 => simp [h0, hop.1.symm]
  | inr h7 => simp [h7, hop.2.symm]

section Runs
variable (h : ControlOpen s a rest)
include h

theorem exec_pairForm (p : PartnerInfo) : exec (.pairForm a 1 rest p) s = .next (pairForm s a p) :=
  pairControl_runs h (by decide) (by decide) _
theorem exec_pairDissolve : exec (.pairDissolve a 2 rest) s = .next (pairDissolve s a) :=
  pairControl_runs h (by decide) (by decide) _
theorem exec_pairFence : exec (.pairFence a 3 rest) s =
    .next (if s.pair.state = 0 then pairRefuse s a 1 else adminOk (takeoverEnd (setFence s true)) a) :=
  pairControl_runs h (by decide) (by decide) _
theorem exec_pairRelease : exec (.pairRelease a 4 rest) s =
    .next (if !s.pair.fenceOut then pairRefuse s a 1 else adminOk (setFence s false) a) :=
  pairControl_runs h (by decide) (by decide) _
theorem exec_pairTakeover : exec (.pairTakeover a 5 rest) s = .next (pairTakeover s a) :=
  pairControl_runs h (by decide) (by decide) _
theorem exec_pairYield : exec (.pairYield a 6 rest) s = .next (pairYield s a) :=
  pairControl_runs h (by decide) (by decide) _

end Runs

theorem pairForm_refused {p : PartnerInfo} {r : Nat} (h : formRefusal s p = some r) :
    pairForm s a p = pairRefuse s a r := by rw [pairForm, h]

/-- The reasons of FORM, the first that applies (Table 14.2). -/
theorem formRefusal_notSingle {p : PartnerInfo} (h : s.pair.state ≠ 0 ∨ p.single = false) : formRefusal s p = some 1 := by
  rw [formRefusal, if_pos (by simpa using h)]

theorem formRefusal_noPartner {p : PartnerInfo} (hs : s.pair.state = 0) (hp : p.single = true)
    (h : linkUp s = false ∨ s.pair.aliveIn = false ∨ p.accept = false) : formRefusal s p = some 2 := by
  rw [formRefusal, if_neg (by simp [hs, hp]), if_pos (by simpa using h)]

theorem formRefusal_otherKey {p : PartnerInfo} (hs : s.pair.state = 0) (hp : p.single = true) (hl : linkUp s = true)
    (ha : s.pair.aliveIn = true) (hacc : p.accept = true)
    (h : s.eng.moduleKey = none ∨ p.kcv ≠ some (dget s 0x7050 3)) : formRefusal s p = some 3 := by
  rw [formRefusal, if_neg (by simp [hs, hp]), if_neg (by simp [hl, ha, hacc]), if_pos (by simpa using h)]

theorem pairDissolve_notInStep (h : s.pair.state ≠ 1) : pairDissolve s a = pairRefuse s a 1 := if_pos h

theorem pairDissolve_mirrored (hs : s.pair.state = 1) (h : ∃ n ∈ nsids s, (getNs s n).mirror = true) :
    pairDissolve s a = pairRefuse s a 7 := by
  rw [pairDissolve, if_neg (by simp [hs]), if_pos (by simpa using h)]

theorem pairRecord_pairDissolve (hs : s.pair.state = 1) (h : ∀ n ∈ nsids s, (getNs s n).mirror = false) :
    PairRecord (pairDissolve s a) 0 0 0 0 := by
  rw [pairDissolve, if_neg (by simp [hs]), if_neg (by simpa using h)]
  exact (pairRecord_dissolvePair s).of_kept ((PairKept.refl _).sendHello.adminDone _ _ _ _)

theorem PairKept.adminOk {r : State} (h : PairKept r s) (a : Adm) : PairKept r (adminOk s a) := h.adminDone _ _ _ _

/-- What a takeover ends leaves FENCE_OUT as it stands. -/
theorem fenceOut_takeoverEnd (s : State) : (takeoverEnd s).pair.fenceOut = s.pair.fenceOut := by
  unfold takeoverEnd
  split
  · rfl
  · dsimp only
    split
    · have hbumped (v : State) : (bump v 0x8010 6 1).pair.fenceOut = v.pair.fenceOut := rfl
      split
      · rw [((PairKept.refl _).adminOk _).fenceOut, hbumped, fenceOut_pairTo, pair_setEpoch]
      · rw [hbumped, fenceOut_pairTo, pair_setEpoch]
    · rfl

theorem pairTakeover_notLinkLost (h : s.pair.state ≠ 2 ∨ s.pair.taking ≠ none) : pairTakeover s a = pairRefuse s a 1 := by
  rw [pairTakeover, if_pos (by simpa [← Option.ne_none_iff_isSome] using h)]

theorem pairTakeover_alive (hs : s.pair.state = 2) (ht : s.pair.taking = none) (h : s.pair.aliveIn = true) :
    pairTakeover s a = pairRefuse s a 8 := by
  simp [pairTakeover, hs, ht, h]

/-- An operator's takeover of role A clears the marks and ends at once. -/
theorem takenOver_pairTakeover (hs : s.pair.state = 2) (ht : s.pair.taking = none) (h : s.pair.aliveIn = false)
    (hw : s.pair.awaiting = []) (hr : pairRole s = 1) : TakenOver s (pairTakeover s a) 3 [] := by
  have hend := takenOver_takeoverStart (s := { s with pair := { s.pair with takeAdm := some a } }) (exposed := true) ht
    (.inr hr) hw
  obtain ⟨⟨hstate, hrole, hepoch, hsetter⟩, hstale, hfence, htaking⟩ := hend
  rw [pairTakeover, if_neg (by simp [hs, ht]), if_neg (by simp [h])]
  exact ⟨⟨hstate, hrole, hepoch, hsetter⟩, hstale, hfence, htaking⟩

theorem pairYield_refused (h1 : s.pair.split = false) (h2 : s.pair.stale = []) : pairYield s a = pairRefuse s a 8 := by
  simp [pairYield, h1, h2]

/-- The pair once this module has yielded: all mirrored namespaces are marked, and any partner's epoch is higher. -/
structure Yielded (s t : State) : Prop where
  yielded : t.pair.yielded = true
  split : t.pair.split = false
  epoch : pairEpoch t = 0
  setter : pairSetter t = 0
  stale : t.pair.stale = mirroredNs s

theorem pair_reAna (s : State) (f : State → State) : (reAna s f).pair = (f s).pair := by
  rw [reAna, eq_of_hostless (hostless_anaEvents (f s) (anaAll s))]

theorem Yielded.of_kept {s t u : State} (hk : PairKept t u) (h : Yielded s t) : Yielded s u :=
  ⟨hk.yielded.trans h.yielded, hk.split.trans h.split, hk.epoch.trans h.epoch, hk.setter.trans h.setter,
    hk.stale.trans h.stale⟩

/-- The marks and the epoch 0 of a yield, before its HELLO. -/
def yieldMarked (s : State) : State :=
  setEpoch (reAna s (fun s => { s with pair := { s.pair with stale := mirroredNs s } })) 0 0

theorem stale_yieldMarked (s : State) : (yieldMarked s).pair.stale = mirroredNs s := by
  rw [yieldMarked, pair_setEpoch, pair_reAna]

theorem pairEpoch_yieldMarked (s : State) : pairEpoch (yieldMarked s) = 0 := by rw [yieldMarked, pairEpoch_setEpoch]
theorem pairSetter_yieldMarked (s : State) : pairSetter (yieldMarked s) = 0 := by rw [yieldMarked, pairSetter_setEpoch]

theorem yielded_marked {s u : State} (he : pairEpoch u = 0) (hs : pairSetter u = 0) (hst : u.pair.stale = mirroredNs s) :
    Yielded s { u with pair := { u.pair with yielded := true, split := false } } :=
  ⟨rfl, rfl, he, hs, hst⟩

/-- A yield after its marks: the HELLO and the completion. -/
def yieldSent (s : State) (a : Adm) : State :=
  let s := { s with pair := { s.pair with yielded := true, split := false } }
  adminOk (if linkUp s then sendHello s else s) a

theorem Yielded.sent {s u : State} (h : Yielded s { u with pair := { u.pair with yielded := true, split := false } }) :
    Yielded s (yieldSent u a) :=
  h.of_kept (((PairKept.refl _).sendHello.ite (.refl _)).adminOk a)

theorem pairYield_runs (h : s.pair.split = true ∨ s.pair.stale ≠ []) : pairYield s a = yieldSent (yieldMarked s) a := by
  rw [pairYield, if_neg (by simpa [Classical.or_iff_not_imp_left] using h), yieldSent, yieldMarked]

theorem yielded_pairYield (h : s.pair.split = true ∨ s.pair.stale ≠ []) : Yielded s (pairYield s a) := by
  rw [pairYield_runs h]
  exact (yielded_marked (pairEpoch_yieldMarked s) (pairSetter_yieldMarked s) (stale_yieldMarked s)).sent

end Control

/-- Settles O46: each operation by what Table 14.2 asks of the pair, and the record it leaves. -/
theorem pairControlOperations : Obligations.PairControlOperations := by
  unfold Obligations.PairControlOperations
  intro s a rest p hopen hrec hfn hrest refuses record
  have h : ControlOpen s a rest := ⟨hopen, hrec, hfn, hrest⟩
  have hform {r : Nat} (hr : formRefusal s p = some r) : refuses (.pairForm a 1 rest p) r :=
    (exec_pairForm h p).trans (congrArg _ (pairForm_refused hr))
  refine ⟨fun hno => hform (formRefusal_notSingle hno), fun hs hp hno => hform (formRefusal_noPartner hs hp hno),
    fun hs hp hl ha hacc hno => hform (formRefusal_otherKey hs hp hl ha hacc hno), fun r hr => hform hr, fun hr => ?form,
    fun hs => ?notInStep, fun hs hm => ?mirrored, fun hs hm => ?dissolved, fun hs => ?fenceSingle, fun hs => ?fenced,
    fun hf => ?notFenced, fun hf => ?released, fun hs => ?notLost, fun hs ht ha => ?alive,
    fun hs ht ha hw hr => ?takenOver, fun h1 h2 => ?noYield, fun hy => ?yielded, fun o ho => ?reserved⟩
  case form =>
    obtain ⟨⟨hstate, hrole, hepoch, hsetter⟩, hstale, hsplit, hhomed⟩ := formed_pairForm hr a
    exact ⟨_, exec_pairForm h p, ⟨hstate, hrole, hepoch, hsetter⟩, hstale, hsplit, hhomed⟩
  case notInStep => exact (exec_pairDissolve h).trans (congrArg _ (pairDissolve_notInStep hs))
  case mirrored => exact (exec_pairDissolve h).trans (congrArg _ (pairDissolve_mirrored hs hm))
  case dissolved =>
    obtain ⟨hstate, hrole, hepoch, hsetter⟩ := pairRecord_pairDissolve (a := a) hs hm
    exact ⟨_, exec_pairDissolve h, hstate, hrole, hepoch, hsetter⟩
  case fenceSingle => exact (exec_pairFence h).trans (congrArg _ (if_pos hs))
  case fenced =>
    refine ⟨_, (exec_pairFence h).trans (congrArg _ (if_neg hs)), ?_⟩
    exact ((PairKept.refl _).adminOk a).fenceOut.trans (fenceOut_takeoverEnd _)
  case notFenced => exact (exec_pairRelease h).trans (congrArg _ (if_pos (by simp [hf])))
  case released => exact (exec_pairRelease h).trans (congrArg _ (if_neg (by simp [hf])))
  case notLost => exact (exec_pairTakeover h).trans (congrArg _ (pairTakeover_notLinkLost hs))
  case alive => exact (exec_pairTakeover h).trans (congrArg _ (pairTakeover_alive hs ht ha))
  case takenOver =>
    obtain ⟨⟨hstate, hrole, hepoch, hsetter⟩, hstale, hfence, htaking⟩ := takenOver_pairTakeover (a := a) hs ht ha hw hr
    exact ⟨_, exec_pairTakeover h, ⟨hstate, hrole.trans hr, hepoch, hsetter.trans hr⟩, hstale, hfence, htaking⟩
  case noYield => exact (exec_pairYield h).trans (congrArg _ (pairYield_refused h1 h2))
  case yielded =>
    obtain ⟨hyielded, hsplit, hepoch, hsetter, hstale⟩ := yielded_pairYield (a := a) hy
    exact ⟨_, exec_pairYield h, hyielded, hsplit, hepoch, hsetter, hstale⟩
  case reserved =>
    refine pairControl_reserved h (by decide) ?_ _
    cases ho with
    | inl h0 => subst h0; exact .inl (by decide)
    | inr h7 => subst h7; exact .inr (by decide)

end Sys2Proof.Machine
end

section
/-!
SUPPORT. The hawser link: the fields of a flit, the flits a sub-link holds and the messages it carries (R367 to R372).
-/
namespace Sys2Proof.Machine

/-! ### Sub-links -/

section Subs
variable (s : State) (k : Nat) (l : SubLink)

@[simp] theorem getSub_setSub_same : getSub (setSub s k l) k = l := by
  unfold getSub setSub
  split <;> rfl

theorem getSub_setSub_other {j : Nat} (h : j = 0 ↔ k ≠ 0) : getSub (setSub s k l) j = getSub s j := by
  unfold getSub setSub
  by_cases hk : k = 0 <;> simp [hk, h]

@[simp] theorem out_setSub : (setSub s k l).out = s.out := by
  unfold setSub
  split <;> rfl

/-- A counter of a sub-link's events is no part of it. -/
@[simp] theorem getSub_bump (i sub n : Nat) : getSub (bump s i sub n) k = getSub s k := rfl
@[simp] theorem getSub_emit (o : Out) : getSub (emit s o) k = getSub s k := rfl

end Subs

/-! ### The fields of a flit (Table 14.3) -/

section Flit
variable {ack : Nat} {f : HFlit}

theorem length_flitHead (ack : Nat) (h : f.payload.length ≤ 240) : (flitHead ack f).length = 252 := by
  simp [flitHead, padTo]
  omega

/-- The fields of a flit, each within its bytes. -/
structure FlitFields (ack : Nat) (f : HFlit) (b : List Byte) : Prop where
  length : b.length = 256
  ftype : recNat b 0 1 = 1
  flags : recNat b 1 1 = b2n f.som + 2 * b2n f.eom
  bytes : recNat b 2 2 = f.payload.length
  fseq : recNat b 4 4 = f.fseq
  payload : (b.drop 8).take f.payload.length = f.payload
  ack : recNat b 248 4 = ack
  check : recNat b 252 4 = crc32c (b.take 252)

theorem flitFields_flitBytes (hack : ack < 2 ^ 32) (hseq : f.fseq < 2 ^ 32) (hlen : f.payload.length ≤ 240) :
    FlitFields ack f (flitBytes ack f) := by
  have hhead := length_flitHead ack hlen
  have hpad : (padTo 240 f.payload).length = 240 := by simp [padTo]; omega
  have hstart : flitBytes ack f = [1, BitVec.ofNat 8 (b2n f.som + 2 * b2n f.eom)] ++ (leBytes 2 f.payload.length ++
      (leBytes 4 f.fseq ++ (padTo 240 f.payload ++ (leBytes 4 ack ++ leBytes 4 (crc32c (flitHead ack f)))))) := by
    simp [flitBytes, flitHead]
  obtain ⟨front, hfront, hbytes⟩ : ∃ front : List Byte, front.length = 2 ∧ flitBytes ack f = front ++ (leBytes 2 f.payload.length ++
      (leBytes 4 f.fseq ++ (padTo 240 f.payload ++ (leBytes 4 ack ++ leBytes 4 (crc32c (flitHead ack f)))))) := ⟨_, rfl, hstart⟩
  have hcheck := crc32c_lt (flitHead ack f)
  norm_num at hack hseq hcheck
  refine ⟨by simp [flitBytes, hhead], by simp [hstart, recNat, ofLe], ?flags, ?bytes, ?fseq, ?payload, ?ack, ?check⟩
  case flags => cases hs : f.som <;> cases he : f.eom <;> simp [hstart, recNat, ofLe, b2n, hs, he]
  case bytes =>
    have hshort : f.payload.length < 65536 := by omega
    simp [hbytes, hfront, recNat_append_right, recNat_leBytes_append, Nat.mod_eq_of_lt, hshort]
  case fseq => simp [hbytes, hfront, recNat_append_right, recNat_leBytes_append, Nat.mod_eq_of_lt, hseq]
  case payload =>
    have hdrop : (flitBytes ack f).drop 8 = padTo 240 f.payload ++ (leBytes 4 ack ++ leBytes 4 (crc32c (flitHead ack f))) := by
      simp [hstart, List.drop_append]
    rw [hdrop, padTo, List.append_assoc, List.take_left]
  case ack => simp [hbytes, hfront, recNat_append_right, recNat_leBytes_append, hpad, Nat.mod_eq_of_lt, hack]
  case check =>
    rw [flitBytes, recNat_append_right _ _ hhead.le, ← hhead, List.take_left, Nat.sub_self, recNat_leBytes]
    exact Nat.mod_eq_of_lt hcheck

theorem FlitFields.formed {b : List Byte} (h : FlitFields ack f b) (hne : f.payload ≠ []) (hlen : f.payload.length ≤ 240) :
    flitFormed b = true := by
  have hpos := List.length_pos_iff.mpr hne
  have hflags : recNat b 1 1 < 4 := by
    rw [h.flags]
    cases f.som <;> cases f.eom <;> decide
  simp [flitFormed, h.length, h.check, h.ftype, h.bytes, hflags, hlen]
  omega

end Flit

/-! ### Receiving a flit -/

section Receive
variable {s : State} {k : Nat} {b : List Byte}

theorem receiveFlit_dropped (h : flitFormed b = false ∨ (recNat b 0 1 = 1 ∧ recNat b 4 4 ≠ ((getSub s k).recvSeq + 1) % 2 ^ 32)) :
    receiveFlit s k b = bump s 0x8010 4 1 := by
  unfold receiveFlit
  exact if_pos (by simpa using h)

theorem receiveFlit_message (hf : flitFormed b = true) (ht : recNat b 0 1 = 1)
    (hs : recNat b 4 4 = ((getSub s k).recvSeq + 1) % 2 ^ 32) :
    receiveFlit s k b = takeFlit (ackTo (noteValid s) k (recNat b 248 4)) k b := by
  simp [receiveFlit, hf, ht, hs]

theorem receiveFlit_control (hf : flitFormed b = true) (ht : recNat b 0 1 = 0) :
    receiveFlit s k b = ackTo (noteValid s) k (recNat b 248 4) := by
  simp [receiveFlit, hf, ht]

/-- An ACKSEQ that names no held flit lets none go. -/
theorem ackTo_none {ack : Nat} (h : ∀ x ∈ (getSub s k).held, x.fseq ≠ ack) : ackTo s k ack = s := by
  unfold ackTo
  exact if_neg (by simpa using h)

/-- A part of a message that is not its last joins the message. -/
theorem takeFlit_more {ack : Nat} {f : HFlit} (h : FlitFields ack f b) (he : f.eom = false) :
    takeFlit s k b = setSub s k { getSub s k with
      recvSeq := f.fseq, inbox := (if f.som then [] else (getSub s k).inbox) ++ f.payload } := by
  have hsom : bitOf (recNat b 1 1) 0 = f.som := by rw [h.flags, he]; cases f.som <;> rfl
  have heom : bitOf (recNat b 1 1) 1 = false := by rw [h.flags, he]; cases f.som <;> rfl
  simp [takeFlit, hsom, heom, h.fseq, h.bytes, h.payload]

/-- An ACKSEQ lets the flits up to the one it names go. -/
theorem ackTo_covers {f : HFlit} {pre post : List HFlit} (hheld : (getSub s k).held = pre ++ f :: post)
    (hqueue : (getSub s k).queue = []) (hpre : ∀ x ∈ pre, x.fseq ≠ f.fseq) :
    ∃ msgs, ackTo s k f.fseq = setSub (setSub s k { getSub s k with held := post, queue := [] }) k
      { getSub s k with held := post, queue := [], msgs := msgs } := by
  have hdrop : (pre ++ f :: post).dropWhile (fun x => x.fseq != f.fseq) = f :: post := by
    rw [List.dropWhile_append_of_pos (by simpa using hpre), List.dropWhile_cons_of_neg (by simp)]
  unfold ackTo
  dsimp only
  rw [if_pos (by simp [hheld]), hheld, hdrop, hqueue]
  simp only [List.foldl_nil, List.drop_succ_cons, List.drop_zero, getSub_setSub_same]
  exact ⟨_, rfl⟩

end Receive

/-! ### Sending -/

/-- The messages a sub-link carries, and the other sub-link. -/
theorem getSub_pushFlit_other (s : State) {k j : Nat} (h : j = 0 ↔ k ≠ 0) (f : HFlit) :
    getSub (pushFlit s k f) j = getSub s j := by
  unfold pushFlit
  dsimp only
  split
  · rw [getSub_emit, getSub_setSub_other _ _ _ h]
  · exact getSub_setSub_other _ _ _ h

theorem msgs_pushFlit (s : State) (k : Nat) (f : HFlit) : (getSub (pushFlit s k f) k).msgs = (getSub s k).msgs := by
  unfold pushFlit
  dsimp only
  split <;> simp

theorem getSub_sendOn_other (s : State) {k j : Nat} (h : j = 0 ↔ k ≠ 0) (m : HawMsg) : getSub (sendOn s k m) j = getSub s j :=
  (foldl_keeps (getSub · j) (fun u f => getSub_pushFlit_other u h f) _ _).trans (getSub_setSub_other _ _ _ h)

theorem msgs_sendOn (s : State) (k : Nat) (m : HawMsg) : (getSub (sendOn s k m) k).msgs = (getSub s k).msgs ++ [m] :=
  (foldl_keeps (fun u => (getSub u k).msgs) (fun u f => msgs_pushFlit u k f) _ _).trans (by simp)

theorem up_pushFlit (s : State) (k : Nat) (f : HFlit) : (getSub (pushFlit s k f) k).up = (getSub s k).up := by
  unfold pushFlit
  dsimp only
  split <;> simp

theorem up_sendOn (s : State) (k : Nat) (m : HawMsg) : (getSub (sendOn s k m) k).up = (getSub s k).up :=
  (foldl_keeps (fun u => (getSub u k).up) (fun u f => up_pushFlit u k f) _ _).trans (by simp)

theorem up_resent (k : Nat) (ms : List HawMsg) (s : State) :
    (getSub (ms.foldl (fun s m => sendOn s k m) s) k).up = (getSub s k).up :=
  foldl_keeps (fun u => (getSub u k).up) (fun u m => up_sendOn u k m) _ _

theorem getSub_resent_other {k j : Nat} (h : j = 0 ↔ k ≠ 0) (ms : List HawMsg) (s : State) :
    getSub (ms.foldl (fun s m => sendOn s k m) s) j = getSub s j :=
  foldl_keeps (getSub · j) (fun u m => getSub_sendOn_other u h m) _ _

theorem msgs_resent (k : Nat) (ms : List HawMsg) (s : State) :
    (getSub (ms.foldl (fun s m => sendOn s k m) s) k).msgs = (getSub s k).msgs ++ ms := by
  induction ms generalizing s with
  | nil => simp
  | cons m ms ih => rw [List.foldl_cons, ih, msgs_sendOn, List.append_assoc, List.singleton_append]

/-- The flits go out in order, and nothing else changes. -/
theorem foldl_emit {α : Type} (g : α → Out) (l : List α) (s : State) :
    l.foldl (fun s x => emit s (g x)) s = { s with out := (l.map g).reverse ++ s.out } := by
  induction l generalizing s with
  | nil => rfl
  | cons x l ih =>
    rw [List.foldl_cons, ih, List.map_cons, List.reverse_cons, List.append_assoc]
    rfl

/-- Every held flit is resent, in order, and stays held (R368). -/
theorem replay_resends (s : State) (k : Nat) :
    (replay s k).out = ((getSub s k).held.map (fun f => Out.flit k (flitBytes (getSub s k).recvSeq f))).reverse ++ s.out ∧
      getSub (replay s k) k = getSub s k := by
  unfold replay
  rw [foldl_emit]
  exact ⟨rfl, rfl⟩

/-! ### A sub-link lost and trained -/

/-- A lost sub-link whose messages go whole on the other. -/
structure MovedOver (s t : State) (k : Nat) : Prop where
  down : (getSub t k).up = false
  held : (getSub t k).held = []
  moved : (getSub t (1 - k)).msgs = (getSub s (1 - k)).msgs ++ (getSub s k).msgs
  state : t.pair.state = s.pair.state
  otherUp : (getSub t (1 - k)).up = true

theorem state_of_linkless {s t : State} (h : linkless t = linkless s) : t.pair.state = s.pair.state :=
  congrArg (fun u => u.pair.state) h

theorem linkless_moveMessages (s : State) (k : Nat) : linkless (moveMessages s k) = linkless s := by
  unfold moveMessages
  dsimp only
  split
  · rw [foldl_keeps linkless (fun u m => linkless_sendOn u _ m), linkless_setSub]
  · rw [linkless_setSub]

theorem movedOver_moveMessages {s : State} {k : Nat} (hk : k < 2) (hdown : (getSub s k).up = false)
    (hother : (getSub s (1 - k)).up = true) : MovedOver s (moveMessages s k) k := by
  have hne : (1 - k) = 0 ↔ k ≠ 0 := by omega
  have hne' : k = 0 ↔ (1 - k) ≠ 0 := by omega
  have hstate := state_of_linkless (linkless_moveMessages s k)
  obtain ⟨l, hl⟩ : ∃ l : SubLink, l = { getSub s k with held := [], queue := [], msgs := [], inbox := [] } := ⟨_, rfl⟩
  have hemptied : getSub (setSub s k l) (1 - k) = getSub s (1 - k) := getSub_setSub_other _ _ _ hne
  have hmoved : moveMessages s k = (getSub s k).msgs.foldl (fun s m => sendOn s (1 - k) m) (setSub s k l) := by
    rw [moveMessages, ← hl]
    exact if_pos (hemptied ▸ hother)
  have hk' : getSub (moveMessages s k) k = l := by rw [hmoved, getSub_resent_other hne', getSub_setSub_same]
  refine ⟨by rw [hk', hl, hdown], by rw [hk', hl], by rw [hmoved, msgs_resent, hemptied], hstate, ?_⟩
  rw [hmoved, up_resent, hemptied, hother]

theorem linkUp_of_sub {s : State} {k : Nat} (h : (getSub s k).up = true) : linkUp s = true := by
  unfold getSub at h
  split at h <;> simp [linkUp, h]

theorem movedOver_subLost {s : State} {k : Nat} (hk : k < 2) (hother : (getSub s (1 - k)).up = true) :
    MovedOver s (subLost s k) k := by
  have hne : (1 - k) = 0 ↔ k ≠ 0 := by omega
  obtain ⟨u, hu⟩ : ∃ u, u = setSub (bump s 0x8010 1 1) k { getSub s k with up := false } := ⟨_, rfl⟩
  have huk : getSub u k = { getSub s k with up := false } := by rw [hu, getSub_setSub_same]
  have huo : getSub u (1 - k) = getSub s (1 - k) := by rw [hu, getSub_setSub_other _ _ _ hne, getSub_bump]
  have hm : MovedOver u (moveMessages u k) k := movedOver_moveMessages hk (by rw [huk]) (huo ▸ hother)
  have hlost : subLost s k = moveMessages u k := by
    unfold subLost
    dsimp only
    rw [← hu, if_pos (linkUp_of_sub hm.otherUp)]
  have hstate : u.pair.state = s.pair.state := by
    rw [hu, state_of_linkless (linkless_setSub _ _ _)]
    rfl
  rw [hlost]
  exact ⟨hm.down, hm.held, by rw [hm.moved, huo, huk], hm.state.trans hstate, hm.otherUp⟩

@[simp] theorem pairRole_setSub (s : State) (k : Nat) (l : SubLink) : pairRole (setSub s k l) = pairRole s :=
  (PairKept.of_linkless (linkless_setSub s k l)).role

/-- A sub-link of a link that is up joins it; the first one forgets what was applied, and the modules of a pair say HELLO. -/
theorem subTrained_joins {s : State} (h : linkUp s = true) (k : Nat) :
    subTrained s k = setSub s k { SubLink.down with up := true } := by simp [subTrained, h]

theorem subTrained_first {s : State} (h : linkUp s = false) (k : Nat) :
    let t := setSub s k { SubLink.down with up := true }
    let u := { t with pair := { t.pair with mseqIn := [] } }
    subTrained s k = if pairRole s = 0 then u else sendHello u := by
  have hrole : pairRole { setSub s k { SubLink.down with up := true } with
      pair := { (setSub s k { SubLink.down with up := true }).pair with mseqIn := [] } } = pairRole s := pairRole_setSub _ _ _
  simp only [subTrained, h, hrole]
  rfl

/-! ### Messages of the partner (R369, R371) -/

section Messages
variable {s : State} {k : Nat} {h : MsgHdr} (hup : subUp s k = true)
include hup

theorem message_malformed (pre : Bool) (f : State → State) : message s k h false pre f = .next (badFlit (noteValid s)) := by
  simp [message, hup]

theorem message_repeated (hf : fresh s h = false) (pre : Bool) (f : State → State) :
    message s k h true pre f = .next (noteValid s) := by
  simp [message, hup, hf]

theorem message_applied (hf : fresh s h = true) {pre : Bool} (hpre : pre = true) (f : State → State) :
    message s k h true pre f = .next (f (seen (noteValid s) h)) := by
  simp [message, hup, hf, hpre]

end Messages

/-! ### BEAT -/

theorem media_sendBeat (s : State) : (sendBeat s).media = { s.media with peerBeat := s.media.peerJsn } ∧
    (sendBeat s).pair.state = s.pair.state := by
  have hkept : linkless (sendBeat s) = linkless { s with media := { s.media with peerBeat := s.media.peerJsn } } := by
    refine foldl_keeps linkless (fun u k => ?_) _ _
    split
    · exact linkless_sendOn _ _ _
    · rfl
  exact ⟨congrArg (·.media) hkept, congrArg (·.pair.state) hkept⟩

/-- A BEAT outside a resynchronisation starts no copy. -/
theorem copyNext_idle {s : State} (h : s.pair.state ≠ 4) : copyNext s = s := if_pos (.inl h)

/-- Settling leaves the partner's acknowledgement and the link as they stand. -/
theorem beat_acknowledges (s : State) (h : MsgHdr) :
    (beat s h).media.partnerAck = max s.media.partnerAck h.aux64 ∧ (beat s h).pair = s.pair := by
  unfold beat
  rw [eq_of_hostless (hostless_settleAdm _)]
  exact ⟨rfl, rfl⟩

/-- Settles O47: by the fields of a flit, what its ACKSEQ lets go, and what a lost sub-link leaves to the other. -/
theorem flitsAreSequencedAndResent : Obligations.FlitsAreSequencedAndResent := by
  unfold Obligations.FlitsAreSequencedAndResent
  intro s k ack b f pre post h l drops trained
  have hreceive (hup : subUp s k = true) (b : List Byte) : exec (.flitReceive k b) s = .next (receiveFlit s k b) := by
    show execFlitReceive k b s = _
    rw [execFlitReceive, hup, when_true]
  have htrained (ht : canTrain s k = true) : exec (.sublinkTrained k) s = .next (subTrained s k) := by
    show execSublinkTrained k s = _
    rw [execSublinkTrained, ht, when_true]
  have hretried (ht : canTrain s k = true) : exec (.sublinkTrainRetry k true) s = .next (subTrained s k) := by
    show execSublinkTrainRetry k true s = _
    rw [execSublinkTrainRetry, ht, Bool.and_self, when_true]
  refine ⟨fun hup => ⟨fun hbad => ?malformed, fun htype hseq => ?outOfOrder, fun hack hheld hne hlen heom hseq => ?inOrder,
    fun hformed htype hheld hqueue hack hpre => ?acknowledges, fun hne => ?replays, fun hother => ?moves,
    fun hbody hfresh => ?beat⟩, fun htrain => ⟨fun hlink => ?joins, fun hlink => ⟨fun hrole => ?alone, fun hrole => ?greets⟩⟩,
    ?waits, fun hlink hstate => ?beats, (congrArg (·.peerBeat) (media_sendBeat s).1).trans rfl⟩
  case malformed => exact (hreceive hup b).trans (congrArg _ (receiveFlit_dropped (.inl hbad)))
  case outOfOrder => exact (hreceive hup b).trans (congrArg _ (receiveFlit_dropped (.inr ⟨htype, hseq⟩)))
  case inOrder =>
    have hfields : FlitFields ack f (flitBytes ack f) := flitFields_flitBytes hack (by omega) hlen
    refine ⟨_, hreceive hup _, ?_⟩
    rw [receiveFlit_message (hfields.formed hne hlen) hfields.ftype (hfields.fseq.trans hseq), hfields.ack,
      ackTo_none (s := noteValid s) hheld, takeFlit_more hfields heom]
    rfl
  case acknowledges =>
    obtain ⟨msgs, hcovers⟩ := ackTo_covers (s := noteValid s) hheld hqueue hpre
    refine ⟨_, hreceive hup b, ?_⟩
    rw [receiveFlit_control hformed htype, ← hack, hcovers]
    refine ⟨?_, ?_, ?_, ?_⟩ <;> simp only [getSub_setSub_same, out_setSub] <;> rfl
  case replays =>
    refine ⟨_, ?_, replay_resends s k⟩
    show execFlitReplay k s = _
    rw [execFlitReplay, when_of (by simp [hup, show (getSub s k).held ≠ [] from hne])]
  case moves =>
    have hk : k < 2 := by
      simp only [subUp, Bool.and_eq_true, decide_eq_true_eq] at hup
      exact hup.1
    obtain ⟨hdown, hheld, hmoved, hstate, -⟩ := movedOver_subLost hk hother
    refine ⟨_, ?_, hdown, hheld, hmoved, hstate⟩
    show execSublinkLoss k s = _
    rw [execSublinkLoss, hup, when_true]
  case beat =>
    obtain ⟨hack, hpair⟩ := beat_acknowledges (seen (noteValid s) h) h
    refine ⟨_, ?_, hack, congrArg (·.mseqIn) hpair, congrArg (·.lastFlit) hpair⟩
    show execBeat k h b s = _
    rw [execBeat, hbody, message_applied hup hfresh rfl]
  case joins => exact ⟨(htrained htrain).trans (congrArg _ (subTrained_joins hlink k)),
    (hretried htrain).trans (congrArg _ (subTrained_joins hlink k))⟩
  case alone => exact (htrained htrain).trans (congrArg _ ((subTrained_first hlink k).trans (if_pos hrole)))
  case greets => exact (htrained htrain).trans (congrArg _ ((subTrained_first hlink k).trans (if_neg hrole)))
  case waits =>
    show execSublinkTrainRetry k false s = _
    rw [execSublinkTrainRetry, Bool.and_false, when_false]
  case beats =>
    show execBeatSend s = _
    rw [execBeatSend, hlink, when_true, copyNext_idle ((media_sendBeat s).2 ▸ hstate)]

end Sys2Proof.Machine
end

section
/-!
SUPPORT. What a HELLO decides, the alive and fence lines, and the lone start (R373, R374, R378 to R386, Table 14.8).
-/
namespace Sys2Proof.Machine

/-! ### HELLO -/

section Hello
variable {s : State} {k : Nat} {h : MsgHdr} {b : List Byte}

/-- The state in which a message is applied: it is noted as seen. -/
def applied (s : State) (h : MsgHdr) : State := seen (noteValid s) h

theorem exec_hello (hup : subUp s k = true) (hformed : helloFormed h b = true) (hfresh : fresh s h = true) :
    exec (.hello k h b) s = .next (hello (applied s h) h b) := by
  show execHello k h b s = _
  rw [execHello, hformed, message_applied hup hfresh rfl]
  rfl

theorem hello_forms (hs : s.pair.state = 0) (haux : h.aux32 = 1) (hepoch : recNat b 36 4 = 1) (hrec : dget s 0x8000 3 = 1)
    (hkey : s.eng.moduleKey ≠ none) (hm : helloMatches s h b = true) (hc : cleanForB s = true) :
    hello s h b = formPair s 2 (recNat b 0 16) (recNat b 16 8) := by
  have hsome : s.eng.moduleKey.isSome = true := Option.isSome_iff_ne_none.2 hkey
  unfold hello
  simp only [hs, haux, hepoch, hrec, hsome, hm, hc, beq_self_eq_true, Bool.and_self, if_true, when_true]

theorem hello_dissolves (hs : s.pair.state = 1) (haux : h.aux32 = 0) (hepoch : recNat b 36 4 = 0)
    (hmine : recNat b 0 16 = dget s 0x8000 0xA) : hello s h b = dissolvePair s := by
  unfold hello
  dsimp only
  rw [if_neg (by omega), if_pos hs, when_of (by simp [haux, hepoch, hmine])]

theorem hello_resyncing (hs : s.pair.state = 4) :
    hello s h b = when (recNat b 41 1 == 4) s
      (let s := reAna s (fun s => { s with pair := { s.pair with stale := [], peerEpoch := recNat b 36 4, peerSetter := recNat b 40 1 } })
       if s.pair.copying.isEmpty then inStep s else s) := by
  unfold hello
  dsimp only
  rw [if_neg (by omega), if_neg (by omega), if_pos hs]

/-- A module that is alone looks at whose HELLO it is. -/
theorem hello_alone (hs : s.pair.state = 2 ∨ s.pair.state = 3) :
    hello s h b = if recNat b 0 16 ≠ dget s 0x8000 0xA ∨ helloMatches s h b = false then
      { s with pair := { s.pair with refused := true } } else compareEpochs s b := by
  unfold hello
  dsimp only
  rw [if_neg (by omega), if_neg (by omega), if_neg (by omega)]
  simp only [Bool.not_eq_true']

theorem compareEpochs_lower (he : recNat b 36 4 < pairEpoch s) :
    compareEpochs s b = rejoin s (mirroredNs s) (recNat b 36 4) (recNat b 40 1) (bitOf (recNat b 42 1) 1) := if_pos he

theorem compareEpochs_higher (he : pairEpoch s < recNat b 36 4) :
    compareEpochs s b = rejoin s [] (recNat b 36 4) (recNat b 40 1) (bitOf (recNat b 42 1) 1) :=
  (if_neg (by omega)).trans (if_pos he)

theorem compareEpochs_same (he : recNat b 36 4 = pairEpoch s) (hs : recNat b 40 1 = pairSetter s) :
    compareEpochs s b = rejoin s ((mirroredNs s).filter (fun n => (getNs s n).home = 0)) (recNat b 36 4) (recNat b 40 1)
      (bitOf (recNat b 42 1) 1) :=
  (if_neg (by omega)).trans ((if_neg (by omega)).trans (if_pos hs))

/-- Two setters of one epoch: the pair is split, and role B marks all that is mirrored. -/
theorem compareEpochs_split (he : recNat b 36 4 = pairEpoch s) (hs : recNat b 40 1 ≠ pairSetter s) :
    (compareEpochs s b).pair.split = true ∧ (compareEpochs s b).pair.state = s.pair.state ∧
      (compareEpochs s b).pair.stale = if pairRole s = 2 then mirroredNs s else s.pair.stale := by
  have hsplit : compareEpochs s b =
      (let s := { s with pair := { s.pair with split := true, refused := false } }
       if pairRole s = 2 then reAna s (fun t => { t with pair := { t.pair with stale := mirroredNs s } }) else s) :=
    (if_neg (by omega)).trans ((if_neg (by omega)).trans (if_neg hs))
  have hrole : pairRole { s with pair := { s.pair with split := true, refused := false } } = pairRole s := rfl
  rw [hsplit]
  simp only [hrole]
  split
  · simp only [pair_reAna, true_and]
    rfl
  · exact ⟨rfl, rfl, rfl⟩

end Hello

/-! ### The lines -/

section Lines
variable {s : State}

/-- A partner that the link still reaches, or that there is none to lose, is not lost. -/
theorem partnerLost_none (h : linkUp s = true ∨ s.pair.state = 0 ∨ s.pair.state = 3) : partnerLost s = s := by
  unfold partnerLost
  refine if_pos ?_
  obtain hl | h0 | h3 := h
  · exact .inr (.inl hl)
  · exact .inl h0
  · exact .inr (.inr (.inr (.inr (.inl h3))))

/-- From In step a module that does not take over by itself goes to Link lost. -/
theorem partnerLost_inStep (hl : linkUp s = false) (hs : s.pair.state = 1) (hin : s.pair.aliveIn = false)
    (hfault : s.pair.aliveFault = false) (hb : s.power.bootWait ≠ 3) (ha : dget s 0x8000 4 ≠ 1) :
    partnerLost s = pairSet (failForwards s) 2 := by
  unfold partnerLost
  rw [if_neg (by simp [hl, hs, hin, hfault, hb]), if_neg ha, if_neg (by omega)]

/-- Link lost leaves nothing forwarded, and the fence as it stood. -/
theorem linkLost_pairSet (s : State) : let t := pairSet (failForwards s) 2
    t.pair.state = 2 ∧ t.pair.fwd = [] ∧ t.pair.fenceOut = s.pair.fenceOut := by
  have hk := pairKept_failForwards s
  exact ⟨state_pairTo _ _ _, fwd_pairTo _ _ _ (hk.fwd_nil rfl), (fenceOut_pairTo _ _ _).trans hk.fenceOut⟩

/-- The fence after its delay: the takeover that waited for it ends. -/
theorem takenOver_fenced {r : TkRec} (ht : s.pair.taking = some r) (ha : s.pair.awaiting = []) :
    TakenOver s (takeoverEnd (setFence s true)) (if takeoverStale s = [] then 3 else 2) (takeoverStale s) := by
  obtain ⟨⟨hstate, hrole, hepoch, hsetter⟩, hstale, hfence, htaking⟩ := takenOver_takeoverEnd (s := setFence s true) ht rfl ha
  exact ⟨⟨hstate, hrole, hepoch, hsetter⟩, hstale, hfence, htaking⟩

theorem takeoverStale_nil : takeoverStale s = [] ↔ s.pair.stale = [] ∨ s.pair.takeAdm ≠ none := by
  unfold takeoverStale
  cases s.pair.takeAdm <;> simp

theorem exec_fenceDelayExpiry {r : TkRec} (ht : s.pair.taking = some r) : exec .fenceDelayExpiry s =
    .next (when (decide (r.time + 5 ≤ s.nowMs) && pairRole s == 2 && !s.pair.fenceOut) s (takeoverEnd (setFence s true))) := by
  show execFenceDelayExpiry s = _
  rw [execFenceDelayExpiry, ht]
  rfl

/-- The marks of a lone start by the last state before it. -/
theorem loneStale_of_last (h : dget s 0x8000 9 ≠ 3) : loneStale s =
    if dget s 0x8000 9 = 1 ∨ dget s 0x8000 9 = 2 then (mirroredNs s).filter (fun n => (getNs s n).home ≠ 0) else mirroredNs s := by
  unfold loneStale
  split
  case h_1 h3 => exact absurd h3 h
  case h_2 h1 => rw [if_pos (.inl h1)]
  case h_3 h2 => rw [if_pos (.inr h2)]
  case h_4 h1 h2 => rw [if_neg (not_or.2 ⟨h1, h2⟩)]

/-- A lone start of a module that was no survivor: Link lost with its marks, and the boot waits for nothing. -/
theorem loneStart_linkLost (h : dget s 0x8000 9 ≠ 3) : (loneStart s).pair.state = 2 ∧ (loneStart s).power.bootWait = 0 ∧
    (loneStart s).pair.stale = loneStale s := by
  have hstart : loneStart s = pairTo { s with power := { s.power with bootWait := 0 } } 2 (fun p => { p with stale := loneStale s }) := by
    unfold loneStart
    exact if_neg (by simp [h])
  rw [hstart]
  exact ⟨state_pairTo _ _ _, congrArg (·.bootWait) (power_pairTo _ _ _), stale_pairTo _ _ _⟩

end Lines

/-- Settles O49: Table 14.8 by the state of the pair and the epochs, then each line's event. -/
theorem rejoinAliveAndFence : Obligations.RejoinAliveAndFence := by
  unfold Obligations.RejoinAliveAndFence
  refine ⟨?hello, ?lines⟩
  case hello =>
    intro s k h b hup hformed hfresh v does epoch setter mine they ms
    have hdoes {t : State} (ht : hello (applied s h) h b = t) : does t :=
      (exec_hello hup hformed hfresh).trans (congrArg _ ht)
    refine ⟨fun hs haux hepoch hrec hkey hm hc => hdoes (hello_forms (s := applied s h) hs haux hepoch hrec hkey hm hc),
      fun hs haux hepoch hmine => hdoes (hello_dissolves (s := applied s h) hs haux hepoch hmine),
      fun hs hother => ?waiting, fun hs hthey => ?done, fun hs => ⟨fun hno => ?refused, fun hmine hm => ?compares⟩⟩
    case waiting =>
      refine hdoes ((hello_resyncing (s := applied s h) hs).trans ?_)
      exact when_unless (by simp [hother]) _ _
    case done =>
      refine hdoes ((hello_resyncing (s := applied s h) hs).trans ?_)
      rw [when_of (by simp [hthey])]
      simp only [pair_reAna, List.isEmpty_iff]
      rfl
    case refused => exact hdoes ((hello_alone (s := applied s h) hs).trans (if_pos hno))
    case compares =>
      have hcompares : hello (applied s h) h b = compareEpochs (applied s h) b :=
        (hello_alone (s := applied s h) hs).trans (if_neg (by
          rw [not_or, not_not]
          exact ⟨hmine, by rw [show helloMatches (applied s h) h b = true from hm]; decide⟩))
      refine ⟨fun he => hdoes (hcompares.trans (compareEpochs_lower (s := applied s h) he)),
        fun he => hdoes (hcompares.trans (compareEpochs_higher (s := applied s h) he)),
        fun he hset => hdoes (hcompares.trans (compareEpochs_same (s := applied s h) he hset)), fun he hset => ?_⟩
      exact ⟨_, hdoes hcompares, compareEpochs_split (s := applied s h) he hset⟩
  case lines =>
    intro s p last
    refine ⟨fun hin hfault => ?low, fun hin hfault hlink => ?fault, fun hno => ?high, fun r ht hearly => ?early,
      fun r ht htime hrole hfence ha => ?fences, ?auto,
      fun hboot hlink hin htime hlast => ?lone⟩
    case low =>
      have hlow : exec .aliveInLow s = .next (partnerLost { s with pair := { p with aliveIn := false } }) := by
        show execAliveInLow s = _
        rw [execAliveInLow, when_of (by simp [show s.pair.aliveIn = true from hin, show s.pair.aliveFault = false from hfault])]
      refine ⟨hlow, fun hthere => hlow.trans (congrArg _ (partnerLost_none hthere)), fun hlink hs hboot hauto => ?_⟩
      refine ⟨_, hlow.trans (congrArg _ (partnerLost_inStep (s := { s with pair := { p with aliveIn := false } })
        hlink hs rfl hfault hboot hauto)), linkLost_pairSet _⟩
    case fault =>
      refine ⟨bump { s with pair := { p with aliveFault := true } } 0x8010 7 1, ?_, rfl, dget_bump_same _ _ _ _⟩
      show execAliveFault s = _
      rw [execAliveFault, when_of (by simp [show s.pair.aliveIn = false from hin, show s.pair.aliveFault = false from hfault, hlink])]
    case high =>
      show execAliveInHigh s = _
      rw [execAliveInHigh, when_of (by simpa using hno)]
    case early => rw [exec_fenceDelayExpiry ht, when_unless (by simp [show ¬ r.time + 5 ≤ s.nowMs by omega])]
    case fences =>
      obtain ⟨⟨hstate, -, hepoch, hsetter⟩, -, hfenced, htaking⟩ := takenOver_fenced ht ha
      refine ⟨_, ?_, hfenced, htaking, hepoch, hsetter.trans hrole, hstate.trans ?_⟩
      · rw [exec_fenceDelayExpiry ht, when_of (by simp [htime, hrole, show s.pair.fenceOut = false from hfence])]
      · simp only [takeoverStale_nil]
        rfl
    case auto =>
      intro due hs hin hdelay hfence hboot
      have hauto : exec .autoFence s = .next (when (decide (max p.lastChange p.aliveAt + dget s 0x8000 5 +
          (if pairRole s = 2 then 5 else 0) ≤ s.nowMs)) s (setFence s true)) := by
        show execAutoFence s = _
        simp [execAutoFence, show s.pair.state = 2 from hs, show s.pair.aliveIn = true from hin,
          show s.pair.fenceOut = false from hfence,
          bne_iff_ne.2 hdelay, hboot, p]
      exact ⟨fun hdue => hauto.trans (congrArg _ (when_of (by simpa using hdue) _ _)),
        fun hdue => hauto.trans (congrArg _ (when_unless (by simpa using hdue) _ _))⟩
    case lone =>
      obtain ⟨hstate, hwait, hstale⟩ := loneStart_linkLost hlast
      refine ⟨_, ?_, hstate, hwait, hstale.trans (loneStale_of_last hlast)⟩
      show execLoneStart s = _
      rw [execLoneStart, when_of (by simp [hboot, hlink, show s.pair.aliveIn = false from hin, show s.pair.lastChange + 10000 ≤ s.nowMs from htime])]

end Sys2Proof.Machine
end

section
/-!
SUPPORT. The messages of the partner: the ring of its records, the answers to them, and what each names (R369 to R384).
-/
namespace Sys2Proof.Machine

/-! ### Answers -/

section Answers
variable {s : State} {k : Nat}

theorem mseq_pushFlit (s : State) (k : Nat) (f : HFlit) : (pushFlit s k f).pair.mseq = s.pair.mseq := by
  have hset (l : SubLink) : (setSub s k l).pair.mseq = s.pair.mseq := by unfold setSub; split <;> rfl
  unfold pushFlit
  dsimp only
  split <;> exact hset _

theorem mseq_sendOn (s : State) (k : Nat) (m : HawMsg) : (sendOn s k m).pair.mseq = s.pair.mseq :=
  (foldl_keeps (fun u => u.pair.mseq) (fun u f => mseq_pushFlit u k f) _ _).trans (by unfold setSub; split <;> rfl)

/-- While a sub-link is up every namespace's messages have one to travel on. -/
theorem subFor_isSome (h : subUp s k = true) (nsid : Nat) : ∃ j, subFor s nsid = some j := by
  simp only [subUp, Bool.and_eq_true, decide_eq_true_eq] at h
  obtain ⟨hk, hup⟩ := h
  unfold subFor
  generalize hj : (if nsid = 0 then 0 else nsid % 2) = j
  have hj2 : j < 2 := by rw [← hj]; split <;> omega
  obtain rfl | hne : k = j ∨ k = 1 - j := by omega
  · exact ⟨k, if_pos hup⟩
  · subst hne
    dsimp only
    rw [if_pos hup]
    split
    · exact ⟨_, rfl⟩
    · exact ⟨_, rfl⟩

/-- A message takes the next number. -/
theorem mseq_hawSend (h : subUp s k = true) {typ : Nat} (ht : typ ≠ 0x10 ∧ typ ≠ 0x11) (nsid a b : Nat) (body : List Byte) :
    (hawSend s typ nsid a b body).pair.mseq = s.pair.mseq + 1 := by
  obtain ⟨j, hj⟩ := subFor_isSome h nsid
  unfold hawSend
  rw [if_neg (by simp [ht]), hj]
  exact mseq_sendOn _ _ _

end Answers

/-! ### The ring of the partner's records (R115) -/

/-- The newest number of the partner's records. -/
def peerHeard (s : State) (r : JRec) : State :=
  { s with media := { s.media with peerJsn := max s.media.peerJsn r.jsn } }

/-- A map record is kept in the peer log. -/
theorem takeRec_map (s : State) {r : JRec} (h : 1 ≤ r.typ ∧ r.typ ≤ 4) : takeRec s r = keepPeer (peerHeard s r) r := by
  unfold takeRec
  split
  case h_6 => rfl
  all_goals omega

/-- The last records that a ring of `cap` holds. -/
def ring (cap : Nat) (l : List JRec) : List JRec := l.drop (l.length - cap)

theorem ring_length {cap : Nat} {l : List JRec} (h : l.length ≤ cap) : ring cap l = l := by
  rw [ring, Nat.sub_eq_zero_of_le h, List.drop_zero]

theorem length_ring (cap : Nat) (l : List JRec) : (ring cap l).length = min l.length cap := by
  simp [ring]
  omega

/-- A ring that has turned, and takes more. -/
theorem ring_append (cap : Nat) (l m : List JRec) : ring cap (ring cap l ++ m) = ring cap (l ++ m) := by
  have hjoin : ring cap l ++ m = (l ++ m).drop (l.length - cap) := (List.drop_append_of_le_length (by omega)).symm
  rw [hjoin, ring, List.drop_drop, ring]
  congr 1
  simp
  omega

section Keep
variable (s : State) (r : JRec)

/-- The records that a ring of `cap` drops. -/
def lostOf (cap : Nat) (l : List JRec) : Option JRec := (l.take (l.length - cap)).getLast?

theorem lostOf_none {cap : Nat} {l : List JRec} (h : l.length ≤ cap) : lostOf cap l = none := by
  rw [lostOf, Nat.sub_eq_zero_of_le h, List.take_zero, List.getLast?_nil]

/-- Only the log and its loss change. -/
theorem keepPeer_frame : ∃ log lost,
    keepPeer s r = { s with media := { s.media with peerLog := log, peerLost := lost } } ∧
      (lostOf peerRecs (s.media.peerLog ++ [r]) = none → lost = s.media.peerLost) := by
  unfold keepPeer
  generalize peerRecs = cap
  refine ⟨_, _, rfl, fun h => ?_⟩
  rw [lostOf] at h
  rw [h]

theorem peerLog_keepPeer : (keepPeer s r).media.peerLog = ring peerRecs (s.media.peerLog ++ [r]) := by
  unfold keepPeer
  generalize peerRecs = cap
  rfl

theorem peerJsn_keepPeer : (keepPeer s r).media.peerJsn = s.media.peerJsn := by
  obtain ⟨log, lost, h, -⟩ := keepPeer_frame s r
  rw [h]

theorem cur_keepPeer : (keepPeer s r).media.cur = s.media.cur := by
  obtain ⟨log, lost, h, -⟩ := keepPeer_frame s r
  rw [h]

theorem peerLost_keepPeer (h : (s.media.peerLog ++ [r]).length ≤ peerRecs) : (keepPeer s r).media.peerLost = s.media.peerLost := by
  obtain ⟨log, lost, hframe, hnone⟩ := keepPeer_frame s r
  rw [hframe]
  exact hnone (lostOf_none h)

end Keep

/-- Map records join the ring in order, and the last that it holds stay. -/
theorem media_takeRecs {l : List JRec} {s : State} (h : ∀ r ∈ l, 1 ≤ r.typ ∧ r.typ ≤ 4) (hle : s.media.peerLog.length ≤ peerRecs) :
    (l.foldl takeRec s).media.peerLog = ring peerRecs (s.media.peerLog ++ l) ∧
    (s.media.peerLog.length + l.length ≤ peerRecs → (l.foldl takeRec s).media.peerLost = s.media.peerLost) ∧
    (l.foldl takeRec s).media.peerJsn = l.foldl (fun m r => max m r.jsn) s.media.peerJsn ∧
    (l.foldl takeRec s).media.cur = s.media.cur := by
  induction l generalizing s with
  | nil =>
    rw [List.append_nil, ring_length hle]
    exact ⟨rfl, fun _ => rfl, rfl, rfl⟩
  | cons r l ih =>
    have htake := takeRec_map s (h r List.mem_cons_self)
    have hlog : (takeRec s r).media.peerLog = ring peerRecs (s.media.peerLog ++ [r]) := by
      rw [htake, peerLog_keepPeer]
      rfl
    obtain ⟨hring, hlost, hjsn, hcur⟩ := ih (s := takeRec s r) (fun x hx => h x (List.mem_cons_of_mem r hx))
      (by rw [hlog, length_ring]; exact Nat.min_le_right _ _)
    rw [List.foldl_cons]
    refine ⟨?_, fun hfits => ?_, ?_, ?_⟩
    · rw [hring, hlog, ring_append, List.append_assoc, List.singleton_append]
    · rw [List.length_cons] at hfits
      have hshort : (s.media.peerLog ++ [r]).length ≤ peerRecs := by
        rw [List.length_append, List.length_singleton]
        omega
      rw [hlost (by rw [hlog, ring_length hshort, List.length_append, List.length_singleton]; omega), htake,
        peerLost_keepPeer (peerHeard s r) r hshort]
      rfl
    · rw [hjsn, htake, peerJsn_keepPeer, List.foldl_cons]
      rfl
    · rw [hcur, htake, cur_keepPeer]
      rfl

/-! ### Mirrored state (R375, Table 14.14) -/

section Items
variable {s : State} {h : MsgHdr} {b : List Byte}

theorem applyState_compress (h6 : h.aux32 = 6) (hl : (getNs s h.nsid).live = true) :
    applyState s h b = modNs s h.nsid (fun n => { n with compress := bitOf (recNat b 0 4) 0 }) := by
  rw [applyState, h6]
  exact if_pos hl

theorem applyState_key (h2 : h.aux32 = 2) (hl : (getNs s h.nsid).live = true) {mk key : List Byte}
    (hmk : s.eng.moduleKey = some mk) (hkey : keyUnwrap mk (b.drop 8) = some key) :
    applyState s h b = modNs (loadKey s h.nsid key) h.nsid (fun n => { n with keyGen := recNat b 0 8 }) := by
  rw [applyState, h2]
  simp only [stateKey, hl, if_true, hmk, Option.bind_some, hkey]

theorem pair_stateKey (s : State) (nsid : Nat) (b : List Byte) : (stateKey s nsid b).pair = s.pair := by
  unfold stateKey
  split
  · split <;> rfl
  · rfl

/-- A key or a setting of a namespace is nothing of the pair. -/
theorem pair_applyState (h62 : h.aux32 = 6 ∨ h.aux32 = 2) : (applyState s h b).pair = s.pair := by
  obtain h6 | h2 := h62 <;> unfold applyState
  · rw [h6]
    exact (apply_ite State.pair _ _ _).trans (ite_self _)
  · rw [h2]
    exact pair_stateKey _ _ _

end Items

/-! ### Messages by their type -/

/-- An empty body: nothing in it is wrong. -/
theorem bodyOk_empty {h : MsgHdr} {b : List Byte} : bodyOk h b 0 0 0 = true ↔ h.len = 0 ∧ b = [] := by
  unfold bodyOk
  constructor
  · intro hok
    simp only [Bool.and_eq_true, beq_iff_eq, List.length_eq_zero_iff] at hok
    obtain ⟨⟨hlen, hb⟩, -⟩ := hok
    exact ⟨by simp [hlen, hb], hb⟩
  · rintro ⟨hlen, rfl⟩
    simp [hlen]

theorem bodyOk_length {h : MsgHdr} {b : List Byte} {n r e : Nat} (hok : bodyOk h b n r e = true) : h.len = b.length ∧ b.length = n := by
  unfold bodyOk at hok
  simp only [Bool.and_eq_true, beq_iff_eq] at hok
  exact hok.1

/-- The LBAs of a map unit fill its slots, at every LBA size. -/
theorem unitLbas_mul_lbaBytes (lbaf : Nat) : unitLbas lbaf * lbaBytes lbaf = 4096 * unitSlots lbaf := by
  have hfill : unitLbas lbaf * lbaSlots lbaf = unitSlots lbaf := by
    unfold unitLbas lbaSlots unitSlots
    by_cases h0 : lbaf = 0 <;> by_cases h2 : lbaf = 2 <;> simp [h0, h2]
  rw [lbaBytes, Nat.mul_left_comm, hfill]

/-- A copy of one map unit of a device-mapped namespace is landed and acknowledged. -/
theorem rscopy_unit {s : State} {h : MsgHdr} {b : List Byte} (hf : rscopyFormed s h b = true)
    (hz : (getNs s h.nsid).zoned = false) (hu : h.aux32 + 1 = unitLbas (getNs s h.nsid).lbaf) :
    rscopy s h b = hawSend (landCopy s h.nsid (h.aux64 / (h.aux32 + 1)) b) 0x41 h.nsid 0 h.seq [] := by
  have hlen : b.length = 4096 * unitSlots (getNs s h.nsid).lbaf := by
    rw [(bodyOk_length hf).2, hu, unitLbas_mul_lbaBytes]
  unfold rscopy
  dsimp only
  rw [← hu, Nat.div_self (by omega), ← hlen, List.range_one, List.foldl_cons, List.foldl_nil, storeCopy, if_neg (by simp [hz])]
  simp

/-- The docket entry of a command from the partner, opened and run. -/
theorem mwrite_runs {s : State} {h : MsgHdr} {b : List Byte} {q : Sqe} (hq : mwriteSqe h b = some q) (d : Nat) :
    mwrite s d h b = runFromPartner (modDk (openDocket s d 4500 0 0 q) d
      (fun e => { e with mirrorOf := some h.seq, data := b.drop 32 })) d := by
  rw [mwrite, hq]
  rfl

theorem mack_awaited {s : State} {h : MsgHdr} {d : Nat} (hd : s.pair.awaiting.find? (fun x => x.1 == h.aux64) = some (h.aux64, d)) :
    mack s h =
      let u := modDk { s with pair := { s.pair with awaiting := s.pair.awaiting.filter (fun x => x.1 != h.aux64) } } d
        (fun e => { e with acked := true })
      takeoverEnd (if commitReady u d then writeCommit u d else u) := by
  rw [mack, hd]

theorem sack_awaited {s : State} {h : MsgHdr} {dn : StateDone}
    (hd : s.pair.states.find? (fun x => x.1 == h.aux64) = some (h.aux64, dn)) :
    sack s h = finishState { s with pair := { s.pair with states := s.pair.states.filter (fun x => x.1 != h.aux64) } } dn := by
  rw [sack, hd]

theorem rsack_awaited {s : State} {h : MsgHdr} {us : UnitRef}
    (hd : s.pair.copies.find? (fun x => x.1 == h.aux64) = some (h.aux64, us)) :
    rsack s h = settleCopies (clearMarks
      { s with pair := { s.pair with copies := s.pair.copies.filter (fun x => x.1 != h.aux64) } } [us]) := by
  rw [rsack, hd]

/-- A forwarded command completes here with the status of the party that asked for its end. -/
theorem fwdcpl_awaited {s : State} {h : MsgHdr} {d : Nat} (hd : s.pair.fwd.find? (fun x => x.1 == h.aux64) = some (h.aux64, d))
    (hused : dkUsed s d = true) (st : Status) (w0 w1 : Nat) (data : List Byte) :
    fwdcpl s h st w0 w1 data =
      let u := { s with pair := { s.pair with
        fwd := s.pair.fwd.filter (fun x => x.1 != h.aux64), cancels := s.pair.cancels.filter (fun c => c.1 != h.aux64) } }
      let asked := forwardedStatus s h.aux64 st
      flushCheck (ioDone (countCancelled u d asked) d asked w0 w1 (bytesOr data)) := by
  rw [fwdcpl, hd]
  exact congrArg flushCheck (if_pos hused)

theorem forwardedStatus_asked {s : State} {tag : Nat} {x : Status}
    (hx : s.pair.cancels.find? (fun c => c.1 == tag) = some (tag, some x)) : forwardedStatus s tag .abortRequested = x := by
  rw [forwardedStatus, hx]
  exact if_pos rfl

theorem fwdabt_found {s : State} {h : MsgHdr} {d : Nat}
    (hd : s.host.dockets.find? (fun e => e.2.remote == some h.aux64) = some (d, getDk s d)) :
    fwdabt s h = if (getDk s d).word = .admitted then hawSend (dkAbort s d .abortRequested) 0x33 h.nsid 0 h.aux64 []
      else hawSend s 0x33 h.nsid 1 h.aux64 [] := by
  rw [fwdabt, hd]

/-- The answer of an Abort is bit 0 of the partner's. -/
theorem fwdabtr_adm {s : State} {h : MsgHdr} {a : Adm} {left : List (Nat × Option Adm)} (haux : h.aux32 < 2)
    (ht : takeFirst (fun x => x.1 == h.aux64) s.pair.aborts = some ((h.aux64, some a), left)) :
    fwdabtr s h = adminDone { s with pair := { s.pair with aborts := left } } a .success h.aux32 .none := by
  rw [fwdabtr, ht]
  obtain h0 | h1 : h.aux32 = 0 ∨ h.aux32 = 1 := by omega
  · rw [h0]; rfl
  · rw [h1]; rfl

theorem fwdabtr_none {s : State} {h : MsgHdr} {left : List (Nat × Option Adm)}
    (ht : takeFirst (fun x => x.1 == h.aux64) s.pair.aborts = some ((h.aux64, none), left)) :
    fwdabtr s h = { s with pair := { s.pair with aborts := left } } := by
  rw [fwdabtr, ht]

section Handled
variable {s : State} {k : Nat} {h : MsgHdr} (hup : subUp s k = true)
include hup

/-- A message gated by whether it is well formed. -/
theorem message_unformed {formed : Bool} (hbad : formed = false) (pre : Bool) (f : State → State) :
    message s k h formed pre f = .next (badFlit (noteValid s)) := hbad ▸ message_malformed hup pre f

theorem message_late {formed : Bool} (hok : formed = true) (hf : fresh s h = false) (pre : Bool) (f : State → State) :
    message s k h formed pre f = .next (noteValid s) := hok ▸ message_repeated hup hf pre f

theorem message_taken {formed pre : Bool} (hok : formed = true) (hf : fresh s h = true) (hpre : pre = true) (f : State → State) :
    message s k h formed pre f = .next (f (applied s h)) := hok ▸ message_applied hup hf hpre f

theorem subUp_of_pair {t : State} (ht : t.pair.sub0 = s.pair.sub0 ∧ t.pair.sub1 = s.pair.sub1) : subUp t k = true := by
  have hsame : subUp t k = subUp s k := by simp only [subUp, getSub, ht]
  rw [hsame, hup]

end Handled

section Exec
variable (s : State) (k d : Nat) (h : MsgHdr) (b data : List Byte) (q : Sqe) (st : Status) (w0 w1 : W32)

theorem exec_mwrite : exec (.mwrite k d h b) s = message s k h (mwriteFormed s h b)
    (match mwriteSqe h b with | some q => canAdmit s d q && (getNs s h.nsid).mirror | none => true)
    (fun s => mwrite s d h b) := rfl
theorem exec_mack : exec (.mack k h b) s = message s k h (bodyOk h b 0 0 0) true (fun s => mack s h) := rfl
theorem exec_jrec : exec (.jrec k h b) s =
    message s k h (bodyOk h b (16 + 32 * h.aux32) 8 16) (s.pair.state != 0) (fun s => (jrecs h b).foldl takeRec s) := rfl
theorem exec_state : exec (.state k h b) s = message s k h (stateFormed h b) (s.pair.state != 0)
    (fun s => hawSend (applyState s h b) 0x22 h.nsid 0 h.seq []) := rfl
theorem exec_sack : exec (.sack k h b) s = message s k h (bodyOk h b 0 0 0) true (fun s => sack s h) := rfl
theorem exec_fwdcmd : exec (.fwdcmd k d h q data) s =
    message s k h (h.len == 64 + data.length && q.nsid == h.nsid) (canAdmit s d q) (fun s => fwdcmd s d h q data) := rfl
theorem exec_fwdcpl : exec (.fwdcpl k h st w0 w1 data) s =
    message s k h (h.len == 16 + data.length) true (fun s => fwdcpl s h st w0.toNat w1.toNat data) := rfl
theorem exec_fwdabt : exec (.fwdabt k h b) s = message s k h (bodyOk h b 0 0 0) true (fun s => fwdabt s h) := rfl
theorem exec_fwdabtr : exec (.fwdabtr k h b) s =
    message s k h (bodyOk h b 0 0 0 && decide (h.aux32 < 2)) true (fun s => fwdabtr s h) := rfl
theorem exec_rscopy : exec (.rscopy k h b) s =
    message s k h (rscopyFormed s h b) (s.pair.state == 4 && (getNs s h.nsid).mirror) (fun s => rscopy s h b) := rfl
theorem exec_rsack : exec (.rsack k h b) s = message s k h (bodyOk h b 0 0 0) true (fun s => rsack s h) := rfl

end Exec

/-- Settles O48: each message by its gate, then by what it names. -/
theorem partnerMessagesAreHandled : Obligations.PartnerMessagesAreHandled := by
  unfold Obligations.PartnerMessagesAreHandled
  intro s k d d2 h b data q st w0 w1 a dn us v empty late bad hup
  have hno (hne : ¬ empty) : bodyOk h b 0 0 0 = false := by simpa using mt bodyOk_empty.1 hne
  have hlen (n r e : Nat) (hne : h.len ≠ b.length) : bodyOk h b n r e = false := by simp [bodyOk, hne]
  have hbad {i : Instr} {formed pre : Bool} {f : State → State} (hi : exec i s = message s k h formed pre f)
      (hf : formed = false) : bad i := hi.trans (message_unformed hup hf _ _)
  have hlate {i : Instr} {formed pre : Bool} {f : State → State} (hi : exec i s = message s k h formed pre f)
      (hf : formed = true) : late i := fun hold => hi.trans (message_late hup hf hold _ _)
  have htaken {i : Instr} {formed pre : Bool} {f : State → State} (hi : exec i s = message s k h formed pre f)
      (hf : formed = true) (hnew : fresh s h = true) (hpre : pre = true) {t : State} (ht : f (applied s h) = t) :
      exec i s = .next t := hi.trans ((message_taken hup hf hnew hpre _).trans (congrArg _ ht))
  refine ⟨fun hne => ?notEmpty, hbad (exec_mwrite ..),
    fun hne => ⟨hbad (exec_jrec ..) (hlen _ _ _ hne), hbad (exec_rscopy ..) (hlen _ _ _ hne)⟩,
    hbad (exec_state ..), fun hne => hbad (exec_fwdcmd ..) (by simp [hne]),
    fun hne => hbad (exec_fwdcpl ..) (by simp [hne]), fun hge => hbad (exec_fwdabtr ..) (by simp [show ¬ h.aux32 < 2 by omega]),
    fun he => ?late, hlate (exec_mwrite ..), hlate (exec_state ..), fun hf => ?fresh⟩
  case notEmpty => exact ⟨hbad (exec_mack ..) (hno hne), hbad (exec_sack ..) (hno hne), hbad (exec_fwdabt ..) (hno hne),
    hbad (exec_rsack ..) (hno hne)⟩
  case late =>
    have hok := bodyOk_empty.2 he
    exact ⟨hlate (exec_mack ..) hok, hlate (exec_sack ..) hok, hlate (exec_fwdabt ..) hok, hlate (exec_rsack ..) hok⟩
  case fresh =>
    refine ⟨fun hok hq hadmit hm => ?mwrite, fun he hd => ?mack, fun hok hs hmap hle => ?jrec, fun hok hs hl h62 => ?state,
      fun he hd => ?sack, fun hl hns hadmit => ?fwdcmd, fun hl hd hused => ?fwdcpl, fun x hx => forwardedStatus_asked hx,
      fun he hd => ?fwdabt, fun he haux left => ⟨fun ht => ?adm, fun ht => ?noAdm⟩, fun hok hs hm hz hu => ?rscopy,
      fun he hd => ?rsack⟩
    case mwrite => exact htaken (exec_mwrite ..) hok hf (by rw [hq]; simp [hadmit, hm]) (mwrite_runs hq d)
    case mack => exact htaken (exec_mack ..) (bodyOk_empty.2 he) hf rfl (mack_awaited (s := applied s h) hd)
    case jrec =>
      obtain ⟨hring, hlost, hjsn, hcur⟩ := media_takeRecs (s := applied s h) hmap hle
      exact ⟨_, htaken (exec_jrec ..) hok hf (by simpa using hs) rfl, hring, hlost, hjsn, hcur⟩
    case state =>
      have hpair := pair_applyState (s := applied s h) (b := b) h62
      have hmedia := media_hawSend (applyState (applied s h) h b) 0x22 h.nsid 0 h.seq []
      refine ⟨_, htaken (exec_state ..) hok hf (by simpa using hs) rfl, fun h6 => ?_, fun h2 mk key hmk hkey => ?_, ?_⟩
      · rw [getNs, hmedia, ← getNs, applyState_compress (s := applied s h) h6 hl, modNs, getNs_setNs]
      · rw [getNs, hmedia, ← getNs, applyState_key (s := applied s h) h2 hl hmk hkey]
        exact ⟨congrArg Ns.keyGen (getNs_setNs _ _ _), tabGet_put_same _ _ _ _⟩
      · rw [mseq_hawSend (subUp_of_pair hup (by rw [hpair]; exact ⟨rfl, rfl⟩)) (by decide), hpair]
        rfl
    case sack => exact htaken (exec_sack ..) (bodyOk_empty.2 he) hf rfl (sack_awaited (s := applied s h) hd)
    case fwdcmd => exact htaken (exec_fwdcmd ..) (by simp [hl, hns]) hf hadmit rfl
    case fwdcpl => exact htaken (exec_fwdcpl ..) (by simp [hl]) hf rfl (fwdcpl_awaited (s := applied s h) hd hused _ _ _ _)
    case fwdabt =>
      have hfound := fwdabt_found (s := applied s h) hd
      exact ⟨fun hw => htaken (exec_fwdabt ..) (bodyOk_empty.2 he) hf rfl (hfound.trans (if_pos hw)),
        fun hw => htaken (exec_fwdabt ..) (bodyOk_empty.2 he) hf rfl (hfound.trans (if_neg hw))⟩
    case adm => exact htaken (exec_fwdabtr ..) (by simp [bodyOk_empty.2 he, haux]) hf rfl (fwdabtr_adm (s := applied s h) haux ht)
    case noAdm => exact htaken (exec_fwdabtr ..) (by simp [bodyOk_empty.2 he, haux]) hf rfl (fwdabtr_none (s := applied s h) ht)
    case rscopy => exact htaken (exec_rscopy ..) hok hf (by simp [hs, hm]) (rscopy_unit (s := applied s h) hok hz hu)
    case rsack => exact htaken (exec_rsack ..) (bodyOk_empty.2 he) hf rfl (rsack_awaited (s := applied s h) hd)

end Sys2Proof.Machine
end

section
/-!
SUPPORT. The boot sequence: what each of its steps leaves of the power side, of what waits for the host, and of the media
(Table 16.1, R391 to R393, R425, R429, R430).
-/
namespace Sys2Proof.Machine

/-! ### What boot steps look at -/

/-- What the course of a boot depends on, and what a boot says of the module it ends with. -/
structure BootView where
  on       : List Nat
  bootStep : Nat
  bootWait : Nat
  synmon   : Bool
  cause    : Nat
  nextCause : Nat
  refclk   : Bool
  modRst   : Bool
  fenceIn  : Bool
  recovery : Bool
  wdtAt    : Option Nat
  cfs      : Bool
  uptime   : Nat
  dockets  : Tab Docket
  admWait  : List (Nat × Adm × Nat)
  ready    : Bool
  found    : List Found

def bootView (s : State) : BootView :=
  { on := s.power.on, bootStep := s.power.bootStep, bootWait := s.power.bootWait, synmon := s.power.synmon
    cause := s.power.cause, nextCause := s.power.nextCause, refclk := s.power.refclk, modRst := s.power.modRst
    fenceIn := s.power.fenceIn, recovery := s.power.recovery, wdtAt := s.power.wdtAt, cfs := s.power.cfs
    uptime := s.uptime, dockets := s.host.dockets, admWait := s.host.admWait, ready := s.media.ready, found := s.media.found }

@[simp] theorem bootView_ite (c : Prop) [Decidable c] (a b : State) :
    bootView (if c then a else b) = if c then bootView a else bootView b := apply_ite bootView c a b

@[simp] theorem bootView_foldl {α : Type} {f : State → α → State} (h : ∀ s x, bootView (f s x) = bootView s) (l : List α)
    (s : State) : bootView (l.foldl f s) = bootView s := foldl_keeps bootView h l s

section Messages
variable (s : State)

@[simp] theorem bootView_dset (i sub v : Nat) : bootView (dset s i sub v) = bootView s := rfl
@[simp] theorem bootView_bump (i sub n : Nat) : bootView (bump s i sub n) = bootView s := rfl
@[simp] theorem bootView_emit (o : Out) : bootView (emit s o) = bootView s := rfl
@[simp] theorem bootView_draw : bootView (draw s) = bootView s := rfl
@[simp] theorem bootView_logPel (what : String) (a b : Nat) : bootView (logPel s what a b) = bootView s := rfl
@[simp] theorem bootView_setFn (fn : Nat) (f : Fn) : bootView (setFn s fn f) = bootView s := rfl
@[simp] theorem bootView_modFn (fn : Nat) (g : Fn → Fn) : bootView (modFn s fn g) = bootView s := rfl
@[simp] theorem bootView_modCq (fn q : Nat) (g : Cq → Cq) : bootView (modCq s fn q g) = bootView s := rfl
@[simp] theorem bootView_sendFrame (p : Nat) (bytes : List Byte) : bootView (sendFrame s p bytes) = bootView s := rfl
@[simp] theorem bootView_withMgmt (m : Mgmt) : bootView { s with mgmt := m } = bootView s := rfl
@[simp] theorem bootView_withLogbook (l : Logbook) : bootView { s with logbook := l } = bootView s := rfl
@[simp] theorem bootView_withWarn (n : Nat) : bootView { s with host := { s.host with smartWarn := n } } = bootView s := rfl

@[simp] theorem bootView_wearLine (line : Nat) : bootView (wearLine s line) = bootView s := by simp [wearLine]

@[simp] theorem bootView_sendEmergency (data : List Byte) (p : Nat) : bootView (sendEmergency s data p) = bootView s := by
  simp [sendEmergency]

@[simp] theorem bootView_sendEmergencies (data : List Byte) : bootView (sendEmergencies s data) = bootView s := by
  simp only [sendEmergencies, bootView_ite, bootView_foldl (fun u p => bootView_sendEmergency u data p), ite_self]

@[simp] theorem bootView_emergency (code i sub detail : Nat) : bootView (emergency s code i sub detail) = bootView s := by
  simp only [emergency, bootView_ite, bootView_withMgmt, bootView_sendEmergencies, bootView_dset, ite_self]

@[simp] theorem bootView_sendHeartbeats : bootView (sendHeartbeats s) = bootView s := by simp [sendHeartbeats]

@[simp] theorem bootView_raiseVector (fn v : Nat) : bootView (raiseVector s fn v) = bootView s := by simp [raiseVector]
@[simp] theorem bootView_postCpl (q : Nat) (c : Cpl) : bootView (postCpl s q c) = bootView s := by simp [postCpl]
@[simp] theorem bootView_adminDone (a : Adm) (st : Status) (n : Nat) (p : Payload) :
    bootView (adminDone s a st n p) = bootView s := by simp [adminDone]

@[simp] theorem bootView_postEvent (fn : Nat) (e : Event) : bootView (postEvent s fn e) = bootView s := by
  unfold postEvent
  dsimp only
  split
  · split <;> simp
  · rfl

@[simp] theorem bootView_postEvents (l : List Nat) (e : Event) : bootView (postEvents s l e) = bootView s :=
  bootView_foldl (fun u fn => bootView_postEvent u fn e) l s

@[simp] theorem bootView_setWarn (bit : Nat) (on : Bool) : bootView (setWarn s bit on) = bootView s := by simp [setWarn]
@[simp] theorem bootView_queueEvent (e : Event) : bootView (queueEvent s e) = bootView s := rfl
@[simp] theorem bootView_settlePort (p : Nat) : bootView (settlePort s p) = bootView s := rfl
@[simp] theorem bootView_settleDegraded : bootView (settleDegraded s) = bootView s := bootView_setWarn _ _ _

end Messages

/-! ### Steps 2 to 4 -/

section Steps
variable (s : State) (b : BootIn)

theorem bootView_sectionDefault (sec : Nat) : bootView (sectionDefault s sec) = bootView s := by
  unfold sectionDefault
  split <;> rfl

/-- The logbook's check changes the calibration marks and entries alone. -/
@[simp] theorem bootView_checkLogbook : bootView (checkLogbook s b) = bootView s := by
  have hworn : bootView (wornBack s) = bootView s := bootView_foldl (fun u e => bootView_dset u _ _ _) _ _
  have hdefaults (u : State) (l : List Nat) : bootView (l.foldl sectionDefault u) = bootView u :=
    bootView_foldl bootView_sectionDefault _ _
  have htorn (u : State) (l : List Nat) : bootView (l.foldl (fun s k => wearLine s (checkLine k)) u) = bootView u :=
    bootView_foldl (fun v k => bootView_wearLine v _) _ _
  have hread (u : State) (ro : Bool) : bootView { u with media := { u.media with readOnly := ro } } = bootView u := rfl
  have hmarked (u : State) (bad : List Nat) : bootView { u with
      logbook := { u.logbook with failed := bad }
      power := { u.power with calFailed := bad.contains 2, calUnstored := bad.contains 2 } } = bootView u := rfl
  unfold checkLogbook
  simp only [bootView_ite, bootView_emergency, bootView_dset, bootView_bump, htorn, hread, hdefaults, hmarked, hworn, ite_self]

/-- Step 2 takes the noted causes, and starts Synmon. -/
theorem bootView_bootTwo : bootView (bootTwo s b) =
    { bootView s with cause := s.power.nextCause, nextCause := 0, bootStep := 2, synmon := true } := by
  have hcaused (u : State) : bootView { u with power := { u.power with cause := u.power.nextCause, nextCause := 0 } } =
      { bootView u with cause := u.power.nextCause, nextCause := 0 } := rfl
  have hstarted (u : State) : bootView { u with power := { u.power with bootStep := 2, synmon := true }, pair := { u.pair with aliveOut := true } } =
      { bootView u with bootStep := 2, synmon := true } := rfl
  have hheld (u : State) : bootView (sendHeldEmergencies u) = bootView u :=
    (bootView_foldl bootView_sendEmergencies _ _).trans rfl
  unfold bootTwo
  simp only [bootView_ite, bootView_sendHeartbeats, hheld, hstarted, bootView_checkLogbook, hcaused, ite_self]

section Three
variable (second : Bool)

theorem bootView_bootThree_noClock (h : s.power.refclk = false) (rails : Bool) :
    bootView (bootThree s second rails) = { bootView s with bootWait := 2 } := by
  unfold bootThree
  rw [if_pos (by simp [h]), bootView_emergency]
  rfl

theorem bootThree_noRails (h : s.power.refclk = true) :
    bootThree s second false = { s with power := { s.power with bootWait := if second then 7 else 1 } } := by
  unfold bootThree
  rw [if_neg (by simp [h])]
  rfl

theorem bootView_bootThree_rails (h : s.power.refclk = true) :
    bootView (bootThree s second true) = { bootView s with on := bootDomains s, bootWait := 0, bootStep := 3 } := by
  unfold bootThree
  rw [if_neg (by simp [h]), if_neg (by decide)]
  dsimp only
  rw [bootView_foldl (fun u cl => rfl : ∀ u cl, bootView (noteIdle u cl) = bootView u)]
  rfl

end Three

/-- D0, D1, D18 and D19 come on at every boot. -/
theorem mem_bootDomains {d : Nat} (h : d ∈ [0, 1, 18, 19]) : d ∈ bootDomains s := by
  simp only [bootDomains, List.append_assoc]
  exact List.mem_append_left _ h

/-- Step 4: an image boots under the watchdog, or none does. -/
theorem bootView_bootFour : ∃ r w, bootView (bootFour s) = { bootView s with bootStep := 4, recovery := r, wdtAt := w } ∧
    (r = true → w = s.power.wdtAt) := by
  have hrow (v : State) : bootView { (logPel v "other firmware slot after three watchdog resets" v.power.fwSlot 0) with
      power := { v.power with wdtRow := 0 } } = bootView v := rfl
  have hfour (v : State) (f : Fn → Fn) : bootView (modFn { v with power := { v.power with bootStep := 4 } } 0 f) =
      { bootView v with bootStep := 4 } := rfl
  have hseeded (v : State) (e : Engines) : bootView (draw { v with eng := e }) = bootView v := rfl
  have hports (v : State) (l : List Nat) : bootView (l.foldl settlePort v) = bootView v := bootView_foldl bootView_settlePort _ _
  have hlogged (v : State) (l : List Nat) : bootView (l.foldl (fun s k => logPel s "logbook section failed" k 0) v) = bootView v :=
    bootView_foldl (fun w k => bootView_logPel w _ k 0) _ _
  unfold bootFour
  cases hslot : bootSlot s with
  | some k =>
    refine ⟨false, some s.nowMs, ?_, nofun⟩
    simp only [bootView_ite, bootView_queueEvent, bootView_settleDegraded, bootView_setWarn, hlogged, hports, hseeded, hfour,
      hrow, ite_self]
    rfl
  | none =>
    refine ⟨true, s.power.wdtAt, ?_, fun _ => rfl⟩
    simp only [bootView_ite, bootView_queueEvent, bootView_settleDegraded, bootView_setWarn, hlogged, hports, hseeded, hfour,
      hrow, ite_self]
    rfl

/-! ### Step 5 -/

theorem bootView_stopRestore (why : Nat) : bootView (stopRestore s why) = { bootView s with cfs := true } := rfl

end Steps

/-- What waits for the host, and what restore has found and not yet applied. -/
structure Parked where
  dockets : Tab Docket
  admWait : List (Nat × Adm × Nat)
  found   : List Found

def parked (s : State) : Parked := ⟨s.host.dockets, s.host.admWait, s.media.found⟩

/-- Nothing waits for the host. -/
def Waitless (s : State) : Prop := (parked s).dockets = [] ∧ (parked s).admWait = []

section Parking
variable (s : State)

theorem parked_appendRec (r : JRec) : parked (appendRec s r) = parked s := by
  have hsent (u : State) (typ nsid a b : Nat) (body : List Byte) : parked (hawSend u typ nsid a b body) = parked u := by
    have hwaits := waits_hawSend u typ nsid a b body
    simp only [parked, media_hawSend,
      show (hawSend u typ nsid a b body).host.dockets = u.host.dockets from congrArg Waits.dockets hwaits,
      show (hawSend u typ nsid a b body).host.admWait = u.host.admWait from congrArg Waits.admWait hwaits]
  unfold appendRec
  dsimp only
  split_ifs
  · rfl
  · exact hsent _ _ _ _ _ _
  · rfl
  · rfl

theorem parked_append (rs : List JRec) : parked (append s rs) = parked s := foldl_keeps parked parked_appendRec rs s

theorem parked_formLots : parked (formLots s) = parked s := by
  unfold formLots
  dsimp only
  split
  · rfl
  · exact parked_append _ _

theorem parked_closeDue (h : Waitless s) : parked (closeDue s) = parked s := by
  rw [closeDue_idle h.1 h.2]
  exact parked_formLots s

theorem parked_appended (rs : List JRec) : parked (rs.foldl appendOwn s) = parked s :=
  foldl_keeps parked (f := appendOwn) (fun _ _ => rfl) rs s

theorem Waitless.of_parked {s t : State} (hs : Waitless s) (h : parked t = parked s) : Waitless t := by
  rw [Waitless, h]
  exact hs

theorem parked_applyReady : parked (applyReady s) = parked s := rfl
theorem parked_settleWindow : parked (settleWindow s) = parked s := rfl

theorem parked_journalQuiet (h : Waitless s) (rs : List JRec) : parked (journalQuiet s rs) = parked s := by
  have happended : parked (applyReady (rs.foldl appendOwn s)) = parked s := (parked_applyReady _).trans (parked_appended s rs)
  rw [journalQuiet, parked_settleWindow, parked_closeDue _ (h.of_parked happended), happended]

theorem parked_applyFound (h : Waitless s) (f : Found) : parked (applyFound s f) = parked s := by
  unfold applyFound
  dsimp only
  split
  · split
    · exact parked_journalQuiet s h _
    · rfl
  · exact parked_journalQuiet s h _

theorem checkMap_keeps {β : Type} {g : State → β} (hq : ∀ u b r, g (queueRefresh u b r) = g u)
    (hl : ∀ u w a b, g (logPel u w a b) = g u) (hj : ∀ rs, g (journalQuiet s rs) = g s) : g (checkMap s) = g s := by
  unfold checkMap
  dsimp only
  refine (foldl_keeps g (fun u w => hl u _ _ _) _ _).trans ((foldl_keeps g (fun u l => hq u _ _) _ _).trans ?_)
  split
  · rfl
  · exact hj _

theorem parked_checkMap (h : Waitless s) : parked (checkMap s) = parked s :=
  checkMap_keeps s (fun _ _ _ => rfl) (fun _ _ _ _ => rfl) (parked_journalQuiet s h)

theorem parked_putRaw (a : Nat) (b : List Byte) : parked (putRaw s a b) = parked s := by
  unfold putRaw
  dsimp only
  generalize s.host.bytesMedia + ceilDiv b.length 4096 * 4096 = n
  rfl

theorem parked_landSpot (pool n : Nat) : parked (landSpot s pool n).2 = parked s := by
  obtain ⟨bs, fc, hland⟩ := landSpot_opens s pool n
  rw [hland]
  rfl

theorem parked_programPage (pool lim : Nat) : parked (programPage s pool lim) = parked s := by
  have hpaged (u : State) (top : Nat) (ps : List JPage) :
      parked { u with media := { u.media with programmedJsn := top, pages := ps } } = parked u := rfl
  unfold programPage
  dsimp only
  rw [hpaged, parked_putRaw, parked_landSpot]

theorem parked_programTail (pool lim n : Nat) : parked (programTail pool lim n s) = parked s := by
  induction n generalizing s with
  | zero => rfl
  | succ n ih =>
    rw [programTail]
    split
    · rw [ih, parked_programPage]
    · rfl

theorem parked_programAll : parked (programAll s) = parked s := by
  rw [programAll, parked_applyReady, parked_programTail]

theorem parked_fillDump : parked (fillDump s) = parked s := by
  refine foldl_keeps parked (fun u c => ?_) _ _
  split <;> rfl

theorem parked_loadKeys : parked (loadKeys s) = parked s := foldl_keeps parked (f := fillXts) (fun _ _ => rfl) _ _

end Parking

/-- Steps 5 and 6 of a restore: what is found is applied, and the map is looked over. -/
def foundApplied (s : State) : State := checkMap (s.media.found.foldl applyFound s)

/-- Nothing is found any more, and the landing blocks are counted. -/
def landingCounted (s : State) : State :=
  { s with media := { s.media with found := [], landHeld := (sledBlocks.filter (fun b => inLanding (getBlk s b))).length } }

/-- A CKMARK is written. -/
def restoreMarked (s : State) : State :=
  settleWindow (closeDue (programAll (appendOwn s (jrec 0x40 0 0 0 0 (s.media.ckptJsn + 1)))))

/-- The end of a restore. -/
def restoreEnded (s : State) : State :=
  let s := if s.power.restoreCause = 0 then s else logPel { s with power := { s.power with restoreCause := 0 } } "map restore had stopped" s.power.restoreCause 0
  draw { s with media := { s.media with ready := true }, power := { s.power with bootStep := 5, bootMs := drawn s % 2 ^ 32, wdtRow := 0 } }

theorem restore_stages (s : State) (bad : List Nat) : restore s bad =
    restoreEnded (loadKeys (fillDump (restoreMarked (landingCounted (foundApplied (loadMap s bad)))))) := by
  rw [restore, restoreEnded, restoreMarked, landingCounted, foundApplied]

section Restore
variable (s : State)

theorem parked_foundApplied (h : Waitless s) : parked (foundApplied s) = parked s := by
  have happlied : parked (s.media.found.foldl applyFound s) = parked s :=
    List.foldlRecOn s.media.found applyFound (motive := fun u => parked u = parked s) rfl
      fun u hu f _ => (parked_applyFound u (h.of_parked hu) f).trans hu
  exact (parked_checkMap _ (h.of_parked happlied)).trans happlied

theorem parked_restoreMarked (h : Waitless s) : parked (restoreMarked s) = parked s := by
  have hprogrammed : parked (programAll (appendOwn s (jrec 0x40 0 0 0 0 (s.media.ckptJsn + 1)))) = parked s :=
    parked_programAll _
  rw [restoreMarked, parked_settleWindow, parked_closeDue _ (h.of_parked hprogrammed), hprogrammed]

theorem parked_restoreEnded : parked (restoreEnded s) = parked s := by
  unfold restoreEnded
  split <;> rfl

/-- With nothing waiting before it, a restore leaves nothing waiting and nothing found. -/
theorem parked_restore (h : Waitless s) (bad : List Nat) : parked (restore s bad) = { parked s with found := [] } := by
  have hloaded : parked (loadMap s bad) = parked s := rfl
  have hcounted (u : State) : parked (landingCounted u) = { parked u with found := [] } := rfl
  have happlied := (parked_foundApplied _ (h.of_parked hloaded)).trans hloaded
  have hready : Waitless (landingCounted (foundApplied (loadMap s bad))) := by
    rw [Waitless, hcounted, happlied]
    exact h
  rw [restore_stages, parked_restoreEnded, parked_loadKeys, parked_fillDump, parked_restoreMarked _ hready, hcounted, happlied]

end Restore

/-! ### Restore and the power side -/

section Powered
variable (s : State)

theorem still_journalQuiet (rs : List JRec) : still (journalQuiet s rs) = still s := by simp [journalQuiet]

theorem still_applyFound (f : Found) : still (applyFound s f) = still s := by
  unfold applyFound
  dsimp only
  split
  · split
    · exact still_journalQuiet _ _
    · rfl
  · exact still_journalQuiet _ _

theorem still_checkMap : still (checkMap s) = still s :=
  checkMap_keeps s (fun _ _ _ => rfl) (fun _ _ _ _ => rfl) (still_journalQuiet s)

theorem still_foundApplied : still (foundApplied s) = still s :=
  (still_checkMap _).trans (foldl_keeps still still_applyFound _ _)

theorem still_restoreMarked : still (restoreMarked s) = still s := by simp [restoreMarked]

theorem still_fillDump : still (fillDump s) = still s := by
  refine foldl_keeps still (fun u c => ?_) _ _
  split <;> rfl

theorem still_loadKeys : still (loadKeys s) = still s := foldl_keeps still (f := fillXts) (fun _ _ => rfl) _ _

theorem power_restoreEnded : ∃ ms why, (restoreEnded s).power =
    { s.power with restoreCause := why, bootStep := 5, bootMs := ms, wdtRow := 0 } ∧ (restoreEnded s).uptime = s.uptime := by
  unfold restoreEnded
  split
  · exact ⟨_, s.power.restoreCause, rfl, rfl⟩
  · exact ⟨_, 0, rfl, rfl⟩

theorem uptime_of_still {s t : State} (h : still t = still s) : t.uptime = s.uptime := congrArg Still.uptime h

theorem ready_restoreEnded : (restoreEnded s).media.ready = true := by
  unfold restoreEnded
  split <;> rfl

/-- A restore leaves of the power side its step, its time and its own count alone. -/
theorem power_restore (bad : List Nat) : ∃ ms why, (restore s bad).power =
    { s.power with restoreCause := why, bootStep := 5, bootMs := ms, wdtRow := 0 } ∧ (restore s bad).uptime = s.uptime := by
  have hstill : still (loadKeys (fillDump (restoreMarked (landingCounted (foundApplied (loadMap s bad)))))) = still s := by
    have hcounted (u : State) : still (landingCounted u) = still u := rfl
    have hloaded : still (loadMap s bad) = still s := rfl
    rw [still_loadKeys, still_fillDump, still_restoreMarked, hcounted, still_foundApplied, hloaded]
  rw [restore_stages]
  generalize loadKeys (fillDump (restoreMarked (landingCounted (foundApplied (loadMap s bad))))) = u at hstill
  obtain ⟨ms, why, hpower, huptime⟩ := power_restoreEnded u
  exact ⟨ms, why, by rw [hpower, power_of_still hstill], huptime.trans (uptime_of_still hstill)⟩

end Powered

theorem parked_fields {t : State} {p : Parked} (h : parked t = p) :
    t.host.dockets = p.dockets ∧ t.host.admWait = p.admWait ∧ t.media.found = p.found := by
  subst h
  exact ⟨rfl, rfl, rfl⟩

theorem bootView_of_power {s t : State} {p : Power} (hp : t.power = p) (hu : t.uptime = s.uptime) : bootView t =
    { bootView { s with power := p } with
      dockets := t.host.dockets, admWait := t.host.admWait, ready := t.media.ready, found := t.media.found } := by
  subst hp
  simp only [bootView, hu]

/-- A restore on the way from step 4 to step 6. -/
theorem bootView_restore (s : State) (bad : List Nat) : ∃ d a f, bootView (restore s bad) =
    { bootView s with bootStep := 5, dockets := d, admWait := a, ready := true, found := f } ∧
    (Waitless s → d = [] ∧ a = [] ∧ f = []) := by
  obtain ⟨ms, why, hpower, huptime⟩ := power_restore s bad
  have hready : (restore s bad).media.ready = true := by
    rw [restore_stages]
    exact ready_restoreEnded _
  have hparked := fun h : Waitless s => parked_fields (parked_restore s h bad)
  generalize restore s bad = t at *
  refine ⟨_, _, _, (bootView_of_power hpower huptime).trans (by rw [hready]; rfl), fun h => ?_⟩
  obtain ⟨hdockets, hadm, hfound⟩ := hparked h
  exact ⟨hdockets.trans h.1, hadm.trans h.2, hfound⟩

/-! ### Step 6 and the whole course -/

/-- A module with a pair record, or with mirrored namespaces, waits for its partner. -/
def partnerAwaited (s : State) : State :=
  if pairRole s ≠ 0 ∨ !(mirroredNs s).isEmpty then
    { s with power := { s.power with bootWait := 3 }, pair := { s.pair with state := 2, stale := mirroredNs s, lastChange := s.nowMs } }
  else s

/-- What was noted for collection is collected. -/
def bootCollected (s : State) : State :=
  if s.power.collect then
    let s := draw { s with service := { s.service with ctrlTel := some (collect s), ctrlTelAvail := true, telGen := s.service.telGen + 1 } }
    queueEvent { s with power := { s.power with collect := false } } { typ := 2, info := 2, log := 0x08 }
  else s

theorem bootSix_stages (s : State) : bootSix s =
    bootCollected { partnerAwaited s with power := { (partnerAwaited s).power with bootStep := 6 } } := by
  rw [bootSix, bootCollected, partnerAwaited]

theorem bootView_bootCollected (s : State) : bootView (bootCollected s) = bootView s := by
  unfold bootCollected
  split <;> rfl

/-- The last step: what waits for the partner is all that it adds. -/
theorem bootView_bootSix (s : State) : ∃ w, bootView (bootSix s) = { bootView s with bootStep := 6, bootWait := w } ∧
    (w = 3 ∨ w = s.power.bootWait) := by
  have hsix (u : State) : bootView { u with power := { u.power with bootStep := 6 } } = { bootView u with bootStep := 6 } := rfl
  rw [bootSix_stages, bootView_bootCollected, hsix, partnerAwaited]
  split
  · exact ⟨3, rfl, .inl rfl⟩
  · exact ⟨_, rfl, .inr rfl⟩

/-- A boot from the end of step 3 on: what it keeps, and where it ends. -/
structure BootedOn (b : BootIn) (s t : State) : Prop where
  step : 4 ≤ t.power.bootStep
  on : t.power.on = s.power.on
  synmon : t.power.synmon = s.power.synmon
  cause : t.power.cause = s.power.cause
  refclk : t.power.refclk = s.power.refclk
  uptime : t.uptime = s.uptime
  wait : t.power.bootWait = 3 ∨ t.power.bootWait = s.power.bootWait
  dockets : Waitless s → t.host.dockets = []
  recovery : t.power.recovery = true → t.power.bootStep = 4 ∧ t.power.wdtAt = s.power.wdtAt
  service : t.power.recovery = false → 5 ∉ t.logbook.failed → b.mapOk = true →
    t.power.bootStep = 6 ∧ t.media.ready = true ∧ (Waitless s → t.media.found = [])
  stopped : t.power.recovery = false → b.mapOk = false → t.power.cfs = true ∧ t.media.ready = s.media.ready

section Course
variable {s t u : State} {b : BootIn} {w : Option Nat}

/-- No image boots: the module is in recovery mode. -/
theorem bootedOn_recovery (h : bootView t = { bootView s with bootStep := 4, recovery := true, wdtAt := s.power.wdtAt }) :
    BootedOn b s t := by
  have hread {α : Type} (f : BootView → α) : f (bootView t) = f _ := congrArg f h
  have hrecovery : t.power.recovery = true := hread (·.recovery)
  exact ⟨(hread (·.bootStep)).ge, hread (·.on), hread (·.synmon), hread (·.cause), hread (·.refclk), hread (·.uptime),
    .inr (hread (·.bootWait)), fun hs => (hread (·.dockets)).trans hs.1, fun _ => ⟨hread (·.bootStep), hread (·.wdtAt)⟩,
    fun hno => absurd hno (by simp [hrecovery]), fun hno => absurd hno (by simp [hrecovery])⟩

/-- The map cannot be restored. -/
theorem bootedOn_stopped (h : bootView t = { bootView s with bootStep := 4, recovery := false, wdtAt := w, cfs := true })
    (hwhy : 5 ∈ t.logbook.failed ∨ b.mapOk = false) : BootedOn b s t := by
  have hread {α : Type} (f : BootView → α) : f (bootView t) = f _ := congrArg f h
  have hrecovery : t.power.recovery = false := hread (·.recovery)
  exact ⟨(hread (·.bootStep)).ge, hread (·.on), hread (·.synmon), hread (·.cause), hread (·.refclk), hread (·.uptime),
    .inr (hread (·.bootWait)), fun hs => (hread (·.dockets)).trans hs.1, fun hno => absurd hno (by simp [hrecovery]),
    fun _ hgood hok => absurd hwhy (by simp [hgood, hok]), fun _ _ => ⟨hread (·.cfs), hread (·.ready)⟩⟩

/-- The module ends in service. -/
theorem bootedOn_service {d : Tab Docket} {a : List (Nat × Adm × Nat)} {f : List Found} {wait : Nat}
    (h : bootView t = { bootView s with bootStep := 6, bootWait := wait, recovery := false, wdtAt := w, dockets := d, admWait := a, ready := true, found := f })
    (hwait : wait = 3 ∨ wait = s.power.bootWait) (hs : Waitless s → d = [] ∧ a = [] ∧ f = []) (hok : b.mapOk = true) : BootedOn b s t := by
  have hread {α : Type} (f : BootView → α) : f (bootView t) = f _ := congrArg f h
  have hrecovery : t.power.recovery = false := hread (·.recovery)
  have hstep : t.power.bootStep = 6 := hread (·.bootStep)
  have hwaits : t.power.bootWait = wait := hread (·.bootWait)
  exact ⟨by omega, hread (·.on), hread (·.synmon), hread (·.cause), hread (·.refclk), hread (·.uptime),
    hwaits ▸ hwait, fun h0 => (hread (·.dockets)).trans (hs h0).1, fun hno => absurd hno (by simp [hrecovery]),
    fun _ _ _ => ⟨hstep, hread (·.ready), fun h0 => (hread (·.found)).trans (hs h0).2.2⟩, fun _ hno => absurd hno (by simp [hok])⟩

theorem bootedOn_bootOn (s : State) (b : BootIn) : BootedOn b s (bootOn s b) := by
  obtain ⟨r, w, hfour, hw⟩ := bootView_bootFour s
  have hcourse : bootOn s b =
      if (bootFour s).power.recovery then bootFour s
      else if (bootFour s).logbook.failed.contains 5 then stopRestore (bootFour s) 1
      else if !b.mapOk then stopRestore (bootFour s) 2
      else bootSix (restore (bootFour s) b.badPages) := rfl
  rw [hcourse]
  generalize bootFour s = u at hfour ⊢
  have hr : u.power.recovery = r := congrArg BootView.recovery hfour
  rw [hr]
  cases r with
  | true => exact bootedOn_recovery (by rw [if_pos rfl, hfour, hw rfl])
  | false =>
    rw [if_neg Bool.false_ne_true]
    split
    case isTrue h5 => exact bootedOn_stopped (by rw [bootView_stopRestore, hfour]) (.inl (show 5 ∈ u.logbook.failed by simpa using h5))
    case isFalse h5 =>
      split
      case isTrue hmap => exact bootedOn_stopped (by rw [bootView_stopRestore, hfour]) (.inr (by simpa using hmap))
      case isFalse hmap =>
        obtain ⟨d, a, f, hrestored, hclear⟩ := bootView_restore u b.badPages
        obtain ⟨wait, hsix, hwait⟩ := bootView_bootSix (restore u b.badPages)
        generalize restore u b.badPages = v at hrestored hsix hwait ⊢
        have hwaits : v.power.bootWait = s.power.bootWait := by
          have hfourth : u.power.bootWait = s.power.bootWait := congrArg BootView.bootWait hfour
          exact (congrArg BootView.bootWait hrestored).trans hfourth
        have hidle : Waitless s → Waitless u := fun h0 =>
          ⟨(congrArg BootView.dockets hfour).trans h0.1, (congrArg BootView.admWait hfour).trans h0.2⟩
        refine bootedOn_service (w := w) (wait := wait) (hsix.trans ?_) (hwaits ▸ hwait) (fun h0 => hclear (hidle h0)) (by simpa using hmap)
        rw [hrestored, hfour]

/-! ### Starts -/

/-- A power-up sequence whose rails are good. -/
theorem bootedOn_bootFromThree (hc : s.power.refclk = true) (hr : b.rails = true) (second : Bool) :
    ∃ u, bootView u = { bootView s with on := bootDomains s, bootWait := 0, bootStep := 3 } ∧
      BootedOn b u (bootFromThree s b second) := by
  have hthree := bootView_bootThree_rails s second hc
  refine ⟨_, hthree, ?_⟩
  have hstep : (bootThree s second true).power.bootStep = 3 := congrArg BootView.bootStep hthree
  have hgoes : bootFromThree s b second = bootOn (bootThree s second true) b := by
    rw [bootFromThree, hr]
    exact if_pos hstep
  rw [hgoes]
  exact bootedOn_bootOn _ b

/-- A power-up sequence that waits for its clock or its rails. -/
theorem bootFromThree_waits {wait : Nat} {second : Bool} (hstep : s.power.bootStep ≠ 3)
    (h : bootView (bootThree s second b.rails) = { bootView s with bootWait := wait }) :
    bootFromThree s b second = bootThree s second b.rails := by
  have hkept : (bootThree s second b.rails).power.bootStep = s.power.bootStep := congrArg BootView.bootStep h
  exact if_neg (hkept ▸ hstep)

theorem bootView_selfTestEnd (s : State) (result segment notRun : Nat) : bootView (selfTestEnd s result segment notRun) = bootView s := by
  unfold selfTestEnd
  split <;> rfl

/-- What power-on and every module-wide reset clear of what a boot looks at. -/
theorem bootView_clearModule (s : State) (powerOn : Bool) : bootView (clearModule s powerOn) =
    { bootView s with
      bootStep := 1, bootWait := 0, synmon := if powerOn then false else s.power.synmon, recovery := false, wdtAt := none, cfs := false
      uptime := 0, dockets := [], admWait := [] } := by
  have hended := bootView_selfTestEnd s 2 0 0
  unfold clearModule
  generalize selfTestEnd s 2 0 0 = u at hended ⊢
  rw [← hended, show s.power.synmon = u.power.synmon from (congrArg BootView.synmon hended).symm]
  cases powerOn <;> rfl

/-- The module at the start of a boot from step 1. -/
def bootStart (s : State) (cause : Nat) : State :=
  let s := clearModule s true
  { s with power := { s.power with on := [0], inputOn := true, thermal := false, powerRestart := false, wdtRow := if 3 ≤ s.power.wdtRow then s.power.wdtRow else 0, nextCause := s.power.nextCause ||| cause } }

theorem bootFromOne_start (s : State) (b : BootIn) (cause : Nat) : bootFromOne s b cause = bootFromTwo (bootStart s cause) b := rfl

theorem bootView_bootStart (s : State) (cause : Nat) : bootView (bootStart s cause) =
    { bootView s with
      on := [0], bootStep := 1, bootWait := 0, synmon := false, nextCause := s.power.nextCause ||| cause, recovery := false, wdtAt := none, cfs := false
      uptime := 0, dockets := [], admWait := [] } := by
  have hcleared := bootView_clearModule s true
  have hnext : (clearModule s true).power.nextCause = s.power.nextCause := congrArg BootView.nextCause hcleared
  have hstart (u : State) (row : Nat) : bootView { u with power := { u.power with
      on := [0], inputOn := true, thermal := false, powerRestart := false, wdtRow := row, nextCause := u.power.nextCause ||| cause } } =
      { bootView u with on := [0], nextCause := u.power.nextCause ||| cause } := rfl
  unfold bootStart
  dsimp only
  rw [hstart, hnext, hcleared]
  rfl

/-- A boot from step 2 by its inputs. -/
theorem bootFromTwo_held (h : s.power.modRst = true ∨ s.power.fenceIn = true) :
    bootFromTwo s b = { bootTwo s b with power := { (bootTwo s b).power with bootWait := 4 } } := by
  have hview := bootView_bootTwo s b
  have hm : (bootTwo s b).power.modRst = s.power.modRst := congrArg BootView.modRst hview
  have hf : (bootTwo s b).power.fenceIn = s.power.fenceIn := congrArg BootView.fenceIn hview
  exact if_pos (h.imp hm.trans hf.trans)

theorem bootFromTwo_free (hm : s.power.modRst = false) (hf : s.power.fenceIn = false) :
    bootFromTwo s b = bootFromThree (bootTwo s b) b false := by
  have hview := bootView_bootTwo s b
  have hm' : (bootTwo s b).power.modRst = false := (congrArg BootView.modRst hview).trans hm
  have hf' : (bootTwo s b).power.fenceIn = false := (congrArg BootView.fenceIn hview).trans hf
  exact if_neg (by simp [hm', hf'])

/-- A boot from step 2 that runs through: what it keeps of its start. -/
structure BootedThrough (b : BootIn) (s t : State) : Prop where
  step : 4 ≤ t.power.bootStep
  on : ∀ d ∈ [0, 1, 18, 19], d ∈ t.power.on
  synmon : t.power.synmon = true
  cause : t.power.cause = s.power.nextCause
  uptime : t.uptime = s.uptime
  dockets : Waitless s → t.host.dockets = []
  recovery : t.power.recovery = true → t.power.bootStep = 4 ∧ t.power.wdtAt = s.power.wdtAt
  service : t.power.recovery = false → 5 ∉ t.logbook.failed → b.mapOk = true →
    t.power.bootStep = 6 ∧ t.media.ready = true ∧ (Waitless s → t.media.found = [])
  stopped : t.power.recovery = false → b.mapOk = false → t.power.cfs = true ∧ t.media.ready = s.media.ready

theorem bootedThrough_bootFromTwo (hm : s.power.modRst = false) (hf : s.power.fenceIn = false) (hc : s.power.refclk = true)
    (hr : b.rails = true) : BootedThrough b s (bootFromTwo s b) := by
  have hview := bootView_bootTwo s b
  have hc' : (bootTwo s b).power.refclk = true := (congrArg BootView.refclk hview).trans hc
  obtain ⟨u, hthree, h⟩ := bootedOn_bootFromThree hc' hr false
  rw [bootFromTwo_free hm hf]
  rw [hview] at hthree
  have hread {α : Type} (f : BootView → α) : f (bootView u) = f _ := congrArg f hthree
  have hidle : Waitless s → Waitless u := fun h0 => ⟨(hread (·.dockets)).trans h0.1, (hread (·.admWait)).trans h0.2⟩
  have hon : u.power.on = bootDomains (bootTwo s b) := hread (·.on)
  exact ⟨h.step, fun d hd => by rw [h.on, hon]; exact mem_bootDomains _ hd, h.synmon.trans (hread (·.synmon)),
    h.cause.trans (hread (·.cause)), h.uptime.trans (hread (·.uptime)), fun h0 => h.dockets (hidle h0),
    fun hrec => ⟨(h.recovery hrec).1, (h.recovery hrec).2.trans (hread (·.wdtAt))⟩,
    fun hrec h5 hok => ⟨(h.service hrec h5 hok).1, (h.service hrec h5 hok).2.1, fun h0 => (h.service hrec h5 hok).2.2 (hidle h0)⟩,
    fun hrec hno => ⟨(h.stopped hrec hno).1, (h.stopped hrec hno).2.trans (hread (·.ready))⟩⟩

end Course

end Sys2Proof.Machine
end

section
/-!
SUPPORT. Starts, stops and reset contacts of the whole module, its watchdog and its references (R391 to R393, R410,
R418 to R427).
-/
namespace Sys2Proof.Machine

/-! ### Starts -/

section Starts
variable {s : State} {b : BootIn} {cause : Nat}

/-- A start that an asserted reset contact holds. -/
theorem bootFromOne_held (h : s.power.modRst = true ∨ s.power.fenceIn = true) :
    (bootFromOne s b cause).power.bootStep = 2 ∧ (bootFromOne s b cause).power.bootWait = 4 ∧
      (bootFromOne s b cause).power.on = [0] := by
  have hstart := bootView_bootStart s cause
  have hm : (bootStart s cause).power.modRst = s.power.modRst := congrArg BootView.modRst hstart
  have hf : (bootStart s cause).power.fenceIn = s.power.fenceIn := congrArg BootView.fenceIn hstart
  have htwo := bootView_bootTwo (bootStart s cause) b
  rw [hstart] at htwo
  rw [bootFromOne_start, bootFromTwo_held (h.imp hm.trans hf.trans)]
  exact ⟨congrArg BootView.bootStep htwo, rfl, congrArg BootView.on htwo⟩

section Free
variable (hm : s.power.modRst = false) (hf : s.power.fenceIn = false)
include hm hf

theorem bootFromOne_free : ∃ u, bootView u = { bootView (bootStart s cause) with
      cause := (bootStart s cause).power.nextCause, nextCause := 0, bootStep := 2, synmon := true } ∧
    bootFromOne s b cause = bootFromThree u b false := by
  have hstart := bootView_bootStart s cause
  refine ⟨_, bootView_bootTwo (bootStart s cause) b, ?_⟩
  rw [bootFromOne_start]
  exact bootFromTwo_free ((congrArg BootView.modRst hstart).trans hm) ((congrArg BootView.fenceIn hstart).trans hf)

/-- A start that waits for its clock, and one whose rails fail. -/
theorem bootFromOne_noClock (hc : s.power.refclk = false) :
    (bootFromOne s b cause).power.bootStep = 2 ∧ (bootFromOne s b cause).power.bootWait = 2 := by
  obtain ⟨u, hu, hboot⟩ := bootFromOne_free (b := b) (cause := cause) hm hf
  rw [bootView_bootStart] at hu
  have hstep : u.power.bootStep = 2 := congrArg BootView.bootStep hu
  have hthree := bootView_bootThree_noClock u false ((congrArg BootView.refclk hu).trans hc) b.rails
  rw [hboot, bootFromThree_waits (by omega) hthree]
  exact ⟨(congrArg BootView.bootStep hthree).trans hstep, congrArg BootView.bootWait hthree⟩

theorem bootFromOne_noRails (hc : s.power.refclk = true) (hr : b.rails = false) :
    (bootFromOne s b cause).power.bootStep = 2 ∧ (bootFromOne s b cause).power.bootWait = 1 := by
  obtain ⟨u, hu, hboot⟩ := bootFromOne_free (b := b) (cause := cause) hm hf
  rw [bootView_bootStart] at hu
  have hstep : u.power.bootStep = 2 := congrArg BootView.bootStep hu
  have hthree := bootThree_noRails u false ((congrArg BootView.refclk hu).trans hc)
  rw [hboot, bootFromThree_waits (wait := 1) (by omega) (by rw [hr, hthree]; rfl), hr, hthree]
  exact ⟨hstep, rfl⟩

theorem bootedThrough_bootFromOne (hc : s.power.refclk = true) (hr : b.rails = true) :
    BootedThrough b (bootStart s cause) (bootFromOne s b cause) := by
  have hstart := bootView_bootStart s cause
  exact bootedThrough_bootFromTwo ((congrArg BootView.modRst hstart).trans hm) ((congrArg BootView.fenceIn hstart).trans hf)
    ((congrArg BootView.refclk hstart).trans hc) hr

end Free

/-- A start that runs through, from the state before it. -/
theorem bootFromOne_runs (hm : s.power.modRst = false) (hf : s.power.fenceIn = false) (hc : s.power.refclk = true)
    (hr : b.rails = true) : let t := bootFromOne s b cause
    4 ≤ t.power.bootStep ∧ (∀ d ∈ [0, 1, 18, 19], d ∈ t.power.on) ∧ t.uptime = 0 ∧ t.host.dockets = [] ∧ t.power.synmon = true ∧
      (t.power.recovery = true → t.power.bootStep = 4 ∧ t.power.wdtAt = none) ∧
      (t.power.recovery = false → 5 ∉ t.logbook.failed → b.mapOk = true →
        t.power.bootStep = 6 ∧ t.media.ready = true ∧ t.media.found = []) ∧
      (t.power.recovery = false → b.mapOk = false → t.power.cfs = true ∧ t.media.ready = s.media.ready) := by
  have hstart := bootView_bootStart s cause
  have hidle : Waitless (bootStart s cause) := ⟨congrArg BootView.dockets hstart, congrArg BootView.admWait hstart⟩
  have h := bootedThrough_bootFromOne (b := b) (cause := cause) hm hf hc hr
  generalize bootStart s cause = u at hstart hidle h
  generalize bootFromOne s b cause = t at h
  have hread {α : Type} (f : BootView → α) : f (bootView u) = f _ := congrArg f hstart
  exact ⟨h.step, h.on, h.uptime.trans (hread (·.uptime)), h.dockets hidle, h.synmon,
    fun hrec => ⟨(h.recovery hrec).1, (h.recovery hrec).2.trans (hread (·.wdtAt))⟩,
    fun hrec h5 hok => ⟨(h.service hrec h5 hok).1, (h.service hrec h5 hok).2.1, (h.service hrec h5 hok).2.2 hidle⟩,
    fun hrec hno => ⟨(h.stopped hrec hno).1, (h.stopped hrec hno).2.trans (hread (·.ready))⟩⟩

end Starts

/-! ### Messages of the module -/

/-- Entries of the dictionary but the ports' and the logbook's. -/
def offPorts (i : Nat) : Prop := i ≠ 0x1110 ∧ i ≠ 0x1111 ∧ i ≠ 0x1200

/-- Messages were sent and counted, and nothing else changed. -/
structure OnlyMessages (s t : State) : Prop where
  frame : ∃ d o m, t = { s with dict := d, out := o, mgmt := m }
  entry : ∀ i k, k < 256 → offPorts i → dget t i k = dget s i k

namespace OnlyMessages
variable {r s : State} (h : OnlyMessages r s)
include h

theorem trans {t : State} (h' : OnlyMessages s t) : OnlyMessages r t := by
  obtain ⟨d, o, m, hs⟩ := h.frame
  obtain ⟨d', o', m', ht⟩ := h'.frame
  exact ⟨⟨d', o', m', by rw [ht, hs]⟩, fun i k hk hi => (h'.entry i k hk hi).trans (h.entry i k hk hi)⟩

theorem dset {i sub : Nat} (v : Nat) (hi : ¬ offPorts i) (hs : sub < 256) : OnlyMessages r (dset s i sub v) :=
  h.trans ⟨⟨_, _, _, rfl⟩, fun j k hk hj => dget_dset_other _ _ _ _ _ _ (dk_ne _ _ _ _ hs hk (.inl (by rintro rfl; exact hi hj)))⟩

theorem bump {i sub : Nat} (n : Nat) (hi : ¬ offPorts i) (hs : sub < 256) : OnlyMessages r (bump s i sub n) := h.dset _ hi hs
theorem withMgmt (m : Mgmt) : OnlyMessages r { s with mgmt := m } := h.trans ⟨⟨_, _, _, rfl⟩, fun _ _ _ _ => rfl⟩
theorem emit (o : Out) : OnlyMessages r (emit s o) := h.trans ⟨⟨_, _, _, rfl⟩, fun _ _ _ _ => rfl⟩

theorem sendFrame {port : Nat} (hp : port < 2) (bytes : List Byte) : OnlyMessages r (sendFrame s port bytes) :=
  (h.emit _).bump _ (by unfold offPorts; omega) (by omega)

theorem sendEmergency {p : Nat} (hp : p < 2) (data : List Byte) : OnlyMessages r (sendEmergency s data p) := by
  unfold Machine.sendEmergency
  split
  · exact h
  · split
    · exact (h.withMgmt _).sendFrame hp _
    · exact h.bump _ (by simp [offPorts]) (by omega)

theorem sendEmergencies (data : List Byte) : OnlyMessages r (sendEmergencies s data) := by
  unfold Machine.sendEmergencies
  split
  · exact (h.sendEmergency (by omega) _).sendEmergency (by omega) _
  · exact h

theorem emergency (code i sub detail : Nat) : OnlyMessages r (emergency s code i sub detail) := by
  unfold Machine.emergency
  dsimp only
  generalize leBytes 2 code ++ leBytes 2 i ++ leBytes 1 sub ++ [0, 0, 0] ++ leBytes 4 detail = data
  have hset : OnlyMessages r (Machine.dset s 0x1200 9 (ofLe data)) := h.dset _ (by simp [offPorts]) (by omega)
  split
  · exact hset.withMgmt _
  · exact hset.sendEmergencies _

end OnlyMessages

theorem OnlyMessages.refl (s : State) : OnlyMessages s s := ⟨⟨_, _, _, rfl⟩, fun _ _ _ _ => rfl⟩

theorem onlyMessages_emergency (s : State) (code i sub detail : Nat) : OnlyMessages s (emergency s code i sub detail) :=
  (OnlyMessages.refl s).emergency code i sub detail

section Emergency
variable (s : State) (code i sub detail : Nat)

theorem power_emergency : (emergency s code i sub detail).power = s.power := by
  obtain ⟨d, o, m, h⟩ := (onlyMessages_emergency s code i sub detail).frame
  rw [h]

end Emergency

/-! ### Stops -/

/-- What a module-wide reset leaves of a module: nothing but its media, and what it keeps of its power side. -/
structure Stopped (s t : State) (bit : Nat) : Prop where
  on : t.power.on = [0]
  step : t.power.bootStep = 1
  uptime : t.uptime = 0
  cause : t.power.nextCause = s.power.nextCause ||| bit
  dockets : t.host.dockets = []
  dram : t.dram = []
  ik : t.ik = .empty
  relocs : t.media.relocs = if 5 ≤ s.power.bootStep then [] else s.media.relocs

/-- What of its contacts, its clock and its dump a module-wide reset leaves. -/
structure ResetKept (s t : State) : Prop where
  modRst : t.power.modRst = s.power.modRst
  fenceIn : t.power.fenceIn = s.power.fenceIn
  refclk : t.power.refclk = s.power.refclk
  dumping : t.power.dumping = s.power.dumping
  wait : t.power.bootWait = 0

theorem power_selfTestEnd (s : State) (result segment notRun : Nat) : (selfTestEnd s result segment notRun).power = s.power := by
  unfold selfTestEnd
  split <;> rfl

theorem media_selfTestEnd (s : State) (result segment notRun : Nat) : (selfTestEnd s result segment notRun).media = s.media := by
  unfold selfTestEnd
  split <;> rfl

theorem media_clearModule (s : State) (powerOn : Bool) : (clearModule s powerOn).media = s.media := by
  have hended := media_selfTestEnd s 2 0 0
  unfold clearModule
  generalize selfTestEnd s 2 0 0 = u at hended ⊢
  cases powerOn <;> exact hended

/-- A reset without a power cycle keeps the supervisor's state. -/
theorem power_clearModule_reset (s : State) : (clearModule s false).power.dumping = s.power.dumping ∧
    (clearModule s false).power.wdtRow = s.power.wdtRow := by
  have hended := power_selfTestEnd s 2 0 0
  have hdump : (selfTestEnd s 2 0 0).power.dumping = s.power.dumping := by rw [hended]
  have hrow : (selfTestEnd s 2 0 0).power.wdtRow = s.power.wdtRow := by rw [hended]
  unfold clearModule
  generalize selfTestEnd s 2 0 0 = u at hdump hrow ⊢
  exact ⟨hdump, hrow⟩

/-! ### The dump -/

theorem still_dumpUnit (s : State) (e : Docket) (ljsn total pos u : Nat) : still (dumpUnit s e ljsn total pos u).2 = still s := by
  have hput (v : State) (a n : Nat) (l : List Byte) (w : Nat) (tag : Nat → Tag) : still (putSlots v a n l w tag) = still v := rfl
  unfold dumpUnit
  dsimp only
  rw [hput, still_landSpot]

theorem still_dumpUnits (e : Docket) (ljsn total : Nat) (us : List Nat) (pos : Nat) (s : State) :
    still (dumpUnits e ljsn total pos us s).2 = still s := by
  induction us generalizing pos s with
  | nil => rfl
  | cons u us ih =>
    rw [dumpUnits]
    dsimp only
    rw [ih, still_dumpUnit]

theorem still_dumpWrite (ljsn : Nat) (s : State) (d : Nat) : still (dumpWrite ljsn s d) = still s := by
  have hseq (v : State) (n : Nat) : still { v with media := { v.media with cseq := n } } = still v := rfl
  have hrecs (v : State) (l : List JRec) : still (l.foldl appendOwn v) = still v := foldl_keeps still still_appendOwn _ _
  unfold dumpWrite
  dsimp only
  rw [still_setDk]
  split
  · rw [hrecs, hseq, still_dumpUnits]
  · rw [hseq, still_dumpUnits]

theorem still_stopMedia (s : State) (lim : Nat) : still (stopMedia s lim) = still s := by
  have hstopped (v : State) (m : Media) : still { v with media := m } = still v := rfl
  unfold stopMedia
  dsimp only
  rw [hstopped, still_programTail]

/-- The dump leaves the power side alone. -/
theorem still_stopDumped (s : State) (writes : Bool) : still (stopDumped s writes) = still s := by
  unfold stopDumped
  dsimp only
  rw [still_stopMedia]
  split
  · exact foldl_keeps still (fun u d => still_dumpWrite _ u d) _ _
  · rfl

theorem relocs_stopMedia (s : State) (lim : Nat) : (stopMedia s lim).media.relocs = [] := by
  unfold stopMedia
  rfl

theorem programmed_stopMedia (s : State) (lim : Nat) : (stopMedia s lim).media.programmedJsn = (stopMedia s lim).media.jsn := by
  unfold stopMedia
  rfl

/-! ### Module-wide resets -/

/-- A reset up to what it clears: its cause is noted, and its writes are dumped. -/
def resetDumped (s : State) (mask : Nat) : State :=
  let s := bump (noteCause (copyHealth s) mask) 0x3010 7 1
  if 5 ≤ s.power.bootStep then stopDumped s true else s

theorem moduleReset_stages (s : State) (mask : Nat) : moduleReset s mask =
    (let u := clearModule (resetDumped s mask) false
     { u with power := { u.power with on := [0], wdtRow := if bitOf mask 3 || decide (3 ≤ u.power.wdtRow) then u.power.wdtRow else 0 } }) := by
  rw [moduleReset, resetDumped]

theorem media_copyHealth (s : State) : (copyHealth s).media = s.media := by
  unfold copyHealth
  split <;> rfl

theorem media_noteCause (s : State) (mask : Nat) : (noteCause s mask).media = s.media := by
  unfold noteCause
  split <;> rfl

section Resets
variable {s : State} {mask : Nat} (hw : s.power.bootWait ≠ 4)
include hw

theorem power_noteCause : (noteCause (copyHealth s) mask).power = { s.power with nextCause := s.power.nextCause ||| mask } := by
  have hcopied : (copyHealth s).power = s.power := by unfold copyHealth; split <;> rfl
  unfold noteCause
  rw [hcopied, if_neg hw]

theorem power_resetDumped : (resetDumped s mask).power = { s.power with nextCause := s.power.nextCause ||| mask } := by
  unfold resetDumped
  dsimp only
  split
  · rw [power_of_still (still_stopDumped _ _)]
    exact power_noteCause hw
  · exact power_noteCause hw

theorem relocs_resetDumped : (resetDumped s mask).media.relocs = if 5 ≤ s.power.bootStep then [] else s.media.relocs := by
  have hstep : (bump (noteCause (copyHealth s) mask) 0x3010 7 1).power.bootStep = s.power.bootStep := by
    show (noteCause (copyHealth s) mask).power.bootStep = s.power.bootStep
    rw [power_noteCause hw]
  unfold resetDumped
  dsimp only
  rw [hstep]
  split
  · exact relocs_stopMedia _ _
  · exact congrArg Media.relocs ((media_noteCause _ _).trans (media_copyHealth s))

/-- A module-wide reset: what is cleared, and what stands of the power side. -/
theorem stopped_moduleReset : Stopped s (moduleReset s mask) mask ∧ ResetKept s (moduleReset s mask) ∧
    (moduleReset s mask).power.wdtRow = if bitOf mask 3 || decide (3 ≤ s.power.wdtRow) then s.power.wdtRow else 0 := by
  have hview := bootView_clearModule (resetDumped s mask) false
  have hmedia := media_clearModule (resetDumped s mask) false
  obtain ⟨hdump, hrow⟩ := power_clearModule_reset (resetDumped s mask)
  have hdram : (clearModule (resetDumped s mask) false).dram = [] := rfl
  have hik : (clearModule (resetDumped s mask) false).ik = .empty := rfl
  have hrelocs := relocs_resetDumped (mask := mask) hw
  have hpower := power_resetDumped (mask := mask) hw
  rw [moduleReset_stages]
  generalize clearModule (resetDumped s mask) false = u at *
  generalize resetDumped s mask = v at *
  have hread {α : Type} (f : BootView → α) : f (bootView u) = f _ := congrArg f hview
  have hcause : u.power.nextCause = s.power.nextCause ||| mask :=
    (hread (·.nextCause)).trans (show v.power.nextCause = _ by rw [hpower])
  have hmod : u.power.modRst = s.power.modRst := (hread (·.modRst)).trans (show v.power.modRst = _ by rw [hpower])
  have hfence : u.power.fenceIn = s.power.fenceIn := (hread (·.fenceIn)).trans (show v.power.fenceIn = _ by rw [hpower])
  have hclock : u.power.refclk = s.power.refclk := (hread (·.refclk)).trans (show v.power.refclk = _ by rw [hpower])
  have hrows : u.power.wdtRow = s.power.wdtRow := hrow.trans (by rw [hpower])
  have hdumps : u.power.dumping = s.power.dumping := hdump.trans (by rw [hpower])
  refine ⟨⟨rfl, hread (·.bootStep), hread (·.uptime), hcause, hread (·.dockets), hdram, hik, ?_⟩,
    ⟨hmod, hfence, hclock, hdumps, hread (·.bootWait)⟩, ?_⟩
  · rw [← hrelocs, ← hmedia]
  · dsimp only
    rw [hrows]

end Resets

/-- Messages leave a stopped module stopped. -/
theorem Stopped.of_messages {s t u : State} {bit : Nat} (hm : OnlyMessages t u) (h : Stopped s t bit) : Stopped s u bit := by
  obtain ⟨d, o, m, rfl⟩ := hm.frame
  exact ⟨h.on, h.step, h.uptime, h.cause, h.dockets, h.dram, h.ik, h.relocs⟩

/-- A power side with the same causes and step. -/
theorem Stopped.of_power {s t : State} {p : Power} {bit : Nat} (h : Stopped { s with power := p } t bit)
    (hc : p.nextCause = s.power.nextCause) (hs : p.bootStep = s.power.bootStep) : Stopped s t bit :=
  ⟨h.on, h.step, h.uptime, h.cause.trans (by rw [hc]), h.dockets, h.dram, h.ik, h.relocs.trans (by rw [hs])⟩

theorem ResetKept.of_messages {s t u : State} (hm : OnlyMessages t u) (h : ResetKept s t) : ResetKept s u := by
  obtain ⟨d, o, m, rfl⟩ := hm.frame
  exact ⟨h.modRst, h.fenceIn, h.refclk, h.dumping, h.wait⟩

/-! ### Reset contacts -/

section Contacts
variable {s : State} {b : BootIn} {mask : Nat}

theorem bootWait_of_running (h : heldInReset s = false) : s.power.bootWait ≠ 4 := by
  simp only [heldInReset, Bool.or_eq_false_iff, beq_eq_false_iff_ne] at h
  exact h.2

theorem contactAsserted_resets (hd : s.power.dumping = false) (hon : s.power.on ≠ []) (hh : heldInReset s = false)
    (h6 : s.power.bootWait ≠ 6 ∨ mask = 2) : contactAsserted s mask = moduleReset s mask := by
  unfold contactAsserted
  rw [if_neg (by simp [hd]), if_neg (by simpa using hon), if_neg (by simp [hh]), if_neg (by tauto)]

/-- A module whose power-up failed twice heeds MOD_RST_N alone. -/
theorem contactAsserted_failed (hd : s.power.dumping = false) (hon : s.power.on ≠ []) (hh : heldInReset s = false)
    (h6 : s.power.bootWait = 6) (hm : mask ≠ 2) : contactAsserted s mask = s := by
  unfold contactAsserted
  rw [if_neg (by simp [hd]), if_neg (by simpa using hon), if_neg (by simp [hh]), if_pos ⟨h6, hm⟩]

theorem contactReleased_held (h : s.power.modRst = true ∨ s.power.fenceIn = true) : contactReleased s b = s :=
  if_pos (h.elim .inl (fun hf => .inr (.inl hf)))

section Released
variable (hm : s.power.modRst = false) (hf : s.power.fenceIn = false) (hd : s.power.dumping = false) (hon : s.power.on ≠ [])
include hm hf hd hon

theorem contactReleased_waiting (hw : s.power.bootWait = 4) :
    contactReleased s b = bootFromThree { s with power := { s.power with bootWait := 0 } } b false :=
  (if_neg (by simp [hm, hf, hd, hon])).trans (if_pos hw)

theorem contactReleased_reset (hw : s.power.bootWait ≠ 4) (hs : s.power.bootStep ≤ 1) : contactReleased s b = bootFromTwo s b :=
  (if_neg (by simp [hm, hf, hd, hon])).trans ((if_neg hw).trans (if_pos hs))

end Released

/-- A module that waits at the end of step 2 goes on once its last contact is released. -/
theorem contactReleased_boots (hm : s.power.modRst = false) (hf : s.power.fenceIn = false) (hd : s.power.dumping = false)
    (hon : s.power.on ≠ []) (hw : s.power.bootWait = 4) (hc : s.power.refclk = true) (hr : b.rails = true) :
    4 ≤ (contactReleased s b).power.bootStep := by
  rw [contactReleased_waiting hm hf hd hon hw]
  obtain ⟨u, -, h⟩ := bootedOn_bootFromThree (s := { s with power := { s.power with bootWait := 0 } }) hc hr false
  exact h.step

/-! ### Watchdog -/

/-- A watchdog reset before its start: the row of resets before step 5 is counted. -/
def watchdogStop (s : State) : State :=
  let u := bump s 0x3010 4 1
  moduleReset { u with power := { u.power with wdtRow := if s.power.bootStep < 5 then s.power.wdtRow + 1 else 0, collect := true } } 8

theorem watchdogReset_stages (s : State) (b : BootIn) : watchdogReset s b =
    contactReleased (emergency (watchdogStop s) 0x0303 0x3010 1 (watchdogStop s).power.nextCause) b := rfl

theorem stopped_watchdogStop (hw : s.power.bootWait ≠ 4) : Stopped s (watchdogStop s) 8 ∧ ResetKept s (watchdogStop s) ∧
    (watchdogStop s).power.wdtRow = if s.power.bootStep < 5 then s.power.wdtRow + 1 else 0 := by
  obtain ⟨⟨hon, hstep, huptime, hcause, hdockets, hdram, hik, hrelocs⟩, ⟨hm, hf, hc, hd, h0⟩, hrow⟩ := stopped_moduleReset (mask := 8)
    (s := { bump s 0x3010 4 1 with power := { (bump s 0x3010 4 1).power with
      wdtRow := if s.power.bootStep < 5 then s.power.wdtRow + 1 else 0, collect := true } }) hw
  exact ⟨⟨hon, hstep, huptime, hcause, hdockets, hdram, hik, hrelocs⟩, ⟨hm, hf, hc, hd, h0⟩, hrow.trans (if_pos rfl)⟩

end Contacts

/-! ### The power-up sequence -/

section PowerUp
variable {s : State} {b : BootIn}

theorem exec_powerOn (hd : s.power.dumping = false) (h : s.power.bootStep < 5 ∨ s.power.on = []) :
    exec (.powerOn b) s = .next (bootFromOne s b 1) := by
  show execPowerOn b s = _
  have hcut : cutDump s = s := if_neg (by simp [hd])
  rw [execPowerOn, when_of (by simpa [hd] using h), hcut]

theorem exec_powerRestart (h : s.power.powerRestart = true) :
    exec (.powerRestart b) s = .next (bootFromOne s b (if s.power.inputOn then 0 else 32)) := by
  show execPowerRestart b s = _
  rw [execPowerRestart, when_of h]

theorem exec_powerUpRetry (h : s.power.bootWait = 5) : exec (.powerUpRetry b) s = .next (bootFromThree s b true) := by
  show execPowerUpRetry b s = _
  rw [execPowerUpRetry, when_of (by simp [h])]

/-- The second try whose rails fail waits for its timeout. -/
theorem bootFromThree_failsTwice (hc : s.power.refclk = true) (hs : s.power.bootStep ≠ 3) (hr : b.rails = false) :
    bootFromThree s b true = { s with power := { s.power with bootWait := 7 } } := by
  have hthree := bootThree_noRails s true hc
  rw [bootFromThree_waits (wait := 7) hs (by rw [hr, hthree]; rfl), hr, hthree]
  rfl

/-- A rail that is not good within its bound: the first time it is tried again, the second time only D0 stays. -/
theorem powerUpRailTimeout_first (h : s.power.bootWait = 1) (slot : Nat) : exec (.powerUpRailTimeout slot) s =
    .next { s with power := { s.power with bootWait := 5, on := [0] } } := by
  show execPowerUpRailTimeout slot s = _
  exact if_pos h

theorem powerUpRailTimeout_second (h : s.power.bootWait = 7) (slot : Nat) : completes (.powerUpRailTimeout slot) s (fun t =>
    t.power.bootWait = 6 ∧ t.power.on = [0] ∧ t.power.bootStep = s.power.bootStep) := by
  refine ⟨emergency (logPel { s with power := { s.power with bootWait := 6, on := [0] } } "power-up failed twice" slot 0)
    0x0201 (0x2100 + slot) 0 slot, ?_, ?_⟩
  · show execPowerUpRailTimeout slot s = _
    rw [execPowerUpRailTimeout, if_neg (by omega), when_of (by simp [h])]
  · dsimp only
    rw [power_emergency]
    exact ⟨rfl, rfl, rfl⟩

end PowerUp

/-! ### References -/

/-- The PLLs enter holdover, and the loss is counted. -/
theorem refclkLoss_running {s : State} (hc : s.power.refclk = true) (hs : 3 ≤ s.power.bootStep) (hon : s.power.on ≠ []) :
    completes .refclkLoss s (fun t => t.power = { s.power with refclk := false, holdover := true } ∧
      dget t 0x3000 2 = (dget s 0x3000 2 + 1) % counterMax 0x3000 2) := by
  obtain ⟨u, hu⟩ : ∃ u : State, u = bump { s with power := { s.power with refclk := false, holdover := true } } 0x3000 2 1 := ⟨_, rfl⟩
  have hexec : exec .refclkLoss s = .next (logPel (emergency u 0x0302 0x3000 1 0) "REFCLK_25M lost" 0 0) := by
    show execRefclkLoss s = _
    rw [execRefclkLoss, when_of hc, hu]
    exact congrArg _ (if_neg (by simp only [not_or]; exact ⟨by omega, by simpa using hon⟩))
  have hsent := onlyMessages_emergency u 0x0302 0x3000 1 0
  refine ⟨_, hexec, ?_, ?_⟩
  · have hpower : (emergency u 0x0302 0x3000 1 0).power = u.power := power_emergency _ _ _ _ _
    exact hpower.trans (by rw [hu]; rfl)
  · have hentry : dget (emergency u 0x0302 0x3000 1 0) 0x3000 2 = dget u 0x3000 2 :=
      hsent.entry 0x3000 2 (by omega) ⟨by omega, by omega, by omega⟩
    refine Eq.trans hentry ?_
    rw [hu]
    exact dget_bump_same _ _ _ _

/-- Settles O52: the boot by its inputs, then each stop and each reference. -/
theorem bootAndResets : Obligations.BootAndResets := by
  unfold Obligations.BootAndResets
  refine ⟨?starts, ?stops⟩
  case starts =>
    intro s b slot p boots
    have hboots {i : Instr} {cause : Nat} (hi : exec i s = .next (bootFromOne s b cause)) : boots i :=
      ⟨fun hheld => ⟨_, hi, bootFromOne_held hheld⟩, fun hm hf => ⟨fun hc => ⟨_, hi, bootFromOne_noClock hm hf hc⟩,
        fun hc hr => ⟨_, hi, bootFromOne_noRails hm hf hc hr⟩, fun hc hr => ⟨_, hi, bootFromOne_runs hm hf hc hr⟩⟩⟩
    refine ⟨fun hd h => hboots (exec_powerOn hd h), fun h => hboots (exec_powerRestart h),
      fun h => powerUpRailTimeout_first h slot, fun h => powerUpRailTimeout_second h slot,
      fun h hc hs => ⟨fun hr => (exec_powerUpRetry h).trans (congrArg _ (bootFromThree_failsTwice hc hs hr)), fun hr => ?retried⟩⟩
    obtain ⟨u, hu, hbooted⟩ := bootedOn_bootFromThree (s := s) hc hr true
    have hwait : u.power.bootWait = 0 := congrArg BootView.bootWait hu
    exact ⟨_, exec_powerUpRetry h, hbooted.step, by have := hbooted.wait; omega⟩
  case stops =>
    intro s b port p stopped
    have hstopped {t : State} {bit : Nat} (h : Stopped s t bit) : stopped t bit :=
      ⟨h.on, h.step, h.uptime, h.cause, h.dockets, h.dram, h.ik, h.relocs⟩
    have hexpires (ho : watchdogOver s = true) : exec (.watchdogExpiry b) s = .next (watchdogReset s b) := by
      show execWatchdogExpiry b s = _
      rw [execWatchdogExpiry, when_of ho]
    have hmodOff (hm : p.modRst = true) : exec (.modRstNDeassert b) s =
        .next (contactReleased { s with power := { p with modRst := false } } b) := by
      show execModRstNDeassert b s = _
      rw [execModRstNDeassert, when_of hm]
    have hfenceOff (hf : p.fenceIn = true) : exec (.fenceInDeassert b) s =
        .next (contactReleased { s with power := { p with fenceIn := false } } b) := by
      show execFenceInDeassert b s = _
      rw [execFenceInDeassert, when_of hf]
    have hfenceOn (hf : p.fenceIn = false) : exec .fenceInAssert s =
        .next (contactAsserted { s with power := { p with fenceIn := true } } 4) := by
      show execFenceInAssert s = _
      rw [execFenceInAssert, when_of (by simp [show s.power.fenceIn = false from hf])]
    refine ⟨fun hd hon hh => ⟨fun hm => ?modRst, fun hf h6 => ?fence, fun hf h6 => ?fenceFailed, fun ho hm => ?watchdogHeld,
      fun ho hm hf hc hr => ?watchdog⟩, fun hd hon hw => ⟨fun hm hf => ⟨(hmodOff hm).trans (congrArg _ (contactReleased_held (.inr hf))),
        (hfenceOff hf).trans (congrArg _ (contactReleased_held (.inl hm)))⟩, fun hc hr => ⟨fun hm hf => ?modBoots,
      fun hf hm => ?fenceBoots⟩⟩, fun hw => ?renew, fun ho => ?notOver, fun hc => ⟨fun hs hon => refclkLoss_running hc hs hon, fun hs => ?early⟩,
      fun hc => ⟨fun hw => ?returns, fun hw hr => ?boots⟩, fun hp href => ?portLost, fun hp href => ?portBack⟩
    case modRst =>
      obtain ⟨hst, hkept, -⟩ := stopped_moduleReset (mask := 2) (s := { s with power := { p with modRst := true } }) (bootWait_of_running hh)
      refine ⟨_, ?_, hkept.modRst, hstopped (hst.of_power rfl rfl)⟩
      show execModRstNAssert s = _
      rw [execModRstNAssert, when_of (by simp [show s.power.modRst = false from hm]),
        contactAsserted_resets (s := { s with power := { s.power with modRst := true } }) hd hon hh (.inr rfl)]
    case fence =>
      obtain ⟨hst, hkept, -⟩ := stopped_moduleReset (mask := 4) (s := { s with power := { p with fenceIn := true } }) (bootWait_of_running hh)
      exact ⟨_, (hfenceOn hf).trans (congrArg _ (contactAsserted_resets hd hon hh (.inl h6))), hkept.fenceIn,
        hstopped (hst.of_power rfl rfl)⟩
    case fenceFailed => exact (hfenceOn hf).trans (congrArg _ (contactAsserted_failed hd hon hh h6 (by decide)))
    case watchdogHeld =>
      obtain ⟨hst, hkept, hrow⟩ := stopped_watchdogStop (bootWait_of_running hh)
      have hsent := onlyMessages_emergency (watchdogStop s) 0x0303 0x3010 1 (watchdogStop s).power.nextCause
      refine ⟨_, hexpires ho, ?_⟩
      rw [watchdogReset_stages, contactReleased_held (.inl ((hkept.of_messages hsent).modRst.trans hm))]
      exact ⟨hstopped (hst.of_messages hsent), (congrArg Power.wdtRow (power_emergency _ _ _ _ _)).trans hrow⟩
    case watchdog =>
      obtain ⟨hst, hkept, -⟩ := stopped_watchdogStop (bootWait_of_running hh)
      have hsent := onlyMessages_emergency (watchdogStop s) 0x0303 0x3010 1 (watchdogStop s).power.nextCause
      have hstop := hst.of_messages hsent
      have hkeep := hkept.of_messages hsent
      refine ⟨_, hexpires ho, ?_⟩
      rw [watchdogReset_stages]
      generalize emergency (watchdogStop s) 0x0303 0x3010 1 (watchdogStop s).power.nextCause = u at hstop hkeep ⊢
      have hwait : u.power.bootWait ≠ 4 := by rw [hkeep.wait]; decide
      rw [contactReleased_reset (hkeep.modRst.trans hm) (hkeep.fenceIn.trans hf) (hkeep.dumping.trans hd) (by rw [hstop.on]; decide)
        hwait hstop.step.le]
      have hbooted := bootedThrough_bootFromTwo (b := b) (hkeep.modRst.trans hm) (hkeep.fenceIn.trans hf) (hkeep.refclk.trans hc) hr
      refine ⟨hbooted.step, ?_⟩
      rw [hbooted.cause, hstop.cause, bitOf_eq_testBit, Nat.testBit_or]
      exact Bool.or_true _
    case modBoots => exact ⟨_, hmodOff hm, contactReleased_boots rfl hf hd hon hw hc hr⟩
    case fenceBoots => exact ⟨_, hfenceOff hf, contactReleased_boots hm rfl hd hon hw hc hr⟩
    case renew =>
      show execWatchdogRenew s = _
      rw [execWatchdogRenew, when_of (Option.isSome_iff_ne_none.2 hw)]
    case notOver =>
      show execWatchdogExpiry b s = _
      rw [execWatchdogExpiry, when_unless ho]
    case early =>
      show execRefclkLoss s = _
      rw [execRefclkLoss, when_of hc]
      exact congrArg _ (if_pos (.inl hs))
    case returns =>
      show execRefclkReturn b s = _
      rw [execRefclkReturn, when_of (by simp [show s.power.refclk = false from hc])]
      exact congrArg _ (if_neg hw)
    case boots =>
      obtain ⟨u, hu, hbooted⟩ := bootedOn_bootFromThree (s := { s with power := { p with refclk := true, holdover := false } }) rfl hr false
      refine ⟨_, ?_, hbooted.step, hbooted.refclk.trans (congrArg BootView.refclk hu)⟩
      show execRefclkReturn b s = _
      rw [execRefclkReturn, when_of (by simp [show s.power.refclk = false from hc])]
      exact congrArg _ (if_pos hw)
    case portLost =>
      show execPortRefclkLoss port s = _
      rw [execPortRefclkLoss, when_of (by simp [hp, show s.power.portRef[port]? = some true from href])]
    case portBack =>
      refine ⟨settlePort { s with power := { p with portRef := listMod (fun _ => true) p.portRef port } } port, ?_, rfl⟩
      show execPortRefclkReturn port s = _
      rw [execPortRefclkReturn, when_of (by simp [hp, show s.power.portRef[port]? = some false from href])]

end Sys2Proof.Machine
end

section
/-!
SUPPORT. Power losses, thermal shutdowns and rail faults: the dump and its end (R396, R408 to R411, R498, Table 15.5a).
-/
namespace Sys2Proof.Machine

/-! ### The dump begins -/

/-- A dump in progress: steps 1 to 4 of Table 15.5a. -/
structure Dumping (s t : State) : Prop where
  dumping : t.power.dumping = true
  alive : t.pair.aliveOut = false
  cores : ∀ c, c < 256 → getCore t c = Core.empty
  domains : ∀ d, 3 ≤ d → d ≤ 10 → d ∉ t.power.on
  dockets : t.host.dockets = s.host.dockets
  media : t.media = s.media

theorem Dumping.of_same {r s t : State} (hd : s.host.dockets = r.host.dockets) (hm : s.media = r.media) (h : Dumping s t) :
    Dumping r t := ⟨h.dumping, h.alive, h.cores, h.domains, h.dockets.trans hd, h.media.trans hm⟩

theorem dumping_beginDump (s : State) : Dumping s (beginDump s) := by
  have hmedia := media_copyHealth s
  have hhost : (copyHealth s).host = s.host := by unfold copyHealth; split <;> rfl
  unfold beginDump shedLoad
  generalize copyHealth s = u at hmedia hhost ⊢
  refine ⟨rfl, rfl, fun c hc => tabGet_filter_dropped _ _ _ _ (fun v => ?_), fun d h3 h10 => ?_, congrArg HostIf.dockets hhost, hmedia⟩
  · simp only [decide_eq_false_iff_not]
    omega
  · show d ∉ u.power.on.filter _
    simp only [List.mem_filter, Bool.or_eq_true, decide_eq_true_eq]
    omega

/-- A loss of power in service, and before it. -/
theorem losePower_service {s : State} (h : 5 ≤ s.power.bootStep) : losePower s = beginDump s := if_neg (by omega)
theorem losePower_boot {s : State} (h : s.power.bootStep < 5) : losePower s = powerOff (copyHealth s) := if_pos h

/-! ### Off -/

section Off
variable (s : State)

theorem power_copyHealth : (copyHealth s).power = s.power := by
  unfold copyHealth
  split <;> rfl

/-- What a module that is off keeps of its power side. -/
structure SwitchedOff (s t : State) : Prop where
  on : t.power.on = []
  dumping : t.power.dumping = false
  inputOn : t.power.inputOn = s.power.inputOn
  thermal : t.power.thermal = s.power.thermal
  nextCause : t.power.nextCause = s.power.nextCause
  refclk : t.power.refclk = s.power.refclk
  modRst : t.power.modRst = s.power.modRst
  fenceIn : t.power.fenceIn = s.power.fenceIn
  dumpBytes : t.power.dumpBytes = s.power.dumpBytes
  dumpUs : t.power.dumpUs = s.power.dumpUs
  media : t.media = s.media

theorem switchedOff_powerOff : SwitchedOff s (powerOff s) := by
  have hpower := power_selfTestEnd s 2 0 0
  have hmedia := media_selfTestEnd s 2 0 0
  unfold powerOff clearModule clearSupervisor
  generalize selfTestEnd s 2 0 0 = u at hpower hmedia ⊢
  have hread {α : Type} (f : Power → α) : f u.power = f s.power := congrArg f hpower
  exact ⟨rfl, rfl, hread (·.inputOn), hread (·.thermal), hread (·.nextCause), hread (·.refclk), hread (·.modRst), hread (·.fenceIn),
    hread (·.dumpBytes), hread (·.dumpUs), hmedia⟩

end Off

/-! ### What keeps a domain off (R396) -/

/-- Taking a bit that is set away clears it. -/
theorem bitOf_sub_two_pow {v k : Nat} (h : bitOf v k = true) : bitOf (v - 2 ^ k) k = false := by
  have hodd : v / 2 ^ k % 2 = 1 := by simpa [bitOf] using h
  have hdiv : (v - 2 ^ k) / 2 ^ k = v / 2 ^ k - 1 := by simpa using Nat.sub_mul_div v (2 ^ k) 1
  unfold bitOf
  rw [hdiv, beq_eq_false_iff_ne]
  omega

section KeepOff
variable (s : State)

/-- The bit of a domain's entry is cleared, and saved. -/
def bitDropped (i sub k : Nat) : State :=
  if bitOf (dget s i sub) k then persist s i sub (dget s i sub - 2 ^ k) else s

theorem bitOf_bitDropped {i sub : Nat} (k : Nat) (hk : dk i sub ≠ dk 0x1200 6) : bitOf (dget (bitDropped s i sub k) i sub) k = false := by
  unfold bitDropped
  split
  case isTrue h => rw [dget_persist_same _ _ _ _ hk, bitOf_sub_two_pow h]
  case isFalse h => simpa using h

theorem bitDropped_frame (i sub k : Nat) : ∃ d lb, bitDropped s i sub k = { s with dict := d, logbook := lb } := by
  unfold bitDropped
  split
  · exact persist_frame s i sub _
  · exact ⟨s.dict, s.logbook, rfl⟩

theorem keepOff_eq (dom : Nat) : keepOff s dom = if dom = 2 then persist s 0x2104 1 0
    else if dom ≤ 10 then bitDropped s 0x2300 4 (dom - 3) else bitDropped s 0x2300 3 (dom - 11) := by
  unfold keepOff bitDropped
  rfl

theorem keepOff_frame (dom : Nat) : ∃ d lb, keepOff s dom = { s with dict := d, logbook := lb } := by
  rw [keepOff_eq]
  split
  · exact persist_frame s _ _ _
  · split
    · exact bitDropped_frame s _ _ _
    · exact bitDropped_frame s _ _ _

theorem dget_noteCause (mask i k : Nat) : dget (noteCause s mask) i k = dget s i k := by
  unfold noteCause
  split <;> rfl

/-- A rail fault of a domain that is not always on: its cause is noted, and it is kept off. -/
def railKeptOff (dom : Nat) : State := noteCause (keepOff s dom) 16

theorem dget_railKeptOff_dredge : dget (railKeptOff s 2) 0x2104 1 = 0 := by
  rw [railKeptOff, dget_noteCause, keepOff_eq, if_pos rfl, dget_persist_same _ _ _ _ (by decide)]

theorem dget_railKeptOff_cluster {dom : Nat} (h3 : 3 ≤ dom) (h10 : dom ≤ 10) :
    bitOf (dget (railKeptOff s dom) 0x2300 4) (dom - 3) = false := by
  rw [railKeptOff, dget_noteCause, keepOff_eq, if_neg (by omega), if_pos h10, bitOf_bitDropped _ _ (by decide)]

theorem dget_railKeptOff_quay {dom : Nat} (h11 : 11 ≤ dom) : bitOf (dget (railKeptOff s dom) 0x2300 3) (dom - 11) = false := by
  rw [railKeptOff, dget_noteCause, keepOff_eq, if_neg (by omega), if_neg (by omega), bitOf_bitDropped _ _ (by decide)]

/-- It leaves the media, what waits for the host, and the power side but for the causes. -/
theorem railKeptOff_keeps (dom : Nat) : (railKeptOff s dom).media = s.media ∧ (railKeptOff s dom).host = s.host ∧
    (railKeptOff s dom).power.dumping = s.power.dumping ∧ (railKeptOff s dom).power.bootStep = s.power.bootStep ∧
    (railKeptOff s dom).power.collect = s.power.collect := by
  obtain ⟨d, lb, h⟩ := keepOff_frame s dom
  unfold railKeptOff
  rw [h]
  unfold noteCause
  split <;> exact ⟨rfl, rfl, rfl, rfl, rfl⟩

end KeepOff

/-! ### Rail faults -/

/-- A rail fault, reported and counted. -/
def railReported (s : State) (dom : Nat) : State :=
  let out := emergency (bump s 0x2000 0x0C 1) 0x0202 (0x2102 + dom) 0 (2 + dom)
  { out with power := { out.power with collect := true } }

section RailFault
variable {s : State} {dom : Nat}

theorem power_railReported (s : State) (dom : Nat) : (railReported s dom).power = { s.power with collect := true } := by
  unfold railReported
  dsimp only
  rw [power_emergency]
  rfl

theorem media_railReported (s : State) (dom : Nat) : (railReported s dom).media = s.media :=
  (media_emergency _ _ _ _ _).trans rfl

theorem dockets_railReported (s : State) (dom : Nat) : (railReported s dom).host = s.host := by
  obtain ⟨d, o, m, h⟩ := (onlyMessages_emergency (bump s 0x2000 0x0C 1) 0x0202 (0x2102 + dom) 0 (2 + dom)).frame
  unfold railReported
  dsimp only
  rw [h]
  rfl

/-- A domain that is always on takes the module down without a dump. -/
theorem railFault_alwaysOn (h : dom ∈ [0, 1, 18, 19]) : railFault s dom = powerOff (if (railReported s dom).power.bootStep < 5
    then copyHealth (railReported s dom) else stopMedia (copyHealth (railReported s dom)) (railReported s dom).media.programmedJsn) :=
  if_pos (by simpa using h)

/-- Any other begins a dump of a module in service. -/
theorem railFault_dumps (h : dom ∉ [0, 1, 18, 19]) (hd : s.power.dumping = false) (hs : 5 ≤ s.power.bootStep) :
    railFault s dom = beginDump (railKeptOff (railReported s dom) dom) := by
  have hpower := power_railReported s dom
  obtain ⟨-, -, hdumping, hstep, -⟩ := railKeptOff_keeps (railReported s dom) dom
  have hd' : (railKeptOff (railReported s dom) dom).power.dumping = false := by rw [hdumping, hpower]; exact hd
  have hs' : 5 ≤ (railKeptOff (railReported s dom) dom).power.bootStep := by rw [hstep, hpower]; exact hs
  have hcourse : railFault s dom = if (railKeptOff (railReported s dom) dom).power.dumping then railKeptOff (railReported s dom) dom
      else if (losePower (railKeptOff (railReported s dom) dom)).power.dumping then losePower (railKeptOff (railReported s dom) dom)
      else { losePower (railKeptOff (railReported s dom) dom) with
        power := { (losePower (railKeptOff (railReported s dom) dom)).power with powerRestart := true } } :=
    if_neg (by simpa using h)
  rw [hcourse, if_neg (by simp [hd']), losePower_service hs', if_pos (dumping_beginDump _).dumping]

end RailFault

/-! ### Thermal shutdown (R498) -/

/-- A sensor's reading leaves the power side, the media and what waits for the host. -/
theorem settleTemp_keeps (s : State) : (settleTemp s).power = s.power ∧ (settleTemp s).media = s.media ∧
    (settleTemp s).host.dockets = s.host.dockets := by
  have hnoted : ∃ d lb, tempsNoted s = { s with dict := d, logbook := lb } := by
    unfold tempsNoted
    dsimp only
    split
    · exact persist_frame _ _ _ _
    · exact ⟨_, s.logbook, rfl⟩
  obtain ⟨d, lb, hframe⟩ := hnoted
  rw [settleTemp_eq]
  refine ⟨(power_of_still (still_setWarn _ _ _)).trans (by rw [hframe]), (media_setWarn _ _ _).trans (by rw [hframe]), ?_⟩
  exact (congrArg BootView.dockets (bootView_setWarn (tempsNoted s) 1 _)).trans (by rw [hframe]; rfl)

/-- A die at its limit: its reading is taken and the shutdown counted. -/
def thermalNoted (s : State) (sensor : Nat) (reading : Int) : State :=
  let hot := settleTemp (dset s 0x3100 sensor (unsigned32 reading))
  bump { hot with power := { hot.power with thermal := true } } 0x3100 0x21 1

theorem thermalNoted_keeps (s : State) (sensor : Nat) (reading : Int) :
    (thermalNoted s sensor reading).power = { s.power with thermal := true } ∧ (thermalNoted s sensor reading).media = s.media ∧
    (thermalNoted s sensor reading).host.dockets = s.host.dockets := by
  obtain ⟨hpower, hmedia, hdockets⟩ := settleTemp_keeps (dset s 0x3100 sensor (unsigned32 reading))
  unfold thermalNoted
  generalize settleTemp (dset s 0x3100 sensor (unsigned32 reading)) = u at *
  exact ⟨congrArg (fun p : Power => { p with thermal := true }) hpower, hmedia, hdockets⟩

theorem dget_thermalNoted (s : State) {sensor : Nat} (h : sensor ≤ 0x15) (reading : Int) :
    dget (thermalNoted s sensor reading) 0x3100 sensor = unsigned32 reading := by
  unfold thermalNoted
  dsimp only
  rw [dget_bump_other _ _ _ _ _ _ (dk_ne _ _ _ _ (by omega) (by omega) (.inr (by omega)))]
  refine Eq.trans ?_ ((dget_settleTemp (dset s 0x3100 sensor (unsigned32 reading)) sensor (by omega)).trans (dget_dset_same _ _ _ _))
  rfl

/-! ### The end of the dump -/

/-- The media at the end of a dump. -/
def dumpEnded (s : State) (bytes us : Nat) : State :=
  let d := stopDumped s s.power.healthy
  { d with power := { d.power with dumpBytes := bytes, dumpUs := us } }

theorem dumpEnded_keeps (s : State) (bytes us : Nat) : (dumpEnded s bytes us).power = { s.power with dumpBytes := bytes, dumpUs := us } ∧
    (dumpEnded s bytes us).media.programmedJsn = (dumpEnded s bytes us).media.jsn := by
  have hpower := power_of_still (still_stopDumped s s.power.healthy)
  have hprogrammed : (stopDumped s s.power.healthy).media.programmedJsn = (stopDumped s s.power.healthy).media.jsn :=
    programmed_stopMedia _ _
  unfold dumpEnded
  generalize stopDumped s s.power.healthy = u at *
  exact ⟨congrArg (fun p : Power => { p with dumpBytes := bytes, dumpUs := us }) hpower, hprogrammed⟩

section After
variable {s : State} {b : BootIn}

theorem afterDump_lost (h : s.power.inputOn = false) :
    afterDump s b = { powerOff s with power := { (powerOff s).power with powerRestart := true } } :=
  if_pos (by simp [(switchedOff_powerOff s).inputOn, h])

theorem afterDump_hot (h : s.power.inputOn = true) (ht : s.power.thermal = true) (hc : bitOf s.power.nextCause 1 = false) :
    afterDump s b = powerOff s := by
  have hoff := switchedOff_powerOff s
  exact (if_neg (by simp [hoff.inputOn, h])).trans (if_pos (by simp [hoff.thermal, ht, hoff.nextCause, hc]))

/-- With the input still there the module starts again. -/
theorem afterDump_starts (h : s.power.inputOn = true) (ht : s.power.thermal = false) (hm : s.power.modRst = false)
    (hf : s.power.fenceIn = false) (hc : s.power.refclk = true) (hr : b.rails = true) : 4 ≤ (afterDump s b).power.bootStep := by
  have hoff := switchedOff_powerOff s
  have hstarts : afterDump s b = bootFromOne (if (powerOff s).power.nextCause % 8 / 2 = 0 then powerOff s else bump (powerOff s) 0x3010 7 1) b 0 :=
    (if_neg (by simp [hoff.inputOn, h])).trans (if_neg (by simp [hoff.thermal, ht]))
  rw [hstarts]
  split
  · exact (bootFromOne_runs (hoff.modRst.trans hm) (hoff.fenceIn.trans hf) (hoff.refclk.trans hc) hr).1
  · exact (bootFromOne_runs (s := bump (powerOff s) 0x3010 7 1) (hoff.modRst.trans hm) (hoff.fenceIn.trans hf) (hoff.refclk.trans hc) hr).1

end After

/-- Settles O53: what begins a dump, what turns the module off, and what follows a dump. -/
theorem powerLossDumpsAndStops : Obligations.PowerLossDumpsAndStops := by
  unfold Obligations.PowerLossDumpsAndStops
  intro s b bytes us dom sensor reading p dumps
  have hdumps {t : State} (h : Dumping s t) : dumps t := ⟨h.dumping, h.alive, h.cores, h.domains, h.dockets, h.media⟩
  have hoff (u : State) := switchedOff_powerOff (copyHealth u)
  refine ⟨fun hon hd => ⟨?input, ?hot, fun hs hcool => ?cool, ?rail⟩, fun hd => ⟨fun hin => ?lost, fun hin ht hc => ?thermal,
    fun hin ht hm hf hc hr => ?starts, ?ends⟩⟩
  case input =>
    intro hin hmeasuring u
    have hloss : exec .inputLoss s = .next (losePower u) := by
      show execInputLoss s = _
      rw [execInputLoss, when_of (by simp [show s.power.inputOn = true from hin, show s.power.measuring = none from hmeasuring]),
        if_neg (by simpa using hon)]
      exact congrArg _ (if_neg (by simpa using hd))
    refine ⟨dget_bump_same _ _ _ _, fun hs => ⟨hloss.trans (congrArg _ (losePower_service hs)), hdumps ((dumping_beginDump u).of_same
        (show u.host.dockets = s.host.dockets from rfl) (show u.media = s.media from rfl))⟩,
      fun hs => ⟨hloss.trans (congrArg _ (losePower_boot hs)), (hoff u).on, (hoff u).inputOn.trans (congrArg Power.inputOn (power_copyHealth u))⟩⟩
  case hot =>
    intro hs hreading hot u
    have hu : u = thermalNoted s sensor reading := rfl
    obtain ⟨hpower, hmedia, hdockets⟩ := thermalNoted_keeps s sensor reading
    have hsensor : sensor ≤ 0x15 := by
      simp only [dieSensor, Bool.and_eq_true, decide_eq_true_eq] at hs
      exact hs.2
    have hstep : u.power.bootStep = p.bootStep := by rw [hu, hpower]
    have hshut : exec (.thermalShutdown sensor reading) s = .next (losePower u) := by
      show execThermalShutdown sensor reading s = _
      rw [execThermalShutdown, when_of (by simp [hs, hreading, show s.power.on ≠ [] from hon, show s.power.dumping = false from hd])]
    refine ⟨by rw [hu, hpower], dget_thermalNoted s hsensor reading, fun h5 => ⟨hshut.trans (congrArg _ (losePower_service (by omega))),
      hdumps ((dumping_beginDump u).of_same hdockets hmedia)⟩, fun h5 => ⟨hshut.trans (congrArg _ (losePower_boot (by omega))), (hoff u).on⟩⟩
  case cool =>
    show execThermalShutdown sensor reading s = _
    rw [execThermalShutdown, when_unless (by simp [show ¬ (1150 : Int) ≤ reading by omega])]
  case rail =>
    intro hdom hlt out u k
    have hu : u = railReported s dom := rfl
    have hpower := power_railReported s dom
    have hmedia := media_railReported s dom
    have hfault : exec (.railFault dom) s = .next (railFault s dom) := by
      show execRailFault dom s = _
      rw [execRailFault, when_of (by simp [hdom, hlt])]
    refine ⟨fun hin h5 => ?_, fun hin h5 => ?_, fun v => ⟨(switchedOff_powerOff v).on, (switchedOff_powerOff v).dumping⟩, fun hout h5 => ?_⟩
    · rw [hfault, railFault_alwaysOn hin, ← hu, if_neg (by rw [hu, hpower]; exact Nat.not_lt.2 h5), hu, hmedia]
    · rw [hfault, railFault_alwaysOn hin, ← hu, if_pos (by rw [hu, hpower]; exact h5)]
    · have hk : k = railKeptOff (railReported s dom) dom := rfl
      obtain ⟨hkmedia, hkhost, -, -, hkcollect⟩ := railKeptOff_keeps (railReported s dom) dom
      refine ⟨hfault.trans (congrArg _ (railFault_dumps hout hd h5)), hdumps ((dumping_beginDump k).of_same ?_ (hkmedia.trans hmedia)),
        hkcollect.trans (by rw [hpower]), fun h2 => ?_, fun h3 h10 => dget_railKeptOff_cluster _ h3 h10, fun h11 => dget_railKeptOff_quay _ h11⟩
      · rw [hkhost, dockets_railReported]
      · rw [hk, h2]
        exact dget_railKeptOff_dredge _
  all_goals
    obtain ⟨hpower, hprogrammed⟩ := dumpEnded_keeps s bytes us
    have hends : exec (.dumpComplete bytes us b) s = .next (afterDump (dumpEnded s bytes us) b) := by
      show execDumpComplete bytes us b s = _
      rw [execDumpComplete, when_of hd]
      rfl
    have hread {α : Type} (f : Power → α) : f (dumpEnded s bytes us).power = f _ := congrArg f hpower
    have hafter := switchedOff_powerOff (dumpEnded s bytes us)
  case lost =>
    refine ⟨_, hends, ?_⟩
    rw [afterDump_lost ((hread (·.inputOn)).trans hin)]
    exact ⟨hafter.on, hafter.dumping, rfl, hafter.dumpBytes.trans (hread (·.dumpBytes)), hafter.dumpUs.trans (hread (·.dumpUs)),
      by rw [show ({ powerOff (dumpEnded s bytes us) with power := _ } : State).media = _ from hafter.media]; exact hprogrammed⟩
  case thermal =>
    refine ⟨_, hends, ?_⟩
    rw [afterDump_hot ((hread (·.inputOn)).trans hin) ((hread (·.thermal)).trans ht) ((congrArg (bitOf · 1) (hread (·.nextCause))).trans hc)]
    exact ⟨hafter.on, hafter.dumping, hafter.thermal.trans ((hread (·.thermal)).trans ht)⟩
  case starts =>
    exact ⟨_, hends, afterDump_starts ((hread (·.inputOn)).trans hin) ((hread (·.thermal)).trans ht) ((hread (·.modRst)).trans hm)
      ((hread (·.fenceIn)).trans hf) ((hread (·.refclk)).trans hc) hr⟩
  case ends => exact hends

end Sys2Proof.Machine
end

section
/-!
SUPPORT. Controllers enabled, shut down and reset, the virtual functions of a port, and the moves of
flexible resources (R40 to R45, R69, R112, R431).
-/
namespace Sys2Proof.Machine

/-! ### Functions -/

section Functions
variable {s : State} {fn g p : Nat}

theorem getFn_modFn_other (f : Fn → Fn) (h : g ≠ fn) : getFn (modFn s fn f) g = getFn s g :=
  getFn_setFn_other s fn g _ h

theorem getSq_modFn_put {f : Fn → Fn} {q : Sq} {n : Nat} (h : (f (getFn s fn)).sqs = tabPut (getFn s fn).sqs n q) :
    getSq (modFn s fn f) fn n = q := by
  rw [getSq, getFn_modFn, h, tabGet_put_same]

theorem getCq_modFn_put {f : Fn → Fn} {q : Cq} {n : Nat} (h : (f (getFn s fn)).cqs = tabPut (getFn s fn).cqs n q) :
    getCq (modFn s fn f) fn n = q := by
  rw [getCq, getFn_modFn, h, tabGet_put_same]

/-- A function whose controller is not as at reset is listed. -/
theorem mem_fnList_of_shst (h : (getFn s fn).shst ≠ 0) : fn ∈ fnList s :=
  Decidable.byContradiction fun hn => h (by rw [getFn, tabGet_of_notMem_keys _ hn]; rfl)

end Functions

/-! ### Shutdown with nothing to wait for (R112) -/

/-- One function of a shutdown's settling, with no command in flight. -/
def shutOne (s : State) (fn : Nat) : State :=
  if (getFn s fn).shst = 1 ∧ !(s.host.dockets.any (fun w => shutdownWaits s fn w.2)) then
    let s := if fn = 0 then checkpoint s true else s
    modFn s fn (fun f => { f with shst := 2 })
  else s

theorem settleShutdown_eq (s : State) : settleShutdown s = (fnList s).foldl shutOne s := rfl

section Shutdown
variable {s u : State} {fn g : Nat}

theorem shutOne_other (h : (getFn u g).shst ≠ 1) : shutOne u g = u := if_neg fun hc => h hc.1

theorem shutOne_due (hf : g ≠ 0) (hd : u.host.dockets = []) (h : (getFn u g).shst = 1) :
    shutOne u g = modFn u g (fun f => { f with shst := 2 }) := by
  rw [shutOne, if_pos ⟨h, by rw [hd]; rfl⟩, if_neg hf]

/-- `u` is `s` with the function `fn` shutting down or shut down, and no other. -/
structure ShutsOnly (s : State) (fn : Nat) (u : State) : Prop where
  own   : (getFn u fn).shst = 1 ∨ (getFn u fn).shst = 2
  other : ∀ g, g ≠ fn → getFn u g = getFn s g
  rest  : { u with host := { u.host with fns := s.host.fns } } = s

theorem ShutsOnly.dockets (h : ShutsOnly s fn u) : u.host.dockets = s.host.dockets := congrArg (·.host.dockets) h.rest

theorem shutsOnly_modFn {n : Nat} (hn : n = 1 ∨ n = 2) (h : ∀ g, g ≠ fn → getFn u g = getFn s g)
    (hr : { u with host := { u.host with fns := s.host.fns } } = s) :
    ShutsOnly s fn (modFn u fn (fun f => { f with shst := n })) where
  own := by simpa using hn
  other g hg := (getFn_modFn_other _ hg).trans (h g hg)
  rest := hr

/-- A settled function is shut down when it is the one, and left alone when it is another. -/
theorem shutsOnly_shutOne (hf : fn ≠ 0) (hd : s.host.dockets = []) (ho : ∀ g, g ≠ fn → (getFn s g).shst ≠ 1)
    (h : ShutsOnly s fn u) (g : Nat) : ShutsOnly s fn (shutOne u g) ∧ (g = fn ∨ (getFn u fn).shst = 2 →
      (getFn (shutOne u g) fn).shst = 2) := by
  by_cases hg : g = fn
  · subst hg
    rcases h.own with h1 | h2
    · rw [shutOne_due hf (h.dockets.trans hd) h1]
      exact ⟨shutsOnly_modFn (.inr rfl) h.other h.rest, fun _ => by simp⟩
    · rw [shutOne_other (by omega)]
      exact ⟨h, fun _ => h2⟩
  · rw [shutOne_other (by rw [h.other g hg]; exact ho g hg)]
    exact ⟨h, fun hc => hc.resolve_left hg⟩

theorem shutsOnly_foldl (hf : fn ≠ 0) (hd : s.host.dockets = []) (ho : ∀ g, g ≠ fn → (getFn s g).shst ≠ 1) (l : List Nat)
    (h : ShutsOnly s fn u) : ShutsOnly s fn (l.foldl shutOne u) ∧ (fn ∈ l ∨ (getFn u fn).shst = 2 →
      (getFn (l.foldl shutOne u) fn).shst = 2) := by
  induction l generalizing u with
  | nil => exact ⟨h, fun hc => hc.resolve_left (by simp)⟩
  | cons g l ih =>
    obtain ⟨h1, h2⟩ := shutsOnly_shutOne hf hd ho h g
    obtain ⟨h3, h4⟩ := ih h1
    refine ⟨h3, fun hc => h4 ?_⟩
    rcases hc with hm | hs
    · rcases List.mem_cons.mp hm with he | hl
      · exact .inr (h2 (.inl he.symm))
      · exact .inl hl
    · exact .inr (h2 (.inr hs))

/-- R112: the shutdown of a secondary controller with no command in flight completes at once. -/
theorem completes_controllerShutdown (hr : (getFn s fn).rdy = true) (h0 : (getFn s fn).shst = 0) (hf : fn ≠ 0)
    (hd : s.host.dockets = []) (ho : ∀ g, g ≠ fn → (getFn s g).shst ≠ 1) : completes (.controllerShutdown fn) s (fun t =>
      (getFn t fn).shst = 2 ∧ (∀ g, g ≠ fn → getFn t g = getFn s g) ∧
      { t with host := { t.host with fns := s.host.fns } } = s) := by
  have hu : ShutsOnly s fn (modFn s fn (fun f => { f with shst := 1 })) := shutsOnly_modFn (.inl rfl) (fun _ _ => rfl) rfl
  refine ⟨settleShutdown (modFn s fn (fun f => { f with shst := 1 })), ?_, ?_⟩
  · show execControllerShutdown fn s = _
    rw [execControllerShutdown, when_of (by simp [hr, h0])]
  · rw [settleShutdown_eq]
    obtain ⟨⟨_, hoth, hrest⟩, h2⟩ := shutsOnly_foldl hf hd ho (fnList (modFn s fn (fun f => { f with shst := 1 }))) hu
    exact ⟨h2 (.inl (mem_fnList_of_shst (by simp))), hoth, hrest⟩

end Shutdown

/-! ### Controllers and ports (R40, R69, R431) -/

section Controllers
variable {s : State} {fn g p : Nat}

/-- A function whose controller the host enabled, with the admin queues of log entry 32. -/
def enabledFn (f : Fn) : Fn := { f with
  en := true, rdy := true, adminSq := 4096, adminCq := 4096
  sqs := tabPut f.sqs 0 { Sq.empty with live := true, size := 4096 }
  cqs := tabPut f.cqs 0 { Cq.empty with live := true, size := 4096, ien := true } }

theorem exec_controllerEnable (h : canEnable s fn = true) :
    exec (.controllerEnable fn) s = .next (modFn s fn enabledFn) := congrArg Host.Outcome.next (when_of h _ _)

/-- R431: an enabled controller is ready with its admin queues. -/
theorem completes_controllerEnable (h : canEnable s fn = true) : completes (.controllerEnable fn) s (fun t =>
    (getFn t fn).en = true ∧ (getFn t fn).rdy = true ∧ (getSq t fn 0).live = true ∧
    (getCq t fn 0).live = true ∧ (getSq t fn 0).size = 4096 ∧ (getCq t fn 0).size = 4096 ∧
    (∀ g, g ≠ fn → getFn t g = getFn s g) ∧ { t with host := { t.host with fns := s.host.fns } } = s) := by
  refine ⟨_, exec_controllerEnable h, ?_⟩
  dsimp only
  rw [getFn_modFn, getSq_modFn_put (f := enabledFn) rfl, getCq_modFn_put (f := enabledFn) rfl]
  exact ⟨rfl, rfl, rfl, rfl, rfl, rfl, fun g hg => getFn_modFn_other _ hg, rfl⟩

theorem exec_controllerReset (h : (getFn s fn).en = true) :
    exec (.controllerReset fn) s = .next (settleAll (resetFn s fn false)) := congrArg Host.Outcome.next (when_of h _ _)

theorem exec_functionLevelReset (hp : (getFn s fn).present = true) (hb : 4 ≤ s.power.bootStep) :
    exec (.functionLevelReset fn) s = .next (settleAll (resetFn s fn true)) :=
  congrArg Host.Outcome.next (when_of (by simp [hp, hb]) _ _)

theorem exec_perstNAssert (hp : p < 4) (h : s.host.perst.contains p = false) :
    exec (.perstNAssert p) s = .next (settleAll (perstAssert s p)) :=
  congrArg Host.Outcome.next (when_of (by rw [h, decide_eq_true hp]; rfl) _ _)

theorem contains_filter_ne (l : List Nat) (p : Nat) : (l.filter (· != p)).contains p = false := by
  simp

/-- A port out of reset trains where boot step 4 has ended and its reference runs. -/
theorem linkUp_settlePort (hb : 4 ≤ s.power.bootStep) (hr : s.power.portRef[p]? = some true)
    (h : s.host.perst.contains p = false) (hl : p < s.power.linkUp.length) :
    (settlePort s p).power.linkUp[p]? = some true := by
  simp only [settlePort, decide_eq_true hb, h, hr, listMod_getElem?, List.getElem?_eq_getElem hl]
  rfl

theorem completes_perstNDeassert (hp : p < 4) (h : s.host.perst.contains p = true) (hb : 4 ≤ s.power.bootStep)
    (hr : s.power.portRef[p]? = some true) : completes (.perstNDeassert p) s (fun t =>
      t.host.perst.contains p = false ∧ (p < s.power.linkUp.length → t.power.linkUp[p]? = some true) ∧
      { t with host := s.host, power := { t.power with linkUp := s.power.linkUp } } = s) :=
  ⟨_, congrArg Host.Outcome.next (when_of (by rw [h, decide_eq_true hp]; rfl) _ _), contains_filter_ne _ p,
    fun hl => linkUp_settlePort (s := { s with host := { s.host with perst := s.host.perst.filter (· != p) } }) hb hr
      (contains_filter_ne _ p) hl, rfl⟩

/-! ### SR-IOV (R40) -/

/-- The virtual functions bound to a port. -/
def vfsOf (s : State) (p : Nat) : List Nat := ((List.range 1024).map (· + 1)).filter (fun fn => portOf s fn == p)

def appear (s : State) (fn : Nat) : State := modFn s fn (fun f => { f with present := true })

/-- The state with the virtual functions of a port enabled. -/
def vfsOn (s : State) (p : Nat) (l : List Nat) : State :=
  let u := l.foldl appear s
  { u with host := { u.host with vfEnabled := tabPut u.host.vfEnabled p l } }

theorem exec_sriovVfEnable (hp : p < 4) (hl : s.power.linkUp[p]? = some true) (hr : s.power.recovery = false)
    (hv : tabFind s.host.vfEnabled p = none) : exec (.sriovVfEnable p) s = .next (vfsOn s p (vfsOf s p)) := by
  show execSriovVfEnable p s = _
  rw [execSriovVfEnable, when_of (by rw [hl, hr, hv, decide_eq_true hp]; rfl), vfsOf]
  generalize List.filter _ _ = l
  rfl

theorem mem_vfsOf : g ∈ vfsOf s p ↔ (1 ≤ g ∧ g ≤ 1024) ∧ portOf s g = p := by
  rw [vfsOf, List.mem_filter, List.mem_map, beq_iff_eq]
  refine and_congr_left fun _ => ⟨fun ⟨i, hi, he⟩ => ?_, fun h => ⟨g - 1, List.mem_range.mpr (by omega), by omega⟩⟩
  have := List.mem_range.mp hi
  omega

theorem present_foldl_appear (l : List Nat) (s : State) :
    (getFn (l.foldl appear s) g).present = ((getFn s g).present || decide (g ∈ l)) := by
  induction l generalizing s with
  | nil => simp
  | cons fn l ih =>
    rw [List.foldl_cons, ih]
    by_cases h : g = fn
    · subst h
      simp [appear]
    · rw [appear, getFn_modFn_other _ h]
      simp [h]

theorem vfsOn_none (h : ∀ g, 1 ≤ g → g ≤ 1024 → portOf s g ≠ p) :
    vfsOn s p (vfsOf s p) = { s with host := { s.host with vfEnabled := tabPut s.host.vfEnabled p [] } } := by
  have hn : vfsOf s p = [] := List.eq_nil_iff_forall_not_mem.mpr fun g hg => by
    obtain ⟨⟨h1, h2⟩, h3⟩ := mem_vfsOf.mp hg
    exact h g h1 h2 h3
  rw [hn]
  rfl

theorem present_vfsOn (l : List Nat) : (getFn (vfsOn s p l) g).present = ((getFn s g).present || decide (g ∈ l)) :=
  present_foldl_appear l s

theorem present_vfsOn_vfsOf (h1 : 1 ≤ g) (h2 : g ≤ 1024) :
    (getFn (vfsOn s p (vfsOf s p)) g).present = ((getFn s g).present || portOf s g == p) := by
  rw [present_vfsOn, Bool.eq_iff_iff, Bool.or_eq_true, decide_eq_true_iff, mem_vfsOf, Bool.or_eq_true, beq_iff_eq,
    and_iff_right (And.intro h1 h2)]

end Controllers

/-! ### Flexible resources (R42 to R45) -/

section Resources
variable {s : State} {a : Adm} {c n : Nat} {vi : Bool}

section Open
variable (ho : adminOpen s a.fn = true) (hr : s.power.recovery = false) (hf : a.fn = 0)
include ho hr hf

theorem exec_primaryFlexibleAllocation : exec (.primaryFlexibleAllocation a vi n) s = .next
    (if 16384 < poolHeld s vi 0 + n then adminFail s a .invalidControllerResources
      else adminDone (modFn s 0 (fun f => if vi then { f with viNext := n } else { f with vqNext := n })) a .success n .none) :=
  adminPf_open ho hr hf _

theorem exec_secondaryOffline (h : secondaryId c = true) : exec (.secondaryOffline a c) s = .next
    (adminOk (modFn (resetFn s c false) c (fun f =>
      { f with online := false, vqNext := f.vqNext + f.vq, viNext := f.viNext + f.vi, vq := 0, vi := 0 })) a) := by
  show execSecondaryOffline a c s = _
  rw [execSecondaryOffline, adminPf_open ho hr hf, h]
  rfl

theorem exec_secondaryAssign (h : secondaryId c = true) : exec (.secondaryAssign a c vi n) s = .next
    (if (getFn s c).online then adminFail s a .invalidSecondaryState
      else if 128 < n ∨ 16384 < poolHeld s vi c + n then adminFail s a .invalidControllerResources
      else adminDone (modFn s c (fun f => if vi then { f with vi := n } else { f with vq := n })) a .success n .none) := by
  show execSecondaryAssign a c vi n s = _
  rw [execSecondaryAssign, adminPf_open ho hr hf, h]
  rfl

theorem exec_secondaryOnline (h : secondaryId c = true) : exec (.secondaryOnline a c) s = .next
    (if (getFn s c).vq = 0 ∨ (getFn s c).vi = 0 then adminFail s a .invalidControllerResources
      else adminOk (modFn s c (fun f => { f with online := true })) a) := by
  show execSecondaryOnline a c s = _
  rw [execSecondaryOnline, adminPf_open ho hr hf, h]
  rfl

theorem exec_secondaryOnline_unknown (h : secondaryId c = false) :
    exec (.secondaryOnline a c) s = .next (adminFail s a .invalidControllerIdentifier) := by
  show execSecondaryOnline a c s = _
  rw [execSecondaryOnline, adminPf_open ho hr hf, h]
  rfl

end Open

theorem exec_secondaryResourcesReturn (h : secondaryId c = true) (hd : discardedLeft s c = false) :
    exec (.secondaryResourcesReturn c) s = .next (modFn s c (fun f => { f with vqNext := 0, viNext := 0 })) :=
  congrArg Host.Outcome.next (when_of (by rw [h, hd]; rfl) _ _)

theorem secondaryId_of (h1 : 1 ≤ c) (h2 : c ≤ 1024) : secondaryId c = true := by simp [secondaryId, h1, h2]

theorem secondaryId_outside (h : c = 0 ∨ 1024 < c) : secondaryId c = false := by
  simp only [secondaryId, Bool.and_eq_false_iff, decide_eq_false_iff_not]
  omega

end Resources

/-- Settles O16, clause by clause: the controller's fields after each command, the shutdown's fold over
the functions (`shutsOnly_foldl`), and the order of the checks of Virtualization Management. -/
theorem controllersStartAndReset : Obligations.ControllersStartAndReset := by
  unfold Obligations.ControllersStartAndReset
  refine ⟨fun s fn p => ⟨completes_controllerEnable, exec_controllerReset, exec_functionLevelReset,
      completes_controllerShutdown, fun hp h => ⟨_, exec_perstNAssert hp h, rfl⟩, completes_perstNDeassert,
      fun hp hl hr hv hn => ⟨_, exec_sriovVfEnable hp hl hr hv, ?_⟩,
      fun hp hl hr hv g h1 h2 => ⟨_, exec_sriovVfEnable hp hl hr hv, present_vfsOn_vfsOf h1 h2⟩⟩,
    fun s fn flr => ?_, fun s a c n vi => ⟨fun ho hr hf => ⟨fun hn => ?_, fun hn => ?_, fun h1 h2 => ?_, fun hc =>
      exec_secondaryOnline_unknown ho hr hf (secondaryId_outside hc)⟩,
      fun h1 h2 hd => exec_secondaryResourcesReturn (secondaryId_of h1 h2) hd⟩⟩
  · rw [vfsOn_none hn]
    exact ⟨tabFind_put_same _ _ _, rfl⟩
  · simp only [resetController, getFn_modFn, true_and]
    exact fun g hg => getFn_modFn_other _ hg
  · rw [exec_primaryFlexibleAllocation ho hr hf, if_neg (by omega)]
  · dsimp only
    rw [exec_primaryFlexibleAllocation ho hr hf, if_pos hn]
  · have hid := secondaryId_of h1 h2
    refine ⟨⟨_, exec_secondaryOffline ho hr hf hid, rfl⟩, fun hoff hn hpool => ?_, fun hoff hn => ?_, fun hon => ?_,
      fun hq hv => ?_, fun hz => ?_⟩
    · rw [exec_secondaryAssign ho hr hf hid, hoff, if_neg Bool.false_ne_true, if_neg (by omega)]
    · dsimp only
      rw [exec_secondaryAssign ho hr hf hid, hoff, if_neg Bool.false_ne_true, if_pos (.inl hn)]
    · dsimp only
      rw [exec_secondaryAssign ho hr hf hid, if_pos hon]
    · rw [exec_secondaryOnline ho hr hf hid, if_neg (not_or.mpr ⟨hq, hv⟩)]
    · dsimp only
      rw [exec_secondaryOnline ho hr hf hid, if_pos hz]

end Sys2Proof.Machine
end

section
/-!
SUPPORT. The entries of the dictionary that a host or a maintainer sets, which engines, threads and cores
that change hands leave as they are: those only count (R448, R320).
-/
namespace Sys2Proof.Machine

/-! ### The view -/

/-- The key of an entry that counts what the harbour does: tokens, berths, cores and faults. -/
def counted (k : Nat) : Bool := k / 256 == 0x7010 || k / 256 == 0x7020 || k % 256 == 0x0B

def settable (e : Nat × Nat) : Bool := !counted e.1

/-- The entries but for those, and the choice of the shipped values. -/
structure Settings where
  generic : Bool
  entries : Tab Nat

def settings (s : State) : Settings := ⟨s.power.calGeneric, s.dict.filter settable⟩

@[simp] theorem settings_mk (pending : List Instr) (out : List Out) (nowMs uptime freeCount : Nat) (dict : Tab Nat)
    (faults : List FaultRec) (faultSeq : Nat) (pel : List PelEnt) (host : HostIf) (prog : Programs) (media : Media)
    (pool : Pool) (dram : Tab Byte) (hm : Harbour) (ik : Ikixa) (customs : Customs) (eng : Engines) (tally : Tally)
    (power : Power) (pair : Pair) (logbook : Logbook) (mgmt : Mgmt) (service : Service) :
    settings ⟨pending, out, nowMs, uptime, freeCount, dict, faults, faultSeq, pel, host, prog, media, pool, dram, hm,
      ik, customs, eng, tally, power, pair, logbook, mgmt, service⟩ = ⟨power.calGeneric, dict.filter settable⟩ := rfl

@[simp] theorem settings_eta (s : State) : (⟨s.power.calGeneric, s.dict.filter settable⟩ : Settings) = settings s := rfl

@[simp] theorem settings_ite (c : Prop) [Decidable c] (a b : State) :
    settings (if c then a else b) = if c then settings a else settings b := apply_ite settings c a b

@[simp] theorem settings_foldl {α : Type} {f : State → α → State} (h : ∀ s x, settings (f s x) = settings s)
    (l : List α) (s : State) : settings (l.foldl f s) = settings s := foldl_keeps settings h l s

/-- An entry that does not count reads the same where the settings are the same. -/
theorem dget_of_settings {s t : State} (h : settings t = settings s) {i sub : Nat} (hk : counted (dk i sub) = false) :
    dget t i sub = dget s i sub := by
  have hpasses (v : Nat) : settable (dk i sub, v) = true := by simp [settable, hk]
  have hgeneric : t.power.calGeneric = s.power.calGeneric := congrArg Settings.generic h
  have hentries : t.dict.filter settable = s.dict.filter settable := congrArg Settings.entries h
  have hfind : tabFind t.dict (dk i sub) = tabFind s.dict (dk i sub) := by
    rw [← tabFind_filter_passed hpasses t.dict, hentries, tabFind_filter_passed hpasses]
  simp only [dget, entryDefault, hfind, hgeneric]

section Settings
variable (s : State)

/-! ### Entries, logs and tables -/

theorem settings_dset {i sub v : Nat} (hk : counted (dk i sub) = true) : settings (dset s i sub v) = settings s := by
  have hdropped (w : Nat) : settable (dk i sub, w) = false := by simp [settable, hk]
  unfold dset
  split
  · exact congrArg (Settings.mk _) (filter_tabDrop_dropped hdropped _)
  · exact congrArg (Settings.mk _) (filter_tabPut_dropped hdropped _ _)

@[simp] theorem settings_bump_tokens (sub n : Nat) (hs : sub < 256) : settings (bump s 0x7020 sub n) = settings s :=
  settings_dset s (by unfold counted dk; rw [show (0x7020 * 256 + sub) / 256 = 0x7020 by omega]; rfl)
@[simp] theorem settings_bump_berths (sub n : Nat) (hs : sub < 256) : settings (bump s 0x7010 sub n) = settings s :=
  settings_dset s (by unfold counted dk; rw [show (0x7010 * 256 + sub) / 256 = 0x7010 by omega]; rfl)

@[simp] theorem settings_emit (o : Out) : settings (emit s o) = settings s := rfl
@[simp] theorem settings_logFault (space kind code : Nat) (th : Option Nat) (a : W64) (ch port : Nat) :
    settings (logFault s space kind code th a ch port) = settings s := by
  unfold logFault
  split
  · exact settings_dset _ (by unfold counted dk; rw [show ((0x6000 + space) * 256 + 0x0B) % 256 = 0x0B by omega]; simp)
  · rfl
@[simp] theorem settings_modDk (d : Nat) (g : Docket → Docket) : settings (modDk s d g) = settings s := rfl
@[simp] theorem settings_setThr (t : Nat) (x : Thread) : settings (setThr s t x) = settings s := rfl
@[simp] theorem settings_modThr (t : Nat) (g : Thread → Thread) : settings (modThr s t g) = settings s := rfl
@[simp] theorem settings_modCore (c : Nat) (g : Core → Core) : settings (modCore s c g) = settings s := rfl
@[simp] theorem settings_setLease (c : Nat) (l : CoreLease) : settings (setLease s c l) = settings s := rfl
@[simp] theorem settings_setChan (k : Nat) (c : Chan) : settings (setChan s k c) = settings s := by
  simp [setChan]
@[simp] theorem settings_setBerth (a : Nat) (b : Berth) : settings (setBerth s a b) = settings s := rfl
@[simp] theorem settings_setStack (far : Bool) (l : List Nat) : settings (setStack s far l) = settings s := by
  cases far <;> rfl
@[simp] theorem settings_setWaitQ (far : Bool) (l : List Waiter) : settings (setWaitQ s far l) = settings s := by
  cases far <;> rfl
@[simp] theorem settings_pushHeld (w : Waiter) : settings (pushHeld s w) = settings s := rfl
@[simp] theorem settings_dropHeld (w : Waiter) : settings (dropHeld s w) = settings s := rfl
@[simp] theorem settings_pushWait (far : Bool) (w : Waiter) : settings (pushWait s far w) = settings s :=
  settings_setWaitQ s far _
@[simp] theorem settings_pushReady (t : Nat) (p : Place) : settings (pushReady s t p) = settings s := rfl
@[simp] theorem settings_pushRing (e : RingEnt) : settings (pushRing s e) = settings s := rfl
@[simp] theorem settings_unready (t : Nat) : settings (unready s t) = settings s := rfl
@[simp] theorem settings_stampReady (t : Nat) : settings (stampReady s t) = settings s := rfl
@[simp] theorem settings_noteConsumers (l : List Nat) (t : Nat) : settings (noteConsumers s l t) = settings s := rfl
@[simp] theorem settings_zeroCore (c : Nat) : settings (zeroCore s c) = settings s := rfl
@[simp] theorem settings_setEng (cip : Bool) (e : Nat) (v : Engine) : settings (setEng s cip e v) = settings s := by
  cases cip <;> rfl
@[simp] theorem settings_setCommon (cip : Bool) (l : List EJob) : settings (setCommon s cip l) = settings s := by
  cases cip <;> rfl

/-! ### Berths, windows and leases -/

@[simp] theorem settings_noteLow (far : Bool) : settings (noteLow s far) = settings s := by simp [noteLow]
@[simp] theorem settings_poolStore (far : Bool) (a : Nat) : settings (poolStore s far a) = settings s := by
  simp only [poolStore, settings_ite, settings_setStack, settings_setBerth, ite_self]

theorem settings_poolTake {s u : State} {far : Bool} {tag a : Nat} (h : poolTake s far tag = some (a, u)) :
    settings u = settings s := by
  unfold poolTake at h
  dsimp only at h
  repeat' split at h
  all_goals cases h
  all_goals simp

@[simp] theorem settings_winWrite (t off : Nat) (b : List Byte) : settings (winWrite s t off b) = settings s := by
  simp [winWrite]
@[simp] theorem settings_deliver (t r : Nat) (w : W64) : settings (deliver s t r w) = settings s := by simp [deliver]
@[simp] theorem settings_saveGot (t a : Nat) : settings (saveGot s t a) = settings s := by simp [saveGot]
@[simp] theorem settings_saveAsk (t : Nat) : settings (saveAsk s t) = settings s := by
  unfold saveAsk
  dsimp only
  split
  · simp
  · split
    next h => rw [settings_saveGot, settings_poolTake h]
    next => simp
@[simp] theorem settings_saveAsks (t : Nat) : settings (saveAsks s t) = settings s := by simp [saveAsks]
@[simp] theorem settings_finishChange (c : Nat) (sp : Option Nat) : settings (finishChange s c sp) = settings s := by
  simp [finishChange]
@[simp] theorem settings_settleChange (c : Nat) : settings (settleChange s c) = settings s := by
  unfold settleChange
  dsimp only
  split <;> simp
@[simp] theorem settings_startChange (c : Nat) (sp : Option Nat) : settings (startChange s c sp) = settings s := by
  simp [startChange]

/-! ### Threads and tokens -/

@[simp] theorem settings_dispatch (c t : Nat) : settings (dispatch s c t) = settings s := by
  unfold dispatch
  dsimp only
  split <;> simp
@[simp] theorem settings_enterList (d t : Nat) (r : Bool) : settings (enterList s d t r) = settings s := by
  unfold enterList
  dsimp only
  split <;> simp
@[simp] theorem settings_place (t : Nat) : settings (place s t) = settings s := by simp [place, enterCluster]
@[simp] theorem settings_makeReady (t : Nat) : settings (makeReady s t) = settings s := by simp [makeReady]
@[simp] theorem settings_trimIdle (k port : Nat) : settings (trimIdle s k port) = settings s := by simp [trimIdle]
@[simp] theorem settings_consume (t port : Nat) : settings (consume s t port) = settings s := by simp [consume]
@[simp] theorem settings_matchChan (k port : Nat) : settings (matchChan s k port) = settings s := by simp [matchChan]
@[simp] theorem settings_postApply (port sp ch q : Nat) (m : Bool) :
    settings (postApply s port sp ch q m) = settings s := by simp [postApply, applyPost]
@[simp] theorem settings_postToken (port sp ch q : Nat) (m : Bool) :
    settings (postToken s port sp ch q m) = settings s := by
  unfold postToken
  split <;> simp
@[simp] theorem settings_chooseFor (c : Nat) : settings (chooseFor s c) = settings s := by
  unfold chooseFor
  repeat' split
  all_goals simp

/-! ### Requests and replies -/

@[simp] theorem settings_countCode {code : Nat} (h : code ≤ 7) : settings (countCode s code) = settings s := by
  unfold countCode
  split
  · rfl
  · exact settings_bump_berths _ _ _ (by omega)
@[simp] theorem settings_berthReply (who : Requester) (tag : Nat) (r : BerthReq) (w : W64) :
    settings (berthReply s who tag r w) = settings s := by simp [berthReply]
@[simp] theorem settings_allocGot (far : Bool) (a : Nat) (w : Waiter) :
    settings (allocGot s far a w) = settings s := by simp [allocGot]
@[simp] theorem settings_admitHeld (far : Bool) : settings (admitHeld s far) = settings s := by
  unfold admitHeld
  split <;> simp
@[simp] theorem settings_berthFreed (a : Nat) : settings (berthFreed s a) = settings s := by
  unfold berthFreed
  dsimp only
  repeat' split
  all_goals simp [grantBerth]
@[simp] theorem settings_dropClaim (a tag : Nat) : settings (dropClaim s a tag) = settings s := by
  unfold dropClaim
  dsimp only
  split <;> simp
@[simp] theorem settings_reclaimBerth (a : Nat) : settings (reclaimBerth s a) = settings s := by simp [reclaimBerth]
@[simp] theorem settings_allocAct (w : Waiter) : settings (allocAct s w) = settings s := by
  unfold allocAct
  dsimp only
  split
  · simp
  · split
    next h => rw [settings_allocGot, settings_poolTake h]
    next => simp
@[simp] theorem settings_berthResolve (w : Waiter) : settings (berthResolve s w) = settings s := by
  simp [berthResolve, shareAct, berthCheck_le]
@[simp] theorem settings_drainHeld (n : Nat) : settings (drainHeld n s) = settings s := by
  induction n generalizing s with
  | zero => rfl
  | succ n ih =>
    unfold drainHeld
    split
    · rw [ih, settings_berthResolve, settings_dropHeld]
    · rfl
@[simp] theorem settings_engReply (cip : Bool) (t r ch : Nat) (ws : List W64) :
    settings (engReply s cip t r ch ws) = settings s := by simp [engReply]
@[simp] theorem settings_lockReply (cip : Bool) (j : EJob) (code e : Nat) :
    settings (lockReply s cip j code e) = settings s := settings_engReply s cip _ _ _ _
@[simp] theorem settings_lockTake (cip : Bool) (e : Nat) (j : EJob) : settings (lockTake s cip e j) = settings s := by
  simp [lockTake]
@[simp] theorem settings_serveLock (cip : Bool) (e : Nat) : settings (serveLock s cip e) = settings s := by
  unfold serveLock
  dsimp only
  repeat' split
  all_goals simp

/-! ### What may go on after any change -/

@[simp] theorem settings_holdThread (t : Nat) : settings (holdThread s t) = settings s := by simp [holdThread]
@[simp] theorem settings_unholdThread (t : Nat) : settings (unholdThread s t) = settings s := by simp [unholdThread]
@[simp] theorem settings_settleHold (sp : Nat) : settings (settleHold s sp) = settings s := by simp [settleHold]
@[simp] theorem settings_settleTaking (c : Nat) : settings (settleTaking s c) = settings s := by simp [settleTaking]
@[simp] theorem settings_settleHarbour : settings (settleHarbour s) = settings s := by simp [settleHarbour, settleHolds]
theorem settings_kickIdle : settings (kickIdle s) = settings s := by simp [kickIdle]
theorem settings_markNewest (space n : Nat) : settings (markNewest space n s) = settings s := by
  induction n generalizing s with
  | zero => rfl
  | succ n ih =>
    unfold markNewest
    split
    · exact ih _
    · rfl
theorem settings_takeBack (space : Nat) : settings (takeBack s space) = settings s := by
  have hmark : settings (markTaking s space) = settings s :=
    (settings_markNewest _ _ _).trans (settings_foldl (fun u c => settings_setLease u c _) _ _)
  unfold takeBack
  exact (settings_foldl settings_settleTaking _ _).trans ((settings_settleHold _ _).trans hmark)

theorem settings_serveAll (cip : Bool) : settings (serveAll s cip) = settings s := by simp [serveAll]

end Settings

end Sys2Proof.Machine
end

section
/-!
SUPPORT. Writes of the dictionary: what passes the checks of Table 17.4, and what an entry then holds (R436 to R440,
R447, R448, R454).
-/
namespace Sys2Proof.Machine

/-! ### The rows of the dictionary -/

/-- A row that may be written is saved, but for the two entries that are commands. -/
def rowSound (r : DRow) : Bool :=
  decide (r.hi < 256) && (r.acc == .ro || r.acc == .const || (r.acc == .rw && r.pers) ||
    (r.idx == 0x2000 && r.lo == 8 && r.hi == 8) || (r.idx == 0x7010 && r.lo == 7 && r.hi == 7))

/-- Every row of Table 17.7 is of that kind. -/
theorem rowSound_of_mem {i : Nat} {r : DRow} (h : r ∈ dictRegion i) : rowSound r = true := by
  have h1 : dictRows1.all rowSound = true := by decide
  have h2 : dictRows2.all rowSound = true := by decide
  have h3 : dictRows3.all rowSound = true := by decide
  have h4 : dictRows4.all rowSound = true := by decide
  have h5 : dictRows5.all rowSound = true := by decide
  have h6 : dictRows6.all rowSound = true := by decide
  have h7 : dictRows7.all rowSound = true := by decide
  have h8 : dictRows8.all rowSound = true := by decide
  have h9 : dictRows9.all rowSound = true := by decide
  have hall : (dictRegion i).all rowSound = true := by
    unfold dictRegion
    split
    case h_10 => rfl
    all_goals assumption
  exact List.all_eq_true.mp hall r h

section Rows
variable {i sub : Nat} {r : DRow}

/-- Records that share their rows are slots, channels, ports and tenants. -/
theorem eq_of_dictBase {n : Nat} (hn : n = 0x2000 ∨ n = 0x7010) (h : dictBase i = n) : i = n := by
  unfold dictBase at h
  split at h
  · omega
  split at h
  · omega
  split at h
  · omega
  split at h
  · omega
  · exact h

theorem dictRow_bounds (h : dictRow i sub = some r) : r.idx = dictBase i ∧ r.lo ≤ sub ∧ sub ≤ r.hi := by
  have := List.find?_some h
  simpa [and_assoc] using this

theorem rowSound_of_dictRow (h : dictRow i sub = some r) : rowSound r = true := rowSound_of_mem (List.mem_of_find?_eq_some h)

theorem sub_lt_of_dictRow (h : dictRow i sub = some r) : sub < 256 := by
  have hs := rowSound_of_dictRow h
  obtain ⟨_, _, hhi⟩ := dictRow_bounds h
  simp only [rowSound, Bool.and_eq_true, decide_eq_true_eq] at hs
  omega

/-- An entry that a write may change is saved, CAL_RESEED and CLEAR_LOW aside. -/
theorem pers_of_dictRow (h : dictRow i sub = some r) (ha : r.acc ≠ .ro ∧ r.acc ≠ .const)
    (h1 : ¬ (i = 0x2000 ∧ sub = 8)) (h2 : ¬ (i = 0x7010 ∧ sub = 7)) : r.pers = true := by
  have hs := rowSound_of_dictRow h
  obtain ⟨hidx, hlo, hhi⟩ := dictRow_bounds h
  simp only [rowSound, Bool.and_eq_true, Bool.or_eq_true, beq_iff_eq, decide_eq_true_eq] at hs
  rcases hs.2 with ((((h | h) | h) | ⟨⟨h, hl⟩, hh⟩) | ⟨⟨h, hl⟩, hh⟩)
  · exact absurd h ha.1
  · exact absurd h ha.2
  · exact h.2
  · exact absurd ⟨eq_of_dictBase (.inl rfl) (hidx.symm.trans h), by omega⟩ h1
  · exact absurd ⟨eq_of_dictBase (.inr rfl) (hidx.symm.trans h), by omega⟩ h2

/-- The tenants' records share their rows. -/
theorem dictRow_tenant {t : Nat} (ht : t < 1024) (sub : Nat) : dictRow (0x6000 + t) sub = dictRow 0x6000 sub := by
  have hregion : dictRegion (0x6000 + t) = dictRegion 0x6000 := by
    unfold dictRegion
    rw [show (0x6000 + t) / 0x1000 = 6 by omega]
  have hbase : dictBase (0x6000 + t) = dictBase 0x6000 := by
    unfold dictBase
    rw [if_neg (by omega), if_neg (by omega), if_neg (by omega), if_pos (by omega)]
    rfl
  rw [dictRow, hregion, hbase, dictRow]

end Rows

/-! ### The checks -/

/-- What a write that no check of Table 17.4 stops has met. -/
structure Passes (s : State) (i sub v : Nat) (r : DRow) : Prop where
  row   : dictRow i sub = some r
  may   : r.acc ≠ .ro ∧ r.acc ≠ .const
  range : rangeBad s i sub r v = false
  state : stateBad s i sub v = false

section Checks
variable {s : State} {p : Path} {i sub v c : Nat} {r : DRow} {data : List Byte}

theorem ite_some_eq_none {α : Type} {c : Prop} [Decidable c] {a : α} {b : Option α} :
    (if c then some a else b) = none ↔ ¬ c ∧ b = none := by
  split <;> simp [*]

theorem findEntry_ok (h : findEntry s i sub = .ok r) (h0 : sub ≠ 0) : dictRow i sub = some r := by
  unfold findEntry at h
  split at h
  · cases h
  split at h
  · cases h
  rw [anyRow, if_neg h0] at h
  split at h
  · cases h
  next hr => cases h; exact hr

theorem passes_of_writeAbort (h : writeAbort s p i sub data = none) : ∃ r, Passes s i sub (ofLe data) r := by
  unfold writeAbort at h
  split at h
  · cases h
  split at h
  · cases h
  next r hfound =>
  rw [ite_some_eq_none, ite_some_eq_none, ite_some_eq_none, ite_some_eq_none] at h
  obtain ⟨hmay, _, hrange, hstate, _⟩ := h
  obtain ⟨h0, hro, hconst, _⟩ : sub ≠ 0 ∧ r.acc ≠ .ro ∧ r.acc ≠ .const ∧ _ := by simpa only [not_or] using hmay
  exact ⟨r, findEntry_ok hfound h0, ⟨hro, hconst⟩, Bool.eq_false_iff.mpr hrange, Bool.eq_false_iff.mpr hstate⟩

namespace Passes
variable (h : Passes s i sub v r)
include h

theorem sub_lt : sub < 256 := sub_lt_of_dictRow h.row

theorem le_max : v ≤ r.max := by
  have hr := h.range
  unfold rangeBad at hr
  split at hr
  · cases hr
  · omega

/-- An entry that may be written is none of those the module writes for itself. -/
theorem dk_ne_fixed {j k : Nat} (hk : k < 256)
    (hfixed : (dictRow j k).all (fun r => r.acc == .ro || r.acc == .const) = true) : dk i sub ≠ dk j k := by
  refine dk_ne _ _ _ _ hk h.sub_lt ?_
  by_contra hsame
  obtain ⟨rfl, rfl⟩ : i = j ∧ sub = k := by omega
  rw [h.row] at hfixed
  simp only [Option.all_some, Bool.or_eq_true, beq_iff_eq] at hfixed
  exact hfixed.elim h.may.1 h.may.2

theorem dk_ne_writes : dk i sub ≠ dk 0x1200 6 := h.dk_ne_fixed (by omega) (by decide)
theorem dk_ne_calState : dk i sub ≠ dk 0x2000 7 := h.dk_ne_fixed (by omega) (by decide)

theorem dget_persist : dget (persist s i sub v) i sub = v := dget_persist_same _ _ _ _ h.dk_ne_writes

theorem pers (h1 : ¬ (i = 0x2000 ∧ sub = 8)) (h2 : ¬ (i = 0x7010 ∧ sub = 7)) : (dictRow i sub).any (·.pers) = true := by
  rw [h.row]
  exact pers_of_dictRow h.row h.may h1 h2

end Passes

end Checks

/-! ### The landing policy (R123) -/

section Landing
variable {s : State} {i sub v k : Nat}

/-- What entries saved one after another hold. -/
theorem dget_foldl_persist (f : Nat → Nat) (hi : i ≠ 0x1200) (hk : k < 256) {l : List Nat} (hl : ∀ j ∈ l, j < 256) :
    dget (l.foldl (fun s j => persist s i j (f j)) s) i k = if k ∈ l then f k else dget s i k := by
  have hcount (j : Nat) (hj : j < 256) : dk i j ≠ dk 0x1200 6 := dk_ne _ _ _ _ (by omega) hj (.inl hi)
  induction l generalizing s with
  | nil => rfl
  | cons j l ih =>
    rw [List.foldl_cons, ih fun m hm => hl m (List.mem_cons_of_mem j hm)]
    by_cases hkl : k ∈ l
    · rw [if_pos hkl, if_pos (List.mem_cons_of_mem j hkl)]
    rw [if_neg hkl]
    by_cases hkj : k = j
    · subst hkj
      rw [dget_persist_same _ _ _ _ (hcount k hk), if_pos List.mem_cons_self]
    · rw [dget_persist_other _ _ _ _ _ _ (dk_ne _ _ _ _ (hl j List.mem_cons_self) hk (.inr hkj)) (hcount k hk),
        if_neg (by simp [hkj, hkl])]

theorem settings_growLanding (s : State) : settings (growLanding s) = settings s := by
  have hland (l : List Nat) (u : State) :
      settings (l.foldl (fun s b => modBlk s b (fun x => { x with pool := 1, open_ := false })) u) = settings u :=
    settings_foldl (f := fun s b => modBlk s b (fun x => { x with pool := 1, open_ := false })) (fun _ _ => rfl) l u
  unfold growLanding
  dsimp only
  split
  · rfl
  · exact hland _ (draw s)

/-- The fields of a policy fit their bits. -/
theorem landingField_lt (n k : Nat) : landingField n k < 256 ∧ landingField n 3 ≤ 1 := by
  have hbit : b2n (bitOf n 16) ≤ 1 := by unfold b2n; split <;> omega
  refine ⟨?_, hbit⟩
  unfold landingField bitsOf
  split <;> omega

theorem landingWith_eq (s : State) (sub v : Nat) : landingWith s sub v =
    (if 1 = sub then v else landingField (landNow s) 1) + (if 2 = sub then v else landingField (landNow s) 2) * 2 ^ 8 +
      (if 3 = sub then v else landingField (landNow s) 3) * 2 ^ 16 +
      (if 4 = sub then v else landingField (landNow s) 4) * 2 ^ 24 := rfl

/-- A policy with one field replaced reads so in that field. -/
theorem landingField_landingWith (hs : 1 ≤ sub ∧ sub ≤ 4) (hv : v < 256) (h3 : sub = 3 → v ≤ 1) :
    landingField (landingWith s sub v) sub = v := by
  obtain ⟨h1, hbit⟩ := landingField_lt (landNow s) 1
  have h2 := (landingField_lt (landNow s) 2).1
  have h4 := (landingField_lt (landNow s) 4).1
  have hcases : sub = 1 ∨ sub = 2 ∨ sub = 3 ∨ sub = 4 := by omega
  rw [landingWith_eq]
  generalize landingField (landNow s) 1 = f1 at *
  generalize landingField (landNow s) 2 = f2 at *
  generalize landingField (landNow s) 3 = f3 at *
  generalize landingField (landNow s) 4 = f4 at *
  rcases hcases with rfl | rfl | rfl | rfl
  · simp [landingField, bitsOf]
    omega
  · simp [landingField, bitsOf]
    omega
  · have hv1 : v = 0 ∨ v = 1 := by have := h3 rfl; omega
    rcases hv1 with rfl | rfl <;> simp [landingField, bitOf, b2n] <;> omega
  · simp [landingField, bitsOf]
    omega

/-- R123: a policy in range whose lines are not worn is saved field by field. -/
theorem dget_applyLanding {n : Nat} (hok : landingOk s n = true)
    (hw : [1, 2, 3, 4].find? (fun k => entryWorn s 0x4010 k && dget s 0x4010 k != landingField n k) = none)
    (hk : 1 ≤ k ∧ k ≤ 4) : dget (applyLanding s n true).2 0x4010 k = landingField n k := by
  have hcounts : counted (dk 0x4010 k) = false := by
    have : k = 1 ∨ k = 2 ∨ k = 3 ∨ k = 4 := by omega
    rcases this with rfl | rfl | rfl | rfl <;> rfl
  have hgrown (u : State) (g : Fn → Fn) : dget (growLanding (modFn u 0 g)) 0x4010 k = dget u 0x4010 k :=
    dget_of_settings (settings_growLanding (modFn u 0 g)) hcounts
  have hmem : k ∈ [1, 2, 3, 4] := by
    simp only [List.mem_cons, List.not_mem_nil, or_false]
    omega
  rw [applyLanding, hok, hw, Bool.not_true, if_neg Bool.false_ne_true, if_pos rfl]
  dsimp only
  rw [hgrown, dget_foldl_persist (landingField n) (by omega) (by omega) (by simp), if_pos hmem]

end Landing

end Sys2Proof.Machine
end

section
/-!
SUPPORT. The rows that write the dictionary: what an access answers, the entries that are commands, lease entries, and
the spare lines of the logbook (R436 to R440, R447, R448, R454).
-/
namespace Sys2Proof.Machine

/-! ### What an entry holds after its write -/

section Writes
variable {s : State} {i sub v : Nat} {r : DRow}

/-- A calibration entry holds what was written (R403). -/
theorem Passes.dget_setCal (h : Passes s i sub v r) : dget (setCal s i sub v) i sub = v := by
  unfold setCal
  split
  next hsame => exact hsame
  next =>
    dsimp only
    split
    · rw [dget_dset_other _ _ _ _ _ _ h.dk_ne_calState, h.dget_persist]
    · exact h.dget_persist

theorem dget_sendFrame_other {j k port : Nat} (hk : k < 256) (h9 : k ≠ 9) (u : State) (b : List Byte) :
    dget (sendFrame u port b) j k = dget u j k :=
  dget_bump_other _ _ _ _ _ _ (dk_ne _ _ _ _ (by omega) hk (.inr h9))

/-- Heartbeats leave the period as it is. -/
theorem dget_rescheduleBeat (u : State) (old new : Nat) : dget (rescheduleBeat u old new) 0x1100 2 = dget u 0x1100 2 := by
  unfold rescheduleBeat
  split
  · refine (foldl_keeps (dget · 0x1100 2) (f := fun s p => if portEnabled s p then
      sendFrame s p (synFrame s p (hbDest s) 0x10 0 0 0 0 (hbData s)) else s) (fun u p => ?_) [0, 1] _).trans rfl
    split
    · exact dget_sendFrame_other (by omega) (by omega) _ _
    · rfl
  · rfl

/-- The landing entries take values that fit their fields. -/
theorem Passes.landing (h : Passes s 0x4010 sub v r) (h4 : sub ≤ 4) : 1 ≤ sub ∧ v < 256 ∧ (sub = 3 → v ≤ 1) := by
  have hmax := h.le_max
  have hrow := h.row
  have hcases : sub = 0 ∨ sub = 1 ∨ sub = 2 ∨ sub = 3 ∨ sub = 4 := by omega
  rcases hcases with rfl | rfl | rfl | rfl | rfl
  · cases hrow
  all_goals
    cases hrow
    dsimp only at hmax
    omega

theorem Passes.landingOk (h : Passes s 0x4010 sub v r) (h4 : sub ≤ 4) : landingOk s (landingWith s sub v) = true := by
  have hr := h.range
  simp only [rangeBad] at hr
  split at hr
  · cases hr
  split at hr
  · cases hr
  have hslot : slotOf 0x4010 = none := rfl
  rw [hslot] at hr
  simpa [h4] using hr

theorem wornEntry_landing (h4 : sub ≤ 4) (hw : wornEntry s 0x4010 sub v true = none) :
    [1, 2, 3, 4].find? (fun k => entryWorn s 0x4010 k && dget s 0x4010 k != landingField (landingWith s sub v) k) = none := by
  simpa [wornEntry, h4] using hw

/-- R436, R437: an entry that is a value holds what was written. -/
theorem Passes.dget_applyWrite (h : Passes s i sub v r) (hpath : ¬ (i = 0x1100 ∧ sub = 4))
    (hcal : ¬ (i = 0x2000 ∧ sub = 8)) (hlow : ¬ (i = 0x7010 ∧ sub = 7)) (hw : wornEntry s i sub v true = none) :
    dget (applyWrite s i sub true v) i sub = v := by
  unfold applyWrite
  split
  · exact h.dget_setCal
  split
  next hbeat =>
    obtain ⟨rfl, rfl⟩ := hbeat
    rw [dget_rescheduleBeat, h.dget_persist]
  split
  next hland =>
    obtain ⟨rfl, h4⟩ := hland
    obtain ⟨h1, hv, h3⟩ := h.landing h4
    rw [dget_applyLanding (h.landingOk h4) (wornEntry_landing h4 hw) ⟨h1, h4⟩, landingField_landingWith ⟨h1, h4⟩ hv h3]
  split
  next hwp =>
    obtain ⟨rfl, rfl⟩ := hwp
    rw [dget_of_settings (settings_serveAll _ false) (by decide), h.dget_persist]
  split
  next hfw =>
    obtain ⟨rfl, rfl⟩ := hfw
    rw [dget_of_settings (settings_serveAll _ true) (by decide), h.dget_persist]
  rw [if_pos rfl, h.dget_persist]

end Writes

/-! ### Rows that write (R439, R447) -/

/-- An access on a path has been answered with no abort. -/
def answered (p : Path) (i sub : Nat) (u : State) : Prop := ∃ l, u.out = .access p i sub 0 [] :: l

theorem answered_answer (u : State) (p : Path) (i sub n : Nat) :
    answered p i sub (answer u (.access p i sub) (.wrote n)) := ⟨_, rfl⟩

theorem dget_answer_access (u : State) (p : Path) (i sub n j k : Nat) :
    dget (answer u (.access p i sub) (.wrote n)) j k = dget u j k := rfl

section RowWrites
variable {s : State} {p : Path} {x : Instr} {i sub c : Nat} {data : List Byte} (hu : pathUp s p = true)
  (hx : exec x s = rowWrite s p i sub data)
include hu hx

theorem exec_rowWrite : exec x s = .next (dictWrite s p i sub data (.access p i sub)) := by
  rw [hx, rowWrite, when_of hu]

/-- Table 17.4: a write that a check stops aborts with its code and changes nothing. -/
theorem rowWrite_refused (h : writeAbort s p i sub data = some c) : exec x s = .next (emit s (.access p i sub c [])) := by
  rw [exec_rowWrite hu hx, dictWrite, h]
  rfl

/-- A write that passes has its effect and answers. -/
theorem rowWrite_done (hlease : ¬ (0x6000 ≤ i ∧ i < 0x6400) ∨ leaseKind sub = none)
    (h : writeAbort s p i sub data = none) {pers : Bool} (hpers : (dictRow i sub).any (·.pers) = pers)
    (hw : wornEntry s i sub (ofLe data) pers = none) :
    exec x s = .next (answer (applyWrite s i sub pers (ofLe data)) (.access p i sub) (.wrote data.length)) := by
  have hkind : (if 0x6000 ≤ i ∧ i < 0x6400 then leaseKind sub else none) = none := by
    rcases hlease with hi | hk
    · exact if_neg hi
    · rw [hk, ite_self]
  rw [exec_rowWrite hu hx, dictWrite, h]
  dsimp only
  rw [hkind, hpers]
  dsimp only
  rw [hw]

/-- An entry that is a command does what its effect says. -/
theorem rowWrite_does {P : State → Prop} {pers : Bool} (hlease : ¬ (0x6000 ≤ i ∧ i < 0x6400) ∨ leaseKind sub = none)
    (hpers : (dictRow i sub).any (·.pers) = pers)
    (hP : ∀ n, P (answer (applyWrite s i sub pers (ofLe data)) (.access p i sub) (.wrote n))) :
    (∀ c, writeAbort s p i sub data = some c → exec x s = .next (emit s (.access p i sub c []))) ∧
    (writeAbort s p i sub data = none → wornEntry s i sub (ofLe data) ((dictRow i sub).any (·.pers)) = none →
      completes x s (fun u => P u ∧ answered p i sub u)) :=
  ⟨fun _ h => rowWrite_refused hu hx h, fun h hw =>
    ⟨_, rowWrite_done hu hx hlease h hpers (hpers ▸ hw), hP _, answered_answer _ _ _ _ _⟩⟩

/-- A value entry aborts with its code, or holds the value written. -/
theorem rowWrite_sets (hpath : ¬ (i = 0x1100 ∧ sub = 4)) (hcal : ¬ (i = 0x2000 ∧ sub = 8))
    (hlow : ¬ (i = 0x7010 ∧ sub = 7)) (hlease : ¬ (0x6000 ≤ i ∧ i < 0x6400) ∨ leaseKind sub = none) :
    (∀ c, writeAbort s p i sub data = some c → exec x s = .next (emit s (.access p i sub c []))) ∧
    (writeAbort s p i sub data = none → wornEntry s i sub (ofLe data) ((dictRow i sub).any (·.pers)) = none →
      completes x s (fun u => dget u i sub = ofLe data ∧ answered p i sub u)) := by
  refine ⟨fun _ h => rowWrite_refused hu hx h, fun h hw => ?_⟩
  obtain ⟨r, hr⟩ := passes_of_writeAbort h
  have hpers := hr.pers hcal hlow
  rw [hpers] at hw
  exact ⟨_, rowWrite_done hu hx hlease h hpers hw,
    (dget_answer_access _ _ _ _ _ _ _).trans (hr.dget_applyWrite hpath hcal hlow hw), answered_answer _ _ _ _ _⟩

end RowWrites

/-! ### Entries that are commands -/

section Commands
variable {s : State} {v : Nat}

theorem applyWrite_path (pers : Bool) : applyWrite s 0x1100 4 pers v = persist s 0x1100 4 (v % 8 + 8) := rfl

theorem applyWrite_reseed (pers : Bool) : applyWrite s 0x2000 8 pers 1 = reseed s := rfl

theorem applyWrite_clearLow (pers : Bool) : applyWrite s 0x7010 7 pers 1 = clearLow s := rfl

/-- R404: the generic values are in force and stored. -/
theorem reseed_spec (s : State) : (reseed s).power.calGeneric = true ∧ (reseed s).power.calUnstored = false ∧
    dget (reseed s) 0x2000 7 = 2 := by
  unfold reseed
  generalize (List.range (sectionSize 2)).foldl (fun s l => wearLine s (sectionBase 2 + l)) s = u
  exact ⟨rfl, rfl, dget_dset_same _ _ _ _⟩

end Commands

/-! ### Lease entries (R448) -/

section Leases
variable {s : State} {t sub v kind k x : Nat}

theorem counted_tenant (ht : t < 1024) (hk : k < 0x0B) : counted (dk (0x6000 + t) k) = false := by
  simp only [counted, dk, Bool.or_eq_false_iff, beq_eq_false_iff_ne]
  omega

/-- The second of two entries of a tenant, and the first, as saved. -/
theorem dget_persist_pair {j w : Nat} (hk : k < 256) (hj : j < 256) (hne : k ≠ j) (u : State) :
    dget (persist (persist u (0x6000 + t) k x) (0x6000 + t) j w) (0x6000 + t) k = x := by
  rw [dget_persist_other _ _ _ _ _ _ (dk_ne _ _ _ _ hj hk (.inr hne)) (dk_ne _ _ _ _ (by omega) hk (.inl (by omega))),
    dget_persist_tenant]

theorem dget_clearBanks (l : List Nat) (u : State) (i k : Nat) : dget (l.foldl clearBank u) i k = dget u i k :=
  foldl_keeps (dget · i k) (f := clearBank) (fun _ _ => rfl) l u

/-- The state in which the entries of a lease are saved. -/
def leaseSaved (s : State) (t kind v : Nat) : State :=
  (leaseEntries kind v).foldl (fun s e => persist s (0x6000 + t) e.1 e.2) s

/-- A lease of cores and clusters takes cores back; of SLM, clears; of rows, clears banks. None of it touches the
entries. -/
theorem dget_leaseApply_saved (ht : t < 1024) (hk : kind = 0 → k < 0x0B) :
    dget (leaseApply s t kind v) (0x6000 + t) k = dget (leaseSaved s t kind v) (0x6000 + t) k := by
  have hidle (u : State) (h0 : k < 0x0B) : dget (kickIdle (takeBack u t)) (0x6000 + t) k = dget u (0x6000 + t) k :=
    dget_of_settings ((settings_kickIdle _).trans (settings_takeBack u t)) (counted_tenant ht h0)
  unfold leaseApply leaseSaved
  generalize (leaseEntries kind v).foldl (fun s e => persist s (0x6000 + t) e.1 e.2) s = u
  dsimp only
  by_cases h0 : kind = 0
  · subst h0
    exact hidle u (hk rfl)
  rw [if_neg h0]
  by_cases h4 : kind = 4
  · subst h4
    exact dget_clearBanks _ _ _ _
  rw [if_neg h4]
  split <;> rfl

/-- R448: the entries of a lease hold it. -/
theorem dget_leaseApply (ht : t < 1024) (h : (k, x) ∈ leaseEntries kind v) :
    dget (leaseApply s t kind v) (0x6000 + t) k = x := by
  have hsaved : (kind = 0 → k < 0x0B) ∧ dget (leaseSaved s t kind v) (0x6000 + t) k = x := by
    match kind with
    | 0 =>
      simp only [leaseEntries, List.mem_cons, Prod.mk.injEq, List.not_mem_nil, or_false] at h
      rcases h with ⟨rfl, rfl⟩ | ⟨rfl, rfl⟩
      · exact ⟨fun _ => by omega, dget_persist_pair (by omega) (by omega) (by omega) _⟩
      · exact ⟨fun _ => by omega, dget_persist_tenant _ _ _ _⟩
    | 1 =>
      obtain ⟨rfl, rfl⟩ := Prod.mk.inj (List.mem_singleton.mp h)
      exact ⟨by omega, dget_persist_tenant _ _ _ _⟩
    | 2 =>
      obtain ⟨rfl, rfl⟩ := Prod.mk.inj (List.mem_singleton.mp h)
      exact ⟨by omega, dget_persist_tenant _ _ _ _⟩
    | 3 =>
      obtain ⟨rfl, rfl⟩ := Prod.mk.inj (List.mem_singleton.mp h)
      exact ⟨by omega, dget_persist_tenant _ _ _ _⟩
    | 4 =>
      simp only [leaseEntries, List.mem_cons, Prod.mk.injEq, List.not_mem_nil, or_false] at h
      rcases h with ⟨rfl, rfl⟩ | ⟨rfl, rfl⟩
      · exact ⟨by omega, dget_persist_pair (by omega) (by omega) (by omega) _⟩
      · exact ⟨by omega, dget_persist_tenant _ _ _ _⟩
    | n + 5 => cases h
  rw [dget_leaseApply_saved ht hsaved.1, hsaved.2]

/-- The other fields of a tenant's leases are as a lease may set them. -/
structure LeaseInRange (s : State) (t : Nat) : Prop where
  cores    : dget s (0x6000 + t) 2 ≤ 256
  clusters : dget s (0x6000 + t) 3 ≤ 255
  first    : dget s (0x6000 + t) 0x0C ≤ 255
  count    : dget s (0x6000 + t) 0x0D ≤ 256

/-- An entry's lease spells its value among the lease's entries. -/
theorem mem_leaseEntries {r : DRow} (ht : t < 1024) (he : LeaseInRange s t) (h : Passes s (0x6000 + t) sub v r)
    (hk : leaseKind sub = some kind) : (sub, v) ∈ leaseEntries kind (leaseWith s t sub v) := by
  obtain ⟨h2, h3, hc, hd⟩ := he
  have hmax := h.le_max
  have hrow := (dictRow_tenant ht sub).symm.trans h.row
  unfold leaseKind at hk
  split at hk
  case h_1 | h_2 | h_6 | h_7 =>
    cases hk
    cases hrow
    simp only [leaseEntries, leaseWith, List.mem_cons, Prod.mk.injEq, List.not_mem_nil, or_false, bitsOf]
    simp at hmax ⊢
    omega
  case h_3 | h_4 | h_5 =>
    cases hk
    exact List.mem_singleton_self _
  case h_8 => cases hk

/-- While the partner's copy is not awaited, a STATE is answered at once. -/
theorem mirrorState_reply (h1 : s.pair.state ≠ 1) (h4 : s.pair.state ≠ 4) (kind nsid : Nat) (body : List Byte) (r : Reply)
    (n : Nat) : ∃ q, mirrorState s kind nsid body (.reply r n) = answer { s with pair := q } r (.wrote n) := by
  unfold mirrorState
  rw [if_neg (not_or.mpr ⟨h1, h4⟩)]
  split
  · exact ⟨s.pair, rfl⟩
  · exact ⟨_, rfl⟩

/-- A lease whose lines are not worn is in force, and answered. -/
theorem writeLease_done (hw : leaseWorn s t kind (leaseWith s t sub v) = none) (h1 : s.pair.state ≠ 1)
    (h4 : s.pair.state ≠ 4) (r : Reply) (n : Nat) : ∃ q, writeLease s t kind sub v r n =
      answer { leaseApply s t kind (leaseWith s t sub v) with pair := q } r (.wrote n) := by
  have hpair := pair_leaseApply s t kind (leaseWith s t sub v)
  obtain ⟨q, hq⟩ := mirrorState_reply (s := leaseApply s t kind (leaseWith s t sub v)) (by rwa [hpair]) (by rwa [hpair]) 5 0
    (leBytes 4 (t + kind * 65536) ++ leBytes 4 (leaseWith s t sub v) ++ leBytes 8 0) r n
  refine ⟨q, Eq.trans ?_ hq⟩
  dsimp only [writeLease]
  rw [hw]

variable {p : Path} {data : List Byte}

/-- The write of a tenant's lease entry is a Tenant Lease. -/
theorem dictWrite_lease (ht : t < 1024) (hk : leaseKind sub = some kind) (h : writeAbort s p (0x6000 + t) sub data = none)
    (r : Reply) : dictWrite s p (0x6000 + t) sub data r = writeLease s t kind sub (ofLe data) r data.length := by
  have hkind : (if 0x6000 ≤ 0x6000 + t ∧ 0x6000 + t < 0x6400 then leaseKind sub else none) = some kind := by
    rw [if_pos (by omega), hk]
  rw [dictWrite, h]
  dsimp only
  rw [hkind, Nat.add_sub_cancel_left]

/-- R448: a lease entry's write completes with the entry as written. -/
theorem completes_leaseEntryWrite (hu : pathUp s p = true) (ht : t < 1024) (h1 : s.pair.state ≠ 1) (h4 : s.pair.state ≠ 4)
    (he : LeaseInRange s t) (hk : leaseKind sub = some kind)
    (hw : leaseWorn s t kind (leaseWith s t sub (ofLe data)) = none)
    (h : writeAbort s p (0x6000 + t) sub data = none) : completes (.leaseEntryWrite p t sub data) s
      (fun u => dget u (0x6000 + t) sub = ofLe data ∧ answered p (0x6000 + t) sub u) := by
  obtain ⟨r, hr⟩ := passes_of_writeAbort h
  have hheld := dget_leaseApply (s := s) ht (mem_leaseEntries ht he hr hk)
  obtain ⟨q, hq⟩ := writeLease_done hw h1 h4 (.access p (0x6000 + t) sub) data.length
  have hexec := exec_rowWrite (x := .leaseEntryWrite p t sub data) hu rfl
  rw [dictWrite_lease ht hk h, hq] at hexec
  exact ⟨_, hexec, (dget_answer_access _ _ _ _ _ _ _).trans hheld, answered_answer _ _ _ _ _⟩

end Leases

/-! ### Spare lines (R454) -/

section Spares
variable {s : State} {line : Nat}

/-- The logbook once a line has passed to a spare line. -/
def remapped (s : State) (line : Nat) : Logbook :=
  { s.logbook with
    wear := tabSet 0 s.logbook.wear line 0, spares := s.logbook.spares - 1,
    remap := tabPut s.logbook.remap line (4097 - s.logbook.spares), failed := s.logbook.failed.filter (· != 10) }

theorem logbook_emergency (s : State) (code i sub detail : Nat) : (emergency s code i sub detail).logbook = s.logbook := by
  obtain ⟨d, o, m, h⟩ := (onlyMessages_emergency s code i sub detail).frame
  rw [h]

theorem exec_logbookLineRemap (hw : 200000000 - 1024 ≤ tabGet 0 s.logbook.wear line) (hs : 0 < s.logbook.spares) :
    ∃ u, exec (.logbookLineRemap line) s = .next u ∧ u.logbook = remapped s line := by
  refine ⟨_, congrArg Host.Outcome.next (when_of ?_ _ _), ?_⟩
  · rw [Bool.and_eq_true, decide_eq_true_eq, decide_eq_true_eq]
    exact ⟨hw, hs⟩
  · dsimp only
    split
    · exact logbook_emergency _ _ _ _ _
    · rfl

theorem completes_logbookLineRemap (hw : 200000000 - 1024 ≤ tabGet 0 s.logbook.wear line) (hs : 0 < s.logbook.spares) :
    completes (.logbookLineRemap line) s (fun u => u.logbook.spares = s.logbook.spares - 1 ∧
      tabGet 0 u.logbook.remap line = 4097 - s.logbook.spares ∧ tabGet 0 u.logbook.wear line = 0 ∧
      (∀ l, l ≠ line → tabGet 0 u.logbook.wear l = tabGet 0 s.logbook.wear l)) := by
  obtain ⟨u, hu, hl⟩ := exec_logbookLineRemap hw hs
  refine ⟨u, hu, ?_⟩
  dsimp only
  rw [hl]
  exact ⟨rfl, tabGet_put_same _ _ _ _, tabGet_set_same 0 s.logbook.wear line 0, fun l h => tabGet_set_other 0 s.logbook.wear line l 0 h⟩

end Spares

section CommandRows
variable {s : State} {p : Path} {data : List Byte}

theorem dget_pathWrite (n : Nat) : dget (answer (applyWrite s 0x1100 4 true (ofLe data)) (.access p 0x1100 4) (.wrote n))
    0x1100 4 = ofLe data % 8 + 8 := by
  rw [dget_answer_access, applyWrite_path,
    dget_persist_same _ _ _ _ (dk_ne _ _ _ _ (by omega) (by omega) (.inl (by omega)))]

/-- What CAL_RESEED leaves (R404). -/
def Reseeded (u : State) : Prop := u.power.calGeneric = true ∧ u.power.calUnstored = false ∧ dget u 0x2000 7 = 2

theorem reseeded_answer {u : State} (h : Reseeded u) (r : Path) (i sub n : Nat) :
    Reseeded (answer u (.access r i sub) (.wrote n)) := h

theorem reseeded_calReseed (n : Nat) (hv : ofLe data = 1) :
    Reseeded (answer (applyWrite s 0x2000 8 false (ofLe data)) (.access p 0x2000 8) (.wrote n)) := by
  refine reseeded_answer ?_ _ _ _ _
  rw [hv, applyWrite_reseed]
  exact reseed_spec s

theorem clearLow_spec (n : Nat) (hv : ofLe data = 1) :
    let u := answer (applyWrite s 0x7010 7 false (ofLe data)) (.access p 0x7010 7) (.wrote n)
    u.pool.nearLow = (if domainOn s 2 then dictValue s 0x7010 1 else s.pool.nearLow) ∧
      u.pool.farLow = dictValue s 0x7010 2 := by
  rw [hv, applyWrite_clearLow]
  exact ⟨rfl, rfl⟩

end CommandRows

/-- Settles O50: each row by the checks its write meets; value entries through `rowWrite_sets`, the entries that are
commands through `rowWrite_does`, lease entries through their Tenant Lease. -/
theorem dictionaryEntriesTakeWhatIsWritten : Obligations.DictionaryEntriesTakeWhatIsWritten := by
  unfold Obligations.DictionaryEntriesTakeWhatIsWritten
  intro s p i sub k t data hu
  refine ⟨fun hpath hcal hlow hlease => ⟨rowWrite_sets hu rfl hpath hcal hlow (.inl hlease),
      rowWrite_sets hu rfl hpath hcal hlow (.inl hlease)⟩,
    fun hk => ⟨rowWrite_sets hu rfl (by omega) (by omega) (by omega) (.inl (by omega)),
      rowWrite_sets hu rfl (by omega) (by omega) (by omega) (.inl (by omega)),
      rowWrite_sets hu rfl (by omega) (by omega) (by omega) (.inl (by omega))⟩,
    rowWrite_sets hu rfl (by omega) (by omega) (by omega) (.inl (by omega)),
    rowWrite_sets hu rfl (by omega) (by omega) (by omega) (.inl (by omega)),
    fun ht => rowWrite_sets hu rfl (by omega) (by omega) (by omega) (.inr rfl),
    rowWrite_sets hu rfl (by omega) (by omega) (by omega) (.inl (by omega)),
    rowWrite_sets hu rfl (by omega) (by omega) (by omega) (.inl (by omega)),
    rowWrite_sets hu rfl (by omega) (by omega) (by omega) (.inl (by omega)),
    rowWrite_sets hu rfl (by omega) (by omega) (by omega) (.inl (by omega)),
    rowWrite_sets hu rfl (by omega) (by omega) (by omega) (.inl (by omega)),
    rowWrite_sets hu rfl (by omega) (by omega) (by omega) (.inl (by omega)),
    rowWrite_sets hu rfl (by omega) (by omega) (by omega) (.inl (by omega)),
    rowWrite_sets hu rfl (by omega) (by omega) (by omega) (.inl (by omega)),
    rowWrite_sets hu rfl (by omega) (by omega) (by omega) (.inl (by omega)),
    rowWrite_sets hu rfl (by omega) (by omega) (by omega) (.inl (by omega)),
    fun hk => rowWrite_sets hu rfl (by omega) (by omega) (by omega) (.inl (by omega)),
    rowWrite_sets hu rfl (by omega) (by omega) (by omega) (.inl (by omega)),
    rowWrite_does hu rfl (.inl (by omega)) (by decide) dget_pathWrite,
    rowWrite_does hu rfl (.inl (by omega)) (by decide) reseeded_calReseed,
    rowWrite_does hu rfl (.inl (by omega)) (by decide) clearLow_spec,
    fun ht _ h1 h4 h2 h3 hc hd => ⟨fun c h => rowWrite_refused hu rfl h, fun kind hk hw h =>
      completes_leaseEntryWrite hu ht h1 h4 ⟨h2, h3, hc, hd⟩ hk hw h⟩,
    fun line hw hs => completes_logbookLineRemap hw hs⟩

end Sys2Proof.Machine
end
